-- ==== Sys2Proof/Word.lean ====
section
/-! DEFINITION. The word types of the YN-5132 block and the plainest arithmetic on them. -/

namespace Sys2Proof

/-- A register word (R432: registers are 32 bits wide). -/
abbrev Word := BitVec 32

/-- One byte. -/
abbrev Byte := BitVec 8

/-- The 64 bytes of user data of one line, byte `i` in bits `8i+7..8i`. -/
abbrev Line := BitVec 512

/-- The 80-byte stored form of one line: stored word `j` in bits `80j+79..80j` (R90, R91). -/
abbrev Stored := BitVec 640

/-- A sparse array: pairs of index and value, indexes rising, no value equal to the array's default.
Every array of like elements of the device (banks, bays, lanes, ring pairs, fault sources, registers) has this form. -/
abbrev Tab (α : Type) := List (Nat × α)

/-- 2 to the power `k`. -/
abbrev pow2 (k : Nat) : Nat := 2 ^ k

/-- Bit `i` of a natural number. -/
abbrev bitOf (n i : Nat) : Bool := n.testBit i

/-- Bits `hi..lo` of a natural number. -/
def bits (n hi lo : Nat) : Nat := (n / 2 ^ lo) % 2 ^ (hi + 1 - lo)

/-- A Bool as 0 or 1. -/
def b2n (b : Bool) : Nat := if b then 1 else 0

/-- An ascending list of `n` numbers from `a`. -/
abbrev upFrom (a n : Nat) : List Nat := List.range' a n

end Sys2Proof
end

