-- ==== Sys2Proof/Syntax.lean ====
section
/-! DEFINITION. The commands of the block: the rows of the opcode table with their operands, and the operand types.
An operand that tells what the world did (a sensor reading, host data that arrived, a failing wire) is the command's input. -/

namespace Sys2Proof

/-- What the DEC-TED code of the region table finds at the lookup of a command (R31). -/
inductive EccCheck where
  | clean
  | corrected
  | uncorrectable
  deriving DecidableEq, Repr

/-- What the partner answers to a region write within 20 microseconds (R264, R265, R289). -/
inductive PartnerReply where
  | acknowledged
  | refused
  | lost
  deriving DecidableEq, Repr

/-- Stored bits that a read finds inverted: a line by its physical index, and the bit positions 0 to 639 that its first read finds, and
those that a second read of it under R96 finds. -/
structure Flip where
  line : Nat
  bits : List Nat
  again : List Nat
  deriving DecidableEq, Repr

/-- One failing cell of a march: bank number of R317, physical row, column group (R336), and the column of its line; a group above 327
stands for an address-decoder failure (R345). -/
structure CellFail where
  bank : Nat
  row : Nat
  colgrp : Nat
  col : Nat
  deriving DecidableEq, Repr

/-- One sweep of a training pass (R296, R298): the window word, the quantity in the order of R295 (0 rd_dly, 1 rd_vref, 2 wr_dly,
3 wr_vref, 4 stb_dly, 5 ca_dly, 6 ca_vref, 7 xing_dly), and the points at which some bit error was seen. A sweep that is not listed
passes at every point. A strobe pair has one sweep, under its even word. -/
structure Sweep where
  word : Nat
  qty : Nat
  fails : List Nat
  deriving DecidableEq, Repr

/-- What a training pass measured (R296 to R300): its sweeps, whether the tier locked to the standby clock pair or to neither, and whether
the tally store takes its record (R305). -/
structure PassRes where
  bay : Nat
  sweeps : List Sweep
  standby : Bool
  noClock : Bool
  tallyOk : Bool
  deriving DecidableEq, Repr

/-- What a loop test found (R299): the failing wires in ascending order, and the sweeps of the spare words that each tier's bay trains. -/
structure LoopRes where
  wires : List Nat
  trains : List (Nat × List Sweep)
  deriving DecidableEq, Repr

/-- What the fuse array does in a session: bits (row, position) that fail all four pulses,
whether the tally store took the intent record, how many operations of the script have run when the command ends, none where the
session runs to its end, and where a reset or a loss of power cuts the next operation short, how many of its bits program before that
(R326, R328, R325 reason 11, R332, R357). -/
structure FuseEnv where
  failing : List (Nat × Nat)
  tallyOk : Bool
  upTo : Option Nat
  cut : Option Nat
  deriving DecidableEq, Repr

/-- What start-up finds (R358): the BIST_MODE strap, fuse bits that fail while an intent is completed, training results, loop
tests by sub-channel number, failing cells, mills and sub-channel engines whose test fails, flumes by failing front-end
copy, lockstep agreement, SRAM that passes, the tests whose second run stopped short (test_id and the patterns counted, R338),
and the steps of 6.25 mV each voltage search lowered (mill, point, steps). -/
structure StartEnv where
  bistMode : Bool
  fuse : FuseEnv
  passes : List PassRes
  loops : List (Nat × LoopRes)
  cells : List CellFail
  badMills : List Nat
  badEngines : List Nat
  badFronts : List Nat
  sramOk : Bool
  lockstepOk : Bool
  short : List (Nat × Nat)
  searches : List (Nat × Nat × Nat)
  deriving DecidableEq, Repr

/-- The 32 bytes a HEARTBEAT carries (R262). -/
structure HeartbeatMsg where
  deviceId : Nat
  part : Nat
  epoch : Nat
  nonce : Nat
  applied : Nat
  last0 : Nat
  last1 : Nat
  sendPort : Nat
  deriving DecidableEq, Repr

/-- A mirrored region entry the partner sends at a join (R254, R266). -/
structure RegionIn where
  idx : Nat
  entry : BitVec 128
  tag : Nat
  deriving DecidableEq, Repr

/-- A chunk of the partner's dirty bitmap at a join: the granules it sets (R254, R276). -/
structure DirtyIn where
  granules : List Nat
  tag : Nat
  deriving DecidableEq, Repr

/-- One line of a COPY_DATA message (R262). -/
structure CopyLine where
  data : Line
  poison : Bool
  md : BitVec 2
  deriving DecidableEq, Repr

/-- What the reads of one command get from outside: the bytes of host memory that arrived in successful completions (a missing
byte marks its 64-byte unit poisoned, R99), the partner's answers to copy requests by DPA line number (a missing line is a reply
without data or a lost partner, R280), the stored bits found inverted, and what the code of the region table finds at its lookups, by
entry (clean where none is listed, R31). -/
structure OpEnv where
  host : List Host.Cell
  partner : List (Nat × CopyLine)
  flips : List Flip
  ecc : List (Nat × EccCheck)
  deriving DecidableEq, Repr

/-- The SPDM requests the MCTP target may receive (R227, R459). -/
inductive SpdmReq where
  | version
  | capabilities
  | algorithms (offers : Bool)
  | digests
  | certificate (slot off len : Nat)
  | challenge (slot : Nat) (nonce : BitVec 256)
  | measurements (op : Nat) (signed : Bool) (nonce : BitVec 256)
  | session
  deriving DecidableEq, Repr

/-- A TLP fault that a head finds (R226). -/
inductive TlpError where
  | poisoned
  | malformed
  | unsupported
  | unexpected
  deriving DecidableEq, Repr

/-- What an error line does (R419): a pulse, or the start or the end of the condition that holds it. -/
inductive LineChange where
  | pulse
  | rise
  | fall
  deriving DecidableEq, Repr

/-- The writes of R224 to R226 and R479: configuration space, the MSI-X table of BAR2, and the write-one-to-clear error status of AER and
of the CXL RAS capability. -/
inductive ConfigWrite where
  | busMaster (on : Bool)
  | msixEnable (on : Bool)
  | functionMask (on : Bool)
  | vectorMask (vec : Nat) (on : Bool)
  | completionTimeout (v : Nat)
  | maxPayload (v : Nat)
  | maxReadRequest (v : Nat)
  | tenBitTags (on : Bool)
  | relaxedOrdering (on : Bool)
  | idOrdering (on : Bool)
  | vectorMessage (vec : Nat) (addr data : Nat)
  | clearAer (unc cor : Word)
  | clearRas (unc cor : Word)
  deriving DecidableEq, Repr

/-- The commands of the block: one constructor per row of the opcode table. -/
inductive Instr where
  /-- A head takes an M2S MemRd or MemRdData and reads one line, answering with DRS MemData. R218. -/
  | memRd (h tag hpa : Nat) (meta0 : Bool) (ecc : EccCheck)
  /-- A head takes an M2S MemRdFwd and treats it as MemRd. R218. -/
  | memRdFwd (h tag hpa : Nat) (meta0 : Bool) (ecc : EccCheck)
  /-- A head takes an M2S MemSpecRd as a hint that it may drop and never answers with data. R218. -/
  | memSpecRd (h hpa : Nat)
  /-- A head takes an M2S MemInv or MemInvNT, leaves the line unchanged and answers NDR Cmp. R218. -/
  | memInv (h tag hpa : Nat)
  /-- A head takes an M2S MemWr full-line write and forwards it to the flume controller. R218. -/
  | memWr (h tag hpa : Nat) (data : Line) (poison : Bool) (md : Option (BitVec 2)) (ecc : EccCheck)
  /-- A head takes an M2S MemWrFwd and treats it as MemWr. R218. -/
  | memWrFwd (h tag hpa : Nat) (data : Line) (poison : Bool) (md : Option (BitVec 2)) (ecc : EccCheck)
  /-- A head takes an M2S MemWrPtl partial write, to be merged under R98. R218. -/
  | memWrPtl (h tag hpa : Nat) (data : Line) (mask : BitVec 64) (poison : Bool) (md : Option (BitVec 2)) (ecc : EccCheck)
  /-- A commit of an HDM decoder places its DPA range, or fails with Error Not Committed. R24. -/
  | hdmDecoderCommit (h i base size ways gran skip : Nat) (lock commit : Bool)
  /-- The flume controller accepts a waiting request from one of its nine ports into the queue once an entry is free. R45. -/
  | requestAccept (f port : Nat)
  /-- A sub-channel chooses and issues its next legal DRAM command by the ordering of classes, promotion, hits, urgency, direction and age. R46. -/
  | scheduleCommand (f sc gap : Nat)
  /-- A request's age passes its class age limit and it is promoted above every request of classes 1–4. R48. -/
  | agePromotion (f rid : Nat)
  /-- A request's age crosses 50, 75, 90 or 100 percent of its port target and its urgency rises. R49. -/
  | urgencyRise (f rid : Nat)
  /-- An open row idle for idle_close cycles with no hit waiting is closed. R50. -/
  | rowIdleClose (f sc tier bank : Nat)
  /-- A host port stays above its weir for 1 ms, raising one overload notice for the episode. R57. -/
  | sustainedOverload (f h : Nat)
  /-- A write of hold_req 1 makes the flume stop accepting requests, abandon logic slices, stop migration and drain. R59. -/
  | holdFlume (path f : Nat) (v : Word)
  /-- The flume finishes draining, clears holding and sets held. R59. -/
  | flumeHeld (f : Nat)
  /-- A write of hold_req 0 releases the flume, which accepts requests again within 1 µs. R59. -/
  | releaseFlume (path f : Nat) (v : Word)
  /-- A tier finds a command parity error, drives ALERT, and the sub-channel stops, resynchronises and replays from the retry buffer. R62. -/
  | caparError (f sc tier n : Nat) (loop : LoopRes)
  /-- Read data for a line return from the tiers and are decoded word by word into clean, corrected or uncorrectable. R95. -/
  | readDataReturn (f rid : Nat) (flips1 flips2 : List Nat)
  /-- A counting tracker entry expires 1 s after its first count. R103. -/
  | trackerEntryExpiry (f key : Nat)
  /-- An entry waiting after a rewrite sees no further count for 1 s and is freed. R104. -/
  | trackerWaitExpiry (f key : Nat)
  /-- The remap entry is written to the flume's remap record in the tally store, or the failure raises a notice. R105. -/
  | remapTallyWrite (f : Nat) (ok : Bool)
  /-- A bank's refresh falls due and is postponed or issued as class 0 work. R77. -/
  | refreshDue (f sc tier bank : Nat)
  /-- Owed refreshes of a bank become eligible and are issued one at a time or back to back. R78. -/
  | owedRefresh (f sc tier bank : Nat)
  /-- The 256 ms canary timer checks every canary row of a flume and grades its banks. R85. -/
  | canarySweep (f : Nat) (env : OpEnv)
  /-- The scrub of a failed bank completes, the bank enters service and its mirrored lines are refetched. R87. -/
  | retentionScrubDone (f sc tier bank : Nat) (env : OpEnv)
  /-- Class 4 scheduling selects a DRAM BIST slice, which copies one row into a holding buffer. R66. -/
  | dramSliceStart (f sc tier bank row : Nat)
  /-- A DRAM slice finishes its eight elements and writes the holding copy back, to a repair if a fault was found. R340. -/
  | dramSliceEnd (f sc : Nat) (fails : List (Nat × Nat)) (badSpares : List Nat)
  /-- A sub-channel engine starts a logic slice of up to 12 µs and stops issuing. R68. -/
  | logicSliceStart (f sc : Nat)
  /-- A sub-channel logic slice ends and the engine issues again. R68. -/
  | logicSliceEnd (f sc : Nat) (pass : Bool)
  /-- Bay migration copies one row to the spare bay and advances the migration pointer. R70. -/
  | migrationRow (f sc : Nat) (env : OpEnv)
  /-- A write of apply_req while held checks the staged masks' GF(2) rank and brings them into force or refuses them. R38. -/
  | flmMapApply (path f : Nat)
  /-- A write of dispatch_en 0 takes the mill out of dispatch and re-dispatches its unstarted parts. R134. -/
  | milDispatchDisable (path m : Nat) (v : Word)
  /-- Operator descriptor FILL writes full lines repeating an 8-byte pattern. R154. -/
  | fill (m : Nat) (env : OpEnv)
  /-- Operator descriptor COPY writes count bytes from src_a to dst line by line, keeping poison marks. R155. -/
  | copy (m : Nat) (env : OpEnv)
  /-- Operator descriptor SCAN applies a sieve program to a column and writes a bitmap, a row-id list or both. R156. -/
  | scan (m : Nat) (env : OpEnv)
  /-- Operator descriptor COMPACT writes the values whose bitmap bit is set, densely through the output cursor. R158. -/
  | compact (m : Nat) (env : OpEnv)
  /-- Operator descriptor GATHER reads column elements named by a row-id list. R159. -/
  | gather (m : Nat) (env : OpEnv)
  /-- Operator descriptor HASH_BUILD inserts one slot per element into a hash table. R160. -/
  | hashBuild (m : Nat) (env : OpEnv)
  /-- Operator descriptor HASH_PROBE looks up each key in a hash table and writes entries in inner, semi or anti mode. R161. -/
  | hashProbe (m : Nat) (env : OpEnv)
  /-- Operator descriptor AGGREGATE groups elements by key and computes count, sum, min and max. R162. -/
  | aggregate (m : Nat) (env : OpEnv)
  /-- Operator descriptor BITMAP combines two bitmaps by AND, OR, ANDNOT or XOR. R163. -/
  | bitmap (m : Nat) (env : OpEnv)
  /-- Operator descriptor CHECKSUM computes CRC-32C over a range. R164. -/
  | checksum (m : Nat) (env : OpEnv)
  /-- Operator descriptor COMPARE compares two ranges and reports the first difference and the count. R165. -/
  | compare (m : Nat) (env : OpEnv)
  /-- The dispatcher starts a descriptor or chain, checks it and creates its parts. R153. -/
  | descriptorStart (n : Nat) (env : OpEnv)
  /-- A mill takes the next queued part, clears its hopper and starts it. R117. -/
  | partStart (m : Nat)
  /-- A part ends with its status, and the other parts of its descriptor continue or stop by that status. R128. -/
  | partEnd (m : Nat)
  /-- After all parts end, a merge part combines spill records in passes, doubling partitions when the table fills. R175. -/
  | mergePart (did : Nat) (env : OpEnv)
  /-- Every part has ended and every write is accepted and mirrored, so the completion may be posted. R130. -/
  | descriptorComplete (did : Nat)
  /-- An idle mill starts a logic slice of up to 40 µs. R133. -/
  | millLogicSliceStart (m : Nat)
  /-- A held part waits wait_max, so the mill abandons its logic slice and starts the part. R133. -/
  | millSliceWaitExpiry (m : Nat)
  /-- A mill logic slice completes and the mill returns to dispatch. R133. -/
  | millLogicSliceEnd (m : Nat) (pass : Bool)
  /-- Admin descriptor UCODE_LOAD reads, checks and accepts or refuses a microcode image. R136. -/
  | ucodeLoad (did : Nat) (env : OpEnv) (tallyOk : Bool)
  /-- The swap of a target mill is requested; the mill leaves dispatch and waits for its running part. R137. -/
  | microcodeSwap (m : Nat)
  /-- With no part running, the mill exchanges instruction banks, clears its hopper, resets its core and returns to dispatch. R137. -/
  | swapBankExchange (m : Nat)
  /-- A hopper double-bit, instruction-store parity or register parity error ends the part with mill-fault and starts recovery. R141. -/
  | millFault (m kind : Nat)
  /-- A part runs longer than MIL_WDOG.limit and ends with the watchdog status. R141. -/
  | millWatchdog (m : Nat)
  /-- Mill fault recovery completes and the mill returns to dispatch. R141. -/
  | millRecoveryDone (m : Nat)
  /-- A mill's point in force changes and the sequencer orders rail and divider for the raise or lower. R379. -/
  | millOppChange (m : Nat)
  /-- A write of enable 1 while disabled checks the pair's configuration and starts it or sets err 4. R190. -/
  | ringEnable (path n : Nat)
  /-- A write of enable 0 while running discards unstarted slots and drains the pair. R210. -/
  | ringDrain (path n : Nat)
  /-- The last completion of a draining pair is posted, its pointers are zeroed and it is disabled. R210. -/
  | ringDrainDone (n : Nat)
  /-- A write of reset_req stops the pair, stops its operator parts and waits for started work to end. R209. -/
  | ringReset (path n : Nat)
  /-- The last started descriptor of a resetting pair ends and its pointers are zeroed. R209. -/
  | ringResetDone (n : Nat)
  /-- A doorbell write of SQ_TAIL submits descriptors, or is a bad doorbell. R194. -/
  | sqTail (path n : Nat) (v : Word)
  /-- A doorbell write of CQ_HEAD consumes completion records, or is a bad doorbell. R194. -/
  | cqHead (path n : Nat) (v : Word)
  /-- A DMA read of submitted slots completes and sq_head advances past them. R195. -/
  | descriptorFetch (n k : Nat) (host : List Host.Cell)
  /-- A completion record is written to the next completion slot with its phase bit. R203. -/
  | completionPost (n : Nat)
  /-- coal_time passes since the oldest pending completion and an MSI-X message is sent. R205. -/
  | coalesceTimer (n : Nat)
  /-- A message held pending is sent once the function is in D0, bus mastering and MSI-X are enabled, unmasked and the link up. R479. -/
  | msixPendingSend (h vec : Nat)
  /-- Admin descriptor REGION_WRITE checks and applies a region-table entry, with mirror checks where needed. R27. -/
  | regionWrite (did : Nat) (reply : PartnerReply)
  /-- Admin descriptor REGION_READ returns a region-table entry in res_a and res_b. R212. -/
  | regionRead (did : Nat) (ecc : EccCheck)
  /-- Admin descriptor SCRUB reads a DPA range at class 4, writing back corrected and poisoned lines. R111. -/
  | scrub (did : Nat) (env : OpEnv)
  /-- A scrub pass finishes, writes its summary record and posts its completion. R112. -/
  | scrubComplete (did : Nat)
  /-- Admin descriptor POWER_HINT sets or withdraws a head's hint horizon for a flume mask. R213. -/
  | powerHint (did : Nat)
  /-- A hint's horizon passes and the hint lapses. R213. -/
  | hintExpiry (h : Nat)
  /-- Admin descriptor MIRROR_PROMOTE promotes or demotes named mirrored regions. R282. -/
  | mirrorPromote (did : Nat)
  /-- Admin descriptor RESILVER starts a full or incremental resilver of named regions on the primary. R285. -/
  | resilver (did : Nat)
  /-- Every named granule is clear, the regions are in sync and the resilver completes. R288. -/
  | resilverComplete (did : Nat)
  /-- Admin descriptor FUSE_SESSION reads and checks a script, writes the intent record and runs its operations. R323. -/
  | fuseSession (did : Nat) (env : OpEnv) (fuse : FuseEnv)
  /-- A write of FUS_CMD.reread rereads every row at three margins and compares with the shadow. R322. -/
  | fuseReread (path : Nat)
  /-- A reread completes and its drift and marginal counts appear in FUS_REREAD. R322. -/
  | fuseRereadDone
  /-- Admin BIST kind 0 copies the start-up records to host memory. R341. -/
  | bistCopyRecords (did : Nat)
  /-- Admin BIST kind 1 runs slices on every row of a bay. R341. -/
  | bistDramBay (did : Nat) (fails : List CellFail) (short : Option Nat)
  /-- Admin BIST kind 2 takes a mill out of dispatch and tests its logic, hopper and instruction store. R341. -/
  | bistMill (did : Nat)
  /-- Admin BIST kind 3 runs a logic slice of a sub-channel engine. R341. -/
  | bistEngine (did : Nat) (pass : Bool) (short : Option Nat)
  /-- Admin BIST kind 4 runs the loop test of a sub-channel of a held flume. R341. -/
  | bistLoopTest (did : Nat) (loop : LoopRes) (short : Option Nat)
  /-- Admin BIST with restore trains and marches an offline bay and returns it to service poisoned. R343. -/
  | bistRestore (did : Nat) (res : PassRes)
  /-- The BST_PERIOD timer starts a new in-service pass of DRAM, engine and mill slices. R339. -/
  | inServicePass
  /-- A soft repair is written to the flume's soft-repair record within 10 ms. R346. -/
  | repairTallyWrite (f : Nat) (ok : Bool)
  /-- The scan-entry instruction blocks DRAM, clears secrets and SRAM, and routes scan chains to the test port. R344. -/
  | scanEntry
  /-- The private debug instruction clears secrets and SRAM and opens debug where permitted. R365. -/
  | debugEntry
  /-- Test port instruction BYPASS. R365. -/
  | bypass
  /-- Test port instruction IDCODE. R365. -/
  | idcode
  /-- Test port instruction SAMPLE/PRELOAD. R365. -/
  | samplePreload
  /-- Test port instruction EXTEST, effective only while RST_N is low. R365. -/
  | extest
  /-- VDD_AUX enters its window and a power-on reset starts the start-up sequence. R356. -/
  | powerOnReset (env : StartEnv)
  /-- RST_N is held low for at least 10 µs and its release starts the start-up sequence. R356. -/
  | pinReset (env : StartEnv)
  /-- A write to GLB_RESET with key 0xC0DE starts a device reset. R356. -/
  | softwareReset (path : Nat) (v : Word) (env : StartEnv)
  /-- Within 1 ms of a life-cycle word verifying, a device reset begins. R362. -/
  | lifeCycleReset (env : StartEnv)
  /-- Leaving scan or debug causes a device reset whose wipe precedes any DRAM access. R356. -/
  | scanDebugExitReset (env : StartEnv)
  /-- A head reaches L0, negotiating CXL.mem or coming up PCIe only, and enters service. R216. -/
  | headLinkUp (h : Nat) (cxl : Bool) (rate : Nat) (bad : List Nat) (ndr drs : Option Nat)
  /-- A head that failed to reach L0 at 16 GT/s or faster trains again after 1 s. R217. -/
  | headTrainRetry (h : Nat)
  /-- A conventional reset returns the head's configuration, decoders and MSI-X to reset and resets its pairs. R230. -/
  | headConventionalReset (h : Nat)
  /-- A hot reset of a head's link resets that head alone. R230. -/
  | headHotReset (h : Nat)
  /-- A head's link goes down; the head resets its state and pairs. R230. -/
  | headLinkDown (h : Nat)
  /-- An FLR resets the head's pairs and MSI-X, keeping decoders and CXL.mem. R230. -/
  | functionLevelReset (h : Nat)
  /-- A head's function enters D3hot, resets its pairs and stops accepting CXL.mem. R231. -/
  | d3hotEntry (h : Nat)
  /-- A write moves a head's function from D3hot to D0, waking the device if needed. R401. -/
  | d0Entry (h : Nat)
  /-- A head's link enters L1 by ASPM or PCI-PM, refused while its buffers hold anything. R231. -/
  | l1Entry (h : Nat)
  /-- A head's link leaves L1. R231. -/
  | l1Exit (h : Nat)
  /-- A head's response buffer stays full for 1 ms and a notice is counted. R223. -/
  | s2mStarvation (h : Nat)
  /-- A lane's CDR or lane PLL loses lock and its link enters Recovery and chooses a width. R247. -/
  | laneLossOfLock (l : Nat) (pll eq : Bool)
  /-- Every 60 s an excluded lane is tested for 1 ms with PRBS31 and re-admitted if it passes. R249. -/
  | laneRetest (l : Nat)
  /-- A lane retest completes; a pass re-admits the lane for the next Recovery. R250. -/
  | laneRetestDone (l errors : Nat) (lock : Bool)
  /-- Within 1 s of a lane passing, a head with auto_widen or a leat port directs a Recovery. R234. -/
  | autoWidenRecovery (ln : Nat) (failing : List Nat) (eq : Bool)
  /-- A write of LAN_SCAN_CMD.start begins an eye scan or refuses it with state 4. R240. -/
  | eyeScanStart (path l : Nat) (v : Word)
  /-- A scan point's dwell ends, its result word is written and points_done advances. R241. -/
  | eyeScanPoint (l errors : Nat)
  /-- A PRBS checker seeds and declares lock after 1,024 error-free bits. R243. -/
  | prbsLock (l : Nat) (rx : List Bool)
  /-- A locked checker finds more than 256 errors in 1,024 bits, drops lock and reseeds. R243. -/
  | prbsSyncLoss (l : Nat) (rx : List Bool)
  /-- No reference clock edge for 1 µs is a fatal fault. R237. -/
  | referenceLoss
  /-- The core PLL loses lock; a fatal fault follows and AUX moves to the ring oscillator. R373. -/
  | corePllLoss
  /-- A leat port trains at 64 or 32 GT/s, or is disabled and retried after 1 s. R253. -/
  | leatPortTrain (k rate : Nat) (bad : List Nat)
  /-- Every 100 µs each end sends a HEARTBEAT on each port in L0. R254. -/
  | heartbeatSend (k : Nat)
  /-- A received HEARTBEAT is checked for part number, self loop and epoch. R254. -/
  | heartbeat (k : Nat) (hb : HeartbeatMsg)
  /-- Heartbeats, entries and dirty bitmaps have been exchanged and the devices become joined. R254. -/
  | pairJoin (k : Nat) (entries : List RegionIn) (dirty : List DirtyIn)
  /-- A leat flit is received and checked, acknowledged or answered with a NAK. R258. -/
  | flitReceive (k seq : Nat) (crcOk : Bool)
  /-- A sender with unacknowledged flits and no LINK message for 10 µs resends them. R258. -/
  | leatReplayTimeout (k : Nat)
  /-- A leat IDLE slot is received and ignored. R262. -/
  | idle (k : Nat)
  /-- A LINK message acknowledges or NAKs flits and returns credits. R262. -/
  | link (k lastGood : Nat) (nak : Bool) (reqSlots rspSlots : Nat)
  /-- A MIRROR_WRITE from the partner is applied on port 4 and acknowledged, or applied in pond order. R269. -/
  | mirrorWrite (k line : Nat) (data : Line) (md : BitVec 2) (cls tag : Nat)
  /-- A POISON_NOTICE from the partner stores the line poisoned with data 0 and is acknowledged. R263. -/
  | poisonNotice (k line cls tag : Nat)
  /-- An ACK for a run of tags completes sync writes, frees pond entries or clears resilvered granules. R262. -/
  | ack (k cls first count : Nat) (stored : Bool)
  /-- STATE_UPDATE kind 1 installs or matches a mirrored region entry. R264. -/
  | regionEntryUpdate (k idx : Nat) (entry : BitVec 128) (tag : Nat)
  /-- STATE_UPDATE kind 2 clears the partner's mirrored entry. R265. -/
  | regionClearUpdate (k idx tag : Nat)
  /-- STATE_UPDATE kind 3 carries a role change for a region mask. R262. -/
  | roleChangeUpdate (k mask tag : Nat)
  /-- STATE_UPDATE kind 4 writes words of the partner's half of the shared state page. R275. -/
  | sharedPageUpdate (k : Nat) (words : List (Nat × Word)) (tag : Nat)
  /-- STATE_UPDATE kind 5 unions a dirty bitmap chunk, marking granules whole. R276. -/
  | dirtyBitmapChunk (k : Nat) (granules : List Nat) (tag : Nat)
  /-- STATE_UPDATE kind 6 clears resilvered granules' bits. R286. -/
  | granulesClean (k : Nat) (granules : List Nat) (tag : Nat)
  /-- STATE_UPDATE kind 7 makes the old primary stop committing writes to the named regions. R284. -/
  | switchoverRequest (k mask tag : Nat)
  /-- The old primary's outstanding mirroring is acknowledged; it becomes secondary and sends kind 8. R284. -/
  | switchoverQuiesced
  /-- STATE_UPDATE kind 8 makes the promoted device primary and posts the completion. R284. -/
  | switchoverDone (k mask tag : Nat)
  /-- A COPY_REQUEST is served by reading lines in class 1 or 4 and replying with COPY_DATA. R281. -/
  | copyRequest (k line lines : Nat) (refetch : Bool) (tag : Nat) (env : OpEnv)
  /-- COPY_DATA delivers requested lines, or pushed resilver lines that are written and acknowledged. R286. -/
  | copyData (k line : Nat) (push : Bool) (data : List CopyLine) (tag : Nat)
  /-- The next pending pond entry is sent in sequence order once earlier entries have gone. R272. -/
  | pondSend
  /-- The resilver reads the next lines of a set granule and pushes them in COPY_DATA. R286. -/
  | resilverSend (did : Nat) (env : OpEnv)
  /-- A leat port goes down and its traffic moves to the other port, resending later flits. R260. -/
  | leatPortDown (k : Nat)
  /-- A returned port takes back a flume's traffic at the flume's next idle moment. R260. -/
  | leatPortReturn (k : Nat)
  /-- No flit arrives on either port for 3 ms and the partner is lost. R277. -/
  | flitTimeout
  /-- A sync or pond ACK is outstanding longer than ack_limit; ports are disabled and the partner is lost. R277. -/
  | ackLimitExpiry
  /-- A register write to the own half of the shared state page takes effect and is sent in STATE_UPDATE kind 4. R275. -/
  | sharedPageWrite (path off : Nat) (v : Word)
  /-- A write of mode_req while held starts a full training of all 68 bays in the new clock mode. R292. -/
  | modeChange (path f : Nat) (v : Word)
  /-- The retune period passes since a bay's last commit and a retune pass starts. R294. -/
  | retunePeriodExpiry (f sc tier : Nat)
  /-- 1 ms after a refused retune or post-change pass, the pass is repeated. R302. -/
  | retuneRetry (f sc tier : Nat)
  /-- A training pass finishes gathering and its staged values are checked and applied or refused. R300. -/
  | trainingPassEnd (f sc : Nat) (res : PassRes)
  /-- FLM_TRN_CMD cmd 1 starts a full pass of one bay. R311. -/
  | fullPassBay (path f sc tier : Nat)
  /-- FLM_TRN_CMD cmd 2 starts full passes of every bay of a sub-channel. R311. -/
  | fullPassSubchannel (path f sc : Nat)
  /-- FLM_TRN_CMD cmd 3 starts a retune pass of one bay. R311. -/
  | retunePassBay (path f sc tier : Nat)
  /-- FLM_TRN_CMD cmd 4, while held, checks and applies software's staged values of a bay. R301. -/
  | applyStaged (path f sc tier : Nat)
  /-- FLM_TRN_CMD cmd 5, or the device, drives every wire of a sub-channel and steers out failures. R299. -/
  | loopTest (path f sc : Nat) (loop : LoopRes)
  /-- A flume's point changes: the tier bus stops, CLK_FLOW switches, codes are rescaled and post-change passes follow. R381. -/
  | flumeOppChange (f : Nat)
  /-- A regulator output falls below threshold and the clock generator stretches the affected clock. R382. -/
  | droopTrip (f : Nat) (ctl : Bool)
  /-- A drooped output stays above threshold for 256 cycles and clock stretching ends. R382. -/
  | droopRecover (f : Nat) (ctl : Bool)
  /-- A hold passes with no trip and the mill's droop floor falls one point. R383. -/
  | droopHoldExpiry (m : Nat)
  /-- A mill's critical-path monitor warns and its target rises by 6.25 mV. R376. -/
  | monitorWarning (m : Nat)
  /-- A rail leaves its operating window for more than 1 µs, a fatal fault. R384. -/
  | railOutOfWindow (r : Nat)
  /-- VDD_AUX falls below 1.68 V and the device enters the safe state. R385. -/
  | auxBrownout
  /-- VDD_AUX falls below 1.62 V and the device is held in reset. R385. -/
  | auxUndervoltage
  /-- A rail enters its window before one that precedes it; the device halts at step 1. R469. -/
  | sequenceError (r : Nat)
  /-- RST_N rose before every rail was up and 1 s passed without them; the device halts. R469. -/
  | earlyReleaseTimeout
  /-- Every 10 µs or on a horizon change the sequencer chooses the deepest qualifying state and starts agreement. R395. -/
  | sequencerEvaluation (target : Option Nat) (tallyOk : Bool)
  /-- The hold-off after a refusal ends and deeper states open again. R396. -/
  | holdoffExpiry (target : Option Nat)
  /-- A committed entry into Feather, Furl or Brake completes, running any latched wake. R397. -/
  | powerEntryComplete (target : Option Nat)
  /-- A wake event returns a flume to Run through self-refresh exit, training and canary checks. R86. -/
  | flumeWake (f : Nat) (passes : List PassRes) (env : OpEnv)
  /-- A device wake event restores shared domains, including the Brake restore. R398. -/
  | deviceWake (restoreOk : Bool)
  /-- A write to PWR_RUN_REQ wakes named flumes and keeps them in Run or Trim. R398. -/
  | runReqWrite (path : Nat) (v : Word)
  /-- Every 100 µs sensors are read, the tier model updated and effective temperatures formed. R408. -/
  | thermalEvaluation (readings : List Int)
  /-- After 10 ms below release a thermal floor steps down one point. R412. -/
  | throttleStepDown (f : Nat) (mill : Bool)
  /-- An effective 105 °C or a 110 °C comparator trips, a fatal fault. R413. -/
  | thermalTrip (src : Nat)
  /-- Every second the coolant heat-capacity rate and inlet are checked and a coolant fault raised or ended. R415. -/
  | coolantCheck (power : Nat) (tin tout : Int)
  /-- A source's error line pulses or rises; the collector counts it and latches by severity. R423. -/
  | errorLineEvent (g i sev unit detail : Nat) (line : LineChange) (tlp : Option TlpError)
  /-- A source's counting window closes at its last tick and its count returns to 0. R422. -/
  | windowClose (g i : Nat)
  /-- Every 64 µs the collector checks its tables, a parity error being the fatal fault of source (0, 0). R425. -/
  | collectorParitySweep (bad : List Nat)
  /-- A write of FLT_CLEAR clears a source's latch if the sequence is current and the line inactive. R429. -/
  | fltClear (path : Nat) (v : Word)
  /-- A write to a register without a row of its own is checked for shape, busy, mask and class and posted. R436. -/
  | registerWrite (path off : Nat) (data : List Byte) (env : StartEnv)
  /-- A block takes a posted write, judges Held fields and clears busy. R442. -/
  | postedWriteTaken (block : Nat) (loop : LoopRes)
  /-- A read crossing does not complete in 400 ns and returns 0xFFFF_FFFF, logged kind 7. R437. -/
  | registerReadTimeout (path off : Nat)
  /-- A write of the current seq to a status register clears its non-live fields. R440. -/
  | sequenceWriteBack (path off : Nat) (v : Word)
  /-- A write of MBX_SEL clears valid and starts a capture of the selected wide value. R445. -/
  | mailboxSelect (path : Nat) (v : Word)
  /-- A mailbox capture completes with valid set, or err set. R446. -/
  | mailboxCaptureDone (path : Nat) (tallyOk : Bool)
  /-- A write of GRD_HOLD sets or clears the writing path's hold bit. R449. -/
  | guardHold (path : Nat) (v : Word)
  /-- A write of GRD_CMD.commit from a holding path runs a sweep to take as the reference. R449. -/
  | guardCommit (path : Nat)
  /-- The commit sweep completes and GRD_REF takes its result. R449. -/
  | guardCommitDone
  /-- Every 64 µs the guard computes a CRC over guarded contents and compares it when not held. R448. -/
  | guardSweep
  /-- A hold lasts beyond GRD_HOLD_MAX and is cleared on every path with expired set. R450. -/
  | guardHoldExpiry
  /-- A sideband target takes its dynamic address by ENTDAA. R459. -/
  | entdaa (target addr : Nat)
  /-- An unaddressed sideband target requests Hot-Join. R459. -/
  | hotJoin (target : Nat)
  /-- A target reset pattern resets only the sideband targets. R459. -/
  | targetResetPattern
  /-- A register-target private write with op 0x01 makes a register write on path 4. R460. -/
  | sidebandWrite (data : List Byte) (env : StartEnv)
  /-- A register-target private write with op 0x02 sets up a register read on path 4. R460. -/
  | sidebandReadSetup (data : List Byte)
  /-- A private read returns the status byte and data of the last read set-up. R461. -/
  | sidebandRead (words : Nat)
  /-- The MCTP target takes an MCTP message carrying SPDM. R459. -/
  | mctpMessage (msg : SpdmReq)
  /-- SPDM request GET_VERSION. R227. -/
  | getVersion (rsp : Nat)
  /-- SPDM request GET_CAPABILITIES. R227. -/
  | getCapabilities (rsp : Nat)
  /-- SPDM request NEGOTIATE_ALGORITHMS, ECDSA P-384 with SHA-384. R227. -/
  | negotiateAlgorithms (rsp : Nat) (offers : Bool)
  /-- SPDM request GET_DIGESTS. R227. -/
  | getDigests (rsp : Nat)
  /-- SPDM request GET_CERTIFICATE returns the self-signed slot 0 certificate. R367. -/
  | getCertificate (rsp slot off len : Nat)
  /-- SPDM request CHALLENGE, signed with the identity key. R227. -/
  | challenge (rsp slot : Nat) (nonce : BitVec 256)
  /-- SPDM request GET_MEASUREMENTS returns measurement blocks 1–5. R368. -/
  | getMeasurements (rsp op : Nat) (signed : Bool) (nonce : BitVec 256)
  /-- SPDM KEY_EXCHANGE or a session message receives ERROR UnsupportedRequest. R227. -/
  | keyExchange (rsp : Nat)
  /-- A DOE abort discards that head's current request. R227. -/
  | doeAbort (h : Nat)
  /-- A DOE Discovery request. R227. -/
  | doeDiscovery (h index : Nat)
  /-- A CDAT table access returns the fixed DSMAS, DSLBIS and DSEMTS entries. R228. -/
  | cdatRead (h entry : Nat)
  /-- Primary mailbox command Identify. R229. -/
  | identify (h : Nat)
  /-- Primary mailbox command Get Supported Logs. R229. -/
  | getSupportedLogs (h : Nat)
  /-- Primary mailbox command Get Log for the CEL. R229. -/
  | getLog (h off len : Nat)
  /-- Primary mailbox command Get Event Records. R229. -/
  | getEventRecords (h log : Nat)
  /-- Primary mailbox command Clear Event Records. R229. -/
  | clearEventRecords (h log : Nat) (handles : List Nat)
  /-- Primary mailbox command Get Event Interrupt Policy. R229. -/
  | getEventInterruptPolicy (h : Nat)
  /-- Primary mailbox command Set Event Interrupt Policy. R229. -/
  | setEventInterruptPolicy (h : Nat) (pol : Word)
  /-- Primary mailbox command Get Health Info reports life used and hottest tier temperature. R229. -/
  | getHealthInfo (h : Nat)
  /-- Primary mailbox command Identify Memory Device. R229. -/
  | identifyMemoryDevice (h : Nat)
  /-- Primary mailbox command Get Multi-Headed Info reports 4 heads. R229. -/
  | getMultiHeadedInfo (h : Nat)
  /-- Primary mailbox command Get Timestamp. R229. -/
  | getTimestamp (h : Nat)
  /-- Primary mailbox command Set Timestamp. R229. -/
  | setTimestamp (h : Nat) (ts : BitVec 64)
  /-- Any other primary mailbox command returns Unsupported. R229. -/
  | unsupportedMailboxCommand (h opcode : Nat)
  /-- Every hour the tally store's lifetime counters (powered hours, weighted hours, hard faults, consumed counts) are updated. R354. -/
  | lifetimeCounterUpdate (ok : Bool)
  /-- A column-group repair moves one more row through the holding buffer to the spare column group and advances the bank's column pointer. R347. -/
  | columnGroupMoveRow (f sc tier bank : Nat) (env : OpEnv)
  /-- In Feather, Furl, Brake or the safe state, a tier's own refresh timer refreshes a bank and advances its row counter at the interval of its band. R80. -/
  | selfRefreshDue (f sc tier bank : Nat)
  /-- The host, or the leat partner, directs a Recovery of a running link: re-admitted lanes join, the width is chosen again, dfe_freeze clears and eye scans abort. R234. -/
  | linkRecovery (ln : Nat) (failing : List Nat) (eq : Bool)
  /-- The host returns S2M NDR or DRS credits, so the head's response buffer drains and stalled flume completions for port h move again. R223. -/
  | s2mCreditReturn (h ndr drs : Nat)
  /-- A host configuration write changes Bus Master Enable, MSI-X enable or masks, or the Completion Timeout Value, so DMA and MSI-X stop or resume. R225. -/
  | pcieConfigWrite (h : Nat) (cfg : ConfigWrite)
  /-- A supply rail that left its operating window returns to it, and the rail source's condition line goes inactive, so a clear and safe-state exit can succeed. R384. -/
  | railWindowReturn (r : Nat) (env : StartEnv)
  /-- An admin mill test or restore march ends, writes its result records, returns the mill to dispatch or the bay to service, and posts the completion. R341. -/
  | adminBistTestEnd (did : Nat) (pass : Bool) (fails : List CellFail) (short : Option Nat)
  deriving DecidableEq, Repr

end Sys2Proof
end

