-- ==== Sys2Proof/Config.lean ====
section
/-! DEFINITION. What the manual leaves open: the free values. Each is an opaque constant with no body, so no proof can see what it is. -/

namespace Sys2Proof.Config

/-- The NaN a float ADD, SUB or sum yields (R173, R183 name no payload): a function of the operation's width in
bytes and its two operands. Any number of the width; the model sets its exponent and fraction so that it is a NaN. -/
opaque nanPayload : Nat → Nat → Nat → Nat

/-- The nonce a start-up draws (R262: chosen at random at each start-up), by the free-value counter. -/
opaque nonce : Nat → BitVec 32

/-- The P-384 private key the security block draws (R329), by the free-value counter. -/
opaque drawnKey : Nat → BitVec 384

/-- An ECDSA P-384 signature of the identity key (R366): the signer's random number is not stated. -/
opaque signature : Nat → BitVec 768

/-- Energy of one activate, read, write and refresh in nanojoules, and the self-refresh power in milliwatts
of one bay (R408: fixed, no figures given). -/
opaque energy : Nat → Nat

/-- The factory data of rows 10 to 12 (R316): minimum (0) or maximum (1) of a training quantity at an operating point. -/
opaque trimBound : (rows : List (BitVec 256)) → (isMax : Bool) → (quantity opp : Nat) → Nat

/-- The factory data of rows 13 to 16 (R316): the VDD_LOGIC target of a mill at a point, in quarter millivolts. -/
opaque trimTarget : (rows : List (BitVec 256)) → (mill opp : Nat) → Nat

/-- The factory data of rows 17 to 22 (R316): the offset of a sensor, in quarter degrees. -/
opaque trimOffset : (rows : List (BitVec 256)) → (sensor : Nat) → Int

/-- The data bits of a line delivered poisoned that no storage holds (R25, R34, R97 give the mark and no data), by the counter. -/
opaque poisonData : Nat → BitVec 512

/-- The contents of a line whose cells lost their charge or were left unwritten (R73, R81): by the line and the counter. -/
opaque lostLine : Nat → Nat → BitVec 640

/-- What a fuse bit that failed its four pulses reads below the high margin (R326 states only that it fails), by row, margin and counter. -/
opaque weakBits : Nat → Nat → Nat → BitVec 256

/-- Patterns or march operations a self-test defines (R336 gives no numbers), by test kind and 1 for the full setting. -/
opaque patterns : Nat → Nat → Nat

/-- The signature a logic test ends with (R336), by test kind, 1 for the full setting, and 0 for the expected one or a counter. -/
opaque misr : Nat → Nat → Nat → BitVec 32

/-- The DER bytes of the self-signed certificate (R367 fixes its names, key and validity; serial, extensions and the signature's random
number are open), by the identity public key and device_id. -/
opaque certificate : (publicKey : List Byte) → (deviceId : Nat) → List Byte

/-- What IDCODE shifts out (R365 names the instruction and no value). -/
opaque idcode : BitVec 32

/-- The code a tap of a lane's equaliser has adapted to (R239 gives its range and pace, not its value): by lane, tap and time. -/
opaque dfeTap : Nat → Nat → Nat → BitVec 7

/-- Where a lane's pattern generator starts in its sequence (R242 gives no start), by the counter. -/
opaque prbsStart : Nat → BitVec 31

/-- Which of every + 1 periods a generator, or a checker of arriving bits, counts as the injected one (R244 names no first), by the counter. -/
opaque prbsTurn : Nat → Nat

/-- The 8 CRC bytes of a leat flit, which R257 leaves to the PCIe 6.x specification: of the 242 bytes before them. -/
opaque flitCrc : List Byte → BitVec 64

/-- The 6 FEC bytes of a leat flit, likewise: of the 250 bytes before them, at a rate. -/
opaque flitFec : List Byte → (rate : Nat) → BitVec 48

/-- Wilrov's MIPI manufacturer ID (R459 names it and gives no value). -/
opaque manufacturerId : BitVec 15

/-- The nonce of an SPDM response (DMTF: random), by the free-value counter. -/
opaque responderNonce : Nat → BitVec 256

/-- The lines that a training pass leaves in a tier's training buffer (R297 gives no pattern), by the free-value counter. -/
opaque trainLine : Nat → Nat → BitVec 512

/-- The fields of Identify that R229 calls standard and gives no value: vendor, device, subsystem vendor and subsystem IDs, serial number,
largest message. -/
opaque identifyField : Nat → BitVec 64

end Sys2Proof.Config
end

