-- ==== Sys2Proof/Machine/Tab.lean ====
section
/-! DEFINITION. The operations of a sparse array in canonical form, and list helpers. -/

namespace Sys2Proof.Machine

/-- The value at index `k`: the listed one, or the default `d`. -/
def tabGet {α : Type} (d : α) : Tab α → Nat → α
  | [], _ => d
  | (j, v) :: t, k => if j = k then v else tabGet d t k

/-- The array without an entry at `k`. -/
def tabDel {α : Type} : Tab α → Nat → Tab α
  | [], _ => []
  | (j, v) :: t, k => if j = k then t else (j, v) :: tabDel t k

/-- The array with the entry `v` at `k`, in its place. -/
def tabPut {α : Type} : Tab α → Nat → α → Tab α
  | [], k, v => [(k, v)]
  | (j, w) :: t, k, v =>
    if k < j then (k, v) :: (j, w) :: t
    else if j = k then (k, v) :: t
    else (j, w) :: tabPut t k v

/-- Writing `v` at `k`: the default's entry is removed, so equal arrays are equal data. -/
def tabSet {α : Type} [DecidableEq α] (d : α) (t : Tab α) (k : Nat) (v : α) : Tab α :=
  if v = d then tabDel t k else tabPut t k v

/-- Changing the value at `k` by `f`. -/
def tabMod {α : Type} [DecidableEq α] (d : α) (t : Tab α) (k : Nat) (f : α → α) : Tab α :=
  tabSet d t k (f (tabGet d t k))

/-- Changing the values at every index of a list. -/
def tabModAll {α : Type} [DecidableEq α] (d : α) (t : Tab α) (ks : List Nat) (f : Nat → α → α) : Tab α :=
  ks.foldl (fun t k => tabMod d t k (f k)) t

/-- Removing every entry whose index fails `keep`. -/
def tabKeep {α : Type} (t : Tab α) (keep : Nat → Bool) : Tab α := t.filter fun e => keep e.1

/-- The canonical form: indexes rising, no entry equal to the default. -/
abbrev tabWf {α : Type} (d : α) (t : Tab α) : Prop :=
  t.Pairwise (fun a b => a.1 < b.1) ∧ ∀ e ∈ t, e.2 ≠ d

/-- The first element of a list that meets `p`, and the list without it. -/
def takeFirst {α : Type} (p : α → Bool) : List α → Option (α × List α)
  | [] => none
  | a :: l => if p a then some (a, l) else (takeFirst p l).map fun r => (r.1, a :: r.2)

/-- The list with the elements that meet `p` changed by `f`. -/
def mapWhere {α : Type} (p : α → Bool) (f : α → α) (l : List α) : List α :=
  l.map fun a => if p a then f a else a

/-- Element `i` of a list of naturals, 0 beyond its end. -/
def natAt (l : List Nat) (i : Nat) : Nat := l.getD i 0

/-- Adding 1 with saturation at `m`. -/
def satInc (m n : Nat) : Nat := if n < m then n + 1 else m

/-- The lesser of a list of naturals and a start value. -/
def minOf (d : Nat) (l : List Nat) : Nat := l.foldl min d

/-- Sorted without repeats: insertion of one number. -/
def insertNat (k : Nat) : List Nat → List Nat
  | [] => [k]
  | j :: t => if k < j then k :: j :: t else if k = j then j :: t else j :: insertNat k t

/-- `n` little-endian bytes of a number. -/
def leBytes (n v : Nat) : List Byte := (List.range n).map fun i => BitVec.ofNat 8 (v / 2 ^ (8 * i))

/-- The number that little-endian bytes spell (R5). -/
def leNat : List Byte → Nat
  | [] => 0
  | b :: t => b.toNat + 256 * leNat t

/-- The number that big-endian bytes spell. -/
def beNat (l : List Byte) : Nat := l.foldl (fun a b => a * 256 + b.toNat) 0

/-- `n` big-endian bytes of a number. -/
def beBytes (n v : Nat) : List Byte := (leBytes n v).reverse

/-- Bytes `off` to `off + n - 1` of a byte string. -/
def slice (l : List Byte) (off n : Nat) : List Byte := (l.drop off).take n

/-- The little-endian field at `off`, `n` bytes wide. -/
def fieldLe (l : List Byte) (off n : Nat) : Nat := leNat (slice l off n)

/-- Every byte of the string is 0. -/
def allZero (l : List Byte) : Bool := l.all (· == 0)

end Sys2Proof.Machine
end

