-- ==== Sys2Proof/Machine/Float.lean ====
section
/-! DEFINITION. IEEE 754 values of widths 2, 4 and 8 bytes and the E4M3 format of width 1 (R150, R173, R183). -/

namespace Sys2Proof.Machine

/-- A float's value: not a number, an infinity, or the exact number (-1)^neg * m * 2^e. -/
inductive FVal where
  | nan
  | inf (neg : Bool)
  | fin (neg : Bool) (m : Nat) (e : Int)
  deriving DecidableEq, Repr

/-- Fraction bits of the format of a width in bytes (R150). -/
def fracBits (w : Nat) : Nat := if w = 1 then 3 else if w = 2 then 10 else if w = 4 then 23 else 52

/-- Exponent bits of the format of a width in bytes. -/
def expBits (w : Nat) : Nat := if w = 1 then 4 else if w = 2 then 5 else if w = 4 then 8 else 11

/-- The exponent of the least subnormal's unit. -/
def unitExp (w : Nat) : Int := 2 - (2 ^ (expBits w - 1) : Int) - fracBits w

/-- The value a bit pattern of width `w` bytes stands for. E4M3 has no infinities (R150). -/
def floatVal (w n : Nat) : FVal :=
  let mb := fracBits w
  let frac := n % 2 ^ mb
  let ex := (n / 2 ^ mb) % 2 ^ expBits w
  let neg := n.testBit (8 * w - 1)
  if w = 1 then
    if ex = 15 ∧ frac = 7 then .nan
    else if ex = 0 then .fin neg frac (unitExp w)
    else .fin neg (frac + 2 ^ mb) (unitExp w + (ex - 1 : Nat))
  else if ex = 2 ^ expBits w - 1 then (if frac = 0 then .inf neg else .nan)
  else if ex = 0 then .fin neg frac (unitExp w)
  else .fin neg (frac + 2 ^ mb) (unitExp w + (ex - 1 : Nat))

/-- The signed integer a finite value is, in units of 2^u; `u` at most its exponent. -/
def scaled (neg : Bool) (m : Nat) (e u : Int) : Int :=
  let k : Nat := m * 2 ^ (e - u).toNat
  if neg then - (k : Int) else k

/-- Comparison of two values, none when unordered; -0 equals +0. -/
def floatCmp : FVal → FVal → Option Ordering
  | .nan, _ => none
  | _, .nan => none
  | .inf a, .inf b => some (if a = b then .eq else if a then .lt else .gt)
  | .inf a, .fin .. => some (if a then .lt else .gt)
  | .fin .., .inf b => some (if b then .gt else .lt)
  | .fin n1 m1 e1, .fin n2 m2 e2 =>
    let u := min e1 e2
    let a := scaled n1 m1 e1 u
    let b := scaled n2 m2 e2 u
    some (if a < b then .lt else if a = b then .eq else .gt)

/-- The bit pattern of an infinity. -/
def infBits (w : Nat) (neg : Bool) : Nat :=
  (2 ^ expBits w - 1) * 2 ^ fracBits w + (if neg then 2 ^ (8 * w - 1) else 0)

/-- The NaN of an operation: quiet, its other bits free (R183 states no payload). -/
def nanBits (w a b : Nat) : Nat :=
  let f := Config.nanPayload w a b % 2 ^ (8 * w)
  let quiet := (2 ^ expBits w - 1) * 2 ^ fracBits w + 2 ^ (fracBits w - 1)
  f ||| quiet

/-- Rounding m / 2^k to the nearest integer, ties to even. -/
def roundEven (m k : Nat) : Nat :=
  let q := m / 2 ^ k
  let r := m % 2 ^ k
  if 2 * r > 2 ^ k then q + 1 else if 2 * r < 2 ^ k then q else q + q % 2

/-- The pattern nearest to (-1)^neg * m * 2^e, ties to even (R183). -/
def floatRound (w : Nat) (neg : Bool) (m : Nat) (e : Int) : Nat :=
  let sign := if neg then 2 ^ (8 * w - 1) else 0
  if m = 0 then sign else
  let p := fracBits w + 1
  let q0 : Int := max (e + (Nat.log2 m + 1 : Nat) - p) (unitExp w)
  let m0 := if q0 ≤ e then m * 2 ^ (e - q0).toNat else roundEven m (q0 - e).toNat
  let carry := decide (m0 = 2 ^ p)
  let m1 := if carry then 2 ^ (p - 1) else m0
  let q1 : Int := if carry then q0 + 1 else q0
  if m1 < 2 ^ fracBits w then sign + m1
  else
    let ex := (q1 - unitExp w).toNat + 1
    if 2 ^ expBits w - 1 ≤ ex then infBits w neg
    else sign + ex * 2 ^ fracBits w + (m1 - 2 ^ fracBits w)

/-- Sum of two patterns of width `w`, round to nearest even (R183). -/
def floatAdd (w a b : Nat) : Nat :=
  match floatVal w a, floatVal w b with
  | .nan, _ => nanBits w a b
  | _, .nan => nanBits w a b
  | .inf x, .inf y => if x = y then infBits w x else nanBits w a b
  | .inf x, .fin .. => infBits w x
  | .fin .., .inf y => infBits w y
  | .fin n1 m1 e1, .fin n2 m2 e2 =>
    let u := min e1 e2
    let t := scaled n1 m1 e1 u + scaled n2 m2 e2 u
    if t = 0 then (if n1 && n2 then 2 ^ (8 * w - 1) else 0)
    else floatRound w (decide (t < 0)) t.natAbs u

/-- The pattern with its sign bit flipped. -/
def floatNeg (w a : Nat) : Nat := a ^^^ 2 ^ (8 * w - 1)

/-- Difference of two patterns. -/
def floatSub (w a b : Nat) : Nat := floatAdd w a (floatNeg w b)

/-- Exact conversion to binary64 (R173). -/
def toBinary64 (w a : Nat) : Nat :=
  match floatVal w a with
  | .nan => nanBits 8 a a
  | .inf n => infBits 8 n
  | .fin n m e => floatRound 8 n m e

/-- Whether a pattern is a NaN. -/
def floatIsNan (w a : Nat) : Bool := floatVal w a == .nan

/-- `a` ranks below `b` in the order of R173, where -0 ranks below +0; neither is a NaN. -/
def floatBelow (w a b : Nat) : Bool :=
  match floatCmp (floatVal w a) (floatVal w b) with
  | some .lt => true
  | some .eq => a.testBit (8 * w - 1) && !b.testBit (8 * w - 1)
  | _ => false

/-- MIN of R183. -/
def floatMin (w a b : Nat) : Nat :=
  if floatIsNan w a then (if floatIsNan w b then a else b)
  else if floatIsNan w b then a
  else if floatBelow w b a then b else a

/-- MAX of R183. -/
def floatMax (w a b : Nat) : Nat :=
  if floatIsNan w a then (if floatIsNan w b then a else b)
  else if floatIsNan w b then a
  else if floatBelow w a b then b else a

end Sys2Proof.Machine
end

