-- ==== Sys2Proof/Machine/Codes.lean ====
section
/-! DEFINITION. The codes the device computes: CRC-32C (R164), the stored-word code (R90), SHA-384 and ECDSA P-384 (R135, R329). -/

namespace Sys2Proof.Machine

/-! CRC-32C (R164): the Castagnoli polynomial, reflected, initial value and final exclusive-or all ones. -/

/-- One bit of the reflected division. -/
def crcBit (c : Nat) : Nat := if c % 2 = 1 then (c / 2) ^^^ 0x82F63B78 else c / 2

/-- One byte of the reflected division. -/
def crcByte (c : Nat) (b : Byte) : Nat :=
  crcBit (crcBit (crcBit (crcBit (crcBit (crcBit (crcBit (crcBit (c ^^^ b.toNat))))))))

/-- The CRC of the bytes that gave `crcIn` followed by `l`; a `crcIn` of 0 starts afresh (R164). -/
def crc32c (crcIn : Nat) (l : List Byte) : Nat :=
  (l.foldl crcByte (crcIn ^^^ 0xFFFFFFFF)) ^^^ 0xFFFFFFFF

/-! The stored-word code (R90): extended, shortened narrow-sense BCH over GF(2^7), distance 6. -/

/-- Multiplication by the root of x^7 + x^3 + 1. -/
def gfDouble (a : Nat) : Nat := if a < 64 then 2 * a else (2 * a) ^^^ 0x89

/-- The power `k` of the root. -/
def gfPow : Nat → Nat
  | 0 => 1
  | k + 1 => gfDouble (gfPow k)

/-- The sum over the set positions `p < n` of a word of the root to the power `m * p`. -/
def gfSum (m : Nat) (c : Nat) : Nat → Nat
  | 0 => 0
  | p + 1 => gfSum m c p ^^^ (if c.testBit p then gfPow (m * p % 127) else 0)

/-- Whether the number of set positions below `n` is odd. -/
def parityBelow (c : Nat) : Nat → Bool
  | 0 => false
  | p + 1 => xor (parityBelow c p) (c.testBit p)

/-- The three sums of R90 of an 80-bit word. -/
structure Syndrome where
  s1 : Nat
  s3 : Nat
  odd : Bool
  deriving DecidableEq, Repr

/-- The three sums of R90. -/
def syndrome (c : Nat) : Syndrome := ⟨gfSum 1 c 79, gfSum 3 c 79, parityBelow c 80⟩

/-- A stored word is a codeword when all three sums are zero (R90). -/
def isCodeword (c : Nat) : Bool := syndrome c == ⟨0, 0, false⟩

/-- The syndrome of a single wrong position. -/
def posSyndrome (p : Nat) : Syndrome :=
  if p < 79 then ⟨gfPow (p % 127), gfPow (3 * p % 127), true⟩ else ⟨0, 0, true⟩

/-- Remainder of a polynomial of `k + 14` bits by the generator of degree 14, the product of the minimal
polynomials of the root and of its cube. -/
def polyMod (a : Nat) : Nat → Nat
  | 0 => a
  | k + 1 => polyMod (if a.testBit (k + 14) then a ^^^ (0x4377 <<< k) else a) k

/-- The encoder of R90: check bits at positions 65 to 78 and parity at 79, for 64 data bits and one metadata bit. -/
def bchEncode (dm : Nat) : Nat :=
  let d := dm % 2 ^ 65
  let r := polyMod (d <<< 62) 113
  let c := d + (r <<< 65)
  c + (if parityBelow c 79 then 2 ^ 79 else 0)

/-- The outcome of decoding one stored word (R95): the corrected word and how many positions outside the erased
ones were corrected, or none when the error is detected and cannot be corrected. -/
def bchSearch2 (s : Syndrome) : Option (Nat × Nat) :=
  (List.range 80).findSome? fun p =>
    (List.range' (p + 1) (79 - p)).findSome? fun q =>
      let a := posSyndrome p
      let b := posSyndrome q
      if (a.s1 ^^^ b.s1) = s.s1 ∧ (a.s3 ^^^ b.s3) = s.s3 then some (p, q) else none

/-- The position of a single error, outside the erased ones. -/
def bchSearch1 (s : Syndrome) (erased : List Nat) : Option Nat :=
  (List.range 80).find? fun p => posSyndrome p == s && !erased.contains p

/-- Every filling of the erased positions. -/
def fillings (c : Nat) : List Nat → List Nat
  | [] => [c]
  | p :: t => (fillings c t).flatMap fun w => [w, w ^^^ 2 ^ p]

/-- Decoding with up to two erased positions (R108): no erasure corrects two errors, one or two erasures correct
the erasures and one error. -/
def bchDecode (c : Nat) (erased : List Nat) : Option (Nat × Nat) :=
  let ws := fillings c erased
  match ws.find? isCodeword with
  | some w => some (w, 0)
  | none =>
    match ws.findSome? fun w => (bchSearch1 (syndrome w) erased).map fun p => w ^^^ 2 ^ p with
    | some w => some (w, 1)
    | none =>
      if erased.isEmpty ∧ (syndrome c).odd = false then
        (bchSearch2 (syndrome c)).map fun pq => (c ^^^ 2 ^ pq.1 ^^^ 2 ^ pq.2, 2)
      else none

/-! SHA-384 (FIPS 180-4, named by R135 and R142). -/

/-- The largest root below `a + 2^bits` whose power `k` does not pass `n`: from `a`, bit by bit. -/
def rootFrom (k n : Nat) : (bits : Nat) → (a : Nat) → Nat
  | 0, a => a
  | b + 1, a => rootFrom k n b (if (a + 2 ^ b) ^ k ≤ n then a + 2 ^ b else a)

/-- The first 64 bits of the fraction of the root `k` of a number below 512. -/
def rootFraction (k n : Nat) : Nat := rootFrom k (n * 2 ^ (64 * k)) 69 0 % 2 ^ 64

/-- A number with no divisor between 1 and itself; those asked are below 441, so a divisor below 21 is enough. -/
def isPrime (n : Nat) : Bool := decide (2 ≤ n) && (List.range' 2 19).all fun d => n % d != 0 || n == d

/-- The round constants: the fractions of the cube roots of the first 80 primes, of which 409 is the last. -/
def shaK : List Nat := ((List.range 410).filter isPrime).map (rootFraction 3)

/-- The initial hash value of SHA-384: the fractions of the square roots of the ninth to the sixteenth prime, 23 to 53. -/
def sha384Init : List Nat := ((List.range' 23 31).filter isPrime).map (rootFraction 2)

/-- 64-bit rotation to the right. -/
def ror64 (x k : Nat) : Nat := (x >>> k) + (x % 2 ^ k) * 2 ^ (64 - k)

/-- Addition modulo 2^64. -/
def add64 (a b : Nat) : Nat := (a + b) % 2 ^ 64

/-- The message schedule, newest word first: `n` more words. -/
def shaExpand : Nat → List Nat → List Nat
  | 0, w => w
  | n + 1, w =>
    let w2 := natAt w 1
    let w15 := natAt w 14
    let s0 := ror64 w15 1 ^^^ ror64 w15 8 ^^^ (w15 >>> 7)
    let s1 := ror64 w2 19 ^^^ ror64 w2 61 ^^^ (w2 >>> 6)
    shaExpand n ((natAt w 15 + s0 + natAt w 6 + s1) % 2 ^ 64 :: w)

/-- One round on the eight working words. -/
def shaRound (h : List Nat) (kw : Nat × Nat) : List Nat :=
  let a := natAt h 0
  let b := natAt h 1
  let c := natAt h 2
  let e := natAt h 4
  let f := natAt h 5
  let g := natAt h 6
  let s1 := ror64 e 14 ^^^ ror64 e 18 ^^^ ror64 e 41
  let ch := (e &&& f) ^^^ ((e ^^^ (2 ^ 64 - 1)) &&& g)
  let t1 := natAt h 7 + s1 + ch + kw.1 + kw.2
  let s0 := ror64 a 28 ^^^ ror64 a 34 ^^^ ror64 a 39
  let maj := (a &&& b) ^^^ (a &&& c) ^^^ (b &&& c)
  [(t1 + s0 + maj) % 2 ^ 64, a, b, c, add64 (natAt h 3) t1, e, f, g]

/-- One 128-byte block. -/
def shaBlock (h : List Nat) (blk : List Byte) : List Nat :=
  let w0 := (List.range 16).map fun i => beNat (slice blk (8 * i) 8)
  let w := (shaExpand 64 w0.reverse).reverse
  let r := (shaK.zip w).foldl shaRound h
  (h.zip r).map fun p => add64 p.1 p.2

/-- The blocks of a padded message, `n` of them. -/
def shaBlocks : Nat → List Nat → List Byte → List Nat
  | 0, h, _ => h
  | n + 1, h, l => shaBlocks n (shaBlock h (l.take 128)) (l.drop 128)

/-- SHA-384 of a byte string, 48 bytes. -/
def sha384 (l : List Byte) : List Byte :=
  let pad := l ++ 0x80#8 :: List.replicate ((239 - l.length % 128) % 128) 0#8 ++ beBytes 16 (8 * l.length)
  let h := shaBlocks (pad.length / 128) sha384Init pad
  (h.take 6).flatMap fun x => beBytes 8 x

/-! The curve P-384 (FIPS 186-4, named by R135, R314 and R329). -/

/-- The field prime. -/
def p384p : Nat := 2 ^ 384 - 2 ^ 128 - 2 ^ 96 + 2 ^ 32 - 1
/-- The group order. -/
def p384n : Nat := 0xffffffffffffffffffffffffffffffffffffffffffffffffc7634d81f4372ddf581a0db248b0a77aecec196accc52973
/-- The constant b. -/
def p384b : Nat := 0xb3312fa7e23ee7e4988e056be3f82d19181d9c6efe8141120314088f5013875ac656398d8a2ed19d2a85c8edd3ec2aef
/-- The base point's x. -/
def p384gx : Nat := 0xaa87ca22be8b05378eb1c71ef320ad746e1d3b628ba79b9859f741e082542a385502f25dbf55296c3a545e3872760ab7
/-- The base point's y. -/
def p384gy : Nat := 0x3617de4a96262c6f5d9e98bf9292dc29f8f41dbd289a147ce9da3113b5f0b8c00a60b1ce1d7e819d7a431d7c90ea0e5f

/-- `b ^ e mod m`, the exponent taken bit by bit from bit `k - 1`. -/
def powMod (m b e : Nat) : Nat → Nat
  | 0 => 1 % m
  | k + 1 =>
    let r := powMod m (b * b % m) (e / 2) k
    if e % 2 = 1 then r * b % m else r

/-- The inverse modulo an odd prime below 2^384. -/
def invMod (m a : Nat) : Nat := powMod m (a % m) (m - 2) 384

/-- Difference modulo the field prime. -/
def subP (a b : Nat) : Nat := (a + (p384p - b % p384p)) % p384p

/-- A point in Jacobian coordinates; z = 0 is the neutral element. -/
structure JPoint where
  x : Nat
  y : Nat
  z : Nat
  deriving DecidableEq, Repr

/-- Doubling, for the curve constant a = -3. -/
def jDouble (q : JPoint) : JPoint :=
  let m := p384p
  let d := q.z * q.z % m
  let g := q.y * q.y % m
  let b := q.x * g % m
  let a := 3 * (subP q.x d * (q.x + d) % m) % m
  let x3 := subP (a * a % m) (8 * b)
  let z3 := subP (subP ((q.y + q.z) * (q.y + q.z) % m) g) d
  let y3 := subP (a * subP (4 * b) x3 % m) (8 * (g * g % m))
  ⟨x3, y3, z3⟩

/-- Addition of two points. -/
def jAdd (q r : JPoint) : JPoint :=
  let m := p384p
  if q.z = 0 then r else if r.z = 0 then q else
  let z1 := q.z * q.z % m
  let z2 := r.z * r.z % m
  let u1 := q.x * z2 % m
  let u2 := r.x * z1 % m
  let s1 := q.y * r.z % m * z2 % m
  let s2 := r.y * q.z % m * z1 % m
  if u1 = u2 then (if s1 = s2 then jDouble q else ⟨1, 1, 0⟩) else
  let h := subP u2 u1
  let w := subP s2 s1
  let h2 := h * h % m
  let h3 := h * h2 % m
  let v := u1 * h2 % m
  let x3 := subP (subP (w * w % m) h3) (2 * v)
  let y3 := subP (w * subP v x3 % m) (s1 * h3 % m)
  ⟨x3, y3, h * q.z % m * r.z % m⟩

/-- The multiple `k` of a point, `n` bits of `k`. -/
def jMul (q : JPoint) (k : Nat) : Nat → JPoint
  | 0 => ⟨1, 1, 0⟩
  | n + 1 =>
    let r := jMul (jDouble q) (k / 2) n
    if k % 2 = 1 then jAdd r q else r

/-- The affine coordinates of a point other than the neutral one. -/
def jAffine (q : JPoint) : Nat × Nat :=
  let m := p384p
  let i := invMod m q.z
  let i2 := i * i % m
  (q.x * i2 % m, q.y * i2 % m * i % m)

/-- The public key of a private key: x and y. -/
def p384Public (d : Nat) : Nat × Nat := jAffine (jMul ⟨p384gx, p384gy, 1⟩ d 384)

/-- A point of the curve with both coordinates below the prime. -/
def p384OnCurve (x y : Nat) : Bool :=
  decide (x < p384p) && decide (y < p384p) &&
    decide (y * y % p384p = (x * x % p384p * x + (p384p - 3) * x + p384b) % p384p)

/-- ECDSA verification over a SHA-384 digest (R135, R136 reason 4). -/
def ecdsaVerify (x y r s : Nat) (digest : List Byte) : Bool :=
  if r = 0 ∨ p384n ≤ r ∨ s = 0 ∨ p384n ≤ s ∨ p384OnCurve x y = false then false else
  let w := invMod p384n s
  let u1 := beNat digest * w % p384n
  let u2 := r * w % p384n
  let q := jAdd (jMul ⟨p384gx, p384gy, 1⟩ u1 384) (jMul ⟨x, y, 1⟩ u2 384)
  if q.z = 0 then false else (jAffine q).1 % p384n == r

end Sys2Proof.Machine
end

