-- ==== Sys2Proof/Machine/State.lean ====
section
/-! DEFINITION. The state of the block: plain data, every array sparse and canonical. A docstring names the rule that gives a
field to the machine and the value at reset. -/

namespace Sys2Proof.Machine

/-- Why a command stops the model. -/
inductive Fault where
  /-- Raised by every meaning when an operand names an element the device does not have (flume 32, head 4, lane 96:
  R10, scope naming table). Safe: no claim about an existing element rests on it. -/
  | noSuchElement
  deriving DecidableEq, Repr

/-- Why a command is refused. -/
inductive Refusal where
  /-- Raised by an arm of exec whose command has no meaning yet. Safe: nothing can be proved of it. -/
  | notModelled (mnemonic : String)
  deriving DecidableEq, Repr

/-- What a request does to its line (R98, R171, R218). -/
inductive ReqKind where
  | read
  | write
  | partialWrite
  deriving DecidableEq, Repr

/-- Who gets a request's result. -/
inductive ReqFor where
  /-- Head `h`, the host's tag, and whether the stored metadata is asked for (R93). -/
  | host (h tag : Nat) (meta0 : Bool)
  /-- A mirror apply, its tag class and tag, and the leat port it came on (R259, R269, R273). -/
  | apply (cls tag k : Nat)
  /-- The device itself: write-backs, wipes, scrubs. The flag tells a tracker rewrite or other write-back resting on a read (R102). -/
  | device (writeBack : Bool)
  /-- A part of a started descriptor, whose completion waits for the mirroring of its writes (R130). -/
  | part (did : Nat)
  /-- Nobody: a request of a head that was reset (R230). -/
  | nobody
  deriving DecidableEq, Repr

/-- A request of a flume (R43 to R49). Reset: none. -/
structure Req where
  /-- The order number the flume gave it at acceptance. -/
  id : Nat
  /-- Requester port 0 to 8 (R43). -/
  port : Nat
  /-- Service class 1 to 4 (R43). -/
  cls : Nat
  /-- The 28-bit line address. -/
  line : Nat
  kind : ReqKind
  data : Line
  /-- Enabled bytes of a partial write. -/
  mask : BitVec 64
  poison : Bool
  /-- CXL.mem metadata to store, none for No-Op (R93). -/
  md : Option (BitVec 2)
  dest : ReqFor
  /-- DPA line number, for the mirror (R262). -/
  dpaLine : Nat
  /-- Index of the region entry it was translated with, 64 for none, and that entry as it then was (R28). -/
  region : Nat
  entry : Nat
  /-- Time of acceptance, ns (R45). -/
  since : Nat
  /-- Promoted by its age limit (R48). -/
  promoted : Bool
  /-- 0 none, then urgency 0 to 3 as 1 to 4 (R49). -/
  urgency : Nat
  /-- The write's mark for the mirror-dirty bit (R279). -/
  dirty : Bool
  /-- Its mirror write or pond entry is still to be made (R263, R269, R272): until then it is not committed and not issued. -/
  mirror : Bool
  /-- The named positions are to be inverted after encoding (R115). -/
  inject : List Nat
  /-- The mill whose access it is, 32 for none (R119). -/
  mill : Nat
  deriving DecidableEq, Repr

/-- An entry of the hot-word tracker (R103, R104). -/
structure TrackEntry where
  /-- The coordinate after redirection: bank number x 8192 x 32 + row x 32 + column. -/
  key : Nat
  count : Nat
  /-- Time of the first count, ns; for a waiting entry, of the rewrite. -/
  since : Nat
  /-- Waiting after a rewrite (R104). -/
  waiting : Bool
  deriving DecidableEq, Repr

/-- A row in a holding buffer (R67). -/
structure HeldRow where
  bank : Nat
  row : Nat
  /-- True for a DRAM BIST slice, false for migration or repair, and how many of its test elements have issued (R66, R340). -/
  slice : Bool
  elems : Nat
  /-- The 32 stored lines of the holding copy. -/
  copy : List Stored
  deriving DecidableEq, Repr

/-- A training pass under way on a sub-channel (R297). -/
structure Pass where
  tier : Nat
  /-- 0 full, 1 retune, 2 wake, 3 post-change. -/
  kind : Nat
  /-- The pass trains for Tuned mode. -/
  tuned : Bool
  startedAt : Nat
  /-- Training commands issued in cycles of a sub-channel in service. -/
  cmds : Nat
  deriving DecidableEq, Repr

/-- A flume's controller (03, 04, 05, 16). -/
structure Flume where
  /-- Requests that wait at the ports, in arrival order (R45, R222). Reset: none. -/
  waiting : List Req
  /-- The request queue, in acceptance order (R45). Reset: none. -/
  queue : List Req
  /-- Reads whose command has issued and whose data have not returned (R95). Reset: none. -/
  inflight : List Req
  /-- The next order number. Reset 0. -/
  nextId : Nat
  /-- R59. Reset false. -/
  holding : Bool
  held : Bool
  /-- Hold requested: requests are not accepted (R59). Reset false. -/
  holdReq : Bool
  /-- The ten masks in force, by index (R37). Reset: the bit at the base position. -/
  masks : Tab Word
  /-- R37. Reset 0. -/
  mapGen : Nat
  /-- The 32 line remap entries in the layout of R106. Reset from tally. -/
  remap : Tab (BitVec 64)
  /-- The remap entries await their tally write (R105 step 4). Reset false. -/
  remapDirty : Bool
  /-- R103. Reset: none. -/
  tracker : List TrackEntry
  /-- The nine running totals of R114. Reset 0. -/
  totals : Tab Nat
  /-- Ports 0 to 3 in an episode (R56). Reset: none. -/
  episode : List Nat
  /-- Ports above their weir and since when, ns (R57). Reset: none. -/
  aboveSince : Tab (Option Nat)
  /-- Ports whose episode has raised its notice (R57). Reset: none. -/
  overloadSaid : List Nat
  /-- Band from temperature, per tier (R74). Reset 0. -/
  band : Tab Nat
  /-- Tiers stepped up, with the count of sweeps without a weak or failing bank (R85). Reset: none. -/
  stepUp : Tab (Option Nat)
  /-- When the last sweep of the canary rows began, ns (R85). Reset 0. -/
  sweepAt : Nat
  /-- Rows in holding buffers (R67). Reset: none. -/
  heldRows : List HeldRow
  /-- Sub-channels with a migration: the tier and the pointer, in rows over banks (R70). Reset: none. -/
  migrate : Tab (Option (Nat × Nat))
  /-- Lines awaiting a refetch or a poison write-back on port 8 (R88, R96), by line address. Reset: none. -/
  refetch : List Nat
  /-- Time the queue last emptied, ns (R394). Reset 0. -/
  idleSince : Nat
  /-- Flume state: 0 Run, 1 Trim, 2 Feather, 3 Furl, 4 Brake (R390). Reset 0. -/
  pstate : Nat
  /-- The state being entered, if an entry is committed (R397). Reset none. -/
  entering : Option Nat
  /-- A wake is latched or runs (R397). Reset false. -/
  waking : Bool
  /-- The state refused and the time the hold-off ends, ns (R396). Reset none. -/
  holdoff : Option (Nat × Nat)
  /-- Operating point in force (R380). Reset 0. -/
  opp : Nat
  /-- Thermal floor (R412) and the time its conditions have been below release, ns. Reset 0, none. -/
  floor : Nat
  /-- The conditions that raised it, by sensor: 8 t + s, 136 + mill, 168 + other (R412). Reset none. -/
  raisedBy : List Nat
  floorRaisedAt : Option Nat
  coolSince : Option Nat
  /-- Duty limit of R412. Reset false. -/
  duty : Bool
  /-- The mode of the flume is Tuned (R292). Reset Own-clock. -/
  tunedMode : Bool
  /-- Passes under way, by sub-channel (R297). Reset none. -/
  passes : Tab (Option Pass)
  /-- Passes that wait on a sub-channel: tier, kind, tuned (R297). Reset none. -/
  passQueue : Tab (List (Nat × Nat × Bool))
  /-- Bays, sub-channel and tier, whose pass a mode change or a command still waits for: BUSY (R292, R311). Reset none. -/
  trnWait : List (Nat × Nat)
  /-- Since when the controller's clock is stretched, ns (R382). Reset none. -/
  stretched : Option Nat
  /-- Front-end copies retired by logic BIST (R349). Reset 0. -/
  frontEnds : Nat
  /-- Soft repairs made and not yet in the tally store, in the layout of R317 (R346). Reset: none. -/
  repairsDue : List (BitVec 64)
  deriving DecidableEq, Repr

/-- A DRAM command: bank number and what goes with it. A read names its request; a write carries the physical line index and the
line it is to store, none once a later write of the line has overtaken it or where a holding buffer took it (R67); a slice element
(R66) and a training command (R297) are one command each. -/
inductive DramCmd where
  | act (bank row : Nat)
  | pre (bank : Nat)
  | rd (bank rid : Nat)
  | wr (bank : Nat) (store : Option (Nat × Stored))
  | ref (bank : Nat) (owed : Bool)
  | element (bank : Nat)
  | train (tier : Nat)
  deriving DecidableEq, Repr

/-- A command of the retry buffer (R61, R62, R65): its count, the cycle it issued in, and how many of its replays have failed in a row. -/
structure Issued where
  n : Nat
  cycle : Nat
  fails : Nat
  cmd : DramCmd
  deriving DecidableEq, Repr

/-- A sub-channel (01 R12 to R15, 03 R46 to R68). -/
structure SubChan where
  /-- Cycle of the tier bus clock at the last decision (R52). Reset 0. -/
  cycle : Nat
  /-- The last data transfer was a write (R46 step 6). Reset false. -/
  lastWrite : Bool
  /-- Cycle, bank number and direction of the last column command (R52, R53). Reset none. -/
  lastCol : Option (Nat × Nat × Bool)
  /-- Cycle from which a command of class 3 or 4 may issue under the duty limit (R412). Reset 0. -/
  dutyAt : Nat
  /-- Cycles of the last activates with their bank numbers, newest first, at most 64 (R52 tRRD, tFAW). Reset none. -/
  acts : List (Nat × Nat)
  /-- Running command count, modulo 32 (R61). Reset 0. -/
  count : Nat
  /-- The command retry buffer: issued commands whose parity window is open, oldest first, at most 32 (R61, R62). Reset none. -/
  retry : List Issued
  /-- Discarded commands that wait for the sub-channel to resume after an escalation (R65). Reset none. -/
  held : List Issued
  /-- Stopped by an escalation or a loop test (R65). Reset false. -/
  stopped : Bool
  /-- A logic slice runs (R68). Reset false. -/
  logicSlice : Bool
  /-- No slice starts before this time, ns (R68). Reset 0. -/
  sliceAfter : Nat
  /-- Out of service (R14, R109, R349). Reset false. -/
  offline : Bool
  /-- Degraded (R15). Reset false. -/
  degraded : Bool
  /-- ALERT wires and CK pairs lost, one bit each (R14). Reset 0. -/
  alertLost : Nat
  ckLost : Nat
  /-- Spare wires in use: spare i serves wire `steer i - 1`, 0 for none (R13). Reset from fuses and tally. -/
  steer : Tab Nat
  /-- Spare wires marked bad (R299). Reset none. -/
  badSpares : List Nat
  /-- Erasures: word group x 128 + position, in the order they came (R108). Reset from tally. -/
  erasures : List Nat
  /-- The spare bay is in use or unusable (R18, R19). Reset false. -/
  spareUsed : Bool
  spareBad : Bool
  deriving DecidableEq, Repr

/-- A bay (R10, R18 to R20, R292 to R302). -/
structure Bay where
  /-- Redirected to the spare bay (R20). Reset from repairs. -/
  redirected : Bool
  /-- Offline (R18). Reset false. -/
  offline : Bool
  /-- Codes are in force (R300). Reset false. -/
  trained : Bool
  tuned : Bool
  /-- Own-clock fallback (R302). Reset false. -/
  fallback : Bool
  /-- The in-force and the staged window words (R295, R311). Reset 0. -/
  inForce : Tab Word
  staged : Tab Word
  /-- The 64 lines of the tier's training buffer for the sub-channel (R297). Reset 0. -/
  buffer : Tab Line
  /-- Consecutive refusals of retune or post-change passes (R302), and when the last one was, ns. Reset 0. -/
  refusals : Nat
  refusedAt : Nat
  refusedKind : Nat
  /-- Time and temperature (quarter degrees) of the last commit (R294). Reset 0. -/
  commitAt : Nat
  commitTemp : Int
  /-- Smallest eye of the last committed pass (R304), and a record write that is due, with whether the tally store takes it (R305). Reset 0,
  none. -/
  minEye : Nat
  record : Option Bool
  deriving DecidableEq, Repr

/-- A bank (R10, R50, R72 to R78, R345 to R347). -/
structure Bank where
  /-- The open row, physical (R50). Reset none. -/
  openRow : Option Nat
  /-- Consecutive hits to it (R50). Reset 0. -/
  hits : Nat
  /-- The order number of the waiting miss the bank serves next, after hit_cap hits (R50). Reset none. -/
  capNext : Option Nat
  /-- Earliest cycles at which an activate, a precharge and a column command may go to the bank (R52). Reset 0. -/
  actAt : Nat
  preAt : Nat
  colAt : Nat
  /-- Earliest cycle of a read after a write of this bank's bay and bank group (R52 tWTR). Reset 0. -/
  rdAt : Nat
  /-- Cycle of the last access (R50). Reset 0. -/
  usedAt : Nat
  /-- Row counter, 0 to 1,027 commands (R72). Reset 0. -/
  rowCtr : Nat
  /-- Owed refreshes, 0 to 8 (R77). Reset 0. -/
  owed : Nat
  /-- A refresh is to be issued as class 0 work and holds the bank (R46): how many, and how many of them are owed ones, which leave the
  owed count as they issue (R78). Reset 0. -/
  refDue : Nat
  owedDue : Nat
  /-- Next due time, ns (R75). Reset 0. -/
  dueAt : Nat
  /-- Failed retention: out of service until its scrub ends (R87). Reset false. -/
  scrubbing : Bool
  /-- Row repairs: physical row in service, to spare row 0 to 27 plus 1 (R41 step 3). Reset from repairs. -/
  rows : Tab Nat
  /-- Spare rows marked unusable (R345). -/
  badRows : List Nat
  /-- Column-group repairs: group, to spare 0 to 7 plus 1 (R41 step 4). -/
  cols : Tab Nat
  badCols : List Nat
  /-- A column-group move under way: group, spare, pointer (R347). Reset none. -/
  colMove : Option (Nat × Nat × Nat)
  /-- Pool lines withdrawn (R42). -/
  badPool : List Nat
  /-- Column groups and rows that failed since the last start-up (R345). Reset none. -/
  fails : List (Nat × Nat)
  deriving DecidableEq, Repr

/-- An HDM decoder (R23, R24). Reset: uncommitted, all 0. -/
structure Decoder where
  base : Nat
  size : Nat
  ways : Nat
  gran : Nat
  skip : Nat
  /-- First DPA of its range (R24). -/
  dpa : Nat
  committed : Bool
  /-- Locked on commit (R23). -/
  lock : Bool
  /-- Error Not Committed (R24). -/
  failed : Bool
  deriving DecidableEq, Repr

/-- An S2M response (R218). -/
inductive S2M where
  | drs (tag : Nat) (data : Line) (poison : Bool) (md : Option (BitVec 2)) (overload : Bool)
  | ndr (tag : Nat) (overload : Bool)
  deriving DecidableEq, Repr

/-- An event record of the primary mailbox (R426, R229). -/
structure EventRec where
  handle : Nat
  group : Nat
  src : Nat
  severity : Nat
  deriving DecidableEq, Repr

/-- A host head (09). -/
structure Head where
  /-- L0 or L1 (R235). Reset false. -/
  linkUp : Bool
  /-- CXL.mem negotiated (R216). Reset false. -/
  cxl : Bool
  /-- HPT_LINK.rate and width. Reset 0. -/
  rate : Nat
  width : Nat
  reversed : Bool
  recovering : Bool
  l1 : Bool
  d3hot : Bool
  /-- Link directed to Disabled, and since when, ns (R217). Reset none. -/
  retryAt : Option Nat
  /-- Excluded lanes 0 to 15 and those re-admitted for the next Recovery (R233, R250). Reset none. -/
  excluded : List Nat
  readmit : List Nat
  decoders : Tab Decoder
  /-- Response buffer, oldest first, at most 384, and the completions that its being full stops, oldest first (R223). Reset none. -/
  responses : List S2M
  stopped : List S2M
  /-- M2S Req and RwD credits the host holds, and those freed while the head withholds them (R221). Reset 0. -/
  reqCredit : Nat
  rwdCredit : Nat
  reqKept : Nat
  rwdKept : Nat
  /-- S2M NDR and DRS credits, none for infinite (R223). Reset none. -/
  ndr : Option Nat
  drs : Option Nat
  /-- Time the response buffer became full, ns (R223). Reset none. -/
  fullSince : Option Nat
  /-- The full buffer has counted its notice (R223). Reset false. -/
  starveSaid : Bool
  /-- Bus Master Enable, MSI-X Enable, function mask (R225, R479). Reset false. -/
  bme : Bool
  msix : Bool
  fnMask : Bool
  /-- Vectors whose mask bit is clear (PCIe: masks reset to 1), and pending vectors (R479). Reset none. -/
  unmasked : List Nat
  pba : List Nat
  /-- Completion Timeout Value, Max_Payload_Size and Max_Read_Request_Size as encoded, 10-bit tags, Relaxed Ordering and ID-Based
  Ordering for reads (R225). Reset 0, 0, 2, false, true, false (PCIe). -/
  cto : Nat
  mps : Nat
  mrrs : Nat
  tenBit : Bool
  relaxed : Bool
  idOrder : Bool
  /-- MSI-X message address and data by vector (R224). Reset 0. -/
  vectors : Tab (Nat × Nat)
  /-- AER uncorrectable and correctable error status (R226). Reset 0. -/
  aerUnc : Word
  aerCor : Word
  /-- CXL RAS uncorrectable and correctable error status (R214). Reset 0. -/
  rasUnc : Word
  rasCor : Word
  /-- Event records by log: notices and severe faults, newest last (R229). Reset none. -/
  events : List EventRec
  nextHandle : Nat
  /-- Event interrupt policy (R229). Reset 0. -/
  policy : Word
  /-- Timestamp value and when it was set, ns (R229). Reset 0. -/
  stamp : BitVec 64
  stampAt : Nat
  /-- A data object that answers a DOE request stands in the mailbox until the next request or an abort (R227). Reset false. -/
  doeBusy : Bool
  /-- The head's hint: horizon end, ns, and flume mask (R213). Reset none. -/
  hint : Option (Nat × Nat)
  deriving DecidableEq, Repr

/-- A fetched submission slot (R195). -/
structure Slot where
  idx : Nat
  body : List Byte
  deriving DecidableEq, Repr

/-- A ring pair (R187 to R211). -/
structure Pair where
  /-- 0 disabled, 1 running, 2 stopped, 3 resetting or draining (R189). Reset 0. -/
  state : Nat
  /-- In state 3: draining, not resetting. Reset false. -/
  draining : Bool
  err : Nat
  sqHead : Nat
  sqTail : Nat
  cqHead : Nat
  /-- Next completion slot to post, and the phase (R203). Reset 0, false. -/
  cqTail : Nat
  phase : Bool
  /-- Records posted and not consumed (R194). Reset 0. -/
  posted : Nat
  /-- Completion slots reserved (R201). Reset 0. -/
  reserved : Nat
  /-- Pending completions and when the oldest was posted, ns (R205). Reset 0, none. -/
  pendCount : Nat
  pendSince : Option Nat
  /-- Fetched slots not yet started (R195). Reset none. -/
  fetched : List Slot
  /-- Return the registers to reset values when state 0 is reached (R211). Reset false. -/
  clearRegs : Bool
  /-- Descriptors started on this arbitration visit (R199). Reset 0. -/
  visit : Nat
  deriving DecidableEq, Repr

/-- The completion a descriptor ends with (R202). -/
structure Result where
  status : Nat
  reason : Nat
  resA : Nat
  resB : Nat
  deriving DecidableEq, Repr

/-- What passes between the operators of a chain in one part (R176). -/
inductive Inter where
  | none
  /-- The selected row ids and, element by element, the flags of a SCAN. -/
  | selection (rows : List Nat)
  /-- Probe row id and entry bytes of each entry of a HASH_PROBE. -/
  | entries (es : List (Nat × List Byte))
  deriving DecidableEq, Repr

/-- A part (R125 to R128). -/
structure Part where
  did : Nat
  /-- The split range's element or byte ranges of this part: from and to, ascending. -/
  ranges : List (Nat × Nat)
  /-- The mill it is homed on (R125). -/
  home : Nat
  /-- The stage of the chain that runs next. -/
  stage : Nat
  inter : Inter
  /-- The status so far, none while it runs well (R128). -/
  status : Option Nat
  resA : Nat
  resB : Nat
  /-- The lowest poisoned source: device DPA, host address (R100). -/
  poisonDpa : Option Nat
  poisonHost : Option Nat
  /-- Started at, ns (R141). -/
  startedAt : Nat
  /-- Queued at, ns (R133). -/
  queuedAt : Nat
  started : Bool
  ended : Bool
  /-- Stop at the next line boundary (R128). -/
  stop : Bool
  /-- It is the merge part (R175). -/
  merge : Bool
  /-- Every stage has run. -/
  done : Bool
  /-- It spilled to the spill area (R174). -/
  spilled : Bool
  /-- Its claim in the spill area was refused (R152). -/
  spillFull : Bool
  /-- Elements of the running stage that are done, where it goes on with a later command (R171). -/
  prog : Nat
  deriving DecidableEq, Repr

/-- A started descriptor or chain (R199). -/
structure Desc where
  pair : Nat
  /-- The members' 128 bytes, in ring order (R131). -/
  members : List (List Byte)
  startedAt : Nat
  parts : List Nat
  /-- Bytes claimed on the cursors of dst, the second list or spill area, and keep (R129). -/
  curDst : Nat
  curDst2 : Nat
  curKeep : Nat
  /-- Claims on the second list that were spills (R174). -/
  spills : Nat
  /-- log2 P + 1 of the merge, 0 if none ran (R162). -/
  mergeLog : Nat
  /-- Entries of the region table held in use (R29). -/
  uses : List Nat
  /-- Set when every part has ended or the admin work is done: the completion to post (R130). -/
  result : Option Result
  /-- Its pair was reset: the completion is discarded (R209). -/
  dropped : Bool
  /-- Admin work that runs on: 0 none, 1 scrub, 2 resilver, 3 microcode, 4 bist, 5 switchover, 6 a region write and 7 a hint that
  take effect as the completion is posted, 8 a fuse session. -/
  work : Nat
  /-- Words of that work: progress counters. -/
  prog : List Nat
  /-- The last member's CRC or compare accumulators by part order (R164). -/
  accum : List (Nat × Nat × Nat)
  /-- The 520 bytes of the sieve program as they were checked at its start (R153, R185). -/
  program : List Byte
  deriving DecidableEq, Repr

/-- A microcode image in an instruction store (R135). -/
structure Ucode where
  image : List Byte
  version : Nat
  sec : Nat
  deriving DecidableEq, Repr

/-- A mill (06). -/
structure Mill where
  /-- Parts queued, in creation order (R117). Reset none. -/
  queue : List Nat
  running : Option Nat
  /-- The hopper by 64-byte unit, and the units that carry a poison mark (R121, R122). Reset 0. -/
  hopper : Tab Line
  hopperPoison : List Nat
  /-- The eight 64-bit scalar and the eight 1024-bit vector registers (R116, R180). Reset 0 (log 88). -/
  scalars : Tab (BitVec 64)
  vectors : Tab (BitVec 1024)
  /-- Active and standby banks (R116). Reset none. -/
  active : Option Ucode
  standby : Option Ucode
  /-- The recorded hash of the active image (R142). Reset none. -/
  hash : List Byte
  /-- R144: no verified microcode, or disabled. Reset true. -/
  disabled : Bool
  /-- Disabled by logic BIST or R349 until the next reset. Reset false. -/
  failed : Bool
  /-- Recovery: the kinds of fault it is from, 1 to 4 (R141). Reset none. -/
  recovering : List Nat
  swapPending : Bool
  /-- Out for an admin test (R341). Reset false. -/
  testing : Bool
  slice : Bool
  sliceAfter : Nat
  /-- Point in force (R380). Reset 0. -/
  opp : Nat
  /-- Thermal floor and its timers (R412). Reset 0. -/
  floor : Nat
  /-- The conditions that raised it, by sensor: 8 t + s, 136 + mill, 168 + other (R412). Reset none. -/
  raisedBy : List Nat
  floorRaisedAt : Option Nat
  coolSince : Option Nat
  /-- Droop floor and the time of the last trip or fall, ns (R383). Reset 0. -/
  droop : Nat
  droopAt : Nat
  /-- Since when the clock is stretched, ns (R382). Reset none. -/
  stretched : Option Nat
  /-- Search results by point: target in quarter millivolts; raises (R376). Reset 0. -/
  target : Tab Nat
  raises : Tab Nat
  deriving DecidableEq, Repr

/-- A pattern of R242 as it runs: its last n bits, the newest lowest; bits of a marker word still to come; and markers passed since one was
injected, so 0 at an injected one (R244). -/
structure Prbs where
  hist : Nat
  mark : Nat
  turn : Nat
  deriving DecidableEq, Repr

/-- A serial lane (10). -/
structure Lane where
  /-- Clock-and-data recovery is locked. Reset false. -/
  cdr : Bool
  /-- A re-admission test runs (R249). Reset false. -/
  retest : Bool
  retestAt : Nat
  /-- A re-admission of the lane failed; a leat port directs no Recovery for it (R250). Reset false. -/
  barred : Bool
  /-- The lane was taken out by excl_req alone, which is clear again: it takes part at the next Recovery (R247). Reset false. -/
  rejoin : Bool
  /-- Equaliser taps 1 to 8 as last held, and when adaptation went on from them, ns (R239). Reset 0. -/
  taps : Tab Nat
  adaptAt : Nat
  /-- The generator, and the checker's own pattern (R242 to R244). Reset 0. -/
  gen : Prbs
  chk : Prbs
  /-- Bits the checker has seeded itself with, and clean bits since (R243). Reset 0. -/
  fill : Nat
  clean : Nat
  /-- Bits compared since lock, and which of the last 1,024 were errors (R243). Reset 0, none. -/
  sinceLock : Nat
  recent : List Nat
  /-- PRBS: locked, and the four counters (R243, R246). Reset 0. -/
  locked : Bool
  compared : Nat
  real : Nat
  seen : Nat
  missed : Nat
  /-- Eye scan results in the format of R241, whether a scan runs, and since when its point is taken, ns. Reset none. -/
  points : List Word
  scanning : Bool
  scanAt : Nat
  deriving DecidableEq, Repr

/-- A leat message that carries line data or an acknowledgement, kept until it is sent or acknowledged. -/
structure PondEntry where
  seq : Nat
  line : Nat
  data : Line
  poison : Bool
  md : BitVec 2
  /-- Region entry it belongs to. -/
  region : Nat
  sent : Bool
  /-- When it was sent, ns (R277). -/
  since : Nat
  /-- Number of page writes made before it (R275). -/
  page : Nat
  deriving DecidableEq, Repr

/-- A sync write waiting for its ACK (R269). -/
structure SyncWait where
  tag : Nat
  line : Nat
  region : Nat
  dest : ReqFor
  since : Nat
  deriving DecidableEq, Repr

/-- A copy request of this device awaiting its COPY_DATA (R281): the request it serves, the line's flume, whether the copy is
written over the local line (R88, R101), and the local data and metadata as read. -/
structure CopyWait where
  tag : Nat
  line : Nat
  refetch : Bool
  flume : Nat
  req : Req
  store : Bool
  asRead : Line
  mdRead : Nat
  deriving DecidableEq, Repr

/-- A push message awaiting its ACK (R286). -/
structure PushWait where
  tag : Nat
  count : Nat
  line : Nat
  did : Nat
  deriving DecidableEq, Repr

/-- A leat message (R261, R262): header fields and data slots, and the flume whose traffic it belongs to, 32 for state updates,
33 and 34 for messages that stay on port 0 and port 1 (R260). -/
structure LeatMsg where
  via : Nat
  type : Nat
  slots : Nat
  push : Bool
  pmask : Nat
  md : Nat
  line : Nat
  tag : Nat
  data : List Byte
  deriving DecidableEq, Repr

/-- The part of a message that one flit carries: the message, how many of its slots went before, and how many are here (R257). -/
structure FlitPart where
  msg : LeatMsg
  skip : Nat
  slots : Nat
  deriving DecidableEq, Repr

/-- A flit of the replay buffer: its sequence number, when it was opened, and what its slots carry, the rest IDLE (R257, R258). -/
structure Flit where
  seq : Nat
  at_ : Nat
  parts : List FlitPart
  deriving DecidableEq, Repr

/-- A leat port (11). -/
structure Port where
  linkUp : Bool
  rate : Nat
  width : Nat
  recovering : Bool
  excluded : List Nat
  readmit : List Nat
  retryAt : Option Nat
  /-- Next flit to send, the replay buffer, oldest first, and resends of the oldest (R258). Reset 0, none. -/
  txSeq : Nat
  unacked : List Flit
  resends : Nat
  /-- Time of the last LINK message or send, ns. Reset 0. -/
  linkAt : Nat
  /-- Last good flit in sequence received (R258). Reset 1023. -/
  rxLast : Nat
  /-- Time of the last flit received, ns (R277). -/
  rxAt : Nat
  /-- Credits of the two pools (R259). Reset 4096, 2048. -/
  reqCredit : Nat
  rspCredit : Nat
  /-- Time of the last heartbeat sent, ns (R254). -/
  beatAt : Nat
  heard : Bool
  selfLoop : Bool
  /-- The last heartbeat had another part number: the port carries heartbeats only (R254). Reset false. -/
  foreign : Bool
  /-- Directed to Disabled by the device (R277, R427). -/
  disabled : Bool
  deriving DecidableEq, Repr

/-- The mirrored pair (11). -/
structure Leat where
  ports : Tab Port
  joined : Bool
  /-- The partner's identity from its last heartbeat, and of the last join (R256). Reset 0, none. -/
  partnerId : Nat
  partnerEpoch : Nat
  lastJoin : Option (Nat × Nat)
  partnerPart : Nat
  /-- Last pond sequence the partner had applied at its last heartbeat (R262). Reset 0. -/
  partnerApplied : Nat
  /-- The nonce of this start-up (R262). -/
  nonce : BitVec 32
  /-- Regions unmatched or dual primary (R266). Reset none. -/
  unmatched : List Nat
  dual : List Nat
  /-- Pond entries, oldest first, and the next sequence number (R271). Reset none, 1. -/
  pond : List PondEntry
  pondSeq : Nat
  /-- Highest sequence acknowledged and applied (R291). Reset 0. -/
  acked : Nat
  applied : Nat
  /-- Sync writes and other messages waiting for ACKs. Reset none. -/
  sync : List SyncWait
  syncTag : Nat
  copies : List CopyWait
  copyTag : Nat
  pushes : List PushWait
  pushTag : Nat
  /-- Pushes received whose lines are still to be accepted: tag, lines left, whether all so far were stored, and the port (R286). -/
  pushIn : List (Nat × Nat × Bool × Nat)
  /-- Next state-update tag, and updates awaiting their ACK: tag, the page writes they carry, and the index + 1 of a region entry
  (R262, R266, R275). -/
  stateTag : Nat
  stateWait : List (Nat × Nat × Nat)
  /-- Dirty granules and those marked whole, ascending (R276). Reset none. -/
  dirty : List Nat
  whole : List Nat
  /-- The shared state page by word index: own half 0 to 511, partner's half 512 to 1023 (R275). Reset 0. -/
  page : Tab Word
  pageMade : Nat
  pageAcked : Nat
  /-- Page writes that wait for earlier pond entries to be sent: number of the write, word index, word (R275). Reset none. -/
  pageWait : List (Nat × Nat × Word)
  /-- Acknowledgements of page updates that wait for earlier pond entries to be applied (R275). Reset none. -/
  ackHold : List Nat
  /-- Regions the partner pushes lines of, as the secondary (R268). Reset none. -/
  resync : List Nat
  /-- Messages that wait for credits, replay space or a moved port, oldest first (R258 to R260). Reset none. -/
  txWait : List LeatMsg
  /-- Flumes (32: state updates) whose traffic travels on the other port (R260). Reset none. -/
  away : List Nat
  /-- Regions whose writes wait for a switchover, as the old primary, and the tag asked (R284). Reset none. -/
  quiesce : List Nat
  deriving DecidableEq, Repr

/-- One copy of a tally record (R305, R458): its generation, whether its check word holds, and what it holds. -/
structure Copy (α : Type) where
  gen : Nat
  good : Bool
  val : α
  deriving DecidableEq, Repr

/-- Copies A and B of a record. -/
structure Copies (α : Type) where
  a : Copy α
  b : Copy α
  deriving DecidableEq, Repr

/-- A calibration record's bay section, as 56 bytes (R304). -/
structure CalRec where
  bays : Tab (List Byte)
  deriving DecidableEq, Repr

/-- A flume's soft-repair record (R350). -/
structure SoftRec where
  entries : List (BitVec 64)
  erasures : List (Nat × Nat)
  deriving DecidableEq, Repr

/-- The Brake save area (R400). -/
structure BrakeSave where
  regions : Tab (BitVec 128)
  dirty : List Nat
  whole : List Nat
  page : Tab Word
  deriving DecidableEq, Repr

/-- The persisted microcode area (R138). -/
structure UcodeSave where
  image : List Byte
  minSec : Nat
  deriving DecidableEq, Repr

/-- The lifetime record: the eight counters of class 0x41 (R354) and the start-up count (R357). -/
structure LifeRec where
  counters : Tab Nat
  startups : Nat
  deriving DecidableEq, Repr

/-- The tally store (R457): kept across every reset. Contents at State.reset: none given (log). -/
structure Tally where
  /-- Calibration records by (flume x 17 + tier) x 4 + point, and when each was written, ns. -/
  cal : Tab (Option (Copies CalRec))
  calAt : Tab Nat
  ucode : Option (Copies UcodeSave)
  soft : Tab (Option (Copies SoftRec))
  remap : Tab (Option (Copies (Tab (BitVec 64))))
  brake : Option (Copies BrakeSave)
  /-- The open intent record: the script, and whether its CRC holds (R332). -/
  intent : Option (List Byte × Bool)
  life : Option (Copies LifeRec)
  /-- The copy of the canary rows of the fuses, if one was taken (R83). -/
  canary : Option (Tab (BitVec 256))
  deriving DecidableEq, Repr

/-- The fuse array and its shadow (13). Rows 0 to 2,047 addressable, 2,048 to 2,111 spare. -/
structure Fuses where
  /-- Bits that read 1 at the normal, high and low margins, by row (R320). -/
  normal : Tab (BitVec 256)
  high : Tab (BitVec 256)
  low : Tab (BitVec 256)
  /-- The three copies of the redirection table at the three margins: margin x 192 + copy x 64 + entry, margin 0 normal, 1 high,
  2 low (R319, R320). -/
  redirect : Tab (BitVec 16)
  /-- The shadow of each addressable row, taken through redirection (R320). -/
  shadow : Tab (BitVec 256)
  /-- Life-cycle state 0 to 5, its default, failed and locked regions 1 to 5 (R321, FUS_STATE). -/
  lc : Nat
  lcDefault : Bool
  failed : List Nat
  locked : List Nat
  /-- Regions 1 to 3 that fail nothing but what R321 asks of them beyond every region's check: no valid key, key hash, no trims. -/
  alsoOnly : List Nat
  intentDone : Bool
  rereadActive : Bool
  rereadWaits : Bool
  session : Bool
  deriving DecidableEq, Repr

/-- A fault source (R419 to R424, R428). -/
structure Source where
  count : Nat
  /-- First tick after the open window, none when none is open (R422). -/
  windowEnd : Option Nat
  /-- Threshold and window exponent where changed: N + 1 and w + 1, 0 for the default (R424). -/
  nSet : Nat
  wSet : Nat
  /-- Latched severity 0 to 3 (R423). -/
  latch : Nat
  seq : Nat
  line : Bool
  total : Nat
  /-- First-cause record: tick, unit, severity, count, detail (R428). -/
  first : Option (Nat × Nat × Nat × Nat × Nat)
  deriving DecidableEq, Repr

/-- The fault collector (18). -/
structure Collector where
  /-- By group x 16 + index. Reset: nothing counted or latched. -/
  sources : Tab Source
  /-- The device-wide first fault: group x 16 + index (R428), and its tick. -/
  firstFault : Option Nat
  firstAt : Nat
  safe : Bool
  deriving DecidableEq, Repr

/-- A posted write a block has not yet taken (R436). -/
structure Posted where
  path : Nat
  off : Nat
  words : List Word
  deriving DecidableEq, Repr

/-- A path's mailbox (R445). -/
structure Mailbox where
  sel : Word
  valid : Bool
  busy : Bool
  err : Nat
  data : List Word
  deriving DecidableEq, Repr

/-- Access rules, mailboxes and the config guard (19). -/
structure Access where
  /-- Posted writes by block number. Reset none. -/
  posted : Tab (Option Posted)
  mailboxes : Tab Mailbox
  /-- Hold bits by path, and when the guard became held, ns (R449, R450). -/
  hold : List Nat
  heldSince : Nat
  committing : Bool
  ref : Nat
  last : Nat
  mismatch : Bool
  /-- ACC_ADDR (R453). -/
  addr : Nat
  deriving DecidableEq, Repr

/-- The thermal logic (17), temperatures in quarter degrees. -/
structure Thermal where
  /-- Model value of position 8 t + s, in 1/300 of a quarter degree; reading; invalid count to go (R407, R408). -/
  model : Tab Int
  reading : Tab Int
  invalid : Tab Nat
  /-- Evaluations in a row some reading lay 6 degrees low; good evaluations in a row (R410). -/
  low : Tab Nat
  good : Tab Nat
  untrusted : List Nat
  /-- Every sensor has been read since the release of reset (R407). -/
  sampled : Bool
  /-- Positions whose model has started (R408). -/
  seeded : List Nat
  /-- Coolant: fault kind in force, good checks in a row, averages (R415, R416). -/
  fault : Nat
  goodChecks : Nat
  tin : Int
  tout : Int
  /-- The notice of the suspended coolant check has been raised (R406). -/
  suspended : Bool
  /-- Sum and number of the hottest effective tier temperatures of this hour (R354). -/
  hotSum : Int
  hotN : Nat
  /-- Counts of activates, reads, writes and refreshes by position since the last evaluation (R408). -/
  cmds : Tab Nat
  deriving DecidableEq, Repr

/-- Power and clocks (16). -/
structure Power where
  dstate : Nat
  entering : Option Nat
  waking : Bool
  holdoff : Option (Nat × Nat)
  /-- Rails outside their window, 0 to 6 in the order of R384. -/
  railsOut : List Nat
  vlogic : Nat
  settled : Bool
  coreLock : Bool
  laneLock : List Nat
  refLost : Bool
  ringOsc : Bool
  /-- VDD_AUX below 1.62 V: held in reset (R385). -/
  auxReset : Bool
  deriving DecidableEq, Repr

/-- A result record (R336), its 64 bytes. -/
structure TestRec where
  testId : Nat
  outcome : Nat
  setting : Nat
  expected : Nat
  applied : Nat
  result : Nat
  firstFail : Nat
  deriving DecidableEq, Repr

/-- The BIST controller (14). -/
structure Bist where
  startup : List TestRec
  startupFull : Bool
  passActive : Bool
  /-- Slices of the pass that have run, and when the pass began, ns (R339). -/
  done : Nat
  passAt : Nat
  /-- Hard faults since the last lifetime update (R354). -/
  hard : Nat
  deriving DecidableEq, Repr

/-- Start-up, security and pins (15, 21). -/
structure Boot where
  step : Nat
  cause : Nat
  halted : Bool
  ready : Bool
  linkEn : Bool
  faultN : Bool
  identity : Bool
  scanOpen : Bool
  debugOpen : Bool
  /-- DRAM access blocked and credits withheld (R344, R362). -/
  blocked : Bool
  /-- A life-cycle word has verified: the reset follows (R362). -/
  lcReset : Bool
  /-- BIST_MODE strap, RST_N, PERST_N released by head (R465). -/
  bistMode : Bool
  rstN : Bool
  perstN : List Nat
  /-- Time of the release of reset, ns (R358). -/
  since : Nat
  /-- Halted by a sequence error or an early release: only a power-on reset ends it (R469). -/
  seqError : Bool
  /-- Since when a reset that was released waits for the last rail, ns, none while none does (R358, R469). Reset none. -/
  early : Option Nat
  deriving DecidableEq, Repr

/-- The sideband (R459 to R461). -/
structure Sideband where
  /-- Dynamic address plus 1 of the register and MCTP targets, 0 for none. -/
  addr : Tab Nat
  /-- The last read set-up not yet answered: the status byte and the data bytes (R461). Reset none. -/
  setup : Option (Nat × List Byte)
  deriving DecidableEq, Repr

/-- What leaves the device, oldest first in `State.out`. -/
inductive Out where
  | s2m (h : Nat) (m : S2M)
  | dmaWrite (h addr : Nat) (data : List Byte) (ep : Bool)
  /-- An MSI-X message: the vector, and the address and data of its table entry (R224, R479). -/
  | msix (h vector addr data : Nat)
  | ibi (target byte : Nat)
  /-- An AER error message: 0 correctable, 1 non-fatal, 2 fatal (R226, R232). -/
  | aer (h kind : Nat)
  | pins (faultN linkEn : Bool)
  | hotJoin (target : Nat)
  /-- A leat message on a port: its first slot is slot `slot` of flit `seq` (R257). -/
  | leat (port seq slot : Nat) (m : LeatMsg)
  /-- A flit resent on a port: its 256 bytes (R258). -/
  | flit (port : Nat) (bytes : List Byte)
  /-- A reply to a request with words of its own: SPDM, DOE, mailbox, test port, sideband, register read. -/
  | spdm (rsp code : Nat) (data : List Byte)
  | doe (h code : Nat) (data : List Nat)
  | mailbox (h code : Nat) (data : List Nat)
  | testPort (code : Nat) (data : Nat)
  | sideband (status : Nat) (data : List Byte)
  | ucr (path : Nat) (value : Word)
  deriving DecidableEq, Repr

/-- The state of the block. -/
structure State where
  /-- Time in ns since power was applied: the model's own clock (log 1). Reset 0. -/
  now : Nat
  /-- The commands that wait, first in, first out: the model's own. Reset none. -/
  pending : List Instr
  /-- What the device has sent, oldest first (log 5). Reset none. -/
  out : List Out
  /-- The counter of free values: the model's own (log 2). Reset 0. -/
  freeCtr : Nat
  /-- Registers that hold a word of their own, by BAR0 offset: configuration and cleared-by-sequence status (19, 20). Reset: none differs from its reset value. -/
  regs : Tab Word
  /-- The DRAM array: physical line index x 80 + byte of the stored line (R10, R90). Reset: log 3. -/
  mem : List Host.Cell
  /-- 0, or the number of the free contents that every stored line has had since the tier rails left their window (R81). Reset 0. -/
  lost : Nat
  flumes : Tab Flume
  subs : Tab SubChan
  bays : Tab Bay
  banks : Tab Bank
  /-- The region table (R26) and its uncorrectable entries (R31). Reset 0 (R30). -/
  regions : Tab (BitVec 128)
  badRegions : List Nat
  heads : Tab Head
  pairs : Tab Pair
  descs : Tab (Option Desc)
  nextDesc : Nat
  parts : Tab (Option Part)
  nextPart : Nat
  /-- Parts the dispatcher keeps beyond a full mill queue, and parts that wait for a mill (R126, R134). Reset none. -/
  partStore : List Nat
  /-- The pair the round robin serves next (R199). Reset 0. -/
  rr : Nat
  /-- The mill that each fabric quadrant granted last (R119). Reset 31 (log 89). -/
  grants : Tab Nat
  mills : Tab Mill
  lanes : Tab Lane
  leat : Leat
  tally : Tally
  fuses : Fuses
  flt : Collector
  acc : Access
  thm : Thermal
  pwr : Power
  bist : Bist
  boot : Boot
  side : Sideband
  deriving DecidableEq, Repr

/-! Values at reset of the elements of the sparse arrays. -/

/-- A request, for tables of requests. -/
def reqInit : Req :=
  ⟨0, 0, 4, 0, .read, 0, 0, false, none, .nobody, 0, 64, 0, 0, false, 0, false, false, [], 32⟩

/-- A flume at reset. -/
def flumeInit : Flume where
  waiting := []
  queue := []
  inflight := []
  nextId := 0
  holding := false
  held := false
  holdReq := false
  masks := []
  mapGen := 0
  remap := []
  remapDirty := false
  tracker := []
  totals := []
  episode := []
  aboveSince := []
  overloadSaid := []
  band := []
  stepUp := []
  sweepAt := 0
  heldRows := []
  migrate := []
  refetch := []
  idleSince := 0
  pstate := 0
  entering := none
  waking := false
  holdoff := none
  opp := 0
  floor := 0
  raisedBy := []
  floorRaisedAt := none
  coolSince := none
  duty := false
  tunedMode := false
  passes := []
  passQueue := []
  trnWait := []
  stretched := none
  frontEnds := 0
  repairsDue := []

/-- A sub-channel at reset. -/
def subInit : SubChan where
  cycle := 0
  lastWrite := false
  lastCol := none
  dutyAt := 0
  acts := []
  count := 0
  retry := []
  held := []
  stopped := false
  logicSlice := false
  sliceAfter := 0
  offline := false
  degraded := false
  alertLost := 0
  ckLost := 0
  steer := []
  badSpares := []
  erasures := []
  spareUsed := false
  spareBad := false

/-- A bay at reset. -/
def bayInit : Bay where
  redirected := false
  offline := false
  trained := false
  tuned := false
  fallback := false
  inForce := []
  staged := []
  buffer := []
  refusals := 0
  refusedAt := 0
  refusedKind := 0
  commitAt := 0
  commitTemp := 0
  minEye := 0
  record := none

/-- A bank at reset. -/
def bankInit : Bank where
  openRow := none
  hits := 0
  capNext := none
  actAt := 0
  preAt := 0
  colAt := 0
  rdAt := 0
  usedAt := 0
  rowCtr := 0
  owed := 0
  refDue := 0
  owedDue := 0
  dueAt := 0
  scrubbing := false
  rows := []
  badRows := []
  cols := []
  badCols := []
  colMove := none
  badPool := []
  fails := []

/-- A decoder at reset. -/
def decoderInit : Decoder := ⟨0, 0, 0, 0, 0, 0, false, false, false⟩

/-- A head at reset. -/
def headInit : Head where
  linkUp := false
  cxl := false
  rate := 0
  width := 0
  reversed := false
  recovering := false
  l1 := false
  d3hot := false
  retryAt := none
  excluded := []
  readmit := []
  decoders := []
  responses := []
  stopped := []
  reqCredit := 0
  rwdCredit := 0
  reqKept := 0
  rwdKept := 0
  ndr := none
  drs := none
  fullSince := none
  starveSaid := false
  bme := false
  msix := false
  fnMask := false
  unmasked := []
  pba := []
  cto := 0
  mps := 0
  mrrs := 2
  tenBit := false
  relaxed := true
  idOrder := false
  vectors := []
  aerUnc := 0
  aerCor := 0
  rasUnc := 0
  rasCor := 0
  events := []
  nextHandle := 1
  policy := 0
  stamp := 0
  stampAt := 0
  doeBusy := false
  hint := none

/-- A ring pair at reset. -/
def pairInit : Pair where
  state := 0
  draining := false
  err := 0
  sqHead := 0
  sqTail := 0
  cqHead := 0
  cqTail := 0
  phase := false
  posted := 0
  reserved := 0
  pendCount := 0
  pendSince := none
  fetched := []
  clearRegs := false
  visit := 0

/-- A mill at reset. -/
def millInit : Mill where
  queue := []
  running := none
  hopper := []
  hopperPoison := []
  scalars := []
  vectors := []
  active := none
  standby := none
  hash := []
  disabled := true
  failed := false
  recovering := []
  swapPending := false
  testing := false
  slice := false
  sliceAfter := 0
  opp := 0
  floor := 0
  raisedBy := []
  floorRaisedAt := none
  coolSince := none
  droop := 0
  droopAt := 0
  stretched := none
  target := []
  raises := []

/-- A lane at reset. -/
def laneInit : Lane where
  cdr := false
  retest := false
  retestAt := 0
  barred := false
  rejoin := false
  taps := []
  adaptAt := 0
  gen := ⟨0, 0, 0⟩
  chk := ⟨0, 0, 0⟩
  fill := 0
  clean := 0
  sinceLock := 0
  recent := []
  locked := false
  compared := 0
  real := 0
  seen := 0
  missed := 0
  points := []
  scanning := false
  scanAt := 0

/-- A leat port at reset. -/
def portInit : Port where
  linkUp := false
  rate := 0
  width := 0
  recovering := false
  excluded := []
  readmit := []
  retryAt := none
  txSeq := 0
  unacked := []
  resends := 0
  linkAt := 0
  rxLast := 1023
  rxAt := 0
  reqCredit := 4096
  rspCredit := 2048
  beatAt := 0
  heard := false
  selfLoop := false
  foreign := false
  disabled := false

/-- The pair at reset. -/
def leatInit : Leat where
  ports := []
  joined := false
  partnerId := 0
  partnerEpoch := 0
  lastJoin := none
  partnerPart := 0
  partnerApplied := 0
  nonce := 0
  unmatched := []
  dual := []
  pond := []
  pondSeq := 1
  acked := 0
  applied := 0
  sync := []
  syncTag := 0
  copies := []
  copyTag := 0
  pushes := []
  pushTag := 0
  pushIn := []
  stateTag := 0
  stateWait := []
  dirty := []
  whole := []
  page := []
  pageMade := 0
  pageAcked := 0
  pageWait := []
  ackHold := []
  resync := []
  txWait := []
  away := []
  quiesce := []

/-- A tally store that holds nothing. -/
def tallyInit : Tally where
  cal := []
  calAt := []
  ucode := none
  soft := []
  remap := []
  brake := none
  intent := none
  life := none
  canary := none

/-- A blank fuse array, not yet read. -/
def fusesInit : Fuses where
  normal := []
  high := []
  low := []
  redirect := []
  shadow := []
  lc := 0
  lcDefault := false
  failed := []
  locked := []
  alsoOnly := []
  intentDone := false
  rereadActive := false
  rereadWaits := false
  session := false

/-- A source at reset. -/
def sourceInit : Source := ⟨0, none, 0, 0, 0, 0, false, 0, none⟩

/-- A mailbox at reset. -/
def mailboxInit : Mailbox := ⟨0, false, false, 0, []⟩

/-- Access state at reset. -/
def accessInit : Access := ⟨[], [], [], 0, false, 0, 0, false, 0⟩

/-- Thermal state at reset. -/
def thermalInit : Thermal := ⟨[], [], [], [], [], [], false, [], 0, 0, 0, 0, false, 0, 0, []⟩

/-- Power state at reset: VLOGIC_SEL drives code 16 (R404). -/
def powerInit : Power where
  dstate := 0
  entering := none
  waking := false
  holdoff := none
  railsOut := []
  vlogic := 16
  settled := false
  coreLock := false
  laneLock := []
  refLost := false
  ringOsc := false
  auxReset := false

/-- BIST state at reset. -/
def bistInit : Bist := ⟨[], false, false, 0, 0, 0⟩

/-- Start-up state at reset: step 1, RST_N low, LINK_EN low, FAULT_N released. -/
def bootInit : Boot where
  step := 1
  cause := 0
  halted := false
  ready := false
  linkEn := false
  faultN := true
  identity := false
  scanOpen := false
  debugOpen := false
  blocked := false
  lcReset := false
  bistMode := false
  rstN := false
  perstN := []
  since := 0
  seqError := false
  early := none

/-- The machine right after reset: start-up at step 1, every register at its reset value, fuses blank, tally store empty. -/
def State.reset : State where
  now := 0
  pending := []
  out := []
  freeCtr := 0
  regs := []
  mem := []
  lost := 0
  flumes := []
  subs := []
  bays := []
  banks := []
  regions := []
  badRegions := []
  heads := []
  pairs := []
  descs := []
  nextDesc := 0
  parts := []
  nextPart := 0
  partStore := []
  rr := 0
  grants := []
  mills := []
  lanes := []
  leat := leatInit
  tally := tallyInit
  fuses := fusesInit
  flt := ⟨[], none, 0, false⟩
  acc := accessInit
  thm := thermalInit
  pwr := powerInit
  bist := bistInit
  boot := bootInit
  side := ⟨[], none⟩

end Sys2Proof.Machine
end

