-- ==== Sys2Proof/Machine/Regs.lean ====
section
/-! DEFINITION. The register map (20), field classes (R441), status registers (R440) and access to register words.
A register word is held in `State.regs` by its BAR0 offset; a read-only register is computed from the state (Machine/View). -/

namespace Sys2Proof.Machine

/-- Access codes of R456: read/write, masked, read-only, write-only, cleared by sequence write-back. -/
inductive Acc where
  | rw
  | rwm
  | ro
  | wo
  | sc
  deriving DecidableEq, Repr

/-- A row of R456: offset, instances 4 bytes apart, access, guarded or not, the masks of Live, Held and Staged fields (R441),
the bits a sequence write-back clears (R440), and the reset value. -/
structure RegRow where
  off : Nat
  count : Nat
  acc : Acc
  guarded : Bool
  live : Nat
  held : Nat
  staged : Nat
  clr : Nat
  reset : Nat
  deriving DecidableEq, Repr

/-- Registers of the GLB block (R456). -/
def glbRows : List RegRow :=
  [ ⟨0, 1, .ro, false, 0, 0, 0, 0, 0x594e5132⟩  -- GLB_ID
  , ⟨4, 1, .ro, false, 0, 0, 0, 0, 0⟩  -- GLB_BOOT
  , ⟨8, 1, .wo, false, 0xffff0001, 0, 0, 0, 0⟩  -- GLB_RESET
  ]

/-- Registers of the FLT block (R456). -/
def fltRows : List RegRow :=
  [ ⟨0, 1, .rwm, true, 3, 0, 0, 0, 2⟩  -- FLT_CTL
  , ⟨4, 1, .ro, false, 0, 0, 0, 0, 0⟩  -- FLT_SUMMARY
  , ⟨0x10, 4, .rw, true, 0x33f, 0, 0, 0, 0⟩  -- FLT_HEAD_IRQh
  , ⟨0x20, 1, .rw, false, 0x3f0f, 0, 0, 0, 0⟩  -- FLT_SRC_SEL
  , ⟨0x24, 1, .rw, true, 0x3fff, 0, 0, 0, 0⟩  -- FLT_SRC_CFG
  , ⟨0x28, 1, .ro, false, 0, 0, 0, 0, 0⟩  -- FLT_SRC_STATE
  , ⟨0x30, 1, .wo, false, 0xff003f0f, 0, 0, 0, 0⟩  -- FLT_CLEAR
  , ⟨0x34, 1, .sc, false, 0, 0, 0, 3, 0⟩  -- FLT_CLEAR_STATUS
  ]

/-- Registers of the PWR and CLK block (R456). -/
def pwrRows : List RegRow :=
  [ ⟨0, 1, .rwm, true, 0xf, 0, 0, 0, 0xf⟩  -- PWR_CTL
  , ⟨4, 1, .ro, false, 0, 0, 0, 0, 0⟩  -- PWR_STATE
  , ⟨0x10, 4, .ro, false, 0, 0, 0, 0, 0⟩  -- PWR_FSTATEi
  , ⟨0x20, 1, .rw, false, 0xffffffff, 0, 0, 0, 0⟩  -- PWR_RUN_REQ
  , ⟨0x24, 1, .rw, true, 0xff00ff, 0, 0, 0, 0x10032⟩  -- PWR_MARGIN
  , ⟨0x28, 1, .sc, false, 0, 0, 0, 0x7fffff, 0⟩  -- PWR_REFUSE
  , ⟨0x30, 2, .rw, true, 0xffffffff, 0, 0, 0, 0⟩  -- PWR_FOPP_REQi
  , ⟨0x40, 1, .rw, true, 0xff3f, 0, 0, 0, 0xa08⟩  -- PWR_DROOP_CTL
  , ⟨0x44, 1, .sc, false, 0, 0, 0, 0xff3f00, 0⟩  -- PWR_DROOP_STATUS
  , ⟨0x48, 1, .ro, false, 0, 0, 0, 0, 0⟩  -- PWR_VLOGIC
  , ⟨0x4c, 1, .sc, false, 0, 0, 0, 0xff, 0⟩  -- PWR_RAIL_STATUS
  , ⟨0x80, 1, .ro, false, 0, 0, 0, 0, 0⟩  -- CLK_STATUS
  ]

/-- Registers of the THM block (R456). -/
def thmRows : List RegRow :=
  [ ⟨0, 1, .rwm, true, 1, 0, 0, 0, 1⟩  -- THM_CTL
  , ⟨4, 1, .rw, true, 0xff7f, 0, 0, 0, 0x285f⟩  -- THM_COOL_CTL
  , ⟨8, 1, .ro, false, 0, 0, 0, 0, 0⟩  -- THM_STATE
  , ⟨0xc, 1, .rw, false, 0xff, 0, 0, 0, 0⟩  -- THM_SEL
  , ⟨0x10, 1, .ro, false, 0, 0, 0, 0, 0⟩  -- THM_POS
  , ⟨0x14, 1, .ro, false, 0, 0, 0, 0, 0⟩  -- THM_COOLANT
  , ⟨0x18, 1, .sc, false, 0, 0, 0, 0xffffff, 0⟩  -- THM_STATUS
  ]

/-- Registers of the FUS block (R456). -/
def fusRows : List RegRow :=
  [ ⟨0, 1, .ro, false, 0, 0, 0, 0, 0⟩  -- FUS_STATE
  , ⟨4, 1, .ro, false, 0, 0, 0, 0, 0⟩  -- FUS_SPARE
  , ⟨8, 1, .sc, false, 0, 0, 0, 0xff0f30, 0⟩  -- FUS_STATUS
  , ⟨0xc, 1, .wo, false, 1, 0, 0, 0, 0⟩  -- FUS_CMD
  , ⟨0x10, 1, .sc, false, 0, 0, 0, 0xffffff, 0⟩  -- FUS_REREAD
  , ⟨0x20, 1, .rw, false, 0x7ff, 0, 0, 0, 0⟩  -- FUS_ROW_SEL
  , ⟨0x40, 8, .ro, false, 0, 0, 0, 0, 0⟩  -- FUS_ROW_DATAi
  ]

/-- Registers of the TLY block (R456). -/
def tlyRows : List RegRow :=
  [ ⟨0, 1, .ro, false, 0, 0, 0, 0, 0⟩  -- TLY_STATE
  , ⟨4, 1, .sc, false, 0, 0, 0, 0xffff07, 0⟩  -- TLY_STATUS
  ]

/-- Registers of the BST block (R456). -/
def bstRows : List RegRow :=
  [ ⟨0, 1, .rwm, true, 1, 0, 0, 0, 1⟩  -- BST_CTL
  , ⟨4, 1, .rw, true, 0xff, 0, 0, 0, 0x18⟩  -- BST_PERIOD
  , ⟨8, 1, .ro, false, 0, 0, 0, 0, 0⟩  -- BST_STATE
  , ⟨0xc, 1, .sc, false, 0, 0, 0, 0xffffff, 0⟩  -- BST_STATUS
  , ⟨0x10, 1, .ro, false, 0, 0, 0, 0, 0⟩  -- BST_RESERVE0
  , ⟨0x14, 1, .ro, false, 0, 0, 0, 0, 0⟩  -- BST_RESERVE1
  ]

/-- Registers of the SEC block (R456). -/
def secRows : List RegRow :=
  [ ⟨0, 1, .ro, false, 0, 0, 0, 0, 0⟩  -- SEC_STATE
  ]

/-- Registers of the GRD and MBX block (R456). -/
def grdRows : List RegRow :=
  [ ⟨0, 1, .rw, false, 0x1f, 0, 0, 0, 0⟩  -- GRD_HOLD
  , ⟨4, 1, .wo, false, 1, 0, 0, 0, 0⟩  -- GRD_CMD
  , ⟨8, 1, .ro, false, 0, 0, 0, 0, 0⟩  -- GRD_STATE
  , ⟨0xc, 1, .ro, false, 0, 0, 0, 0, 0⟩  -- GRD_REF
  , ⟨0x10, 1, .ro, false, 0, 0, 0, 0, 0⟩  -- GRD_LAST
  , ⟨0x14, 1, .rw, true, 0xffff, 0, 0, 0, 0x64⟩  -- GRD_HOLD_MAX
  , ⟨0x18, 1, .sc, false, 0, 0, 0, 0xff0001, 0⟩  -- GRD_STATUS
  , ⟨0x20, 1, .sc, false, 0, 0, 0, 0xff007f, 0⟩  -- ACC_LOG
  , ⟨0x24, 1, .ro, false, 0, 0, 0, 0, 0⟩  -- ACC_ADDR
  , ⟨0x100, 1, .rw, false, 0xffffffff, 0, 0, 0, 0⟩  -- MBX_SEL
  , ⟨0x104, 1, .ro, false, 0, 0, 0, 0, 0⟩  -- MBX_STATE
  , ⟨0x110, 4, .ro, false, 0, 0, 0, 0, 0⟩  -- MBX_DATAi
  ]

/-- Registers of the doorbell page block (R456). -/
def rngRows : List RegRow :=
  [ ⟨0, 1, .wo, false, 0xffff, 0, 0, 0, 0⟩  -- SQ_TAIL
  , ⟨4, 1, .wo, false, 0xffff, 0, 0, 0, 0⟩  -- CQ_HEAD
  ]

/-- Registers of the FLM block (R456). -/
def flmRows : List RegRow :=
  [ ⟨0, 1, .rwm, true, 7, 0, 0, 0, 4⟩  -- FLM_CTL
  , ⟨4, 1, .ro, false, 0, 0, 0, 0, 0⟩  -- FLM_STATE
  , ⟨0x10, 1, .rw, true, 0xffff, 0, 0, 0, 0xc8⟩  -- FLM_AGE_LIMIT0
  , ⟨0x14, 1, .rw, true, 0xffff, 0, 0, 0, 0x320⟩  -- FLM_AGE_LIMIT1
  , ⟨0x18, 1, .rw, true, 0xffff, 0, 0, 0, 0x7d0⟩  -- FLM_AGE_LIMIT2
  , ⟨0x1c, 1, .rw, true, 0xffff, 0, 0, 0, 0x4e20⟩  -- FLM_AGE_LIMIT3
  , ⟨0x20, 1, .rw, true, 0x1fff, 0, 0, 0, 0x28⟩  -- FLM_PORT_TGT0
  , ⟨0x24, 1, .rw, true, 0x1fff, 0, 0, 0, 0x28⟩  -- FLM_PORT_TGT1
  , ⟨0x28, 1, .rw, true, 0x1fff, 0, 0, 0, 0x28⟩  -- FLM_PORT_TGT2
  , ⟨0x2c, 1, .rw, true, 0x1fff, 0, 0, 0, 0x28⟩  -- FLM_PORT_TGT3
  , ⟨0x30, 1, .rw, true, 0x1fff, 0, 0, 0, 0xc8⟩  -- FLM_PORT_TGT4
  , ⟨0x34, 1, .rw, true, 0x1fff, 0, 0, 0, 0x190⟩  -- FLM_PORT_TGT5
  , ⟨0x38, 1, .rw, true, 0x1fff, 0, 0, 0, 0x190⟩  -- FLM_PORT_TGT6
  , ⟨0x3c, 1, .rw, true, 0x1fff, 0, 0, 0, 0x3e8⟩  -- FLM_PORT_TGT7
  , ⟨0x40, 1, .rw, true, 0x1fff, 0, 0, 0, 0x1388⟩  -- FLM_PORT_TGT8
  , ⟨0x50, 1, .rw, true, 0x1ff01ff, 0, 0, 0, 0xa000c0⟩  -- FLM_WEIR
  , ⟨0x54, 1, .rw, true, 0xffff, 0, 0, 0, 0x1030⟩  -- FLM_ROWPOL
  , ⟨0x58, 1, .sc, false, 0, 0, 0, 0xf, 0⟩  -- FLM_QUEUE_STATUS
  , ⟨0x5c, 1, .sc, false, 0, 0, 0, 0xff31f1, 0⟩  -- FLM_RETRY_STATUS
  , ⟨0x60, 1, .rw, true, 0xff, 0, 0, 0, 0x48⟩  -- FLM_REF_CTL
  , ⟨0x64, 1, .ro, false, 0, 0, 0, 0, 0⟩  -- FLM_REF_RATE
  , ⟨0x68, 1, .sc, false, 0, 0, 0, 0xf1f1, 0⟩  -- FLM_REF_STATUS
  , ⟨0x6c, 1, .sc, false, 0, 0, 0, 0xffffe0, 0⟩  -- FLM_RET_STATUS
  , ⟨0x70, 1, .rwm, true, 3, 0, 0, 0, 3⟩  -- FLM_ECC_CTL
  , ⟨0x74, 1, .sc, false, 0, 0, 0, 0xffff00, 0⟩  -- FLM_ECC_STATUS
  , ⟨0x7c, 1, .rw, true, 0xffdfffff, 0, 0, 0, 0⟩  -- FLM_ECC_INJ
  , ⟨0x80, 8, .ro, false, 0, 0, 0, 0, 0⟩  -- FLM_ERASUREi
  , ⟨0x100, 1, .rw, true, 0, 0, 0xfffffff, 0, 1⟩  -- FLM_MAP_MASK0
  , ⟨0x104, 1, .rw, true, 0, 0, 0xfffffff, 0, 2⟩  -- FLM_MAP_MASK1
  , ⟨0x108, 1, .rw, true, 0, 0, 0xfffffff, 0, 0x80⟩  -- FLM_MAP_MASK2
  , ⟨0x10c, 1, .rw, true, 0, 0, 0xfffffff, 0, 0x100⟩  -- FLM_MAP_MASK3
  , ⟨0x110, 1, .rw, true, 0, 0, 0xfffffff, 0, 0x200⟩  -- FLM_MAP_MASK4
  , ⟨0x114, 1, .rw, true, 0, 0, 0xfffffff, 0, 0x400⟩  -- FLM_MAP_MASK5
  , ⟨0x118, 1, .rw, true, 0, 0, 0xfffffff, 0, 0x800⟩  -- FLM_MAP_MASK6
  , ⟨0x11c, 1, .rw, true, 0, 0, 0xfffffff, 0, 0x1000⟩  -- FLM_MAP_MASK7
  , ⟨0x120, 1, .rw, true, 0, 0, 0xfffffff, 0, 0x2000⟩  -- FLM_MAP_MASK8
  , ⟨0x124, 1, .rw, true, 0, 0, 0xfffffff, 0, 0x4000⟩  -- FLM_MAP_MASK9
  , ⟨0x130, 1, .wo, false, 0, 1, 0, 0, 0⟩  -- FLM_MAP_APPLY
  , ⟨0x134, 1, .sc, false, 0, 0, 0, 0xf03, 0⟩  -- FLM_MAP_STATUS
  , ⟨0x140, 1, .rwm, true, 2, 1, 0, 0, 2⟩  -- FLM_TRN_CTL
  , ⟨0x144, 1, .rw, true, 0xff0f, 0, 0, 0, 0x3208⟩  -- FLM_TRN_RETUNE
  , ⟨0x148, 1, .wo, false, 0xfe07, 0, 0, 0, 0⟩  -- FLM_TRN_CMD
  , ⟨0x14c, 1, .rw, false, 0x7f, 0, 0, 0, 0⟩  -- FLM_TRN_SEL
  , ⟨0x150, 1, .ro, false, 0, 0, 0, 0, 0⟩  -- FLM_TRN_STATE
  , ⟨0x154, 1, .sc, false, 0, 0, 0, 0xffffff, 0⟩  -- FLM_TRN_STATUS
  , ⟨0x160, 4, .ro, false, 0, 0, 0, 0, 0⟩  -- FLM_TRN_FBk
  ]

/-- Registers of the MIL block (R456). -/
def milRows : List RegRow :=
  [ ⟨0, 1, .rwm, true, 3, 0, 0, 0, 3⟩  -- MIL_CTL
  , ⟨4, 1, .ro, false, 0, 0, 0, 0, 0⟩  -- MIL_STATE
  , ⟨8, 1, .rw, true, 3, 0, 0, 0, 0⟩  -- MIL_OPP
  , ⟨0xc, 1, .ro, false, 0, 0, 0, 0, 0⟩  -- MIL_UCODE_VER
  , ⟨0x10, 1, .ro, false, 0, 0, 0, 0, 0⟩  -- MIL_UCODE_SEC
  , ⟨0x14, 1, .rw, true, 0xffff, 0, 0, 0, 0xfa0⟩  -- MIL_WDOG
  , ⟨0x18, 1, .rw, true, 0xffff, 0, 0, 0, 0x64⟩  -- MIL_SLICE
  , ⟨0x1c, 1, .sc, false, 0, 0, 0, 0xff07ff, 0⟩  -- MIL_FAULT_STATUS
  ]

/-- Registers of the HPT, below the ring registers block (R456). -/
def hptRows : List RegRow :=
  [ ⟨0, 1, .rwm, true, 3, 0, 0, 0, 2⟩  -- HPT_CTL
  , ⟨4, 1, .ro, false, 0, 0, 0, 0, 0⟩  -- HPT_LINK
  , ⟨8, 1, .sc, false, 0, 0, 0, 0xfffffe, 0⟩  -- HPT_STATUS
  ]

/-- Registers of the ring pair (HPT offset 0x1000 + 0x40 p) block (R456). -/
def ringRows : List RegRow :=
  [ ⟨0, 1, .rw, true, 0, 0xfffff000, 0, 0, 0⟩  -- RNG_SQ_BASE_LO
  , ⟨4, 1, .rw, true, 0, 0xffffffff, 0, 0, 0⟩  -- RNG_SQ_BASE_HI
  , ⟨8, 1, .rw, true, 0, 0xfffff000, 0, 0, 0⟩  -- RNG_CQ_BASE_LO
  , ⟨0xc, 1, .rw, true, 0, 0xffffffff, 0, 0, 0⟩  -- RNG_CQ_BASE_HI
  , ⟨0x10, 1, .rw, true, 0, 0x1f1f, 0, 0, 0⟩  -- RNG_SIZE
  , ⟨0x14, 1, .rw, false, 3, 0, 0, 0, 0⟩  -- RNG_CMD
  , ⟨0x18, 1, .rw, true, 0x7ff0, 0, 0, 0, 0x10⟩  -- RNG_CTL
  , ⟨0x1c, 1, .rw, true, 0x3ff00ff, 0, 0, 0, 0⟩  -- RNG_COAL
  , ⟨0x20, 1, .ro, false, 0, 0, 0, 0, 0⟩  -- RNG_STATE
  , ⟨0x24, 1, .ro, false, 0, 0, 0, 0, 0⟩  -- RNG_PTR
  , ⟨0x28, 1, .sc, false, 0, 0, 0, 0xffffff, 0⟩  -- RNG_ERR_STATUS
  ]

/-- Registers of the LET block (R456). -/
def lettRows : List RegRow :=
  [ ⟨0, 1, .rwm, true, 3, 0, 0, 0, 1⟩  -- LET_CTL
  , ⟨4, 1, .ro, false, 0, 0, 0, 0, 0⟩  -- LET_STATE
  , ⟨8, 1, .sc, false, 0, 0, 0, 0xffff01, 0⟩  -- LET_STATUS
  , ⟨0x100, 1, .rw, true, 0xffff, 0, 0, 0, 0x32⟩  -- LET_PAIR_CTL
  , ⟨0x104, 1, .ro, false, 0, 0, 0, 0, 0⟩  -- LET_PAIR_STATE
  , ⟨0x108, 1, .ro, false, 0, 0, 0, 0, 0⟩  -- LET_POND_SEQ
  , ⟨0x10c, 1, .ro, false, 0, 0, 0, 0, 0⟩  -- LET_APPLIED_SEQ
  , ⟨0x110, 1, .ro, false, 0, 0, 0, 0, 0⟩  -- LET_DIRTY
  , ⟨0x114, 1, .sc, false, 0, 0, 0, 0xff0007, 0⟩  -- LET_PAIR_STATUS
  , ⟨0x120, 1, .ro, false, 0, 0, 0, 0, 0⟩  -- LET_SSP_SEQ
  , ⟨0x200, 8, .ro, false, 0, 0, 0, 0, 0⟩  -- LET_RGN_STATEi
  ]

/-- Registers of the LAN block (R456). -/
def lanRows : List RegRow :=
  [ ⟨0, 1, .rwm, true, 3, 0, 0, 0, 0⟩  -- LAN_CTL
  , ⟨4, 1, .ro, false, 0, 0, 0, 0, 0⟩  -- LAN_STATE
  , ⟨8, 1, .ro, false, 0, 0, 0, 0, 0⟩  -- LAN_DFE0
  , ⟨0xc, 1, .ro, false, 0, 0, 0, 0, 0⟩  -- LAN_DFE1
  , ⟨0x10, 1, .rw, true, 0, 0x3ff, 0, 0, 0x318⟩  -- LAN_PRBS_CTL
  , ⟨0x14, 1, .rw, true, 0, 0xffffffff, 0, 0, 0⟩  -- LAN_PRBS_INJ_MASK
  , ⟨0x18, 1, .rw, true, 0, 0xc000ffff, 0, 0, 0⟩  -- LAN_PRBS_INJ_CTL
  , ⟨0x1c, 1, .sc, false, 0, 0, 0, 0xffff04, 0⟩  -- LAN_PRBS_STATUS
  , ⟨0x20, 1, .rw, true, 0x7f7f3f3f, 0, 0, 0, 0x3f411f20⟩  -- LAN_SCAN_RANGE
  , ⟨0x24, 1, .rw, false, 0x831f0f0f, 0, 0, 0, 0x1140401⟩  -- LAN_SCAN_CMD
  , ⟨0x28, 1, .sc, false, 0, 0, 0, 0x73ff, 0⟩  -- LAN_SCAN_STATUS
  ]

/-- A block of R454, with its instance. -/
inductive Blk where
  | glb
  | flt
  | pwr
  | thm
  | fus
  | tly
  | bst
  | sec
  | grd
  | rng (n : Nat)
  | flm (n : Nat)
  | mil (n : Nat)
  | hpt (h : Nat)
  | lett (k : Nat)
  | lan (l : Nat)
  deriving DecidableEq, Repr

/-- The block of a BAR0 offset and the decoded offset inside it (R444, R454), none for an address in no block. -/
def blkAt (off : Nat) : Option (Blk × Nat) :=
  if off < 0x90000 then
    let i := off % 0x1000
    match off / 0x10000 with
    | 0 => some (.glb, i)
    | 1 => some (.flt, i)
    | 2 => some (.pwr, i)
    | 3 => some (.thm, i)
    | 4 => some (.fus, i)
    | 5 => some (.tly, i)
    | 6 => some (.bst, i)
    | 7 => some (.sec, i)
    | _ => some (.grd, i)
  else if off < 0x100000 then none
  else if off < 0x200000 then some (.rng ((off - 0x100000) / 0x1000), off % 8)
  else if off < 0x400000 then some (.flm ((off - 0x200000) / 0x10000), off % 0x4000)
  else if off < 0x600000 then some (.mil ((off - 0x400000) / 0x10000), off % 0x4000)
  else if off < 0x640000 then some (.hpt ((off - 0x600000) / 0x10000), off % 0x10000)
  else if off < 0x680000 then none
  else if off < 0x6A0000 then some (.lett ((off - 0x680000) / 0x10000), off % 0x10000)
  else if off < 0x700000 then none
  else if off < 0x760000 then some (.lan ((off - 0x700000) / 0x1000), off % 0x1000)
  else none

/-- The first BAR0 offset of a block (R454). -/
def blkBase : Blk → Nat
  | .glb => 0
  | .flt => 0x10000
  | .pwr => 0x20000
  | .thm => 0x30000
  | .fus => 0x40000
  | .tly => 0x50000
  | .bst => 0x60000
  | .sec => 0x70000
  | .grd => 0x80000
  | .rng n => 0x100000 + n * 0x1000
  | .flm n => 0x200000 + n * 0x10000
  | .mil n => 0x400000 + n * 0x10000
  | .hpt h => 0x600000 + h * 0x10000
  | .lett k => 0x680000 + k * 0x10000
  | .lan l => 0x700000 + l * 0x1000

/-- The row that holds an offset. -/
def findRow : List RegRow → Nat → Option RegRow
  | [], _ => none
  | r :: t, o => if r.off ≤ o ∧ o < r.off + 4 * r.count then some r else findRow t o

/-- The register row at a decoded offset of a block, none where it holds no register of R456 or a window. -/
def rowAt (b : Blk) (i : Nat) : Option RegRow :=
  match b with
  | .glb => findRow glbRows i
  | .flt => findRow fltRows i
  | .pwr => findRow pwrRows i
  | .thm => findRow thmRows i
  | .fus => findRow fusRows i
  | .tly => findRow tlyRows i
  | .bst => findRow bstRows i
  | .sec => findRow secRows i
  | .grd => findRow grdRows i
  | .rng _ => findRow rngRows i
  | .flm _ => findRow flmRows i
  | .mil _ => findRow milRows i
  | .hpt _ => if 0x1000 ≤ i ∧ i < 0x2000 then findRow ringRows ((i - 0x1000) % 0x40) else findRow hptRows i
  | .lett k => if k = 0 ∨ i < 0x100 then findRow lettRows i else none
  | .lan _ => findRow lanRows i

/-- The one offset that stands for all aliases of an address (R444). -/
def canonOff (off : Nat) : Nat :=
  match blkAt off with
  | some (b, i) => blkBase b + i
  | none => off

/-- The number of the posted-write port of an offset: the block whose busy bit covers it (R435, R454), none for an AUX block. -/
def busyOf (b : Blk) (i : Nat) : Option Nat :=
  match b with
  | .flm n => some (if (0x140 ≤ i ∧ i ≤ 0x16F) ∨ 0x2000 ≤ i then 32 + n else n)
  | .mil n => some (64 + n)
  | .hpt h => some (96 + h)
  | .lett k => some (100 + k)
  | .lan l => some (102 + l)
  | .pwr => some 198
  | .thm => some 199
  | .fus => some 200
  | .tly => some 201
  | .bst => some 202
  | .sec => some 203
  | _ => none

/-- The reset value of the register at a canonical offset. -/
def regReset (off : Nat) : Word :=
  match blkAt off with
  | some (b, i) => BitVec.ofNat 32 ((rowAt b i).elim 0 RegRow.reset)
  | none => 0

/-- The word a register holds. -/
def regGet (s : State) (off : Nat) : Word := tabGet (regReset off) s.regs off

/-- Storing a register word. -/
def regSet (s : State) (off : Nat) (v : Word) : State :=
  { s with regs := tabSet (regReset off) s.regs off v }

/-- A field of a register word. -/
def regField (s : State) (off hi lo : Nat) : Nat := bits (regGet s off).toNat hi lo

/-- A number with its bits `hi..lo` replaced. -/
def putBits (w hi lo v : Nat) : Nat :=
  w / 2 ^ (hi + 1) * 2 ^ (hi + 1) + v % 2 ^ (hi + 1 - lo) * 2 ^ lo + w % 2 ^ lo

/-- A counter field advanced by 1, saturating at its largest value. -/
def bumpBits (w hi lo : Nat) : Nat := putBits w hi lo (satInc (2 ^ (hi + 1 - lo) - 1) (bits w hi lo))

/-- Setting a field of a register word by the device. -/
def regPut (s : State) (off hi lo v : Nat) : State :=
  regSet s off (BitVec.ofNat 32 (putBits (regGet s off).toNat hi lo v))

/-- The next sequence number: 1 to 255, wrapping to 1 (R440). -/
def nextSeq (n : Nat) : Nat := if n = 255 then 1 else n + 1

/-- An event of a status register: its fields change by `f` and its sequence number advances (R440). -/
def scEvent (s : State) (off : Nat) (f : Nat → Nat) : State :=
  let v := (regGet s off).toNat
  regSet s off (BitVec.ofNat 32 (nextSeq (v / 2 ^ 24) * 2 ^ 24 + f (v % 2 ^ 24) % 2 ^ 24))

/-- A sequence write-back: a current number clears the fields that are not live views, any other clears nothing (R440). -/
def scClear (s : State) (off clr : Nat) (v : Word) : State :=
  let w := (regGet s off).toNat
  if v.toNat / 2 ^ 24 = w / 2 ^ 24 then
    regSet s off (BitVec.ofNat 32 w &&& ~~~(BitVec.ofNat 32 clr))
  else s

/-! Offsets of the registers that rules name. -/

def oFlm (f o : Nat) : Nat := 0x200000 + f * 0x10000 + o
def oMil (m o : Nat) : Nat := 0x400000 + m * 0x10000 + o
def oHpt (h o : Nat) : Nat := 0x600000 + h * 0x10000 + o
/-- Register `o` of ring pair `n` = 64 h + p. -/
def oRing (n o : Nat) : Nat := oHpt (n / 64) (0x1000 + 0x40 * (n % 64) + o)
def oLet (k o : Nat) : Nat := 0x680000 + k * 0x10000 + o
def oLan (l o : Nat) : Nat := 0x700000 + l * 0x1000 + o
def oFlt (o : Nat) : Nat := 0x10000 + o
def oPwr (o : Nat) : Nat := 0x20000 + o
def oThm (o : Nat) : Nat := 0x30000 + o
def oFus (o : Nat) : Nat := 0x40000 + o
def oTly (o : Nat) : Nat := 0x50000 + o
def oBst (o : Nat) : Nat := 0x60000 + o
def oGrd (o : Nat) : Nat := 0x80000 + o

/-- The busy bit of a posted-write port (R436); a training block is busy while a mode change or command runs (R292, R311). -/
def busy (s : State) (port : Nat) : Bool :=
  (tabGet none s.acc.posted port).isSome ||
    (decide (32 ≤ port ∧ port < 64) && !(tabGet flumeInit s.flumes (port - 32)).trnWait.isEmpty)

end Sys2Proof.Machine
end

