-- ==== Sys2Proof/Machine/Ops.lean ====
section
/-! DEFINITION. The named operations over the state's arrays and over the stored lines of the DRAM. -/

namespace Sys2Proof.Machine

/-- What a meaning answers. -/
abbrev Answer := Host.Outcome State Fault Refusal

/-- A meaning on elements that exist; otherwise the fault (R10 and the naming table of the scope file). -/
def onElement (ok : Bool) (k : Answer) : Answer := if ok then k else .fault .noSuchElement

/-! Elements of the sparse arrays. -/

def getFlume (s : State) (f : Nat) : Flume := tabGet flumeInit s.flumes f
def modFlume (s : State) (f : Nat) (g : Flume → Flume) : State := { s with flumes := tabMod flumeInit s.flumes f g }

def subKey (f sc : Nat) : Nat := f * 4 + sc
def bayKey (f sc t : Nat) : Nat := (f * 4 + sc) * 17 + t
/-- The bank number of R317. -/
def bankKey (f sc t b : Nat) : Nat := bayKey f sc t * 16 + b

def getSub (s : State) (k : Nat) : SubChan := tabGet subInit s.subs k
def modSub (s : State) (k : Nat) (g : SubChan → SubChan) : State := { s with subs := tabMod subInit s.subs k g }
def getBay (s : State) (k : Nat) : Bay := tabGet bayInit s.bays k
def modBay (s : State) (k : Nat) (g : Bay → Bay) : State := { s with bays := tabMod bayInit s.bays k g }
def getBank (s : State) (k : Nat) : Bank := tabGet bankInit s.banks k
def modBank (s : State) (k : Nat) (g : Bank → Bank) : State := { s with banks := tabMod bankInit s.banks k g }
def getHead (s : State) (h : Nat) : Head := tabGet headInit s.heads h
def modHead (s : State) (h : Nat) (g : Head → Head) : State := { s with heads := tabMod headInit s.heads h g }
def getPair (s : State) (n : Nat) : Pair := tabGet pairInit s.pairs n
def modPair (s : State) (n : Nat) (g : Pair → Pair) : State := { s with pairs := tabMod pairInit s.pairs n g }
def getDesc (s : State) (d : Nat) : Option Desc := tabGet none s.descs d
def putDesc (s : State) (d : Nat) (x : Option Desc) : State := { s with descs := tabSet none s.descs d x }
def modDesc (s : State) (d : Nat) (g : Desc → Desc) : State := putDesc s d ((getDesc s d).map g)
def getPart (s : State) (p : Nat) : Option Part := tabGet none s.parts p
def putPart (s : State) (p : Nat) (x : Option Part) : State := { s with parts := tabSet none s.parts p x }
def modPart (s : State) (p : Nat) (g : Part → Part) : State := putPart s p ((getPart s p).map g)
def getMill (s : State) (m : Nat) : Mill := tabGet millInit s.mills m
def modMill (s : State) (m : Nat) (g : Mill → Mill) : State := { s with mills := tabMod millInit s.mills m g }
def getLane (s : State) (l : Nat) : Lane := tabGet laneInit s.lanes l
def modLane (s : State) (l : Nat) (g : Lane → Lane) : State := { s with lanes := tabMod laneInit s.lanes l g }
def getPort (s : State) (k : Nat) : Port := tabGet portInit s.leat.ports k
def modLeat (s : State) (g : Leat → Leat) : State := { s with leat := g s.leat }
def modPort (s : State) (k : Nat) (g : Port → Port) : State :=
  modLeat s fun l => { l with ports := tabMod portInit l.ports k g }
def getSource (s : State) (k : Nat) : Source := tabGet sourceInit s.flt.sources k
def modSource (s : State) (k : Nat) (g : Source → Source) : State :=
  { s with flt := { s.flt with sources := tabMod sourceInit s.flt.sources k g } }

/-- Sending something off the device. -/
def emit (s : State) (o : Out) : State := { s with out := s.out ++ [o] }

/-- The next free value is another one. -/
def bumpFree (s : State) : State := { s with freeCtr := s.freeCtr + 1 }

/-- Data bits of a line delivered poisoned that no storage holds: a free value. -/
def lostData (s : State) : Nat := (Config.poisonData s.freeCtr).toNat

/-- Ranges of the elements (R10, R43, R187, R224, R432, R454). -/
def okF (f : Nat) : Bool := decide (f < 32)
def okSub (f sc : Nat) : Bool := decide (f < 32) && decide (sc < 4)
def okBay (f sc t : Nat) : Bool := okSub f sc && decide (t < 17)
def okBank (f sc t b : Nat) : Bool := okBay f sc t && decide (b < 16)
def okHead (h : Nat) : Bool := decide (h < 4)
def okPair (n : Nat) : Bool := decide (n < 256)
def okPath (p : Nat) : Bool := decide (p < 5)
def okLane (l : Nat) : Bool := decide (l < 96)
def okPort (k : Nat) : Bool := decide (k < 2)

/-- Ticks of 1 microsecond since the release of reset (R4, R358). -/
def ticks (s : State) : Nat := (s.now - s.boot.since) / 1000

/-- Applying a change for each number of a list, in order. -/
def forAll (s : State) (ks : List Nat) (g : State → Nat → State) : State := ks.foldl g s

/-! The DRAM array as bytes. -/

/-- The canonical form of the memory: addresses rising, no listed byte equal to 0, what an unlisted one reads as. -/
abbrev Memory.wf (m : List Host.Cell) : Prop := tabWf (0 : Byte) m

/-- `n` bytes from address `a`, as a little-endian number. -/
def memRead (m : List Host.Cell) (a : Nat) : Nat → Nat
  | 0 => 0
  | n + 1 => (tabGet (0 : Byte) m a).toNat + 256 * memRead m (a + 1) n

/-- Writing `n` bytes of a number at address `a`. -/
def memWrite (m : List Host.Cell) (a : Nat) : Nat → Nat → List Host.Cell
  | 0, _ => m
  | n + 1, v => memWrite (tabSet (0 : Byte) m a (BitVec.ofNat 8 v)) (a + 1) n (v / 256)

/-- What a physical line holds that nothing has written since the rails last left their window: zeros, or free contents (R81). -/
def lineBase (s : State) (k : Nat) : Nat := if s.lost = 0 then 0 else (Config.lostLine k s.lost).toNat

/-- The 80 bytes of physical line `k`. -/
def cellsAt (s : State) (k : Nat) : Nat := memRead s.mem (k * 80) 80 ^^^ lineBase s k

/-- Storing the 80 bytes of physical line `k`. -/
def setCells (s : State) (k v : Nat) : State := { s with mem := memWrite s.mem (k * 80) 80 (v ^^^ lineBase s k) }

/-! A line: eight stored words (R90 to R95). -/

/-- The eight metadata bits of a line: CXL.mem metadata, mirror-dirty, three equal poison copies (R92). -/
def mdMake (cxl : Nat) (dirty poison : Bool) : Nat :=
  (if poison then 0x49 else 0) + cxl % 4 * 2 + (if dirty then 16 else 0)

def mdCxl (md : Nat) : Nat := bits md 2 1
def mdDirty (md : Nat) : Bool := bitOf md 4

/-- The number of poison copies set. -/
def poisonCopies (md : Nat) : Nat := b2n (bitOf md 0) + b2n (bitOf md 3) + b2n (bitOf md 6)

/-- The poison mark, read by majority (R94). -/
def mdPoison (md : Nat) : Bool := decide (2 ≤ poisonCopies md)

/-- The poison copies disagree (R94). -/
def poisonSplit (md : Nat) : Bool := poisonCopies md == 1 || poisonCopies md == 2

/-- The stored form of 64 bytes and their metadata (R90, R91). -/
def encodeLine (data md : Nat) : Nat :=
  (List.range 8).foldl (fun a j => a + bchEncode (bits data (64 * j + 63) (64 * j) + b2n (bitOf md j) * 2 ^ 64) * 2 ^ (80 * j)) 0

/-- What decoding a line finds (R95): data and metadata, the words corrected, the most positions corrected in one word,
and whether some word is uncorrectable (its data bits are then as read). -/
structure Decoded where
  data : Nat
  md : Nat
  words : Nat
  worst : Nat
  bad : Bool
  deriving DecidableEq, Repr

/-- Decoding the eight words with the erased positions of their word groups (R91, R95, R108). -/
def decodeLine (erased : Nat → List Nat) (st : Nat) : Decoded :=
  (List.range 8).foldl (fun a j =>
    let w := bits st (80 * j + 79) (80 * j)
    let r := bchDecode w (erased (j % 4))
    let c := (r.map Prod.fst).getD w
    let n := (r.map Prod.snd).getD 0
    ⟨a.data + c % 2 ^ 64 * 2 ^ (64 * j), a.md + b2n (bitOf c 64) * 2 ^ j, a.words + (if n = 0 then 0 else 1),
      max a.worst n, a.bad || r.isNone⟩) ⟨0, 0, 0, 0, false⟩

/-- Stored bits inverted at a list of positions, 80 × word + position. -/
def invert (st : Nat) (ps : List Nat) : Nat := ps.foldl (fun a p => if p < 640 then a ^^^ 2 ^ p else a) st

/-- The inverted positions that a list of flips gives a physical line: for its first read, and for a second. -/
def flipsAt (fl : List Flip) (k : Nat) : List Nat × List Nat :=
  let l := fl.filter fun e => e.line == k
  ((l.map fun e => e.bits).flatten, (l.map fun e => e.again).flatten)

/-! Units of 64 bytes, as numbers with byte 0 lowest. -/

/-- Bytes of `new` where the mask is set, else of `old` (R98). -/
def mergeBytes (old new : Nat) (mask : Nat) : Nat :=
  (List.range 64).foldl (fun a i =>
    a + (if bitOf mask i then bits new (8 * i + 7) (8 * i) else bits old (8 * i + 7) (8 * i)) * 2 ^ (8 * i)) 0

end Sys2Proof.Machine
end

