-- ==== Sys2Proof/Machine/Map.lean ====
section
/-! DEFINITION. From DPA to flume and line (R26, R32), from line address to bank (R36), and the corrections below the map (R41). -/

namespace Sys2Proof.Machine

/-! Fields of a region entry (R26), held as the number its 16 bytes spell. -/

def rgBase (e : Nat) : Nat := bits e 10 0
def rgSize (e : Nat) : Nat := bits e 27 16
def rgFa (e : Nat) : Nat := bits e 42 32
def rgFirst (e : Nat) : Nat := bits e 52 48
def rgLog (e : Nat) : Nat := bits e 58 56
def rgGranule (e : Nat) : Nat := bits e 65 64
def rgMode (e : Nat) : Nat := bits e 73 72
def rgSecondary (e : Nat) : Bool := bitOf e 74
def rgHeads (e : Nat) : Nat := bits e 83 80
def rgValid (e : Nat) : Bool := bitOf e 88
def rgMillWrite (e : Nat) : Bool := bitOf e 89

/-- 256 MiB, the unit of dpa_base and dpa_size. -/
def mib256 : Nat := 0x10000000

/-- Bytes of a granule (R26). -/
def granuleBytes (e : Nat) : Nat := if rgGranule e = 0 then 256 else if rgGranule e = 1 then 4096 else 65536

/-- The entry's bytes as a number. -/
def regionWord (s : State) (i : Nat) : Nat := (tabGet (0 : BitVec 128) s.regions i).toNat

/-- The entry is valid and has no uncorrectable error (R31). -/
def regionLive (s : State) (i : Nat) : Bool := rgValid (regionWord s i) && !s.badRegions.contains i

/-- A DPA lies in an entry's range. -/
def inEntry (e dpa : Nat) : Bool := decide (rgBase e * mib256 ≤ dpa) && decide (dpa < (rgBase e + rgSize e) * mib256)

/-- The live entry that holds a DPA. -/
def regionAt (s : State) (dpa : Nat) : Option Nat :=
  (List.range 64).find? fun i => regionLive s i && inEntry (regionWord s i) dpa

/-- R32: flume and flume address of a DPA inside an entry. -/
def faOf (e dpa : Nat) : Nat × Nat :=
  let o := dpa - rgBase e * mib256
  let g := granuleBytes e
  let n := 2 ^ rgLog e
  if n = 1 then (rgFirst e, rgFa e * 0x800000 + o)
  else (rgFirst e + o / g % n, rgFa e * 0x800000 + o / g / n * g + o % g)

/-- Flume and line address of a DPA inside an entry. -/
def lineOf (e dpa : Nat) : Nat × Nat := ((faOf e dpa).1, (faOf e dpa).2 / 64)

/-- The DPA of a flume's line under an entry, the inverse of R32, none where the entry does not hold it. -/
def dpaOf (e f line : Nat) : Option Nat :=
  let n := 2 ^ rgLog e
  let fa := line * 64
  let share := rgSize e * mib256 / n
  if rgFirst e ≤ f ∧ f < rgFirst e + n ∧ rgFa e * 0x800000 ≤ fa ∧ fa < rgFa e * 0x800000 + share then
    let r := fa - rgFa e * 0x800000
    let g := granuleBytes e
    if n = 1 then some (rgBase e * mib256 + r)
    else some (rgBase e * mib256 + (r / g * n + (f - rgFirst e)) * g + r % g)
  else none

/-- The live entry and DPA that a flume's line serves. -/
def ownerOf (s : State) (f line : Nat) : Option (Nat × Nat) :=
  (List.range 64).findSome? fun i =>
    if regionLive s i then (dpaOf (regionWord s i) f line).map fun d => (i, d) else none

/-! The map of R36. -/

/-- The bit a mapped field takes under the reset masks (R36). -/
def basePos (i : Nat) : Nat := natAt [0, 1, 7, 8, 9, 10, 11, 12, 13, 14] i

/-- Mask `i` in force. -/
def maskOf (x : Flume) (i : Nat) : Nat := (tabGet (BitVec.ofNat 32 (2 ^ basePos i)) x.masks i).toNat

/-- Mapped bit `i` of a line address. -/
def mappedBit (x : Flume) (line i : Nat) : Nat := b2n (parityBelow (line &&& maskOf x i) 28)

/-- A coordinate below the flume: sub-channel, tier, bank index in the bay, row and column. -/
structure Coord where
  sc : Nat
  tier : Nat
  bank : Nat
  row : Nat
  col : Nat
  deriving DecidableEq, Repr

/-- R36: the coordinate of a line address. -/
def mapLine (x : Flume) (line : Nat) : Coord where
  sc := mappedBit x line 0 + 2 * mappedBit x line 1
  tier := mappedBit x line 6 + 2 * mappedBit x line 7 + 4 * mappedBit x line 8 + 8 * mappedBit x line 9
  bank := 4 * (mappedBit x line 2 + 2 * mappedBit x line 3) + (mappedBit x line 4 + 2 * mappedBit x line 5)
  row := bits line 27 15
  col := bits line 6 2

/-! Corrections below the map (R41). -/

/-- R41 step 1: the tier that holds the valid copy (R20, R70). -/
def redirectTier (s : State) (f : Nat) (c : Coord) : Nat :=
  if (getBay s (bayKey f c.sc c.tier)).redirected then
    match tabGet none (getFlume s f).migrate c.sc with
    | some (t, ptr) => if t = c.tier ∧ ptr ≤ c.bank * 8192 + c.row then c.tier else 16
    | none => 16
  else c.tier

/-- Fields of a line remap entry (R106). -/
def rmValid (e : Nat) : Bool := bitOf e 0
def rmPool (e : Nat) : Nat := bits e 36 30

/-- The remap entry of a coordinate, without valid bit and pool line. -/
def rmKey (c : Coord) : Nat := (c.sc * 2 + c.tier * 8 + c.bank * 2 ^ 8 + c.row * 2 ^ 12 + c.col * 2 ^ 25)

/-- A remap table entry. -/
def rmMake (c : Coord) (pool : Nat) : Nat := 1 + rmKey c + pool * 2 ^ 30

def remapEntry (x : Flume) (i : Nat) : Nat := (tabGet (0 : BitVec 64) x.remap i).toNat

/-- R41 step 2: the index of the remap entry that holds a coordinate. -/
def remapAt (x : Flume) (c : Coord) : Option Nat :=
  (List.range 32).find? fun i => rmValid (remapEntry x i) && remapEntry x i % 2 ^ 30 == rmKey c + 1

/-- A place in the array: bank number, physical row (R10) and column. -/
structure Place where
  bank : Nat
  row : Nat
  col : Nat
  deriving DecidableEq, Repr

/-- The physical line index of a place. -/
def lineKey (p : Place) : Nat := (p.bank * 8224 + p.row) * 32 + p.col

/-- The coordinate after redirection. -/
def coordOf (s : State) (f line : Nat) : Coord :=
  let c := mapLine (getFlume s f) line
  { c with tier := redirectTier s f c }

/-- The bay lies in an offline bay or on a sub-channel out of service (R14, R18). -/
def bayOut (s : State) (f sc t : Nat) : Bool := (getSub s (subKey f sc)).offline || (getBay s (bayKey f sc t)).offline

/-- R41 steps 2 to 4 on a coordinate after redirection. Column groups change latches, not lines. -/
def placeAt (s : State) (f : Nat) (c : Coord) : Place :=
  let b := bankKey f c.sc c.tier c.bank
  match remapAt (getFlume s f) c with
  | some i =>
    let pool := rmPool (remapEntry (getFlume s f) i)
    ⟨b, 8192 + 28 + pool / 32, pool % 32⟩
  | none =>
    let r := tabGet 0 (getBank s b).rows c.row
    ⟨b, if r = 0 then c.row else 8192 + (r - 1), c.col⟩

/-- R41: the place of a line, none in an offline bay. -/
def placeOf (s : State) (f line : Nat) : Option Place :=
  let c := coordOf s f line
  if bayOut s f c.sc c.tier then none else some (placeAt s f c)

/-- The number the hot-word tracker knows a line by (R103). -/
def trackKey (f : Nat) (c : Coord) : Nat := (bankKey f c.sc c.tier c.bank * 8192 + c.row) * 32 + c.col

/-- Flume and sub-channel of a bank number. -/
def bankSub (b : Nat) : Nat := b / 16 / 17
def bankFlume (b : Nat) : Nat := b / 16 / 17 / 4

/-- The erased positions of a word group of a sub-channel (R108). -/
def erasedIn (s : State) (sub g : Nat) : List Nat :=
  ((getSub s sub).erasures.filter fun e => e / 128 == g).map fun e => e % 128

/-- The row of a place, if it is in a holding buffer (R67). -/
def heldAt (s : State) (p : Place) : Option HeldRow :=
  (getFlume s (bankFlume p.bank)).heldRows.find? fun h => h.bank == p.bank && h.row == p.row

/-- What a command is to store: a physical line index and a stored line. -/
def Issued.store (e : Issued) : Option (Nat × Stored) :=
  match e.cmd with
  | .wr _ x => x
  | _ => none

/-- The youngest write of a physical line whose command has issued and has not taken effect (R61, R65). -/
def openWrite (s : State) (sub k : Nat) : Option Stored :=
  (((getSub s sub).held ++ (getSub s sub).retry).reverse.filterMap Issued.store).find? (fun e => e.1 == k) |>.map (·.2)

/-- A command's store is overtaken by a later one of the same line. -/
def Issued.overtaken (k : Nat) (e : Issued) : Issued :=
  match e.cmd with
  | .wr b (some (j, v)) => { e with cmd := .wr b (if j = k then none else some (j, v)) }
  | _ => e

/-- The writes of a physical line whose windows are open store nothing any more: a later store of the line stands. -/
def overtake (s : State) (sub k : Nat) : State :=
  if (openWrite s sub k).isNone then s
  else modSub s sub fun u => { u with held := u.held.map (·.overtaken k), retry := u.retry.map (·.overtaken k) }

/-- The stored form of a place: from its holding copy while it is held (R67), else from the youngest write on its way, else from the
cells. -/
def storedAt (s : State) (p : Place) : Nat :=
  match heldAt s p with
  | some h => ((h.copy.getD p.col 0).toNat)
  | none => match openWrite s (bankSub p.bank) (lineKey p) with
    | some v => v.toNat
    | none => cellsAt s (lineKey p)

/-- Storing at a place: the holding copy alone while it is held (R67). -/
def setStored (s : State) (p : Place) (v : Nat) : State :=
  match heldAt s p with
  | some _ =>
    modFlume s (bankFlume p.bank) fun x =>
      let put (h : HeldRow) : HeldRow := { h with copy := h.copy.set p.col (BitVec.ofNat 640 v) }
      { x with heldRows := mapWhere (fun h => h.bank == p.bank && h.row == p.row) put x.heldRows }
  | none => setCells (overtake s (bankSub p.bank) (lineKey p)) (lineKey p) v

/-- Reading and decoding a place, with stored bits found inverted. -/
def readPlace (s : State) (p : Place) (flips : List Nat) : Decoded :=
  decodeLine (erasedIn s (bankSub p.bank)) (invert (storedAt s p) flips)

/-- Encoding and storing at a place. -/
def writePlace (s : State) (p : Place) (data md : Nat) : State := setStored s p (encodeLine data md)

end Sys2Proof.Machine
end

