-- ==== Sys2Proof/Machine/Flags.lean ====
section
/-! DEFINITION. Flags and interrupts: MSI-X (R479), the fault collector's counting and latching (R422 to R428), access faults
(R432) and the credits' withholding and the responses of a head (R221, R223). -/

namespace Sys2Proof.Machine

/-! MSI-X. -/

/-- The conditions under which a head sends a message at once, but for the link (R479). -/
def msixOpen (x : Head) (v : Nat) : Bool := !x.d3hot && x.bme && !x.fnMask && x.unmasked.contains v

/-- The message of a vector: the address and data its entry of the MSI-X table holds (R224). -/
def vectorMsg (x : Head) (h v : Nat) : Out := .msix h v (tabGet (0, 0) x.vectors v).1 (tabGet (0, 0) x.vectors v).2

/-- R479: a message that falls due is sent, held pending in the PBA, or neither sent nor kept. -/
def sendMsix (s : State) (h v : Nat) : State :=
  let x := getHead s h
  if !x.msix then s
  else if msixOpen x v then
    if x.linkUp then emit (modHead s h fun y => { y with l1 := false }) (vectorMsg x h v) else s
  else modHead s h fun y => { y with pba := insertNat v y.pba }

/-! Sources (R419 to R421). -/

/-- The index of a source in the table. -/
def srcKey (g i : Nat) : Nat := g * 16 + i

/-- Default threshold N and window exponent w of a source, none where R420 and R421 define no source. -/
def sourceDefault (g i : Nat) : Option (Nat × Nat) :=
  if 32 ≤ g ∧ g < 64 then
    [(255, 20), (4, 26), (16, 32), (1, 20), (1, 20), (1, 20), (64, 20), (255, 20), (16, 26), (8, 26), (64, 26), (64, 20),
      (255, 20), (3, 32), (1, 20), (1, 20)][i]?
  else if 16 ≤ g ∧ g ≤ 19 then [(16, 26), (255, 20), (255, 20), (255, 20), (255, 20)][i]?
  else if g = 20 ∨ g = 21 then [(255, 20)][i]?
  else if g = 22 then [(1, 20), (16, 26), (1, 20)][i]?
  else if g = 5 then [(1, 20), (16, 26), (1, 20)][i]?
  else if g = 8 then [(255, 20)][i]?
  else if g = 9 then [(1, 20), (1, 20), (1, 20)][i]?
  else if g = 10 then [(16, 26), (16, 26)][i]?
  else if g = 11 then [(64, 32)][i]?
  else if g = 12 then [(1, 20), (1, 20), (1, 20), (255, 20)][i]?
  else if g ≤ 7 ∨ g = 13 then [(1, 20)][i]?
  else none

/-- A source whose events are fatal: its N and w are fixed (R424). -/
def sourceFixed (g i : Nat) : Bool := (i == 0 && [0, 1, 2, 3, 6, 12].contains g) || (g == 12 && i == 2)

/-- N and w in force (R424, FLT_SRC_CFG: a stored N of 0 acts as 1, a w above 32 as 32). -/
def sourceNW (s : State) (g i : Nat) : Nat × Nat :=
  match sourceDefault g i with
  | none => (0, 0)
  | some (n, w) =>
    let x := getSource s (srcKey g i)
    (if x.nSet = 0 then n else x.nSet - 1, if x.wSet = 0 then w else x.wSet - 1)

/-- The 64-bit status word: bit g while any source of group g is latched (R428). -/
def groupLatched (s : State) (g : Nat) : Bool :=
  (List.range 16).any fun i => decide (0 < (getSource s (srcKey g i)).latch)

/-- An event record for the primary mailbox of every head whose link is up (R426, R229). -/
def addEvents (s : State) (g i sev : Nat) : State :=
  forAll s [0, 1, 2, 3] fun s h =>
    if (getHead s h).linkUp then
      modHead s h fun x => { x with events := x.events ++ [⟨x.nextHandle, g, i, sev⟩], nextHandle := (x.nextHandle + 1) % 65536 }
    else s

/-- The messages of a latch (R426): MSI-X to heads whose enable matches, a fatal latch as a severe one, and the in-band interrupt
(R462). -/
def latchMessages (s : State) (sev : Nat) : State :=
  let s1 := forAll s [0, 1, 2, 3] fun s h =>
    let r := (regGet s (oFlt (0x10 + 4 * h))).toNat
    if bitOf r (if sev = 1 then 9 else 8) then sendMsix s h (bits r 5 0) else s
  let c := (regGet s1 (oFlt 0)).toNat
  if bitOf c (if sev = 1 then 0 else 1) then emit s1 (.ibi 0 (if sev = 1 then 1 else 2)) else s1

/-- A severe or fatal latch of source `k` at a tick is the device-wide first: of two in one tick the lower source counts (R428). -/
def firstHere (s : State) (k tick : Nat) : Bool :=
  match s.flt.firstFault with
  | none => true
  | some j => s.flt.firstAt == tick && decide (k < j)

/-- The latch of an event whose outcome is `sev` (R423, R426, R428). -/
def latchSource (s : State) (g i sev unit detail : Nat) : State :=
  let k := srcKey g i
  let t := ticks s
  let s1 := modSource s k fun x =>
    { x with latch := max x.latch sev, seq := nextSeq x.seq,
             first := if x.first.isSome then x.first else some (t, unit, sev, x.count, detail) }
  let s2 := if 2 ≤ sev ∧ firstHere s1 k t then { s1 with flt := { s1.flt with firstFault := some k, firstAt := t } } else s1
  latchMessages (addEvents s2 g i sev) sev

/-- Counting an event in its source's window (R422). -/
def countSource (s : State) (g i : Nat) : State :=
  let t := ticks s
  let w := min 32 (sourceNW s g i).2
  modSource s (srcKey g i) fun x =>
    match x.windowEnd with
    | some e =>
      if t < e then { x with count := satInc 255 x.count, total := x.total + 1 }
      else { x with count := 1, windowEnd := some (t + 2 ^ w), total := x.total + 1 }
    | none => { x with count := 1, windowEnd := some (t + 2 ^ w), total := x.total + 1 }

/-- The outcome of an event of severity `sev` (0 counted, 1 notice, 2 severe, 3 fatal) after counting (R423). Where a table gives a source
N 1 and calls it a notice at its defaults (remap unavailable and tracker overflow, R114; microcode, R143), R423 makes its first event
severe: the model follows R423 (DESIGN CHOICE, log 94). -/
def eventOutcome (s : State) (g i sev : Nat) : Nat :=
  max sev (if max 1 (sourceNW s g i).1 ≤ (getSource s (srcKey g i)).count then 2 else 0)

/-- One event: it counts, and latches unless it is a counted event below N (R422, R423). The safe state is entered elsewhere. -/
def event (s : State) (g i sev unit detail : Nat) : State :=
  if (sourceDefault g i).isNone then s
  else
    let s1 := countSource s g i
    let o := eventOutcome s1 g i sev
    if o = 0 then s1 else latchSource s1 g i o unit detail

/-- The error line of a condition source (R419). -/
def setLine (s : State) (g i : Nat) (on : Bool) : State :=
  if (sourceDefault g i).isNone then s else modSource s (srcKey g i) fun x => { x with line := on }

/-- An access fault: ACC_LOG, ACC_ADDR and source (8, 0) (R432, R453). -/
def accessFault (s : State) (path kind off : Nat) : State :=
  let s1 := scEvent s (oGrd 0x20) fun v => putBits (putBits (bumpBits v 23 16) 6 4 path) 3 0 kind
  event { s1 with acc := { s1.acc with addr := off % 0x2000000 } } 8 0 0 0 0

/-! Errors of a head's link (R226, R232): AER and the CXL RAS capability, whose bit positions are those of PCIe and CXL. -/

/-- A write of at most Max_Payload_Size bytes per TLP leaves for host memory (R225). -/
def dmaOut : Nat → State → Nat → Nat → List Byte → Bool → State
  | 0, s, _, _, _, _ => s
  | n + 1, s, h, addr, bytes, ep =>
    let m := 128 * 2 ^ min 2 (getHead s h).mps
    if bytes.isEmpty then s
    else dmaOut n (emit s (.dmaWrite h addr (bytes.take m) ep)) h (addr + m) (bytes.drop m) ep

/-- An uncorrectable error of AER bit `b` is logged: fatal, or advisory and sent as correctable (R226). -/
def aerLog (s : State) (h b : Nat) (fatal : Bool) : State :=
  let s1 := modHead s h fun x =>
    { x with aerUnc := x.aerUnc ||| BitVec.ofNat 32 (2 ^ b), aerCor := if fatal then x.aerCor else x.aerCor ||| 0x2000 }
  emit s1 (.aer h (if fatal then 2 else 0))

/-- A TLP fault of a head: a poisoned TLP is logged alone, the others count against the link source too (R226). -/
def tlpFault (s : State) (h : Nat) (e : TlpError) : State :=
  match e with
  | .poisoned => aerLog s h 12 false
  | .malformed => event (aerLog s h 18 true) (16 + h) 0 0 0 0
  | .unsupported => event (aerLog s h 20 false) (16 + h) 0 0 0 0
  | .unexpected => event (aerLog s h 16 false) (16 + h) 0 0 0 0

/-! Credits and responses of a head. -/

/-- Head `h` withholds credits: in the safe state, while DRAM is blocked, or while its port is in an episode on any flume
(R56, R221, R232, R344, R362). -/
def withholding (s : State) (h : Nat) : Bool :=
  s.flt.safe || s.boot.blocked || (List.range 32).any fun f => (getFlume s f).episode.contains h

/-- A head that withholds no credits returns those it kept (R56, R221). -/
def returnCredits (s : State) (h : Nat) : State :=
  let x := getHead s h
  if withholding s h || (x.reqKept == 0 && x.rwdKept == 0) then s
  else modHead s h fun x =>
    { x with reqCredit := x.reqCredit + x.reqKept, rwdCredit := x.rwdCredit + x.rwdKept, reqKept := 0, rwdKept := 0 }

/-- A message has left the ingress buffer: its credit goes back to the host, or is kept while the head withholds (R221). -/
def freeCredit (s : State) (h : Nat) (write : Bool) : State :=
  returnCredits (modHead s h fun x =>
    if write then { x with rwdKept := x.rwdKept + 1 } else { x with reqKept := x.reqKept + 1 }) h

/-- The host uses a credit for a message it sends (R221). -/
def takeCredit (s : State) (h : Nat) (write : Bool) : State :=
  modHead s h fun x =>
    if write then { x with rwdCredit := x.rwdCredit - 1 } else { x with reqCredit := x.reqCredit - 1 }

/-- A response is a DRS message. -/
def S2M.isDrs (m : S2M) : Bool :=
  match m with
  | .drs .. => true
  | .ndr .. => false

/-- Whether a response has a credit. -/
def hasCredit (x : Head) (m : S2M) : Bool := if m.isDrs then x.drs != some 0 else x.ndr != some 0

/-- Using one credit of a response's kind. -/
def useCredit (x : Head) (m : S2M) : Head :=
  if m.isDrs then { x with drs := x.drs.map (· - 1) } else { x with ndr := x.ndr.map (· - 1) }

/-- A response as it is sent: with the DevLoad of that moment (R218). -/
def S2M.withLoad (m : S2M) (overload : Bool) : S2M :=
  match m with
  | .drs tag data poison md _ => .drs tag data poison md overload
  | .ndr tag _ => .ndr tag overload

/-- Sending a response (R218, R223). -/
def sendS2m (s : State) (h : Nat) (m : S2M) : State :=
  emit (modHead s h fun x => useCredit x m) (.s2m h (m.withLoad (withholding s h)))

/-- A response waits: in the response buffer, or behind it once it is full (R223). -/
def holdS2m (s : State) (h : Nat) (m : S2M) : State :=
  modHead s h fun x =>
    if x.responses.length < 384 then
      { x with responses := x.responses ++ [m], fullSince := if x.responses.length + 1 = 384 then some s.now else x.fullSince }
    else { x with stopped := x.stopped ++ [m] }

/-- A response leaves at once where it has a credit and none of its kind waits, else it is held (R223). -/
def respond (s : State) (h : Nat) (m : S2M) : State :=
  let x := getHead s h
  if hasCredit x m && !((x.responses ++ x.stopped).any fun w => w.isDrs == m.isDrs) then sendS2m s h m else holdS2m s h m

/-- Sending what the credits allow, oldest first (R223). -/
def drainResponses (ms : List S2M) (s : State) (h : Nat) : State := ms.foldl (fun s m => respond s h m) s

/-- The response buffer of a head is full: flume completions for its port stop (R223). -/
def responsesFull (s : State) (h : Nat) : Bool := decide (384 ≤ (getHead s h).responses.length)

/-- A read's answer to the host (R93, R99, R218). -/
def answerRead (s : State) (h tag data : Nat) (poison : Bool) (md : Option Nat) : State :=
  respond s h (.drs tag (BitVec.ofNat 512 data) poison (md.map (BitVec.ofNat 2)) false)

/-- NDR Cmp (R218). -/
def answerWrite (s : State) (h tag : Nat) : State := respond s h (.ndr tag false)

/-! Registers of a flume that several rules advance. -/

/-- Flume running total `i`, in the order of R114. -/
def bumpTotal (s : State) (f i : Nat) : State :=
  modFlume s f fun x => { x with totals := tabMod 0 x.totals i (· + 1) }

/-- Adding to a flume running total. -/
def addTotal (s : State) (f i n : Nat) : State :=
  modFlume s f fun x => { x with totals := tabMod 0 x.totals i (· + n) }

end Sys2Proof.Machine
end

