-- ==== Sys2Proof/Machine/Tally.lean ====
section
/-! DEFINITION. The tally store's records (20): copies A and B (R305, R306, R458), the bytes of a copy with its check word (R304, R458),
and the failures that are counted (R457). -/

namespace Sys2Proof.Machine

/-! Copies (R305, R306). -/

/-- The copy a record is taken from: the good one, the one with the higher generation where both are good (R306). -/
def bestOf {α : Type} (c : Copies α) : Option (Copy α) :=
  if c.a.good && (!c.b.good || decide (c.b.gen ≤ c.a.gen)) then some c.a
  else if c.b.good then some c.b else none

/-- The value a record gives. -/
def bestCopy {α : Type} (c : Copies α) : Option α := (bestOf c).map (·.val)

/-- Writing a record: to the copy that fails, else to the lower generation, with the higher generation plus 1 (R305). -/
def putCopy {α : Type} (old : Option (Copies α)) (v : α) : Copies α :=
  match old with
  | none => ⟨⟨1, true, v⟩, ⟨0, false, v⟩⟩
  | some c =>
    let n : Copy α := ⟨max c.a.gen c.b.gen + 1, true, v⟩
    if !c.a.good then { c with a := n } else if !c.b.good then { c with b := n }
    else if c.a.gen < c.b.gen then { c with a := n } else { c with b := n }

/-- A copy that was written and fails its check word. -/
def copyBad {α : Type} (c : Copy α) : Bool := !c.good && decide (0 < c.gen)

/-! Failures (R420, R457). -/

/-- A record write failed: TLY_STATUS and source (10, 0). -/
def tallyFail (s : State) (area : Nat) : State :=
  event (scEvent s (oTly 4) fun v => putBits (bumpBits v 23 16) 2 0 area) 10 0 1 0 area

/-- A copy failed its check word on load or capture: TLY_STATUS and source (10, 1). -/
def checkFail (s : State) (area : Nat) : State :=
  event (scEvent s (oTly 4) fun v => putBits (bumpBits v 15 8) 2 0 area) 10 1 1 0 area

/-- Copies that fail their check word are counted. -/
def checkCopies {α : Type} (area : Nat) (s : State) (c : Option (Copies α)) : State :=
  match c with
  | none => s
  | some c => forAll s ((if copyBad c.a then [area] else []) ++ (if copyBad c.b then [area] else [])) checkFail

/-! What the records hold. -/

/-- The soft-repair record of a flume as it stands (R350). -/
def softOf (s : State) (f : Nat) : SoftRec := ((tabGet none s.tally.soft f).bind bestCopy).getD ⟨[], []⟩

/-- The lifetime counters and the start-up count as they stand (R354, R357); 0 where no copy is good (log 99). -/
def lifeOf (s : State) : LifeRec := (s.tally.life.bind bestCopy).getD ⟨[], 0⟩

/-- Writing the lifetime record. -/
def putLife (s : State) (l : LifeRec) : State := { s with tally := { s.tally with life := some (putCopy s.tally.life l) } }

/-! The bytes of a copy (R304, R458). Every byte before the check word is covered by it, and reserved bytes are 0. -/

/-- Bytes filled up with zeros to a length. -/
def padTo (n : Nat) (l : List Byte) : List Byte := l ++ List.replicate (n - l.length) 0

/-- A copy's bytes with the check word that follows them. -/
def withCheck (l : List Byte) : List Byte := l ++ leBytes 4 (crc32c 0 l)

/-- Two erasures of a word group: position and valid (FLM_ERASURE0 to FLM_ERASURE7). -/
def erasureHalf (es : List Nat) (g : Nat) : Nat :=
  let l := (es.filter fun e => e / 128 == g).map fun e => e % 128
  let one := fun (j : Nat) => match l[j]? with
    | some p => 128 + p
    | none => 0
  one 0 + 256 * one 1

/-- FLM_ERASUREk of a flume from its erasures by sub-channel (R110). -/
def erasureWord (es : List (Nat × Nat)) (k : Nat) : Nat :=
  let mine := (es.filter fun e => e.1 == k / 2).map (·.2)
  erasureHalf mine (2 * (k % 2)) + 65536 * erasureHalf mine (2 * (k % 2) + 1)

/-- Area 1: the calibration record of a flume, tier and point (R304). -/
def calBytes (f t opp : Nat) (c : Copy CalRec) : List Byte :=
  withCheck (padTo 0xFC (leBytes 4 (f + t * 2 ^ 5 + opp * 2 ^ 10) ++ leBytes 4 c.gen ++ leBytes 8 0 ++
    ((List.range 4).map fun k => padTo 56 (tabGet [] c.val.bays k)).flatten))

/-- Area 2: the microcode image and its minimum sec_version. -/
def ucodeBytes (c : Copy UcodeSave) : List Byte :=
  withCheck (padTo 0x1013C (padTo 0x10100 c.val.image ++ leBytes 4 c.gen ++ leBytes 4 c.val.image.length ++ leBytes 4 c.val.minSec))

/-- Area 3: the soft repairs and erasures of a flume. -/
def softBytes (c : Copy SoftRec) : List Byte :=
  withCheck (padTo 0x203C (padTo 0x2000 (c.val.entries.map fun e => leBytes 8 e.toNat).flatten ++ leBytes 4 c.gen ++
    leBytes 4 c.val.entries.length ++ ((List.range 8).map fun k => leBytes 4 (erasureWord c.val.erasures k)).flatten))

/-- Area 4: the remap table of a flume. -/
def remapBytes (c : Copy (Tab (BitVec 64))) : List Byte :=
  withCheck (padTo 0x10C (((List.range 32).map fun i => leBytes 8 (tabGet (0 : BitVec 64) c.val i).toNat).flatten ++ leBytes 4 c.gen))

/-- Area 5: the Brake save area. Where R458 puts the whole marks it does not say by offset; they stand beside the bytes, in the record. -/
def brakeBytes (c : Copy BrakeSave) : List Byte :=
  withCheck (padTo 0x10143C (((List.range 64).map fun i => leBytes 16 (tabGet (0 : BitVec 128) c.val.regions i).toNat).flatten ++
    ((List.range 0x100000).map fun b =>
      BitVec.ofNat 8 ((List.range 8).foldl (fun v j => v + b2n (c.val.dirty.contains (8 * b + j)) * 2 ^ j) 0)) ++
    ((List.range 1024).map fun w => leBytes 4 (tabGet (0 : Word) c.val.page w).toNat).flatten ++ leBytes 4 c.gen))

/-- Area 7: the lifetime counters and the start-up count. -/
def lifeBytes (c : Copy LifeRec) : List Byte :=
  withCheck (padTo 0x1FC (((List.range 8).map fun i => leBytes 8 (tabGet 0 c.val.counters i)).flatten ++ leBytes 8 c.val.startups ++
    leBytes 4 c.gen))

end Sys2Proof.Machine
end

