-- ==== Sys2Proof/Machine/Serve.lean ====
section
/-! DEFINITION. The queue of a flume: admission (R45), weirs (R56), what a request's end does, write-backs (R102), and the order
of requests to one line (R47). -/

namespace Sys2Proof.Machine

/-! Ends. -/

/-- A started descriptor's work has ended with this completion; the entries it held are released (R29, R130). -/
def finishDesc (s : State) (d : Nat) (r : Result) : State :=
  modDesc s d fun x => { x with result := some r, uses := [], work := 0 }

/-- A write that is committed answers its requester (R218). -/
def finishWrite (s : State) (dest : ReqFor) : State :=
  match dest with
  | .host h tag _ => answerWrite s h tag
  | _ => s

/-- A read's data go to its requester; a line delivered poisoned is counted (R95, R99, R114). -/
def completeRead (s : State) (r : Req) (f data md : Nat) (poison : Bool) : State :=
  let s1 := if poison then bumpTotal s f 6 else s
  match r.dest with
  | .host h tag meta0 => answerRead s1 h tag data poison (if meta0 then some (mdCxl md) else none)
  | _ => s1

/-! The fabric (R9, R119). -/

/-- The fabric quadrant of a flume or mill (R9). -/
def quadrant (m : Nat) : Nat := (if m % 8 < 4 then 0 else 1) + 2 * (m / 16)

/-- The fabric quadrant of flume `f` grants one line access to mill `m`; a mill's own flume needs no grant (R119). -/
def grantTo (s : State) (f m : Nat) : State :=
  if m = f ∨ 32 ≤ m then s else { s with grants := tabSet 31 s.grants (quadrant f) m }

/-- How far a mill is from the one its quadrant granted last: 0 for the next, ascending and wrapping after mill 31 (R119). -/
def grantTurn (s : State) (f m : Nat) : Nat := (m + 31 - tabGet 31 s.grants (quadrant f)) % 32

/-! Regions as a request was translated (R28). -/

/-- What the code of the region table finds at a lookup of entry `i` (R31). -/
def regionCheck (s : State) (i : Nat) (ecc : EccCheck) : State :=
  match ecc with
  | .clean => s
  | .corrected => event s 12 3 0 0 0
  | .uncorrectable => event { s with badRegions := insertNat i s.badRegions } 12 1 2 0 0

/-- What the lookups of a command find: each live entry that is listed is corrected once or becomes invalid (R31). -/
def lookups (s : State) (env : OpEnv) : State :=
  env.ecc.foldl (fun s e => if e.1 < 64 ∧ regionLive s e.1 then regionCheck s e.1 e.2 else s) s

/-- The request's region was mirrored when it was translated; this device was then its primary, or its secondary (R28, R267). -/
def Req.mirrored (r : Req) : Bool := decide (r.region < 64) && rgMode r.entry != 0
def Req.primary (r : Req) : Bool := r.mirrored && !rgSecondary r.entry
def Req.secondary (r : Req) : Bool := r.mirrored && rgSecondary r.entry

/-! Occupancy. -/

/-- Entries a port holds: a read keeps its entry until its data return, from the tiers or from the partner (R45). -/
def portCount (x : Flume) (p : Nat) : Nat := (x.queue ++ x.inflight).countP fun r => r.port == p

/-- Shared entries in use (R45). -/
def sharedUsed (x : Flume) : Nat := (List.range 9).foldl (fun a p => a + (portCount x p - 32)) 0

/-- A port has a free entry: 32 of its own, 736 shared, 256 at most (R45). -/
def portFree (x : Flume) (p : Nat) : Bool :=
  decide (portCount x p < 256) && (decide (portCount x p < 32) || decide (sharedUsed x < 736))

/-- FLM_WEIR.level, clamped to 32 to 256. -/
def weirLevel (s : State) (f : Nat) : Nat := max 32 (min 256 (regField s (oFlm f 0x50) 8 0))

/-- FLM_WEIR.release; a value not below level acts as level - 1. -/
def weirRelease (s : State) (f : Nat) : Nat := min (regField s (oFlm f 0x50) 24 16) (weirLevel s f - 1)

/-- The episodes of a flume's host ports by its occupancy and FLM_WEIR as they are (R51, R56, R57). -/
def episodes (s : State) (f : Nat) : State :=
  forAll s [0, 1, 2, 3] fun s h =>
    let n := portCount (getFlume s f) h
    let lv := weirLevel s f
    let rl := weirRelease s f
    modFlume s f fun x =>
      let up := tabGet none x.aboveSince h
      { x with
        aboveSince := tabSet none x.aboveSince h (if lv < n then some (up.getD s.now) else none)
        episode := if lv < n then insertNat h x.episode else if n ≤ rl then x.episode.filter (· != h) else x.episode
        overloadSaid := if n ≤ rl then x.overloadSaid.filter (· != h) else x.overloadSaid }

/-- Episodes after the occupancy or FLM_WEIR changed; heads that withhold no longer return their credits (R56, R221). -/
def updateWeir (s : State) (f : Nat) : State := forAll (episodes s f) [0, 1, 2, 3] returnCredits

/-- The queue is empty: the idle age starts (R394). -/
def noteIdle (s : State) (f : Nat) : State :=
  let x := getFlume s f
  if x.queue.isEmpty && x.inflight.isEmpty then modFlume s f fun x => { x with idleSince := s.now } else s

/-- Removing a request from the queue and from the reads outstanding. -/
def dropReq (s : State) (f id : Nat) : State :=
  let s1 := modFlume s f fun x => { x with queue := x.queue.filter fun r => r.id != id, inflight := x.inflight.filter fun r => r.id != id }
  noteIdle (updateWeir s1 f) f

/-- A request as its flume accepts it: with the next order number and the time (R45). -/
def stamped (s : State) (f : Nat) (r : Req) : Req := { r with id := (getFlume s f).nextId, since := s.now }

/-- The order number has been given. -/
def bumpId (s : State) (f : Nat) : State := modFlume s f fun x => { x with nextId := x.nextId + 1 }

/-- Putting an accepted request into the queue (R45). -/
def putQueue (s : State) (f : Nat) (r : Req) : State := updateWeir (modFlume s f fun x => { x with queue := x.queue ++ [r] }) f

/-- Accepting a request into the queue (R45). -/
def enqueue (s : State) (f : Nat) (r : Req) : State := putQueue (bumpId s f) f (stamped s f r)

/-- An accepted request waits for the partner's copy of its line: it keeps its entry and its place in the order (R45, R47, R281). -/
def park (s : State) (f : Nat) (r : Req) : State :=
  updateWeir (modFlume s f fun x =>
    { x with queue := x.queue.filter fun q => q.id != r.id, inflight := (x.inflight.filter fun q => q.id != r.id) ++ [r] }) f

/-- The flume accepts requests: neither held nor holding (R59), in Run or Trim (R398), no safe state, DRAM not blocked (R344, R362). -/
def flumeOpen (s : State) (f : Nat) : Bool :=
  let x := getFlume s f
  !x.holdReq && !x.holding && !x.held && decide (x.pstate ≤ 1) && x.entering.isNone && !x.waking && !s.flt.safe && !s.boot.blocked

/-- Whether a request writes. -/
def isWrite (r : Req) : Bool := r.kind != .read

/-- A write-back that rests on an earlier read (R102). -/
def isWriteBack (r : Req) : Bool := r.dest == .device true

/-- The positions FLM_ECC_INJ names, for a write its port accepted (R115). -/
def injection (s : State) (f : Nat) : List Nat :=
  let v := (regGet s (oFlm f 0x7C)).toNat
  let w := bits v 24 22
  let n := bits v 26 25
  let pos := fun hi lo => 80 * w + min 79 (bits v hi lo)
  (if n = 0 then [pos 6 0] else if n = 1 then [pos 6 0, pos 13 7] else [pos 6 0, pos 13 7, pos 20 14])

/-- The armed injection waits for a write of this port, and no accepted write carries it yet (R115). -/
def injectsFor (s : State) (f port : Nat) : Bool :=
  let v := (regGet s (oFlm f 0x7C)).toNat
  bitOf v 31 && min 8 (bits v 30 27) == port && !((getFlume s f).queue ++ (getFlume s f).inflight).any fun r => !r.inject.isEmpty

/-- The injection a newly accepted request carries. -/
def injectOn (s : State) (f : Nat) (r : Req) : List Nat := if isWrite r && injectsFor s f r.port then injection s f else []

/-- R102: a write from another source voids the write-backs of its line that are queued or wait; each void one is counted. -/
def voidWriteBacks (s : State) (f line : Nat) : State :=
  let hit := fun r : Req => r.line == line && isWriteBack r
  let n := ((getFlume s f).queue ++ (getFlume s f).waiting).countP hit
  if n = 0 then s
  else
    let s1 := addTotal s f 5 n
    modFlume s1 f fun x => { x with queue := x.queue.filter fun r => !hit r, waiting := x.waiting.filter fun r => !hit r }

/-- The mirror-dirty bit a write of the device keeps: it is 0 outside mirrored regions (R93). -/
def keptDirty (s : State) (region md : Nat) : Bool := decide (region < 64) && rgMode (regionWord s region) != 0 && mdDirty md

/-- The request of a write-back on port 8, class 4 (R43, R96, R102, R104). -/
def writeBackReq (s : State) (line data md dpaLine region : Nat) : Req :=
  { reqInit with
    port := 8, cls := 4, line := line, kind := .write, data := BitVec.ofNat 512 data, poison := mdPoison md,
    md := some (BitVec.ofNat 2 (mdCxl md)), dest := .device true, dpaLine := dpaLine, region := region,
    entry := if region < 64 then regionWord s region else 0, dirty := keptDirty s region md }

/-- R96, R102: a write-back on port 8. A write of its line that was accepted meanwhile voids it, the merged write of a partial
write whose read stage it rests on among them (log 79); without a free entry it waits at its port (R45). -/
def queueWriteBack (s : State) (f line data md : Nat) (dpaLine region : Nat) : State :=
  let x := getFlume s f
  let r := writeBackReq s line data md dpaLine region
  if (x.queue ++ x.inflight).any fun r => r.line == line && isWrite r && !isWriteBack r then bumpTotal s f 5
  else if portFree x 8 && flumeOpen s f then enqueue s f { r with inject := injectOn s f r }
  else modFlume s f fun x => { x with waiting := x.waiting ++ [r] }

/-! Storing a line. -/

/-- Metadata a write stores (R92, R93, R279): the given CXL.mem bits or those the line has, the mirror-dirty bit and the mark. -/
def writeMd (s : State) (p : Place) (md : Option (BitVec 2)) (dirty poison : Bool) : Nat :=
  let old := (readPlace s p []).md
  mdMake ((md.map (·.toNat)).getD (mdCxl old)) dirty poison

/-- A line that waits for the partner's copy no longer needs it: a write has replaced what it held (R88). -/
def noRefetch (s : State) (f line : Nat) : State :=
  if (getFlume s f).refetch.contains line then modFlume s f fun x => { x with refetch := x.refetch.filter (· != line) } else s

/-- A line write reaches its place; nothing is stored in an offline bay (R97). `inj` are positions inverted after encoding (R115). -/
def storeLine (s : State) (f line data : Nat) (md : Option (BitVec 2)) (dirty poison : Bool) (inj : List Nat) : State :=
  match placeOf s f line with
  | none => s
  | some p => setStored (noRefetch s f line) p (invert (encodeLine data (writeMd s p md dirty poison)) inj)

/-- A write that carries an injection has issued: arm is cleared (R115). -/
def disarm (s : State) (f : Nat) (r : Req) : State :=
  if r.inject.isEmpty then s else regPut s (oFlm f 0x7C) 31 31 0

end Sys2Proof.Machine
end

