-- ==== Sys2Proof/Machine/Mirror.lean ====
section
/-! DEFINITION. The leat: sending messages (R258 to R262), the states of mirrored regions (R268), committing writes to them
(R263, R269, R272), copy requests (R281), and the loss of the partner (R278). -/

namespace Sys2Proof.Machine

/-! Messages. -/

/-- Credit pool of a message: 1 requests, 2 responses, 0 none (R259). -/
def leatPool (m : LeatMsg) : Nat :=
  if m.type = 2 ∨ m.type = 3 ∨ m.type = 5 ∨ m.type = 7 ∨ (m.type = 8 ∧ m.push) then 1
  else if m.type = 4 ∨ m.type = 8 then 2
  else 0

/-- Slots of a message, its header included (R261). -/
def leatSlots (m : LeatMsg) : Nat := m.slots + 1

/-- The port a message travels on (R260). -/
def leatPortOf (l : Leat) (m : LeatMsg) : Nat :=
  if 33 ≤ m.via then m.via - 33
  else
    let p := if m.via = 32 then 0 else m.via % 2
    if l.away.contains m.via then 1 - p else p

/-! The layout of messages and flits (R257, R261). -/

/-- The 16 bytes of a header slot (R261). -/
def headerBytes (m : LeatMsg) : List Byte :=
  leBytes 1 m.type ++ leBytes 1 (m.slots % 128 + (if m.push then 128 else 0)) ++ leBytes 2 m.pmask ++ leBytes 4 m.md ++
    leBytes 5 (m.line % 2 ^ 33) ++ leBytes 3 m.tag

/-- The bytes of a message's slots: the header, then the data slots. -/
def messageBytes (m : LeatMsg) : List Byte := headerBytes m ++ (m.data ++ List.replicate (16 * m.slots - m.data.length) 0)

/-- The bytes of the slots of a message that one flit carries. -/
def partBytes (p : FlitPart) : List Byte := ((messageBytes p.msg).drop (16 * p.skip)).take (16 * p.slots)

/-- The 240 bytes of a flit's slots; IDLE is a header of type 0 with every field 0 (R257, R262). -/
def slotBytes (ps : List FlitPart) : List Byte :=
  let b := (ps.map partBytes).flatten
  b ++ List.replicate (240 - b.length) 0

/-- The 256 bytes of a flit at a rate (R257). -/
def flitBytes (x : Flit) (rate : Nat) : List Byte :=
  let b := leBytes 2 (x.seq % 1024) ++ slotBytes x.parts
  let c := b ++ leBytes 8 (Config.flitCrc b).toNat
  c ++ leBytes 6 (Config.flitFec c rate).toNat

/-! The replay buffer (R257, R258). -/

/-- Slots a flit has in use. -/
def flitUsed (x : Flit) : Nat := (x.parts.map (·.slots)).sum

/-- Slots left in the flit that a port is filling at a moment: messages of one moment fill the slots back to back, and a flit that
has left is closed (R257). -/
def openRoom (p : Port) (now : Nat) : Nat :=
  match p.unacked.getLast? with
  | some x => if x.at_ = now then 15 - flitUsed x else 0
  | none => 0

/-- Flits that a message of `n` slots adds to the replay buffer. -/
def newFlits (p : Port) (now n : Nat) : Nat := (n - openRoom p now + 14) / 15

/-- A part joins the flit that is being filled. -/
def fillLast (fs : List Flit) (x : FlitPart) : List Flit :=
  match fs.reverse with
  | [] => []
  | f :: t => (({ f with parts := f.parts ++ [x] } : Flit) :: t).reverse

/-- Placing the slots of a message from slot `skip` on, at most `fuel` flits. -/
def placeSlots : Nat → Port → Nat → LeatMsg → Nat → Port
  | 0, p, _, _, _ => p
  | fuel + 1, p, now, m, skip =>
    if leatSlots m ≤ skip then p
    else
      let r := openRoom p now
      let q : Port := if r = 0 then { p with unacked := p.unacked ++ [⟨p.txSeq, now, []⟩], txSeq := (p.txSeq + 1) % 1024 } else p
      let n := min (if r = 0 then 15 else r) (leatSlots m - skip)
      placeSlots fuel { q with unacked := fillLast q.unacked ⟨m, skip, n⟩ } now m (skip + n)

/-- The messages whose last slot lies in one of the flits, in order. -/
def endedIn (fs : List Flit) : List LeatMsg :=
  ((fs.map (·.parts)).flatten.filter fun x => x.skip + x.slots == leatSlots x.msg).map (·.msg)

/-- The replay buffer holds something of the named traffic. -/
def portCarries (p : Port) (via : Nat) : Bool := p.unacked.any fun f => f.parts.any fun x => x.msg.via == via

/-- A message may leave on port `k`: the link is up, its pool has the credits, the replay buffer has room, no message of the other
port's lost flits is still to be resent, and a port with a foreign partner or a self loop carries its own messages only (R254, R255,
R258 to R260). -/
def leatReady (s : State) (k : Nat) (m : LeatMsg) : Bool :=
  let p := getPort s k
  let q := getPort s (1 - k)
  p.linkUp && decide (p.unacked.length + newFlits p s.now (leatSlots m) ≤ 512) && (decide (33 ≤ m.via) || !(p.foreign || p.selfLoop)) &&
    (q.linkUp || q.recovering || !portCarries q m.via) &&
    (if leatPool m = 1 then decide (leatSlots m ≤ p.reqCredit)
     else if leatPool m = 2 then decide (leatSlots m ≤ p.rspCredit) else true)

/-- A message enters the flits of port `k` (R257 to R259). -/
def putFlits (s : State) (k : Nat) (m : LeatMsg) : State :=
  let p := getPort s k
  let r := openRoom p s.now
  let seq := if r = 0 then p.txSeq else (p.txSeq + 1023) % 1024
  let s1 := modPort s k fun p =>
    { placeSlots 6 p s.now m 0 with
      linkAt := if p.unacked.isEmpty then s.now else p.linkAt
      reqCredit := if leatPool m = 1 then p.reqCredit - leatSlots m else p.reqCredit
      rspCredit := if leatPool m = 2 then p.rspCredit - leatSlots m else p.rspCredit }
  emit s1 (.leat k seq (if r = 0 then 0 else 15 - r) m)

/-- A message waits behind one that has not left: of its pool on its port, or, for a mirrored line, the push that carries the line
(R259, R260, R287). -/
def waitsBehind (l : Leat) (w m : LeatMsg) : Bool :=
  (leatPool w == leatPool m && leatPortOf l w == leatPortOf l m) ||
    ((m.type == 2 || m.type == 3) && w.type == 8 && w.push && decide (w.line ≤ m.line) && decide (m.line < w.line + w.slots / 4))

/-- Sending a message, behind those it waits for (R259, R260, R287). -/
def leatSend (s : State) (m : LeatMsg) : State :=
  let k := leatPortOf s.leat m
  if leatReady s k m && !(s.leat.txWait.any fun w => waitsBehind s.leat w m) then putFlits s k m
  else modLeat s fun l => { l with txWait := l.txWait ++ [m] }

/-- Sending the messages that wait, in order (R259, R260). -/
def leatFlush (s : State) : State :=
  let ms := s.leat.txWait
  ms.foldl leatSend (modLeat s fun l => { l with txWait := [] })

/-- A message of a port's own, LINK or HEARTBEAT, while the port is in L0 or Recovery. -/
def leatOwn (s : State) (k type slots pmask md : Nat) (data : List Byte) : State :=
  let p := getPort s k
  if p.linkUp || p.recovering then leatSend s ⟨33 + k, type, slots, false, pmask, md, 0, 0, data⟩ else s

/-- A LINK message: last good flit, nak, and slots returned (R258, R259, R262). -/
def sendLink (s : State) (k : Nat) (nak : Bool) (req rsp : Nat) : State :=
  leatOwn s k 1 0 ((getPort s k).rxLast + (if nak then 2 ^ 14 else 0)) (req + rsp * 2 ^ 16) []

/-- Request slots of a message go back on the port it came on, once it is accepted or finished with (R259). -/
def returnSlots (s : State) (k n : Nat) : State := sendLink s k false n 0

/-- An ACK of one tag (R262). -/
def sendAck (s : State) (via cls tag : Nat) (stored : Bool) : State :=
  leatSend s ⟨via, 4, 0, false, 1, b2n (!stored) + cls * 2 ^ 30, 0, tag, []⟩

/-- A STATE_UPDATE of a kind; `pages` tells how many page writes it carries (R262, R275). -/
def sendState (s : State) (kind line : Nat) (data : List Byte) (pages : Nat) : State :=
  let t := s.leat.stateTag
  let s1 := leatSend s ⟨32, 5, max 1 ((data.length + 15) / 16), false, 0, kind + 2 * 2 ^ 30, line, t, data⟩
  modLeat s1 fun l =>
    { l with stateTag := (t + 1) % 2 ^ 24, stateWait := l.stateWait ++ [(t, pages, if kind = 1 then line + 1 else 0)] }

/-- The 64 bytes of a line. -/
def lineBytes (data : Nat) : List Byte := leBytes 64 data

/-- A MIRROR_WRITE, or a POISON_NOTICE for a line to be written with the mark (R263). -/
def sendMirror (s : State) (via cls tag line data cxl : Nat) (poison : Bool) : State :=
  if poison then leatSend s ⟨via, 3, 0, false, 0, cls * 2 ^ 30, line, tag, []⟩
  else leatSend s ⟨via, 2, 4, false, 0, cxl % 4 + cls * 2 ^ 30, line, tag, lineBytes data⟩

/-! Regions. -/

/-- Granule of a DPA line number: 1,024 lines of 64 KiB (R276). -/
def granuleOf (line : Nat) : Nat := line / 1024

/-- A granule lies in an entry's range; ranges are whole granules. -/
def granuleIn (e g : Nat) : Bool := inEntry e (g * 65536)

/-- A resilver of region `i` runs here as primary (R285) or is received as secondary (R268). -/
def resilvering (s : State) (i : Nat) : Bool :=
  s.leat.resync.contains i || s.descs.any fun d => match d.2 with
    | some x => x.work == 2 && bitOf (natAt x.prog 0) i
    | none => false

/-- The state of region `i` (R268). -/
def regionState (s : State) (i : Nat) : Nat :=
  let e := regionWord s i
  if !regionLive s i || rgMode e == 0 then 0
  else if s.leat.dual.contains i then 7
  else if s.leat.unmatched.contains i then 6
  else if !s.leat.joined then (if rgSecondary e then 5 else 4)
  else if resilvering s i then 3
  else if s.leat.dirty.any fun g => granuleIn e g then 2
  else 1

/-- The region is mirrored and the pair is joined and matched over it. -/
def regionMatched (s : State) (i : Nat) : Bool := 1 ≤ regionState s i && regionState s i ≤ 3

/-- The granule of a DPA line is set in the dirty bitmap. -/
def isDirty (s : State) (line : Nat) : Bool := s.leat.dirty.contains (granuleOf line)

/-- A resilver comes back to a granule set behind it (R286). -/
def rewind (s : State) (g : Nat) : State :=
  forAll s (s.descs.map Prod.fst) fun s d => modDesc s d fun x =>
    if x.work = 2 then { x with prog := x.prog.set 4 (min (natAt x.prog 4) (g * 1024)) } else x

/-- Setting a granule's bit (R276). -/
def setGranule (s : State) (g : Nat) : State := rewind (modLeat s fun l => { l with dirty := insertNat g l.dirty }) g

/-- Setting a granule's bit and marking it whole (R256, R276). -/
def setWhole (s : State) (g : Nat) : State :=
  rewind (modLeat s fun l => { l with dirty := insertNat g l.dirty, whole := insertNat g l.whole }) g

/-- The granules of an entry. -/
def granulesOf (e : Nat) : List Nat := upFrom (rgBase e * 4096) (rgSize e * 4096)

/-- Clearing granules (R286); a region with no granule left is no longer received in resync (R268). -/
def clearGranules (s : State) (gs : List Nat) : State :=
  let s1 := modLeat s fun l =>
    { l with dirty := l.dirty.filter fun g => !gs.contains g, whole := l.whole.filter fun g => !gs.contains g }
  modLeat s1 fun l =>
    { l with resync := l.resync.filter fun i => l.dirty.any fun g => granuleIn (regionWord s1 i) g }

/-- A pending pond entry of a line, the youngest (R271, R274). -/
def pondEntry (s : State) (line : Nat) : Option PondEntry := s.leat.pond.reverse.find? fun e => e.line == line

/-- The device has a usable partner copy of a line, but for the partner's answer (R280). -/
def usableCopy (s : State) (line : Nat) : Bool :=
  match regionAt s (line * 64) with
  | some i => regionMatched s i && !isDirty s line
  | none => false

/-- A notice of the mirror source (R290). -/
def mirrorNotice (s : State) : State := event s 22 1 1 0 0

/-- The mirror-dirty bit of a line is set, on the write of the line that waits or in the array (R278, R279). -/
def markDirty (s : State) (line : Nat) : State :=
  match regionAt s (line * 64) with
  | none => s
  | some i =>
    let a := lineOf (regionWord s i) (line * 64)
    let mine := fun (r : Req) => r.line == a.2 && isWrite r
    if ((getFlume s a.1).queue ++ (getFlume s a.1).inflight).any mine then
      modFlume s a.1 fun x =>
        let on (r : Req) : Req := { r with dirty := true }
        { x with queue := mapWhere mine on x.queue, inflight := mapWhere mine on x.inflight }
    else
      match placeOf s a.1 a.2 with
      | none => s
      | some p =>
        let d := readPlace s p []
        if d.bad then s else writePlace s p d.data (mdMake (mdCxl d.md) true (mdPoison d.md))

/-- A write that is not stored on the partner: its granule is set and its line stored mirror-dirty (R278, R289). -/
def notStored (s : State) (line : Nat) : State := markDirty (setGranule s (granuleOf line)) line

/-! Committing writes of mirrored regions as primary. -/

/-- Releasing a request of the queue from the mirror's hold. -/
def mirrorDone (s : State) (f id : Nat) : State :=
  modFlume s f fun x =>
    let off (r : Req) : Req := { r with mirror := false }
    { x with queue := mapWhere (fun r => r.id == id) off x.queue }

/-- Pond entries at most (R271). -/
def pondSize : Nat := 98304

/-- Making a pond entry (R272). -/
def makePond (s : State) (region line data : Nat) (md : BitVec 2) (poison : Bool) : State :=
  modLeat s fun l =>
    { l with pond := l.pond ++ [⟨l.pondSeq, line, BitVec.ofNat 512 data, poison, md, region, false, 0, l.pageMade⟩],
             pondSeq := (l.pondSeq + 1) % 2 ^ 24 }

/-- Making the mirror write of an accepted line: sent with a tag awaiting its ACK in a sync region, a pond entry in a
write-behind region, and for a region not matched the granule and the mirror-dirty bit (R269, R272, R278). The requester is
answered when its mode lets the write complete. -/
def mirrorLine (s : State) (region f line data : Nat) (md : BitVec 2) (poison : Bool) (dest : ReqFor) : State :=
  if !regionMatched s region then finishWrite (notStored s line) dest
  else if rgMode (regionWord s region) = 1 then
    let t := s.leat.syncTag
    let s1 := sendMirror s f 0 t line data md.toNat poison
    modLeat s1 fun l => { l with syncTag := (t + 1) % 2 ^ 24, sync := l.sync ++ [⟨t, line, region, dest, s.now⟩] }
  else finishWrite (makePond s region line data md poison) dest

/-- CXL.mem bits a mirror write carries: those of the write, or those the line has (R93, R262). -/
def carryMd (s : State) (f line : Nat) (md : Option (BitVec 2)) : BitVec 2 :=
  match md with
  | some v => v
  | none => match placeOf s f line with
    | some p => BitVec.ofNat 2 (mdCxl (readPlace s p []).md)
    | none => 0

/-- Whether a request of the queue may commit now: a whole line, no earlier write of the line still to be mirrored, be it in the queue
or with its merge read out (R263), its region not quiescing (R284), and a free pond entry where it needs one (R272). -/
def mirrorReady (s : State) (f : Nat) (r : Req) : Bool :=
  r.mirror && r.kind == .write &&
    !(((getFlume s f).queue ++ (getFlume s f).inflight).any fun q => q.line == r.line && q.mirror && decide (q.id < r.id)) &&
    !s.leat.quiesce.contains r.region &&
    !(regionMatched s r.region && rgMode (regionWord s r.region) == 2 && decide (pondSize ≤ s.leat.pond.length))

/-- Committing request `id` of flume `f` if it may; a write that leaves the metadata unchanged carries what the line has (R93, R262). -/
def tryMirror (f : Nat) (s : State) (id : Nat) : State :=
  match (getFlume s f).queue.find? fun r => r.id == id with
  | some r =>
    if mirrorReady s f r then
      mirrorDone (mirrorLine s r.region f r.dpaLine r.data.toNat (carryMd s f r.line r.md) r.poison r.dest) f id
    else s
  | none => s

/-- Committing what may be committed in one flume, in acceptance order (R263). -/
def mirrorStep (s : State) (f : Nat) : State :=
  forAll s (((getFlume s f).queue.filter fun r => r.mirror).map fun r => r.id) (tryMirror f)

/-- Committing what may be committed in every flume. -/
def mirrorAll (s : State) : State := forAll s (upFrom 0 32) mirrorStep

/-! Copy requests (R281). -/

/-- Asking the partner for a line (R262, R281). -/
def askPartner (s : State) (f : Nat) (r : Req) (refetch store : Bool) (asRead mdRead : Nat) : State :=
  let t := s.leat.copyTag
  let s1 := leatSend s ⟨f, 7, 0, false, 1, b2n refetch, r.dpaLine, t, []⟩
  modLeat s1 fun l =>
    { l with copyTag := (t + 1) % 2 ^ 24,
             copies := l.copies ++ [⟨t, r.dpaLine, refetch, f, r, store, BitVec.ofNat 512 asRead, mdRead⟩] }

/-- An accepted request waits, with its entry, for the partner's copy of its line (R45, R281). -/
def requestCopy (s : State) (f : Nat) (r : Req) (store : Bool) (asRead mdRead : Nat) : State :=
  askPartner (park s f r) f r false store asRead mdRead

/-- The merge of a partial write is complete: the full line is to be written (R98), mirrored first where its region is. -/
def mergedReq (r : Req) (data : Nat) (poison : Bool) : Req :=
  { r with kind := .write, data := BitVec.ofNat 512 (mergeBytes data r.data.toNat r.mask.toNat), poison := poison || r.poison }

/-- A partial write's line is complete: it goes back into the queue as a write, in its place in the order (R47, R98). -/
def putMerged (s : State) (f : Nat) (r : Req) (data : Nat) (poison : Bool) : State :=
  let s1 := dropReq s f r.id
  mirrorStep (updateWeir (modFlume s1 f fun x => { x with queue := mergedReq r data poison :: x.queue }) f) f

/-- A read or merge that an offline or unusable line cannot serve: poison to a read, nothing stored by a write (R18, R97, R280). -/
def serveLost (s0 : State) (f : Nat) (r : Req) : State :=
  let s := dropReq s0 f r.id
  match r.kind with
  | .read => completeRead (bumpFree s) r f (lostData s) 0 true
  | .write => s
  | .partialWrite => if r.mirror then mirrorLine s r.region f r.dpaLine 0 0 true r.dest else s

/-- An accepted request whose line lies in an offline bay: a read is served from a pending pond entry, a mirrored line by the partner's
copy, what is left as R18 and R97 say (R14, R18, R274, R280). -/
def serveAway (s : State) (f : Nat) (r : Req) : State :=
  match (if r.mirrored && r.kind == .read then pondEntry s r.dpaLine else none) with
  | some p => completeRead (dropReq s f r.id) r f p.data.toNat (mdMake p.md.toNat false p.poison) p.poison
  | none =>
    if r.mirrored && r.kind != .write && usableCopy s r.dpaLine && (r.kind == .read || r.mirror) then requestCopy s f r false 0 0
    else serveLost s f r

/-- A copy request ends without a copy (R88, R96, R101, R280, R289); the poison write-back keeps the metadata as read (R93, R96). -/
def copyFailed (s : State) (c : CopyWait) : State :=
  if c.refetch then
    mirrorNotice (modFlume s c.flume fun x => { x with refetch := x.refetch.filter (· != c.req.line) })
  else if c.store then
    let s1 := mirrorNotice s
    match c.req.kind with
    | .read =>
      let md := mdMake (mdCxl c.mdRead) (mdDirty c.mdRead) true
      let s2 := dropReq (bumpTotal s1 c.flume 4) c.flume c.req.id
      completeRead (queueWriteBack s2 c.flume c.req.line c.asRead.toNat md c.line c.req.region) c.req c.flume c.asRead.toNat md true
    | _ => putMerged (bumpTotal s1 c.flume 4) c.flume c.req c.asRead.toNat true
  else serveLost s c.flume c.req

/-- The partner's copy of a line of this device's replaces the local line: the mirror-dirty bit is 0 on a line that equals the
partner's copy (R88, R101, R279). -/
def refill (s : State) (f line : Nat) (c : CopyLine) : State :=
  storeLine s f line c.data.toNat (some c.md) false c.poison []

/-- A copy of this device's request arrives (R88, R98, R101, R281). A refetch that a later write has overtaken stores nothing. -/
def copyArrived (s : State) (c : CopyWait) (d : CopyLine) : State :=
  let f := c.flume
  let newer := ((getFlume s f).queue ++ (getFlume s f).inflight).any fun r => r.line == c.req.line && isWrite r
  if c.refetch then
    let s1 := if (getFlume s f).refetch.contains c.req.line && !newer then refill s f c.req.line d else s
    modFlume s1 f fun x => { x with refetch := x.refetch.filter (· != c.req.line) }
  else
    let s1 := if c.store then refill s f c.req.line d else s
    match c.req.kind with
    | .read => completeRead (dropReq s1 f c.req.id) c.req f d.data.toNat (mdMake d.md.toNat false d.poison) d.poison
    | .write => dropReq s1 f c.req.id
    | .partialWrite => putMerged s1 f c.req d.data.toNat d.poison

/-! Losing the partner (R278). -/

/-- The mirror-dirty bit of a line is 0: it was stored on the partner, or is being copied to it (R279). A write-back of the line that
waits stores the bit as 0 too. -/
def markClean (s0 : State) (f line : Nat) : State :=
  let mine := fun (r : Req) => r.line == line && isWriteBack r
  let off (r : Req) : Req := { r with dirty := false }
  let s := modFlume s0 f fun x => { x with queue := mapWhere mine off x.queue, waiting := mapWhere mine off x.waiting }
  match placeOf s f line with
  | none => s
  | some p =>
    let d := readPlace s p []
    if d.bad || !mdDirty d.md then s else writePlace s p d.data (mdMake (mdCxl d.md) false (mdPoison d.md))

/-- The lines of a push that the partner did not store are mirror-dirty again (R279). -/
def unpush (s : State) (w : PushWait) : State := forAll s (upFrom w.line w.count) markDirty

/-- Dropping the leat's outstanding work: copies fail, messages that wait are forgotten, and those of a port that is down. -/
def dropLeatWork (s0 : State) : State :=
  let s := s0.leat.pushes.foldl unpush s0
  let cs := s.leat.copies
  let clear (p : Port) : Port := if p.linkUp || p.recovering then p else { p with unacked := [], resends := 0 }
  let s1 := modLeat s fun l =>
    { l with copies := [], pushes := [], pushIn := [], stateWait := [], pageWait := [], ackHold := [], quiesce := [], resync := [],
             txWait := l.txWait.filter fun m => decide (33 ≤ m.via),
             ports := tabModAll portInit l.ports [0, 1] fun _ p => clear p }
  cs.foldl copyFailed s1

/-- R278: waiting sync writes complete, pond entries are dropped, and their granules and lines are marked. -/
def dropMirrorWork (s : State) : State :=
  let ws := s.leat.sync
  let ps := s.leat.pond
  let s1 := modLeat s fun l => { l with sync := [], pond := [] }
  let s2 := ws.foldl (fun s w => finishWrite (notStored s w.line) w.dest) s1
  ps.foldl (fun s e => notStored s e.line) s2

/-- Making the named regions primary here (R283, R284). -/
def setRole (s : State) (mask : Nat) (secondary : Bool) : State :=
  forAll s (upFrom 0 64) fun s i =>
    if bitOf mask i && regionLive s i then
      let e := regionWord s i
      { s with regions := tabSet 0 s.regions i (BitVec.ofNat 128 (putBits e 74 74 (b2n secondary))) }
    else s

/-- A switchover or resilver descriptor that the loss ends (R284, R285 reason 6, R289). -/
def endLeatDesc (s : State) (d : Nat) : State :=
  match getDesc s d with
  | some x =>
    if x.work = 2 then finishDesc s d ⟨0x0A, 6, natAt x.prog 1, natAt x.prog 2⟩
    else if x.work = 5 then finishDesc (setRole s (natAt x.prog 0) false) d ⟨0, 0, natAt x.prog 0, s.leat.applied⟩
    else s
  | none => s

/-- The partner is lost: the severe fault, LET_PAIR_STATUS.partner_lost, the end of the join, and R278. -/
def partnerLost (s : State) : State :=
  if !s.leat.joined then s
  else
    let s1 := event (scEvent s (oLet 0 0x114) fun v => putBits v 0 0 1) 22 0 2 0 0
    let s2 := modLeat s1 fun l => { l with joined := false }
    let s3 := dropLeatWork (dropMirrorWork s2)
    let s4 := forAll s3 (s3.descs.map Prod.fst) endLeatDesc
    mirrorAll s4

/-- Both ports have left L0 and Recovery (R277). -/
def portsDown (l : Leat) : Bool :=
  let down := fun k => let p := tabGet portInit l.ports k; !p.linkUp && !p.recovering
  down 0 && down 1

end Sys2Proof.Machine
end

