-- ==== Sys2Proof/Machine/Sweep.lean ====
section
/-! DEFINITION. Sweeps of the training quantities (R295, R296, R298): window words and what they hold, the points of a sweep, its
longest passing run, eye width and centre, and the checks of R300 that one sweep decides. -/

namespace Sys2Proof.Machine

/-- The trim region has its restrictive default (R55, R321). -/
def trimDefault (s : State) : Bool := s.fuses.failed.contains 3

/-! Window words (R311). -/

/-- The words of a window. -/
def trnWords : List Nat := List.range 378

/-- Word `k` is a data word, a CA word, a strobe word. -/
def isDataWord (k : Nat) : Bool := decide (k < 320) || decide (361 ≤ k ∧ k ≤ 376)
def isCaWord (k : Nat) : Bool := decide (320 ≤ k ∧ k ≤ 344)
def isStbWord (k : Nat) : Bool := decide (345 ≤ k ∧ k ≤ 360)
def isSpareWord (k : Nat) : Bool := decide (361 ≤ k ∧ k ≤ 376)

/-- Word `k` of a window. -/
def winWord (t : Tab Word) (k : Nat) : Nat := (tabGet (0 : Word) t k).toNat

/-- The word whose part word `k` plays: a spare wire in use plays that of the wire it serves (R13, R295, R299). -/
def roleWord (u : SubChan) (k : Nat) : Nat :=
  if isSpareWord k && decide (0 < tabGet 0 u.steer (k - 361)) then tabGet 0 u.steer (k - 361) - 1 else k

/-- The quantities of the words of a kind of wire: number in the order of R295 and the bits it takes. A spare word that serves a CA or
STB wire holds the codes at the bits such a wire's own word has (log 80). -/
def quantities (k : Nat) : List (Nat × Nat × Nat) :=
  if isDataWord k then [(0, 6, 0), (1, 14, 8), (2, 22, 16), (3, 30, 24)]
  else if isCaWord k then [(5, 5, 0), (6, 14, 8)]
  else if isStbWord k then [(4, 6, 0)]
  else if k = 377 then [(7, 7, 0), (8, 8, 8)] else []

/-- A quantity is a delay. -/
def isDelay (q : Nat) : Bool := [0, 2, 4, 5, 7].contains q

/-- The highest code of a quantity (R295). -/
def codeMax (q : Nat) : Nat := if q = 5 then 63 else if q = 7 then 255 else 127

/-! Points, runs and centres (R296, R298). -/

/-- The points of a sweep over the full range: every tap of a delay, every fourth code of a threshold (R298). -/
def fullPoints (q : Nat) : List Nat := if isDelay q then List.range (codeMax q + 1) else (List.range 32).map (4 * ·)

/-- The points of a sweep confined to 24 taps about a code (R297). -/
def nearPoints (q base : Nat) : List Nat := (fullPoints q).filter fun p => decide (base ≤ p + 24) && decide (p ≤ base + 24)

/-- The longest run of passing points; of runs as long as one another the first (log 80). -/
def longestRun (fails : List Nat) : List Nat → List Nat → List Nat → List Nat
  | best, cur, [] => if best.length < cur.length then cur else best
  | best, cur, p :: t =>
    if fails.contains p then longestRun fails (if best.length < cur.length then cur else best) [] t
    else longestRun fails best (cur ++ [p]) t

/-- The run of a sweep over its points. -/
def passRun (fails pts : List Nat) : List Nat := longestRun fails [] [] pts

/-- The middle point of a run, the lower one of an even run (R296). -/
def runCentre (run : List Nat) : Nat := natAt run ((run.length - 1) / 2)

/-- The points at which a sweep of a list failed: a strobe pair has one sweep, under its even word. -/
def sweepFails (sw : List Sweep) (k q : Nat) : List Nat :=
  let w := if isStbWord k then 345 + (k - 345) / 2 * 2 else k
  ((sw.find? fun e => e.word == w && e.qty == q).map (·.fails)).getD []

/-! The factory bounds (R300 check 3). -/

/-- The factory bounds of a quantity at a point, none with the trim default (R306). -/
def boundOf (s : State) (q opp : Nat) : Option (Nat × Nat) :=
  if trimDefault s then none
  else
    let rows := (upFrom 10 3).map fun r => tabGet (0 : BitVec 256) s.fuses.shadow r
    some (Config.trimBound rows false q opp % 256, Config.trimBound rows true q opp % 256)

/-- A code lies outside its bounds. -/
def outOfBounds (s : State) (q opp v : Nat) : Bool :=
  match boundOf s q opp with
  | some (lo, hi) => decide (v < lo) || decide (hi < v)
  | none => false

/-- The training of a spare word for the part it is to play, by steps 4 and 5, or step 2 for a CA or CAPAR wire (R299): its word of
codes, none where an eye is narrower than 23 taps, a code lies outside its bounds, or a sweep finds no passing point (R300). -/
def trainSpare (s : State) (opp i w : Nat) (sw : List Sweep) : Option Nat :=
  (quantities w).foldl (fun a q => a.bind fun v =>
    let run := passRun (sweepFails sw (361 + i) q.1) (fullPoints q.1)
    if run.isEmpty || (isDelay q.1 && decide (run.length < 23)) || outOfBounds s q.1 opp (runCentre run) then none
    else some (putBits v q.2.1 q.2.2 (runCentre run))) (some 0)

end Sys2Proof.Machine
end

