-- ==== Sys2Proof/Machine/Repair.lean ====
section
/-! DEFINITION. Soft repair (R345 to R349), bay redirection (R18 to R20, R70), line remap (R105 to R107), wire steering and
erasures (R13 to R15, R109). -/

namespace Sys2Proof.Machine

/-! Repair entries (R317). -/

def entryKind (e : Nat) : Nat := bits e 63 61
def entryFlume (e : Nat) : Nat := bits e 60 56
def entrySc (e : Nat) : Nat := bits e 55 54
def entryTier (e : Nat) : Nat := bits e 53 49
def entryBank (e : Nat) : Nat := bits e 48 45
def entryRow (e : Nat) : Nat := bits e 44 32
def entryCol (e : Nat) : Nat := bits e 31 23
def entrySpare (e : Nat) : Nat := bits e 22 18
def entryWire (e : Nat) : Nat := bits e 17 9
def entrySpw (e : Nat) : Nat := bits e 8 5

/-- A repair entry. -/
def entryMake (kind f sc tier bank row col spare wire spw : Nat) : Nat :=
  kind * 2 ^ 61 + f * 2 ^ 56 + sc * 2 ^ 54 + tier * 2 ^ 49 + bank * 2 ^ 45 + row * 2 ^ 32 + col * 2 ^ 23 + spare * 2 ^ 18 +
    wire * 2 ^ 9 + spw * 2 ^ 5

/-- A repair made: it awaits its tally write, counts as a hard fault, and BST_STATUS tells it (R350, R354, R355). -/
def noteRepair (s : State) (f e : Nat) : State :=
  let s1 := modFlume s f fun x => { x with repairsDue := x.repairsDue ++ [BitVec.ofNat 64 e] }
  let s2 := { s1 with bist := { s1.bist with hard := s1.bist.hard + 1 } }
  scEvent s2 (oBst 0xC) fun v => putBits (bumpBits v 15 8) 7 5 (entryKind e)

/-! Elements of a bank number. -/

def bkBank (b : Nat) : Nat := b % 16
def bkTier (b : Nat) : Nat := b / 16 % 17
def bkSc (b : Nat) : Nat := b / 16 / 17 % 4

/-! Line remap. -/

/-- Pool lines of a bank that entries of the table use (R105). -/
def poolUsed (x : Flume) (sc t b : Nat) : List Nat :=
  ((List.range 32).filter fun i =>
    let e := remapEntry x i
    rmValid e && bits e 2 1 == sc && bits e 7 3 == t && bits e 11 8 == b).map fun i => rmPool (remapEntry x i)

/-- The lowest free pool line of a bank (R42, R105). -/
def freePool (s : State) (f sc t b : Nat) : Option Nat :=
  let u := poolUsed (getFlume s f) sc t b
  let w := (getBank s (bankKey f sc t b)).badPool
  (List.range 128).find? fun p => !u.contains p && !w.contains p

/-- The lowest free entry of the remap table (R105). -/
def freeRemap (x : Flume) : Option Nat := (List.range 32).find? fun i => !rmValid (remapEntry x i)

/-- Writing remap entry `i`. -/
def setRemap (s : State) (f i e : Nat) : State :=
  modFlume s f fun x => { x with remap := tabSet 0 x.remap i (BitVec.ofNat 64 e), remapDirty := true }

/-- Releasing the remap entries that meet `p` (R20, R106). -/
def releaseRemap (s : State) (f : Nat) (p : Nat → Bool) : State :=
  forAll s (upFrom 0 32) fun s i =>
    let e := remapEntry (getFlume s f) i
    if rmValid e && p e then setRemap s f i 0 else s

/-- A remap counts: total, FLM_ECC_STATUS, the remap source and the hard faults (R114, R354). -/
def noteRemap (s : State) (f : Nat) : State :=
  let s1 := scEvent (bumpTotal s f 7) (oFlm f 0x74) fun v => bumpBits v 15 8
  event { s1 with bist := { s1.bist with hard := s1.bist.hard + 1 } } (32 + f) 2 1 0 0

/-- Withdrawing a pool line (R42, R107). -/
def withdrawPool (s : State) (b p : Nat) : State := modBank s b fun x => { x with badPool := insertNat p x.badPool }

/-- Remapping the line of a coordinate onto a free pool line with these contents (R105, R107), none where it cannot be. -/
def remapLine (s : State) (f : Nat) (c : Coord) (stored : Nat) : Option State :=
  let b := bankKey f c.sc c.tier c.bank
  match freePool s f c.sc c.tier c.bank with
  | none => none
  | some p =>
    let put := fun s i =>
      setStored (noteRemap (setRemap s f i (rmMake c p)) f) ⟨b, 8192 + 28 + p / 32, p % 32⟩ stored
    match remapAt (getFlume s f) c with
    | some i => some (put (withdrawPool s b (rmPool (remapEntry (getFlume s f) i))) i)
    | none => (freeRemap (getFlume s f)).map fun i => put s i

/-! Bays. -/

/-- A bay goes offline (R18). -/
def bayOffline (s : State) (f sc t : Nat) : State :=
  modBay s (bayKey f sc t) fun x => { x with offline := true, trained := false }

/-- The spare bay becomes unusable (R19); a migration to it ends and the old bay goes offline (R348). -/
def spareUnusable (s : State) (f sc : Nat) : State :=
  let s1 := modSub s (subKey f sc) fun x => { x with spareBad := true }
  let s2 := bayOffline s1 f sc 16
  match tabGet none (getFlume s2 f).migrate sc with
  | some (t, _) =>
    let s3 := modFlume s2 f fun x => { x with migrate := tabSet none x.migrate sc none }
    bayOffline (modBay s3 (bayKey f sc t) fun x => { x with redirected := false }) f sc t
  | none =>
    forAll s2 (upFrom 0 16) fun s t =>
      if (getBay s (bayKey f sc t)).redirected then bayOffline s f sc t else s

/-- Ending the column-group moves of a bay's banks; the repair then holds for every row (R347, R348). -/
def endColMoves (s : State) (f sc t : Nat) : State :=
  forAll s (upFrom (bankKey f sc t 0) 16) fun s b => modBank s b fun x => { x with colMove := none }

/-- Redirecting a bay to its sub-channel's spare bay, or taking it offline where there is none (R18, R345). `copying` starts the
migration of R70; at start-up it completes without copying (R71), which releases the bay's remap entries (R20). The severe fault counts against source (g, i). -/
def redirectBay (s : State) (f sc t g i : Nat) (copying : Bool) : State :=
  let u := getSub s (subKey f sc)
  if t = 16 then event (spareUnusable s f sc) g i 2 (sc + 4 * t) 0
  else if u.spareUsed || u.spareBad || u.offline then event (bayOffline s f sc t) g i 2 (sc + 4 * t) 0
  else
    let s1 := modSub s (subKey f sc) fun x => { x with spareUsed := true }
    let s2 := modBay s1 (bayKey f sc t) fun x => { x with redirected := true }
    let s3 := endColMoves s2 f sc t
    let s4 := if copying then modFlume s3 f fun x => { x with migrate := tabSet none x.migrate sc (some (t, 0)) }
      else releaseRemap s3 f fun e => bits e 2 1 == sc && bits e 7 3 == t
    event (noteRepair s4 f (entryMake 3 f sc t 0 0 0 0 0 0)) g i 2 (sc + 4 * t) 0

/-- A sub-channel goes out of service (R14, R109, R349), a condition that holds its error line (R419). -/
def withdrawSub (s : State) (f sc : Nat) : State :=
  let s1 := modSub s (subKey f sc) fun x => { x with offline := true, stopped := false, logicSlice := false, retry := [], held := [] }
  event (setLine s1 (32 + f) 5 true) (32 + f) 5 2 sc 0

/-! Rows and column groups. -/

/-- Spare rows 0 to 27 in use. -/
def rowsUsed (x : Bank) : List Nat := x.rows.map fun e => e.2 - 1

/-- The lowest free spare row (R345). -/
def freeRow (x : Bank) (bad : List Nat) : Option Nat :=
  (List.range 28).find? fun i => !(rowsUsed x).contains i && !x.badRows.contains i && !bad.contains i

/-- The lowest free spare column group (R345). -/
def freeCol (x : Bank) : Option Nat :=
  (List.range 8).find? fun i => !(x.cols.map fun e => e.2 - 1).contains i && !x.badCols.contains i &&
    (x.colMove.map fun m => m.2.1) != some i

/-- The stored lines of a row in service, from wherever they now lie. -/
def rowCopy (s : State) (f : Nat) (c : Coord) : List Stored :=
  (List.range 32).map fun k => BitVec.ofNat 640 (storedAt s (placeAt s f { c with col := k }))

/-- Writing 32 stored lines into a physical row. -/
def putRow (s : State) (b row : Nat) (copy : List Stored) : State :=
  forAll s (upFrom 0 32) fun s k =>
    setCells (overtake s (bankSub b) (lineKey ⟨b, row, k⟩)) (lineKey ⟨b, row, k⟩) (copy.getD k 0).toNat

/-- The coordinate of a bank number and row. -/
def coordAt (b row : Nat) : Coord := ⟨bkSc b, bkTier b, bkBank b, row, 0⟩

/-- A row repair onto spare row `i` with these contents (R345, R346). -/
def rowRepair (s : State) (b row i : Nat) (copy : List Stored) : State :=
  let f := bankFlume b
  let c := coordAt b row
  let s1 := putRow s b (8192 + i) copy
  let s2 := modBank s1 b fun x => { x with rows := tabSet 0 x.rows row (i + 1) }
  let s3 := releaseRemap s2 f fun e => bits e 24 1 == rmKey c / 2 % 2 ^ 24
  event (noteRepair s3 f (entryMake 1 f c.sc c.tier c.bank row 0 i 0 0)) 11 0 1 0 0

/-- Marking spare rows that failed their read-back unusable (R346). -/
def markRows (s : State) (b : Nat) (bad : List Nat) : State :=
  modBank s b fun x => { x with badRows := bad.foldl (fun l i => if i < 28 then insertNat i l else l) x.badRows }

/-- Remapping every listed column of a row, none where the pool or the table cannot hold them (R345). -/
def remapRow : List Nat → State → Nat → Nat → Option State
  | [], s, _, _ => some s
  | k :: t, s, b, row =>
    let c := { coordAt b row with col := k }
    match remapLine s (bankFlume b) c (storedAt s (placeAt s (bankFlume b) c)) with
    | some s1 => remapRow t s1 b row
    | none => none

/-- Repair of one row in service with failing lines at columns `cols` and no column group failing in another row (R345). -/
def repairRow (s : State) (b row : Nat) (cols bad : List Nat) (copy : List Stored) : State :=
  let x := getBank s b
  let tried := bad.filter fun i =>
    !(rowsUsed x).contains i && !x.badRows.contains i && (freeRow x bad).all fun j => decide (i < j)
  let s1 := markRows s b tried
  match freeRow x bad with
  | some i => rowRepair s1 b row i copy
  | none =>
    match (if bitOf (regGet s1 (oFlm (bankFlume b) 0x70)).toNat 1 then remapRow cols s1 b row else none) with
    | some s2 => event s2 11 0 1 0 0
    | none => redirectBay s1 (bankFlume b) (bkSc b) (bkTier b) 11 0 true

/-- A column-group repair: the group's move to a spare starts at row 0 (R347). A move still running ends, its repair in force. -/
def colRepair (s : State) (b cg i : Nat) : State :=
  let f := bankFlume b
  let s1 := modBank s b fun x => { x with cols := tabSet 0 x.cols cg (i + 1), colMove := some (cg, i, 0) }
  event (noteRepair s1 f (entryMake 2 f (bkSc b) (bkTier b) (bkBank b) 0 cg i 0 0)) 11 0 1 0 0

/-- Withdrawing the faulty lines of a pool row (R42); entries that used them move to free lines or are released (R106). -/
def poolRowBad (s : State) (b i : Nat) (cols : List Nat) : State :=
  let f := bankFlume b
  forAll s (cols.map fun c => 32 * (i - 28) + c % 32) fun s p =>
    let st := storedAt s ⟨b, 8192 + i, p % 32⟩
    let s1 := withdrawPool s b p
    let hit := fun e => rmValid e && rmPool e == p && bits e 2 1 == bkSc b && bits e 7 3 == bkTier b && bits e 11 8 == bkBank b
    match (List.range 32).find? fun k => hit (remapEntry (getFlume s1 f) k) with
    | none => s1
    | some k =>
      let e := remapEntry (getFlume s1 f) k
      match freePool s1 f (bkSc b) (bkTier b) (bkBank b) with
      | some q => setStored (setRemap s1 f k (putBits e 36 30 q)) ⟨b, 8192 + 28 + q / 32, q % 32⟩ st
      | none => setRemap s1 f k 0

/-- A column group that fails in two or more rows of a bank: a column-group repair, else bay redirection (R345). Nothing is
repaired in a bay no longer in service (R348). -/
def colFail (s : State) (b g : Nat) : State :=
  let f := bankFlume b
  if (getBay s (bayKey f (bkSc b) (bkTier b))).redirected || bayOut s f (bkSc b) (bkTier b) then s
  else match freeCol (getBank s b) with
    | some i => colRepair s b g i
    | none => redirectBay s f (bkSc b) (bkTier b) 11 0 true

/-- A faulty spare column group becomes unusable; a column group it serves is repaired again (R345). -/
def spareColBad (s : State) (b i : Nat) : State :=
  let s1 := modBank s b fun y => { y with badCols := insertNat i y.badCols }
  match (getBank s1 b).cols.find? fun e => e.2 == i + 1 with
  | some e => colFail (modBank s1 b fun y => { y with cols := tabSet 0 y.cols e.1 0, colMove := none }) b e.1
  | none => s1

/-- A faulty spare row becomes unusable; a row it serves is repaired again with what the spare row holds (R345). -/
def spareRowBad (s : State) (b i : Nat) (cols bad : List Nat) : State :=
  let s1 := markRows s b [i]
  match (getBank s b).rows.find? fun e => e.2 == i + 1 with
  | some e =>
    let keep := rowCopy s (bankFlume b) (coordAt b e.1)
    repairRow (modBank s1 b fun y => { y with rows := tabSet 0 y.rows e.1 0 }) b e.1 cols bad keep
  | none => s1

/-- The column groups of a list that serve a bank, not yet repaired themselves. -/
def groupsUp (x : Bank) (cgs : List Nat) : List Nat := cgs.filter fun g => decide (g < 320) && tabGet 0 x.cols g == 0

/-- Failing column groups of a row in service are counted since the last start-up (R345). -/
def noteGroups (s : State) (b row : Nat) (cgs : List Nat) : State :=
  if row < 8192 then
    modBank s b fun y =>
      { y with fails := (groupsUp y cgs).foldl (fun l g => if l.contains (g, row) then l else l ++ [(g, row)]) y.fails }
  else s

/-- The failing groups of a row in service: those that fail in another row too are repaired as column groups, what is left as the
row (R345). -/
def repairService (s : State) (b row : Nat) (cgs cols bad : List Nat) : State :=
  let f := bankFlume b
  let s1 := noteGroups s b row cgs
  let own := groupsUp (getBank s1 b) cgs
  let many := fun g => (getBank s1 b).fails.any fun e => e.1 == g && e.2 != row
  let s2 := (own.filter many).foldl (fun s g => colFail s b g) s1
  if own.all many || (getBay s2 (bayKey f (bkSc b) (bkTier b))).redirected || bayOut s2 f (bkSc b) (bkTier b) then s2
  else repairRow s2 b row cols bad (rowCopy s2 f (coordAt b row))

/-- A failure of column groups `cgs` in a physical row of a bank, repaired in the first way that applies (R345); a group
number above 327 stands for an address-decoder failure. `cols` are its failing lines, `bad` spare rows that fail their read-back.
A row that a spare row replaces is not in service, and a bay being redirected is not repaired (R348). -/
def repairFailure (s : State) (b row : Nat) (cgs cols bad : List Nat) : State :=
  let f := bankFlume b
  let sc := bkSc b
  let t := bkTier b
  if t = 16 then (if (getSub s (subKey f sc)).spareBad then s else redirectBay s f sc 16 11 0 true)
  else if (getBay s (bayKey f sc t)).redirected || bayOut s f sc t then s
  else if cgs.any fun g => 328 ≤ g then redirectBay s f sc t 11 0 true
  else if 8220 ≤ row then poolRowBad s b (row - 8192) cols
  else if 8192 ≤ row then spareRowBad s b (row - 8192) cols bad
  else if tabGet 0 (getBank s b).rows row ≠ 0 then s
  else repairService ((cgs.filter fun g => 320 ≤ g).foldl (fun s g => spareColBad s b (g - 320)) s) b row cgs cols bad

/-- The rows that failing cells lie in, as bank and physical row. -/
def cellRows (cs : List CellFail) : List (Nat × Nat) :=
  cs.foldl (fun l c => if l.contains (c.bank, c.row) then l else l ++ [(c.bank, c.row)]) []

/-- The failing column groups of one row. -/
def cellGroups (cs : List CellFail) (k : Nat × Nat) : List Nat :=
  (cs.filter fun c => c.bank == k.1 && c.row == k.2).map (·.colgrp)

/-- The failing lines of one row. -/
def cellCols (cs : List CellFail) (k : Nat × Nat) : List Nat :=
  (cs.filter fun c => c.bank == k.1 && c.row == k.2).foldl (fun l c => insertNat (c.col % 32) l) []

/-- Repairing the failing cells that slices found, row by row (R341, R345). -/
def repairCells (s : State) (cs : List CellFail) : State :=
  (cellRows cs).foldl (fun s k => repairFailure s k.1 k.2 (cellGroups cs k) (cellCols cs k) []) s

/-- Repairing the failing cells of a march, whose results all stand before the repair (R334, R345). -/
def repairMarch (s : State) (cs : List CellFail) : State :=
  repairCells ((cellRows cs).foldl (fun s k => noteGroups s k.1 k.2 (cellGroups cs k)) s) cs

/-! Wires: window order of R311, then ALERT 377 to 378 and CK pairs 379 to 380 and 381 to 382. -/

/-- An erasure of a DQ or CB wire (R15, R108): the third of a word group withdraws the sub-channel (R109). -/
def addErasure (s : State) (f sc w : Nat) : State :=
  let k := subKey f sc
  let g := if w < 256 then w / 64 else (w - 256) / 16
  let p := if w < 256 then w % 64 else 64 + (w - 256) % 16
  if 2 ≤ (erasedIn s k g).length then withdrawSub s f sc
  else
    let s1 := modSub s k fun x => { x with erasures := x.erasures ++ [g * 128 + p], degraded := true }
    event s1 (32 + f) 5 2 sc 0

/-- The wire is a data or check wire. -/
def isDataWire (w : Nat) : Bool := decide (w < 320)

/-- The window word of a spare takes its trained code in a trained bay, with the apply of the sub-channel (R299, R300). -/
def setSpareWord (i w : Nat) (trains : List (Nat × List Sweep)) (f sc : Nat) (s : State) (t : Nat) : State :=
  let sw := ((trains.find? fun e => e.1 == t).map (·.2)).getD []
  match trainSpare s (getFlume s f).opp i w sw with
  | some v => modBay s (bayKey f sc t) fun b =>
      if b.trained then { b with inForce := tabSet (0 : Word) b.inForce (361 + i) (BitVec.ofNat 32 v) } else b
  | none => s

/-- Spare `i` takes the place of wire `w` (R13): its codes come into force in every bay. -/
def steer (s : State) (f sc w i : Nat) (trains : List (Nat × List Sweep)) : State :=
  let s1 := noteRepair (modSub s (subKey f sc) fun x => { x with steer := tabSet 0 x.steer i (w + 1) }) f (entryMake 4 f sc 0 0 0 0 0 w i)
  forAll s1 (upFrom 0 17) (setSpareWord i w trains f sc)

/-- Marking spare wires bad (R299). -/
def markSpares (s : State) (k : Nat) (bad : List Nat) : State :=
  modSub s k fun x => { x with badSpares := bad.foldl (fun l i => insertNat i l) x.badSpares }

/-- A spare trains for a wire in every bay in service of its sub-channel (R299). -/
def spareTrains (s : State) (f sc w i : Nat) (trains : List (Nat × List Sweep)) : Bool :=
  (List.range 17).all fun t => bayOut s f sc t ||
    (trainSpare s (getFlume s f).opp i w (((trains.find? fun e => e.1 == t).map (·.2)).getD [])).isSome

/-- The first spare of a list that trains for a wire; those that do not are marked bad, and a data wire that such a spare served
becomes an erasure (R15, R299). -/
def pickSpare (f sc w : Nat) (trains : List (Nat × List Sweep)) : List Nat → State → Option Nat × State
  | [], s => (none, s)
  | i :: t, s =>
    if spareTrains s f sc w i trains then (some i, s)
    else
      let k := subKey f sc
      let u := tabGet 0 (getSub s k).steer i
      let s1 := modSub (markSpares s k [i]) k fun x => { x with steer := tabSet 0 x.steer i 0 }
      pickSpare f sc w trains t (if u = 0 then s1 else addErasure s1 f sc (u - 1))

/-- A DQ, CB, CA, CAPAR or STB wire has failed (R13, R15). The spec does not say which of several free spares is taken, nor what happens
to a CA, CAPAR or STB wire that no spare is left for: the model takes the lowest-numbered free spare that trains, and the sub-channel
out of service (DESIGN CHOICE, log 81). -/
def steerOut (s : State) (f sc w : Nat) (trains : List (Nat × List Sweep)) : State :=
  let x := getSub s (subKey f sc)
  let free := (List.range 16).filter fun i => tabGet 0 x.steer i == 0 && !x.badSpares.contains i
  match pickSpare f sc w trains free s with
  | (some i, s1) => steer s1 f sc w i trains
  | (none, s1) =>
    if isDataWire w then addErasure s1 f sc w
    else
      let y := getSub s1 (subKey f sc)
      let taken := (List.range 16).filter fun i => decide (0 < tabGet 0 y.steer i) && isDataWire (tabGet 0 y.steer i - 1)
      match pickSpare f sc w trains taken s1 with
      | (some i, s2) => addErasure (steer s2 f sc w i trains) f sc (tabGet 0 (getSub s2 (subKey f sc)).steer i - 1)
      | (none, s2) => withdrawSub s2 f sc

/-- An ALERT wire or a CK pair is lost: a notice for the first, the sub-channel out of service for the second (R14). -/
def loseCopy (s : State) (f sc : Nat) (ck : Bool) (i : Nat) : State :=
  let k := subKey f sc
  let old := if ck then (getSub s k).ckLost else (getSub s k).alertLost
  let new := old ||| 2 ^ i
  let s1 := modSub s k fun x => if ck then { x with ckLost := new } else { x with alertLost := new }
  if new = old then s
  else if new = 3 then withdrawSub s1 f sc
  else event s1 (32 + f) 5 1 sc 0

/-- A DQ or CB wire is an erasure already (R15, R108). -/
def wireErased (u : SubChan) (w : Nat) : Bool :=
  isDataWire w && u.erasures.contains (if w < 256 then w / 64 * 128 + w % 64 else (w - 256) / 16 * 128 + 64 + (w - 256) % 16)

/-- A wire that a loop test found failing (R299, R349); one that is steered out or an erasure already is out of use. R299 names no
outcome for a spare wire that fails: the model marks it bad and steers the wire it served anew (DESIGN CHOICE, log 81). -/
def wireFail (s : State) (f sc w : Nat) (trains : List (Nat × List Sweep)) : State :=
  let k := subKey f sc
  let x := getSub s k
  if w < 361 then
    if x.steer.any (fun e => e.2 == w + 1) || wireErased x w || x.offline then s else steerOut s f sc w trains
  else if w < 377 then
    let u := tabGet 0 x.steer (w - 361)
    let s1 := modSub (markSpares s k [w - 361]) k fun x => { x with steer := tabSet 0 x.steer (w - 361) 0 }
    if u = 0 || x.offline then s1 else steerOut s1 f sc (u - 1) trains
  else if w < 379 then loseCopy s f sc false (w - 377)
  else if w < 383 then loseCopy s f sc true ((w - 379) / 2)
  else s

/-- The apply that brings new steering and erasures into force: the sub-channel's command bus is idle for 8 cycles, and
FLM_TRN_STATUS tells the apply (R110, R299, R300). -/
def applySteering (old s : State) (f sc : Nat) : State :=
  let a := getSub old (subKey f sc)
  let b := getSub s (subKey f sc)
  if (a.steer == b.steer && a.erasures == b.erasures) || b.offline then s
  else scEvent (modSub s (subKey f sc) fun u => { u with cycle := u.cycle + 8 }) (oFlm f 0x154) fun v => putBits v 1 0 1

/-- The loop test of a sub-channel: its failing wires in ascending order, then one apply (R299). -/
def loopTest (s : State) (f sc : Nat) (r : LoopRes) : State :=
  applySteering s (r.wires.foldl (fun s w => wireFail s f sc w r.trains) s) f sc

end Sys2Proof.Machine
end

