-- ==== Sys2Proof/Machine/Read.lean ====
section
/-! DEFINITION. What a read of a line does beyond delivering it: counts, the hot-word tracker (R103 to R107), the retry (R96),
the partner's copy (R101), and the execution of a line's older requests before a direct access (R47). -/

namespace Sys2Proof.Machine

/-! The hot-word tracker. -/

/-- One second, in ns (R103, R104). -/
def oneSecond : Nat := 1000000000

/-- The counting entry a new line replaces: lowest count, oldest among equals (R103). -/
def trackVictim (l : List TrackEntry) : Option TrackEntry :=
  (l.filter fun e => !e.waiting).foldl (fun a e => match a with
    | none => some e
    | some b => if e.count < b.count ∨ (e.count = b.count ∧ e.since < b.since) then some e else some b) none

/-- A line without an entry counts (R103). -/
def trackNew (s : State) (f key : Nat) : State :=
  let x := getFlume s f
  let e : TrackEntry := ⟨key, 1, s.now, false⟩
  if x.tracker.length < 64 then modFlume s f fun x => { x with tracker := x.tracker ++ [e] }
  else match trackVictim x.tracker with
    | some v => modFlume s f fun x => { x with tracker := (x.tracker.filter fun t => t != v) ++ [e] }
    | none => event (bumpTotal s f 8) (32 + f) 4 1 0 0

/-- Freeing the tracker entry of a line. -/
def trackFree (s : State) (f key : Nat) : State :=
  modFlume s f fun x => { x with tracker := x.tracker.filter fun e => e.key != key }

/-- A line that cannot be remapped: its row is offered to soft repair (R107, R345). A spare row that serves it is unusable. -/
def offerRow (s : State) (f : Nat) (c : Coord) (stored : Nat) : State :=
  let b := bankKey f c.sc c.tier c.bank
  if c.tier = 16 then redirectBay s f c.sc 16 11 0 true
  else
    let copy := (rowCopy s f c).set c.col (BitVec.ofNat 640 stored)
    let r := tabGet 0 (getBank s b).rows c.row
    let s1 := if r = 0 then s else modBank (markRows s b [r - 1]) b fun y => { y with rows := tabSet 0 y.rows c.row 0 }
    repairRow s1 b c.row [c.col] [] copy

/-- A hard fault (R105, R107): the line is remapped with the corrected data of the read, or a notice is raised and its row is
offered to soft repair. In a bay whose redirection is under way nothing is repaired (R348). -/
def hardFault (s : State) (f : Nat) (c : Coord) (stored : Nat) : State :=
  let s1 := trackFree s f (trackKey f c)
  if (getBay s (bayKey f c.sc c.tier)).redirected then s1
  else match (if bitOf (regGet s (oFlm f 0x70)).toNat 1 then remapLine s1 f c stored else none) with
    | some s2 => s2
    | none => offerRow (event s1 (32 + f) 3 1 0 0) f c stored

/-- A line that port 8 writes back within a step takes an injection armed for that port (R111, R115). -/
def storeBack (s : State) (f : Nat) (p : Place) (data md : Nat) : State :=
  let r : Req := { reqInit with kind := .write, port := 8 }
  let inj := injectOn s f r
  disarm (setStored s p (invert (encodeLine data md) inj)) f { r with inject := inj }

/-- A corrected read of a coordinate counts in the tracker (R103, R104); `line` and `region` name it for a rewrite, and a coordinate that
serves no line is rewritten where it stands. The second that an entry waits "from the rewrite" is counted from the moment the rewrite is
queued (DESIGN CHOICE, log 82). -/
def track (s : State) (f : Nat) (c : Coord) (line : Option Nat) (d : Decoded) (dpaLine region : Nat) : State :=
  let key := trackKey f c
  let mark (md : Nat) : Nat := mdMake (mdCxl md) (keptDirty s region md) (mdPoison md)
  if !bitOf (regGet s (oFlm f 0x70)).toNat 0 then s
  else match (getFlume s f).tracker.find? fun e => e.key == key with
    | none => trackNew s f key
    | some e =>
      if oneSecond ≤ s.now - e.since then trackNew (trackFree s f key) f key
      else if e.waiting then hardFault s f c (encodeLine d.data (mark d.md))
      else
        let n := e.count + 1
        let upd (t : TrackEntry) : TrackEntry :=
          if n = 4 then { t with count := n, waiting := true, since := s.now } else { t with count := n }
        let s1 := modFlume s f fun x => { x with tracker := mapWhere (fun t => t.key == key) upd x.tracker }
        if n < 4 then s1
        else match line with
          | some l => queueWriteBack s1 f l d.data (mark d.md) dpaLine region
          | none => storeBack s1 f (placeAt s1 f c) d.data (mark d.md)

/-! Counting a line read (R94, R95, R96, R103, R114). -/

/-- Lines and words corrected, retry recoveries, uncorrectable lines, and their sources, for a read of a coordinate. -/
def countAt (s : State) (f : Nat) (c : Coord) (line : Option Nat) (d : Decoded) (retried : Bool) (dpaLine region : Nat) : State :=
  if d.bad then
    event (scEvent (bumpTotal s f 3) (oFlm f 0x74) fun v => bumpBits v 23 16) (32 + f) 1 0 0 0
  else
    let s1 := if retried then bumpTotal s f 2 else s
    if d.words = 0 then s1
    else
      let s2 := event (bumpTotal (addTotal s1 f 0 d.words) f 1) (32 + f) 0 0 0 0
      track s2 f c line d dpaLine region

/-- The counts of a read of a line. -/
def countRead (s : State) (f line : Nat) (d : Decoded) (retried : Bool) (dpaLine region : Nat) : State :=
  countAt s f (coordOf s f line) (some line) d retried dpaLine region

/-- R94: disagreeing poison copies are settled by majority and the line is rewritten; it counts as one corrected word. -/
def settlePoison (s : State) (f line : Nat) (d : Decoded) (dpaLine region : Nat) : State :=
  if d.bad || !poisonSplit d.md then s
  else queueWriteBack (bumpTotal s f 0) f line d.data (mdMake (mdCxl d.md) (mdDirty d.md) (mdPoison d.md)) dpaLine region

/-- The line of a decode as it is to stand: three equal poison copies (R94). -/
def settledMd (d : Decoded) : Nat := mdMake (mdCxl d.md) (mdDirty d.md) (mdPoison d.md)

/-- The metadata a device's rewrite of a line stores: the mirror-dirty bit is 0 outside mirrored regions (R93). -/
def rewriteMd (s : State) (region : Nat) (d : Decoded) (poison : Bool) : Nat := mdMake (mdCxl d.md) (keptDirty s region d.md) poison

/-! Reads made within a step: scrub, canary, resilver, operators, the dispatcher. -/

/-- Decoding a line with its retry (R96): the inverted bits that each of the two reads finds are given. -/
def readTwice (s : State) (p : Place) (flips : List Nat × List Nat) : Decoded × Bool :=
  let d := readPlace s p flips.1
  if d.bad then (readPlace s p flips.2, true) else (d, false)

/-- The partner's answer for a DPA line in a command's input (R280). -/
def partnerLine (env : OpEnv) (line : Nat) : Option CopyLine := (env.partner.find? fun e => e.1 == line).map (·.2)

/-- The copy request of a request, if it waits for one. -/
def copyOf (s : State) (f id : Nat) : Option CopyWait := s.leat.copies.find? fun c => c.flume == f && c.req.id == id && !c.refetch

/-- A copy request is settled. -/
def dropCopy (s : State) (c : CopyWait) : State := modLeat s fun l => { l with copies := l.copies.filter fun e => e.tag != c.tag }

/-- The partner's copy of an accepted request's line, where R101 fetches it: a mirrored line with no pond entry pending. -/
def rescue (s : State) (r : Req) (env : OpEnv) : Option CopyLine :=
  if r.mirrored && (pondEntry s r.dpaLine).isNone && usableCopy s r.dpaLine then partnerLine env r.dpaLine else none

/-- The notice of a mirrored line that no partner copy could save (R101). -/
def rescueNotice (s : State) (r : Req) : State := if r.mirrored && (pondEntry s r.dpaLine).isNone then mirrorNotice s else s

/-- A request's line is read within a step (R94 to R96, R98, R101): the line is delivered or merged; an uncorrectable one is replaced by
the partner's copy, or delivered poisoned and written back so. -/
def readNow (s : State) (f : Nat) (r : Req) (p : Place) (env : OpEnv) : State :=
  let d := readPlace s p []
  let s1 := countRead s f r.line d d.bad r.dpaLine r.region
  let s2 := if !d.bad && poisonSplit d.md then storeBack (bumpTotal s1 f 0) f p d.data (rewriteMd s1 r.region d (mdPoison d.md))
    else s1
  if !d.bad then
    match r.kind with
    | .read => completeRead (dropReq s2 f r.id) r f d.data d.md (mdPoison d.md)
    | _ => putMerged s2 f r d.data (mdPoison d.md)
  else match rescue s2 r env with
    | some c =>
      let s3 := refill s2 f r.line c
      match r.kind with
      | .read => completeRead (dropReq s3 f r.id) r f c.data.toNat (mdMake c.md.toNat false c.poison) c.poison
      | _ => putMerged s3 f r c.data.toNat c.poison
    | none =>
      let s3 := bumpTotal (rescueNotice s2 r) f 4
      match r.kind with
      | .read =>
        completeRead (dropReq (storeBack s3 f p d.data (rewriteMd s3 r.region d true)) f r.id) r f d.data d.md true
      | _ => putMerged s3 f r d.data true

/-- A request whose line lies in an offline bay is served within a step: from a pending pond entry, by the partner's copy, or as R18 and
R97 say (R18, R274, R280). -/
def awayNow (s : State) (f : Nat) (r : Req) (env : OpEnv) : State :=
  match (if r.kind == .read && r.mirrored then pondEntry s r.dpaLine else none) with
  | some p => completeRead (dropReq s f r.id) r f p.data.toNat (mdMake p.md.toNat false p.poison) p.poison
  | none => match (if r.kind == .read || r.mirror then rescue s r env else none) with
    | some c =>
      match r.kind with
      | .read => completeRead (dropReq s f r.id) r f c.data.toNat (mdMake c.md.toNat false c.poison) c.poison
      | _ => putMerged s f r c.data.toNat c.poison
    | none => serveLost s f r

/-- A queued write is carried out within a step: mirrored first where that is still to be done (R263), then stored. -/
def writeQueued (s : State) (f : Nat) (r : Req) : State :=
  let s1 := dropReq s f r.id
  let s2 := if r.mirror then
      mirrorLine s1 r.region f r.dpaLine r.data.toNat (carryMd s1 f r.line r.md) r.poison r.dest
    else s1
  disarm (storeLine s2 f r.line r.data.toNat r.md r.dirty r.poison r.inject) f r

/-- Carrying out one accepted request within a step that must follow it (R47). One that waits for the partner's copy takes it from the
command's input; a partial write is merged and then written. -/
def execNow (f : Nat) (env : OpEnv) (s : State) (r : Req) : State :=
  let s1 := match copyOf s f r.id with
    | some c => match partnerLine env r.dpaLine with
      | some d => copyArrived (dropCopy s c) c d
      | none => copyFailed (dropCopy s c) c
    | none =>
      match r.kind with
      | .write => s
      | _ => match placeOf s f r.line with
        | none => awayNow s f r env
        | some p => readNow s f r p env
  match (getFlume s1 f).queue.find? fun q => q.id == r.id && q.kind == .write with
  | some q => writeQueued s1 f q
  | none => s1

/-- The older requests of a line, accepted and not completed, are carried out in their order before a direct access to it (R47, R219). -/
def flushLine (s : State) (f line : Nat) (env : OpEnv) : State :=
  (((getFlume s f).inflight ++ (getFlume s f).queue).filter fun r => r.line == line).foldl (execNow f env) s

/-- What a direct read of a line delivers: data, poison mark, decode, and whether the line's bay is offline. -/
structure Got where
  data : Nat
  poison : Bool
  md : Nat
  /-- No line to read (R18, R280). -/
  offline : Bool
  bad : Bool
  words : Nat
  fetched : Bool
  deriving DecidableEq, Repr

/-- What a line delivered poisoned that no storage holds looks like. -/
def lostGot (s : State) (offline : Bool) : Got := ⟨lostData s, true, 0x49, offline, false, 0, false⟩

/-- What the partner's copy of a line looks like. -/
def copyGot (c : CopyLine) (bad : Bool) : Got := ⟨c.data.toNat, c.poison, mdMake c.md.toNat false c.poison, false, bad, 0, true⟩

/-- A read of DPA line `dpaLine` made within a step (R47, R96, R101, R280, R281): the line's older requests first, then the line,
from the partner where the line is offline, uncorrectable or a secondary's set granule. `heal` tells a line that is delivered, with its
poison write-back after a second uncorrectable read, from the read stage of a partial write (R98). -/
def readLine (s0 : State) (f line dpaLine region : Nat) (env : OpEnv) (heal : Bool) : Got × State :=
  let s := flushLine s0 f line env
  let e := regionWord s region
  let mirrored := decide (region < 64) && rgMode e != 0
  let remote := if usableCopy s dpaLine then partnerLine env dpaLine else none
  if mirrored && rgSecondary e && isDirty s dpaLine then
    match (if regionMatched s region then partnerLine env dpaLine else none) with
    | some c => (copyGot c false, s)
    | none => (lostGot s false, bumpTotal (if regionMatched s region then bumpFree s else mirrorNotice (bumpFree s)) f 6)
  else match placeOf s f line with
  | none =>
    match (if mirrored then pondEntry s dpaLine else none) with
    | some p => (⟨p.data.toNat, p.poison, mdMake p.md.toNat false p.poison, false, false, 0, false⟩, s)
    | none => match (if mirrored then remote else none) with
      | some c => (copyGot c false, s)
      | none => (lostGot s true, bumpTotal (bumpFree s) f 6)
  | some p =>
    match (if (getFlume s f).refetch.contains line && (pondEntry s dpaLine).isNone then remote else none) with
    | some c => (copyGot c false, s)
    | none =>
      let q := readTwice s p (flipsAt env.flips (lineKey p))
      let d := q.1
      let s1 := settlePoison (countRead s f line d q.2 dpaLine region) f line d dpaLine region
      if !d.bad then
        (⟨d.data, mdPoison d.md, d.md, false, false, d.words, false⟩, if heal && mdPoison d.md then bumpTotal s1 f 6 else s1)
      else match (if mirrored && (pondEntry s dpaLine).isNone then remote else none) with
        | some c => (copyGot c true, refill s1 f line c)
        | none =>
          let s2 := if mirrored && (pondEntry s dpaLine).isNone then mirrorNotice s1 else s1
          let md := rewriteMd s region d true
          (⟨d.data, true, md, false, true, 0, false⟩, if heal then bumpTotal (storeBack (bumpTotal s2 f 4) f p d.data md) f 6 else s2)

/-- A full-line write of a DPA line made within a step (R47, R102): older requests and write-backs first, the mirror's part
(R263, R269, R272), then the line. -/
def writeLine (s0 : State) (f line dpaLine region data : Nat) (md : Option (BitVec 2)) (poison : Bool) (port : Nat) (dest : ReqFor)
    (env : OpEnv) : State :=
  let s := voidWriteBacks (flushLine s0 f line env) f line
  let mirrored := decide (region < 64) && rgMode (regionWord s region) != 0
  let solo := mirrored && !regionMatched s region
  let r : Req := { reqInit with kind := .write, port := port }
  let inj := injectOn s f r
  let s1 := if mirrored then mirrorLine s region f dpaLine data (carryMd s f line md) poison dest else s
  disarm (storeLine s1 f line data md solo poison inj) f { r with inject := inj }

end Sys2Proof.Machine
end

