-- ==== Sys2Proof/Machine/Safe.lean ====
section
/-! DEFINITION. The safe state (R427, R232, R402) and the raising of events that may enter it or disable a mill. -/

namespace Sys2Proof.Machine

/-- What a head answers in the safe state for a request that has not reached a flume (R232). -/
def answerSafe (s : State) (r : Req) : State :=
  match r.kind, r.dest with
  | .read, .host h tag m => answerRead (bumpFree s) h tag (lostData s) true (if m then some 0 else none)
  | .read, _ => s
  | _, d => finishWrite s d

/-- R232: every accepted request that has not reached a flume is completed, reads poisoned. -/
def flushIngress (s : State) : State :=
  forAll s (upFrom 0 32) fun s f =>
    let rs := (getFlume s f).waiting.filter fun r => r.port < 4
    let s1 := modFlume s f fun x => { x with waiting := x.waiting.filter fun r => !(r.port < 4) }
    rs.foldl (fun s r => answerSafe (freeCredit s r.port (isWrite r)) r) s1

/-- Owed refreshes are paid and rows closed before self-refresh (R80, R427 step 5). -/
def payRefresh (x : Bank) : Bank :=
  { x with rowCtr := (x.rowCtr + (x.owed - x.owedDue) + x.refDue) % 1028, owed := 0, refDue := 0, owedDue := 0, openRow := none, hits := 0 }

/-- CK stops without a command: rows close and self-refresh starts from the row counter as it stands (R373, R427 step 5). -/
def stopRefresh (x : Bank) : Bank := { x with owed := 0, refDue := 0, owedDue := 0, openRow := none, hits := 0 }

/-- Paying the owed refreshes of every bank that meets `p`. -/
def payAll (s : State) (p : Nat → Bool) : State :=
  forAll s (s.banks.map Prod.fst) fun s b => if p b then modBank s b payRefresh else s

/-- Both leat ports are directed to Disabled (R277, R427). -/
def disablePorts (s : State) : State :=
  forAll s [0, 1] fun s k => modPort s k fun p => { p with linkUp := false, recovering := false, rate := 0, width := 0, disabled := true }

/-- A head logs an uncorrectable internal error through AER and the CXL RAS capability (R214, R232; the bits are those of PCIe and CXL:
PRESUMED, log 83). -/
def internalError (s : State) (h : Nat) : State :=
  modHead (aerLog s h 22 true) h fun x => { x with rasUnc := x.rasUnc ||| 0x4000 }

/-- The sequence of R427. Mills stop where they are; the partner is lost; each flume goes to self-refresh. -/
def safeEntry (s : State) : State :=
  let s1 := emit { s with flt := { s.flt with safe := true }, boot := { s.boot with faultN := false } } (.pins false s.boot.linkEn)
  let s2 := forAll (flushIngress s1) [0, 1, 2, 3] internalError
  let s3 := partnerLost (disablePorts s2)
  if s3.pwr.coreLock then payAll s3 fun _ => true
  else forAll s3 (s3.banks.map Prod.fst) fun s b => modBank s b stopRefresh

/-- One event with all it brings: a fatal one enters the safe state (R426, R427), and a mill-fault source that becomes severe
disables its mill (R143). -/
def raise (s : State) (g i sev unit detail : Nat) : State :=
  if (sourceDefault g i).isNone then s
  else
    let o := eventOutcome (countSource s g i) g i sev
    let s1 := event s g i sev unit detail
    let s2 := if 32 ≤ g ∧ i = 13 ∧ 2 ≤ o then modMill s1 (g - 32) fun m => { m with disabled := true } else s1
    if o = 3 ∧ ¬ s.flt.safe then safeEntry s2 else s2

end Sys2Proof.Machine
end

