-- ==== Sys2Proof/Machine/Mem.lean ====
section
/-! DEFINITION. CXL.mem requests of the heads (R218), HDM decoding (R23 to R25), and admission to a flume (R45, R222, R281). -/

namespace Sys2Proof.Machine

/-! Wakes and hints. -/

/-- A wake event for the device is latched while it is below Run or enters a state (R397, R398). -/
def wakeDevice (s : State) : State :=
  if 2 ≤ s.pwr.dstate ∨ s.pwr.entering.isSome then { s with pwr := { s.pwr with waking := true } } else s

/-- A wake event for a flume: from Trim it runs at once; from deeper states the wake is latched, and the device wakes too, since it is below
Run only while every flume is (R391, R397, R398). -/
def wakeFlume (s : State) (f : Nat) : State :=
  if 2 ≤ (getFlume s f).pstate ∨ (getFlume s f).entering.isSome then modFlume (wakeDevice s) f fun x => { x with waking := true }
  else modFlume s f fun x => { x with pstate := 0 }

/-- A head's hint lapses (R213). -/
def lapseHint (s : State) (h : Nat) : State := modHead s h fun x => { x with hint := none }

/-! HDM decoding. -/

/-- The DPA of an HPA under a committed decoder (R23, R24): the interleave bits removed. -/
def decodeHpa (d : Decoder) (hpa : Nat) : Option Nat :=
  if d.committed ∧ d.base ≤ hpa ∧ hpa < d.base + d.size then
    let o := hpa - d.base
    some (d.dpa + o / (d.gran * d.ways) * d.gran + o % d.gran)
  else none

/-- The DPA of an HPA through a head's decoders (R23). -/
def dpaOfHpa (x : Head) (hpa : Nat) : Option Nat :=
  (List.range 8).findSome? fun i => decodeHpa (tabGet decoderInit x.decoders i) hpa

/-- End of decoder `i`'s DPA range (R24). -/
def decoderEnd (x : Head) : Nat → Nat
  | 0 => 0
  | i + 1 => let d := tabGet decoderInit x.decoders i; d.dpa + d.size / max 1 d.ways

/-- Whether a commit of decoder `i` succeeds (R24, R216); decoder i - 1 must end at or below this one's base. A range that would pass
the top of the 64-bit address space fails by the commit rules of CXL 3.1 (PRESUMED, log 15). -/
def commitOk (x : Head) (i base size ways gran skip : Nat) : Bool :=
  let prev := tabGet decoderInit x.decoders (i - 1)
  x.cxl && [1, 2, 3, 4, 6, 8, 12, 16].contains ways && [256, 512, 1024, 2048, 4096, 8192, 16384].contains gran &&
    size % (mib256 * ways) == 0 && base % mib256 == 0 && decide (base + size ≤ 2 ^ 64) &&
    (i == 0 || (prev.committed && decide (prev.base + prev.size ≤ base))) &&
    decide (decoderEnd x i + skip + size / max 1 ways ≤ 2 ^ 39)

/-- HDM_DECODER_COMMIT (R23, R24): the decoder is written and its commit bit set, or cleared. A decoder committed with its
lock-on-commit bit set is locked until the head is reset, and a decoder is released only from the highest one down (CXL 3.1: PRESUMED,
log 15). -/
def execHdmDecoderCommit (h i base size ways gran skip : Nat) (lock commit : Bool) (s : State) : Answer :=
  onElement (okHead h && decide (i < 8)) <|
    let x := getHead s h
    let old := tabGet decoderInit x.decoders i
    let put := fun (d : Decoder) => modHead s h fun x => { x with decoders := tabSet decoderInit x.decoders i d }
    if old.committed && (old.lock || commit || (tabGet decoderInit x.decoders (i + 1)).committed) then .next s
    else if !commit then .next (put { old with committed := false, failed := false })
    else .next (put
      (if commitOk x i base size ways gran skip then ⟨base, size, ways, gran, skip, decoderEnd x i + skip, true, lock, false⟩
       else ⟨base, size, ways, gran, skip, 0, false, lock, true⟩))

/-! Requests. -/

/-- The head takes CXL.mem requests: link up in CXL mode, not in D3hot (R216, R231). -/
def takesMem (x : Head) : Bool := x.linkUp && x.cxl && !x.d3hot

/-- Where a head's request goes: the region entry and DPA, or the index of the head's source that counts it (R25, R31, R34, R267). -/
inductive Route where
  | to (region dpa : Nat)
  | lost (source : Nat)
  deriving DecidableEq, Repr

/-- The route of a request, and the state after the lookup's check. -/
def route (s : State) (h hpa : Nat) (write : Bool) (ecc : EccCheck) : Route × State :=
  match dpaOfHpa (getHead s h) hpa with
  | none => (.lost 1, s)
  | some dpa =>
    match regionAt s dpa with
    | none => (.lost 2, s)
    | some i =>
      let s1 := regionCheck s i ecc
      if !regionLive s1 i then (.lost 2, s1)
      else if !bitOf (rgHeads (regionWord s1 i)) h then (.lost 3, s1)
      else if write && rgMode (regionWord s1 i) != 0 && rgSecondary (regionWord s1 i) then (.lost 3, s1)
      else (.to i dpa, s1)

/-- A routed request enters its flume's ingress queue, and wakes the flume (R222, R398). -/
def ingress (s : State) (f : Nat) (r : Req) : State :=
  wakeFlume (modFlume s f fun x => { x with waiting := x.waiting ++ [r] }) f

/-- A CXL.mem request of a head wakes the device and ends the head's hint (R213, R398). -/
def memArrives (s : State) (h : Nat) : State := wakeDevice (lapseHint s h)

/-- The host holds a credit for a request, or for a request with data (R221). -/
def mayRead (x : Head) : Bool := takesMem x && decide (0 < x.reqCredit)
def mayWrite (x : Head) : Bool := takesMem x && decide (0 < x.rwdCredit)

/-- A message that the head answers at once uses no place in the ingress buffer: its credit goes straight back (R221). -/
def passThrough (s : State) (h : Nat) (write : Bool) : State := freeCredit (takeCredit s h write) h write

/-- A write that arrives poisoned is logged by the CXL RAS capability as poison received (R214; the bit is CXL's: PRESUMED, log 83). -/
def notePoison (s : State) (h : Nat) (poison : Bool) : State :=
  if poison then modHead s h fun x => { x with rasCor := x.rasCor ||| 0x20 } else s

/-- A host read (R218, R25, R34, R232). -/
def hostRead (s0 : State) (h tag hpa : Nat) (meta0 : Bool) (ecc : EccCheck) : State :=
  if !mayRead (getHead s0 h) then s0
  else
    let s := memArrives s0 h
    let dest : ReqFor := .host h tag meta0
    if s.flt.safe then answerSafe (passThrough s h false) { reqInit with dest := dest }
    else match route s h hpa false ecc with
      | (.lost i, s1) => answerSafe (event (passThrough s1 h false) (16 + h) i 1 0 0) { reqInit with dest := dest }
      | (.to i dpa, s1) =>
        let e := regionWord s1 i
        let a := lineOf e dpa
        ingress (takeCredit s1 h false) a.1
          { reqInit with port := h, cls := 1, line := a.2, dest := dest, dpaLine := dpa / 64, region := i, entry := e }

/-- A host write (R218, R25, R34, R93, R267). -/
def hostWrite (s0 : State) (h tag hpa : Nat) (data : Line) (mask : BitVec 64) (poison : Bool) (md : Option (BitVec 2))
    (ecc : EccCheck) : State :=
  if !mayWrite (getHead s0 h) then s0
  else
    let s := notePoison (memArrives s0 h) h poison
    if s.flt.safe then answerWrite (passThrough s h true) h tag
    else match route s h hpa true ecc with
      | (.lost i, s1) => answerWrite (event (passThrough s1 h true) (16 + h) i 1 0 0) h tag
      | (.to i dpa, s1) =>
        let e := regionWord s1 i
        let a := lineOf e dpa
        ingress (takeCredit s1 h true) a.1 { reqInit with
          port := h, cls := 1, line := a.2, kind := if mask = BitVec.allOnes 64 then .write else .partialWrite, data := data,
          mask := mask, poison := poison, md := md, dest := .host h tag false, dpaLine := dpa / 64, region := i, entry := e }

/-- MEM_RD: MemRd and MemRdData read one line (R218). -/
def execMemRd (h tag hpa : Nat) (meta0 : Bool) (ecc : EccCheck) (s : State) : Answer :=
  onElement (okHead h) (.next (hostRead s h tag hpa meta0 ecc))

/-- MEM_RD_FWD is treated as MemRd (R218). -/
def execMemRdFwd (h tag hpa : Nat) (meta0 : Bool) (ecc : EccCheck) (s : State) : Answer :=
  onElement (okHead h) (.next (hostRead s h tag hpa meta0 ecc))

/-- MEM_SPEC_RD is a hint that the head drops; it is a CXL.mem request for hints and wakes (R213, R218, R398). -/
def execMemSpecRd (h _hpa : Nat) (s : State) : Answer :=
  onElement (okHead h) (.next (if mayRead (getHead s h) then passThrough (memArrives s h) h false else s))

/-- MEM_INV leaves the line unchanged and is answered NDR Cmp (R218). -/
def execMemInv (h tag _hpa : Nat) (s : State) : Answer :=
  onElement (okHead h) (.next (if mayRead (getHead s h) then answerWrite (passThrough (memArrives s h) h false) h tag else s))

/-- MEM_WR: a full-line write (R218). -/
def execMemWr (h tag hpa : Nat) (data : Line) (poison : Bool) (md : Option (BitVec 2)) (ecc : EccCheck) (s : State) : Answer :=
  onElement (okHead h) (.next (hostWrite s h tag hpa data (BitVec.allOnes 64) poison md ecc))

/-- MEM_WR_FWD is treated as MemWr (R218). -/
def execMemWrFwd (h tag hpa : Nat) (data : Line) (poison : Bool) (md : Option (BitVec 2)) (ecc : EccCheck) (s : State) : Answer :=
  onElement (okHead h) (.next (hostWrite s h tag hpa data (BitVec.allOnes 64) poison md ecc))

/-- MEM_WR_PTL: a partial write, to be merged under R98 (R218). -/
def execMemWrPtl (h tag hpa : Nat) (data : Line) (mask : BitVec 64) (poison : Bool) (md : Option (BitVec 2)) (ecc : EccCheck)
    (s : State) : Answer :=
  onElement (okHead h) (.next (hostWrite s h tag hpa data mask poison md ecc))

/-! Admission. -/

/-- A host's completions have room (R223). -/
def destFree (s : State) (d : ReqFor) : Bool :=
  match d with
  | .host h _ _ => !responsesFull s h
  | _ => true

/-- Serial order of pond entries: s is at or below a (R273). -/
def atOrBelow (a s : Nat) : Bool := decide ((a + 2 ^ 24 - s % 2 ^ 24) % 2 ^ 24 < 2 ^ 23)

/-- A pond entry is accepted only next in sequence (R273). -/
def applyTurn (s : State) (r : Req) : Bool :=
  match r.dest with
  | .apply 1 tag _ => tag == (s.leat.applied + 1) % 2 ^ 24
  | _ => true

/-- A line of a push is accepted; the last one acknowledges the message (R286). -/
def ackPush (s : State) (f tag k : Nat) (stored : Bool) : State :=
  match s.leat.pushIn.find? fun e => e.1 == tag with
  | none => s
  | some (_, n, ok, _) =>
    let rest := s.leat.pushIn.filter fun e => e.1 != tag
    if n ≤ 1 then returnSlots (sendAck (modLeat s fun l => { l with pushIn := rest }) f 3 tag (ok && stored)) k 5
    else returnSlots (modLeat s fun l => { l with pushIn := rest ++ [(tag, n - 1, ok && stored, k)] }) k 4

/-- A pond entry of the partner waits to be applied. -/
def applyWaits (s : State) : Bool :=
  (upFrom 0 32).any fun f => (getFlume s f).waiting.any fun r => match r.dest with
    | .apply 1 _ _ => true
    | _ => false

/-- Waiting pond entries at or below the last applied are discarded and acknowledged (R273). -/
def dropApplied (s : State) : State :=
  forAll s (upFrom 0 32) fun s f =>
    let old (r : Req) : Bool := match r.dest with
      | .apply 1 tag _ => atOrBelow s.leat.applied tag
      | _ => false
    ((getFlume s f).waiting.filter old).foldl (fun s r => match r.dest with
      | .apply _ tag k => returnSlots (sendAck s f 1 tag true) k (if r.poison then 1 else 5)
      | _ => s) (modFlume s f fun x => { x with waiting := x.waiting.filter fun r => !old r })

/-- A mirror apply is acknowledged on acceptance and its slots go back on the port it came on; a pond entry advances the last applied,
and page acknowledgements that waited for it go out (R259, R269, R272, R273, R275). -/
def ackApply (s : State) (f : Nat) (d : ReqFor) (poison stored : Bool) : State :=
  match d with
  | .apply 3 tag k => ackPush s f tag k stored
  | .apply cls tag k =>
    let s1 := returnSlots (sendAck s f cls tag stored) k (if poison then 1 else 5)
    if cls = 1 then
      let s2 := dropApplied (modLeat s1 fun l => { l with applied := tag })
      if applyWaits s2 then s2
      else s2.leat.ackHold.foldl (fun s t => sendAck s 32 2 t true) (modLeat s2 fun l => { l with ackHold := [] })
    else s1
  | _ => s

/-- Admitting a read (R18, R88, R274, R280, R281): with its entry of the queue it waits for a command, or for the partner's copy. -/
def admitRead (s0 : State) (f : Nat) (r0 : Req) : State :=
  let r := stamped s0 f r0
  let s := bumpId s0 f
  if r.secondary && isDirty s r.dpaLine then
    if regionMatched s r.region then requestCopy s f r false 0 0 else serveLost (mirrorNotice s) f r
  else if (placeOf s f r.line).isNone then serveAway s f r
  else if (getFlume s f).refetch.contains r.line && usableCopy s r.dpaLine && (pondEntry s r.dpaLine).isNone then requestCopy s f r false 0 0
  else putQueue s f r

/-- Admitting a write: it voids write-backs (R102), is answered at once where no mirror mode holds it (R218), and stores nothing in
an offline bay (R97, R281), nor for a mirror apply outside a matched region (R266). A write-back is not mirrored (R101). -/
def admitWrite (s0 : State) (f : Nat) (r0 : Req) : State :=
  let host := match r0.dest with
    | .apply .. => false
    | _ => true
  let kept := host || decide (r0.region < 64)
  let s := if kept && !isWriteBack r0 then voidWriteBacks s0 f r0.line else s0
  let r := stamped s f { r0 with mirror := host && !isWriteBack r0 && r0.primary, inject := injectOn s f r0 }
  let s1 := bumpId (if r.mirror then s else finishWrite s r.dest) f
  let stored := (placeOf s1 f r.line).isSome && kept
  let s2 :=
    if stored || (r.mirror && r.kind == .write) then putQueue s1 f r
    else if r.mirror then serveAway s1 f r
    else s1
  mirrorStep (ackApply s2 f r.dest r.poison stored) f

/-- An accepted request of a head leaves the ingress buffer (R221, R222). -/
def leaveIngress (s : State) (r : Req) : State := if r.port < 4 then freeCredit s r.port (isWrite r) else s

/-- A waiting request may be the next of its port: on the fabric's port the mill whose turn it is comes first (R119). -/
def acceptTurn (s : State) (f port : Nat) (r : Req) : Bool :=
  let may (q : Req) : Bool := q.port == port && applyTurn s q
  may r && (port != 6 || (getFlume s f).waiting.all fun q => !may q || decide (grantTurn s f r.mill ≤ grantTurn s f q.mill))

/-- REQUEST_ACCEPT: the oldest waiting request of a port enters the queue when the port has a free entry (R45, R119, R222). -/
def execRequestAccept (f port : Nat) (s : State) : Answer :=
  onElement (okF f && decide (port < 9)) <|
    match takeFirst (acceptTurn s f port) (getFlume s f).waiting with
    | none => .next s
    | some (r, rest) =>
      if flumeOpen s f && portFree (getFlume s f) port && destFree s r.dest then
        let s1 := grantTo (leaveIngress (modFlume s f fun x => { x with waiting := rest }) r) f (if port = 6 then r.mill else f)
        .next (match r.kind with
          | .read => admitRead s1 f r
          | _ => admitWrite s1 f r)
      else .next s

end Sys2Proof.Machine
end

