-- ==== Sys2Proof/Machine/Flume.lean ====
section
/-! DEFINITION. The flume controller: choosing and issuing commands (R46 to R54), ageing (R48, R49), weirs (R57), holding (R59),
command parity (R62 to R65), and read data (R95 to R101). -/

namespace Sys2Proof.Machine

/-! DRAM timing (R52 to R55). -/

/-- The clock of the tier bus in MHz at an operating point (R52). -/
def busMhz (opp : Nat) : Nat := natAt [1200, 960, 800, 600] opp

/-- Cycles of a parameter given in tenths of a nanosecond, widened by a quarter with the trim default (R52, R55). -/
def cycles (s : State) (f tenths : Nat) : Nat :=
  let m := busMhz (getFlume s f).opp
  if trimDefault s then (tenths * 125 * m + 999999) / 1000000 else (tenths * m + 9999) / 10000

/-- The clock mode whose tCL is in force: Tuned only while no bay is in fallback (R293). -/
def tunedInForce (s : State) (f : Nat) : Bool :=
  (getFlume s f).tunedMode && (List.range 68).all fun i => (getBay s (f * 68 + i)).tuned && !(getBay s (f * 68 + i)).fallback

def tCL (s : State) (f : Nat) : Nat := cycles s f (if tunedInForce s f then 160 else 200)
def tCWL (s : State) (f : Nat) : Nat := cycles s f 120

/-! Queue order (R46, R47). -/

/-- No older request of the queue to the same line stands before this one, and no read of the line is outstanding before a write (R47). -/
def firstOnLine (x : Flume) (r : Req) : Bool :=
  !(x.queue.any fun q => q.line == r.line && decide (q.id < r.id) && (isWrite q || isWrite r)) &&
    !(isWrite r && x.inflight.any fun q => q.line == r.line) &&
    !(!isWrite r && x.inflight.any fun q => q.line == r.line && isWrite q)

/-- The next command of a request at its place. -/
inductive Next where
  | act
  | pre
  | col
  deriving DecidableEq, Repr

def nextCmd (k : Bank) (row : Nat) : Next :=
  match k.openRow with
  | none => .act
  | some r => if r = row then .col else .pre

/-- Bank group of a bank number. -/
def groupOf (b : Nat) : Nat := b / 4

/-- Legality of an activate (R52): tRC and tRP of the bank, tRRD within the bay, and tFAW. -/
def actLegal (s : State) (f sub b : Nat) : Bool :=
  let u := getSub s sub
  let c := u.cycle
  let mine := u.acts.filter fun a => a.2 / 16 == b / 16
  decide ((getBank s b).actAt ≤ c) &&
    (match mine.head? with
     | some a => decide (a.1 + cycles s f 25 ≤ c)
     | none => true) &&
    (match mine.find? fun a => groupOf a.2 == groupOf b with
     | some a => decide (a.1 + cycles s f 50 ≤ c)
     | none => true) &&
    (match mine[3]? with
     | some a => decide (a.1 + cycles s f 150 ≤ c)
     | none => true)

/-- Legality of a column command (R52, R53). -/
def colLegal (s : State) (f sub b : Nat) (write : Bool) : Bool :=
  let u := getSub s sub
  let c := u.cycle
  decide ((getBank s b).colAt ≤ c) && (write || decide ((getBank s b).rdAt ≤ c)) &&
    match u.lastCol with
    | none => true
    | some (t, k, w) =>
      decide (t + (if groupOf k = groupOf b then 2 else 1) ≤ c) &&
        (if w && !write then decide (t + tCWL s f + 1 + cycles s f 25 ≤ c)
         else if !w && write then decide (t + (tCL s f - tCWL s f + 3) ≤ c) else true)

/-- A request whose next command is legal, as R46 sees it: rank, request, place and command; `cap` names the request that a bank whose row
has had its hits is to serve next (R50). -/
structure Cand where
  rank : List Nat
  req : Req
  place : Option Place
  cmd : Next
  cap : Option Nat
  deriving DecidableEq, Repr

/-- Lexicographic order of ranks. -/
def rankBelow : List Nat → List Nat → Bool
  | [], _ => false
  | _ :: _, [] => false
  | a :: s, b :: t => decide (a < b) || (a == b && rankBelow s t)

/-- Latency target of a port in ns (R49, FLM_PORT_TGTp: clamped to 15 to 5,000). -/
def portTarget (s : State) (f p : Nat) : Nat := 10 * max 15 (min 5000 (regField s (oFlm f (0x20 + 4 * p)) 12 0))

/-- Urgency by age as a share of the target: 0 for none, then 1 to 4 for urgency 0 to 3 (R49). -/
def urgencyAt (age target : Nat) : Nat :=
  if target ≤ age then 4 else if 90 * target ≤ 100 * age then 3 else if 75 * target ≤ 100 * age then 2
  else if 50 * target ≤ 100 * age then 1 else 0

/-- The urgency a decision goes by: what the request has reached, and no more than the target now in force gives its age (R49, R51). -/
def urgencyNow (s : State) (f : Nat) (r : Req) : Nat := min r.urgency (urgencyAt (s.now - r.since) (portTarget s f r.port))

/-- The rank of R46 among requests: promoted oldest first, then class, hit, urgency, direction, age. -/
def rankOf (s : State) (f : Nat) (u : SubChan) (r : Req) (c : Next) : List Nat :=
  if r.promoted then [0, r.id]
  else [1, r.cls, if c = .col then 0 else 1, 4 - urgencyNow s f r, if (r.kind == .write) == u.lastWrite then 0 else 1, r.id]

/-- The duty limit keeps commands of classes 3 and 4 to every second cycle at most (R412). -/
def dutyBars (s : State) (f : Nat) (u : SubChan) (r : Req) : Bool :=
  (getFlume s f).duty && decide (3 ≤ r.cls) && decide (u.cycle < u.dutyAt)

/-- A request may be served: no older request of its line stands before it, a write of a mirrored region has been mirrored, and the duty
limit leaves it its turn (R47, R263, R412). -/
def mayServe (s : State) (f : Nat) (u : SubChan) (r : Req) : Bool :=
  firstOnLine (getFlume s f) r && !(r.mirror && r.kind == .write) && !dutyBars s f u r

/-- The oldest of a list of requests with their places. -/
def oldestOf (l : List (Req × Place)) : Option (Req × Place) :=
  l.foldl (fun a x => match a with
    | none => some x
    | some y => if x.1.id < y.1.id then some x else some y) none

/-- hit_cap (R50): the open row of a hit has been hit that often; the oldest request of the hit's class or a lower-numbered one that waits
for another row of the bank. The spec does not say whether the access that opened the row counts as one of the hits, nor whether a
promoted hit passes the cap: the model counts every column command after the activate, and caps promoted hits too (DESIGN CHOICE,
log 84). -/
def cappedBy (s : State) (f : Nat) (u : SubChan) (r : Req) (p : Place) : Option (Req × Place) :=
  if (getBank s p.bank).hits < max 1 (regField s (oFlm f 0x54) 15 8) then none
  else oldestOf ((getFlume s f).queue.filterMap fun q =>
    if q.cls ≤ r.cls ∧ mayServe s f u q then
      (placeOf s f q.line).bind fun q' => if q'.bank = p.bank ∧ q'.row ≠ p.row then some (q, q') else none
    else none)

/-- Another request than the one the bank must serve next after its hits (R50). -/
def capBars (s : State) (f : Nat) (k : Bank) (r : Req) : Bool :=
  match k.capNext with
  | some j => j != r.id && (getFlume s f).queue.any fun q => q.id == j
  | none => false

/-- The candidate a request makes on a sub-channel, if its next command is legal (R46). A request whose bay is offline, or whose row is in
a holding buffer (R67), needs no command. -/
def candOf (s : State) (f sc : Nat) (r : Req) : Option Cand :=
  let sub := subKey f sc
  let u := getSub s sub
  if (coordOf s f r.line).sc ≠ sc ∨ ¬ mayServe s f u r then none
  else match placeOf s f r.line with
    | none => some ⟨rankOf s f u r .col, r, none, .col, none⟩
    | some p =>
      let k := getBank s p.bank
      if k.scrubbing then none
      else if (heldAt s p).isSome then some ⟨rankOf s f u r .col, r, some p, .col, none⟩
      else if 0 < k.refDue ∨ capBars s f k r then none
      else match nextCmd k p.row with
        | .act => if actLegal s f sub p.bank then some ⟨rankOf s f u r .act, r, some p, .act, none⟩ else none
        | .pre => if k.preAt ≤ u.cycle then some ⟨rankOf s f u r .pre, r, some p, .pre, none⟩ else none
        | .col => match cappedBy s f u r p with
          | some (q, p') => if k.preAt ≤ u.cycle then some ⟨rankOf s f u r .col, q, some p', .pre, some q.id⟩ else none
          | none =>
            if colLegal s f sub p.bank (r.kind == .write) then some ⟨rankOf s f u r .col, r, some p, .col, none⟩ else none

/-- The first candidate by R46. -/
def bestCand (cs : List Cand) : Option Cand :=
  cs.foldl (fun a c => match a with
    | none => some c
    | some b => if rankBelow c.rank b.rank then some c else some b) none

/-- The candidates of a sub-channel. -/
def candsOf (s : State) (f sc : Nat) : List Cand := (getFlume s f).queue.filterMap (candOf s f sc)

/-! The command retry buffer (R61, R62). -/

/-- The cycle of a sub-channel is at least `c`. -/
def waitUntil (s : State) (sub c : Nat) : State := modSub s sub fun u => { u with cycle := max u.cycle c }

/-- A command takes effect as its window closes: a write stores its line. -/
def takeEffect (s : State) (e : Issued) : State :=
  match e.store with
  | some (k, v) => setCells s k v.toNat
  | none => s

/-- Windows that are 4 cycles old close, in the order of issue, and their commands leave the buffer (R61, R62). -/
def closeWindows (s : State) (sub : Nat) : State :=
  let u := getSub s sub
  let shut := fun e : Issued => decide (e.cycle + 4 ≤ u.cycle)
  (u.retry.filter shut).foldl takeEffect (modSub s sub fun u => { u with retry := u.retry.filter fun e => !shut e })

/-- Every open window closes: the sub-channel issues nothing meanwhile. -/
def drainWindows (s : State) (sub : Nat) : State :=
  closeWindows ((getSub s sub).retry.foldl (fun s e => waitUntil s sub (e.cycle + 4)) s) sub

/-- Every issued command enters the retry buffer with its running count (R61, R62). -/
def noteCmd (s : State) (sub : Nat) (c : DramCmd) : State :=
  modSub s sub fun u => { u with count := (u.count + 1) % 32, retry := u.retry ++ [⟨u.count, u.cycle, 0, c⟩] }

/-! Timing (R52, R53): what a command that issues in the present cycle does to the times of later ones. -/

/-- An activate. -/
def timeAct (s : State) (f sub b row : Nat) : State :=
  let c := (getSub s sub).cycle
  let s1 := modBank s b fun k =>
    { k with openRow := some row, hits := 0, colAt := c + cycles s f 140, preAt := c + cycles s f 280,
             actAt := c + cycles s f 280 + cycles s f 140, usedAt := c }
  modSub s1 sub fun u => { u with acts := ((c, b) :: u.acts).take 64 }

/-- A precharge. -/
def timePre (s : State) (f sub b : Nat) : State :=
  let c := (getSub s sub).cycle
  modBank s b fun k => { k with openRow := none, hits := 0, actAt := max k.actAt (c + cycles s f 140) }

/-- A closing of the row after every access, where idle_close is 0 (R50). -/
def autoClose (s : State) (f b : Nat) : State :=
  if regField s (oFlm f 0x54) 7 0 = 0 then
    modBank s b fun k => { k with openRow := none, hits := 0, actAt := max k.actAt (k.preAt + cycles s f 140) }
  else s

/-- A read. -/
def timeRead (s : State) (f sub b : Nat) : State :=
  let c := (getSub s sub).cycle
  let s1 := modBank s b fun k => { k with usedAt := c, preAt := max k.preAt (c + cycles s f 50) }
  autoClose (modSub s1 sub fun u => { u with lastCol := some (c, b, false), lastWrite := false }) f b

/-- A write: reads of its bank group wait tWTR_L. -/
def timeWrite (s : State) (f sub b : Nat) : State :=
  let c := (getSub s sub).cycle
  let fin := c + tCWL s f + 1
  let s1 := modBank s b fun k => { k with usedAt := c, preAt := max k.preAt (fin + cycles s f 150) }
  let s2 := forAll s1 (upFrom (b / 4 * 4) 4) fun s k => modBank s k fun x => { x with rdAt := max x.rdAt (fin + cycles s f 75) }
  autoClose (modSub s2 sub fun u => { u with lastCol := some (c, b, true), lastWrite := true }) f b

/-- A refresh: tRFCpb. An element of a slice: 100 ns (R66). -/
def timeBusy (s : State) (f sub b tenths : Nat) : State :=
  let c := (getSub s sub).cycle
  modBank s b fun k => { k with actAt := max k.actAt (c + cycles s f tenths) }

/-! Issuing. -/

/-- The position of every tier that lies over flume `f` (R405). -/
def positionOf (f : Nat) : Nat := 4 * (f / 16) + f % 8 / 2

/-- Command counts of a tier position for the thermal model (R408): position 8 t + s, four kinds. -/
def noteThermal (s : State) (b kind : Nat) : State :=
  let pos := 8 * bkTier b + positionOf (bankFlume b)
  { s with thm := { s.thm with cmds := tabMod 0 s.thm.cmds (4 * pos + kind) (· + 1) } }

/-- ACT of a row (R52). -/
def issueAct (s : State) (f sub b row : Nat) : State :=
  noteThermal (noteCmd (timeAct s f sub b row) sub (.act b row)) b 0

/-- PRE of a bank (R52). -/
def issuePre (s : State) (f sub b : Nat) : State := noteCmd (timePre s f sub b) sub (.pre b)

/-- A column command counts as one hit to the open row, and ends what hit_cap asked of the bank (R50). -/
def countHit (s : State) (b : Nat) : State := modBank s b fun k => { k with hits := k.hits + 1, capNext := none }

/-- READ of an open row for a request (R52, R53). -/
def issueRead (s : State) (f sub b rid : Nat) : State :=
  noteThermal (noteCmd (timeRead (countHit s b) f sub b) sub (.rd b rid)) b 1

/-- WRITE of an open row (R52, R53): the line is stored when its parity window has closed (R61). -/
def issueWrite (s : State) (f sub b : Nat) (store : Option (Nat × Stored)) : State :=
  noteThermal (noteCmd (timeWrite (countHit s b) f sub b) sub (.wr b store)) b 2

/-- A refresh of a bank has issued: 8 rows, and one owed refresh less if it was one (R72, R78). -/
def refreshed (s : State) (b : Nat) (owed : Bool) : State :=
  modBank s b fun k =>
    { k with rowCtr := (k.rowCtr + 1) % 1028, refDue := k.refDue - 1, owed := k.owed - b2n owed, owedDue := k.owedDue - b2n owed }

/-- A refresh that issued is discarded: it has not been made (R63). -/
def unrefreshed (s : State) (b : Nat) (owed : Bool) : State :=
  modBank s b fun k =>
    { k with rowCtr := (k.rowCtr + 1027) % 1028, refDue := k.refDue + 1, owed := k.owed + b2n owed, owedDue := k.owedDue + b2n owed }

/-- REFpb of a closed bank (R72, R78); an owed refresh goes before one that fell due. -/
def issueRef (s : State) (f sub b : Nat) : State :=
  let owed := decide (0 < (getBank s b).owedDue)
  noteThermal (noteCmd (refreshed (timeBusy s f sub b 1600) b owed) sub (.ref b owed)) b 3

/-- The next element of the slice that holds a row of a bank (R66, R340). -/
def issueElement (s : State) (f sub b : Nat) : State :=
  let up (h : HeldRow) : HeldRow := { h with elems := h.elems + 1 }
  let s1 := modFlume s f fun x => { x with heldRows := mapWhere (fun h => h.slice && h.bank == b) up x.heldRows }
  noteCmd (timeBusy s1 f sub b 1000) sub (.element b)

/-- A training command of the pass under way (R297). -/
def issueTrain (s : State) (f sc : Nat) (p : Pass) : State :=
  let s1 := modFlume s f fun x => { x with passes := tabSet none x.passes sc (some { p with cmds := p.cmds + 1 }) }
  noteCmd s1 (subKey f sc) (.train p.tier)

/-- A bank takes a command of class 0 work on a sub-channel: its row can close, or it is closed and free (R46). -/
def zeroLegal (s : State) (sub b : Nat) : Bool :=
  let c := (getSub s sub).cycle
  let k := getBank s b
  bankSub b == sub && (if k.openRow.isSome then decide (k.preAt ≤ c) else decide (k.actAt ≤ c))

/-- A bank with a refresh due whose command is legal: the precharge it needs, or the refresh (R46). -/
def zeroRefresh (s : State) (sub : Nat) : Option Nat :=
  (s.banks.find? fun e => decide (0 < e.2.refDue) && zeroLegal s sub e.1).map Prod.fst

/-- A bank with an element of a slice to run whose command is legal (R44, R66). -/
def zeroElement (s : State) (f sub : Nat) : Option Nat :=
  ((getFlume s f).heldRows.find? fun h => h.slice && decide (h.elems < 8) && zeroLegal s sub h.bank).map (·.bank)

/-- The command of a request that needs none of the tiers: its row is in a holding buffer (R67). -/
def serveHeld (s : State) (f : Nat) (r : Req) : State :=
  if r.kind = .write then
    dropReq (disarm (storeLine s f r.line r.data.toNat r.md r.dirty r.poison r.inject) f r) f r.id
  else modFlume s f fun y => { y with queue := y.queue.filter fun q => q.id != r.id, inflight := y.inflight ++ [r] }

/-- The WRITE of a request's line (R90 to R93, R115). -/
def writeOut (s : State) (f sub : Nat) (r : Req) (p : Place) : State :=
  let v := invert (encodeLine r.data.toNat (writeMd s p r.md r.dirty r.poison)) r.inject
  dropReq (disarm (issueWrite (noRefetch s f r.line) f sub p.bank (some (lineKey p, BitVec.ofNat 640 v))) f r) f r.id

/-- The chosen request's command issues; a read goes out, a write is on its way to its line (R46, R115). -/
def issueCand (s0 : State) (f sc : Nat) (x : Cand) : State :=
  let sub := subKey f sc
  let s := if 3 ≤ x.req.cls then modSub s0 sub fun u => { u with dutyAt := u.cycle + 2 } else s0
  match x.place with
  | none => serveAway s f x.req
  | some p =>
    if (heldAt s p).isSome then serveHeld s f x.req
    else match x.cmd with
    | .act => issueAct s f sub p.bank p.row
    | .pre => modBank (issuePre s f sub p.bank) p.bank fun k => { k with capNext := x.cap.or k.capNext }
    | .col =>
      if x.req.kind = .write then writeOut s f sub x.req p
      else
        modFlume (issueRead s f sub p.bank x.req.id) f fun y =>
          { y with queue := y.queue.filter fun r => r.id != x.req.id, inflight := y.inflight ++ [x.req] }

/-- The sub-channel issues commands: in service, not stopped, no logic slice, clock not stretched, flume active, no safe state, and room in
the retry buffer (R62, R65, R68, R382, R402, R390). -/
def subIssues (s : State) (f sc : Nat) : Bool :=
  let u := getSub s (subKey f sc)
  !u.stopped && !u.logicSlice && decide (u.retry.length < 32) && (getFlume s f).stretched.isNone && !s.flt.safe && !s.boot.blocked &&
    decide ((getFlume s f).pstate ≤ 1)

/-- A full pass stops its sub-channel (R297). -/
def fullPass (s : State) (f sc : Nat) : Bool :=
  match tabGet none (getFlume s f).passes sc with
  | some p => p.kind == 0
  | none => false

/-- The retune or post-change pass whose commands issue while the sub-channel is in service (R297). -/
def livePass (s : State) (f sc : Nat) : Option Pass :=
  (tabGet none (getFlume s f).passes sc).filter fun p => p.kind == 1 || p.kind == 3

/-- A training command goes before a request's: the pass has waited 1 ms, and the request is not promoted (R46, R297). -/
def trainFirst (s : State) (p : Pass) (x : Option Cand) : Bool :=
  match x with
  | none => true
  | some c => decide (p.startedAt + 1000000 ≤ s.now) && !c.req.promoted

/-- The command of a candidate, where there is one. -/
def issueAny (s : State) (f sc : Nat) (x : Option Cand) : State :=
  match x with
  | some c => issueCand s f sc c
  | none => s

/-- The command of a request or of a training pass, the first by R46. -/
def issueBest (s : State) (f sc : Nat) : State :=
  let x := bestCand (candsOf s f sc)
  match livePass s f sc with
  | some p => if trainFirst s p x then issueTrain s f sc p else issueAny s f sc x
  | none => issueAny s f sc x

/-- The first of a sub-channel's legal commands issues (R46); while the flume is held, refresh alone (R59). -/
def issueNext (s : State) (f sc : Nat) : State :=
  let sub := subKey f sc
  match zeroRefresh s sub with
  | some b => if (getBank s b).openRow.isSome then issuePre s f sub b else issueRef s f sub b
  | none =>
    if (getFlume s f).held then s
    else match zeroElement s f sub with
      | some b => if (getBank s b).openRow.isSome then issuePre s f sub b else issueElement s f sub b
      | none => issueBest s f sc

/-- `gap` cycles pass, at least one; windows close (R61). -/
def passCycles (s : State) (sub gap : Nat) : State :=
  closeWindows (modSub s sub fun u => { u with cycle := u.cycle + max 1 gap }) sub

/-- SCHEDULE_COMMAND: after `gap` cycles, at least one, the sub-channel issues the first of its legal commands (R46). -/
def execScheduleCommand (f sc gap : Nat) (s : State) : Answer :=
  onElement (okSub f sc) <|
    let s1 := passCycles s (subKey f sc) gap
    .next (if !subIssues s1 f sc || fullPass s1 f sc then s1 else issueNext s1 f sc)

/-! Slices, ageing, weirs. -/

/-- A logic slice is abandoned: the engine issues again, and no slice starts for 1 ms (R68). -/
def abandonSlice (s : State) (sub : Nat) : State :=
  if (getSub s sub).logicSlice then modSub s sub fun u => { u with logicSlice := false, sliceAfter := s.now + 1000000 } else s

/-- Age limit of a class in ns (R48, FLM_AGE_LIMITc: a value below 10 acts as 10). -/
def ageLimit (s : State) (f cls : Nat) : Nat := 10 * max 10 (regField s (oFlm f (0x10 + 4 * (cls - 1))) 15 0)

/-- The requests of a line that are promoted with one of them: the older ones it must follow, and those that they must follow (R47). -/
def promotes (x : Flume) (r q : Req) : Bool :=
  q.id == r.id || (q.line == r.line && decide (q.id < r.id) &&
    (isWrite r || (x.queue ++ x.inflight).any fun w => w.line == r.line && isWrite w && decide (q.id ≤ w.id) && decide (w.id < r.id)))

/-- AGE_PROMOTION: a request past its class age limit is promoted, with the older requests of its line that it must follow
(R47, R48), and ends a logic slice (R68). -/
def execAgePromotion (f rid : Nat) (s : State) : Answer :=
  onElement (okF f) <|
    match (getFlume s f).queue.find? fun r => r.id == rid with
    | none => .next s
    | some r =>
      if s.now - r.since ≤ ageLimit s f r.cls then .next s
      else
        let on (q : Req) : Req := { q with promoted := true }
        let s1 := modFlume s f fun x =>
          { x with queue := mapWhere (promotes x r) on x.queue, inflight := mapWhere (promotes x r) on x.inflight }
        .next (abandonSlice s1 (subKey f (coordOf s f r.line).sc))

/-- URGENCY_RISE: the urgency follows the age by the target now in force (R49, R51); urgency 3 ends a logic slice (R68). -/
def execUrgencyRise (f rid : Nat) (s : State) : Answer :=
  onElement (okF f) <|
    match (getFlume s f).queue.find? fun r => r.id == rid with
    | none => .next s
    | some r =>
      let u := urgencyAt (s.now - r.since) (portTarget s f r.port)
      let on (q : Req) : Req := { q with urgency := u }
      let s1 := modFlume s f fun x => { x with queue := mapWhere (fun q => q.id == rid) on x.queue }
      .next (if u = 4 then abandonSlice s1 (subKey f (coordOf s f r.line).sc) else s1)

/-- A waiting request hits a bank's open row. -/
def hitWaits (s : State) (f b row : Nat) : Bool :=
  (getFlume s f).queue.any fun r => match placeOf s f r.line with
    | some p => p.bank == b && p.row == row
    | none => false

/-- ROW_IDLE_CLOSE: an open row idle for idle_close cycles, with no hit waiting, closes in the next cycle (R50); on a held flume no
command but refresh issues (R59). -/
def execRowIdleClose (f sc tier bank : Nat) (s : State) : Answer :=
  onElement (okBank f sc tier bank) <|
    let b := bankKey f sc tier bank
    let s1 := passCycles s (subKey f sc) 1
    let k := getBank s1 b
    let c := (getSub s1 (subKey f sc)).cycle
    match k.openRow with
    | none => .next s
    | some row =>
      if regField s (oFlm f 0x54) 7 0 ≤ c - k.usedAt ∧ k.preAt ≤ c ∧ ¬ hitWaits s f b row ∧ subIssues s1 f sc ∧ ¬ fullPass s1 f sc ∧
          ¬ (getFlume s f).held then
        .next (issuePre s1 f (subKey f sc) b)
      else .next s

/-- SUSTAINED_OVERLOAD: a host port above its weir for 1 ms raises one notice for the episode (R57). -/
def execSustainedOverload (f h : Nat) (s : State) : Answer :=
  onElement (okF f && okHead h) <|
    let x := getFlume s f
    match tabGet none x.aboveSince h with
    | some t =>
      if 1000000 ≤ s.now - t ∧ ¬ x.overloadSaid.contains h then
        let s1 := modFlume s f fun x => { x with overloadSaid := insertNat h x.overloadSaid }
        let s2 := scEvent s1 (oFlm f 0x58) fun v => v ||| 2 ^ h
        .next (event s2 (32 + f) 7 1 0 0)
      else .next s
    | none => .next s

/-! Holding (R59). -/

/-- The value a masked write leaves (R439), for bits of `defined`. -/
def maskedValue (old v defined : Nat) : Nat :=
  let m := (v / 65536) &&& (defined % 65536)
  (old &&& (0xFFFFFFFF ^^^ m)) ||| (v % 65536 &&& m)

/-- hold_req as written: a rising hold stops admission and ends logic slices, a release ends the hold (R59). -/
def followHold (s : State) (f : Nat) : State :=
  let want := bitOf (regGet s (oFlm f 0)).toNat 0
  let x := getFlume s f
  if want then
    if x.holdReq then s
    else
      let s1 := modFlume s f fun x => { x with holdReq := true, holding := true, held := false }
      forAll s1 [0, 1, 2, 3] fun s sc => abandonSlice s (subKey f sc)
  else modFlume s f fun x => { x with holdReq := false, holding := false, held := false }

/-- A write of FLM_CTL is taken (R59, R439). -/
def takeFlmCtl (s : State) (f v : Nat) : State :=
  followHold (regSet s (oFlm f 0) (BitVec.ofNat 32 (maskedValue (regGet s (oFlm f 0)).toNat v 7))) f

/-- A write from a path reaches the device: a head's link is up and its function in D0; on the sideband, and in SCRAPPED, nothing
is written before start-up step 9 (R216, R231, R359, R364). -/
def pathOpen (s : State) (path : Nat) : Bool :=
  s.boot.ready && (path == 4 || ((getHead s path).linkUp && !(getHead s path).d3hot))

/-- The domain that holds a posted-write port's block is in Run or Trim and takes a write at once (R386, R390, R391, R436). -/
def portAwake (s : State) (port : Nat) : Bool :=
  let up := fun f => decide ((getFlume s f).pstate ≤ 1) && (getFlume s f).entering.isNone && !(getFlume s f).waking
  if port < 32 then up port
  else if port < 64 then up (port - 32)
  else if port < 96 then up (port - 64)
  else if 200 ≤ port then decide (s.pwr.dstate ≤ 1) && s.pwr.entering.isNone
  else true

/-- The wake event of a write to a block below Run (R389, R398). -/
def wakePort (s : State) (port : Nat) : State :=
  if port < 96 then wakeFlume s (port % 32) else wakeDevice s

/-- A register write that its block takes in the step in which it arrives. While the block is busy it is dropped and logged, kind 4;
to a block below Run it is posted and wakes the block (R389, R436). -/
def writeNow (s : State) (path off port v : Nat) (take : State → State) : State :=
  if !pathOpen s path then s
  else if busy s port then accessFault s path 4 off
  else if portAwake s port then take s
  else wakePort { s with acc := { s.acc with
    posted := tabSet none s.acc.posted port (some ⟨path, off, [BitVec.ofNat 32 v]⟩) } } port

/-- HOLD_FLUME (R59). -/
def execHoldFlume (path f : Nat) (v : Word) (s : State) : Answer :=
  onElement (okPath path && okF f) (.next (writeNow s path (oFlm f 0) f v.toNat fun s => takeFlmCtl s f v.toNat))

/-- Every request the flume has accepted has completed, no copy of one of its lines is awaited, no slice runs, and no discarded command
waits to be issued again (R59). -/
def flumeDone (s : State) (f : Nat) : Bool :=
  let x := getFlume s f
  x.queue.isEmpty && x.inflight.isEmpty && x.heldRows.isEmpty && !(s.leat.copies.any fun c => c.flume == f) &&
    (List.range 4).all fun sc => (getSub s (subKey f sc)).held.isEmpty

/-- FLUME_HELD: the drain is complete; the last commands take effect (R59, R61). -/
def execFlumeHeld (f : Nat) (s : State) : Answer :=
  onElement (okF f) <|
    if (getFlume s f).holding && flumeDone s f then
      .next (modFlume (forAll s [0, 1, 2, 3] fun s sc => drainWindows s (subKey f sc)) f fun x =>
        { x with holding := false, held := true })
    else .next s

/-- RELEASE_FLUME (R59). -/
def execReleaseFlume (path f : Nat) (v : Word) (s : State) : Answer :=
  onElement (okPath path && okF f) (.next (writeNow s path (oFlm f 0) f v.toNat fun s => takeFlmCtl s f v.toNat))

/-! Command parity (R62, R65). -/

/-- A pass waits behind those of lower tiers and those of its own tier (R297: ascending tier order). -/
def passInsert (p : Nat × Nat × Bool) : List (Nat × Nat × Bool) → List (Nat × Nat × Bool)
  | [] => [p]
  | q :: t => if q.1 ≤ p.1 then q :: passInsert p t else p :: q :: t

/-- Passes of every bay of a sub-channel wait in ascending tier order (R297): kind and mode. -/
def queuePasses (s : State) (f sc kind : Nat) (tuned : Bool) (tiers : List Nat) : State :=
  modFlume s f fun x =>
    let old := tabGet [] x.passQueue sc
    { x with passQueue := tabSet [] x.passQueue sc (tiers.foldl (fun q t => passInsert (t, kind, tuned) q) old) }

/-- The next waiting pass of a sub-channel starts where none runs (R297). -/
def startPass (s : State) (f sc : Nat) : State :=
  let x := getFlume s f
  match tabGet none x.passes sc, tabGet [] x.passQueue sc with
  | none, (t, k, m) :: rest =>
    modFlume s f fun x =>
      { x with passes := tabSet none x.passes sc (some ⟨t, k, m, s.now, 0⟩), passQueue := tabSet [] x.passQueue sc rest }
  | _, _ => s

/-- What a command does to the times of later ones as it issues again. -/
def timeCmd (s : State) (f sub : Nat) (c : DramCmd) : State :=
  match c with
  | .act b row => timeAct s f sub b row
  | .pre b => timePre s f sub b
  | .rd b _ => timeRead s f sub b
  | .wr b _ => timeWrite s f sub b
  | .ref b _ => timeBusy s f sub b 1600
  | .element b => timeBusy s f sub b 1000
  | .train _ => s

/-- The refreshes among discarded commands have not been made (R63), and among those issued again have. -/
def undoCmd (s : State) (e : Issued) : State :=
  match e.cmd with
  | .ref b owed => unrefreshed s b owed
  | _ => s
def redoCmd (s : State) (c : DramCmd) : State :=
  match c with
  | .ref b owed => refreshed s b owed
  | _ => s

/-- Commands issue again from cycle `base` on, in their order and as far apart as before, so under full timing; their counts follow on
from a reset one (R62). -/
def reissueAll (f sub base first : Nat) : List Issued → State → State
  | [], s => s
  | e :: t, s =>
    let s1 := waitUntil s sub (base + (e.cycle - first))
    let s2 := redoCmd (timeCmd s1 f sub e.cmd) e.cmd
    reissueAll f sub base first t (modSub s2 sub fun u =>
      { u with count := (u.count + 1) % 32, retry := u.retry ++ [{ e with n := u.count, cycle := u.cycle }] })

/-- The replay of discarded commands: the buffer and the count start anew, and the activates that did not happen are forgotten (R62). -/
def reissue (s : State) (f sub base : Nat) (es : List Issued) : State :=
  let first := (es.map (·.cycle)).head?.getD 0
  reissueAll f sub base first es (modSub s sub fun u =>
    { u with count := 0, retry := [], acts := u.acts.filter fun a => decide (a.1 < first) })

/-- A stopped sub-channel goes on, with the replay of what it discarded (R65). -/
def resume (s : State) (f sc : Nat) : State :=
  let sub := subKey f sc
  let u := getSub s sub
  if u.offline then s
  else
    let s1 := modSub s sub fun u => { u with stopped := false, held := [] }
    if u.held.isEmpty then s1 else reissue s1 f sub (u.cycle + 1) u.held

/-- A discarded list with the first command's failing replays counted anew. -/
def countFail (k : Nat) : List Issued → List Issued
  | [] => []
  | e :: t => { e with fails := k } :: t

/-- The third failing replay of a command: the sub-channel stops with what was discarded, escalated and a severe fault; the loop test of
the CA and CAPAR wires follows. A wire found is steered out and the replay goes on, otherwise the sub-channel is retrained (R65). -/
def escalate (s0 : State) (f sc tier n : Nat) (es : List Issued) (loop : LoopRes) : State :=
  let sub := subKey f sc
  let s := es.foldl undoCmd s0
  let s1 := scEvent s (oFlm f 0x5C) fun v => putBits (putBits (putBits v 13 12 sc) 8 4 tier) 0 0 1
  let s2 := event (modSub s1 sub fun u => { u with stopped := true, retry := [], held := countFail 0 es }) (32 + f) 6 2 (sc + 4 * tier) n
  let ws := loop.wires.filter fun w => 320 ≤ w ∧ w ≤ 344
  if ws.isEmpty then startPass (queuePasses s2 f sc 0 (getFlume s2 f).tunedMode (upFrom 0 17)) f sc
  else resume (loopTest s2 f sc { loop with wires := ws }) f sc

/-- CAPAR_ERROR: a tier found a parity error in the command with count `n` while its window was open. Those before it take effect; it and
those after it are discarded and issue again 120 ns later (R61 to R63); its third failing replay escalates (R65). -/
def execCaparError (f sc tier n : Nat) (loop : LoopRes) (s : State) : Answer :=
  onElement (okSub f sc && decide (tier < 17)) <|
    let sub := subKey f sc
    let u := getSub s sub
    match u.retry.find? fun e => e.n == n with
    | none => .next s
    | some e =>
      if u.offline || s.flt.safe then .next s
      else
        let before := u.retry.takeWhile fun x => x.n != n
        let es := u.retry.dropWhile fun x => x.n != n
        let s1 := before.foldl takeEffect (modSub s sub fun u => { u with retry := es })
        if 3 ≤ e.fails then .next (escalate s1 f sc tier n es loop)
        else
          let s2 := reissue (es.foldl undoCmd s1) f sub (u.cycle + cycles s f 1200) (countFail (e.fails + 1) es)
          let s3 := scEvent s2 (oFlm f 0x5C) fun v => putBits (putBits (bumpBits v 23 16) 13 12 sc) 8 4 tier
          .next (event s3 (32 + f) 6 0 (sc + 4 * tier) n)

/-! Read data (R95 to R101). -/

/-- A request whose line decoded ends (R95, R98). -/
def readDone (s : State) (f : Nat) (r : Req) (d : Decoded) : State :=
  match r.kind with
  | .read => completeRead (dropReq s f r.id) r f d.data d.md (mdPoison d.md)
  | _ => putMerged s f r d.data (mdPoison d.md)

/-- A request whose line is uncorrectable on both reads (R96, R98, R101). -/
def readBad (s : State) (f : Nat) (r : Req) (d : Decoded) : State :=
  let mirrored := r.mirrored && (pondEntry s r.dpaLine).isNone
  if mirrored && usableCopy s r.dpaLine then requestCopy s f r true d.data d.md
  else
    let s1 := bumpTotal (if mirrored then mirrorNotice s else s) f 4
    match r.kind with
    | .read =>
      completeRead (queueWriteBack (dropReq s1 f r.id) f r.line d.data (mdMake (mdCxl d.md) (mdDirty d.md) true) r.dpaLine r.region) r f
        d.data d.md true
    | _ => putMerged s1 f r d.data true

/-- The data of a read whose window was still open have returned: the cycles of its latency have passed. -/
def dataBack (s : State) (f sub rid : Nat) : State :=
  match (getSub s sub).retry.find? fun e => match e.cmd with
    | .rd _ j => j == rid
    | _ => false with
  | some e => closeWindows (waitUntil s sub (e.cycle + tCL s f + 1)) sub
  | none => s

/-- The second READ of a line goes out as the next command to its bank, with the activate it may need, and its data return (R64, R96). A
parity error on it is a CAPAR_ERROR of its own; the step tells what the read found in the end. -/
def readAgain (s : State) (f sub rid : Nat) (p : Place) : State :=
  if (heldAt s p).isSome then s
  else
    let k := getBank s p.bank
    let s1 := if k.openRow = some p.row then s
      else
        let t := if k.openRow.isSome then issuePre (waitUntil s sub k.preAt) f sub p.bank else s
        issueAct (waitUntil t sub (getBank t p.bank).actAt) f sub p.bank p.row
    let c := match (getSub s1 sub).lastCol with
      | some (t, _, _) => t + 2
      | none => 0
    dataBack (issueRead (waitUntil s1 sub (max c (getBank s1 p.bank).colAt)) f sub p.bank rid) f sub rid

/-- The READ of a request was discarded and waits to issue again (R65). -/
def readHeld (u : SubChan) (rid : Nat) : Bool :=
  u.held.any fun e => match e.cmd with
    | .rd _ j => j == rid
    | _ => false

/-- READ_DATA_RETURN: the data of an issued read arrive and are decoded; `flips1` and `flips2` are stored bits that the first and
the second read find inverted (R95, R96). A host's full response buffer holds it back (R223); a request whose READ was discarded (R65),
or that waits for the partner's copy, has no data to return. -/
def execReadDataReturn (f rid : Nat) (flips1 flips2 : List Nat) (s : State) : Answer :=
  onElement (okF f) <|
    match (getFlume s f).inflight.find? fun r => r.id == rid with
    | none => .next s
    | some r =>
      let sub := subKey f (coordOf s f r.line).sc
      if !destFree s r.dest || (copyOf s f rid).isSome || readHeld (getSub s sub) rid then .next s
      else
        let s1 := dataBack s f sub rid
        match placeOf s1 f r.line with
        | none => .next (serveAway s1 f r)
        | some p =>
          let d1 := readPlace s1 p flips1
          let d := if d1.bad then readPlace s1 p flips2 else d1
          let s2 := if d1.bad then readAgain s1 f sub rid p else s1
          let s3 := settlePoison (countRead s2 f r.line d (d1.bad && !d.bad) r.dpaLine r.region) f r.line d r.dpaLine r.region
          .next (if d.bad then readBad s3 f r d else readDone s3 f r d)

/-! The tracker's timers and the tally write of the remap table. -/

/-- TRACKER_ENTRY_EXPIRY: a counting entry expires 1 s after its first count (R103). -/
def execTrackerEntryExpiry (f key : Nat) (s : State) : Answer :=
  onElement (okF f) <|
    .next (modFlume s f fun x =>
      { x with tracker := x.tracker.filter fun e => !(e.key == key && !e.waiting && decide (oneSecond ≤ s.now - e.since)) })

/-- TRACKER_WAIT_EXPIRY: an entry that waited 1 s after its rewrite is freed (R104). -/
def execTrackerWaitExpiry (f key : Nat) (s : State) : Answer :=
  onElement (okF f) <|
    .next (modFlume s f fun x =>
      { x with tracker := x.tracker.filter fun e => !(e.key == key && e.waiting && decide (oneSecond ≤ s.now - e.since)) })

end Sys2Proof.Machine
end

