-- ==== Sys2Proof/Machine/Refresh.lean ====
section
/-! DEFINITION. Refresh (R72 to R82), canary checks (R83 to R85), retention scrubs (R87, R88) and self-refresh (R80). -/

namespace Sys2Proof.Machine

/-! Bands. -/

/-- The band in force for a tier of a flume: by temperature, one higher while stepped up, at most 2 (R74, R85). -/
def bandOf (s : State) (f t : Nat) : Nat :=
  let x := getFlume s f
  min 2 (tabGet 0 x.band t + b2n (tabGet none x.stepUp t).isSome)

/-- The band after a temperature, in quarter degrees, from the band before: up at a rising threshold, down below a falling one (R74). -/
def nextBand (old : Nat) (temp : Int) : Nat :=
  if 372 ≤ temp then 2
  else if temp < 320 then 0
  else if old = 2 then (if temp < 360 then 1 else 2)
  else if 332 ≤ temp then 1 else old

/-- tREFIpb in ns (R74). -/
def refInterval (band : Nat) : Nat := if band = 0 then 30880 else if band = 1 then 15440 else 7720

/-- The next point of a bank's place in the even spread on an interval, after a time (R75). -/
def spreadPoint (iv place now : Nat) : Nat :=
  let off := place * iv / 272
  if now < off then off else (now - off) / iv * iv + iv + off

/-- A tier's band changed: each bank takes the earlier of its old due time and its next place on the new interval (R75). -/
def respread (s : State) (f t iv : Nat) : State :=
  forAll s [0, 1, 2, 3] fun s sc =>
    forAll s (upFrom 0 16) fun s b =>
      modBank s (bankKey f sc t b) fun k => { k with dueAt := min k.dueAt (spreadPoint iv (t * 16 + b) s.now) }

/-- Changing what the band of a tier follows from, with R75. -/
def changeBand (s : State) (f t : Nat) (g : Flume → Flume) : State :=
  let s1 := modFlume s f g
  if bandOf s1 f t = bandOf s f t then s1 else respread s1 f t (refInterval (bandOf s1 f t))

/-- postpone_max (R77, FLM_REF_CTL: a value above 8 acts as 8). -/
def postponeMax (s : State) (f : Nat) : Nat := min 8 (regField s (oFlm f 0x60) 3 0)

/-- Requests of classes 1 to 3 wait for a bank (R77, R78). -/
def bankWanted (s : State) (f b : Nat) : Bool :=
  (getFlume s f).queue.any fun r => decide (r.cls ≤ 3) && match placeOf s f r.line with
    | some p => p.bank == b
    | none => false

/-- A refresh is postponed: the owed count rises, and owed_peak with it (R77, FLM_REF_STATUS). -/
def postpone (s : State) (f b : Nat) : State :=
  let n := (getBank s b).owed + 1
  let s1 := modBank s b fun k => { k with owed := n }
  if regField s (oFlm f 0x68) 15 12 < n then scEvent s1 (oFlm f 0x68) fun v => putBits v 15 12 n else s1

/-- The controller refreshes a bay's banks itself: in service, flume in Run or Trim, no safe state (R73, R80). -/
def busRefresh (s : State) (f sc t : Nat) : Bool :=
  !bayOut s f sc t && decide ((getFlume s f).pstate ≤ 1) && !s.flt.safe

/-- REFRESH_DUE (R77): postponed, or due as class 0 work; at a bank owing 7 or more it ends a logic slice and is not postponed (R68). -/
def execRefreshDue (f sc tier bank : Nat) (s : State) : Answer :=
  onElement (okBank f sc tier bank) <|
    let b := bankKey f sc tier bank
    let k := getBank s b
    if s.now < k.dueAt ∨ ¬ busRefresh s f sc tier then .next s
    else
      let s1 := modBank s b fun k => { k with dueAt := k.dueAt + refInterval (bandOf s f tier) }
      let slice := (getSub s (subKey f sc)).logicSlice
      if slice ∧ k.owed < 7 then .next (postpone s1 f b)
      else if ¬ slice ∧ bankWanted s f b ∧ k.owed < postponeMax s f then .next (postpone s1 f b)
      else .next (abandonSlice (modBank s1 b fun k => { k with refDue := k.refDue + 1 }) (subKey f sc))

/-- OWED_REFRESH (R78): owed refreshes become class 0 work: one where no request of classes 1 to 3 waits for the bank, all of them at
postpone_max. The owed count falls as each issues. -/
def execOwedRefresh (f sc tier bank : Nat) (s : State) : Answer :=
  onElement (okBank f sc tier bank) <|
    let b := bankKey f sc tier bank
    let k := getBank s b
    let more := fun n => modBank s b fun k => { k with refDue := k.refDue + n, owedDue := k.owedDue + n }
    if k.owed ≤ k.owedDue ∨ ¬ busRefresh s f sc tier ∨ (getSub s (subKey f sc)).logicSlice then .next s
    else if postponeMax s f ≤ k.owed then .next (more (k.owed - k.owedDue))
    else if bankWanted s f b ∨ 0 < k.owedDue then .next s
    else .next (more 1)

/-- The hottest of a tier's own eight sensors. -/
def hottestSensor (s : State) (t : Nat) : Int :=
  (List.range 8).foldl (fun a i => max a (tabGet 0 s.thm.reading (8 * t + i))) (-10000)

/-- The band of R74 that a tier's own sensors give it in Brake, from the band before (R80). -/
def brakeStep (s : State) (f t : Nat) : State :=
  let old := tabGet 0 (getFlume s f).band t
  let new := nextBand old (hottestSensor s t)
  if new = old then s
  else respread (modFlume s f fun x => { x with band := tabSet 0 x.band t new }) f t (refInterval (min 2 (new + 1)))

/-- The band a tier refreshes itself at: in Brake that of its own sensors, raised by one (R80). -/
def selfBand (s : State) (f t : Nat) : Nat :=
  if (getFlume s f).pstate = 4 then min 2 (tabGet 0 (getFlume s f).band t + 1) else bandOf s f t

/-- SELF_REFRESH_DUE (R80): in Feather, Furl, Brake or the safe state the tier refreshes 8 rows of the bank at its band. -/
def execSelfRefreshDue (f sc tier bank : Nat) (s : State) : Answer :=
  onElement (okBank f sc tier bank) <|
    let b := bankKey f sc tier bank
    if s.now < (getBank s b).dueAt ∨ bayOut s f sc tier ∨ ((getFlume s f).pstate ≤ 1 ∧ ¬ s.flt.safe) then .next s
    else
      let s1 := if (getFlume s f).pstate = 4 then brakeStep s f tier else s
      .next (modBank s1 b fun k => { k with rowCtr := (k.rowCtr + 1) % 1028, dueAt := k.dueAt + refInterval (selfBand s1 f tier) })

/-! Reading a coordinate for a check or scrub. -/

/-- The line with given row and column and base bits `k`. -/
def lineWith (row col k : Nat) : Nat :=
  (List.range 10).foldl (fun a i => a + b2n (bitOf k i) * 2 ^ basePos i) (row * 2 ^ 15 + col * 4)

/-- The line a coordinate below the map serves, the inverse of R36 and of redirection; none for a spare bay not in use. -/
def lineServed (s : State) (f : Nat) (c : Coord) : Option Nat :=
  (List.range 1024).findSome? fun k =>
    let l := lineWith c.row c.col k
    if coordOf s f l = c then some l else none

/-- An uncorrectable line that the scrub of a coordinate finds: the partner's copy where it can be had, else its own data written back
poisoned (R87, R101, R111). With `later` a refetch of the line follows, and the mirror raises no notice for a line the partner has (R88). -/
def scrubBad (s : State) (f : Nat) (p : Place) (d : Decoded) (line : Option Nat) (dl i : Nat) (env : OpEnv) (later : Bool) : State :=
  let mirrored := decide (i < 64) && rgMode (regionWord s i) != 0 && (pondEntry s dl).isNone
  match (if mirrored && usableCopy s dl then partnerLine env dl else none) with
  | some cp => refill s f (line.getD 0) cp
  | none =>
    let s1 := if mirrored && !(later && usableCopy s dl) then mirrorNotice s else s
    storeBack (bumpTotal s1 f 4) f p d.data (rewriteMd s1 i d true)

/-- The grade of a line: 0 clean, 1 weak, 2 failing (R84). -/
def gradeLine (d : Decoded) : Nat := if d.bad then 2 else if d.words = 0 then 0 else if 2 ≤ d.worst then 2 else 1

/-- A direct read of a coordinate with the write-back a scrub makes (R84, R87, R94, R111), and its grade.
A line's older requests come first (R47), but in a check on wake or the scrub of a bank out of service, whose requests wait (R86, R87). -/
def scrubCoord (s0 : State) (f : Nat) (c : Coord) (env : OpEnv) (later : Bool) : Nat × State :=
  let line := lineServed s0 f c
  let s := match line with
    | some l => if later then s0 else flushLine s0 f l env
    | none => s0
  let p := placeAt s f c
  let q := readTwice s p (flipsAt env.flips (lineKey p))
  let d := q.1
  let own := line.bind fun l => ownerOf s f l
  let i := (own.map Prod.fst).getD 64
  let dl := (own.map fun o => o.2 / 64).getD 0
  let s1 := countAt s f c line d q.2 dl i
  let s2 := if !d.bad && poisonSplit d.md then bumpTotal s1 f 0 else s1
  (gradeLine d,
    if d.bad then scrubBad s1 f p d line dl i env later
    else if d.words = 0 ∧ ¬ poisonSplit d.md then s1
    else storeBack s2 f (placeAt s2 f c) d.data (rewriteMd s2 i d (mdPoison d.md)))

/-- Scrubbing physical rows of a bank (R85, R87). -/
def scrubRows (s : State) (f sc t b : Nat) (rows : List Nat) (env : OpEnv) (later : Bool) : State :=
  forAll s rows fun s row => forAll s (upFrom 0 32) fun s col => (scrubCoord s f ⟨sc, t, b, row, col⟩ env later).2

/-- Scrubbing a spare row by its physical number (R87). -/
def scrubSpare (s : State) (b row : Nat) (flips : List Flip) : State :=
  forAll s (upFrom 0 32) fun s col =>
    let p : Place := ⟨b, row, col⟩
    let d := (readTwice s p (flipsAt flips (lineKey p))).1
    if d.bad then setStored s p (encodeLine d.data (mdMake (mdCxl d.md) (mdDirty d.md) true))
    else if d.words = 0 ∧ ¬ poisonSplit d.md then s
    else setStored s p (encodeLine d.data (mdMake (mdCxl d.md) (mdDirty d.md) (mdPoison d.md)))

/-! Canaries. -/

/-- The fuse rows or their copy in the tally store that name the canary rows (R83). -/
def canaryTable (s : State) : Option (Tab (BitVec 256)) :=
  if s.fuses.failed.contains 4 then s.tally.canary else some s.fuses.shadow

/-- The two canary rows of a bank (R83, R317). -/
def canaryRows (s : State) (f sc t b : Nat) : List Nat :=
  match canaryTable s with
  | none => [0, 0x1000]
  | some tb =>
    let x := bankKey f sc t b
    let sel := bits (tabGet (0 : BitVec 256) tb (91 + x / 32)).toNat (8 * (x % 32) + 7) (8 * (x % 32))
    let cand := fun i => bits (tabGet (0 : BitVec 256) tb (74 + t)).toNat (16 * i + 12) (16 * i)
    [cand (sel % 16), cand (sel / 16)]

/-- The canary check of one bank: the worst grade of its 64 lines (R84). -/
def canaryBank (s : State) (f sc t b : Nat) (env : OpEnv) (later : Bool) : Nat × State :=
  (canaryRows s f sc t b).foldl (fun a row =>
    (List.range 32).foldl (fun a col =>
      let r := scrubCoord a.2 f ⟨sc, t, b, row, col⟩ env later
      (max a.1 r.1, r.2)) a) (0, s)

/-- The canary checks of a tier of a flume: banks grading weak, banks grading failing, and the state. -/
def canaryTier (s : State) (f t : Nat) (env : OpEnv) (later : Bool) : Nat × List (Nat × Nat) × State :=
  (List.range 64).foldl (fun a i =>
    let sc := i / 16
    let b := i % 16
    if bayOut a.2.2 f sc t then a
    else
      let r := canaryBank a.2.2 f sc t b env later
      (a.1 + b2n (r.1 == 1), if r.1 = 2 then a.2.1 ++ [(sc, b)] else a.2.1, r.2)) (0, [], s)

/-- Step-ups from the grades of a tier (R85, R86). A check on wake is no sweep: its clean grades end no step-up. The spec does not say
whether a tier that is stepped up already, and grades so again, raises the notice again: the model raises it, and writes step_tier, each
time (DESIGN CHOICE, log 85). -/
def gradeTier (s : State) (f t weak : Nat) (failing : List (Nat × Nat)) (sweep : Bool) : State :=
  let step := max 1 (regField s (oFlm f 0x60) 7 4)
  let s1 := if 0 < weak ∨ failing ≠ [] then scEvent s (oFlm f 0x68) fun v => putBits v 0 0 1 else s
  if failing ≠ [] ∨ step ≤ weak then
    let s2 := scEvent s1 (oFlm f 0x68) fun v => putBits v 8 4 t
    event (changeBand s2 f t fun x => { x with stepUp := tabSet none x.stepUp t (some 0) }) (32 + f) 9 1 (4 * t) 0
  else match tabGet none (getFlume s1 f).stepUp t with
    | none => s1
    | some n =>
      let n' := if weak = 0 then n + b2n sweep else 0
      changeBand s1 f t fun x => { x with stepUp := tabSet none x.stepUp t (if n' = 2 then none else some n') }

/-- A bank that grades failing in Run: a severe fault and a scrub pass of the bank, in service (R85). -/
def failInRun (s : State) (f t : Nat) (env : OpEnv) (k : Nat × Nat) : State :=
  scrubRows (event s (32 + f) 9 2 (k.1 + 4 * t + 128 * k.2) 0) f k.1 t k.2 (upFrom 0 8192) env false

/-- Sweeps of a flume's canary rows are 256 ms apart (R85). -/
def sweepGap : Nat := 256000000

/-- CANARY_SWEEP: every canary row of a flume in Run is checked, once each 256 ms (R85). -/
def execCanarySweep (f : Nat) (env : OpEnv) (s : State) : Answer :=
  onElement (okF f) <|
    if flumeOpen s f && decide ((getFlume s f).pstate = 0) && decide (max s.boot.since (getFlume s f).sweepAt + sweepGap ≤ s.now) then
      let s1 := modFlume (lookups s env) f fun x => { x with sweepAt := s.now }
      .next (forAll s1 (upFrom 0 17) fun s t =>
        let r := canaryTier s f t env false
        r.2.1.foldl (fun s k => failInRun s f t env k) (gradeTier r.2.2 f t r.1 r.2.1 true))
    else .next s

/-- Refetching a line after a scrub (R88). -/
def refetchLine (s : State) (f line : Nat) : State :=
  match ownerOf s f line with
  | none => s
  | some (i, dpa) =>
    let dl := dpa / 64
    if rgMode (regionWord s i) = 0 ∨ (pondEntry s dl).isSome then s
    else if usableCopy s dl then
      let s1 := modFlume s f fun x => { x with refetch := insertNat line x.refetch }
      askPartner s1 f { reqInit with port := 4, line := line, dest := .device false, dpaLine := dl, region := i, entry := regionWord s i }
        true true 0 0
    else s

/-- A mirrored line the partner cannot give back: the scrubbed local line stands (R88). -/
def refetchFails (s : State) (f line : Nat) : Bool :=
  match ownerOf s f line with
  | none => false
  | some (i, dpa) => rgMode (regionWord s i) != 0 && (pondEntry s (dpa / 64)).isNone && !usableCopy s (dpa / 64)

/-- Every line a bank serves. -/
def bankLines (s : State) (f sc t b : Nat) : List Nat :=
  (List.range (8192 * 32)).filterMap fun i => lineServed s f ⟨sc, t, b, i / 32, i % 32⟩

/-- RETENTION_SCRUB_DONE: the scrub of a bank out of service ends; the bank enters service and its mirrored lines are refetched
(R87, R88). -/
def execRetentionScrubDone (f sc tier bank : Nat) (env : OpEnv) (s : State) : Answer :=
  onElement (okBank f sc tier bank) <|
    let b := bankKey f sc tier bank
    if !(getBank s b).scrubbing then .next s
    else
      let s1 := scrubRows (lookups s env) f sc tier bank (upFrom 0 8192) env true
      let s2 := forAll s1 (upFrom 8192 32) fun s row => scrubSpare s b row env.flips
      let s3 := modBank s2 b fun k => { k with scrubbing := false }
      let ls := bankLines s3 f sc tier bank
      let s4 := ls.foldl (fun s l => refetchLine s f l) s3
      .next (if ls.any fun l => refetchFails s3 f l then mirrorNotice s4 else s4)

end Sys2Proof.Machine
end

