-- ==== Sys2Proof/Machine/SelfTest.lean ====
section
/-! DEFINITION. In-service self-test slices (R66 to R69, R339, R340), migration (R70, R71), column moves (R347), map applies (R38)
and the tally writes of repairs and remaps (R105, R346, R350). -/

namespace Sys2Proof.Machine

/-! The tally writes. -/

/-- REMAP_TALLY_WRITE: the remap table goes to the flume's record, or the failure raises a notice (R105 step 4). -/
def execRemapTallyWrite (f : Nat) (ok : Bool) (s : State) : Answer :=
  onElement (okF f) <|
    let x := getFlume s f
    if !x.remapDirty then .next s
    else
      let s1 := modFlume s f fun x => { x with remapDirty := false }
      if ok then
        .next { s1 with tally := { s1.tally with remap := tabMod none s1.tally.remap f fun o => some (putCopy o x.remap) } }
      else .next (tallyFail s1 4)

/-- The erasures of a flume by sub-channel. -/
def flumeErasures (s : State) (f : Nat) : List (Nat × Nat) :=
  ((List.range 4).map fun sc => (getSub s (subKey f sc)).erasures.map fun e => (sc, e)).flatten

/-- REPAIR_TALLY_WRITE: the repairs made go to the soft-repair record (R346, R350); what does not fit raises a notice. -/
def execRepairTallyWrite (f : Nat) (ok : Bool) (s : State) : Answer :=
  onElement (okF f) <|
    let x := getFlume s f
    let old := softOf s f
    let er := flumeErasures s f
    if x.repairsDue = [] ∧ old.erasures = er then .next s
    else
      let s1 := modFlume s f fun x => { x with repairsDue := [] }
      if !ok then .next (tallyFail s1 3)
      else
        let all := old.entries ++ x.repairsDue
        let s2 := { s1 with tally := { s1.tally with
          soft := tabMod none s1.tally.soft f fun o => some (putCopy o ⟨all.take 1024, er⟩) } }
        .next (if 1024 < all.length then event s2 10 1 1 0 3 else s2)

/-! Slices. -/

/-- A test that did not pass: BST_STATUS.fails and the BIST source (R338, R355). -/
def noteFail (s : State) : State := event (scEvent s (oBst 0xC) fun v => bumpBits v 23 16) 11 0 1 0 0

/-- Slices of one in-service pass: every row of every bank of every active and spare bay, every engine in service, every mill (R339). -/
def passSize (s : State) : Nat :=
  let outs := s.bays.countP fun e => e.2.offline && !(getSub s (e.1 / 17)).offline
  let subs := s.subs.countP fun e => e.2.offline
  131584 * (2176 - outs - 17 * subs) + (128 - subs) + 32

/-- A slice of the pass has run (R339). -/
def sliceRan (s : State) : State :=
  if s.bist.passActive then
    { s with bist := { s.bist with done := s.bist.done + 1, passActive := decide (s.bist.done + 1 < passSize s) } }
  else s

/-- Slices may start on a flume (R69, R339). -/
def slicesOn (s : State) (f : Nat) : Bool :=
  bitOf (regGet s (oFlm f 0)).toNat 2 && bitOf (regGet s (oBst 0)).toNat 0 && flumeOpen s f

/-- A request that ranks before class 4, promoted or of a lower class, could issue on a sub-channel (R46). -/
def demandReady (s : State) (f sc : Nat) : Bool := (candsOf s f sc).any fun c => c.req.promoted || decide (c.req.cls < 4)

/-- DRAM_SLICE_START: class 4 scheduling selects the slice where no request before class 4 could issue; a row goes into a holding
buffer and its bank's row closes (R66, R67). -/
def execDramSliceStart (f sc tier bank row : Nat) (s : State) : Answer :=
  onElement (okBank f sc tier bank && decide (row < 8224)) <|
    let b := bankKey f sc tier bank
    if slicesOn s f && !bayOut s f sc tier && subIssues s f sc && !fullPass s f sc && !demandReady s f sc && !(getBank s b).scrubbing &&
        !((getFlume s f).heldRows.any fun h => bankSub h.bank == subKey f sc) then
      let copy := (List.range 32).map fun c => BitVec.ofNat 640 (storedAt s ⟨b, row, c⟩)
      let s1 := modFlume s f fun x => { x with heldRows := x.heldRows ++ [⟨b, row, true, 0, copy⟩] }
      .next (modBank s1 b fun k => { k with openRow := none, hits := 0 })
    else .next s

/-- The numbers of a list, each once. -/
def distinct (l : List Nat) : List Nat := l.foldl (fun a k => if a.contains k then a else a ++ [k]) []

/-- DRAM_SLICE_END: after eight elements, or at one that failed, the holding copy is written back; a row with failing column groups is
repaired and the copy goes to the repair (R66, R340, R345). `fails` are the failing column groups, each with a failing line, and
`badSpares` spare rows that fail their read-back. -/
def execDramSliceEnd (f sc : Nat) (fails : List (Nat × Nat)) (badSpares : List Nat) (s : State) : Answer :=
  onElement (okSub f sc) <|
    match (getFlume s f).heldRows.find? fun h => h.slice && bankSub h.bank == subKey f sc with
    | none => .next s
    | some h =>
      if h.elems < (if fails.isEmpty then 8 else 2) then .next s
      else
        let s1 := modFlume s f fun x => { x with heldRows := x.heldRows.filter fun y => y != h }
        let s2 := putRow s1 h.bank h.row h.copy
        if fails.isEmpty then .next (sliceRan s2)
        else
          .next (sliceRan (repairFailure (noteFail s2) h.bank h.row (distinct (fails.map Prod.fst))
            (distinct (fails.map fun e => e.2 % 32)) badSpares))

/-- LOGIC_SLICE_START: the engine stops issuing for its test (R68, R69). -/
def execLogicSliceStart (f sc : Nat) (s : State) : Answer :=
  onElement (okSub f sc) <|
    let k := subKey f sc
    let u := getSub s k
    let pressed := (getFlume s f).queue.any fun r => (r.promoted || urgencyNow s f r == 4) && (coordOf s f r.line).sc == sc
    if slicesOn s f && !u.logicSlice && !u.offline && !u.stopped && decide (u.sliceAfter ≤ s.now) && !pressed then
      .next (modSub s k fun u => { u with logicSlice := true })
    else .next s

/-- LOGIC_SLICE_END: the engine issues again; a failing engine takes its sub-channel out of service (R68, R349). -/
def execLogicSliceEnd (f sc : Nat) (pass : Bool) (s : State) : Answer :=
  onElement (okSub f sc) <|
    let k := subKey f sc
    if !(getSub s k).logicSlice then .next s
    else
      let s1 := sliceRan (modSub s k fun u => { u with logicSlice := false })
      .next (if pass then s1 else withdrawSub (noteFail s1) f sc)

/-- IN_SERVICE_PASS: a new pass starts when the period has run; slices left unrun are reported (R339). -/
def execInServicePass (s : State) : Answer :=
  let hours := max 1 (regField s (oBst 4) 7 0)
  if bitOf (regGet s (oBst 0)).toNat 0 && (s.bist.passAt == 0 || decide (hours * 3600 * oneSecond ≤ s.now - s.bist.passAt)) then
    let s1 := if s.bist.passActive then scEvent s (oBst 0xC) fun v => bumpBits v 4 0 else s
    .next { s1 with bist := { s1.bist with passActive := true, done := 0, passAt := s.now } }
  else .next s

/-! Migration and column moves. -/

/-- The coordinate whose line a place holds: its own, that of a row the spare row serves, or that of a remap entry (R41). -/
def coordHeld (s : State) (p : Place) : Option Coord :=
  let c := coordAt p.bank p.row
  let cs := if p.row < 8192 then [{ c with col := p.col }]
    else if p.row < 8220 then
      ((getBank s p.bank).rows.filter fun e => e.2 == p.row - 8192 + 1).map fun e => { c with row := e.1, col := p.col }
    else (List.range 32).map fun i =>
      let e := remapEntry (getFlume s (bankFlume p.bank)) i
      ⟨bits e 2 1, bits e 7 3, bits e 11 8, bits e 24 12, bits e 29 25⟩
  cs.find? fun c => decide (placeAt s (bankFlume p.bank) c = p)

/-- The line of a mirrored region that a move found uncorrectable is fetched from the partner, or the mirror source raises a notice
(R101). -/
def moveRefetch (s : State) (f : Nat) (line : Option Nat) : State :=
  match line with
  | none => s
  | some l => if refetchFails s f l then mirrorNotice s else refetchLine s f l

/-- Counting what the read of a move found; the tracker counts those of migration alone (R103, R114). -/
def moveCount (s : State) (f : Nat) (line : Option Nat) (d : Decoded) (retried tracked : Bool) : State :=
  match line with
  | none => s
  | some l =>
    let own := ownerOf s f l
    if d.bad || tracked then
      countRead s f l d retried ((own.map fun o => o.2 / 64).getD 0) ((own.map Prod.fst).getD 64)
    else s

/-- The partner's copy of a line that a move found uncorrectable, where R101 fetches it and the command's input has it. -/
def moveCopy (s : State) (f : Nat) (line : Option Nat) (env : OpEnv) : Option CopyLine :=
  match line.bind fun l => ownerOf s f l with
  | none => none
  | some o =>
    if rgMode (regionWord s o.1) != 0 && (pondEntry s (o.2 / 64)).isNone && usableCopy s (o.2 / 64) then partnerLine env (o.2 / 64) else none

/-- Rewriting a line onto another place with its mark; an uncorrectable line is replaced by the partner's copy, or written poisoned (R70,
R101, R347). R114 does not say whether such a line counts in the running total of poison write-backs: the model counts it (DESIGN CHOICE,
log 86). -/
def moveLine (s : State) (f : Nat) (from_ to_ : Place) (line : Option Nat) (tracked : Bool) (env : OpEnv) : State :=
  let q := readTwice s from_ (flipsAt env.flips (lineKey from_))
  let d := q.1
  let i := ((line.bind fun l => ownerOf s f l).map Prod.fst).getD 64
  let s1 := moveCount s f line d q.2 tracked
  let s2 := if !d.bad && poisonSplit d.md then bumpTotal s1 f 0 else s1
  if !d.bad then storeBack s2 f to_ d.data (rewriteMd s2 i d (mdPoison d.md))
  else match moveCopy s2 f line env with
    | some c => storeBack s2 f to_ c.data.toNat (mdMake c.md.toNat false c.poison)
    | none => moveRefetch (storeBack (bumpTotal s2 f 4) f to_ d.data (rewriteMd s2 i d true)) f line

/-- Migration, slices and moves run: not paused, not held (R59, R71). -/
def movesOn (s : State) (f : Nat) : Bool := !bitOf (regGet s (oFlm f 0)).toNat 1 && flumeOpen s f

/-- MIGRATION_ROW: one row of the failed bay is copied to the spare bay (R70); after the last, the failed bay's remap entries are
released (R20). -/
def execMigrationRow (f sc : Nat) (env : OpEnv) (s : State) : Answer :=
  onElement (okSub f sc) <|
    match tabGet none (getFlume s f).migrate sc with
    | none => .next s
    | some (t, ptr) =>
      if !movesOn s f then .next s
      else
        let s1 := forAll (lookups s env) (upFrom 0 32) fun s col =>
          let c : Coord := ⟨sc, t, ptr / 8192, ptr % 8192, col⟩
          moveLine s f (placeAt s f c) (placeAt s f { c with tier := 16 }) (lineServed s f c) true env
        if ptr + 1 < 16 * 8192 then
          .next (modFlume s1 f fun x => { x with migrate := tabSet none x.migrate sc (some (t, ptr + 1)) })
        else
          let s2 := modFlume s1 f fun x => { x with migrate := tabSet none x.migrate sc none }
          .next (releaseRemap s2 f fun e => bits e 2 1 == sc && bits e 7 3 == t)

/-- COLUMN_GROUP_MOVE_ROW: one more row moves to the spare column group (R347). -/
def execColumnGroupMoveRow (f sc tier bank : Nat) (env : OpEnv) (s : State) : Answer :=
  onElement (okBank f sc tier bank) <|
    let b := bankKey f sc tier bank
    match (getBank s b).colMove with
    | none => .next s
    | some (g, i, ptr) =>
      if !flumeOpen s f then .next s
      else
        let s1 := forAll (lookups s env) (upFrom 0 32) fun s col =>
          let p : Place := ⟨b, ptr, col⟩
          moveLine s f p p ((coordHeld s p).bind (lineServed s f)) false env
        .next (modBank s1 b fun k => { k with colMove := if ptr + 1 < 8224 then some (g, i, ptr + 1) else none })

/-! Map applies (R38). -/

/-- Rank over GF(2) of rows given as numbers: each step takes a row with its highest set bit `k` as pivot. -/
def rankGF2 : Nat → List Nat → Nat
  | 0, _ => 0
  | k + 1, rows =>
    match takeFirst (fun r => bitOf r k) rows with
    | none => rankGF2 k rows
    | some (p, rest) => 1 + rankGF2 k (rest.map fun r => if bitOf r k then r ^^^ p else r)

/-- Row `i` of the matrix: the staged mask's bits at the ten base positions. -/
def baseRow (m : Nat) : Nat := (List.range 10).foldl (fun a j => a + b2n (bitOf m (basePos j)) * 2 ^ j) 0

/-- Staged mask `i`. -/
def stagedMask (s : State) (f i : Nat) : Word := regGet s (oFlm f (0x100 + 4 * i))

/-- The apply of R38 on a held flume. -/
def mapApply (s : State) (f : Nat) : State :=
  let rank := rankGF2 10 ((List.range 10).map fun i => baseRow (stagedMask s f i).toNat)
  if rank = 10 then
    let s1 := modFlume s f fun x =>
      { x with masks := (List.range 10).foldl (fun m i => tabSet (BitVec.ofNat 32 (2 ^ basePos i)) m i (stagedMask s f i)) x.masks,
               mapGen := (x.mapGen + 1) % 256 }
    scEvent s1 (oFlm f 0x134) fun v => putBits (putBits v 11 8 10) 1 0 1
  else
    event (scEvent s (oFlm f 0x134) fun v => putBits (putBits v 11 8 rank) 1 0 2) (32 + f) 8 1 0 0

/-- A write of apply_req is taken: it is Held, and any write of it while the flume is not held is dropped and logged (R38, R60, R442). -/
def takeMapApply (s : State) (path f v : Nat) : State :=
  if !(getFlume s f).held then accessFault s path 5 (oFlm f 0x130)
  else if bitOf v 0 then mapApply s f else s

/-- FLM_MAP_APPLY (R38). -/
def execFlmMapApply (path f : Nat) (s : State) : Answer :=
  onElement (okPath path && okF f) (.next (writeNow s path (oFlm f 0x130) f 1 fun s => takeMapApply s path f 1))

end Sys2Proof.Machine
end

