-- ==== Sys2Proof/Machine/Guard.lean ====
section
/-! DEFINITION. The config guard's contents and its adjustment (R448, R452, R455). -/

namespace Sys2Proof.Machine

/-- Offsets of the guarded registers of a block's rows, from its base (R456). -/
def guardedIn (base : Nat) (rows : List RegRow) : List Nat :=
  ((rows.filter fun r => r.guarded).map fun r => (List.range r.count).map fun i => base + r.off + 4 * i).flatten

/-- Every guarded register in ascending BAR0 offset (R448, R456). -/
def guardedOffs : List Nat :=
  guardedIn 0x10000 fltRows ++ guardedIn 0x20000 pwrRows ++ guardedIn 0x30000 thmRows ++ guardedIn 0x60000 bstRows ++
    guardedIn 0x80000 grdRows ++ ((List.range 32).map fun f => guardedIn (oFlm f 0) flmRows).flatten ++
    ((List.range 32).map fun m => guardedIn (oMil m 0) milRows).flatten ++
    ((List.range 4).map fun h => guardedIn (oHpt h 0) hptRows ++
      ((List.range 64).map fun p => guardedIn (oHpt h (0x1000 + 0x40 * p)) ringRows).flatten).flatten ++
    guardedIn (oLet 0 0) lettRows ++ guardedIn (oLet 1 0) (lettRows.take 1) ++
    ((List.range 96).map fun l => guardedIn (oLan l 0) lanRows).flatten

/-- FLT_SRC_CFG of one source: n and w, 0 for an undefined one (R455). -/
def srcCfg (s : State) (g i : Nat) : Nat := (sourceNW s g i).1 + 2 ^ 8 * (sourceNW s g i).2

/-- The contents in force of a guarded register, as R448 and R455 take them, in bytes. -/
def guardWord (s : State) (off : Nat) : List Byte :=
  if off = 0x10024 then ((List.range 1024).map fun k => leBytes 4 (srcCfg s (k / 16) (k % 16))).flatten
  else
    let v := (regGet s off).toNat
    leBytes 4 <|
      if 0x200000 ≤ off ∧ off < 0x400000 then
        let f := (off - 0x200000) / 0x10000
        let o := (off - 0x200000) % 0x10000
        if 0x100 ≤ o ∧ o < 0x128 then maskOf (getFlume s f) ((o - 0x100) / 4) else if o = 0x7C then v % 2 ^ 31 else v
      else if 0x700000 ≤ off ∧ off % 0x1000 = 0 then putBits v 1 1 0 else v

/-- The guarded contents (R448). -/
def guardBytes (s : State) : List Byte := (guardedOffs.map (guardWord s)).flatten

/-- A sweep's result (R448). -/
def guardCrc (s : State) : Nat := crc32c 0 (guardBytes s)

/-- The device returned guarded fields to their reset values: the reference follows by exactly that change (R452). -/
def guardAdjust (old new : State) : State :=
  if guardBytes old = guardBytes new then new
  else { new with acc := { new.acc with ref := new.acc.ref ^^^ guardCrc old ^^^ guardCrc new } }

end Sys2Proof.Machine
end

