-- ==== Sys2Proof/Machine/Rings.lean ====
section
/-! DEFINITION. Ring pairs: enabling, draining and resetting (R190, R208 to R211), doorbells (R193, R194), fetching (R195, R207),
interrupts (R205) and messages held pending (R479). -/

namespace Sys2Proof.Machine

/-! Configuration of a pair (R188, R189). -/

/-- Entries of the two rings of pair `n`. -/
def sqSize (s : State) (n : Nat) : Nat := 2 ^ regField s (oRing n 0x10) 4 0
def cqSize (s : State) (n : Nat) : Nat := 2 ^ regField s (oRing n 0x10) 12 8

/-- Bus addresses of the two rings. -/
def sqBase (s : State) (n : Nat) : Nat := (regGet s (oRing n 0)).toNat + (regGet s (oRing n 4)).toNat * 2 ^ 32
def cqBase (s : State) (n : Nat) : Nat := (regGet s (oRing n 8)).toNat + (regGet s (oRing n 0xC)).toNat * 2 ^ 32

/-- The head that owns pair `n` (R187). -/
def pairHead (n : Nat) : Nat := n / 64

/-- The configuration passes the check at enabling (R190). -/
def pairOk (s : State) (n : Nat) : Bool :=
  let a := regField s (oRing n 0x10) 4 0
  let b := regField s (oRing n 0x10) 12 8
  decide (6 ≤ a ∧ a ≤ 16 ∧ 6 ≤ b ∧ b ≤ 16 ∧ a ≤ b) && decide (sqBase s n + sqSize s n * 128 ≤ 2 ^ 64) &&
    decide (cqBase s n + cqSize s n * 32 ≤ 2 ^ 64)

/-- A notice against the head's ring source (R190, R208). -/
def ringNotice (s : State) (n : Nat) : State := event s (16 + pairHead n) 4 1 0 0

/-- A head may move data by DMA: link up, in D0, bus mastering on, no safe state (R225, R231, R427). -/
def dmaOpen (s : State) (h : Nat) : Bool :=
  let x := getHead s h
  x.linkUp && !x.d3hot && x.bme && !s.flt.safe

/-! Descriptors under way. -/

/-- The started descriptors of a pair. -/
def descsOf (s : State) (n : Nat) : List Nat :=
  (s.descs.filter fun e => match e.2 with
    | some d => d.pair == n
    | none => false).map Prod.fst

/-- Starting a descriptor or chain: a completion slot is reserved (R199, R201). -/
def newDesc (s : State) (n : Nat) (members : List (List Byte)) : Nat × State :=
  let d : Desc := ⟨n, members, s.now, [], 0, 0, 0, 0, 0, [], none, false, 0, [], [], []⟩
  (s.nextDesc, modPair (putDesc { s with nextDesc := s.nextDesc + 1 } s.nextDesc (some d)) n fun x => { x with reserved := x.reserved + 1 })

/-- Forgetting a descriptor and its parts, and its reserved slot. -/
def dropDesc (s : State) (d : Nat) : State :=
  match getDesc s d with
  | none => s
  | some x =>
    let s1 := forAll s x.parts fun s p => putPart s p none
    modPair (putDesc s1 d none) x.pair fun y => { y with reserved := y.reserved - 1 }

/-- A part that has not started never starts; a running one stops at its next line boundary (R128, R209). -/
def stopPart (s : State) (p : Nat) : State :=
  match getPart s p with
  | none => s
  | some x =>
    if x.ended then s
    else if x.started then modPart s p fun x => { x with stop := true }
    else
      let s1 := modMill s x.home fun m => { m with queue := m.queue.filter (· != p) }
      modPart { s1 with partStore := s1.partStore.filter (· != p) } p fun x => { x with ended := true }

/-- Stopping every part of a descriptor. -/
def stopParts (s : State) (d : Nat) : State :=
  match getDesc s d with
  | some x => forAll s x.parts stopPart
  | none => s

/-! Stopping, enabling, draining, resetting. -/

/-- A pair stops (R208): no further start, fetched slots are discarded, a notice counts. -/
def stopPair (s : State) (n err slot : Nat) : State :=
  let s1 := modPair s n fun x => { x with state := 2, err := err, fetched := [] }
  ringNotice (scEvent s1 (oRing n 0x28) fun v => putBits v 15 0 slot) n

/-- Enabling a pair that is disabled (R190). -/
def enablePair (s : State) (n : Nat) : State :=
  if (getPair s n).state ≠ 0 then s
  else if pairOk s n then modPair s n fun x =>
    { pairInit with state := 1, phase := true, pendCount := x.pendCount, pendSince := x.pendSince }
  else ringNotice (modPair s n fun x => { x with err := 4 }) n

/-- Draining a pair that runs (R210). -/
def drainPair (s : State) (n : Nat) : State :=
  if (getPair s n).state = 1 then modPair s n fun x => { x with state := 3, draining := true, fetched := [] } else s

/-- Resetting a pair (R209): its started operator parts stop, its completions are discarded. -/
def resetPair (s : State) (n : Nat) (clear : Bool) : State :=
  let s1 := modPair s n fun x =>
    { x with state := 3, draining := false, fetched := [], clearRegs := x.clearRegs || clear }
  forAll s1 (descsOf s1 n) fun s d => modDesc (stopParts s d) d fun x => { x with dropped := true }

/-- Resetting all pairs of a head and returning their registers (R211). -/
def resetHeadPairs (s : State) (h : Nat) : State := forAll s (upFrom (64 * h) 64) fun s n => resetPair s n true

/-- The pair's pointers, error, counts and timer at zero, state 0 (R209 step 4, R210). -/
def zeroPair (s : State) (n : Nat) : State :=
  regPut (modPair s n fun x => { pairInit with phase := x.phase, clearRegs := x.clearRegs }) (oRing n 0x14) 1 1 0

/-- A drained pair's pointers at zero, state 0; completions not yet signalled stay pending (R210). -/
def drainedPair (s : State) (n : Nat) : State :=
  modPair s n fun x => { pairInit with phase := x.phase, clearRegs := x.clearRegs, pendCount := x.pendCount, pendSince := x.pendSince }

/-- A write of RNG_CMD is taken: reset_req first, then enable, which has no effect beside a reset (R189). -/
def takeRngCmd (s : State) (n v : Nat) : State :=
  let r := oRing n 0x14
  if bitOf v 1 then
    let s1 := if bitOf v 0 then s else regPut s r 0 0 0
    resetPair (regPut s1 r 1 1 1) n false
  else
    let s1 := regPut s r 0 0 (v % 2)
    if bitOf v 0 then enablePair s1 n else drainPair s1 n

/-- RING_ENABLE (R190). -/
def execRingEnable (path n : Nat) (s : State) : Answer :=
  onElement (okPath path && okPair n)
    (.next (writeNow s path (oRing n 0x14) (96 + pairHead n) 1 fun s => takeRngCmd s n 1))

/-- RING_DRAIN (R210). -/
def execRingDrain (path n : Nat) (s : State) : Answer :=
  onElement (okPath path && okPair n)
    (.next (writeNow s path (oRing n 0x14) (96 + pairHead n) 0 fun s => takeRngCmd s n 0))

/-- RING_RESET (R209). -/
def execRingReset (path n : Nat) (s : State) : Answer :=
  onElement (okPath path && okPair n)
    (.next (writeNow s path (oRing n 0x14) (96 + pairHead n) 2 fun s => takeRngCmd s n 2))

/-- RING_DRAIN_DONE: the last completion of a draining pair has been posted (R210). -/
def execRingDrainDone (n : Nat) (s : State) : Answer :=
  onElement (okPair n) <|
    let x := getPair s n
    if x.state = 3 ∧ x.draining ∧ descsOf s n = [] then .next (drainedPair s n) else .next s

/-! Doorbells (R193, R194). -/

/-- A doorbell write that is dropped counts (R193). -/
def dropDoorbell (s : State) (n : Nat) : State := scEvent s (oRing n 0x28) fun v => bumpBits v 23 16

/-- A head's doorbell write ends its hint and wakes the device (R213, R398). -/
def doorbellArrives (s : State) (path : Nat) : State := wakeDevice (if path < 4 then lapseHint s path else s)

/-- A doorbell write that the pair takes (R193). -/
def doorbell (s : State) (path n : Nat) (act : State → State) : State :=
  if !pathOpen s path then s
  else
    let s1 := doorbellArrives s path
    if (getPair s1 n).state = 1 ∧ path = pairHead n then act s1 else dropDoorbell s1 n

/-- A new submission tail (R194). -/
def takeTail (s : State) (n tail : Nat) : State :=
  if sqSize s n ≤ tail then stopPair s n 3 (getPair s n).sqHead else modPair s n fun x => { x with sqTail := tail }

/-- A new completion head (R194). -/
def takeHead (s : State) (n head : Nat) : State :=
  let x := getPair s n
  let size := cqSize s n
  let d := (head + size - x.cqHead) % size
  let c := if d = 0 ∧ x.posted = size then size else d
  if size ≤ head ∨ x.posted < c then stopPair s n 3 x.sqHead
  else modPair s n fun x => { x with cqHead := head, posted := x.posted - c }

/-- SQ_TAIL (R194). -/
def execSqTail (path n : Nat) (v : Word) (s : State) : Answer :=
  onElement (okPath path && okPair n) (.next (doorbell s path n fun s => takeTail s n (v.toNat % 65536)))

/-- CQ_HEAD (R194). -/
def execCqHead (path n : Nat) (v : Word) (s : State) : Answer :=
  onElement (okPath path && okPair n) (.next (doorbell s path n fun s => takeHead s n (v.toNat % 65536)))

/-! Fetching (R195, R207). -/

/-- The bytes a DMA read delivered, none where one did not arrive. -/
def hostBytes (host : List Host.Cell) (a : Nat) : Nat → Option (List Byte)
  | 0 => some []
  | n + 1 =>
    match host.find? fun c => c.1 == a with
    | none => none
    | some c => (hostBytes host (a + 1) n).map fun t => c.2 :: t

/-- A fetch failure (R207): the completion 0x0C names the slot, and the pair stops. On a ring with no free slot it is posted once the
consumer frees one (R201, log 90). -/
def fetchFailure (s : State) (n slot : Nat) : State :=
  let r := newDesc s n []
  stopPair (finishDesc r.2 r.1 ⟨0x0C, 0, slot, 0⟩) n 1 slot

/-- Fetching up to `k` submitted slots in order. -/
def fetchSlots (n : Nat) (host : List Host.Cell) : Nat → State → State
  | 0, s => s
  | k + 1, s =>
    let x := getPair s n
    if x.state ≠ 1 ∨ x.sqHead = x.sqTail then s
    else match hostBytes host (sqBase s n + 128 * x.sqHead) 128 with
      | none => fetchFailure s n x.sqHead
      | some b =>
        fetchSlots n host k (modPair s n fun x =>
          { x with fetched := x.fetched ++ [⟨x.sqHead, b⟩], sqHead := (x.sqHead + 1) % sqSize s n })

/-- DESCRIPTOR_FETCH: up to `k` slots arrive; a byte missing from `host` is a failed read (R195, R207). -/
def execDescriptorFetch (n k : Nat) (host : List Host.Cell) (s : State) : Answer :=
  onElement (okPair n) (.next (if dmaOpen s (pairHead n) then wakeDevice (fetchSlots n host k s) else s))

/-! Interrupts (R205, R479). -/

/-- The pair's message is sent; the count and timer clear (R205). -/
def signalPair (s : State) (n : Nat) : State :=
  sendMsix (modPair s n fun x => { x with pendCount := 0, pendSince := none }) (pairHead n) (regField s (oRing n 0x18) 13 8)

/-- COALESCE_TIMER (R205). -/
def execCoalesceTimer (n : Nat) (s : State) : Answer :=
  onElement (okPair n) <|
    let t := regField s (oRing n 0x1C) 25 16
    match (getPair s n).pendSince with
    | some a =>
      if bitOf (regGet s (oRing n 0x18)).toNat 14 && t != 0 && decide (a + 1000 * t ≤ s.now) then .next (signalPair s n) else .next s
    | none => .next s

/-- MSIX_PENDING_SEND: a message held pending goes out once all conditions hold (R479). -/
def execMsixPendingSend (h vec : Nat) (s : State) : Answer :=
  onElement (okHead h && decide (vec < 64)) <|
    let x := getHead s h
    if x.pba.contains vec && x.msix && msixOpen x vec && x.linkUp then
      .next (sendMsix (modHead s h fun y => { y with pba := y.pba.filter (· != vec) }) h vec)
    else .next s

end Sys2Proof.Machine
end

