-- ==== Sys2Proof/Machine/Operands.lean ====
section
/-! DEFINITION. Operand forms of descriptors: the header and body fields (R146, R197), addresses (R147), element types (R149, R150),
malformed descriptors (R206, R212) and the param checks (R148, R153 step 1, R176 to R178). -/

namespace Sys2Proof.Machine

/-! Fields. -/

def bOp (m : List Byte) : Nat := fieldLe m 0 1
def bFlags (m : List Byte) : Nat := fieldLe m 1 1
def bCid (m : List Byte) : Nat := fieldLe m 4 4
def bSrcA (m : List Byte) : Nat := fieldLe m 0x10 8
def bSrcB (m : List Byte) : Nat := fieldLe m 0x18 8
def bDst (m : List Byte) : Nat := fieldLe m 0x20 8
def bDstCap (m : List Byte) : Nat := fieldLe m 0x28 8
def bDst2 (m : List Byte) : Nat := fieldLe m 0x30 8
def bDst2Cap (m : List Byte) : Nat := fieldLe m 0x38 8
def bKeep (m : List Byte) : Nat := fieldLe m 0x40 8
def bKeepCap (m : List Byte) : Nat := fieldLe m 0x48 8
def bAux (m : List Byte) : Nat := fieldLe m 0x50 8
def bCount (m : List Byte) : Nat := fieldLe m 0x58 8
def bTypeA (m : List Byte) : Nat := fieldLe m 0x60 4
def bTypeB (m : List Byte) : Nat := fieldLe m 0x64 4
def bRowBase (m : List Byte) : Nat := fieldLe m 0x68 4
def bOpt (m : List Byte) : Nat := fieldLe m 0x6C 4
def bImm0 (m : List Byte) : Nat := fieldLe m 0x70 8
def bImm1 (m : List Byte) : Nat := fieldLe m 0x78 8

/-- Bytes of a hash table: 2 to the power imm0 slots of 64 bytes, imm0 at most 28 (R169). -/
def tableBytes (m : List Byte) : Nat := 64 * 2 ^ min 28 (bImm0 m)

/-- Flags of R198. -/
def bFence (m : List Byte) : Bool := bitOf (bFlags m) 0
def bChain (m : List Byte) : Bool := bitOf (bFlags m) 1
def bQuiet (m : List Byte) : Bool := bitOf (bFlags m) 2

/-! Addresses (R147). -/

/-- CHAIN: the intermediate of the previous operator. -/
def chainMark : Nat := 0xFFFFFFFFFFFFFFFF
def isChain (a : Nat) : Bool := a == chainMark
def isHost (a : Nat) : Bool := decide (2 ^ 63 ≤ a) && !isChain a
def isDev (a : Nat) : Bool := decide (0 < a) && decide (a < 2 ^ 63)

/-- An address of device or host memory with the bits that must be 0 at 0. -/
def addrOk (a : Nat) : Bool := isHost a || (isDev a && decide (a < 2 ^ 39))

/-- A range within the limits of R147. -/
def rangeOk (a n : Nat) : Bool := !isHost a && decide (a + n ≤ 2 ^ 39) || isHost a && decide (a + n ≤ chainMark)

/-! Element types (R149, R150). -/

def tyKind (t : Nat) : Nat := bits t 3 0
def tyWidth (t : Nat) : Nat := bits t 9 4

/-- The width suits the kind. -/
def typeOk (t : Nat) : Bool :=
  let w := tyWidth t
  match tyKind t with
  | 0 => w == 0
  | 1 | 2 | 3 => w == 1 || w == 2 || w == 4 || w == 8
  | 4 | 5 => decide (1 ≤ w ∧ w ≤ 32)
  | 6 => decide (1 ≤ w ∧ w ≤ 16)
  | _ => false

def isPacked (t : Nat) : Bool := tyKind t == 4 || tyKind t == 5
def isSigned (t : Nat) : Bool := tyKind t == 2 || tyKind t == 5
def isFloat (t : Nat) : Bool := tyKind t == 3

/-- Bits of one element in memory. -/
def elemBits (t : Nat) : Nat := if isPacked t then tyWidth t else 8 * tyWidth t

/-- Bytes of one element after widening: key and output width (R150, R158, R160). -/
def outWidth (t : Nat) : Nat :=
  if isPacked t then (if tyWidth t ≤ 8 then 1 else if tyWidth t ≤ 16 then 2 else 4) else tyWidth t

/-- Bytes of a column of `n` elements. -/
def colBytes (t n : Nat) : Nat := (n * elemBits t + 7) / 8

/-- Kinds 1 to 3 are aligned to their width (R148). -/
def colAligned (t a : Nat) : Bool := !(decide (1 ≤ tyKind t) && decide (tyKind t ≤ 3)) || a % tyWidth t == 0

/-- A column's type, alignment and range. -/
def colOk (t a n : Nat) : Bool := typeOk t && decide (1 ≤ tyKind t) && colAligned t a && rangeOk a (colBytes t n)

/-- Bytes of a bitmap of `n` bits (R156, R163). -/
def bitmapBytes (n : Nat) : Nat := (n + 511) / 512 * 64

/-- Bytes of a probe entry (R161). -/
def entryBytes (m : List Byte) : Nat := if bOpt m % 4 = 2 then 4 else 4 + (outWidth (bTypeB m) + 3) / 4 * 4

/-! Malformed descriptors (R206, R212). -/

/-- The place of a member in its chain. -/
structure Ctx where
  idx : Nat
  last : Bool
  prev : Option (List Byte)
  deriving DecidableEq, Repr

/-- The opcode of the member before. -/
def prevOp (c : Ctx) : Nat := (c.prev.map bOp).getD 0

def lone (c : Ctx) : Bool := c.idx == 0 && c.last

/-- Mask with bits `k - 1..0` set. -/
def lowMask (k : Nat) : Nat := 2 ^ k - 1

/-- The reserved bits of imm1: bit 63 is the keep form where this member keeps the selection of a SCAN (R178). -/
def imm1Reserved (c : Ctx) (m : List Byte) (used : Nat) : Nat :=
  lowMask 64 - used - (if c.last && bKeep m != 0 && prevOp c == 3 then 2 ^ 63 else 0)

/-- Reserved bits of a type word. -/
def typeReserved : Nat := lowMask 32 - lowMask 10

/-- Fields of an operator with the bits its table reserves (R154 to R165); keep and keep_cap belong to the param checks (R178). -/
def opFields (c : Ctx) (m : List Byte) : List (Nat × Nat) :=
  match bOp m with
  | 1 => [(0x20, 0), (0x58, 0), (0x70, 0)]
  | 2 => [(0x10, 0), (0x20, 0), (0x58, 0)]
  | 3 => [(0x10, 0), (0x20, 0), (0x28, 0), (0x30, 0), (0x38, 0), (0x50, 0), (0x58, 0), (0x60, typeReserved), (0x68, 0),
      (0x6C, lowMask 32 - 3)]
  | 4 => [(0x10, 0), (0x18, 0), (0x20, 0), (0x28, 0), (0x58, 0), (0x60, typeReserved), (0x78, imm1Reserved c m 0)]
  | 5 => [(0x10, 0), (0x18, 0), (0x20, 0), (0x28, 0), (0x58, 0), (0x60, typeReserved), (0x68, 0), (0x70, 0),
      (0x78, imm1Reserved c m 0)]
  | 6 => [(0x10, 0), (0x18, 0), (0x50, 0), (0x58, 0), (0x60, typeReserved), (0x64, typeReserved), (0x68, 0),
      (0x6C, lowMask 32 - 1), (0x70, lowMask 64 - 31), (0x78, imm1Reserved c m (lowMask 32))]
  | 7 => [(0x10, 0), (0x20, 0), (0x28, 0), (0x30, 0), (0x38, 0), (0x50, 0), (0x58, 0), (0x60, typeReserved),
      (0x64, typeReserved), (0x68, 0), (0x6C, lowMask 32 - 3), (0x70, lowMask 64 - 31), (0x78, imm1Reserved c m (lowMask 32))]
  | 8 => [(0x10, 0), (0x18, 0), (0x20, 0), (0x28, 0), (0x30, 0), (0x38, 0), (0x58, 0), (0x60, typeReserved),
      (0x64, typeReserved), (0x68, 0), (0x6C, lowMask 32 - 15), (0x78, imm1Reserved c m 0)]
  | 9 => [(0x10, 0), (0x18, 0), (0x20, 0), (0x28, 0), (0x58, 0), (0x6C, lowMask 32 - 3)]
  | 10 => [(0x10, 0), (0x58, 0), (0x70, lowMask 64 - lowMask 32)]
  | 11 => [(0x10, 0), (0x18, 0), (0x58, 0)]
  | _ => []

/-- The body of R146 by offset and width. -/
def bodyFields : List (Nat × Nat) :=
  [(0x10, 8), (0x18, 8), (0x20, 8), (0x28, 8), (0x30, 8), (0x38, 8), (0x40, 8), (0x48, 8), (0x50, 8), (0x58, 8), (0x60, 4),
    (0x64, 4), (0x68, 4), (0x6C, 4), (0x70, 8), (0x78, 8)]

/-- The body fields of an admin opcode, with widths and reserved bits (R212, R282, R285, R323, R341). -/
def adminFields (op : Nat) : List (Nat × Nat × Nat) :=
  let all := fun w => lowMask (8 * w)
  let rest := fun used => (bodyFields.filter fun e => !(used.any fun (u : Nat × Nat × Nat) => u.1 == e.1)).map fun e => (e.1, e.2, all e.2)
  let region := (rest [(0x10, 8, 0)]) ++ [(0x10, 1, 0xC0), (0x11, 7, all 7)]
  match op with
  | 0x40 => (region.filter fun e => e.1 != 0x20 && e.1 != 0x28)
  | 0x41 => region
  | 0x42 => let u := [(0x10, 8, 0), (0x58, 8, 0), (0x20, 8, 0)]; u ++ rest u
  | 0x43 => let u := [(0x10, 8, lowMask 64 - lowMask 18), (0x20, 8, 0), (0x28, 8, 0)]; u ++ rest u
  | 0x44 => let u := [(0x10, 8, 0), (0x58, 8, 0), (0x70, 8, lowMask 64 - lowMask 32), (0x6C, 4, lowMask 32 - 1)]; u ++ rest u
  | 0x45 | 0x46 => let u := [(0x70, 8, 0), (0x6C, 4, lowMask 32 - 1)]; u ++ rest u
  | 0x47 => let u := [(0x10, 8, 0), (0x58, 8, 0)]; u ++ rest u
  | 0x48 => let u := [(0x70, 8, lowMask 64 - lowMask 32), (0x78, 8, lowMask 64 - lowMask 32)]; u ++ rest u
  | _ => []

/-- The body fields of a member with their reserved bits, for its ring. -/
def reservedFields (admin : Bool) (c : Ctx) (m : List Byte) : List (Nat × Nat × Nat) :=
  if admin then adminFields (bOp m)
  else (bodyFields.filter fun e => e.1 != 0x40 && e.1 != 0x48).map fun e =>
    match (opFields c m).find? fun u => u.1 == e.1 with
    | some u => (e.1, e.2, u.2)
    | none => (e.1, e.2, lowMask (8 * e.2))

/-- The first offending offset of a malformed member, none where it is well formed (R206). -/
def malformedAt (admin : Bool) (c : Ctx) (m : List Byte) : Option Nat :=
  let op := bOp m
  let known := if admin then decide (0x40 ≤ op ∧ op ≤ 0x48) else decide (1 ≤ op ∧ op ≤ 11)
  if !known then some 0
  else if 8 ≤ bFlags m ∨ (bChain m ∧ (admin ∨ 3 ≤ c.idx)) then some 1
  else if fieldLe m 2 2 ≠ 0 then some 2
  else if fieldLe m 8 8 ≠ 0 then some 8
  else
    let bad := (reservedFields admin c m).filter fun e => fieldLe m e.1 e.2.1 &&& e.2.2 != 0
    bad.foldl (fun a e => some (match a with
      | none => e.1
      | some k => min k e.1)) none

/-! Param checks (R148, R153 step 1). Each list is in ascending offset; a joint requirement stands at its last field. -/

/-- A list output's address and area; absent only in a member that is not last, where it must be (R148, R177). -/
def listOut (c : Ctx) (a cap : Nat) (offA : Nat) : List (Nat × Bool) :=
  if c.last then [(offA, addrOk a && a % 64 == 0), (offA + 8, rangeOk a cap)] else [(offA, a == 0)]

/-- keep and keep_cap (R178): allowed in the last member behind a SCAN or HASH_PROBE. -/
def keepChecks (c : Ctx) (m : List Byte) : List (Nat × Bool) :=
  let k := bKeep m
  if c.last && (prevOp c == 3 || prevOp c == 7) && k != 0 then
    let bm := prevOp c == 3 && !bitOf (bImm1 m) 63
    let n := (c.prev.map bCount).getD 0
    [(0x40, addrOk k && k % 64 == 0),
      (0x48, if bm then decide (bitmapBytes n ≤ bKeepCap m) && rangeOk k (bitmapBytes n) else rangeOk k (bKeepCap m))]
  else [(0x40, k == 0), (0x48, bKeepCap m == 0)]

/-- The step from the member before is one of R176; it is judged at src_b, or at src_a where the consumer has none. -/
def pairingChecks (c : Ctx) (m : List Byte) : List (Nat × Bool) :=
  match c.prev with
  | none => []
  | some _ =>
    let p := prevOp c
    let op := bOp m
    let ok := (p == 3 && [4, 5, 6, 7, 8].contains op) || (p == 7 && op == 5)
    [(if [4, 5, 6, 8, 9, 11].contains op then 0x18 else 0x10, ok)]

/-- Behind a SCAN, count and row_base equal the SCAN's (R176). -/
def sameAsScan (c : Ctx) (m : List Byte) (row : Bool) : Bool :=
  match c.prev with
  | some p => bOp p != 3 || (if row then bRowBase m == bRowBase p else bCount m == bCount p)
  | none => true

/-- An element count (R148). -/
def countOk (n : Nat) : Bool := decide (n < 2 ^ 32)

/-- Row ids of a column stay within 32 bits (R148). -/
def rowsOk (m : List Byte) : Bool := decide (bRowBase m + bCount m ≤ 2 ^ 32)

/-- A mandatory input address of any alignment. -/
def mustHave (a : Nat) : Bool := addrOk a

/-- The param checks that an operator's own table adds (R154 to R165). -/
def opChecks (c : Ctx) (m : List Byte) : List (Nat × Bool) :=
  let n := bCount m
  let ta := bTypeA m
  let tb := bTypeB m
  let a := bSrcA m
  let b := bSrcB m
  let col := (0x60, colOk ta a n)
  match bOp m with
  | 1 => (if c.last then [(0x20, addrOk (bDst m) && bDst m % 64 == 0)] else [(0x20, bDst m == 0)]) ++
      [(0x58, n % 64 == 0 && decide (n ≤ 2 ^ 39) && (!c.last || rangeOk (bDst m) n))]
  | 2 => [(0x10, mustHave a && a % 64 == 0)] ++
      (if c.last then [(0x20, addrOk (bDst m) && bDst m % 64 == 0)] else [(0x20, bDst m == 0)]) ++
      [(0x58, n % 64 == 0 && decide (n ≤ 2 ^ 39) && rangeOk a n && (!c.last || rangeOk (bDst m) n))]
  | 3 =>
    let bm := bitOf (bOpt m) 0
    let rl := bitOf (bOpt m) 1
    [(0x10, mustHave a),
      (0x20, if bm && c.last then bDst m == 0 || (addrOk (bDst m) && bDst m % 64 == 0) else bDst m == 0),
      (0x28, (bm && c.last) || bDstCap m == 0),
      (0x30, if rl && c.last then bDst2 m == 0 || (addrOk (bDst2 m) && bDst2 m % 64 == 0) else bDst2 m == 0),
      (0x38, if rl && c.last then rangeOk (bDst2 m) (bDst2Cap m) else bDst2Cap m == 0),
      (0x50, bAux m == 0 || (addrOk (bAux m) && bAux m % 8 == 0 && rangeOk (bAux m) 520)),
      (0x58, countOk n && (!(bm && c.last) || (decide (bitmapBytes n ≤ bDstCap m) && rangeOk (bDst m) (bitmapBytes n)))),
      col, (0x68, rowsOk m),
      (0x6C, if c.last then (bm || rl) && (!bm || bDst m != 0) && (!rl || bDst2 m != 0) else bOpt m == 0)]
  | 4 => [(0x10, mustHave a), (0x18, if c.idx = 0 then mustHave b && b % 64 == 0 else isChain b)] ++
      listOut c (bDst m) (bDstCap m) 0x20 ++
      [(0x58, countOk n && sameAsScan c m false && (isChain b || rangeOk b (bitmapBytes n))), col]
  | 5 =>
    let w := outWidth ta
    [(0x10, mustHave a), (0x18, if c.idx = 0 then mustHave b && b % 4 == 0 else isChain b)] ++
      (if lone c then [(0x20, addrOk (bDst m) && bDst m % 64 == 0)] else listOut c (bDst m) (bDstCap m) 0x20) ++
      [(0x58, countOk n && (if c.idx = 0 then rangeOk b (4 * n) else n == 0)),
        (0x60, typeOk ta && decide (1 ≤ tyKind ta) && colAligned ta a &&
          (!lone c || (decide (n * w ≤ bDstCap m) && rangeOk (bDst m) (n * w)))),
        (0x70, decide (1 ≤ bImm0 m) && countOk (bImm0 m) && decide (bRowBase m + bImm0 m ≤ 2 ^ 32) &&
          rangeOk a (colBytes ta (bImm0 m)))]
  | 6 => [(0x10, mustHave a), (0x18, b == 0 || addrOk b), (0x50, bAux m != 0 && addrOk (bAux m) && bAux m % 64 == 0),
      (0x58, countOk n && sameAsScan c m false), col,
      (0x64, if b = 0 then tyKind tb == 1 && tyWidth tb == 4 else colOk tb b n),
      (0x68, rowsOk m && sameAsScan c m true),
      (0x70, decide (bImm0 m ≤ 28) && rangeOk (bAux m) (tableBytes m))]
  | 7 => [(0x10, mustHave a)] ++ listOut c (bDst m) (bDstCap m) 0x20 ++
      [(0x30, if c.last then bDst2 m == 0 || (addrOk (bDst2 m) && bDst2 m % 64 == 0) else bDst2 m == 0),
        (0x50, bAux m != 0 && addrOk (bAux m) && bAux m % 64 == 0),
        (0x58, countOk n && sameAsScan c m false &&
          (bDst2 m == 0 || (decide (bitmapBytes n ≤ bDst2Cap m) && rangeOk (bDst2 m) (bitmapBytes n)))),
        col, (0x64, typeOk tb && decide (1 ≤ tyKind tb)), (0x68, rowsOk m && sameAsScan c m true),
        (0x6C, bOpt m % 4 != 3), (0x70, decide (bImm0 m ≤ 28) && rangeOk (bAux m) (tableBytes m))]
  | 8 => [(0x10, a == 0 || addrOk a), (0x18, b == 0 || addrOk b)] ++ listOut c (bDst m) (bDstCap m) 0x20 ++
      [(0x30, bDst2 m == 0 || (c.last && isDev (bDst2 m) && addrOk (bDst2 m) && bDst2 m % 64 == 0)),
        (0x38, rangeOk (bDst2 m) (if bDst2 m = 0 then 0 else bDst2Cap m)),
        (0x58, countOk n && sameAsScan c m false),
        (0x60, if tyKind ta = 0 then typeOk ta && a == 0 else a != 0 && colOk ta a n),
        (0x64, if tyKind tb = 0 then typeOk tb && b == 0 else decide (tyKind tb ≤ 5) && b != 0 && colOk tb b n),
        (0x68, rowsOk m && sameAsScan c m true),
        (0x6C, bOpt m % 16 != 0 && (tyKind tb != 0 || bOpt m % 16 == 1))]
  | 9 => [(0x10, mustHave a && a % 64 == 0), (0x18, mustHave b && b % 64 == 0),
      (0x20, if c.last then addrOk (bDst m) && bDst m % 64 == 0 else bDst m == 0),
      (0x58, rangeOk a (bitmapBytes n) && rangeOk b (bitmapBytes n) &&
        (!c.last || (decide (bitmapBytes n ≤ bDstCap m) && rangeOk (bDst m) (bitmapBytes n))))]
  | 10 => [(0x10, mustHave a), (0x58, decide (n ≤ 2 ^ 39) && rangeOk a n)]
  | 11 => [(0x10, mustHave a), (0x18, mustHave b), (0x58, decide (n ≤ 2 ^ 39) && rangeOk a n && rangeOk b n)]
  | _ => []

/-- The lowest offset of a failing check. -/
def firstFail (l : List (Nat × Bool)) : Option Nat :=
  l.foldl (fun a e => if e.2 then a else some (match a with
    | none => e.1
    | some k => min k e.1)) none

/-- The field that the param status of a member names, none where every check passes (R153 step 1). -/
def paramFail (c : Ctx) (m : List Byte) : Option Nat := firstFail (pairingChecks c m ++ opChecks c m ++ keepChecks c m)

/-- The contexts of a chain's members. -/
def ctxs (ms : List (List Byte)) : List (Ctx × List Byte) :=
  (List.range ms.length).map fun i => (⟨i, i + 1 == ms.length, if i = 0 then none else ms[i - 1]?⟩, ms.getD i [])

/-- The first failing member and its field (R153 step 1: descriptors in ring order). -/
def chainParam (ms : List (List Byte)) : Option (Nat × Nat) :=
  (ctxs ms).findSome? fun e => (paramFail e.1 e.2).map fun o => (e.1.idx, o)

/-- A count of 0 in a lone operator or the first of a chain (R148). -/
def noWork (ms : List (List Byte)) : Bool := bCount (ms.headD []) == 0

end Sys2Proof.Machine
end

