-- ==== Sys2Proof/Machine/Sieve.lean ====
section
/-! DEFINITION. Sieve programs: the check of R185 and the run of one batch (R179 to R183). -/

namespace Sys2Proof.Machine

/-! The program object (R179) and instruction words (R181). -/

def prInsn (p : List Byte) (k : Nat) : Nat := fieldLe p (8 + 4 * k) 4
def prConst (p : List Byte) (k : Nat) : Nat := fieldLe p (0x108 + 16 * k) 16
def prCount (p : List Byte) : Nat := fieldLe p 0 1
def prConsts (p : List Byte) : Nat := fieldLe p 1 1

def inOp (w : Nat) : Nat := bits w 31 26
def inD (w : Nat) : Nat := bits w 25 23
def inA (w : Nat) : Nat := bits w 22 20
def inB (w : Nat) : Nat := bits w 19 17
def inImm (w : Nat) : Nat := bits w 16 0

/-- The bits below op that an instruction uses (R182), none for a reserved op. -/
def insnUsed (op : Nat) : Option Nat :=
  let d := 7 * 2 ^ 23
  let a := 7 * 2 ^ 20
  let b := 7 * 2 ^ 17
  match op with
  | 0 => some a
  | 1 => some (d + a + b + 7)
  | 2 => some (d + a + 0x7F)
  | 3 | 4 => some (d + a + 0xFF)
  | 5 | 6 | 7 | 8 | 0xA | 0xB | 0xC | 0xD => some (d + a + b)
  | 9 => some (d + a)
  | 0xE | 0xF => some (d + a + 0x3F)
  | 0x10 => some (d + 0xF)
  | 0x11 => some (d + a)
  | 0x12 => some (d + a + b + 7)
  | 0x13 => some d
  | 0x14 => some (d + 0x1FFFF)
  | 0x15 => some (d + a + b)
  | _ => none

/-- The highest constant index an instruction names, none where it names none. -/
def constTop (w : Nat) : Option Nat :=
  let i := inImm w
  match inOp w with
  | 2 => some (bits i 6 3)
  | 3 => some (max (bits i 3 0) (bits i 7 4))
  | 4 => some (bits i 3 0 + bits i 7 4)
  | 0x10 => some (bits i 3 0)
  | _ => none

/-- The lane kind allows the instruction (R182). -/
def laneAllows (t w : Nat) : Bool :=
  let op := inOp w
  if 0xA ≤ op ∧ op ≤ 0xD then tyKind t != 6 && !(isFloat t && tyWidth t == 1)
  else if op = 0xE ∨ op = 0xF then tyKind t != 6
  else true

/-- A shift whose immediate, read whole as the shift amount, is 128 or more (R185 reason 4, log 91). -/
def longShift (w : Nat) : Bool := (inOp w == 0xE || inOp w == 0xF) && decide (128 ≤ inImm w)

/-- The bits of an instruction that must be 0; the immediate of a long shift is judged by its amount. -/
def insnReserved (u w : Nat) : Nat := (w % 2 ^ 26) &&& (lowMask 26 - (if longShift w then u ||| lowMask 17 else u))

/-- The reason that refuses an instruction, none where it passes (R185). -/
def insnFault (t nConst w : Nat) : Option Nat :=
  match insnUsed (inOp w) with
  | none => some 2
  | some u =>
    if insnReserved u w ≠ 0 ∨ ((inOp w = 1 ∨ inOp w = 2) ∧ 6 ≤ inImm w % 8) then some 2
    else if longShift w then some 4
    else match constTop w with
      | some k => if nConst ≤ k then some 3 else if laneAllows t w then none else some 4
      | none => if laneAllows t w then none else some 4

/-- Checking instructions from `k` on: the faulty one with its reason, or a missing END (R185). -/
def insnsFault (t : Nat) (p : List Byte) : Nat → Nat → Option (Nat × Nat)
  | 0, _ => some (0xFF, 5)
  | n + 1, k =>
    match insnFault t (prConsts p) (prInsn p k) with
    | some r => some (k, r)
    | none => if inOp (prInsn p k) = 0 then none else insnsFault t p n (k + 1)

/-- The check of R185: the instruction index, or 0xFF for the header, and the reason. -/
def sieveFault (t : Nat) (p : List Byte) : Option (Nat × Nat) :=
  let n := prCount p
  if n < 1 ∨ 64 < n ∨ 16 < prConsts p ∨ fieldLe p 2 6 ≠ 0 then some (0xFF, 1) else insnsFault t p n 0

/-! Lanes (R180, R183). -/

/-- Lane width in bits. -/
def laneBits (t : Nat) : Nat := if tyKind t = 6 then 128 else 8 * outWidth t

/-- Elements of a full batch. -/
def batchSize (t : Nat) : Nat := 1024 / laneBits t

/-- A constant in a lane. -/
def laneConst (t : Nat) (p : List Byte) (k : Nat) : Nat :=
  if tyKind t = 6 then prConst p k % 2 ^ (8 * tyWidth t) else prConst p k % 2 ^ laneBits t

/-- The integer a lane stands for. -/
def laneInt (t v : Nat) : Int :=
  if isSigned t ∧ v.testBit (laneBits t - 1) then (v : Int) - (2 ^ laneBits t : Nat) else v

/-- A string lane as the number its bytes spell, byte 0 first (R150). -/
def strKey (v : Nat) : Nat := beNat (leBytes 16 v)

/-- Order of two lanes, none where unordered (R183). -/
def laneCmp (t a b : Nat) : Option Ordering :=
  if isFloat t then floatCmp (floatVal (tyWidth t) a) (floatVal (tyWidth t) b)
  else if tyKind t = 6 then some (compare (strKey a) (strKey b))
  else some (compare (laneInt t a) (laneInt t b))

/-- A condition of R182 on two lanes; unordered values meet NE alone. -/
def laneCond (t cond a b : Nat) : Bool :=
  match laneCmp t a b with
  | none => cond == 1
  | some o =>
    match cond with
    | 0 => o == .eq
    | 1 => o != .eq
    | 2 => o == .lt
    | 3 => o != .gt
    | 4 => o == .gt
    | _ => o != .lt

/-- ADD, SUB, MIN and MAX on one lane (R182, R183). -/
def laneArith (t op a b : Nat) : Nat :=
  let m := 2 ^ laneBits t
  if isFloat t then
    let w := tyWidth t
    if op = 0xA then floatAdd w a b else if op = 0xB then floatSub w a b else if op = 0xC then floatMin w a b else floatMax w a b
  else if op = 0xA then (a + b) % m
  else if op = 0xB then (a + m - b) % m
  else if op = 0xC then (if laneInt t b < laneInt t a then b else a)
  else (if laneInt t a < laneInt t b then b else a)

/-- The registers of a batch: eight vectors of the valid lanes, eight scalars. -/
structure Sieve where
  v : List (List Nat)
  s : List Nat
  deriving DecidableEq, Repr

def vGet (r : Sieve) (i : Nat) : List Nat := r.v.getD i []
def sGet (r : Sieve) (i : Nat) : Nat := natAt r.s i
def vPut (r : Sieve) (i : Nat) (l : List Nat) : Sieve := { r with v := r.v.set i l }

/-- A mask lane. -/
def maskLane (t : Nat) (b : Bool) : Nat := if b then lowMask (laneBits t) else 0

/-- One instruction other than END (R182). -/
def sieveInsn (t : Nat) (p : List Byte) (r : Sieve) (w : Nat) : Sieve :=
  let d := inD w
  let a := vGet r (inA w)
  let b := vGet r (inB w)
  let i := inImm w
  let ones := lowMask (laneBits t)
  let ab := a.zip b
  match inOp w with
  | 1 => vPut r d (ab.map fun e => maskLane t (laneCond t (i % 8) e.1 e.2))
  | 2 => vPut r d (a.map fun x => maskLane t (laneCond t (i % 8) x (laneConst t p (bits i 6 3))))
  | 3 => vPut r d (a.map fun x =>
      maskLane t (laneCond t 5 x (laneConst t p (bits i 3 0)) && laneCond t 3 x (laneConst t p (bits i 7 4))))
  | 4 => vPut r d (a.map fun x =>
      maskLane t ((List.range (bits i 7 4 + 1)).any fun j => laneCond t 0 x (laneConst t p (bits i 3 0 + j))))
  | 5 => vPut r d (ab.map fun e => e.1 &&& e.2)
  | 6 => vPut r d (ab.map fun e => e.1 ||| e.2)
  | 7 => vPut r d (ab.map fun e => e.1 ^^^ e.2)
  | 8 => vPut r d (ab.map fun e => e.1 &&& (ones ^^^ e.2))
  | 9 => vPut r d (a.map fun x => ones ^^^ x)
  | 0xA | 0xB | 0xC | 0xD => vPut r d (ab.map fun e => laneArith t (inOp w) e.1 e.2)
  | 0xE => vPut r d (a.map fun x => if laneBits t ≤ i % 64 then 0 else x / 2 ^ (i % 64))
  | 0xF => vPut r d (a.map fun x => if laneBits t ≤ i % 64 then 0 else x * 2 ^ (i % 64) % 2 ^ laneBits t)
  | 0x10 => vPut r d (a.map fun _ => laneConst t p (i % 16))
  | 0x11 => vPut r d ((vGet r 0).map fun _ => sGet r (inA w) % 2 ^ laneBits t)
  | 0x12 => vPut r d ((a.zip (b.zip (vGet r (i % 8)))).map fun e => if e.1 ≠ 0 then e.2.1 else e.2.2)
  | 0x13 => vPut r d ((List.range (vGet r 0).length).map fun k => (sGet r 0 + k) % 2 ^ laneBits t)
  | 0x14 => { r with s := r.s.set d (if i < 2 ^ 16 then i else i + 2 ^ 64 - 2 ^ 17) }
  | 0x15 => { r with s := r.s.set d ((sGet r (inA w) + sGet r (inB w)) % 2 ^ 64) }
  | _ => r

/-- Running to END: which valid lanes are selected, and the registers then. -/
def sieveRun (t : Nat) (p : List Byte) : Nat → Nat → Sieve → List Bool × Sieve
  | 0, _, r => ((vGet r 0).map fun _ => false, r)
  | n + 1, k, r =>
    let w := prInsn p k
    if inOp w = 0 then ((vGet r (inA w)).map fun x => x != 0, r) else sieveRun t p n (k + 1) (sieveInsn t p r w)

/-- The registers at the start of a batch (R180): zeros but V0, S0 and S1. -/
def sieveStart (elems : List Nat) (row : Nat) : Sieve :=
  let z := elems.map fun _ => 0
  ⟨[elems, z, z, z, z, z, z, z], [row, elems.length, 0, 0, 0, 0, 0, 0]⟩

/-- The selection of one batch, and the registers at its END. -/
def sieveBatch (t : Nat) (p : List Byte) (elems : List Nat) (row : Nat) : List Bool × Sieve :=
  sieveRun t p (prCount p) 0 (sieveStart elems row)

/-- The 1024 bits of a vector register: lane 0 lowest; the lanes beyond the valid ones hold nothing and stand as 0 (R180, R186). -/
def packLanes (t : Nat) (l : List Nat) : BitVec 1024 :=
  BitVec.ofNat 1024 ((l.zipIdx.map fun e => e.1 * 2 ^ (e.2 * laneBits t)).sum)

/-- The mill's registers as a batch leaves them (R116). -/
def keepSieve (t : Nat) (r : Sieve) (x : Mill) : Mill :=
  { x with
    scalars := (List.range 8).foldl (fun a i => tabSet 0 a i (BitVec.ofNat 64 (sGet r i))) x.scalars
    vectors := (List.range 8).foldl (fun a i => tabSet 0 a i (packLanes t (vGet r i))) x.vectors }

end Sys2Proof.Machine
end

