-- ==== Sys2Proof/Machine/Dispatcher.lean ====
section
/-! DEFINITION. The ring dispatcher: arbitration (R199 to R201), the checks before start (R153), splitting (R125, R157), placing
parts (R126, R133, R134), starting and ending them (R117, R122, R128) and the completion of operators (R130, R152). -/

namespace Sys2Proof.Machine

/-! Mills in dispatch (R133, R134). -/

/-- The mill is disabled (R139, R143, R144). -/
def millOff (s : State) (m : Nat) : Bool := (getMill s m).disabled || (getMill s m).failed

/-- Every mill is disabled (R134, R139). -/
def allOff (s : State) : Bool := (List.range 32).all (millOff s)

/-- Nothing but a logic slice keeps the mill out of dispatch. -/
def millTakes (s : State) (m : Nat) : Bool :=
  let x := getMill s m
  bitOf (regGet s (oMil m 0)).toNat 0 && !millOff s m && !x.swapPending && x.recovering.isEmpty && !x.testing

/-- The mill is in dispatch. -/
def inDispatch (s : State) (m : Nat) : Bool := millTakes s m && !(getMill s m).slice

/-- The mill with the fewest queued parts, the lowest-numbered on ties (R125, R134). -/
def fewest (s : State) (ms : List Nat) : Option Nat :=
  ms.foldl (fun a m => match a with
    | none => some m
    | some b => if (getMill s m).queue.length < (getMill s b).queue.length then some m else some b) none

/-- Where R134 places a part homed on mill `m`: its quadrant first, then the whole device. -/
def placeFor (s : State) (m : Nat) : Option Nat :=
  match fewest s ((List.range 32).filter fun k => inDispatch s k && quadrant k == quadrant m) with
  | some k => some k
  | none => fewest s ((List.range 32).filter (inDispatch s))

/-- A part waits in the part store, which is kept in the order of creation (R126). -/
def storePart (s : State) (p : Nat) : State := { s with partStore := insertNat p s.partStore }

/-- A part joins the queue of a mill in the order of creation, or the part store where the queue holds 16 parts or older ones wait for
it (R117, R126). -/
def queuePart (s : State) (p m : Nat) : State :=
  let s1 := modPart s p fun x => { x with home := m }
  let waits := s1.partStore.any fun q => decide (q < p) && match getPart s1 q with
    | some x => x.home == m
    | none => false
  if (getMill s1 m).queue.length < 16 ∧ waits = false then modMill s1 m fun x => { x with queue := insertNat p x.queue }
  else storePart s1 p

/-- A part that has not started ends with a status (R134). -/
def failPart (s : State) (p status : Nat) : State :=
  match getPart s p with
  | none => s
  | some x =>
    let s1 := modPart s p fun x => { x with ended := true, status := some status, resA := 0, resB := 0 }
    match getDesc s1 x.did with
    | some d => forAll s1 (d.parts.filter (· != p)) stopPart
    | none => s1

/-- Placing a part on its home mill, or under R133 and R134. -/
def placePart (s : State) (p : Nat) : State :=
  match getPart s p with
  | none => s
  | some x =>
    if x.ended then s
    else if millTakes s x.home then queuePart s p x.home
    else match placeFor s x.home with
      | some m => queuePart s p m
      | none => if allOff s then failPart s p 7 else storePart s p

/-- The part store moves what it can into the queues, in creation order (R126, R134). -/
def refillMills (s : State) : State :=
  let ps := s.partStore
  ps.foldl placePart { s with partStore := [] }

/-- A mill leaves dispatch: its parts that have not started are placed again (R134). -/
def leaveDispatch (s : State) (m : Nat) : State :=
  let ps := (getMill s m).queue
  let s1 := modMill s m fun x => { x with queue := [] }
  refillMills (ps.foldl placePart s1)

/-! Splitting (R125, R157). -/

/-- The address of the split range, the number of units, and the bit offset of unit `i` (R145, R157). -/
def splitOf (m : List Byte) : Nat × Nat × (Nat → Nat) :=
  let n := bCount m
  let group := fun i => i / 8 * 8 * elemBits (bTypeA m)
  match bOp m with
  | 1 | 2 => (bDst m, n / 64, fun i => 512 * i)
  | 3 | 4 | 7 => (bSrcA m, n, group)
  | 5 => (bSrcB m, n, fun i => 32 * i)
  | 6 => (bSrcA m, n, fun i => i * elemBits (bTypeA m))
  | 8 => if bSrcA m = 0 then (bSrcB m, n, fun i => i * elemBits (bTypeB m)) else (bSrcA m, n, fun i => i * elemBits (bTypeA m))
  | 9 => (bDst m, n, fun i => i / 8 * 8)
  | _ => (bSrcA m, n, fun i => 8 * i)

/-- The flume of a device address, none in no live region. -/
def flumeAt (s : State) (dpa : Nat) : Option Nat := (regionAt s dpa).map fun i => (faOf (regionWord s i) dpa).1

/-- Bits of one unit of the split range. -/
def splitBits (m : List Byte) : Nat :=
  match bOp m with
  | 1 | 2 => 512
  | 3 | 4 | 6 | 7 => elemBits (bTypeA m)
  | 5 => 32
  | 8 => if bSrcA m = 0 then elemBits (bTypeB m) else elemBits (bTypeA m)
  | 9 => 1
  | _ => 8

/-- A flume holds a piece of the split range at `a`: the first or the last byte of some unit lies in it (R125). -/
def holdsPiece (s : State) (m : List Byte) (a n f : Nat) : Bool :=
  let w := splitBits m
  (List.range n).any fun i => flumeAt s (a + i * w / 8) == some f || flumeAt s (a + (i * w + w - 1) / 8) == some f

/-- The runs of units from `i` on, `n` of them, that an owner function gives to flume `f`. -/
def runsFrom (own : Nat → Option Nat) (f : Nat) : Nat → Nat → List (Nat × Nat)
  | 0, _ => []
  | n + 1, i =>
    let t := runsFrom own f n (i + 1)
    if own i = some f then
      match t with
      | (a, b) :: r => if a = i + 1 then (i, b) :: r else (i, i + 1) :: t
      | [] => [(i, i + 1)]
    else t

/-- The parts of a descriptor or chain: flume and unit ranges; one part without a flume for a host split or none (R125, R162). A flume
that holds a piece and begins no element has a part with nothing to do (R157). -/
def splitParts (s : State) (ms : List (List Byte)) : List (Option Nat × List (Nat × Nat)) :=
  let (a, n, off) := splitOf (ms.headD [])
  if !isDev a then [(none, [(0, n)])]
  else
    let own := fun i => flumeAt s (a + off i / 8)
    (List.range 32).filterMap fun f =>
      let r := runsFrom own f n 0
      if r.isEmpty && !holdsPiece s (ms.headD []) a n f then none else some (some f, r)

/-! Checks (R153). -/

/-- A range of a descriptor: body offset, address, bytes. -/
abbrev Range := Nat × Nat × Nat

/-- Input and output ranges of a member (R127, R153 step 3). -/
def opRanges (c : Ctx) (m : List Byte) : List Range × List Range :=
  let n := bCount m
  let a : Range := (0x10, bSrcA m, colBytes (bTypeA m) n)
  let b : Range := (0x18, bSrcB m, colBytes (bTypeB m) n)
  let dst : Range := (0x20, bDst m, bDstCap m)
  let dst2 : Range := (0x30, bDst2 m, bDst2Cap m)
  let bm := bitmapBytes n
  let table : Range := (0x50, bAux m, tableBytes m)
  let scanBits := bitmapBytes ((c.prev.map bCount).getD 0)
  let keep : List Range :=
    if bKeep m = 0 then [] else [(0x40, bKeep m, if prevOp c = 3 ∧ bitOf (bImm1 m) 63 = false then scanBits else bKeepCap m)]
  let r : List Range × List Range := match bOp m with
    | 1 => ([], [(0x20, bDst m, n)])
    | 2 => ([(0x10, bSrcA m, n)], [(0x20, bDst m, n)])
    | 3 => ([a, (0x50, bAux m, 520)], [(0x20, bDst m, bm), dst2])
    | 4 => ([a, (0x18, bSrcB m, bm)], [dst])
    | 5 => ([(0x10, bSrcA m, colBytes (bTypeA m) (bImm0 m)), (0x18, bSrcB m, 4 * n)],
        [if lone c then (0x20, bDst m, n * outWidth (bTypeA m)) else dst])
    | 6 => ([a, b], [table])
    | 7 => ([a, table], [dst, (0x30, bDst2 m, bm)])
    | 8 => ([a, b], [dst, dst2])
    | 9 => ([(0x10, bSrcA m, bm), (0x18, bSrcB m, bm)], [(0x20, bDst m, bm)])
    | 10 => ([(0x10, bSrcA m, n)], [])
    | _ => ([(0x10, bSrcA m, n), (0x18, bSrcB m, n)], [])
  let dev : Range → Bool := fun e => isDev e.2.1 && decide (0 < e.2.2)
  (r.1.filter dev, (r.2 ++ keep).filter dev)

/-- The addresses of a range at which a region may begin. -/
def rangePoints (a n : Nat) : List Nat :=
  a :: ((List.range 2048).map fun k => k * mib256).filter fun p => decide (a < p) && decide (p < a + n)

/-- The cause an address is refused for, none where it may be used (R35, R153 step 3, R267). -/
def addrCause (s : State) (h : Nat) (out : Bool) (dpa : Nat) : Option Nat :=
  match regionAt s dpa with
  | none => some 1
  | some i =>
    let e := regionWord s i
    if !bitOf (rgHeads e) h then some 3
    else if out && (!rgMillWrite e || (rgMode e != 0 && rgSecondary e)) then some 2
    else none

/-- The first offending address of a range with its cause. -/
def rangeFault (s : State) (h : Nat) (out : Bool) (a n : Nat) : Option (Nat × Nat) :=
  (rangePoints a n).findSome? fun p => (addrCause s h out p).map fun k => (p, k)

/-- Access faults of a member in ascending body offset. -/
def memberFault (s : State) (h : Nat) (c : Ctx) (m : List Byte) : Option (Nat × Nat) :=
  let r := opRanges c m
  (List.range 0x80).findSome? fun o =>
    match (r.1.filter fun e => e.1 == o).findSome? fun e => rangeFault s h false e.2.1 e.2.2 with
    | some x => some x
    | none => (r.2.filter fun e => e.1 == o).findSome? fun e => rangeFault s h true e.2.1 e.2.2

/-- The region entries that a list of ranges names (R29). -/
def rangeUses (s : State) (rs : List Range) : List Nat :=
  rs.foldl (fun l e => (rangePoints e.2.1 e.2.2).foldl (fun l p => match regionAt s p with
    | some i => insertNat i l
    | none => l) l) []

/-- The first output range that overlaps an input range (R127). -/
def overlapOf (ins outs : List Range) : Option (Nat × Nat) :=
  outs.findSome? fun o => (ins.find? fun i => decide (o.2.1 < i.2.1 + i.2.2) && decide (i.2.1 < o.2.1 + o.2.2)).map fun i => (o.1, i.1)

/-- A 64-byte unit in flight: its data and its mark (R99). -/
structure Unit64 where
  data : Nat
  poison : Bool
  deriving DecidableEq, Repr

/-- Reading a 64-byte unit by its address over 64: host units that did not arrive wholly are marked, and their data are free (R99, R153);
device lines in no live region read poisoned (R31). -/
def readUnit (s : State) (env : OpEnv) (k : Nat) : Unit64 × State :=
  let a := 64 * k
  if 2 ^ 63 ≤ a then
    match hostBytes env.host (a - 2 ^ 63) 64 with
    | some b => (⟨leNat b, false⟩, s)
    | none => (⟨lostData s, true⟩, bumpFree s)
  else match regionAt s a with
    | none => (⟨lostData s, true⟩, bumpFree s)
    | some i =>
      let l := lineOf (regionWord s i) a
      let g := readLine s l.1 l.2 k i env true
      (⟨g.1.data, g.1.poison⟩, g.2)

/-- Units read so far, by address over 64. -/
abbrev Units := List (Nat × Unit64)

/-- Reading each listed unit once. -/
def readUnits (s : State) (env : OpEnv) (ks : List Nat) : Units × State :=
  ks.foldl (fun a k => let r := readUnit a.2 env k; (a.1 ++ [(k, r.1)], r.2)) ([], s)

def unitAt (u : Units) (k : Nat) : Unit64 := ((u.find? fun e => e.1 == k).map (·.2)).getD ⟨0, false⟩

/-- Units that hold `n` bits from bit `b`. -/
def unitsOf (b n : Nat) : List Nat := if n = 0 then [] else upFrom (b / 512) ((b + n - 1) / 512 - b / 512 + 1)

/-- `n` bits from bit address `b`, at most 512. -/
def bitsFrom (u : Units) (b n : Nat) : Nat :=
  ((unitAt u (b / 512)).data / 2 ^ (b % 512) + (unitAt u (b / 512 + 1)).data * 2 ^ (512 - b % 512)) % 2 ^ n

/-- The lowest marked unit among those that hold `n` bits from bit `b`. -/
def poisonIn (u : Units) (b n : Nat) : Option Nat := (unitsOf b n).find? fun k => (unitAt u k).poison

/-- `n` bytes at address `a` from the units read. -/
def bytesFrom (u : Units) (a n : Nat) : List Byte :=
  (List.range n).map fun i => BitVec.ofNat 8 (bitsFrom u (8 * (a + i)) 8)

/-- res_a and res_b of a poison status: a device line by its DPA, a host unit by its host address with bit 0 of res_b (R152). -/
def poisonRes (k : Nat) : Nat × Nat := if 2 ^ 63 ≤ 64 * k then (64 * k - 2 ^ 63, 1) else (64 * k, 0)

/-- Step 2 of R153: the program's region, its read and its one check (R185). -/
inductive SieveStep where
  | refused (r : Result)
  | passed (program : List Byte)
  deriving DecidableEq, Repr

/-- What step 2 comes to: the result that ends the descriptor, or the program that its parts run. -/
def sieveStep (s : State) (h : Nat) (env : OpEnv) (m : List Byte) : SieveStep × State :=
  if bOp m ≠ 3 ∨ bAux m = 0 then (.passed [], s)
  else match (if isDev (bAux m) then rangeFault s h false (bAux m) 520 else none) with
    | some (a, k) => (.refused ⟨5, 0, a, k⟩, s)
    | none =>
      let r := readUnits s env (unitsOf (8 * bAux m) (8 * 520))
      match poisonIn r.1 (8 * bAux m) (8 * 520) with
      | some k => (.refused ⟨1, 0, (poisonRes k).1, (poisonRes k).2⟩, r.2)
      | none =>
        let p := bytesFrom r.1 (bAux m) 520
        match sieveFault (bTypeA m) p with
        | some (i, w) => (.refused ⟨9, 0, i, w⟩, r.2)
        | none => (.passed p, r.2)

/-- The results a count of 0 gives (R148). -/
def emptyResult (m : List Byte) : Result :=
  ⟨0, 0, if bOp m = 10 then bImm0 m else if bOp m = 11 then chainMark else 0, 0⟩

/-- An AGGREGATE of more than one part that names no spill area (R162). -/
def spillMissing (s : State) (ms : List (List Byte)) : Bool :=
  let m := ms.getLast?.getD []
  bOp m == 8 && bDst2 m == 0 && decide (1 < (splitParts s ms).length)

/-- The field that a missing spill area names: the last of those that the requirement joins (R153 step 1). -/
def spillField (ms : List (List Byte)) : Nat :=
  if 1 < ms.length then 0x30 else if tyKind (bTypeA (ms.getLast?.getD [])) = 0 then 0x64 else 0x60

/-- The field that the param status of a chain names, the spill area's in its place among the last member's (R153 step 1). -/
def paramField (s : State) (ms : List (List Byte)) : Option Nat :=
  match chainParam ms with
  | some (i, o) => if i + 1 = ms.length ∧ spillField ms < o ∧ spillMissing s ms then some (spillField ms) else some o
  | none => if spillMissing s ms then some (spillField ms) else none

/-- All ranges of a chain. -/
def chainRanges (ms : List (List Byte)) : List Range × List Range :=
  (ctxs ms).foldl (fun a e => let r := opRanges e.1 e.2; (a.1 ++ r.1, a.2 ++ r.2)) ([], [])

/-- Steps 3 to 5 of R153, and a count of 0 (R148): the result that ends the chain, none where its parts are to be created. -/
def lateChecks (s : State) (h : Nat) (ms : List (List Byte)) : Option Result :=
  match (ctxs ms).findSome? fun e => memberFault s h e.1 e.2 with
  | some (a, k) => some ⟨5, 0, a, k⟩
  | none =>
    let r := chainRanges ms
    match overlapOf r.1 r.2 with
    | some (o, i) => some ⟨6, 0, o, i⟩
    | none => if noWork ms then some (emptyResult (ms.headD [])) else if allOff s then some ⟨7, 0, 0, 0⟩ else none

/-- The checks of R153 on a chain: the result that ends it, or the program that its parts run. -/
def checkChain (s : State) (h : Nat) (env : OpEnv) (ms : List (List Byte)) : SieveStep × State :=
  match paramField s ms with
  | some o => (.refused ⟨8, 0, o, 0⟩, s)
  | none =>
    let v := sieveStep s h env (ms.headD [])
    match v.1 with
    | .refused _ => v
    | .passed p => match lateChecks v.2 h ms with
      | some r => (.refused r, v.2)
      | none => (.passed p, v.2)

/-! Lines that can be read and written now (R59, R87, R398). -/

/-- The flumes of the regions that a list of ranges lies in. -/
def rangeFlumes (s : State) (rs : List Range) : List Nat :=
  (rangeUses s rs).foldl (fun l i =>
    (upFrom (rgFirst (regionWord s i)) (2 ^ rgLog (regionWord s i))).foldl (fun l f => insertNat f l) l) []

/-- A line of the ranges lies in a bank that its retention scrub keeps out of service (R87). -/
def rangeScrubbed (s : State) (rs : List Range) : Bool :=
  (s.banks.any fun e => e.2.scrubbing) &&
    rs.any fun e => (unitsOf (8 * e.2.1) (8 * e.2.2)).any fun k => match regionAt s (64 * k) with
      | some i =>
        let l := lineOf (regionWord s i) (64 * k)
        let c := coordOf s l.1 l.2
        (getBank s (bankKey l.1 c.sc c.tier c.bank)).scrubbing
      | none => false

/-- Reading and writing the ranges: every flume takes requests and no line waits for a scrub; otherwise the command waits, and
flumes below Trim are woken (R398; DESIGN CHOICE, log 92). -/
def whenOpen (s : State) (rs : List Range) (act : State → State) : Answer :=
  let shut := (rangeFlumes s rs).filter fun f => !flumeOpen s f
  if !shut.isEmpty then .next (forAll s shut wakeFlume)
  else if rangeScrubbed s rs then .next s
  else .next (act s)

/-! Starting. -/

/-- Creating one part of a descriptor and placing it (R125, R126). -/
def createPart (did : Nat) (merge : Bool) (s : State) (e : Option Nat × List (Nat × Nat)) : State :=
  let home := match e.1 with
    | some f => f
    | none => ((fewest s ((List.range 32).filter (inDispatch s))).getD 0)
  let p : Part := ⟨did, e.2, home, 0, .none, none, 0, 0, none, none, 0, s.now, false, false, false, merge, false, false, false, 0⟩
  let id := s.nextPart
  let s1 := putPart { s with nextPart := id + 1 } id (some p)
  placePart (modDesc s1 did fun d => { d with parts := d.parts ++ [id] }) id

/-- The slots of the next descriptor or chain of a pair, none while its last member is not fetched (R198). -/
def nextChain (x : Pair) : Option (List Slot) :=
  let n := (x.fetched.takeWhile fun t => bChain t.body).length
  let k := min 4 (n + 1)
  if k ≤ x.fetched.length then some (x.fetched.take k) else none

/-- A pair's admin ring: pair 0 of its head (R187). -/
def isAdmin (n : Nat) : Bool := n % 64 == 0

/-- On an admin ring each slot stands alone. -/
def nextUnit (s : State) (n : Nat) : Option (List Slot) :=
  if isAdmin n then (getPair s n).fetched.head?.map fun t => [t] else nextChain (getPair s n)

/-- Entries of the region table that a region write has been checked for and is to change as its completion is posted (R28). -/
def changingEntries (s : State) : List Nat :=
  s.descs.filterMap fun e => match e.2 with
    | some d => if d.work = 6 then some (natAt d.prog 0) else none
    | none => none

/-- A chain names an entry that such a write is to change: it starts after that write (R28, R29; DESIGN CHOICE, log 96). -/
def entryChanging (s : State) (n : Nat) (ts : List Slot) : Bool :=
  let l := changingEntries s
  !l.isEmpty && !isAdmin n &&
    let r := chainRanges (ts.map fun t => t.body)
    (rangeUses s (r.1 ++ r.2)).any l.contains

/-- The dispatcher may start the pair's next descriptor (R199 to R201), outside Feather and deeper (R391) and the safe state (R427). -/
def pairReady (s : State) (n : Nat) : Bool :=
  let x := getPair s n
  x.state == 1 && !s.flt.safe && decide (s.pwr.dstate ≤ 1) && s.pwr.entering.isNone &&
    (match nextUnit s n with
     | some ts => (!(ts.any fun t => bFence t.body) || (descsOf s n).isEmpty) && !entryChanging s n ts
     | none => false) &&
    decide ((descsOf s n).length < 64) && decide (s.descs.length < 1024) && decide (x.posted + x.reserved < cqSize s n)

/-- Weight of a pair, at least 1 (R189). -/
def pairWeight (s : State) (n : Nat) : Nat := max 1 (regField s (oRing n 0x18) 7 4)

/-- The pair the dispatcher serves next (R199). -/
def servedPair (s : State) : Option Nat :=
  match [0, 64, 128, 192].find? (pairReady s) with
  | some n => some n
  | none =>
    let ring := fun n => !isAdmin n && pairReady s n
    if ring s.rr && decide ((getPair s s.rr).visit < pairWeight s s.rr) then some s.rr
    else ((upFrom 1 256).map fun i => (s.rr + i) % 256).find? ring

/-- A visit counts; another pair's visit begins (R199). -/
def noteVisit (s : State) (n : Nat) : State :=
  if isAdmin n then s
  else
    let k := if s.rr = n ∧ (getPair s n).visit < pairWeight s n then (getPair s n).visit else 0
    modPair { s with rr := n } n fun x => { x with visit := k + 1 }

/-- Starting the slots of a descriptor or chain: malformed (R206), refused by a check, or with its parts created. -/
def startUnit (s : State) (n : Nat) (env : OpEnv) (ts : List Slot) : State :=
  let ms := ts.map fun t => t.body
  let s1 := noteVisit (modPair s n fun x => { x with fetched := x.fetched.drop ts.length }) n
  match (ts.zip (ctxs ms)).findSome? fun e => (malformedAt (isAdmin n) e.2.1 e.2.2).map fun o => (e.1, o) with
  | some (t, o) =>
    let r := newDesc s1 n [t.body]
    stopPair (finishDesc r.2 r.1 ⟨0x0B, 0, o, 0⟩) n 2 t.idx
  | none =>
    let r := newDesc s1 n ms
    if isAdmin n then r.2
    else
      let v := checkChain r.2 (pairHead n) env ms
      match v.1 with
      | .refused res => finishDesc v.2 r.1 res
      | .passed p =>
        let rs := chainRanges ms
        let s2 := modDesc v.2 r.1 fun d => { d with uses := rangeUses v.2 (rs.1 ++ rs.2), program := p }
        (splitParts s2 ms).foldl (createPart r.1 false) s2

/-- A sieve program in host memory waits for its DMA (R225). -/
def needsHost (ts : List Slot) : Bool := ts.any fun t => bOp t.body == 3 && isHost (bAux t.body)

/-- The sieve programs in device memory that a start reads (R153 step 2). -/
def programRanges (n : Nat) (ts : List Slot) : List Range :=
  if isAdmin n then [] else (ts.filter fun t => bOp t.body == 3 && isDev (bAux t.body)).map fun t => (0x50, bAux t.body, 520)

/-- DESCRIPTOR_START (R31, R153, R199). -/
def execDescriptorStart (n : Nat) (env : OpEnv) (s : State) : Answer :=
  onElement (okPair n) <|
    match servedPair s, nextUnit s n with
    | some k, some ts =>
      if k = n ∧ (needsHost ts = false ∨ dmaOpen s (pairHead n) = true) then
        whenOpen s (programRanges n ts) fun s => startUnit (lookups s env) n env ts
      else .next s
    | _, _ => .next s

/-! Parts (R117, R122, R126, R128). -/

/-! The hopper (R121, R122): units of 64 bytes; where in its segment an item lies is the model's choice (log 41). -/

/-- The first units of the stream-in buffer, output staging, control, chain buffers and workspace. -/
def hopStream : Nat := 0
def hopStaging : Nat := 2048
def hopControl : Nat := 3072
def hopChain (k : Nat) : Nat := 4096 + 1024 * min 3 k
def hopWork : Nat := 8192

/-- Units of 64 bytes of a byte string, the last filled with zeros. -/
def unitsOfBytes (bs : List Byte) : List Line :=
  (List.range ((bs.length + 63) / 64)).map fun i => BitVec.ofNat 512 (leNat ((bs.drop (64 * i)).take 64))

/-- Units with their marks pass through an area of the hopper of `size` units from unit `at_`, wrapping at its end; one that segments 0
to 2 and 4 to 7 hold keeps its mark (R122). -/
def hopperPut (s : State) (mill at_ size : Nat) (us : List (Line × Bool)) : State :=
  modMill s mill fun x => (us.zipIdx).foldl (fun x e =>
    let k := at_ + e.2 % size
    { x with
      hopper := tabSet 0 x.hopper k e.1.1
      hopperPoison := if e.1.2 then insertNat k x.hopperPoison else x.hopperPoison.filter (· != k) }) x

/-- Unmarked bytes in an area of the hopper. -/
def hopperBytes (s : State) (mill at_ size : Nat) (bs : List Byte) : State :=
  hopperPut s mill at_ size ((unitsOfBytes bs).map fun l => (l, false))

/-- A mill's hopper and its marks cleared. -/
def clearHopper (s : State) (m : Nat) : State := modMill s m fun x => { x with hopper := [], hopperPoison := [] }

/-- The mill takes its next queued part; its hopper is cleared, then segment 3 takes the descriptors' copies and the sieve program
(R117, R122). A mill below Trim is woken instead (R398). -/
def startNextPart (s : State) (m : Nat) : State :=
  let x := getMill s m
  match x.queue with
  | [] => s
  | p :: rest =>
    if inDispatch s m && x.running.isNone && !s.flt.safe then
      if portAwake s (64 + m) then
        let image := (((getPart s p).bind fun y => getDesc s y.did).map fun d => d.members.flatten ++ d.program).getD []
        let s1 := clearHopper (modMill s m fun x => { x with queue := rest, running := some p }) m
        refillMills (modPart (hopperBytes s1 m hopControl 1024 image) p fun y => { y with started := true, startedAt := s.now })
      else wakeFlume s m
    else s

/-- PART_START (R117). -/
def execPartStart (m : Nat) (s : State) : Answer := onElement (okF m) (.next (startNextPart s m))

/-- Ranking of the statuses of parts (R128): no-mill, mill-fault, watchdog, output-full, poison, success. -/
def statusRank (k : Nat) : Nat := if k = 7 then 5 else if k = 4 then 4 else if k = 3 then 3 else if k = 2 then 2 else if k = 1 then 1 else 0

/-- Every part of a descriptor has ended. -/
def partsEnded (s : State) (d : Desc) : Bool := d.parts.all fun p => match getPart s p with
  | some x => x.ended
  | none => true

/-- The parts of a descriptor. -/
def partsOf (s : State) (d : Desc) : List Part := d.parts.filterMap (getPart s)

/-- The status with the highest rank (R128). -/
def worstStatus (ps : List Part) : Nat :=
  ps.foldl (fun a p => if statusRank a < statusRank (p.status.getD 0) then p.status.getD 0 else a) 0

/-- A merge part is still to run (R175). -/
def mergeDue (s : State) (d : Desc) : Bool :=
  let ps := partsOf s d
  worstStatus ps == 0 && decide (0 < d.curDst2) && bOp (d.members.getLast?.getD []) == 8 && !(ps.any fun p => p.merge)

/-- The dispatcher creates the merge part of a descriptor whose other parts have all ended well, and places it as a host split's
(R125, R175). -/
def createMerge (s : State) (did : Nat) : State :=
  match getDesc s did with
  | none => s
  | some d => if !d.dropped && partsEnded s d && mergeDue s d then createPart did true s (none, []) else s

/-- A running part ends; a status above poison stops the other parts of its descriptor (R128). -/
def endPart (s : State) (m p : Nat) : State :=
  let s1 := modMill (modPart s p fun x => { x with ended := true }) m fun x => { x with running := none }
  match getPart s1 p with
  | none => s1
  | some x =>
    let s2 := if 2 ≤ statusRank (x.status.getD 0) then
        match getDesc s1 x.did with
        | some d => forAll s1 (d.parts.filter (· != p)) stopPart
        | none => s1
      else s1
    refillMills (createMerge s2 x.did)

/-- PART_END (R128). -/
def execPartEnd (m : Nat) (s : State) : Answer :=
  onElement (okF m) <|
    match (getMill s m).running with
    | none => .next s
    | some p => match getPart s p with
      | none => .next s
      | some x => if (x.done || x.status.isSome || x.stop) && !s.flt.safe then .next (endPart s m p) else .next s

/-- A write of the descriptor is not yet accepted or mirrored (R130, R269, R272). -/
def writesOpen (s : State) (did : Nat) : Bool :=
  (s.leat.sync.any fun w => w.dest == .part did) ||
    (List.range 32).any fun f =>
      ((getFlume s f).waiting.any fun r => r.dest == .part did) || ((getFlume s f).queue.any fun r => r.dest == .part did && r.mirror)

/-- Joining the CRCs of neighbouring byte strings, the second of `n` bytes (R164). -/
def crcJoin (a b n : Nat) : Nat := crc32c a (List.replicate n 0) ^^^ crc32c 0 (List.replicate n 0) ^^^ b

/-- Inserting an accumulator entry by its offset. -/
def insertPiece (e : Nat × Nat × Nat) : List (Nat × Nat × Nat) → List (Nat × Nat × Nat)
  | [] => [e]
  | x :: t => if e.1 < x.1 then e :: x :: t else x :: insertPiece e t

/-- The CRC of a range from its pieces in address order (R164). -/
def joinPieces (crcIn : Nat) (l : List (Nat × Nat × Nat)) : Nat :=
  (l.foldr insertPiece []).foldl (fun a e => crcJoin a e.2.2 e.2.1) crcIn

/-- Bytes claimed on the refused cursor (R152 output-full): the parts record it in their res_a. -/
def opResult (s : State) (d : Desc) : Result :=
  let ps := partsOf s d
  let m := d.members.getLast?.getD []
  let sumA := (ps.map fun p => p.resA).sum
  let sumB := (ps.map fun p => p.resB).sum
  match worstStatus ps with
  | 0 =>
    match bOp m with
    | 3 => ⟨0, 0, sumA, d.curDst2⟩
    | 4 => ⟨0, 0, d.curDst, d.curKeep⟩
    | 5 => ⟨0, 0, if 1 < d.members.length then d.curDst else sumA, sumB⟩
    | 7 => ⟨0, 0, d.curDst, sumB⟩
    | 8 => ⟨0, 0, d.curDst, sumB % 2 ^ 32 + d.spills % 65536 * 2 ^ 32 + d.mergeLog * 2 ^ 48⟩
    | 10 => ⟨0, 0, joinPieces (bImm0 m) d.accum, 0⟩
    | 11 => ⟨0, 0, (ps.map fun p => p.resA).foldl min chainMark, sumB⟩
    | _ => ⟨0, 0, sumA, sumB⟩
  | 1 =>
    let dpas := ps.filterMap fun p => p.poisonDpa
    let hosts := ps.filterMap fun p => p.poisonHost
    if dpas = [] then ⟨1, 0, minOf (hosts.headD 0) hosts, 1⟩ else ⟨1, 0, minOf (dpas.headD 0) dpas, 0⟩
  | 2 =>
    let b := if bOp m = 8 then sumB % 2 ^ 32 + d.spills % 65536 * 2 ^ 32 + d.mergeLog * 2 ^ 48
      else if bOp m = 3 then d.curDst2 else if bOp m = 4 then d.curKeep else sumB
    let full := ps.filter fun p => p.status == some 2
    let a := if bOp m = 6 then sumA
      else if bOp m = 3 ∨ (bOp m = 8 ∧ full.any fun p => p.spillFull) then d.curDst2 else d.curDst
    ⟨2, 0, a, b⟩
  | 4 =>
    match ps.find? fun p => p.status == some 4 with
    | some p => ⟨4, 0, p.resA, p.resB⟩
    | none => ⟨4, 0, 0, 0⟩
  | k => ⟨k, 0, 0, 0⟩

/-- DESCRIPTOR_COMPLETE (R130): every part has ended, the merge has run where one is due, and every write is accepted and mirrored. -/
def execDescriptorComplete (did : Nat) (s : State) : Answer :=
  match getDesc s did with
  | none => .next s
  | some d =>
    if d.result.isNone && !isAdmin d.pair && !d.parts.isEmpty && partsEnded s d && (d.dropped || !mergeDue s d) && !writesOpen s did && !s.flt.safe then
      .next (finishDesc s did (opResult s d))
    else .next s

end Sys2Proof.Machine
end

