-- ==== Sys2Proof/Machine/Operate.lean ====
section
/-! DEFINITION. What operators share: the stage of a running part, reading columns (R150, R157), writing lines, bitmaps and lists
(R99, R100, R120, R129, R157), and the end of a stage. -/

namespace Sys2Proof.Machine

/-! The stage that runs. -/

/-- A running part's stage: part, its record, its descriptor, the member and its context. -/
structure Stage where
  pid : Nat
  part : Part
  desc : Desc
  m : List Byte
  c : Ctx
  mill : Nat
  head : Nat
  deriving DecidableEq, Repr

/-- The stage a mill is to run, none while nothing runs, the part is done or stopped. -/
def stageOf (s : State) (mill : Nat) : Option Stage :=
  match (getMill s mill).running with
  | none => none
  | some p =>
    match getPart s p with
    | none => none
    | some x =>
      if x.done || x.stop || x.merge || x.status.isSome then none
      else match getDesc s x.did with
        | none => none
        | some d =>
          match (ctxs d.members)[x.stage]? with
          | none => none
          | some e => some ⟨p, x, d, e.2, e.1, mill, pairHead d.pair⟩

/-- An operand of the stage lies in host memory. -/
def stageHost (g : Stage) : Bool :=
  [bSrcA g.m, bSrcB g.m, bDst g.m, bDst2 g.m, bKeep g.m, bAux g.m].any isHost

/-- Running a stage of opcode `op`: its DMA is open (R225), every line it needs can be reached, and its lookups find what they find
(R31). -/
def runStage (mill op : Nat) (env : OpEnv) (s : State) (body : Stage → State → State) : Answer :=
  onElement (okF mill) <|
    match stageOf s mill with
    | none => .next s
    | some g =>
      if bOp g.m ≠ op ∨ s.flt.safe then .next s
      else if stageHost g && !dmaOpen s g.head then .next s
      else
        let r := opRanges g.c g.m
        whenOpen s (r.1 ++ r.2) fun s => body g (lookups s env)

/-- The bytes of an intermediate in its chain buffer: row ids, or entries (R131, R176). -/
def interBytes (g : Stage) (inter : Inter) : List Byte :=
  match inter with
  | .none => []
  | .selection rows => (rows.map fun i => leBytes 4 (bRowBase g.m + i)).flatten
  | .entries es => (es.map fun e => e.2).flatten

/-- The stage ends well: the next stage follows with the intermediate, which passes through the boundary's chain buffer, or the part is
done. -/
def stageDone (s : State) (g : Stage) (inter : Inter) (resA resB : Nat) : State :=
  modPart (if g.c.last then s else hopperBytes s g.mill (hopChain g.c.idx) 1024 (interBytes g inter)) g.pid fun x =>
    { x with stage := x.stage + 1, inter := inter, resA := if g.c.last then resA else 0, resB := if g.c.last then resB else 0, prog := 0,
             done := g.c.last }

/-- The part stops with a status. -/
def stageStop (s : State) (g : Stage) (status resA resB : Nat) : State :=
  modPart s g.pid fun x => { x with status := some status, resA := resA, resB := resB }

/-- The part consumed the poisoned unit `k` (R100). -/
def stagePoison (s : State) (g : Stage) (k : Nat) : State :=
  let r := poisonRes k
  modPart s g.pid fun x =>
    if r.2 = 0 then { x with status := some 1, poisonDpa := some r.1 } else { x with status := some 1, poisonHost := some r.1 }

/-- Elements or units of a list of ranges, ascending. -/
def unitsIn (rs : List (Nat × Nat)) : List Nat := (rs.map fun e => upFrom e.1 (e.2 - e.1)).flatten

/-- The elements a stage works on: its part's own, or those its SCAN selected. -/
def elements (g : Stage) : List Nat :=
  match g.part.inter with
  | .selection rows => rows
  | _ => unitsIn g.part.ranges

/-! Reading columns. -/

/-- Bit address of element `i` of a column. -/
def elemAt (t a i : Nat) : Nat := 8 * a + i * elemBits t

/-- Element `i` as it lies. -/
def elemRaw (u : Units) (t a i : Nat) : Nat := bitsFrom u (elemAt t a i) (elemBits t)

/-- A value widened to its output width (R150). -/
def widen (t v : Nat) : Nat :=
  if isPacked t ∧ isSigned t ∧ v.testBit (tyWidth t - 1) then v + 2 ^ (8 * outWidth t) - 2 ^ tyWidth t else v

/-- A lane's start value: strings as they lie, zero-padded (R180). -/
def laneOf (u : Units) (t a i : Nat) : Nat := widen t (elemRaw u t a i)

/-- The first marked unit of an element. -/
def elemPoison (u : Units) (t a i : Nat) : Option Nat := poisonIn u (elemAt t a i) (elemBits t)

/-- Units that hold a list of elements, each once, ascending. -/
def columnUnits (t a : Nat) (is : List Nat) : List Nat :=
  (is.map fun i => unitsOf (elemAt t a i) (elemBits t)).flatten.foldr insertNat []

/-- The grant for a mill's access to a unit (R119). -/
def grantUnit (m : Nat) (s : State) (k : Nat) : State :=
  match flumeAt s (64 * k) with
  | some f => if isHost (64 * k) then s else grantTo s f m
  | none => s

/-- A stage reads units through the stream-in buffer, with their marks (R99, R119, R122). -/
def stageRead (g : Stage) (env : OpEnv) (s : State) (ks : List Nat) : Units × State :=
  let r := readUnits (ks.foldl (grantUnit g.mill) s) env ks
  (r.1, hopperPut r.2 g.mill hopStream 2048 (r.1.map fun e => (BitVec.ofNat 512 e.2.data, e.2.poison)))

/-- Reading the units of a list of elements. -/
def readColumn (g : Stage) (env : OpEnv) (s : State) (t a : Nat) (is : List Nat) : Units × State :=
  stageRead g env s (columnUnits t a is)

/-- The marked unit that a status names of two: a device line before host memory, else the lower address (R152). Host units have the
higher numbers. -/
def lowerUnit (a b : Option Nat) : Option Nat :=
  match a, b with
  | some k, some j => some (min k j)
  | some k, none => some k
  | none, j => j

/-- Bytes with their marks (R99). -/
abbrev Marked := List (Byte × Bool)

/-- Bytes of a value with one mark. -/
def marked (n v : Nat) (p : Bool) : Marked := (leBytes n v).map fun b => (b, p)

/-- An element's output bytes (R158). -/
def elemBytes (u : Units) (t a i : Nat) : Marked := marked (outWidth t) (laneOf u t a i) (elemPoison u t a i).isSome

/-! Writing. -/

/-- A write to a line of entry `i` has to wait at its port: the region quiesces, or its pond is full (R272, R284). -/
def writeWaits (s : State) (i : Nat) : Bool :=
  s.leat.quiesce.contains i || (rgMode (regionWord s i) == 2 && regionMatched s i && decide (pondSize ≤ s.leat.pond.length))

/-- An operator's write to a line: full, or a partial write merged under R98. In a region that has become secondary it is refused
(R267, R284); it may have to wait at its port; in no live region it is discarded (R31). -/
def deviceWrite (s0 : State) (env : OpEnv) (did mill k data mask : Nat) (poison : Bool) : State :=
  match regionAt s0 (64 * k) with
  | none => s0
  | some i =>
    let e := regionWord s0 i
    let l := lineOf e (64 * k)
    let port := if l.1 = mill then 5 else 6
    let s := grantTo s0 l.1 mill
    if rgMode e != 0 && rgSecondary e then s0
    else if writeWaits s i then
      let r : Req := { reqInit with
        port := port, cls := 3, line := l.2, kind := if mask = lowMask 64 then .write else .partialWrite,
        data := BitVec.ofNat 512 data, mask := BitVec.ofNat 64 mask, poison := poison, dest := .part did, dpaLine := k, region := i,
        entry := e, mill := mill }
      modFlume s0 l.1 fun x => { x with waiting := x.waiting ++ [r] }
    else if mask = lowMask 64 then writeLine s l.1 l.2 k i data none poison port (.part did) env
    else
      let g := readLine s l.1 l.2 k i env false
      let s1 := if g.1.bad && !g.1.fetched then bumpTotal g.2 l.1 4 else g.2
      writeLine s1 l.1 l.2 k i (mergeBytes g.1.data data mask) none (poison || g.1.poison) port (.part did) env

/-- Writing marked bytes at an address: whole lines; host memory by DMA, a marked unit with EP (R99). R120 names the shared bitmap lines
as the partial writes of a mill and says nothing of the first and last lines of a list that its bytes do not fill: the model writes
those as partial writes too (DESIGN CHOICE, log 93). -/
def writeMarked (s : State) (env : OpEnv) (g : Stage) (a : Nat) (bs : Marked) : State :=
  forAll s (unitsOf (8 * a) (8 * bs.length)) fun s k =>
    let lo := max a (64 * k)
    let part := (bs.drop (lo - a)).take (min (64 * k + 64) (a + bs.length) - lo)
    let poison := part.any fun e => e.2
    let by_ := part.map fun e => e.1
    if isHost (64 * k) then emit s (.dmaWrite g.head (lo - 2 ^ 63) by_ poison)
    else
      let sh := lo - 64 * k
      deviceWrite s env g.part.did g.mill k (leNat by_ * 2 ^ (8 * sh)) (lowMask by_.length * 2 ^ sh) poison

/-- Byte `b` of a bitmap belongs to this part: it holds a group of eight of its elements, or lies past the count and the part holds
the last element (R157). -/
def ownsByte (own : List Nat) (n b : Nat) : Bool := if 8 * b < n then own.contains (8 * b) else own.contains ((n - 1) / 8 * 8)

/-- Writing a part's share of a bitmap of `n` bits at `a`: whole lines where the part owns them, else partial writes (R156, R157). -/
def writeBits (s : State) (env : OpEnv) (g : Stage) (a n : Nat) (own set : List Nat) : State :=
  forAll s (List.range ((n + 511) / 512)) fun s l =>
    let mask := (List.range 64).foldl (fun x j => x + b2n (ownsByte own n (64 * l + j)) * 2 ^ j) 0
    if mask = 0 then s
    else
      let data := set.foldl (fun x e => if e / 512 = l then x + 2 ^ (e % 512) else x) 0
      let k := a / 64 + l
      if isHost (64 * k) then
        forAll s (List.range 64) fun s j =>
          if bitOf mask j then emit s (.dmaWrite g.head (64 * k + j - 2 ^ 63) (leBytes 1 (bits data (8 * j + 7) (8 * j))) false) else s
      else deviceWrite s env g.part.did g.mill k data mask false

/-! Lists (R129, R178). -/

/-- Entries of an output list, each with its entry of the kept list. -/
abbrev Entries := List (Marked × Marked)

/-- Bytes of the entries of a unit. -/
def mainBytes (u : Entries) : Marked := (u.map fun e => e.1).flatten
def keptBytes (u : Entries) : Marked := (u.map fun e => e.2).flatten

/-- Cutting entries into units of at most 4 KiB on either list. -/
def unitize : Entries → Entries → List Entries
  | [], cur => if cur.isEmpty then [] else [cur]
  | e :: t, cur =>
    if cur.isEmpty ∨ ((mainBytes cur).length + e.1.length ≤ 4096 ∧ (keptBytes cur).length + e.2.length ≤ 4096) then unitize t (cur ++ [e])
    else cur :: unitize t [e]

/-- A list area: body address and capacity; `second` for the cursor of dst2. -/
structure Area where
  at_ : Nat
  cap : Nat
  second : Bool
  deriving DecidableEq, Repr

def cursor (d : Desc) (second : Bool) : Nat := if second then d.curDst2 else d.curDst

/-- A unit of output stands in output staging, each 64 bytes with their mark (R99, R121). -/
def stageOut (s : State) (g : Stage) (bs : Marked) : State :=
  hopperPut s g.mill hopStaging 1024 ((unitsOfBytes (bs.map fun e => e.1)).zipIdx.map fun e =>
    (e.1, ((bs.drop (64 * e.2)).take 64).any fun b => b.2))

/-- Claiming and writing units on a list and, with it, on the kept list; false where a claim is refused (R129, R178). -/
def flushUnits (env : OpEnv) (g : Stage) (area : Area) (keep : Option (Nat × Nat)) : List Entries → State → Bool × State
  | [], s => (true, s)
  | u :: t, s =>
    match getDesc s g.part.did with
    | none => (true, s)
    | some d =>
      let mb := mainBytes u
      let kb := keptBytes u
      let p := cursor d area.second
      let room := match keep with
        | some k => decide (d.curKeep + kb.length ≤ k.2)
        | none => true
      if p + mb.length ≤ area.cap ∧ room = true then
        let s1 := modDesc s g.part.did fun d =>
          let d1 : Desc := if area.second then { d with curDst2 := d.curDst2 + mb.length } else { d with curDst := d.curDst + mb.length }
          if keep.isSome then { d1 with curKeep := d1.curKeep + kb.length } else d1
        let s2 := if mb.isEmpty then s1 else writeMarked (stageOut s1 g mb) env g (area.at_ + p) mb
        let s3 := match keep with
          | some k => if kb.isEmpty then s2 else writeMarked s2 env g (k.1 + d.curKeep) kb
          | none => s2
        flushUnits env g area keep t s3
      else (false, s)

/-- Writing a list through its cursor. -/
def writeList (s : State) (env : OpEnv) (g : Stage) (area : Area) (keep : Option (Nat × Nat)) (es : Entries) : Bool × State :=
  flushUnits env g area keep (unitize es []) s

/-- The kept list of the last member, where it names one (R178). -/
def keepList (g : Stage) : Option (Nat × Nat) :=
  if bKeep g.m = 0 ∨ (prevOp g.c = 3 ∧ bitOf (bImm1 g.m) 63 = false) then none else some (bKeep g.m, bKeepCap g.m)

/-- The kept bitmap of a SCAN's selection (R178). -/
def writeKeepBits (s : State) (env : OpEnv) (g : Stage) : State :=
  if bKeep g.m ≠ 0 ∧ prevOp g.c = 3 ∧ bitOf (bImm1 g.m) 63 = false then
    writeBits s env g (bKeep g.m) ((g.c.prev.map bCount).getD 0) (unitsIn g.part.ranges) (elements g)
  else s

/-- The row id of element `i` of a member. -/
def rowId (m : List Byte) (i : Nat) : Nat := bRowBase m + i

/-- The kept entry of an element of a SCAN's selection: its row id (R178). -/
def keptRow (g : Stage) (i : Nat) : Marked :=
  if keepList g = none then [] else marked 4 ((g.c.prev.map bRowBase).getD 0 + i) false

/-- The area of an operator that writes a kept list and no list of its own. -/
def keepOnly : Area := ⟨0, 2 ^ 64, false⟩

/-- Ending a stage whose list may have been refused (R129). -/
def listEnd (g : Stage) (ok : Bool) (s : State) (resA resB : Nat) : State :=
  if ok then stageDone s g .none resA resB else stageStop s g 2 resA resB

end Sys2Proof.Machine
end

