-- ==== Sys2Proof/Machine/Operators.lean ====
section
/-! DEFINITION. The operators (R154 to R175). A part works through its elements in ascending order; what it wrote before it met a
poisoned value stands (R100, log 42). -/

namespace Sys2Proof.Machine

/-! FILL and COPY. -/

/-- FILL's lines (R154). -/
def fillBody (env : OpEnv) (g : Stage) (s : State) : State :=
  let is := unitsIn g.part.ranges
  let line := (List.replicate 8 (leBytes 8 (bImm0 g.m))).flatten.map fun b => (b, false)
  let s1 := forAll s is fun s i => writeMarked s env g (bDst g.m + 64 * i) line
  stageDone s1 g .none (64 * is.length) 0

/-- FILL (R154). -/
def execFill (m : Nat) (env : OpEnv) (s : State) : Answer := runStage m 1 env s (fillBody env)

/-- COPY's lines, each with its source's mark (R155). -/
def copyBody (env : OpEnv) (g : Stage) (s : State) : State :=
  let is := unitsIn g.part.ranges
  let s1 := forAll s is fun s i =>
    let k := bSrcA g.m / 64 + i
    let r := stageRead g env s [k]
    writeMarked r.2 env g (bDst g.m + 64 * i) (marked 64 (unitAt r.1 k).data (unitAt r.1 k).poison)
  stageDone s1 g .none (64 * is.length) 0

/-- COPY (R155). -/
def execCopy (m : Nat) (env : OpEnv) (s : State) : Answer := runStage m 2 env s (copyBody env)

/-! SCAN (R156, R180, R186). -/

/-- Cutting the elements of a part into batches; only the last may be shorter (R180). -/
def batches (n : Nat) : Nat → List Nat → List (List Nat)
  | 0, _ => []
  | k + 1, l => if l.isEmpty then [] else l.take n :: batches n k (l.drop n)

/-- What the batches of a part come to: the selected elements, the elements evaluated, the marked unit that stops the part, and the
registers after the last batch. -/
structure Scan where
  sel : List Nat
  evaluated : List Nat
  bad : Option Nat
  regs : Option Sieve
  deriving DecidableEq, Repr

/-- Selecting batch by batch (R180, R186). -/
def scanBatches (m : List Byte) (prog : List Byte) (u : Units) : List (List Nat) → Scan → Scan
  | [], r => r
  | is :: t, r =>
    match is.findSome? (elemPoison u (bTypeA m) (bSrcA m)) with
    | some k => { r with bad := some k }
    | none =>
      let v := sieveBatch (bTypeA m) prog (is.map (laneOf u (bTypeA m) (bSrcA m))) (rowId m (is.headD 0))
      let sel := if bAux m = 0 then is else ((is.zip v.1).filter fun x => x.2).map Prod.fst
      scanBatches m prog u t
        ⟨r.sel ++ sel, r.evaluated ++ is, none, if bAux m = 0 then none else some v.2⟩

/-- SCAN's body: the program that was checked at the start runs on the part's elements (R185). -/
def scanBody (env : OpEnv) (g : Stage) (s : State) : State :=
  let is := unitsIn g.part.ranges
  let r := readColumn g env s (bTypeA g.m) (bSrcA g.m) is
  let v := scanBatches g.m g.desc.program r.1 (batches (batchSize (bTypeA g.m)) is.length is) ⟨[], [], none, none⟩
  let s0 := match v.regs with
    | some x => modMill r.2 g.mill (keepSieve (bTypeA g.m) x)
    | none => r.2
  let s1 := if bitOf (bOpt g.m) 0 then writeBits s0 env g (bDst g.m) (bCount g.m) v.evaluated v.sel else s0
  let w := if bitOf (bOpt g.m) 1 then
      writeList s1 env g ⟨bDst2 g.m, bDst2Cap g.m, true⟩ none (v.sel.map fun i => (marked 4 (rowId g.m i) false, []))
    else (true, s1)
  match v.bad with
  | some k => if w.1 then stagePoison w.2 g k else stageStop w.2 g 2 v.sel.length 0
  | none => if w.1 then stageDone w.2 g (.selection v.sel) v.sel.length 0 else stageStop w.2 g 2 v.sel.length 0

/-- SCAN (R156). -/
def execScan (m : Nat) (env : OpEnv) (s : State) : Answer := runStage m 3 env s (scanBody env)

/-! COMPACT (R158). -/

/-- Elements whose bit is set in the bitmap at `b`, up to the first marked bitmap unit. -/
def bitmapTake (u : Units) (b : Nat) : List Nat → List Nat × Option Nat
  | [] => ([], none)
  | i :: t =>
    match poisonIn u (8 * b + i) 1 with
    | some k => ([], some k)
    | none =>
      let r := bitmapTake u b t
      (if bitsFrom u (8 * b + i) 1 = 1 then i :: r.1 else r.1, r.2)

/-- COMPACT's body. -/
def compactBody (env : OpEnv) (g : Stage) (s : State) : State :=
  let own := elements g
  let b := if g.c.idx = 0 then stageRead g env s ((own.map fun i => unitsOf (8 * bSrcB g.m + i) 1).flatten.foldr insertNat []) else ([], s)
  let v := if g.c.idx = 0 then bitmapTake b.1 (bSrcB g.m) own else (own, none)
  let r := readColumn g env b.2 (bTypeA g.m) (bSrcA g.m) v.1
  let w := writeList r.2 env g ⟨bDst g.m, bDstCap g.m, false⟩ (keepList g)
    (v.1.map fun i => (elemBytes r.1 (bTypeA g.m) (bSrcA g.m) i, keptRow g i))
  let s1 := writeKeepBits w.2 env g
  match v.2 with
  | some k => if w.1 then stagePoison s1 g k else stageStop s1 g 2 0 0
  | none => listEnd g w.1 s1 0 0

/-- COMPACT (R158). -/
def execCompact (m : Nat) (env : OpEnv) (s : State) : Answer := runStage m 4 env s (compactBody env)

/-! GATHER (R159). -/

/-- The row ids a GATHER takes, each with its kept entry, and the marked unit that stops the part. -/
def gatherRows (g : Stage) (u : Units) : List (Nat × Marked) × Option Nat :=
  match g.part.inter with
  | .selection rows => (rows.map fun i => ((g.c.prev.map bRowBase).getD 0 + i, keptRow g i), none)
  | .entries es => (es.map fun e => (e.1, if keepList g = none then [] else e.2.map fun b => (b, false)), none)
  | .none =>
    let is := unitsIn g.part.ranges
    let clean := is.takeWhile fun i => (poisonIn u (8 * bSrcB g.m + 32 * i) 32).isNone
    (clean.map fun i => (bitsFrom u (8 * bSrcB g.m + 32 * i) 32, []),
      (is.drop clean.length).head?.bind fun i => poisonIn u (8 * bSrcB g.m + 32 * i) 32)

/-- A row id is in range (R159). -/
def rowIn (m : List Byte) (r : Nat) : Bool := decide (bRowBase m ≤ r) && decide (r < bRowBase m + bImm0 m)

/-- The value of a row id: the element, or zeros with the mark. -/
def gatherValue (m : List Byte) (u : Units) (r : Nat) : Marked :=
  if rowIn m r then elemBytes u (bTypeA m) (bSrcA m) (r - bRowBase m) else marked (outWidth (bTypeA m)) 0 true

/-- GATHER's body: fixed places when lone, else through the cursor. -/
def gatherBody (env : OpEnv) (g : Stage) (s : State) : State :=
  let own := unitsIn g.part.ranges
  let b := if g.c.idx = 0 then stageRead g env s ((own.map fun i => unitsOf (8 * bSrcB g.m + 32 * i) 32).flatten.foldr insertNat []) else ([], s)
  let v := gatherRows g b.1
  let b2 := hopperBytes b.2 g.mill hopWork 24576 (v.1.map fun e => leBytes 4 e.1).flatten
  let r := readColumn g env b2 (bTypeA g.m) (bSrcA g.m) ((v.1.filter fun e => rowIn g.m e.1).map fun e => e.1 - bRowBase g.m)
  let out := v.1.countP fun e => !rowIn g.m e.1
  let w := outWidth (bTypeA g.m)
  if g.c.idx = 0 then
    let vals := (own.zip v.1).map fun e => (e.1, gatherValue g.m r.1 e.2.1)
    let runs := g.part.ranges.map fun e => (e.1, (vals.filter fun x => decide (e.1 ≤ x.1) && decide (x.1 < e.2)).map fun x => x.2)
    let s1 := runs.foldl (fun s e => if e.2.isEmpty then s else writeMarked s env g (bDst g.m + e.1 * w) e.2.flatten) r.2
    match v.2 with
    | some k => modPart (stagePoison s1 g k) g.pid fun x => { x with resB := out }
    | none => stageDone s1 g .none (w * vals.length) out
  else
    let l := writeList r.2 env g ⟨bDst g.m, bDstCap g.m, false⟩ (keepList g) (v.1.map fun e => (gatherValue g.m r.1 e.1, e.2))
    listEnd g l.1 (writeKeepBits l.2 env g) 0 out

/-- GATHER (R159). -/
def execGather (m : Nat) (env : OpEnv) (s : State) : Answer := runStage m 5 env s (gatherBody env)

/-! Hash tables (R160, R161, R168 to R171). -/

/-- A key's bytes: the widened element. -/
def keyBytes (u : Units) (t a i : Nat) : List Byte := leBytes (outWidth t) (laneOf u t a i)

/-- The hash of a key under a seed (R168). -/
def keyHash (seed : Nat) (k : List Byte) : Nat := crc32c seed k

/-- Geometry of a table: address, log2 of the buckets, key and payload widths. -/
structure Table where
  at_ : Nat
  k : Nat
  kw : Nat
  pw : Nat
  deriving DecidableEq, Repr

/-- The table a HASH_BUILD or HASH_PROBE names. -/
def tableOf (m : List Byte) : Table := ⟨bAux m, bImm0 m % 32, outWidth (bTypeA m), outWidth (bTypeB m)⟩

/-- Slot size (R169). -/
def slotSize (t : Table) : Nat :=
  let n := t.kw + t.pw + 1
  if n ≤ 8 then 8 else if n ≤ 16 then 16 else if n ≤ 32 then 32 else 64

/-- The home bucket and the tag of a hash (R168). -/
def homeOf (t : Table) (c : Nat) : Nat := c % 2 ^ t.k
def tagOf (c : Nat) : Nat := 0x80 ||| (c / 2 ^ 25)

/-- What a slot of a bucket's bytes shows to a search (R170). -/
inductive SlotSees where
  | empty
  | hit
  | other
  deriving DecidableEq, Repr

def slotSees (t : Table) (line : List Byte) (tag : Nat) (key : List Byte) (j : Nat) : SlotSees :=
  let b := slice line (j * slotSize t) (slotSize t)
  let st := fieldLe b (slotSize t - 1) 1
  if st = 0 then .empty else if st = tag ∧ slice b 0 t.kw = key then .hit else .other

/-- A search through the slots of one bucket: matches in order, and the empty slot that ends it; `one` stops at the first match. -/
def bucketSearch (t : Table) (line : List Byte) (tag : Nat) (key : List Byte) (one : Bool) : List Nat → List Nat × Option Nat
  | [] => ([], none)
  | j :: l =>
    match slotSees t line tag key j with
    | .empty => ([], some j)
    | .hit => if one then ([j], none) else let r := bucketSearch t line tag key one l; (j :: r.1, r.2)
    | .other => bucketSearch t line tag key one l

/-- A search's outcome: matches as bucket and slot, the empty slot found, a marked bucket unit, and the units read (R170). -/
structure Found where
  hits : List (Nat × Nat)
  free : Option (Nat × Nat)
  bad : Option Nat
  cache : Units
  st : State

/-- The search of `m` ends at its first match: HASH_BUILD in unique mode, HASH_PROBE in semi mode (R170). -/
def firstOnly (m : List Byte) : Bool := if bOp m = 6 then bitOf (bOpt m) 0 else bOpt m % 4 == 1

/-- Visiting buckets from `b`, at most `n`, with the bucket cache (R167). -/
def search (env : OpEnv) (g : Stage) (t : Table) (tag : Nat) (key : List Byte) : Nat → Nat → Units → State → Found
  | 0, _, u, s => ⟨[], none, none, u, s⟩
  | n + 1, b, u, s =>
    let k := t.at_ / 64 + b
    let r := if u.any fun e => e.1 == k then (u, s) else let x := stageRead g env s [k]; (u ++ x.1, x.2)
    let l := unitAt r.1 k
    if l.poison then ⟨[], none, some k, r.1, r.2⟩
    else
      let v := bucketSearch t (leBytes 64 l.data) tag key (firstOnly g.m) (List.range (64 / slotSize t))
      match v.2 with
      | some j => ⟨v.1.map fun i => (b, i), some (b, j), none, r.1, r.2⟩
      | none =>
        if firstOnly g.m && !v.1.isEmpty then ⟨v.1.map fun i => (b, i), none, none, r.1, r.2⟩
        else
          let f := search env g t tag key n ((b + 1) % 2 ^ t.k) r.1 r.2
          { f with hits := (v.1.map fun i => (b, i)) ++ f.hits }

/-- A slot's bytes (R169). -/
def bucketSlot (t : Table) (tag : Nat) (key payload : List Byte) : List Byte :=
  let body := key ++ payload
  body ++ List.replicate (slotSize t - 1 - body.length) 0 ++ [BitVec.ofNat 8 tag]

/-- A bucket's data with slot `j` replaced. -/
def putSlot (t : Table) (data j : Nat) (b : List Byte) : Nat :=
  mergeBytes data (leNat b * 2 ^ (8 * j * slotSize t)) (lowMask (slotSize t) * 2 ^ (j * slotSize t))

/-- How an insertion run ends; it waits where a conditional write was refused or has to wait at its port. -/
inductive BuildEnd where
  | done
  | full
  | poison (k : Nat)
  | waits
  deriving DecidableEq, Repr

/-- An insertion run: its end so far, elements done, slots inserted, duplicates, and the state. -/
structure Built where
  fin : BuildEnd
  elems : Nat
  ins : Nat
  dup : Nat
  st : State

/-- The bucket cache after a write: host memory is known by it, without a mark (R99); device buckets are read afresh (R167, R171). -/
def cacheAfter (t : Table) (cache : Units) (k data : Nat) : Units :=
  if isHost t.at_ then cache.map fun e => if e.1 = k then (k, ⟨data, false⟩) else e else []

/-- Whether a write of unit k has to wait (R272, R284). -/
def unitWaits (s : State) (k : Nat) : Bool := ((regionAt s (64 * k)).map (writeWaits s)).getD false

/-- The conditional write of a bucket (R171): its read stage is a read of the line like any other (R103); none where the bucket no longer
holds what the part read or the write has to wait, and the part goes on from there. -/
def condWrite (env : OpEnv) (g : Stage) (k old data : Nat) (bad : Bool) (s : State) : Option State × State :=
  if isHost (64 * k) then (some (writeMarked s env g (64 * k) (marked 64 data bad)), s)
  else
    let r := stageRead g env s [k]
    let held := !(unitAt r.1 k).poison && (unitAt r.1 k).data == old
    if held && !unitWaits r.2 k then (some (writeMarked r.2 env g (64 * k) (marked 64 data bad)), r.2) else (none, r.2)

/-- Inserting elements one by one (R160, R170, R171). -/
def buildAll (env : OpEnv) (g : Stage) (u : Units) : List Nat → Units → Built → Built
  | [], _, r => r
  | i :: l, cache, r =>
    let t := tableOf g.m
    match elemPoison u (bTypeA g.m) (bSrcA g.m) i with
    | some k => { r with fin := .poison k }
    | none =>
      let key := keyBytes u (bTypeA g.m) (bSrcA g.m) i
      let c := keyHash (bImm1 g.m % 2 ^ 32) key
      let f := search env g t (tagOf c) key (2 ^ t.k) (homeOf t c) cache r.st
      match f.bad with
      | some k => { r with fin := .poison k, st := f.st }
      | none =>
        if bitOf (bOpt g.m) 0 && !f.hits.isEmpty then
          buildAll env g u l (if isHost t.at_ then f.cache else []) { r with elems := r.elems + 1, dup := r.dup + 1, st := f.st }
        else match f.free with
          | none => { r with fin := .full, st := f.st }
          | some (bk, j) =>
            let pay : Marked := if bSrcB g.m = 0 then marked 4 (rowId g.m i) false else elemBytes u (bTypeB g.m) (bSrcB g.m) i
            let k := t.at_ / 64 + bk
            let old := (unitAt f.cache k).data
            let data := putSlot t old j (bucketSlot t (tagOf c) key (pay.map fun e => e.1))
            let w := condWrite env g k old data (pay.any fun e => e.2) f.st
            match w.1 with
            | some s1 => buildAll env g u l (cacheAfter t f.cache k data) { r with elems := r.elems + 1, ins := r.ins + 1, st := s1 }
            | none => { r with fin := .waits, st := w.2 }

/-- HASH_BUILD's body: it goes on after the elements that earlier commands have done. -/
def buildBody (env : OpEnv) (g : Stage) (s : State) : State :=
  let is := (elements g).drop g.part.prog
  let r := readColumn g env s (bTypeA g.m) (bSrcA g.m) is
  let q := if bSrcB g.m = 0 then ([], r.2) else readColumn g env r.2 (bTypeB g.m) (bSrcB g.m) is
  let v := buildAll env g (r.1 ++ q.1) is [] ⟨.done, g.part.prog, g.part.resA, g.part.resB, q.2⟩
  match v.fin with
  | .poison k => modPart (stagePoison v.st g k) g.pid fun x => { x with resA := v.ins, resB := v.dup }
  | .full => stageStop v.st g 2 v.ins v.dup
  | .waits => modPart v.st g.pid fun x => { x with prog := v.elems, resA := v.ins, resB := v.dup }
  | .done =>
    let w := writeList (writeKeepBits v.st env g) env g keepOnly (keepList g) ((elements g).map fun i => ([], keptRow g i))
    listEnd g w.1 w.2 v.ins v.dup

/-- HASH_BUILD (R160). -/
def execHashBuild (m : Nat) (env : OpEnv) (s : State) : Answer := runStage m 6 env s (buildBody env)

/-- The payload bytes of a slot, zero-padded to a multiple of 4 (R161). -/
def payloadOf (t : Table) (u : Units) (e : Nat × Nat) : List Byte :=
  let b := slice (leBytes 64 (unitAt u (t.at_ / 64 + e.1)).data) (e.2 * slotSize t + t.kw) t.pw
  b ++ List.replicate ((t.pw + 3) / 4 * 4 - t.pw) 0

/-- The entries of one key (R161, R170). -/
def probeEntries (m : List Byte) (f : Found) (row : Nat) : List (List Byte) :=
  let t := tableOf m
  match bOpt m % 4 with
  | 0 => f.hits.map fun e => leBytes 4 row ++ payloadOf t f.cache e
  | 1 => (f.hits.take 1).map fun e => leBytes 4 row ++ payloadOf t f.cache e
  | _ => if f.hits.isEmpty then [leBytes 4 row] else []

/-- A probing run: entries with their row ids, elements that produced one, the element and the marked unit that stop the part, and the
bucket cache. -/
structure Probed where
  es : List (Nat × List Byte)
  hit : List Nat
  bad : Option (Nat × Nat)
  cache : Units
  st : State

/-- Probing elements one by one (R161, R170). -/
def probeAll (env : OpEnv) (g : Stage) (u : Units) : List Nat → Probed → Probed
  | [], r => r
  | i :: l, r =>
    let t := tableOf g.m
    match elemPoison u (bTypeA g.m) (bSrcA g.m) i with
    | some k => { r with bad := some (i, k) }
    | none =>
      let key := keyBytes u (bTypeA g.m) (bSrcA g.m) i
      let c := keyHash (bImm1 g.m % 2 ^ 32) key
      let f := search env g t (tagOf c) key (2 ^ t.k) (homeOf t c) r.cache r.st
      match f.bad with
      | some k => { r with bad := some (i, k), cache := f.cache, st := f.st }
      | none =>
        let es := probeEntries g.m f (rowId g.m i)
        probeAll env g u l
          ⟨r.es ++ es.map fun e => (rowId g.m i, e), if es.isEmpty then r.hit else r.hit ++ [i], none, f.cache, f.st⟩

/-- The elements of a part whose bitmap byte is wholly done when element `stop` ends it (R100, R157). -/
def doneBefore (own : List Nat) (stop : Option Nat) : List Nat :=
  match stop with
  | some i => own.filter fun e => decide (e / 8 < i / 8)
  | none => own

/-- HASH_PROBE's body: its entries go to dst, or on to the next member. -/
def probeBody (env : OpEnv) (g : Stage) (s : State) : State :=
  let is := elements g
  let r := readColumn g env s (bTypeA g.m) (bSrcA g.m) is
  let v := probeAll env g r.1 is ⟨[], [], none, [], r.2⟩
  let s0 := hopperPut v.st g.mill hopWork 24576 (v.cache.map fun e => (BitVec.ofNat 512 e.2.data, false))
  let s1 := if bDst2 g.m = 0 then s0
    else writeBits s0 env g (bDst2 g.m) (bCount g.m) (doneBefore (unitsIn g.part.ranges) (v.bad.map Prod.fst)) v.hit
  let w := if g.c.last then
      writeList (writeKeepBits s1 env g) env g ⟨bDst g.m, bDstCap g.m, false⟩ (keepList g)
        (v.es.map fun e => (e.2.map fun b => (b, false), keptRow g (e.1 - bRowBase g.m)))
    else (true, s1)
  match (if w.1 then v.bad else none) with
  | some e => modPart (stagePoison w.2 g e.2) g.pid fun x => { x with resB := v.hit.length }
  | none => if w.1 then stageDone w.2 g (.entries v.es) 0 v.hit.length else stageStop w.2 g 2 0 v.hit.length

/-- HASH_PROBE (R161). -/
def execHashProbe (m : Nat) (env : OpEnv) (s : State) : Answer := runStage m 7 env s (probeBody env)

/-! AGGREGATE (R162, R172 to R175). -/

/-- One group: its key bytes, count, sum, min and max. -/
structure Group where
  key : List Byte
  count : Nat
  sum : Nat
  lo : Nat
  hi : Nat
  deriving DecidableEq, Repr

/-- Key slot bytes ks and entry bytes e (R172). -/
def keySlot (m : List Byte) : Nat := if tyKind (bTypeA m) = 0 then 0 else if outWidth (bTypeA m) ≤ 8 then 8 else 16
def funcs (m : List Byte) : List Nat := (List.range 4).filter fun i => bitOf (bOpt m) i
def groupSize (m : List Byte) : Nat := keySlot m + 8 * (funcs m).length

/-- Groups a table holds (R172). -/
def tableRoom (m : List Byte) : Nat := if groupSize m ≤ 24 then 65536 else 32768

/-- A value as 64 bits: integers extended with their signedness, floats as binary64 (R173). -/
def aggValue (t v : Nat) : Nat :=
  if isFloat t then toBinary64 (tyWidth t) v
  else if isSigned t ∧ v.testBit (8 * outWidth t - 1) then v + 2 ^ 64 - 2 ^ (8 * outWidth t) else v

/-- The signed reading of a 64-bit value. -/
def int64 (v : Nat) : Int := if v.testBit 63 then (v : Int) - 2 ^ 64 else v

/-- The sum of two 64-bit values and whether it wrapped (R173). -/
def aggSum (t a b : Nat) : Nat × Nat :=
  if isFloat t then (floatAdd 8 a b, 0)
  else
    let r := (a + b) % 2 ^ 64
    (r, if isSigned t then b2n (int64 r != int64 a + int64 b) else b2n (decide (2 ^ 64 ≤ a + b)))

/-- The lesser and the larger of two 64-bit values (R173). -/
def aggMin (t a b : Nat) : Nat :=
  if isFloat t then floatMin 8 a b else if isSigned t then (if int64 b < int64 a then b else a) else min a b
def aggMax (t a b : Nat) : Nat :=
  if isFloat t then floatMax 8 a b else if isSigned t then (if int64 a < int64 b then b else a) else max a b

/-- Two groups of one key combined (R173, R175), with the wraps of a selected sum (R162). -/
def joinGroup (m : List Byte) (x y : Group) : Group × Nat :=
  let t := bTypeB m
  let r := aggSum t x.sum y.sum
  (⟨x.key, (x.count + y.count) % 2 ^ 64, r.1, aggMin t x.lo y.lo, aggMax t x.hi y.hi⟩, if bitOf (bOpt m) 1 then r.2 else 0)

/-- A group record's bytes (R173). -/
def groupBytes (m : List Byte) (x : Group) : List Byte :=
  x.key ++ List.replicate (keySlot m - x.key.length) 0 ++
    ((funcs m).map fun i => leBytes 8 (if i = 0 then x.count else if i = 1 then x.sum else if i = 2 then x.lo else x.hi)).flatten

/-- A group read back from a spill record (R175). -/
def groupRead (m : List Byte) (b : List Byte) : Group :=
  let val := fun i => match (funcs m).findIdx? (· == i) with
    | some k => fieldLe b (keySlot m + 8 * k) 8
    | none => 0
  ⟨slice b 0 (outWidth (bTypeA m)), val 0, val 1, val 2, val 3⟩

/-- Adding a group to a table: the table and the wraps, none where the key is new and the table full. -/
def addGroup (m : List Byte) (tb : List Group) (x : Group) : Option (List Group × Nat) :=
  match tb.find? fun y => y.key == x.key with
  | some y =>
    let r := joinGroup m y x
    some (tb.map fun z => if z.key == x.key then r.1 else z, r.2)
  | none => if tb.length < tableRoom m then some (tb ++ [x], 0) else none

/-- A table as list entries. -/
def tableEntries (m : List Byte) (tb : List Group) : Entries := tb.map fun x => ((groupBytes m x).map fun b => (b, false), [])

/-- Writing a table to the spill area; a claim in an absent one is refused (R129, R174). -/
def spillTable (s : State) (env : OpEnv) (g : Stage) (tb : List Group) : Bool × State :=
  let w := if bDst2 g.m = 0 then (tb.isEmpty, s)
    else writeList s env g ⟨bDst2 g.m, bDst2Cap g.m, true⟩ none (tableEntries g.m tb)
  (w.1, modPart w.2 g.pid fun x => { x with spilled := x.spilled || w.1, spillFull := x.spillFull || !w.1 })

/-- The group of one element. -/
def elemGroup (m : List Byte) (u : Units) (i : Nat) : Group :=
  let key := if tyKind (bTypeA m) = 0 then [] else keyBytes u (bTypeA m) (bSrcA m) i
  let v := if tyKind (bTypeB m) = 0 then 0 else aggValue (bTypeB m) (laneOf u (bTypeB m) (bSrcB m) i)
  ⟨key, 1, v, v, v⟩

/-- A marked unit of an element's key or value. -/
def aggPoison (m : List Byte) (u : Units) (i : Nat) : Option Nat :=
  lowerUnit (if tyKind (bTypeA m) = 0 then none else elemPoison u (bTypeA m) (bSrcA m) i)
    (if tyKind (bTypeB m) = 0 then none else elemPoison u (bTypeB m) (bSrcB m) i)

/-- How the elements of an AGGREGATE part end. -/
inductive AggEnd where
  | done (tb : List Group)
  | full
  | poison (k : Nat)
  deriving DecidableEq, Repr

/-- Grouping elements one by one; a full table spills (R174). -/
def aggAll (env : OpEnv) (g : Stage) (u : Units) : List Nat → List Group → Nat → State → AggEnd × Nat × State
  | [], tb, w, s => (.done tb, w, s)
  | i :: l, tb, w, s =>
    match aggPoison g.m u i with
    | some k => (.poison k, w, s)
    | none =>
      let x := elemGroup g.m u i
      match addGroup g.m tb x with
      | some r => aggAll env g u l r.1 (w + r.2) s
      | none =>
        let v := spillTable s env g tb
        let s1 := modDesc v.2 g.part.did fun d => { d with spills := d.spills + 1 }
        if v.1 then aggAll env g u l [x] w s1 else (.full, w, v.2)

/-- The operator has exactly one part (R174). -/
def onePart (g : Stage) : Bool := g.desc.parts.length == 1

/-- The table is written at the part's end: to dst where the operator has one part that never spilled, else to the spill area (R174). -/
def aggFinish (env : OpEnv) (g : Stage) (tb : List Group) (s : State) : Bool × State :=
  let spilled := ((getPart s g.pid).map fun x => x.spilled).getD false
  if onePart g && !spilled then writeList s env g ⟨bDst g.m, bDstCap g.m, false⟩ none (tableEntries g.m tb) else spillTable s env g tb

/-- AGGREGATE's body. -/
def aggBody (env : OpEnv) (g : Stage) (s : State) : State :=
  let is := elements g
  let r := if tyKind (bTypeA g.m) = 0 then ([], s) else readColumn g env s (bTypeA g.m) (bSrcA g.m) is
  let q := if tyKind (bTypeB g.m) = 0 then ([], r.2) else readColumn g env r.2 (bTypeB g.m) (bSrcB g.m) is
  let v := aggAll env g (r.1 ++ q.1) is [] 0 q.2
  match v.1 with
  | .poison k => modPart (stagePoison v.2.2 g k) g.pid fun x => { x with resB := v.2.1 }
  | .full => stageStop v.2.2 g 2 0 v.2.1
  | .done tb =>
    let w := aggFinish env g tb (hopperBytes v.2.2 g.mill hopWork 24576 (tb.map (groupBytes g.m)).flatten)
    if !w.1 then stageStop w.2 g 2 0 v.2.1
    else
      let k := writeList (writeKeepBits w.2 env g) env g keepOnly (keepList g) (is.map fun i => ([], keptRow g i))
      listEnd g k.1 k.2 0 v.2.1

/-- AGGREGATE (R162). -/
def execAggregate (m : Nat) (env : OpEnv) (s : State) : Answer := runStage m 8 env s (aggBody env)

/-! BITMAP, CHECKSUM, COMPARE. -/

/-- The first marked unit of the bits `is` of a bitmap. -/
def bitsPoison (u : Units) (b : Nat) (is : List Nat) : Option Nat := is.findSome? fun i => poisonIn u (8 * b + i) 1

/-- BITMAP's function on two bits (R163). -/
def bitFunc (opt a b : Nat) : Bool :=
  match opt % 4 with
  | 0 => a == 1 && b == 1
  | 1 => a == 1 || b == 1
  | 2 => a == 1 && b == 0
  | _ => a != b

/-- BITMAP's body. -/
def bitmapBody (env : OpEnv) (g : Stage) (s : State) : State :=
  let is := unitsIn g.part.ranges
  let ks := fun b => (is.map fun i => unitsOf (8 * b + i) 1).flatten.foldr insertNat []
  let r := stageRead g env s (ks (bSrcA g.m))
  let q := stageRead g env r.2 (ks (bSrcB g.m))
  let bad := is.find? fun i => (poisonIn r.1 (8 * bSrcA g.m + i) 1).isSome || (poisonIn q.1 (8 * bSrcB g.m + i) 1).isSome
  let ok := doneBefore is bad
  let set := ok.filter fun i => bitFunc (bOpt g.m) (bitsFrom r.1 (8 * bSrcA g.m + i) 1) (bitsFrom q.1 (8 * bSrcB g.m + i) 1)
  let s1 := writeBits q.2 env g (bDst g.m) (bCount g.m) ok set
  match bad.bind fun i => lowerUnit (poisonIn r.1 (8 * bSrcA g.m + i) 1) (poisonIn q.1 (8 * bSrcB g.m + i) 1) with
  | none => stageDone s1 g .none set.length 0
  | some k => modPart (stagePoison s1 g k) g.pid fun x => { x with resA := set.length }

/-- BITMAP (R163). -/
def execBitmap (m : Nat) (env : OpEnv) (s : State) : Answer := runStage m 9 env s (bitmapBody env)

/-- The pieces of a CHECKSUM part: offset, bytes and CRC of each run (R164). -/
def crcPieces (a : Nat) (u : Units) (rs : List (Nat × Nat)) : List (Nat × Nat × Nat) :=
  rs.map fun e => (e.1, e.2 - e.1, crc32c 0 (bytesFrom u (a + e.1) (e.2 - e.1)))

/-- Units of a list of byte ranges from an address. -/
def rangeUnits (a : Nat) (rs : List (Nat × Nat)) : List Nat :=
  (rs.map fun e => unitsOf (8 * (a + e.1)) (8 * (e.2 - e.1))).flatten.foldr insertNat []

/-- CHECKSUM's body. -/
def checksumBody (env : OpEnv) (g : Stage) (s : State) : State :=
  let r := stageRead g env s (rangeUnits (bSrcA g.m) g.part.ranges)
  match r.1.find? fun e => e.2.poison with
  | some e => stagePoison r.2 g e.1
  | none =>
    stageDone (modDesc r.2 g.part.did fun d => { d with accum := d.accum ++ crcPieces (bSrcA g.m) r.1 g.part.ranges }) g .none 0 0

/-- CHECKSUM (R164). -/
def execChecksum (m : Nat) (env : OpEnv) (s : State) : Answer := runStage m 10 env s (checksumBody env)

/-- COMPARE's body: the first differing offset of the part and how many bytes differ (R165). -/
def compareBody (env : OpEnv) (g : Stage) (s : State) : State :=
  let r := stageRead g env s (rangeUnits (bSrcA g.m) g.part.ranges)
  let q := stageRead g env r.2 (rangeUnits (bSrcB g.m) g.part.ranges)
  match (unitsIn g.part.ranges).findSome? fun i =>
      lowerUnit (poisonIn r.1 (8 * (bSrcA g.m + i)) 8) (poisonIn q.1 (8 * (bSrcB g.m + i)) 8) with
  | some k => stagePoison q.2 g k
  | none =>
    let diff := (unitsIn g.part.ranges).filter fun i =>
      bitsFrom r.1 (8 * (bSrcA g.m + i)) 8 != bitsFrom q.1 (8 * (bSrcB g.m + i)) 8
    stageDone q.2 g .none (diff.headD chainMark) diff.length

/-- COMPARE (R165). -/
def execCompare (m : Nat) (env : OpEnv) (s : State) : Answer := runStage m 11 env s (compareBody env)

/-! The merge part (R175). -/

/-- Partition of a key among 2^p: the top bits of its hash with seed 0. -/
def partitionOf (p : Nat) (x : Group) : Nat := keyHash 0 x.key / 2 ^ (32 - p)

/-- One pass: the records of partition `j` combined, none where the table fills. -/
def mergePass (m : List Byte) (p j : Nat) : List Group → List Group → Nat → Option (List Group × Nat)
  | [], tb, w => some (tb, w)
  | x :: l, tb, w =>
    if partitionOf p x = j then
      match addGroup m tb x with
      | some r => mergePass m p j l r.1 (w + r.2)
      | none => none
    else mergePass m p j l tb w

/-- How a merge attempt ends. -/
inductive MergeEnd where
  | done
  | grow
  | full
  deriving DecidableEq, Repr

/-- The passes `j` to 2^p - 1 of one attempt (R175 steps 2 and 3). -/
def mergePasses (env : OpEnv) (g : Stage) (p : Nat) (recs : List Group) : Nat → Nat → Nat → State → MergeEnd × Nat × State
  | 0, _, w, s => (.done, w, s)
  | n + 1, j, w, s =>
    match mergePass g.m p j recs [] 0 with
    | none => (.grow, w, s)
    | some (tb, x) =>
      let v := writeList s env g ⟨bDst g.m, bDstCap g.m, false⟩ none (tableEntries g.m tb)
      if v.1 then mergePasses env g p recs n (j + 1) (w + x) v.2 else (.full, w + x, v.2)

/-- Attempts with 2^p partitions, doubling while the table fills (R175 steps 4 and 5). -/
def mergeTries (env : OpEnv) (g : Stage) (recs : List Group) : Nat → Nat → State → MergeEnd × Nat × State
  | 0, _, s => (.full, 0, s)
  | n + 1, p, s =>
    let s1 := modDesc s g.part.did fun d => { d with curDst := 0, mergeLog := p + 1 }
    let v := mergePasses env g p recs (2 ^ p) 0 0 s1
    match v.1 with
    | .grow => if n = 0 then (.full, v.2.1, v.2.2) else mergeTries env g recs n (p + 1) v.2.2
    | _ => v

/-- MERGE_PART's body: the records of the spill area are read, and the passes run (R175). -/
def mergeBody (env : OpEnv) (g : Stage) (s : State) : State :=
  let n := g.desc.curDst2
  let r := stageRead g env s (unitsOf (8 * bDst2 g.m) (8 * n))
  match poisonIn r.1 (8 * bDst2 g.m) (8 * n) with
  | some k => stagePoison r.2 g k
  | none =>
    let recs := (List.range (n / groupSize g.m)).map fun i =>
      groupRead g.m (bytesFrom r.1 (bDst2 g.m + i * groupSize g.m) (groupSize g.m))
    let v := mergeTries env g recs 9 0 r.2
    if v.1 = .done then modPart v.2.2 g.pid fun x => { x with resB := v.2.1, done := true } else stageStop v.2.2 g 2 0 v.2.1

/-- The merge part of a descriptor that its mill runs, none where it has not started, is done or stopped. -/
def mergeStage (s : State) (did : Nat) : Option Stage :=
  match getDesc s did with
  | none => none
  | some d =>
    d.parts.findSome? fun p => match getPart s p with
      | none => none
      | some x =>
        if x.merge && x.started && !x.ended && !x.done && !x.stop && x.status.isNone && (getMill s x.home).running == some p then
          some ⟨p, x, d, d.members.getLast?.getD [], ⟨d.members.length - 1, true, none⟩, x.home, pairHead d.pair⟩
        else none

/-- MERGE_PART (R175): the merge part runs on the mill that took it, all its passes in one step (log 43). -/
def execMergePart (did : Nat) (env : OpEnv) (s : State) : Answer :=
  match mergeStage s did with
  | none => .next s
  | some g =>
    if s.flt.safe || (isHost (bDst g.m) && !dmaOpen s g.head) then .next s
    else whenOpen s ((opRanges g.c g.m).2) fun s => mergeBody env g (lookups s env)

end Sys2Proof.Machine
end

