-- ==== Sys2Proof/Machine/Fuse.lean ====
section
/-! DEFINITION. The fuse array (13): words and redirection (R312 to R319), the start-up read and its checks (R320, R321), rereads
(R322), programming (R326 to R329), sessions (R323 to R331) and intent completion (R332). -/

namespace Sys2Proof.Machine

/-! Reading. Margins: 0 normal, 1 high, 2 low. -/

/-- The raw bits of a row at a margin. -/
def fuseBits (u : Fuses) (mg r : Nat) : Nat :=
  (tabGet (0 : BitVec 256) (if mg = 0 then u.normal else if mg = 1 then u.high else u.low) r).toNat

/-- The majority of three words. -/
def maj3 (a b c : Nat) : Nat := (a &&& b) ||| (a &&& c) ||| (b &&& c)

/-- One copy of a redirection entry. -/
def redirCopy (u : Fuses) (mg c k : Nat) : Nat := (tabGet (0 : BitVec 16) u.redirect (mg * 192 + c * 64 + k)).toNat

/-- Redirection entry `k`, the majority of its copies (R319). -/
def redirEntry (u : Fuses) (mg k : Nat) : Nat := maj3 (redirCopy u mg 0 k) (redirCopy u mg 1 k) (redirCopy u mg 2 k)

/-- An entry serves row `r`. -/
def redirServes (e r : Nat) : Bool := bitOf e 15 && !bitOf e 14 && bits e 10 0 == r

/-- Entries whose spares have served row `r`, in ascending order. -/
def chainOf (u : Fuses) (r : Nat) : List Nat :=
  if r < 10 then [] else (List.range 64).filter fun k => redirServes (redirEntry u 0 k) r

/-- The row that serves row `r`: the highest spare that names it, else itself (R319). Spare k is row 2,048 + k. -/
def servingRow (u : Fuses) (r : Nat) : Nat := (chainOf u r).foldl (fun _ k => 2048 + k) r

/-- The bits of a row through redirection. -/
def rowThrough (u : Fuses) (mg r : Nat) : Nat := fuseBits u mg (servingRow u r)

/-- A redirection entry that names a row, whether or not it serves it, differs between margins (R320). -/
def redirMarginal (u : Fuses) (r : Nat) : Bool :=
  (List.range 64).any fun k =>
    bits (redirEntry u 0 k) 10 0 == r && (redirEntry u 0 k != redirEntry u 1 k || redirEntry u 0 k != redirEntry u 2 k)

/-- A field of a row differs between margins (R320). -/
def marginalAt (u : Fuses) (r hi lo : Nat) : Bool :=
  redirMarginal u r || bits (rowThrough u 0 r) hi lo != bits (rowThrough u 1 r) hi lo ||
    bits (rowThrough u 0 r) hi lo != bits (rowThrough u 2 r) hi lo

/-! Privileged words (R314). -/

/-- The 80 stored bits of privileged word `w` in a row table's row. -/
def wordIn (row w : Nat) : Nat := bits row (80 * (w % 3) + 79) (80 * (w % 3))

/-- The stored bits of word `w` in the array at the normal margin, and in the shadow. -/
def wordNow (u : Fuses) (w : Nat) : Nat := wordIn (fuseBits u 0 (w / 3)) w
def wordShadow (u : Fuses) (w : Nat) : Nat := wordIn (tabGet (0 : BitVec 256) u.shadow (w / 3)).toNat w

/-- The value of a privileged word, none where it is blank or does not decode (R314). -/
def wordValue (st : Nat) : Option Nat :=
  if st = 0 then none else (bchDecode st []).bind fun r => if r.1 % 2 ^ 65 < 2 ^ 64 then some (r.1 % 2 ^ 64) else none

/-- The value a word must have, none for any. -/
def wordWant (w : Nat) : Option Nat :=
  if w < 5 then some (0x4C49464500000000 + (w + 1))
  else if w < 10 then some (0x4C4F434B00000000 + (w - 4))
  else if w = 22 ∨ w = 23 then some 0 else none

/-- A word is valid (R314). -/
def wordValid (w st : Nat) : Bool :=
  match wordValue st with
  | none => false
  | some v => (wordWant w == none || wordWant w == some v) && (!(decide (15 ≤ w ∧ w ≤ 21)) || v != 0)

/-- A word is blank or valid. -/
def wordFine (w st : Nat) : Bool := st == 0 || wordValid w st

/-- A word is marginal. -/
def wordMarginal (u : Fuses) (w : Nat) : Bool := marginalAt u (w / 3) (80 * (w % 3) + 79) (80 * (w % 3))

/-- 64-bit words, low word first, as one number (R313). -/
def joinWords (u : Fuses) (w n : Nat) : Nat :=
  (List.range n).foldl (fun a i => a + ((wordValue (wordShadow u (w + i))).getD 0) * 2 ^ (64 * i)) 0

/-- The key hash of fuse words 24 to 29, 48 bytes. -/
def fuseKeyHash (u : Fuses) : List Byte := leBytes 48 (joinWords u 24 6)

/-- device_id as fuse word 21 holds it. -/
def fuseDeviceId (u : Fuses) : Nat := (wordValue (wordShadow u 21)).getD 0

/-- The life-cycle state of a row table: the highest valid life-cycle word (R315). -/
def lcState (u : Fuses) : Nat := (List.range 5).foldl (fun a k => if wordValid k (wordShadow u k) then k + 1 else a) 0

/-! Regions (R313, R321, R328). -/

/-- First row and number of rows of a region. -/
def regionRows (j : Nat) : Nat × Nat :=
  match j with
  | 1 => (5, 3)
  | 2 => (8, 2)
  | 3 => (10, 64)
  | 4 => (74, 1910)
  | _ => (1984, 64)

/-- The region a row belongs to. -/
def regionOfRow (r : Nat) : Nat := if r < 5 then 0 else if r < 8 then 1 else if r < 10 then 2 else if r < 74 then 3 else if r < 1984 then 4 else 5

/-- The privileged words of regions 1 and 2. -/
def regionWords (j : Nat) : List Nat := if j = 1 then upFrom 15 9 else if j = 2 then upFrom 24 6 else []

/-- Some word of a region is marginal. -/
def regionMarginal (u : Fuses) (j : Nat) : Bool :=
  if j ≤ 2 then (regionWords j).any (wordMarginal u)
  else (upFrom (regionRows j).1 (regionRows j).2).any fun r => marginalAt u r 255 0

/-- Public key x then y, little-endian, of the identity key (R328). -/
def identityPublic (u : Fuses) : List Byte :=
  let q := p384Public (joinWords u 15 6)
  leBytes 48 q.1 ++ leBytes 48 q.2

/-- The seal over contents (R328). -/
def sealOf (l : List Byte) : Nat := crc32c 0 l + (2 ^ 32 - 1 - crc32c 0 l) * 2 ^ 32

/-- The seal of a region computed over rows `row` gives, with the shadow's words (R328). -/
def regionSeal (u : Fuses) (row : Nat → Nat) (j : Nat) : Nat :=
  if j = 1 then sealOf (identityPublic u ++ leBytes 8 (fuseDeviceId u))
  else if j = 2 then sealOf (fuseKeyHash u)
  else sealOf (((upFrom (regionRows j).1 (regionRows j).2).map fun r => leBytes 32 (row r)).flatten)

/-- The seal word as programmed, 0 where blank. -/
def sealWord (u : Fuses) (j : Nat) : Nat := (wordValue (wordShadow u (9 + j))).getD 0

/-- The region's lock word is valid. -/
def lockWord (u : Fuses) (j : Nat) : Bool := wordValid (4 + j) (wordShadow u (4 + j))

/-- What R321 asks of every region 1 to 5. -/
def regionBase (u : Fuses) (j : Nat) : Bool :=
  let lockOk := wordFine (4 + j) (wordShadow u (4 + j)) && wordFine (9 + j) (wordShadow u (9 + j)) &&
    !wordMarginal u (4 + j) && !wordMarginal u (9 + j)
  let row := fun r => (tabGet (0 : BitVec 256) u.shadow r).toNat
  lockOk && !regionMarginal u j &&
    (if lockWord u j then
      let v := sealWord u j
      v / 2 ^ 32 + v % 2 ^ 32 == 2 ^ 32 - 1 && v == regionSeal u row j
    else (regionWords j).all fun w => wordFine w (wordShadow u w))

/-- What R321 asks of a region beyond that. -/
def regionAlso (u : Fuses) (j : Nat) : Bool :=
  match j with
  | 1 => (upFrom 15 7).all fun w => wordValid w (wordShadow u w)
  | 2 => (upFrom 24 6).all fun w => wordValid w (wordShadow u w)
  | 3 => (upFrom 10 14).any fun r => (tabGet (0 : BitVec 256) u.shadow r).toNat != 0
  | _ => true

/-- The shadow of the addressable rows (R320 step 3). -/
def takeShadow (u : Fuses) : Fuses :=
  { u with shadow := (List.range 2048).foldl (fun t r => tabSet (0 : BitVec 256) t r (BitVec.ofNat 256 (rowThrough u 0 r))) [] }

/-- The checks of R321 on a fresh shadow. -/
def checkRegions (u : Fuses) : Fuses :=
  let lcBad := (List.range 5).any fun k => wordMarginal u k || !wordFine k (wordShadow u k)
  let bad := [1, 2, 3, 4, 5].filter fun j => !(regionBase u j && regionAlso u j)
  { u with
    lc := if lcBad then 3 else lcState u
    lcDefault := lcBad
    failed := (if lcBad then [0] else []) ++ bad
    alsoOnly := bad.filter (regionBase u)
    locked := [1, 2, 3, 4, 5].filter fun j => lockWord u j || (bad.contains j && (j == 1 || j == 5)) }

/-- The faults of failing regions (R321): severe, a notice for the customer region. -/
def regionFaults (s : State) : State := forAll s s.fuses.failed fun s j => raise s 9 0 (if j = 5 then 1 else 2) 0 j

/-- Step 2 of start-up, after intent completion (R320, R321). -/
def fuseLoad (s : State) : State := regionFaults { s with fuses := checkRegions (takeShadow s.fuses) }

/-! Programming (R326, R327). -/

/-- What programming gathers: the array, the counter of free values, spare rows taken, and the bits that still program before the
work is cut short, none where it is not. -/
structure Burn where
  u : Fuses
  ctr : Nat
  spares : Nat
  left : Option Nat
  deriving DecidableEq, Repr

/-- The bits of `v`, of width `w`, that program: all, or the lowest that are left before a cut; and what is left after them. -/
def ration (left : Option Nat) (w v : Nat) : Nat × Option Nat :=
  match left with
  | none => (v, none)
  | some n =>
    let r := (List.range w).foldl (fun (a : Nat × Nat) i => if bitOf v i && decide (0 < a.2) then (a.1 + 2 ^ i, a.2 - 1) else a) (0, n)
    (r.1, some r.2)

/-- Setting bits of a row: those that fail their four pulses stay 0 at the high margin, and below it they are free. True if none failed. -/
def burnRow (env : FuseEnv) (b : Burn) (r want : Nat) : Burn × Bool :=
  let some_ := ration b.left 256 (want &&& (2 ^ 256 - 1 ^^^ fuseBits b.u 1 r))
  let due := some_.1
  let lost := due &&& (env.failing.foldl (fun a e => if e.1 = r then a ||| 2 ^ (e.2 % 256) else a) 0)
  let good := due ^^^ lost
  let low := lost &&& (Config.weakBits r 2 b.ctr).toNat
  let mid := low &&& (Config.weakBits r 0 b.ctr).toNat
  let set := fun (t : Tab (BitVec 256)) (v : Nat) => tabMod 0 t r fun x => x ||| BitVec.ofNat 256 v
  (⟨{ b.u with normal := set b.u.normal (good ||| mid), high := set b.u.high good, low := set b.u.low (good ||| low) },
    b.ctr + 1, b.spares, some_.2⟩, lost == 0)

/-- Setting bits of one copy of an entry. -/
def burnCopy (k v : Nat) (b : Burn) (c : Nat) : Burn :=
  let q := ration b.left 16 (v &&& (2 ^ 16 - 1 ^^^ redirCopy b.u 1 c k))
  let set (t : Tab (BitVec 16)) (mg : Nat) : Tab (BitVec 16) := tabMod 0 t (mg * 192 + c * 64 + k) fun x => x ||| BitVec.ofNat 16 q.1
  { b with u := { b.u with redirect := [0, 1, 2].foldl set b.u.redirect }, left := q.2 }

/-- Setting bits of an entry in its three copies, in order (R326). -/
def burnEntry (b : Burn) (k v : Nat) : Burn := [0, 1, 2].foldl (burnCopy k v) b

/-- Redirecting a row whose programming failed, with up to `n` more spares (R326). -/
def burnSpares (env : FuseEnv) (r want : Nat) : Nat → Burn → Option Burn
  | 0, _ => none
  | n + 1, b =>
    match (List.range 64).find? fun k => !bitOf (redirEntry b.u 0 k) 15 with
    | none => none
    | some k =>
      let b1 := burnEntry { b with spares := b.spares + 1 } k (0x8000 + r)
      let p := burnRow env b1 (2048 + k) want
      if p.2 then some p.1 else burnSpares env r want n (burnEntry p.1 k 0x4000)

/-- The normal-margin contents of every row of a row's chain, joined. -/
def chainContents (u : Fuses) (r : Nat) : Nat := (chainOf u r).foldl (fun a k => a ||| fuseBits u 0 (2048 + k)) (fuseBits u 0 r)

/-- What the rows of a row's chain before the one that serves it hold, joined (R326). -/
def earlierContents (u : Fuses) (r : Nat) : Nat :=
  ((r :: (chainOf u r).map (2048 + ·)).dropLast).foldl (fun a q => a ||| fuseBits u 0 q) 0

/-- Programming an ordinary row (R326); none where no spare is left. -/
def programRow (env : FuseEnv) (b : Burn) (r data : Nat) : Burn × Bool :=
  let p := burnRow env b (servingRow b.u r) (data ||| earlierContents b.u r)
  if p.2 then (p.1, true)
  else match burnSpares env r (data ||| chainContents p.1.u r) 64 p.1 with
    | some q => (q, true)
    | none => (p.1, false)

/-- Programming a privileged word (R327): the reason it fails with, 0 for none. -/
def programWord (env : FuseEnv) (b : Burn) (w v : Nat) : Burn × Nat :=
  let cur := wordNow b.u w
  let target := bchEncode v
  let fits := if wordValid w cur then wordValue cur == some v else decide (cur &&& target = cur)
  if !fits then (b, 8)
  else if wordValid w cur then (b, 0)
  else
    let p := burnRow env b (w / 3) (target * 2 ^ (80 * (w % 3)))
    (p.1, if p.2 then 0 else 9)

/-- Programming words in order until one fails. -/
def programWords (env : FuseEnv) : List (Nat × Nat) → Burn → Burn × Nat
  | [], b => (b, 0)
  | (w, v) :: t, b =>
    let p := programWord env b w v
    if p.2 = 0 then programWords env t p.1 else p

/-- A verified row updates the shadow of the row (R330). -/
def shadowRow (u : Fuses) (r : Nat) : Fuses :=
  { u with shadow := tabSet (0 : BitVec 256) u.shadow r (BitVec.ofNat 256 (rowThrough u 0 r)) }

/-- A verified privileged word updates the shadow of the word (R330). -/
def shadowWord (u : Fuses) (w : Nat) : Fuses :=
  { u with shadow := tabMod (0 : BitVec 256) u.shadow (w / 3) fun x =>
      BitVec.ofNat 256 (putBits x.toNat (80 * (w % 3) + 79) (80 * (w % 3)) (wordNow u w)) }

/-! Scripts (R323). -/

/-- An operation of a script. -/
structure FuseOp where
  kind : Nat
  target : Nat
  row : Nat
  data : Nat
  clean : Bool
  deriving DecidableEq, Repr

/-- Operation `i` of a script; `clean` while its reserved bytes are 0. -/
def fuseOp (l : List Byte) (i : Nat) : FuseOp :=
  let o := 0x10 + 48 * i
  ⟨fieldLe l o 1, fieldLe l (o + 1) 1, fieldLe l (o + 2) 2, fieldLe l (o + 8) 32,
    fieldLe l (o + 4) 4 == 0 && fieldLe l (o + 0x28) 8 == 0⟩

/-- The operations of a script. -/
def fuseOps (l : List Byte) : List FuseOp := (List.range ((l.length - 16) / 48)).map (fuseOp l)

/-- The fields of an operation are in range (R323, R325 reason 1). -/
def opShape (o : FuseOp) : Bool :=
  o.clean && match o.kind with
    | 1 => o.target == 0 && decide (10 ≤ o.row ∧ o.row < 2048)
    | 2 => o.target == 0 && decide (o.row < 30) && decide (o.data < 2 ^ 64)
    | 3 => decide (1 ≤ o.target ∧ o.target ≤ 5) && o.row == 0 && decide (o.data < 2 ^ 64)
    | 4 => decide (1 ≤ o.target ∧ o.target ≤ 5) && o.row == 0 && o.data == 0
    | 5 => o.target == 0 && o.row == 0 && o.data == 0
    | _ => false

/-- The script's length, n and operations (R325 reason 1). -/
def scriptShape (l : List Byte) : Bool :=
  let n := fieldLe l 0 1
  decide (1 ≤ n ∧ n ≤ 64) && l.length == 16 + 48 * n && allZero (slice l 1 15) && (fuseOps l).all opShape

/-- The region an operation programs: 0 for a life-cycle word. -/
def opRegion (o : FuseOp) : Nat :=
  match o.kind with
  | 1 => regionOfRow o.row
  | 2 => 2
  | 3 => o.target
  | 4 => 0
  | _ => 1

/-- R324: the operation is permitted in the life-cycle state. -/
def opPermitted (lc : Nat) (o : FuseOp) : Bool :=
  match o.kind with
  | 1 => match regionOfRow o.row with
    | 3 => lc == 1
    | 4 => decide (1 ≤ lc ∧ lc ≤ 4)
    | _ => lc == 2 || lc == 3
  | 2 => lc == 1 && decide (24 ≤ o.row)
  | 3 => if o.target ≤ 3 then lc == 1 else if o.target = 4 then decide (1 ≤ lc ∧ lc ≤ 4) else lc == 2 || lc == 3
  | 4 => decide (lc ≤ 4)
  | _ => lc == 1

/-- The region refuses programming: locked, or treated as locked by its default (R325 reason 5). -/
def regionLocked (u : Fuses) (j : Nat) : Bool :=
  lockWord u j || (u.failed.contains j && !u.alsoOnly.contains j && (j == 1 || j == 5))

/-- The region failed its check by more than lacking what it is programmed with (R325 reason 6). -/
def regionBroken (u : Fuses) (j : Nat) : Bool := u.failed.contains j && !u.alsoOnly.contains j

/-- R363: the transition is allowed. -/
def transitionOk (u : Fuses) (k : Nat) : Bool :=
  match u.lc, k with
  | 0, 1 => true
  | 1, 2 => [1, 2, 3].all (fun j => lockWord u j && !u.failed.contains j) && !u.failed.contains 4
  | 2, 3 => true
  | 2, 4 => true
  | 3, 4 => true
  | l, 5 => decide (l ≤ 4)
  | _, _ => false

/-- The reason a script is refused with before anything is programmed (R325 reasons 1 to 6 and 10, R331), 0 for none. `script` is none
where the read failed. -/
def scriptReason (u : Fuses) (count : Nat) (script : Option (List Byte)) : Nat :=
  if count < 64 ∨ 16 + 48 * 64 < count ∨ (count - 16) % 48 ≠ 0 then 1
  else match script with
    | none => 2
    | some l =>
      let ops := fuseOps l
      if !scriptShape l then 1
      else if u.session then 3
      else if !ops.all (opPermitted u.lc) then 4
      else if ops.any fun o => o.kind != 4 && regionLocked u (opRegion o) then 5
      else if ops.any fun o => regionBroken u (opRegion o) || (regionBroken u 3 && !(o.kind == 4 && o.target == 5)) then 6
      else if !((ops.dropLast.all fun o => o.kind != 4) &&
          (ops.all fun o => o.kind != 4 || transitionOk u o.target)) then 10
      else 0

/-! Running operations (R326 to R330). -/

/-- The lock of region `j` (R328): the reason it fails with, 0 for none. -/
def lockRegion (env : FuseEnv) (b : Burn) (j sl : Nat) : Burn × Nat :=
  if j = 1 ∧ !((upFrom 15 7).all fun w => wordValid w (wordNow b.u w)) then (b, 12)
  else if regionMarginal b.u j || sl != regionSeal { b.u with shadow := b.u.normal } (rowThrough b.u 0) j then (b, 7)
  else
    let p := programWords env [(9 + j, sl), (4 + j, 0x4C4F434B00000000 + j)] b
    if p.2 = 0 then
      let u := [9 + j, 4 + j].foldl shadowWord p.1.u
      ({ p.1 with u := { u with locked := insertNat j u.locked } }, 0)
    else p

/-- Generate identity (R329): the key is a free value between 1 and the order of the curve less 1. -/
def makeIdentity (env : FuseEnv) (b : Burn) : Burn × Nat :=
  if (upFrom 15 7).any fun w => wordNow b.u w != 0 then (b, 12)
  else
    let d := (Config.drawnKey b.ctr).toNat % (p384n - 1) + 1
    let q := p384Public d
    let id := fieldLe (sha384 (leBytes 48 q.1 ++ leBytes 48 q.2)) 0 8
    let ws := ((List.range 6).map fun i => (15 + i, bits d (64 * i + 63) (64 * i))) ++ [(21, if id = 0 then 1 else id)]
    let p := programWords env ws { b with ctr := b.ctr + 1 }
    if p.2 = 0 then ({ p.1 with u := (upFrom 15 7).foldl shadowWord p.1.u }, 0) else p

/-- One operation: the reason it fails with, 0 for none. -/
def runFuseOp (env : FuseEnv) (b : Burn) (o : FuseOp) : Burn × Nat :=
  match o.kind with
  | 1 =>
    let p := programRow env b o.row o.data
    if p.2 then ({ p.1 with u := shadowRow p.1.u o.row }, 0) else (p.1, 9)
  | 2 =>
    let p := programWord env b o.row o.data
    if p.2 = 0 then ({ p.1 with u := shadowWord p.1.u o.row }, 0) else p
  | 3 => lockRegion env b o.target o.data
  | 4 =>
    let p := programWord env b (o.target - 1) (0x4C49464500000000 + o.target)
    if p.2 = 0 then ({ p.1 with u := shadowWord p.1.u (o.target - 1) }, 0) else p
  | _ => makeIdentity env b

/-- Operations in order until one fails: how many ran, and the reason. -/
def runFuseOps (env : FuseEnv) : List FuseOp → Burn → Nat → Burn × Nat × Nat
  | [], b, n => (b, n, 0)
  | o :: t, b, n =>
    let p := runFuseOp env b o
    if p.2 = 0 then runFuseOps env t p.1 (n + 1) else (p.1, n, p.2)

/-- FUS_STATUS after a session or completion. -/
def fuseStatus (s : State) (ops reason result : Nat) : State :=
  scEvent s (oFus 8) fun _ => ops % 256 * 2 ^ 16 + reason * 2 ^ 8 + result * 2 ^ 4

/-- A life-cycle word has verified: credits are withheld and DRAM is blocked (R362), and the reset is due (R330). -/
def lifeCycleVerified (s : State) : State := { s with boot := { s.boot with blocked := true, lcReset := true } }

/-- A reread starts, or waits for the session that programs (R322). -/
def startReread (s : State) : State :=
  if s.fuses.session then { s with fuses := { s.fuses with rereadWaits := true } }
  else scEvent { s with fuses := { s.fuses with rereadActive := true, rereadWaits := false } } (oFus 0x10) fun _ => 1

/-- The session's end (R323, R325, R330, R332). -/
def endSession (s : State) (did ops reason spares : Nat) (lifeCycle : Bool) : State :=
  let s1 := fuseStatus { s with fuses := { s.fuses with session := false }, tally := { s.tally with intent := none } } ops reason
    (if reason = 0 then 1 else 2)
  let s2 := finishDesc s1 did (if reason = 0 then ⟨0, 0, ops, spares⟩ else ⟨0x0A, reason, 0, 0⟩)
  let s3 := if reason = 0 ∧ lifeCycle then lifeCycleVerified s2 else s2
  if s3.fuses.rereadWaits then startReread s3 else s3

/-- The bits that operation `i` of a session sets before a reset or a loss of power cuts it short (R332): the array alone keeps them. -/
def cutOp (s : State) (env : FuseEnv) (ops : List FuseOp) (i : Nat) : State :=
  match env.cut, ops[i]? with
  | some n, some o =>
    let b := (runFuseOp env ⟨s.fuses, s.freeCtr, 0, some n⟩ o).1
    { s with fuses := { s.fuses with normal := b.u.normal, high := b.u.high, low := b.u.low, redirect := b.u.redirect }, freeCtr := b.ctr }
  | _, _ => s

/-- Running the operations of an open session, up to `upTo` of them in all. A session that is cut short in its next operation stays as it
is until the reset (R332). -/
def runSession (s : State) (did : Nat) (env : FuseEnv) (d : Desc) (l : List Byte) : State :=
  let ops := fuseOps l
  let from_ := natAt d.prog 0
  let to_ := min ops.length ((env.upTo.getD ops.length))
  let r := runFuseOps env ((ops.take to_).drop from_) ⟨s.fuses, s.freeCtr, natAt d.prog 1, none⟩ from_
  let s1 := { s with fuses := r.1.u, freeCtr := r.1.ctr }
  if r.2.2 = 0 ∧ to_ < ops.length then
    modDesc (cutOp s1 env ops (max from_ to_)) did fun d =>
      { d with prog := [max from_ to_, r.1.spares], work := if env.cut.isSome then 9 else d.work }
  else endSession s1 did r.2.1 r.2.2 r.1.spares (ops.getLast?.any fun o => o.kind == 4)

/-- The script of a FUSE_SESSION descriptor, none where its read failed. -/
def fuseScript (env : OpEnv) (m : List Byte) : Option (List Byte) := hostBytes env.host (bSrcA m - 2 ^ 63) (bCount m)

/-- FUSE_SESSION (R323 to R332): the script is read and checked, its intent recorded and its operations run. It waits while a reread
runs (R322). -/
def execFuseSession (did : Nat) (env : OpEnv) (fuse : FuseEnv) (s : State) : Answer :=
  match getDesc s did with
  | none => .next s
  | some d =>
    let m := d.members.headD []
    if !isAdmin d.pair || bOp m != 0x47 || d.result.isSome || s.fuses.rereadActive || d.work == 9 then .next s
    else if d.work = 8 then
      match s.tally.intent with
      | some (l, true) => .next (runSession s did fuse d l)
      | _ => .next s
    else if !isHost (bSrcA m) || bSrcA m % 64 != 0 then .next (finishDesc s did ⟨8, 0, 0x10, 0⟩)
    else if !rangeOk (bSrcA m) (bCount m) then .next (finishDesc s did ⟨8, 0, 0x58, 0⟩)
    else if !dmaOpen s (pairHead d.pair) then .next s
    else
      let script := fuseScript env m
      let r := scriptReason s.fuses (bCount m) script
      if r ≠ 0 then
        let s1 := fuseStatus s 0 r 2
        .next (finishDesc s1 did ⟨0x0A, r, 0, 0⟩)
      else if !fuse.tallyOk then
        let s1 := fuseStatus (tallyFail s 6) 0 11 2
        .next (finishDesc s1 did ⟨0x0A, 11, 0, 0⟩)
      else
        let l := script.getD []
        let s1 := { s with tally := { s.tally with intent := some (l, true) }, fuses := { s.fuses with session := true } }
        let s2 := modDesc s1 did fun d => { d with work := 8, prog := [0, 0] }
        .next (runSession s2 did fuse { d with prog := [0, 0] } l)

/-! Completion at start-up (R332). -/

/-- Every copy of every redirection entry takes the bits its majority holds at 1. -/
def healEntries (b : Burn) : Burn := (List.range 64).foldl (fun b k => burnEntry b k (redirEntry b.u 0 k)) b

/-- An open intent record whose CRC holds is completed; any other is ignored (R332). -/
def completeIntent (s : State) (env : FuseEnv) : State :=
  match s.tally.intent with
  | some (l, true) =>
    let r := runFuseOps env (fuseOps l) (healEntries ⟨s.fuses, s.freeCtr, 0, none⟩) 0
    let s1 := { s with fuses := { r.1.u with intentDone := true }, freeCtr := r.1.ctr, tally := { s.tally with intent := none } }
    let s2 := fuseStatus s1 r.2.1 r.2.2 3
    if r.2.2 = 0 then s2 else raise s2 9 2 1 0 r.2.2
  | _ => { s with fuses := { s.fuses with intentDone := false } }

/-! Rereads (R322). -/

/-- The words of a row: three privileged words or four of 64 bits. -/
def rowWords (r : Nat) : List (Nat × Nat) :=
  if r < 10 then [(79, 0), (159, 80), (239, 160)] else [(63, 0), (127, 64), (191, 128), (255, 192)]

/-- Words drifted from the shadow and words marginal: row and whether each holds. -/
def rereadWords (u : Fuses) : List (Nat × Bool × Bool) :=
  ((List.range 2048).map fun r => (rowWords r).map fun w =>
    (r, bits (rowThrough u 0 r) w.1 w.2 != bits (tabGet (0 : BitVec 256) u.shadow r).toNat w.1 w.2, marginalAt u r w.1 w.2)).flatten

/-- A write of FUS_CMD is taken. -/
def takeFusCmd (s : State) (v : Nat) : State := if bitOf v 0 && !s.fuses.rereadActive then startReread s else s

/-- FUSE_REREAD (R322). -/
def execFuseReread (path : Nat) (s : State) : Answer :=
  onElement (okPath path) (.next (writeNow s path (oFus 0xC) 200 1 fun s => takeFusCmd s 1))

/-- FUSE_REREAD_DONE (R322). -/
def execFuseRereadDone (s : State) : Answer :=
  if s.fuses.rereadActive then
    let ws := rereadWords s.fuses
    let drift := ws.countP fun w => w.2.1
    let marg := ws.countP fun w => w.2.2
    let regions := [0, 1, 2, 3, 4, 5].foldl (fun a j => a + if ws.any (fun w => regionOfRow w.1 == j && (w.2.1 || w.2.2)) then 2 ^ (2 + j) else 0) 0
    let s1 := scEvent { s with fuses := { s.fuses with rereadActive := false } } (oFus 0x10) fun _ =>
      min 255 drift * 2 ^ 16 + min 255 marg * 2 ^ 8 + regions + 2
    .next (if drift + marg = 0 then s1 else raise s1 9 1 1 0 0)
  else .next s

end Sys2Proof.Machine
end

