-- ==== Sys2Proof/Machine/Training.lean ====
section
/-! DEFINITION. Training of the tier links (12): the sweeps of a pass (R297, R298), the check and apply of R300, the outcomes of R302, calibration records (R304 to
R306), rescaling (R308), modes, passes and the commands of FLM_TRN_CMD. -/

namespace Sys2Proof.Machine

/-! Effective temperatures (R409), in quarter degrees. -/

/-- The model value of position `k` = 8 t + s. -/
def modelAt (s : State) (k : Nat) : Int := tabGet 0 s.thm.model k / 300

/-- The sensor of a position is invalid (R407). -/
def posInvalid (s : State) (k : Nat) : Bool := decide (0 < tabGet 0 s.thm.invalid k)

/-- The effective temperature of a position (R409). -/
def effTemp (s : State) (k : Nat) : Int :=
  if s.thm.untrusted.contains (k / 8) && s.thm.seeded.contains k then
    if posInvalid s k then modelAt s k else max (modelAt s k) (tabGet 0 s.thm.reading k)
  else tabGet 0 s.thm.reading k

/-- The effective temperature of a tier (R409). -/
def tierTemp (s : State) (t : Nat) : Int := (upFrom (8 * t + 1) 7).foldl (fun a k => max a (effTemp s k)) (effTemp s (8 * t))

/-! Window words (R311). -/

/-- Bits of a window word that have a field. -/
def wordMask (k : Nat) : Nat :=
  if isDataWord k then 0x7F7F7F7F else if isCaWord k then 0x7F3F else if isStbWord k then 0x7F else if k = 377 then 0x1FF else 0

/-- The word's wire is in use: not steered out, not an erasure, and for a spare wire, in the place of another (R13, R15, R299). -/
def wireUsed (u : SubChan) (k : Nat) : Bool :=
  if k < 361 then
    !(u.steer.any fun e => e.2 == k + 1) &&
      !(decide (k < 320) && u.erasures.contains (if k < 256 then k / 64 * 128 + k % 64 else (k - 256) / 16 * 128 + 64 + (k - 256) % 16))
  else if k < 377 then decide (0 < tabGet 0 u.steer (k - 361)) else true

/-- The strobe group of a data word, none for a wire not in use; a spare belongs to the group of the wire it replaces (R295). -/
def strobeGroup (u : SubChan) (k : Nat) : Option Nat :=
  let r := roleWord u k
  if !wireUsed u k then none
  else if r < 256 then some (r / 32) else if r < 320 then some ((r - 256) / 8) else none

/-! Records (R304 to R306). -/

/-- The number of a record: flume, tier, point. -/
def calKey (f t opp : Nat) : Nat := (f * 17 + t) * 4 + opp

/-- The mean of codes, rounded to the nearest. -/
def meanOf (l : List Nat) : Nat := if l.isEmpty then 0 else (2 * l.sum + l.length) / (2 * l.length)

/-- The codes of a quantity over the words of strobe group `g`. -/
def groupCodes (u : SubChan) (t : Tab Word) (g hi lo : Nat) : List Nat :=
  (trnWords.filter fun k => strobeGroup u k == some g).map fun k => bits (winWord t k) hi lo

/-- The mean of a quantity over the CA words. -/
def caMean (u : SubChan) (t : Tab Word) (hi lo : Nat) : Nat :=
  meanOf ((trnWords.filter fun k => wireUsed u k && isCaWord (roleWord u k)).map fun k => bits (winWord t k) hi lo)

/-- A bay's section of a record (R304): byte strings of the windows in force and of the pass. -/
def calSection (s : State) (f sc t commits : Nat) : List Byte :=
  let b := getBay s (bayKey f sc t)
  let u := getSub s (subKey f sc)
  let g := fun hi lo => (List.range 8).map fun i => BitVec.ofNat 8 (meanOf (groupCodes u b.inForce i hi lo))
  let w := winWord b.inForce 377
  g 6 0 ++ g 14 8 ++ g 22 16 ++ g 30 24 ++
    ((List.range 8).map fun i => BitVec.ofNat 8 (winWord b.inForce (345 + 2 * i))) ++
    leBytes 1 (caMean u b.inForce 5 0) ++ leBytes 1 (caMean u b.inForce 14 8) ++
    leBytes 1 (if b.tuned then bits w 7 0 else 0) ++ leBytes 1 (b2n b.tuned + 2 * bits w 8 8 + 4 * b2n b.fallback) ++
    leBytes 2 ((b.commitTemp % 65536).toNat) ++ leBytes 1 b.minEye ++ [0] ++ leBytes 4 (min (2 ^ 32 - 1) commits) ++ leBytes 4 0

/-- The good record of a tier and point (R306), only of OPP3 with the trim default. -/
def calRecord (s : State) (f t opp : Nat) : Option CalRec :=
  if trimDefault s && opp != 3 then none else (tabGet none s.tally.cal (calKey f t opp)).bind bestCopy

/-- A bay's section of it. -/
def calBay (s : State) (f sc t opp : Nat) : Option (List Byte) :=
  (calRecord s f t opp).bind fun r => if (tabGet [] r.bays sc).isEmpty then none else some (tabGet [] r.bays sc)

/-- The seed of a window word (R306), none where there is none. -/
def seedWord (s : State) (f sc t opp k : Nat) : Option Nat :=
  (calBay s f sc t opp).bind fun l =>
    let u := getSub s (subKey f sc)
    let r := roleWord u k
    let at_ := fun o => fieldLe l o 1
    if isDataWord r then
      (strobeGroup u k).map fun g => at_ g + 2 ^ 8 * at_ (8 + g) + 2 ^ 16 * at_ (16 + g) + 2 ^ 24 * at_ (24 + g)
    else if isCaWord r then some (at_ 0x28 + 2 ^ 8 * at_ 0x29)
    else if isStbWord r then some (at_ (0x20 + (r - 345) / 2))
    else if k = 377 then some (at_ 0x2A + 2 ^ 8 * (at_ 0x2B / 2 % 2)) else none

/-- A record's bays with the section of one more committed pass. -/
def addSection (s : State) (f t : Nat) (bays : Tab (List Byte)) (sc : Nat) : Tab (List Byte) :=
  tabSet [] bays sc (calSection s f sc t (fieldLe (tabGet [] bays sc) 0x30 4 + 1))

/-- Writing the record of a tier at the flume's point after commits on some sub-channels: one write for all of them (R305). -/
def writeCal (s : State) (f t : Nat) (scs : List Nat) : State :=
  let k := calKey f t (getFlume s f).opp
  let old := (tabGet none s.tally.cal k).bind bestCopy
  let rec_ : CalRec := ⟨scs.foldl (addSection s f t) ((old.map fun r => r.bays).getD [])⟩
  { s with tally := { s.tally with cal := tabMod none s.tally.cal k (fun o => some (putCopy o rec_)), calAt := tabSet 0 s.tally.calAt k s.now } }

/-- The record writes that the commits of a flume have left due; one that the tally store does not take raises a notice (R305). -/
def writeRecords (s : State) (f : Nat) : State :=
  forAll s (upFrom 0 17) fun s t =>
    let due := [0, 1, 2, 3].filter fun sc => (getBay s (bayKey f sc t)).record.isSome
    if due.isEmpty then s
    else
      let ok := due.all fun sc => (getBay s (bayKey f sc t)).record == some true
      forAll (if ok then writeCal s f t due else tallyFail s 1) due fun s sc => modBay s (bayKey f sc t) fun b => { b with record := none }

/-! The check of R300. -/

/-- The value a code is compared with: in force, else the seed; with the trim default the seed alone (R300, R306). -/
def prevWord (s : State) (f sc t k : Nat) : Option Nat :=
  let b := getBay s (bayKey f sc t)
  if b.trained && !trimDefault s then some (winWord b.inForce k) else seedWord s f sc t (getFlume s f).opp k

/-- The distance of two codes. -/
def codeGap (a b : Nat) : Nat := max a b - min a b

/-- Check 2 compares xing_dly only where the bay ran in Tuned mode before or has a seed of that mode (R300). -/
def xingPrev (s : State) (f sc t : Nat) : Bool :=
  let b := getBay s (bayKey f sc t)
  if b.trained then b.tuned
  else match calBay s f sc t (getFlume s f).opp with
    | some l => bitOf (fieldLe l 0x2B 1) 0
    | none => false

/-- What a pass measured of a word: the runs of its delay sweeps, and of its other sweeps. -/
structure TapRuns where
  delays : List (List Nat)
  others : List (List Nat)
  deriving DecidableEq, Repr

/-- The lowest-numbered check a staged word fails, 0 for none. `tuned`: the pass trains for Tuned mode. -/
def wordCheck (s : State) (f sc t : Nat) (tuned : Bool) (runs : Nat → TapRuns) (st : Tab Word) (k : Nat) : Nat :=
  let v := winWord st k
  let opp := (getFlume s f).opp
  let qs := (quantities (roleWord (getSub s (subKey f sc)) k)).filter fun q => q.1 != 7 || tuned
  let far := qs.any fun q => isDelay q.1 && (q.1 != 7 || xingPrev s f sc t) && match prevWord s f sc t k with
    | some p => decide (19 < codeGap (bits v q.2.1 q.2.2) (bits p q.2.1 q.2.2))
    | none => false
  let out := qs.any fun q => q.1 != 8 && outOfBounds s q.1 opp (bits v q.2.1 q.2.2)
  if (runs k).delays.any fun r => decide (r.length < 23) then 1 else if far then 2 else if out then 3
  else if (runs k).others.any (·.isEmpty) then 4 else 0

/-- The words whose wires are in use: a pass trains and checks these. -/
def liveWords (s : State) (f sc : Nat) : List Nat := trnWords.filter (wireUsed (getSub s (subKey f sc)))

/-- The first failing word and its check (R300). -/
def staleCheck (s : State) (f sc t : Nat) (tuned : Bool) (runs : Nat → TapRuns) (st : Tab Word) : Option (Nat × Nat) :=
  (liveWords s f sc).findSome? fun k => let c := wordCheck s f sc t tuned runs st k; if c = 0 then none else some (k, c)

/-- Check 2 is skipped for some code of the bay: one notice per pass (R300). -/
def skipsCheck (s : State) (f sc t : Nat) (tuned : Bool) : Bool :=
  ((liveWords s f sc).any fun k => (prevWord s f sc t k).isNone) || (tuned && !xingPrev s f sc t)

/-- A notice of the training source (R303). -/
def trnNotice (s : State) (f sc t : Nat) : State := event s (32 + f) 8 1 (sc + 4 * t) 0

/-- FLM_TRN_STATUS after an apply, and the notice of a refused one. -/
def noteApply (s : State) (f sc t kind : Nat) (r : Option (Nat × Nat)) : State :=
  match r with
  | none => scEvent s (oFlm f 0x154) fun v => putBits v 1 0 1
  | some (k, c) =>
    let put := fun v => putBits (putBits (putBits (putBits (putBits (putBits v 23 15 k) 14 12 c) 11 7 t) 6 5 sc) 4 3 kind) 1 0 2
    trnNotice (scEvent s (oFlm f 0x154) put) f sc t

/-- A fallback, redirection or offline bay is told (FLM_TRN_STATUS.escalated). -/
def noteEscalated (s : State) (f : Nat) : State := scEvent s (oFlm f 0x154) fun v => putBits v 2 2 1

/-! Passes (R297, R298). -/

/-- What a pass starts from: the codes in force, a wake pass the seeds (R297). -/
def passBase (s : State) (f sc t kind k : Nat) : Nat :=
  if kind = 2 then (seedWord s f sc t (getFlume s f).opp k).getD 0 else winWord (getBay s (bayKey f sc t)).inForce k

/-- The points of the sweep a pass of a kind makes of quantity `q` of word `k`, none where it makes none (R297, R298): a full pass sweeps
all, a retune the delays of steps 3 to 5 near the codes in force, a post-change pass their thresholds too, a wake pass every delay near
the seed, and all over the full range where there is no record. -/
def sweepPoints (s : State) (f sc t kind : Nat) (tuned : Bool) (k q base : Nat) : List Nat :=
  if q = 8 ∨ (q = 7 ∧ !tuned) then []
  else if kind = 0 then fullPoints q
  else if kind = 2 then
    if (seedWord s f sc t (getFlume s f).opp k).isNone then fullPoints q else if isDelay q then nearPoints q base else []
  else if q = 5 ∨ q = 6 then []
  else if kind = 1 ∧ !isDelay q then [] else nearPoints q base

/-- The sweeps a pass makes of a word, by quantity: its bits and its passing run. -/
def sweepsOf (s : State) (f sc t kind : Nat) (tuned : Bool) (res : PassRes) (k : Nat) : List ((Nat × Nat × Nat) × List Nat) :=
  let u := getSub s (subKey f sc)
  if !wireUsed u k then []
  else (quantities (roleWord u k)).filterMap fun q =>
    let pts := sweepPoints s f sc t kind tuned k q.1 (bits (passBase s f sc t kind k) q.2.1 q.2.2)
    if pts.isEmpty then none else some (q, passRun (sweepFails res.sweeps k q.1) pts)

/-- The runs of a word. -/
def runsOf (s : State) (f sc t kind : Nat) (tuned : Bool) (res : PassRes) (k : Nat) : TapRuns :=
  let l := sweepsOf s f sc t kind tuned res k
  ⟨(l.filter fun e => isDelay e.1.1).map (·.2), (l.filter fun e => !isDelay e.1.1).map (·.2)⟩

/-- The word a pass leaves: the centre of each sweep's run, other codes as they were, the clock pair as step 1 found it (R296, R298). -/
def gatherWord (s : State) (f sc t kind : Nat) (tuned : Bool) (res : PassRes) (k : Nat) : Nat :=
  let v := (sweepsOf s f sc t kind tuned res k).foldl (fun v e => if e.2.isEmpty then v else putBits v e.1.2.1 e.1.2.2 (runCentre e.2))
    (passBase s f sc t kind k)
  if k = 377 ∧ (kind = 0 ∨ kind = 2) then putBits v 8 8 (b2n res.standby) else v

/-- The staged window a pass leaves. -/
def gathered (s : State) (f sc t kind : Nat) (tuned : Bool) (res : PassRes) : Tab Word :=
  trnWords.foldl (fun w k => tabSet (0 : Word) w k (BitVec.ofNat 32 (gatherWord s f sc t kind tuned res k))) []

/-- The smallest eye width of a pass (R304), 0 where it swept no delay. -/
def minEye (s : State) (f sc t kind : Nat) (tuned : Bool) (res : PassRes) : Nat :=
  match (trnWords.map fun k => ((runsOf s f sc t kind tuned res k).delays.map (·.length))).flatten with
  | [] => 0
  | n :: l => minOf n l

/-- The training buffer after a pass: the lines its write steps left there, which the spec does not give (R297; free, log 87). -/
def fillBuffer (s : State) (f sc t : Nat) : State :=
  bumpFree (modBay s (bayKey f sc t) fun b =>
    { b with buffer := (List.range 64).foldl (fun w i => tabSet (0 : Line) w i (Config.trainLine s.freeCtr i)) [] })

/-- Passes of a bay that run or wait. -/
def passBusy (s : State) (f sc t : Nat) : Bool :=
  let x := getFlume s f
  (match tabGet none x.passes sc with
    | some p => p.tier == t
    | none => false) || (tabGet [] x.passQueue sc).any fun e => e.1 == t

/-- A pass of the flume is gathering (R307). -/
def gathering (s : State) (f : Nat) : Bool := (List.range 4).any fun sc => (tabGet none (getFlume s f).passes sc).isSome

/-- Putting a full pass of a bay before all that wait (R302). -/
def passAtOnce (s : State) (f sc t kind : Nat) (tuned : Bool) : State :=
  modFlume s f fun x => { x with passQueue := tabSet [] x.passQueue sc ((t, kind, tuned) :: tabGet [] x.passQueue sc) }

/-- A bay is no longer waited for. -/
def passOver (s : State) (f sc t : Nat) : State := modFlume s f fun x => { x with trnWait := x.trnWait.filter (· != (sc, t)) }

/-- The commit of a bay's staged codes: its record is due, but for a retune within 60 s of the last write (R300, R305). -/
def commitPass (s : State) (f sc t kind : Nat) (tuned : Bool) (minEye : Nat) (tallyOk : Bool) : State :=
  let own := (getFlume s f).tunedMode
  let early := decide (kind = 1) && decide (s.now < tabGet 0 s.tally.calAt (calKey f t (getFlume s f).opp) + 60000000000)
  let s1 := modBay s (bayKey f sc t) fun b =>
    { b with inForce := b.staged, trained := true, tuned := tuned, fallback := !tuned && own && b.fallback, refusals := 0,
             commitAt := s.now, commitTemp := tierTemp s t, minEye := minEye, record := if early then b.record else some tallyOk }
  modSub s1 (subKey f sc) fun u => { u with cycle := u.cycle + 8 }

/-- What follows a refused pass (R302). `live`: the device is past start-up, so a redirection copies. -/
def passRefused (s : State) (f sc t kind : Nat) (tuned live : Bool) : State :=
  let k := bayKey f sc t
  if kind = 1 ∨ kind = 3 then
    let n := (getBay s k).refusals + 1
    if n < 3 then passOver (modBay s k fun b => { b with refusals := n, refusedAt := s.now, refusedKind := kind }) f sc t
    else passAtOnce (modBay s k fun b => { b with refusals := 0 }) f sc t 0 (getBay s k).tuned
  else if kind = 2 then passAtOnce s f sc t 0 tuned
  else if tuned then
    let s1 := modBay s k fun b => { b with fallback := true, tuned := false }
    passAtOnce (trnNotice (noteEscalated s1 f) f sc t) f sc t 0 false
  else if (getBay s k).offline then passOver s f sc t
  else passOver (redirectBay (noteEscalated s f) f sc t (32 + f) 8 live) f sc t

/-- Clock pairs found lost at a full or wake pass (R14, R298 step 1). -/
def clockLoss (s : State) (f sc : Nat) (res : PassRes) : State :=
  if res.noClock then loseCopy (loseCopy s f sc true 0) f sc true 1
  else if res.standby then loseCopy s f sc true 0 else s

/-- A pass ends: its staged values are checked and applied or refused (R300, R302). -/
def endPass (s : State) (f sc t kind : Nat) (tuned live : Bool) (res : PassRes) : State :=
  let k := bayKey f sc t
  let s1 := fillBuffer (if kind = 0 ∨ kind = 2 then clockLoss s f sc res else s) f sc t
  let st := gathered s1 f sc t kind tuned res
  let s2 := modBay s1 k fun b => { b with staged := st }
  let s3 := if skipsCheck s2 f sc t tuned then trnNotice s2 f sc t else s2
  if (getSub s1 (subKey f sc)).offline then passOver s1 f sc t
  else match staleCheck s3 f sc t tuned (runsOf s1 f sc t kind tuned res) st with
  | none => passOver (commitPass (noteApply s3 f sc t kind none) f sc t kind tuned (minEye s1 f sc t kind tuned res) res.tallyOk) f sc t
  | some r => passRefused (noteApply s3 f sc t kind (some r)) f sc t kind tuned live

/-- A sub-channel that waited for retraining runs again, with its replay, when none of its passes is left (R65). -/
def unstop (s : State) (f sc : Nat) : State :=
  let x := getFlume s f
  if (getSub s (subKey f sc)).stopped ∧ (tabGet none x.passes sc).isNone ∧ tabGet [] x.passQueue sc = [] then resume s f sc
  else s

/-- TRAINING_PASS_END (R300, R302): the pass of the sub-channel has gathered; the next one starts. -/
def execTrainingPassEnd (f sc : Nat) (res : PassRes) (s : State) : Answer :=
  onElement (okSub f sc) <|
    match tabGet none (getFlume s f).passes sc with
    | none => .next s
    | some p =>
      let s1 := modFlume s f fun x => { x with passes := tabSet none x.passes sc none }
      let s2 := writeRecords (endPass s1 f sc p.tier p.kind p.tuned true res) f
      .next (unstop (startPass s2 f sc) f sc)

/-! Retunes (R294, R302). -/

/-- FLM_TRN_RETUNE.period in ns, and drift in quarter degrees. -/
def retunePeriod (s : State) (f : Nat) : Nat := max 1 (min 50 (regField s (oFlm f 0x144) 15 8)) * 1000000
def retuneDrift (s : State) (f : Nat) : Int := 4 * (max 1 (regField s (oFlm f 0x144) 3 0) : Nat)

/-- Passes of a Tuned bay may start: flume in Run or Trim, bay trained, in service and in Tuned mode, no pass of it due (R294). -/
def retuneOpen (s : State) (f sc t : Nat) : Bool :=
  let b := getBay s (bayKey f sc t)
  let x := getFlume s f
  decide (x.pstate ≤ 1) && x.entering.isNone && !s.flt.safe && b.trained && b.tuned &&
    !bayOut s f sc t && !passBusy s f sc t

/-- A pass of a bay waits, and starts where none runs. -/
def duePass (s : State) (f sc t kind : Nat) (tuned : Bool) : State := startPass (queuePasses s f sc kind tuned [t]) f sc

/-- FLM_TRN_CTL.retune_en. -/
def retuneEn (s : State) (f : Nat) : Bool := bitOf (regGet s (oFlm f 0x140)).toNat 1

/-- The retune of a bay by its period, while retune_en is 1; after two periods with no commit, as after a third refusal, a full pass
(R294, R302). -/
def retuneBay (s : State) (f sc t : Nat) : State :=
  let b := getBay s (bayKey f sc t)
  if b.commitAt + 2 * retunePeriod s f ≤ s.now then duePass s f sc t 0 true
  else if retuneEn s f then duePass s f sc t 1 true else s

/-- RETUNE_PERIOD_EXPIRY (R294). -/
def execRetunePeriodExpiry (f sc tier : Nat) (s : State) : Answer :=
  onElement (okBay f sc tier) <|
    let b := getBay s (bayKey f sc tier)
    if retuneOpen s f sc tier && decide (b.commitAt + retunePeriod s f ≤ s.now) then .next (retuneBay s f sc tier) else .next s

/-- A drift of the tier's temperature starts a retune (R294). -/
def driftRetune (s : State) (f sc t : Nat) : State :=
  let b := getBay s (bayKey f sc t)
  let d := tierTemp s t - b.commitTemp
  if retuneOpen s f sc t && retuneEn s f && decide (retuneDrift s f < d ∨ retuneDrift s f < -d) then duePass s f sc t 1 true else s

/-- RETUNE_RETRY (R302): 1 ms after a refusal the pass is repeated. -/
def execRetuneRetry (f sc tier : Nat) (s : State) : Answer :=
  onElement (okBay f sc tier) <|
    let b := getBay s (bayKey f sc tier)
    if decide (0 < b.refusals) && decide (b.refusedAt + 1000000 ≤ s.now) && !passBusy s f sc tier && !bayOut s f sc tier then
      .next (duePass s f sc tier b.refusedKind b.tuned)
    else .next s

/-! Modes and commands (R292, R311). -/

/-- Full passes of bays for which the block stays busy. -/
def commandPasses (s : State) (f sc kind : Nat) (tuned : Bool) (tiers : List Nat) : State :=
  let s1 := queuePasses s f sc kind tuned tiers
  startPass (modFlume s1 f fun x => { x with trnWait := x.trnWait ++ tiers.map fun t => (sc, t) }) f sc

/-- The bays of a sub-channel that a full training takes: those in service. -/
def bayTiers (s : State) (f sc : Nat) : List Nat := (upFrom 0 17).filter fun t => !bayOut s f sc t

/-- A full training of a flume in a mode (R292). -/
def trainFlume (s : State) (f : Nat) (tuned : Bool) : State :=
  forAll (modFlume s f fun x => { x with tunedMode := tuned }) [0, 1, 2, 3] fun s sc => commandPasses s f sc 0 tuned (bayTiers s f sc)

/-- A write of FLM_TRN_CTL is taken: retune_en is Live, mode_req Held (R292, R441, R442). -/
def takeTrnCtl (s : State) (path f v : Nat) : State :=
  let o := oFlm f 0x140
  let old := (regGet s o).toNat
  let s1 := regSet s o (BitVec.ofNat 32 (maskedValue old v 2))
  if !bitOf v 16 then s1
  else if (getFlume s f).held then trainFlume (regPut s1 o 0 0 (v % 2)) f (bitOf v 0)
  else accessFault s1 path 5 o

/-- MODE_CHANGE (R292). -/
def execModeChange (path f : Nat) (v : Word) (s : State) : Answer :=
  onElement (okPath path && okF f) (.next (writeNow s path (oFlm f 0x140) (32 + f) v.toNat fun s => takeTrnCtl s path f v.toNat))

/-- cmd 1: a full pass of one bay in the flume's mode. -/
def fullBay (s : State) (f sc t : Nat) : State :=
  if okBay f sc t && !(getSub s (subKey f sc)).offline then commandPasses s f sc 0 (getFlume s f).tunedMode [t] else s

/-- cmd 2: full passes of every bay of a sub-channel, offline bays among them (R302). -/
def fullSub (s : State) (f sc : Nat) : State :=
  if (getSub s (subKey f sc)).offline then s else commandPasses s f sc 0 (getFlume s f).tunedMode (upFrom 0 17)

/-- cmd 3: a retune pass of one bay, while retune passes start (R294). -/
def retuneCmd (s : State) (f sc t : Nat) : State :=
  if okBay f sc t && !bayOut s f sc t && (getBay s (bayKey f sc t)).trained && retuneEn s f then
    commandPasses s f sc 1 (getBay s (bayKey f sc t)).tuned [t]
  else s

/-- cmd 4: the check and apply of software's staged values, while held (R301). -/
def applyCmd (s : State) (f sc t : Nat) : State :=
  if !okBay f sc t || !(getFlume s f).held then s
  else
    let b := getBay s (bayKey f sc t)
    match staleCheck s f sc t b.tuned (fun _ => ⟨[], []⟩) b.staged with
    | none => noteApply (modBay s (bayKey f sc t) fun b => { b with inForce := b.staged }) f sc t 0 none
    | some r => noteApply s f sc t 0 (some r)

/-- cmd 5: the loop test, told in FLM_TRN_STATUS where a wire fails (R299). -/
def loopCmd (s : State) (f sc : Nat) (loop : LoopRes) : State :=
  let s1 := loopTest s f sc loop
  match loop.wires with
  | [] => s1
  | w :: t => scEvent s1 (oFlm f 0x154) fun v => putBits (putBits (putBits v 23 15 (minOf w t)) 14 12 5) 6 5 sc

/-- A write of FLM_TRN_CMD is taken (R311). -/
def takeTrnCmd (s : State) (f v : Nat) (loop : LoopRes) : State :=
  let t := bits v 15 11
  let sc := bits v 10 9
  match bits v 2 0 with
  | 1 => fullBay s f sc t
  | 2 => fullSub s f sc
  | 3 => retuneCmd s f sc t
  | 4 => applyCmd s f sc t
  | 5 => loopCmd s f sc loop
  | _ => s

/-- The word of a command of FLM_TRN_CMD. -/
def trnCmdWord (cmd sc t : Nat) : Nat := cmd + sc * 2 ^ 9 + t * 2 ^ 11

/-- A write of FLM_TRN_CMD arrives. -/
def trnCommand (path f v : Nat) (loop : LoopRes) (s : State) : State :=
  writeNow s path (oFlm f 0x148) (32 + f) v fun s => takeTrnCmd s f v loop

/-- FULL_PASS_BAY (R311). -/
def execFullPassBay (path f sc tier : Nat) (s : State) : Answer :=
  onElement (okPath path && okBay f sc tier) (.next (trnCommand path f (trnCmdWord 1 sc tier) ⟨[], []⟩ s))

/-- FULL_PASS_SUBCHANNEL (R311). -/
def execFullPassSubchannel (path f sc : Nat) (s : State) : Answer :=
  onElement (okPath path && okSub f sc) (.next (trnCommand path f (trnCmdWord 2 sc 0) ⟨[], []⟩ s))

/-- RETUNE_PASS_BAY (R311). -/
def execRetunePassBay (path f sc tier : Nat) (s : State) : Answer :=
  onElement (okPath path && okBay f sc tier) (.next (trnCommand path f (trnCmdWord 3 sc tier) ⟨[], []⟩ s))

/-- APPLY_STAGED (R301). -/
def execApplyStaged (path f sc tier : Nat) (s : State) : Answer :=
  onElement (okPath path && okBay f sc tier) (.next (trnCommand path f (trnCmdWord 4 sc tier) ⟨[], []⟩ s))

/-- LOOP_TEST (R299). -/
def execLoopTest (path f sc : Nat) (loop : LoopRes) (s : State) : Answer :=
  onElement (okPath path && okSub f sc) (.next (trnCommand path f (trnCmdWord 5 sc 0) loop s))

/-! Operating-point changes (R308). -/

/-- Rounding a signed quotient to the nearest, half away from zero. -/
def roundDiv (a : Int) (b : Nat) : Int := if a < 0 then -((-2 * a + b) / (2 * b)) else (2 * a + b) / (2 * b)

/-- A code kept in its range. -/
def clampCode (v : Int) (m : Nat) : Nat := min m v.toNat

/-- The new group mean: the record's, or the old scaled by the rates. -/
def newMean (rec_ : Option Nat) (old new_ old_ : Nat) : Int :=
  match rec_ with
  | some v => v
  | none => roundDiv (old * new_ : Nat) old_

/-- A delay code rescaled about its group mean (R308). -/
def rescaleCode (code mean : Nat) (rec_ : Option Nat) (new_ old_ m : Nat) : Nat :=
  clampCode (newMean rec_ mean new_ old_ + roundDiv (((code : Int) - mean) * new_) old_) m

/-- A window word rescaled from point `a` to point `b`; thresholds and the clock pair carry over. -/
def rescaleWord (s : State) (f sc t a b k : Nat) : Nat :=
  let y := getBay s (bayKey f sc t)
  let u := getSub s (subKey f sc)
  let v := winWord y.inForce k
  let sec := calBay s f sc t b
  let ra := busMhz a
  let rb := busMhz b
  let at_ := fun o => sec.map fun l => fieldLe l o 1
  let r := roleWord u k
  if isDataWord r then
    match strobeGroup u k with
    | none => putBits (putBits v 6 0 (clampCode (roundDiv (bits v 6 0 * rb : Nat) ra) 127)) 22 16 (clampCode (roundDiv (bits v 22 16 * rb : Nat) ra) 127)
    | some g =>
      let rd := rescaleCode (bits v 6 0) (meanOf (groupCodes u y.inForce g 6 0)) (at_ g) rb ra 127
      let wr := rescaleCode (bits v 22 16) (meanOf (groupCodes u y.inForce g 22 16)) (at_ (16 + g)) rb ra 127
      putBits (putBits v 6 0 rd) 22 16 wr
  else if isCaWord r then putBits v 5 0 (rescaleCode (bits v 5 0) (caMean u y.inForce 5 0) (at_ 0x28) rb ra 63)
  else if isStbWord r then putBits v 6 0 (clampCode (newMean (at_ (0x20 + (r - 345) / 2)) (bits v 6 0) rb ra) 127)
  else if k = 377 ∧ y.tuned then putBits v 7 0 (clampCode (newMean (at_ 0x2A) (bits v 7 0) rb ra) 255)
  else v

/-- Rescaling every trained bay of a flume, and the post-change pass each then runs (R308). -/
def rescaleFlume (s : State) (f a b : Nat) : State :=
  forAll s [0, 1, 2, 3] fun s sc =>
    let ts := (upFrom 0 17).filter fun t => (getBay s (bayKey f sc t)).trained && !(getSub s (subKey f sc)).offline
    let s1 := forAll s ts fun s t =>
      let w := trnWords.foldl (fun w k => tabSet (0 : Word) w k (BitVec.ofNat 32 (rescaleWord s f sc t a b k))) []
      modBay s (bayKey f sc t) fun y => { y with inForce := w }
    let s2 := forAll s1 ts fun s t => queuePasses s f sc 3 (getBay s (bayKey f sc t)).tuned [t]
    startPass s2 f sc

end Sys2Proof.Machine
end

