-- ==== Sys2Proof/Machine/Mills.lean ====
section
/-! DEFINITION. Mills: dispatch (R134, R144), logic slices (R133), microcode (R135 to R139, R142), faults (R141 to R143), operating
points and droop of mills and flumes (R374 to R383), and the rail code (R377). -/

namespace Sys2Proof.Machine

/-! Dispatch and slices. -/

/-- A write of MIL_CTL is taken: dispatch_en and slice_en are Live (R134, R144). -/
def takeMilCtl (s : State) (m v : Nat) : State :=
  let o := oMil m 0
  let s1 := regSet s o (BitVec.ofNat 32 (maskedValue (regGet s o).toNat v 3))
  if bitOf (regGet s1 o).toNat 0 then refillMills s1 else leaveDispatch s1 m

/-- MIL_DISPATCH_DISABLE (R134). -/
def execMilDispatchDisable (path m : Nat) (v : Word) (s : State) : Answer :=
  onElement (okPath path && okF m) (.next (writeNow s path (oMil m 0) (64 + m) v.toNat fun s => takeMilCtl s m v.toNat))

/-- MILL_LOGIC_SLICE_START (R133): only with no part running or queued. -/
def execMillLogicSliceStart (m : Nat) (s : State) : Answer :=
  onElement (okF m) <|
    let x := getMill s m
    if bitOf (regGet s (oMil m 0)).toNat 1 && bitOf (regGet s (oBst 0)).toNat 0 && x.running.isNone && x.queue.isEmpty && !x.slice &&
        !x.failed && !x.swapPending && x.recovering.isEmpty && !x.testing && decide (x.sliceAfter ≤ s.now) && portAwake s (64 + m) &&
        !s.flt.safe then
      .next (modMill s m fun x => { x with slice := true })
    else .next s

/-- MIL_SLICE.wait_max in ns; values below 10 act as 10 (R144). -/
def sliceWait (s : State) (m : Nat) : Nat := 100 * max 10 (regField s (oMil m 0x18) 15 0)

/-- A part held for mill `m` has waited wait_max (R133). -/
def heldTooLong (s : State) (m : Nat) : Bool :=
  (getMill s m).queue.any fun p => match getPart s p with
    | some x => decide (x.queuedAt + sliceWait s m ≤ s.now)
    | none => false

/-- MILL_SLICE_WAIT_EXPIRY (R133): the slice is abandoned, no sooner run again than 1 ms later, and the part starts. -/
def execMillSliceWaitExpiry (m : Nat) (s : State) : Answer :=
  onElement (okF m) <|
    if (getMill s m).slice && heldTooLong s m then
      .next (startNextPart (modMill s m fun x => { x with slice := false, sliceAfter := s.now + 1000000 }) m)
    else .next s

/-- A mill whose test failed is disabled until the next reset (R349). -/
def failMill (s : State) (m : Nat) : State := leaveDispatch (modMill s m fun x => { x with failed := true }) m

/-- MILL_LOGIC_SLICE_END (R133, R349). -/
def execMillLogicSliceEnd (m : Nat) (pass : Bool) (s : State) : Answer :=
  onElement (okF m) <|
    if !(getMill s m).slice then .next s
    else
      let s1 := sliceRan (modMill s m fun x => { x with slice := false })
      .next (if pass then refillMills s1 else failMill (noteFail s1) m)

/-! Microcode (R135 to R139). -/

/-- The least sec_version a load may carry (R136 reason 5, R138). -/
def minSec (s : State) : Nat := ((s.tally.ucode.bind bestCopy).map fun u => u.minSec).getD 0

/-- The key hash may be used: its region passed its check, and in TEST it is locked (R321, R364). -/
def keyHashUsable (s : State) : Bool :=
  let u := s.fuses
  !u.failed.contains 2 && decide (1 ≤ u.lc ∧ u.lc ≤ 4) && (u.lc != 1 || lockWord u 2)

/-- The header fields of an image (R135, R136 reason 1). -/
def imageShape (l : List Byte) : Bool :=
  let n := fieldLe l 8 4
  fieldLe l 0 4 == 0x4C4C494D && fieldLe l 4 4 == 1 && n % 64 == 0 && decide (64 ≤ n ∧ n ≤ 65536) && l.length == 256 + n &&
    allZero (slice l 0x18 8) && allZero (slice l 0xE0 32)

/-- The signature holds (R135, R136 reason 4). -/
def imageSigned (l : List Byte) : Bool :=
  ecdsaVerify (fieldLe l 0x20 48) (fieldLe l 0x50 48) (fieldLe l 0x80 48) (fieldLe l 0xB0 48) (sha384 (slice l 0 0x80 ++ l.drop 0x100))

/-- The first check that an image fails, 1 to 5, or 0 (R136). -/
def imageReason (s : State) (l : List Byte) : Nat :=
  if !imageShape l then 1
  else if fieldLe l 0x14 4 ≠ 0x594E5132 then 2
  else if !keyHashUsable s || sha384 (slice l 0x20 96) != fuseKeyHash s.fuses then 3
  else if !imageSigned l then 4
  else if fieldLe l 0x10 4 < minSec s then 5 else 0

/-- An image as an instruction store holds it. -/
def ucodeOf (l : List Byte) : Ucode := ⟨l, fieldLe l 0xC 4, fieldLe l 0x10 4⟩

/-- Mills of a mask, ascending. -/
def maskMills (mask : Nat) : List Nat := (List.range 32).filter fun m => bitOf mask m

/-- The microcode load under way, and its target mills that have not swapped. -/
def swapsOf (s : State) : Option (Nat × List Nat) :=
  s.descs.findSome? fun e => match e.2 with
    | some d => if d.work = 3 then some (e.1, maskMills (natAt d.prog 0 - natAt d.prog 1)) else none
    | none => none

/-- The load's completion, once no target is left (R137). -/
def swapsEnd (s : State) (did : Nat) : State :=
  match getDesc s did with
  | some d => if natAt d.prog 0 = natAt d.prog 1 then finishDesc s did ⟨0, 0, natAt d.prog 0, natAt d.prog 2⟩ else s
  | none => s

/-- A load refused counts against the microcode source of each mill it names (R136, R143). -/
def refuseUcode (s : State) (did mask reason : Nat) : State :=
  finishDesc ((maskMills mask).foldl (fun s m => raise s (32 + m) 14 1 0 reason) s) did ⟨0x0A, reason, 0, 0⟩

/-- Persisting an accepted image: its sec_version is the new minimum (R138). -/
def persistUcode (s : State) (l : List Byte) (ok : Bool) : State :=
  if ok then { s with tally := { s.tally with ucode := some (putCopy s.tally.ucode ⟨l, fieldLe l 0x10 4⟩) } } else tallyFail s 2

/-- UCODE_LOAD (R136 to R138): the image is read, checked, and written to the standby bank of every target mill. It waits while
another load swaps. -/
def execUcodeLoad (did : Nat) (env : OpEnv) (tallyOk : Bool) (s : State) : Answer :=
  match getDesc s did with
  | none => .next s
  | some d =>
    let m := d.members.headD []
    let mask := bImm0 m % 2 ^ 32
    if !isAdmin d.pair || bOp m != 0x44 || d.result.isSome || d.work != 0 || (swapsOf s).isSome then .next s
    else if !isHost (bSrcA m) then .next (finishDesc s did ⟨8, 0, 0x10, 0⟩)
    else if !rangeOk (bSrcA m) (bCount m) then .next (finishDesc s did ⟨8, 0, 0x58, 0⟩)
    else if !dmaOpen s (pairHead d.pair) then .next s
    else if 65792 < bCount m then .next (refuseUcode s did mask 1)
    else match hostBytes env.host (bSrcA m - 2 ^ 63) (bCount m) with
      | none => .next (refuseUcode s did mask 6)
      | some l =>
        let r := imageReason s l
        if r ≠ 0 then .next (refuseUcode s did mask r)
        else
          let s1 := if bitOf (bOpt m) 0 then persistUcode s l tallyOk else s
          let s2 := (maskMills mask).foldl (fun s k => modMill s k fun x => { x with standby := some (ucodeOf l) }) s1
          let s3 := modDesc s2 did fun d => { d with work := 3, prog := [mask, 0, fieldLe l 0x10 4] }
          .next (swapsEnd s3 did)

/-- MICROCODE_SWAP (R137 step 1): the next target mill in ascending order leaves dispatch. -/
def execMicrocodeSwap (m : Nat) (s : State) : Answer :=
  onElement (okF m) <|
    match swapsOf s with
    | some (_, k :: _) =>
      if k = m ∧ (getMill s m).swapPending = false ∧ (getMill s m).testing = false ∧ s.flt.safe = false then
        .next (leaveDispatch (modMill s m fun x => { x with swapPending := true }) m)
      else .next s
    | _ => .next s

/-- A mill takes its standby bank: new image active, hash recorded, hopper cleared, enabled (R137 step 3, R142, R143). -/
def swapBanks (x : Mill) : Mill :=
  { x with active := x.standby, standby := x.active, hash := (x.standby.map fun u => sha384 u.image).getD [], hopper := [],
           hopperPoison := [], scalars := [], vectors := [], swapPending := false, disabled := x.standby.isNone }

/-- SWAP_BANK_EXCHANGE (R137 steps 2 to 4). -/
def execSwapBankExchange (m : Nat) (s : State) : Answer :=
  onElement (okF m) <|
    let x := getMill s m
    match swapsOf s with
    | some (did, _) =>
      if x.swapPending && x.running.isNone && x.recovering.isEmpty && !s.flt.safe then
        let s1 := modDesc (modMill s m swapBanks) did fun d =>
          { d with prog := [natAt d.prog 0, natAt d.prog 1 ||| 2 ^ m, natAt d.prog 2] }
        .next (refillMills (swapsEnd s1 did))
      else .next s
    | none => .next s

/-- The microcode load of start-up (R139): the persisted image, checked under reasons 1 to 5, goes to both banks of every mill. -/
def startUcode (s : State) : State :=
  match s.tally.ucode.bind bestCopy with
  | some c =>
    if imageReason s c.image = 0 then
      let u := ucodeOf c.image
      let h := sha384 c.image
      forAll s (List.range 32) fun s m => modMill s m fun x => { x with active := some u, standby := some u, hash := h, disabled := false }
    else forAll s (List.range 32) fun s m => raise s (32 + m) 14 1 0 0
  | none => forAll s (List.range 32) fun s m => raise s (32 + m) 14 1 0 0

/-! Faults (R123, R141 to R143). -/

/-- The part a mill runs ends with a status (R141). -/
def endRunning (s : State) (m status kind : Nat) : State :=
  match (getMill s m).running with
  | none => s
  | some p => endPart (modPart s p fun x => { x with status := some status, resA := if status = 4 then m else 0, resB := if status = 4 then kind else 0 }) m p

/-- A mill fault of a kind: the part ends, the mill goes into recovery, from this kind as well as any it recovers from already, and the
fault counts (R141, R143). -/
def faultMill (s : State) (m status kind : Nat) : State :=
  let s1 := scEvent s (oMil m 0x1C) fun v => putBits (bumpBits v 23 16) 10 8 kind
  let s2 := modMill s1 m fun x => { x with recovering := insertNat kind x.recovering }
  leaveDispatch (raise (endRunning s2 m status kind) (32 + m) 13 1 0 kind) m

/-- MILL_FAULT (R123, R141): kind 1 hopper double-bit, 2 instruction store, 3 register or vector unit; kind 0 is a hopper word
corrected, which only counts. -/
def execMillFault (m kind : Nat) (s : State) : Answer :=
  onElement (okF m && decide (kind < 4)) <|
    if s.flt.safe then .next s
    else if kind = 0 then
      .next (raise (scEvent s (oMil m 0x1C) fun v => bumpBits v 7 0) (32 + m) 12 0 0 0)
    else .next (faultMill s m 4 kind)

/-- MIL_WDOG.limit in ns; 0 acts as 1 ms (R144). -/
def watchdogLimit (s : State) (m : Nat) : Nat := 1000000 * max 1 (regField s (oMil m 0x14) 15 0)

/-- MILL_WATCHDOG (R141): the running part has run longer than the limit. -/
def execMillWatchdog (m : Nat) (s : State) : Answer :=
  onElement (okF m) <|
    match (getMill s m).running.bind (getPart s) with
    | some x => if x.startedAt + watchdogLimit s m < s.now ∧ s.flt.safe = false then .next (faultMill s m 3 4) else .next s
    | none => .next s

/-- The image that recovery reloads: the tally copy, else the active bank of the lowest mill in dispatch with the hash (R142). -/
def reloadImage (s : State) (m : Nat) : Option Ucode :=
  let h := (getMill s m).hash
  let fromTally := ((s.tally.ucode.bind bestCopy).map fun c => c.image).filter fun l => sha384 l == h
  match fromTally with
  | some l => some (ucodeOf l)
  | none =>
    ((List.range 32).find? fun k => k != m && inDispatch s k && (getMill s k).hash == h &&
      ((getMill s k).active.any fun u => sha384 u.image == h)).bind fun k => (getMill s k).active

/-- What recovery does to a mill for each kind it recovers from (R141): the hopper is cleared after kinds 1, 3 and 4, and the core, whose
registers then stand at 0 (log 88), is reset after kinds 3 and 4. -/
def recovered (x : Mill) : Mill :=
  let hop := x.recovering.any fun k => k != 2
  let core := x.recovering.any fun k => k == 3 || k == 4
  { x with
    hopper := if hop then [] else x.hopper
    hopperPoison := if hop then [] else x.hopperPoison
    scalars := if core then [] else x.scalars
    vectors := if core then [] else x.vectors
    recovering := [] }

/-- MILL_RECOVERY_DONE (R141, R142): after kind 2 both banks are reloaded, or the mill is disabled. -/
def execMillRecoveryDone (m : Nat) (s : State) : Answer :=
  onElement (okF m) <|
    let kinds := (getMill s m).recovering
    if kinds.isEmpty ∨ s.flt.safe then .next s
    else
      let s1 := modMill s m recovered
      if !kinds.contains 2 then .next (refillMills s1)
      else match reloadImage s m with
        | some u => .next (refillMills (modMill s1 m fun x => { x with active := some u, standby := some u }))
        | none => .next (refillMills (raise (modMill s1 m fun x => { x with disabled := true }) (32 + m) 14 1 0 0))

/-! Operating points (R374 to R380). Levels are quarter millivolts. -/

/-- Nominal voltages of mill and controller regulators at a point (R374, R375). -/
def millNominal (opp : Nat) : Nat := natAt [3400, 3160, 2960, 2640] opp
def flumeNominal (opp : Nat) : Nat := natAt [3200, 3080, 2960, 2800] opp

/-- Rows 13 to 16 of the fuses (R316). -/
def trimRows (s : State) : List (BitVec 256) := (upFrom 13 4).map fun r => tabGet (0 : BitVec 256) s.fuses.shadow r

/-- The trim target of a mill's regulator, within 50 mV below and 25 mV above nominal (R374). -/
def millTrim (s : State) (m opp : Nat) : Nat :=
  max (millNominal opp - 200) (min (millNominal opp + 100) (Config.trimTarget (trimRows s) m opp))

/-- The target of a mill's regulator at a point: the search's result with its raises (R376), nominal and 25 mV with the trim default. -/
def millTarget (s : State) (m opp : Nat) : Nat := if trimDefault s then millNominal opp + 100 else tabGet 0 (getMill s m).target opp

/-- The target of a flume's regulator at a point: the trims alone (R375). -/
def flumeTarget (s : State) (f opp : Nat) : Nat := if trimDefault s then flumeNominal opp else Config.trimTarget (trimRows s) (32 + f) opp

/-- The code of R377 for the targets in force: 0.600 V + 6.25 mV x code reaches the highest of them plus 40 mV. -/
def vlogicCode (s : State) : Nat :=
  let top := (List.range 32).foldl (fun a n => max a (max (millTarget s n (getMill s n).opp) (flumeTarget s n (getFlume s n).opp))) 0
  max 16 (min 56 ((top + 160 - 2400 + 24) / 25))

/-- VLOGIC_SEL follows the targets, and the rail has settled (R377). -/
def setVlogic (s : State) : State := { s with pwr := { s.pwr with vlogic := vlogicCode s, settled := true } }

/-- A coolant fault's floor: OPP3 for mills, OPP2 for flumes (R416). -/
def coolFloor (s : State) (mill : Bool) : Nat := if s.thm.fault = 0 then 0 else if mill then 3 else 2

/-- The point a mill is to run at (R140, R380). -/
def millPoint (s : State) (m : Nat) : Nat :=
  let x := getMill s m
  max (max (regField s (oMil m 8) 1 0) x.droop) (max (max x.floor (coolFloor s true)) (if trimDefault s then 3 else 0))

/-- The point a flume is to run at (R380). -/
def flumePoint (s : State) (f : Nat) : Nat :=
  let r := (regGet s (oPwr (0x30 + 4 * (f / 16)))).toNat
  let x := getFlume s f
  max (bits r (2 * (f % 16) + 1) (2 * (f % 16))) (max (max x.floor (coolFloor s false)) (if trimDefault s then 3 else 0))

/-- MILL_OPP_CHANGE (R379, R380). -/
def execMillOppChange (m : Nat) (s : State) : Answer :=
  onElement (okF m) <|
    if (getMill s m).opp ≠ millPoint s m ∧ s.flt.safe = false then
      .next (setVlogic (modMill s m fun x => { x with opp := millPoint s m }))
    else .next s

/-- A flume's change may run: no pass gathers (R307), no bank that is refreshed owes more than 4 (R79), nothing is in flight, the flume is
in Run or Trim. -/
def flumeCanChange (s : State) (f : Nat) : Bool :=
  let x := getFlume s f
  decide (x.pstate ≤ 1) && x.entering.isNone && !x.waking && x.inflight.isEmpty && !gathering s f && !s.flt.safe &&
    !((upFrom 0 1088).any fun j => !bayOut s f (j / 272) (j / 16 % 17) && decide (4 < (getBank s (bankKey f 0 0 0 + j)).owed))

/-- FLUME_OPP_CHANGE (R381, R308). -/
def execFlumeOppChange (f : Nat) (s : State) : Answer :=
  onElement (okF f) <|
    let a := (getFlume s f).opp
    let b := flumePoint s f
    if a ≠ b ∧ flumeCanChange s f = true then
      .next (setVlogic (rescaleFlume (modFlume s f fun x => { x with opp := b }) f a b))
    else .next s

/-- MONITOR_WARNING (R376): the target at the point in force rises by 6.25 mV, up to the trim target. -/
def execMonitorWarning (m : Nat) (s : State) : Answer :=
  onElement (okF m) <|
    let o := (getMill s m).opp
    let t := tabGet 0 (getMill s m).target o
    if trimDefault s = false ∧ t < millTrim s m o then
      let s1 := modMill s m fun x => { x with target := tabSet 0 x.target o (min (millTrim s m o) (t + 25)), raises := tabMod 0 x.raises o (· + 1) }
      .next (setVlogic (raise s1 (32 + m) 15 1 0 o))
    else .next s

/-! Droop (R382, R383). -/

/-- DROOP_TRIP (R382, R383). -/
def execDroopTrip (f : Nat) (ctl : Bool) (s : State) : Answer :=
  onElement (okF f) <|
    if !portAwake s f then .next s
    else
      let s1 := scEvent s (oPwr 0x44) fun v => putBits (putBits (bumpBits v 23 16) 13 13 (b2n ctl)) 12 8 f
      let s2 := raise s1 (32 + f) 11 0 0 (b2n ctl)
      .next (if ctl then modFlume s2 f fun x => { x with stretched := some (x.stretched.getD s.now) }
        else modMill s2 f fun x => { x with stretched := some (x.stretched.getD s.now), droop := min 3 (x.droop + 1), droopAt := s.now })

/-- DROOP_RECOVER (R382). -/
def execDroopRecover (f : Nat) (ctl : Bool) (s : State) : Answer :=
  onElement (okF f) <|
    .next (if ctl then modFlume s f fun x => { x with stretched := none } else modMill s f fun x => { x with stretched := none })

/-- DROOP_HOLD_EXPIRY (R383). -/
def execDroopHoldExpiry (m : Nat) (s : State) : Answer :=
  onElement (okF m) <|
    let x := getMill s m
    let hold := 1000000 * max 1 (regField s (oPwr 0x40) 15 8)
    if 0 < x.droop ∧ x.droopAt + hold ≤ s.now then .next (modMill s m fun x => { x with droop := x.droop - 1, droopAt := s.now })
    else .next s

end Sys2Proof.Machine
end

