-- ==== Sys2Proof/Machine/Power.lean ====
section
/-! DEFINITION. Power states (R390 to R402): the sequencer's choice, entry and wake of flumes and of the device; rails (R384, R385,
R468, R469); and what a device reset clears and keeps (R361). -/

namespace Sys2Proof.Machine

/-! Known events and choice (R394, R395). Times in ns. -/

/-- Entry, wake and break-even of a flume's state and of the device's (R392). -/
def flumeTimes (st : Nat) : Nat × Nat × Nat :=
  if st = 2 then (1000, 2000, 20000) else if st = 3 then (10000, 40000, 1000000) else (20000, 2000000, 100000000)
def deviceTimes (st : Nat) : Nat × Nat × Nat :=
  if st = 2 then (1000, 2000, 20000) else if st = 3 then (10000, 20000, 1000000) else (10000000, 2000000, 500000000)

/-- The time to the next event suffices for a state, with the margin of PWR_MARGIN (R395). -/
def timeAllows (s : State) (t : Nat × Nat × Nat) (left : Nat) : Bool :=
  let pct := regField s (oPwr 0x24) 7 0
  decide ((t.1 + t.2.1) * (100 + pct) ≤ left * 100) && decide (t.2.2 ≤ left)

/-- PWR_CTL enables a state. -/
def stateEnabled (s : State) (st : Nat) : Bool :=
  let v := (regGet s (oPwr 0)).toNat
  bitOf v 0 && bitOf v (st - 1)

/-- The end of a head's hint, where it covers flume `f`. -/
def hintFor (s : State) (f h : Nat) : Option Nat :=
  match (getHead s h).hint with
  | some (t, mask) => if bitOf mask f && decide (s.now < t) then some t else none
  | none => none

/-- The time until a flume's known event: its hint horizon, else its idle age (R213, R394). -/
def flumeHorizon (s : State) (f : Nat) : Nat :=
  let up := [0, 1, 2, 3].filter fun h => (getHead s h).linkUp
  let age := s.now - (getFlume s f).idleSince
  if up.isEmpty || up.any fun h => (hintFor s f h).isNone then age
  else
    let ts := up.filterMap (hintFor s f)
    minOf (ts.headD 0) ts - s.now

/-- The time until the next BIST slice of a flume, by the even spread of R339: a slice of one row in each sub-channel. -/
def sliceHorizon (s : State) : Option Nat :=
  if bitOf (regGet s (oBst 0)).toNat 0 && s.bist.passActive then
    let gap := max 1 (max 1 (regField s (oBst 4) 7 0) * 3600 * oneSecond / 2236928)
    some (gap - (s.now - s.bist.passAt) % gap)
  else none

/-- A hold-off bars a state (R396). -/
def heldOff (s : State) (h : Option (Nat × Nat)) (st : Nat) : Bool :=
  match h with
  | some (lo, t) => decide (lo ≤ st) && decide (s.now < t)
  | none => false

/-- The deepest state a flume qualifies for (R395). -/
def flumeChoice (s : State) (f : Nat) : Option Nat :=
  let left := flumeHorizon s f
  [4, 3, 2].find? fun st =>
    stateEnabled s st && !heldOff s (getFlume s f).holdoff st && !bitOf (regGet s (oPwr 0x20)).toNat f &&
      timeAllows s (flumeTimes st) (if st = 2 then minOf left (sliceHorizon s).toList else left)

/-- The time until the device's next known event, none where there is none (R394). -/
def deviceEvents (s : State) : List Nat :=
  let coal := s.pairs.filterMap fun e =>
    let t := regField s (oRing e.1 0x1C) 25 16
    match e.2.pendSince with
    | some a => if bitOf (regGet s (oRing e.1 0x18)).toNat 14 && t != 0 then some (a + 1000 * t - s.now) else none
    | none => none
  let retest := s.lanes.filterMap fun e => if e.2.retest || e.2.retestAt = 0 then none else some (e.2.retestAt + 60 * oneSecond - s.now)
  let beats := [0, 1].filterMap fun k => if (getPort s k).linkUp then some ((getPort s k).beatAt + 100000 - s.now) else none
  coal ++ retest ++ beats

/-- The conditions of R391 under which the device may be in a state at all, and the flumes' depth. -/
def deviceMay (s : State) (st : Nat) : Bool :=
  ((List.range 32).all fun f => decide (st ≤ (getFlume s f).pstate) && (getFlume s f).entering.isNone && !(getFlume s f).waking) &&
    s.descs.isEmpty && (st != 4 || [0, 1, 2, 3].all fun h => !(getHead s h).linkUp || (getHead s h).d3hot)

/-- The deepest state the device qualifies for (R391, R395). -/
def deviceChoice (s : State) : Option Nat :=
  [4, 3, 2].find? fun st =>
    stateEnabled s st && !heldOff s s.pwr.holdoff st && deviceMay s st && (deviceEvents s).all fun left => timeAllows s (deviceTimes st) left

/-! Agreement (R396, R399). -/

/-- A flume is a member of a mirrored region in states 1 to 3 for which the device is secondary (R399). -/
def secondaryMember (s : State) (f : Nat) : Bool :=
  (List.range 64).any fun i =>
    let e := regionWord s i
    regionMatched s i && rgSecondary e && decide (rgFirst e ≤ f) && decide (f < rgFirst e + 2 ^ rgLog e)

/-- The first domain of a flume that refuses a state, with its reason (R396). -/
def flumeRefuses (s : State) (f st : Nat) : Option (Nat × Nat) :=
  let x := getFlume s f
  let m := getMill s f
  if m.running.isSome || !m.queue.isEmpty then some (32 + f, 5)
  else if !x.waiting.isEmpty || !x.queue.isEmpty || !x.inflight.isEmpty then some (f, 1)
  else if !x.heldRows.isEmpty then some (f, 2)
  else if gathering s f || x.opp != flumePoint s f then some (f, 3)
  else if x.held || x.holding || x.holdReq then some (f, 4)
  else if st == 4 && secondaryMember s f then some (f, 7) else none

/-- The first shared domain that refuses a state, with its reason, but for the Brake save (R391, R396). -/
def deviceRefuses (s : State) (st : Nat) : Option (Nat × Nat) :=
  if st = 2 then none
  else if !s.leat.pond.isEmpty then some (71, 7)
  else
    let heads := [0, 1, 2, 3].find? fun h =>
      !(getHead s h).responses.isEmpty || (List.range 32).any fun f => (getFlume s f).waiting.any fun r => r.port == h
    match heads with
    | some h => some (64 + h, 6)
    | none =>
      if !s.leat.sync.isEmpty || (st == 4 && (List.range 64).any (regionMatched s)) then some (68, 7) else none

/-- PWR_REFUSE records a refusal (R396). -/
def noteRefusal (s : State) (st : Nat) (r : Nat × Nat) : State :=
  scEvent s (oPwr 0x28) fun v => putBits (putBits (putBits (bumpBits v 7 0) 22 20 st) 19 16 r.2) 15 8 r.1

/-- The end of a hold-off that starts now (PWR_MARGIN.holdoff). -/
def holdoffEnd (s : State) : Nat := s.now + 1000000 * max 1 (regField s (oPwr 0x24) 23 16)

/-- The Brake save (R400). -/
def brakeSave (s : State) : State :=
  { s with tally := { s.tally with brake := some (putCopy s.tally.brake ⟨s.regions, s.leat.dirty, s.leat.whole, s.leat.page⟩) } }

/-- An evaluation of a flume (R395, R396). While seq_en is 0 the states entered are woken (R404). -/
def evalFlume (s : State) (f : Nat) : State :=
  let x := getFlume s f
  if s.flt.safe || x.entering.isSome || x.waking then s
  else if !bitOf (regGet s (oPwr 0)).toNat 0 then wakeFlume s f
  else match flumeChoice s f with
    | none => s
    | some st =>
      if st ≤ x.pstate then s
      else match flumeRefuses s f st with
        | some r => noteRefusal (modFlume s f fun x => { x with holdoff := some (st, holdoffEnd s) }) st r
        | none => modFlume s f fun x => { x with entering := some st }

/-- An evaluation of the device; a known event that has fallen due wakes it (R395, R396, R398, R400). -/
def evalDevice (s : State) (tallyOk : Bool) : State :=
  if s.flt.safe || s.pwr.entering.isSome || s.pwr.waking then s
  else if !bitOf (regGet s (oPwr 0)).toNat 0 || (deviceEvents s).contains 0 then wakeDevice s
  else match deviceChoice s with
    | none => s
    | some st =>
      let refuse := fun (s : State) (r : Nat × Nat) =>
        noteRefusal { s with pwr := { s.pwr with holdoff := some (st, holdoffEnd s) } } st r
      if st ≤ s.pwr.dstate then s
      else match deviceRefuses s st with
        | some r => refuse s r
        | none =>
          if st = 4 ∧ tallyOk = false then refuse (raise (tallyFail s 5) 13 0 1 0 0) (72, 8)
          else
            let s1 := if st = 4 then brakeSave s else s
            { s1 with pwr := { s1.pwr with entering := some st } }

/-- SEQUENCER_EVALUATION (R395): of the device, or of a flume. -/
def execSequencerEvaluation (target : Option Nat) (tallyOk : Bool) (s : State) : Answer :=
  match target with
  | none => .next (evalDevice s tallyOk)
  | some f => onElement (okF f) (.next (evalFlume s f))

/-- HOLDOFF_EXPIRY (R396). -/
def execHoldoffExpiry (target : Option Nat) (s : State) : Answer :=
  let past := fun (h : Option (Nat × Nat)) => match h with
    | some (_, t) => decide (t ≤ s.now)
    | none => false
  match target with
  | none => .next (if past s.pwr.holdoff then { s with pwr := { s.pwr with holdoff := none } } else s)
  | some f => onElement (okF f) (.next (if past (getFlume s f).holdoff then modFlume s f fun x => { x with holdoff := none } else s))

/-! Entry (R80, R124, R390, R397). -/

/-- Codes lost with the controller's power in Brake (R310, R390). -/
def loseCodes (s : State) (f : Nat) : State :=
  forAll s (upFrom (bayKey f 0 0) 68) fun s k => modBay s k fun b => { b with inForce := [], trained := false }

/-- A flume is in a state: owed refreshes are paid and rows closed; Brake loses hopper and codes. -/
def enterFlume (s : State) (f st : Nat) : State :=
  let s1 := modFlume (payAll s fun b => bankFlume b == f) f fun x => { x with pstate := st, entering := none }
  if st = 4 then loseCodes (modMill s1 f fun m => { m with hopper := [], hopperPoison := [], scalars := [], vectors := [] }) f else s1

/-- In Brake the tier model does not run; on wake it starts anew (R408). -/
def restartModel (s : State) : State := { s with thm := { s.thm with seeded := [] } }

/-- The device is in a state: Brake switches the central SRAM off and stops the tier model (R391, R400, R408). -/
def enterDevice (s : State) (st : Nat) : State :=
  let s1 := { s with pwr := { s.pwr with dstate := st, entering := none } }
  if st = 4 then modLeat { restartModel s1 with regions := [], badRegions := [] } fun l => { l with dirty := [], whole := [], page := [] }
  else s1

/-- POWER_ENTRY_COMPLETE (R397): a wake latched meanwhile is due at once. -/
def execPowerEntryComplete (target : Option Nat) (s : State) : Answer :=
  match target with
  | none => match s.pwr.entering with
    | some st => .next (enterDevice s st)
    | none => .next s
  | some f => onElement (okF f) <|
    match (getFlume s f).entering with
    | some st => .next (enterFlume s f st)
    | none => .next s

/-! Wake (R82, R86, R310, R398). -/

/-- Exit from self-refresh: tXS before the first command, owed counts 0, each bank due at its place of the even spread (R82). -/
def leaveSelfRefresh (s : State) (f : Nat) : State :=
  forAll s (upFrom 0 68) fun s j =>
    let t := j % 17
    let sub := subKey f (j / 17)
    let iv := refInterval (bandOf s f t)
    forAll s (upFrom 0 16) fun s b =>
      modBank s (bankKey f (j / 17) t b) fun k =>
        { k with owed := 0, refDue := 0, owedDue := 0, actAt := max k.actAt ((getSub s sub).cycle + cycles s f 1700),
                 dueAt := spreadPoint iv (t * 16 + b) s.now }

/-- A bank that grades failing on wake: a severe fault, and out of service until its scrub ends (R87). -/
def failOnWake (s : State) (f t : Nat) (k : Nat × Nat) : State :=
  let s1 := event s (32 + f) 9 2 (k.1 + 4 * t + 128 * k.2) 0
  let s2 := scEvent s1 (oFlm f 0x6C) fun v => putBits (putBits (putBits (bumpBits v 23 16) 15 14 k.1) 13 9 t) 8 5 k.2
  modBank s2 (bankKey f k.1 t k.2) fun x => { x with scrubbing := true }

/-- The canary check of every bank of a flume on wake from Furl or Brake (R86, R87). -/
def wakeCheck (s : State) (f : Nat) (env : OpEnv) : State :=
  forAll (lookups s env) (upFrom 0 17) fun s t =>
    let r := canaryTier s f t env true
    r.2.1.foldl (fun s k => failOnWake s f t k) (gradeTier r.2.2 f t r.1 r.2.1 false)

/-- A flume is in Run. -/
def flumeRuns (s : State) (f : Nat) : State :=
  modFlume s f fun x => { x with pstate := 0, waking := false, idleSince := s.now }

/-- What a pass found, from a list by bay number; nothing measured where the list has none. -/
def passFor (ps : List PassRes) (k : Nat) : PassRes := (ps.find? fun p => p.bay == k).getD ⟨k, [], false, false, true⟩

/-- Wake passes of the bays that have lost their codes, in tier order (R310). -/
def wakePasses (s : State) (f : Nat) (ps : List PassRes) : State :=
  writeRecords (forAll s (upFrom 0 68) fun s j =>
    let sc := j / 17
    let t := j % 17
    let k := bayKey f sc t
    if bayOut s f sc t || (getBay s k).trained || passBusy s f sc t then s
    else startPass (endPass s f sc t 2 (getBay s k).tuned true (passFor ps k)) f sc) f

/-- Passes of a flume run or wait. -/
def passesLeft (s : State) (f : Nat) : Bool :=
  gathering s f || (List.range 4).any fun sc => !(tabGet [] (getFlume s f).passQueue sc).isEmpty

/-- The wake of a flume from its state (R86, R310, R397). From Brake it waits for the full passes that refused wake passes need. -/
def wakeFlumeNow (s : State) (f : Nat) (ps : List PassRes) (env : OpEnv) : State :=
  let st := (getFlume s f).pstate
  if st = 4 then
    let s1 := wakePasses s f ps
    if passesLeft s1 f then s1 else flumeRuns (wakeCheck (leaveSelfRefresh s1 f) f env) f
  else if st = 3 then flumeRuns (wakeCheck (leaveSelfRefresh s f) f env) f
  else flumeRuns (leaveSelfRefresh s f) f

/-- FLUME_WAKE (R86, R398): a latched wake runs once no entry is under way. -/
def execFlumeWake (f : Nat) (passes : List PassRes) (env : OpEnv) (s : State) : Answer :=
  onElement (okF f) <|
    let x := getFlume s f
    if x.waking && x.entering.isNone && !s.flt.safe then .next (wakeFlumeNow s f passes env) else .next s

/-- The device is in Run. -/
def deviceRuns (s : State) : State := { s with pwr := { s.pwr with dstate := 0, waking := false } }

/-- The Brake restore (R400); without a good copy a fatal fault. -/
def brakeRestore (s0 : State) (ok : Bool) : State :=
  let s := checkCopies 5 s0 s0.tally.brake
  match if ok then s.tally.brake.bind bestCopy else none with
  | some b => modLeat { s with regions := b.regions } fun l => { l with dirty := b.dirty, whole := b.whole, page := b.page }
  | none => raise s 12 2 3 0 0

/-- DEVICE_WAKE (R398, R400). -/
def execDeviceWake (restoreOk : Bool) (s : State) : Answer :=
  if s.pwr.waking && s.pwr.entering.isNone && !s.flt.safe then
    .next (if s.pwr.dstate = 4 then brakeRestore (restartModel (deviceRuns s)) restoreOk else deviceRuns s)
  else .next s

/-- A write of PWR_RUN_REQ is taken: the flumes named wake (R398). -/
def takeRunReq (s : State) (v : Nat) : State :=
  let s1 := regSet s (oPwr 0x20) (BitVec.ofNat 32 v)
  forAll s1 ((List.range 32).filter fun f => bitOf v f) wakeFlume

/-- RUN_REQ_WRITE (R398). -/
def execRunReqWrite (path : Nat) (v : Word) (s : State) : Answer :=
  onElement (okPath path) (.next (writeNow s path (oPwr 0x20) 198 v.toNat fun s => takeRunReq s v.toNat))

/-! Rails (R81, R384, R385). -/

/-- Some clock generator has stretched its clock for no more than 10 microseconds (R382, R384). -/
def stretching (s : State) : Bool :=
  let young := fun (o : Option Nat) => o.any fun t => decide (s.now - t ≤ 10000)
  (List.range 32).any fun n => young (getMill s n).stretched || young (getFlume s n).stretched

/-- The contents of every tier are lost (R81): from here each stored line reads as a free value until it is written. -/
def loseArray (s : State) : State := { s with mem := [], lost := s.freeCtr + 1, freeCtr := s.freeCtr + 1 }

/-- RAIL_OUT_OF_WINDOW (R384): rail `r` of the table for more than 1 microsecond; 7 and 8 are VDD_TIER and VPP_TIER leaving the
retention window (R81). VDD_LOGIC is exempt while clocks stretch. -/
def execRailOutOfWindow (r : Nat) (s : State) : Answer :=
  onElement (decide (r < 9)) <|
    let rail := if r < 7 then r else r - 3
    if r = 0 ∧ stretching s = true then .next s
    else
      let s1 := if r < 7 then s else loseArray s
      let s2 := { s1 with pwr := { s1.pwr with railsOut := insertNat rail s1.pwr.railsOut } }
      let s3 := scEvent s2 (oPwr 0x4C) fun v => putBits v rail rail 1
      .next (raise (setLine s3 2 0 true) 2 0 3 0 rail)

/-- Rail `r` is back in its window; the condition line goes quiet when the last one is (R384, R419). -/
def railBack (s : State) (r : Nat) : State :=
  let left := s.pwr.railsOut.filter (· != r)
  let s1 := { s with pwr := { s.pwr with railsOut := left } }
  if left.isEmpty then setLine s1 2 0 false else s1

/-- AUX_BROWNOUT (R385): VDD_AUX below 1.68 V. -/
def execAuxBrownout (s : State) : Answer :=
  let s1 := { s with pwr := { s.pwr with railsOut := insertNat 6 s.pwr.railsOut } }
  .next (raise (setLine (scEvent s1 (oPwr 0x4C) fun v => putBits v 7 7 1) 2 0 true) 2 0 3 0 6)

/-! Device reset (R356, R361). -/

/-- What every device reset keeps: fuses, tally store, the array's cells, pins and rails, and what has been sent (R361). -/
def resetKeep (s : State) : State :=
  let r := State.reset
  { r with
    now := s.now
    pending := s.pending
    out := s.out
    freeCtr := s.freeCtr
    mem := s.mem
    lost := s.lost
    tally := s.tally
    fuses := { fusesInit with normal := s.fuses.normal, high := s.fuses.high, low := s.fuses.low, redirect := s.fuses.redirect }
    pwr := { powerInit with railsOut := s.pwr.railsOut }
    boot := { bootInit with bistMode := s.boot.bistMode, rstN := s.boot.rstN, perstN := s.boot.perstN } }

/-- AUX_UNDERVOLTAGE (R385): below 1.62 V the device is held in reset. -/
def execAuxUndervoltage (s : State) : Answer :=
  let s1 := resetKeep s
  .next (emit { s1 with pwr := { s1.pwr with auxReset := true } } (.pins true false))

/-- Start-up halts at step 1 (R469). -/
def haltSequence (s : State) : State :=
  emit { s with boot := { s.boot with halted := true, seqError := true, faultN := false, early := none } } (.pins false s.boot.linkEn)

/-- SEQUENCE_ERROR (R469): a rail came up before one that precedes it. -/
def execSequenceError (r : Nat) (s : State) : Answer :=
  onElement (decide (r < 7)) (.next (if s.boot.step = 1 ∧ s.boot.seqError = false then haltSequence s else s))

/-- EARLY_RELEASE_TIMEOUT (R469): 1 s after an early rise of RST_N some rail is not up. -/
def execEarlyReleaseTimeout (s : State) : Answer :=
  .next (match s.boot.early with
    | some t => if t + oneSecond ≤ s.now ∧ s.boot.seqError = false then haltSequence s else s
    | none => s)

end Sys2Proof.Machine
end

