-- ==== Sys2Proof/Machine/Admin.lean ====
section
/-! DEFINITION. Admin descriptors (R212): region table (R26 to R30, R264, R265), scrub (R111, R112), hints (R213), promotion (R282 to
R284), resilver (R285 to R288), and the posting of completions (R202 to R205) with the end of a pair's reset (R209, R211). -/

namespace Sys2Proof.Machine

/-! Shared. -/

/-- A started admin descriptor of an opcode that is still to be carried out, with its 128 bytes. The safe state halts it (R427). -/
def adminDesc (s : State) (did op : Nat) : Option (Desc × List Byte) :=
  (getDesc s did).bind fun d =>
    let m := d.members.headD []
    if isAdmin d.pair && bOp m == op && d.result.isNone && !s.flt.safe then some (d, m) else none

/-- Refused with a reason (R204). -/
def refuseDesc (s : State) (did reason : Nat) : State := finishDesc s did ⟨0x0A, reason, 0, 0⟩

/-- A finished descriptor whose effect comes as its completion is posted. -/
def finishKeep (s : State) (did : Nat) (r : Result) (work : Nat) (prog : List Nat) : State :=
  modDesc s did fun x => { x with result := some r, uses := [], work := work, prog := prog }

/-- A STATE_UPDATE whose acknowledgement comes with the command that sends it (R264, R265). -/
def tellState (s : State) (kind line : Nat) (data : List Byte) (reply : PartnerReply) : State :=
  let t := s.leat.stateTag
  let s1 := sendState s kind line data 0
  match reply with
  | .lost => s1
  | _ => modLeat s1 fun l => { l with stateWait := l.stateWait.filter fun w => w.1 != t }

/-! The region table. -/

/-- A reserved bit of an entry is nonzero, or granule or mode holds a reserved value (R26, R27 reason 1). -/
def entryReserved (e : Nat) : Bool :=
  bits e 15 11 != 0 || bits e 31 28 != 0 || bits e 47 43 != 0 || bits e 55 53 != 0 || bits e 63 59 != 0 || bits e 71 66 != 0 ||
    bits e 79 75 != 0 || bits e 87 84 != 0 || bits e 95 90 != 0 || rgGranule e == 3 || rgMode e == 3

/-- Share of an entry in bytes (R26). -/
def entryShare (e : Nat) : Nat := rgSize e * mib256 / 2 ^ rgLog e

/-- Two half-open ranges overlap. -/
def overlaps (a n b m : Nat) : Bool := decide (a < b + m) && decide (b < a + n)

/-- Two entries share a flume and overlap in its FA space (R27 reason 6). -/
def faOverlaps (e o : Nat) : Bool :=
  overlaps (rgFirst e) (2 ^ rgLog e) (rgFirst o) (2 ^ rgLog o) &&
    overlaps (rgFa e * 0x800000) (entryShare e) (rgFa o * 0x800000) (entryShare o)

/-- An entry is in use (R29). -/
def entryUsed (s : State) (i : Nat) : Bool :=
  s.descs.any fun e => match e.2 with
    | some d => d.uses.contains i
    | none => false

/-- The other live entries that an entry is checked against (R31). -/
def otherEntries (s : State) (i : Nat) : List Nat := ((List.range 64).filter fun j => j != i && regionLive s j).map (regionWord s)

/-- The first of rules 1 to 6 of R27 that a valid entry breaks, 0 for none. -/
def entryReason (s : State) (i e : Nat) : Nat :=
  let others := otherEntries s i
  if entryReserved e then 1
  else if rgSize e = 0 ∨ 2048 < rgBase e + rgSize e then 2
  else if 5 < rgLog e ∨ rgFirst e % 2 ^ rgLog e ≠ 0 then 3
  else if 0x400000000 < rgFa e * 0x800000 + entryShare e then 4
  else if others.any fun o => overlaps (rgBase e) (rgSize e) (rgBase o) (rgSize o) then 5
  else if others.any (faOverlaps e) then 6 else 0

/-- The bits of an entry that have a field (R26); the others read as 0 (R6). -/
def entryMask : Nat :=
  lowMask 11 + lowMask 12 * 2 ^ 16 + lowMask 11 * 2 ^ 32 + lowMask 5 * 2 ^ 48 + lowMask 3 * 2 ^ 56 + lowMask 2 * 2 ^ 64 + lowMask 3 * 2 ^ 72 +
    lowMask 4 * 2 ^ 80 + lowMask 2 * 2 ^ 88 + lowMask 32 * 2 ^ 96

/-- The entry in force becomes `e`: an uncorrectable one is rewritten, and the region is matched anew (R6, R28, R31, R266). -/
def setEntry (s : State) (i e : Nat) : State :=
  modLeat { s with regions := tabSet 0 s.regions i (BitVec.ofNat 128 (e &&& entryMask)), badRegions := s.badRegions.filter (· != i) } fun l =>
    { l with unmatched := l.unmatched.filter (· != i), dual := l.dual.filter (· != i) }

/-- An earlier region write is not yet applied (R28). -/
def regionWriteBefore (s : State) (did : Nat) : Bool :=
  s.descs.any fun e => match e.2 with
    | some d => decide (e.1 < did) && isAdmin d.pair && bOp (d.members.headD []) == 0x40 && (d.result.isNone || d.work == 6)
    | none => false

/-- The outcome of a region write: its reason, 0 where it passes, and the message it sends the partner (R27, R264, R265). -/
def regionOutcome (s : State) (i e : Nat) (reply : PartnerReply) : Nat × State :=
  let ok := fun (s : State) => (if reply = .acknowledged then 0 else 8, s)
  if rgValid e then
    let r := entryReason s i e
    if r ≠ 0 then (r, s)
    else if entryUsed s i then (7, s)
    else if rgMode e = 0 then (0, s)
    else if !s.leat.joined then (8, s)
    else ok (tellState s 1 i (leBytes 16 e) reply)
  else if entryUsed s i then (7, s)
  else if regionLive s i && rgMode (regionWord s i) != 0 && s.leat.joined then ok (tellState s 2 i (leBytes 16 0) reply)
  else (0, s)

/-- REGION_WRITE (R27, R28): the entry takes effect as the completion is posted. -/
def execRegionWrite (did : Nat) (reply : PartnerReply) (s : State) : Answer :=
  match adminDesc s did 0x40 with
  | none => .next s
  | some (_, m) =>
    if regionWriteBefore s did then .next s
    else
      let i := fieldLe m 0x10 1 % 64
      let e := fieldLe m 0x20 16
      let r := regionOutcome s i e reply
      .next (if r.1 = 0 then finishKeep r.2 did ⟨0, 0, 0, 0⟩ 6 [i, e] else refuseDesc r.2 did r.1)

/-- REGION_READ (R31, R212): an uncorrectable entry reads as zeros. -/
def execRegionRead (did : Nat) (ecc : EccCheck) (s : State) : Answer :=
  match adminDesc s did 0x41 with
  | none => .next s
  | some (_, m) =>
    let i := fieldLe m 0x10 1 % 64
    let s1 := if s.badRegions.contains i then s else regionCheck s i ecc
    let e := if s1.badRegions.contains i then 0 else regionWord s1 i
    .next (finishDesc s1 did ⟨0, 0, e % 2 ^ 64, e / 2 ^ 64⟩)

/-! Hints. -/

/-- POWER_HINT (R212, R213): the horizon counts from the posting of the completion. -/
def execPowerHint (did : Nat) (s : State) : Answer :=
  match adminDesc s did 0x48 with
  | none => .next s
  | some (_, m) => .next (finishKeep s did ⟨0, 0, 0, 0⟩ 7 [bImm0 m % 2 ^ 32, bImm1 m % 2 ^ 32])

/-- HINT_EXPIRY (R213). -/
def execHintExpiry (h : Nat) (s : State) : Answer :=
  onElement (okHead h) <|
    match (getHead s h).hint with
    | some (t, _) => .next (if t ≤ s.now then lapseHint s h else s)
    | none => .next s

/-! Scrub. -/

/-- What a scrub pass counts, in the order of R112. -/
structure ScrubSum where
  read : Nat
  words : Nat
  poisoned : Nat
  found : Nat
  first : Option Nat
  last : Option Nat
  offline : Nat
  refetched : Nat
  deriving DecidableEq, Repr

/-- A corrected or uncorrectable line at a DPA. -/
def ScrubSum.fail (a : ScrubSum) (dpa : Nat) : ScrubSum :=
  { a with first := some (min dpa (a.first.getD dpa)), last := some (max dpa (a.last.getD dpa)) }

/-- Lines of a range that the line remap holds (R105, R112). -/
def remappedIn (s : State) (a n : Nat) : Nat :=
  (List.range (n / 64)).countP fun k => match regionAt s (a + 64 * k) with
    | some i =>
      let l := lineOf (regionWord s i) (a + 64 * k)
      (remapAt (getFlume s l.1) (coordOf s l.1 l.2)).isSome
    | none => false

/-- Scrubbing the line at a DPA (R111): its read, its counts and its write-back on port 8. A line whose data are clean and whose poison
copies disagree counts as one corrected word (R94); that it also counts as a corrected line for first_fail_dpa and last_fail_dpa is the
model's choice (DESIGN CHOICE, log 95). -/
def scrubLine (env : OpEnv) (a : ScrubSum × State) (dpa : Nat) : ScrubSum × State :=
  match regionAt a.2 dpa with
  | none => a
  | some i =>
    let (f, line) := lineOf (regionWord a.2 i) dpa
    let s := flushLine a.2 f line env
    match placeOf s f line with
    | none => ({ a.1 with offline := a.1.offline + 1 }, s)
    | some p =>
      let dl := dpa / 64
      let q := readTwice s p (flipsAt env.flips (lineKey p))
      let d := q.1
      let s1 := countRead s f line d q.2 dl i
      let c : ScrubSum := { a.1 with read := a.1.read + 1 }
      let back := fun (s : State) (poison : Bool) => match placeOf s f line with
        | some p => storeBack s f p d.data (rewriteMd s i d poison)
        | none => s
      if d.bad then
        let mirrored := rgMode (regionWord s1 i) != 0 && (pondEntry s1 dl).isNone
        match (if mirrored && usableCopy s1 dl then partnerLine env dl else none) with
        | some cp => ({ c.fail dpa with refetched := c.refetched + 1 }, refill s1 f line cp)
        | none =>
          let s2 := if mirrored then mirrorNotice s1 else s1
          ({ c.fail dpa with poisoned := c.poisoned + 1 }, back (bumpTotal s2 f 4) true)
      else
        let e : ScrubSum := { c with found := c.found + b2n (mdPoison d.md) }
        if d.words = 0 ∧ ¬ poisonSplit d.md then (e, s1)
        else if d.words = 0 then ({ e.fail dpa with words := e.words + 1 }, back (bumpTotal s1 f 0) (mdPoison d.md))
        else ({ e.fail dpa with words := e.words + d.words }, back s1 (mdPoison d.md))

/-- The fields of a scrub descriptor that R147 or R212 rules out: the offset the param status names. src_a is a DPA, 0 included. -/
def scrubParam (m : List Byte) : Option Nat :=
  if 2 ^ 39 ≤ bSrcA m ∨ bSrcA m % 64 ≠ 0 then some 0x10
  else if !isHost (bDst m) || bDst m % 64 != 0 || !rangeOk (bDst m) 64 then some 0x20
  else if bCount m = 0 ∨ bCount m % 64 ≠ 0 ∨ 2 ^ 39 < bSrcA m + bCount m then some 0x58 else none

/-- The pass over a range that passed the checks. -/
def scrubPass (s0 : State) (did : Nat) (d : Desc) (m : List Byte) (env : OpEnv) : State :=
  let s := lookups s0 env
  let s1 := modDesc s did fun x => { x with uses := rangeUses s [(0x10, bSrcA m, bCount m)] }
  let r := ((List.range (bCount m / 64)).map fun k => bSrcA m + 64 * k).foldl (scrubLine env)
    (⟨0, 0, 0, 0, none, none, 0, 0⟩, s1)
  let a := r.1
  let none64 := 2 ^ 64 - 1
  modDesc r.2 did fun x =>
    { x with work := 1, prog := [a.read, a.words, a.poisoned, remappedIn s1 (bSrcA m) (bCount m), a.found, (s.now - d.startedAt) / 1000,
               a.first.getD none64, a.last.getD none64, a.offline, a.refetched, 0] }

/-- SCRUB (R111): the pass reads every line of its range; SCRUB_COMPLETE reports it. Read and write-back of a line are one step, so none of
its own write-backs is void (R112). -/
def execScrub (did : Nat) (env : OpEnv) (s : State) : Answer :=
  match adminDesc s did 0x42 with
  | none => .next s
  | some (d, m) =>
    if d.work ≠ 0 then .next s
    else match scrubParam m with
      | some o => .next (finishDesc s did ⟨8, 0, o, 0⟩)
      | none =>
        match (rangePoints (bSrcA m) (bCount m)).find? fun p => (regionAt s p).isNone with
        | some p => .next (finishDesc s did ⟨5, 0, p, 1⟩)
        | none => whenOpen s [(0x10, bSrcA m, bCount m)] fun s => scrubPass s did d m env

/-- The 64 bytes of the summary record (R112). -/
def scrubRecord (p : List Nat) : List Byte :=
  let u32 := fun i => leBytes 4 (min (2 ^ 32 - 1) (natAt p i))
  leBytes 8 (natAt p 0) ++ leBytes 8 (natAt p 1) ++ u32 2 ++ u32 3 ++ u32 4 ++ u32 5 ++ leBytes 8 (natAt p 6) ++ leBytes 8 (natAt p 7) ++
    u32 8 ++ u32 9 ++ u32 10 ++ leBytes 4 0

/-- The counts of a pass as its summary gives them: lines_remapped counts what any read brought about since it began (R112). -/
def scrubCounts (s : State) (d : Desc) (m : List Byte) : List Nat :=
  d.prog.set 3 (remappedIn s (bSrcA m) (bCount m) - natAt d.prog 3)

/-- SCRUB_COMPLETE (R112): the summary is written before the completion. -/
def execScrubComplete (did : Nat) (s : State) : Answer :=
  match adminDesc s did 0x42 with
  | none => .next s
  | some (d, m) =>
    if d.work = 1 ∧ dmaOpen s (pairHead d.pair) = true then
      let s1 := emit s (.dmaWrite (pairHead d.pair) (bDst m - 2 ^ 63) (scrubRecord (scrubCounts s d m)) false)
      .next (finishDesc s1 did ⟨0, 0, natAt d.prog 0, natAt d.prog 2⟩)
    else .next s

/-! Promotion (R282 to R284). -/

/-- The entries a 64-bit region mask names. -/
def namedRegions (mask : Nat) : List Nat := (List.range 64).filter fun i => bitOf mask i

/-- The entry is live and mirrored. -/
def regionMirrored (s : State) (i : Nat) : Bool := regionLive s i && rgMode (regionWord s i) != 0

/-- The first reason a promotion or demotion is refused for, 0 for none (R282). -/
def promoteReason (s : State) (mask : Nat) (demote : Bool) : Nat :=
  let rs := namedRegions mask
  if rs.any fun i => !regionMirrored s i then 1
  else if rs.any fun i => rgSecondary (regionWord s i) == demote then 2
  else if demote = false ∧ s.leat.joined ∧ rs.any fun i => regionState s i != 1 then 3
  else if demote ∧ s.leat.joined then 4 else 0

/-- MIRROR_PROMOTE (R282 to R284): at once while not joined; while joined a switchover is requested of the partner. -/
def execMirrorPromote (did : Nat) (s : State) : Answer :=
  match adminDesc s did 0x45 with
  | none => .next s
  | some (d, m) =>
    let mask := bImm0 m
    let demote := bitOf (bOpt m) 0
    let r := promoteReason s mask demote
    if d.work ≠ 0 then .next s
    else if r ≠ 0 then .next (refuseDesc s did r)
    else if s.leat.joined then
      .next (modDesc (sendState s 7 0 (leBytes 16 mask) 0) did fun x => { x with work := 5, prog := [mask] })
    else .next (finishDesc (setRole s mask demote) did ⟨0, 0, mask, s.leat.applied⟩)

/-! Resilver (R285 to R288). -/

/-- The first reason a resilver is refused for, 0 for none (R285). -/
def resilverReason (s : State) (mask : Nat) : Nat :=
  let rs := namedRegions mask
  if rs.any fun i => !regionMirrored s i then 1
  else if rs.any fun i => rgSecondary (regionWord s i) then 2
  else if !s.leat.joined then 3
  else if rs.any fun i => s.leat.unmatched.contains i || s.leat.dual.contains i then 4
  else if rs.any (resilvering s) then 5 else 0

/-- The set granules of a resilver's regions, ascending. -/
def resilverGranules (s : State) (mask : Nat) : List Nat :=
  s.leat.dirty.filter fun g => (namedRegions mask).any fun i => regionMirrored s i && granuleIn (regionWord s i) g

/-- RESILVER (R285): a full one sets and marks whole every granule of the regions first. Progress: the mask, bytes sent, granules
cleared, a flag for lines not stored, the next line to visit, then the granules that stay set. -/
def execResilver (did : Nat) (s : State) : Answer :=
  match adminDesc s did 0x46 with
  | none => .next s
  | some (d, m) =>
    let mask := bImm0 m
    let r := resilverReason s mask
    if d.work ≠ 0 then .next s
    else if r ≠ 0 then .next (refuseDesc s did r)
    else
      let s1 := if bitOf (bOpt m) 0 then
          forAll s (namedRegions mask) fun s i => forAll s (granulesOf (regionWord s i)) setWhole
        else s
      .next (modDesc s1 did fun x => { x with work := 2, prog := [mask, 0, 0, 0, 0], uses := namedRegions mask })

/-- Lines of a granule that were pushed and are not acknowledged. -/
def pushOpen (s : State) (did g : Nat) : Bool := s.leat.pushes.any fun w => w.did == did && granuleOf w.line == g

/-- The granules that stay set after a line was not stored (R285 reason 7, R289). -/
def failedGranules (d : Desc) : List Nat := d.prog.drop 5

/-- RESILVER_COMPLETE (R288): every named granule is clear, or those left had a line not stored (R289). -/
def execResilverComplete (did : Nat) (s : State) : Answer :=
  match adminDesc s did 0x46 with
  | none => .next s
  | some (d, _) =>
    let left := resilverGranules s (natAt d.prog 0)
    if d.work ≠ 2 ∨ (s.leat.pushes.any fun w => w.did == did) = true then .next s
    else if left.isEmpty && (failedGranules d).isEmpty then .next (finishDesc s did ⟨0, 0, natAt d.prog 1, natAt d.prog 2⟩)
    else if left.all fun g => (failedGranules d).contains g then
      .next (finishDesc s did ⟨0x0A, 7, natAt d.prog 1, natAt d.prog 2⟩)
    else .next s

/-! Completions (R202 to R205). -/

/-- What a completion's posting brings about: a region write takes effect (R28), a hint is set (R213). -/
def applyPosted (s : State) (d : Desc) : State :=
  if d.work = 6 then setEntry s (natAt d.prog 0) (natAt d.prog 1)
  else if d.work = 7 then
    let t := natAt d.prog 0
    modHead s (pairHead d.pair) fun x => { x with hint := if t = 0 then none else some (s.now + 1000 * t, natAt d.prog 1) }
  else s

/-- The 32 bytes of a completion record (R202). -/
def completionBytes (s : State) (n : Nat) (d : Desc) (r : Result) : List Byte :=
  let x := getPair s n
  let cid := match d.members.getLast? with
    | some m => bCid m
    | none => 0xFFFFFFFF
  leBytes 8 r.resA ++ leBytes 8 r.resB ++ leBytes 4 cid ++ leBytes 2 x.sqHead ++ leBytes 1 r.status ++ leBytes 1 r.reason ++
    leBytes 4 (min (2 ^ 32 - 1) ((s.now - d.startedAt) / 1000)) ++ leBytes 1 (n % 64) ++ leBytes 1 (pairHead n) ++ [0] ++
    leBytes 1 (b2n x.phase)

/-- The oldest finished descriptor of a pair whose completion is to be posted. -/
def readyDesc (s : State) (n : Nat) : Option (Nat × Desc × Result) :=
  (descsOf s n).findSome? fun k => (getDesc s k).bind fun d =>
    if d.dropped then none else d.result.map fun r => (k, d, r)

/-- A posted completion counts toward the pair's interrupt (R205). -/
def notePosted (s : State) (n : Nat) (d : Desc) (r : Result) : State :=
  if !bitOf (regGet s (oRing n 0x18)).toNat 14 then s
  else if r.status = 0x0B ∨ r.status = 0x0C then signalPair s n
  else if bQuiet (d.members.getLast?.getD []) then s
  else
    let s1 := modPair s n fun x => { x with pendCount := x.pendCount + 1, pendSince := some (x.pendSince.getD s.now) }
    if max 1 (regField s (oRing n 0x1C) 7 0) ≤ (getPair s1 n).pendCount then signalPair s1 n else s1

/-- Posting a completion in the next slot of the completion ring (R203). -/
def postDesc (s : State) (n did : Nat) (d : Desc) (r : Result) : State :=
  let x := getPair s n
  let s1 := emit (applyPosted s d) (.dmaWrite (pairHead n) (cqBase s n + 32 * x.cqTail) (completionBytes s n d r) false)
  let wrap := x.cqTail + 1 == cqSize s n
  let s2 := modPair (dropDesc s1 did) n fun x =>
    { x with cqTail := if wrap then 0 else x.cqTail + 1, phase := if wrap then !x.phase else x.phase, posted := x.posted + 1 }
  notePosted s2 n d r

/-- COMPLETION_POST (R203): a full ring takes no record (R201). -/
def execCompletionPost (n : Nat) (s : State) : Answer :=
  onElement (okPair n) <|
    match readyDesc s n with
    | some (k, d, r) => .next (if dmaOpen s (pairHead n) && decide ((getPair s n).posted < cqSize s n) then postDesc s n k d r else s)
    | none => .next s

/-! The end of a reset (R209, R211). -/

/-- Every started descriptor of a pair has ended. -/
def pairEnded (s : State) (n : Nat) : Bool :=
  (descsOf s n).all fun k => match getDesc s k with
    | some d => d.result.isSome
    | none => true

/-- A completion is discarded; the region write it ends still takes effect. -/
def discardDesc (s : State) (k : Nat) : State :=
  match getDesc s k with
  | some d => dropDesc (applyPosted s d) k
  | none => s

/-- The ring registers of a head return to their reset values once all its pairs are in state 0; the guard's reference follows
(R211, R452). -/
def returnRings (s : State) (h : Nat) : State :=
  let ps := upFrom (64 * h) 64
  if (ps.any fun n => (getPair s n).clearRegs) && ps.all fun n => (getPair s n).state == 0 then
    let s1 := { s with regs := tabKeep s.regs fun o => !(decide (oHpt h 0x1000 ≤ o) && decide (o < oHpt h 0x2000)) }
    guardAdjust s (forAll s1 ps fun s n => modPair s n fun x => { x with clearRegs := false })
  else s

/-- RING_RESET_DONE (R209): step 4, once nothing of the pair runs. -/
def execRingResetDone (n : Nat) (s : State) : Answer :=
  onElement (okPair n) <|
    let x := getPair s n
    if x.state = 3 ∧ x.draining = false ∧ pairEnded s n = true then
      .next (returnRings (zeroPair (forAll s (descsOf s n) discardDesc) n) (pairHead n))
    else .next s

end Sys2Proof.Machine
end

