-- ==== Sys2Proof/Machine/Bist.lean ====
section
/-! DEFINITION. Result records (R335 to R337) and the BIST admin descriptor (R341 to R343). -/

namespace Sys2Proof.Machine

/-! Records. -/

/-- Kinds 1 to 4 of R341 as test_id names them, with flume or mill, sub-channel, tier and setting. -/
def testSelector (kind f sc t : Nat) (full : Bool) : Nat := kind + f * 2 ^ 4 + sc * 2 ^ 9 + t * 2 ^ 11 + b2n full * 2 ^ 16

def selKind (v : Nat) : Nat := bits v 3 0
def selFlume (v : Nat) : Nat := bits v 8 4
def selSub (v : Nat) : Nat := bits v 10 9
def selTier (v : Nat) : Nat := bits v 15 11
def selFull (v : Nat) : Bool := bitOf v 16

/-- Restore applies to kind 1 alone (R341). -/
def selRestore (v : Nat) : Bool := bitOf v 17 && selKind v == 1

/-- Coverage of the eight models in tenths of a percent (R335, R336); for a mill the lowest of its blocks. -/
def coverageOf (kind : Nat) (full : Bool) : List Nat :=
  let pick := fun (q w : Nat) => if full then w else q
  match kind with
  | 1 => [1000, 1000, 1000, pick 0 960, pick 620 992, pick 0 1000, pick 0 1000, 0]
  | 2 => [pick 920 986, 1000, 0, 0, 1000, 0, 0, 0]
  | 3 => [pick 928 988, 0, 0, 0, 0, 0, 0, 0]
  | 4 => [0, 0, 0, 0, 0, 0, 0, 1000]
  | _ => [0, 0, 0, 0, 0, 0, 0, 0]

/-- Patterns a test defines: a free value, since R336 gives no numbers. -/
def testPatterns (v : Nat) : Nat := Config.patterns (selKind v) (b2n (selFull v)) % 2 ^ 64

/-- The completion token (R337). -/
def testToken (id n : Nat) : Nat := crc32c 0 (leBytes 8 id ++ leBytes 8 n)

/-- The 64 bytes of a record (R336). -/
def recordBytes (r : TestRec) (full : Bool) (duration : Nat) : List Byte :=
  let cov := coverageOf (selKind r.testId) full
  let models := (List.range 8).foldl (fun a k => if natAt cov k = 0 then a else a + 2 ^ k) 0
  leBytes 8 r.testId ++ leBytes 2 models ++ leBytes 1 r.outcome ++ leBytes 1 r.setting ++ leBytes 4 (min (2 ^ 32 - 1) duration) ++
    leBytes 8 r.expected ++ leBytes 8 r.applied ++ leBytes 4 (testToken r.testId r.applied) ++ leBytes 4 r.result ++
    (cov.map (leBytes 2)).flatten ++ leBytes 8 r.firstFail

/-- A record of a test that ran to its end. -/
def ranRecord (v : Nat) (pass : Bool) (result first : Nat) : TestRec :=
  ⟨v, if pass then 0 else 1, b2n (selFull v), testPatterns v, testPatterns v, result, first⟩

/-- A record of a test that did not run (outcome 4). -/
def notRun (v : Nat) : TestRec := ⟨v, 4, b2n (selFull v), testPatterns v, 0, 0, 0⟩

/-- The signature a logic test ends with: the expected one, or another (R337). -/
def logicResult (s : State) (v : Nat) (pass : Bool) : Nat :=
  (Config.misr (selKind v) (b2n (selFull v)) (if pass then 0 else s.freeCtr + 1)).toNat

/-- A record whose pattern counter stands at `n` (R337): where the token does not match, the test is incomplete, its comparison is
disregarded, and a logic test's signature is not the expected one. -/
def shortRecord (s : State) (r : TestRec) (n : Option Nat) : TestRec :=
  match n with
  | none => r
  | some n =>
    if testToken r.testId (n % 2 ^ 64) = testToken r.testId r.expected then { r with applied := n % 2 ^ 64 }
    else { r with applied := n % 2 ^ 64, outcome := 2,
                  result := if selKind r.testId = 2 ∨ selKind r.testId = 3 then logicResult s r.testId false else r.result }

/-- first_fail of a DRAM test: the first cell, 0 where none failed (R336). -/
def cellFail (cs : List CellFail) : Nat :=
  match cs with
  | [] => 0
  | c :: _ => c.bank % 16 + c.row * 2 ^ 4 + c.colgrp * 2 ^ 18

/-- Number of failing cells, saturating (R336). -/
def cellCount (cs : List CellFail) : Nat := min (2 ^ 32 - 1) cs.length

/-! The descriptor (R341, R342). -/

/-- What makes two selectors name one target. -/
def bistTarget (v : Nat) : Nat :=
  if selKind v = 1 then v % 2 ^ 16 else if selKind v = 2 then v % 2 ^ 9 else v % 2 ^ 11

/-- A test of the same target runs (R342 reason 5). -/
def targetBusy (s : State) (did v : Nat) : Bool :=
  s.descs.any fun e => match e.2 with
    | some d => e.1 != did && d.work == 4 && bistTarget (natAt d.prog 0) == bistTarget v
    | none => false

/-- The target is disabled or out of service (R342 reason 2). -/
def targetOut (s : State) (v : Nat) : Bool :=
  match selKind v with
  | 1 => bayOut s (selFlume v) (selSub v) (selTier v)
  | 2 => millOff s (selFlume v)
  | 3 => (getSub s (subKey (selFlume v) (selSub v))).offline
  | 4 => (getSub s (subKey (selFlume v) (selSub v))).offline
  | _ => false

/-- A flume is a member of an entry. -/
def entryMember (e f : Nat) : Bool := decide (rgFirst e ≤ f) && decide (f < rgFirst e + 2 ^ rgLog e)

/-- The first reason a BIST descriptor is refused for, 0 for none (R342). -/
def bistReason (s : State) (did v : Nat) : Nat :=
  let f := selFlume v
  let held := (getFlume s f).held
  if 4 < selKind v ∨ (selKind v = 1 ∧ 16 < selTier v) then 1
  else if selKind v = 0 then 0
  else if targetOut s v ∧ selRestore v = false then 2
  else if (selKind v = 4 ∨ selRestore v = true) ∧ held = false then 3
  else if selRestore v ∧ (List.range 64).any fun i =>
      regionMirrored s i && !rgSecondary (regionWord s i) && entryMember (regionWord s i) f then 4
  else if targetBusy s did v then 5 else 0

/-- The descriptor's checks before a test that writes `n` records: what it ends with, none where it runs. -/
def bistCheck (s : State) (did n : Nat) (m : List Byte) : Option Result :=
  let r := bistReason s did (fieldLe m 0x10 8)
  if !isHost (bDst m) then some ⟨8, 0, 0x20, 0⟩
  else if bDstCap m < 64 * n ∨ rangeOk (bDst m) (bDstCap m) = false then some ⟨8, 0, 0x28, 0⟩
  else if r ≠ 0 then some ⟨0x0A, r, 0, 0⟩ else none

/-- Writing the records and ending the descriptor: the number written and the number that did not pass (R341). -/
def bistEnd (s : State) (did : Nat) (d : Desc) (m : List Byte) (rs : List TestRec) (full : Bool) (duration : Nat) : State :=
  let bytes := (rs.map fun r => recordBytes r full duration).flatten
  let s1 := dmaOut (bytes.length / 128 + 1) s (pairHead d.pair) (bDst m - 2 ^ 63) bytes false
  finishDesc s1 did ⟨0, 0, rs.length, rs.countP fun r => r.outcome != 0⟩

/-- A BIST descriptor of a kind that is still to start, where its records can be written; the test runs as `run` unless a check ends it. -/
def bistRun (s : State) (did : Nat) (ok : Nat → Bool) (n : Nat) (run : Desc → List Byte → Nat → State) : State :=
  match adminDesc s did 0x43 with
  | none => s
  | some (d, m) =>
    let v := fieldLe m 0x10 8
    if d.work ≠ 0 ∨ ok v = false then s
    else match bistCheck s did n m with
      | some r => finishDesc s did r
      | none => if dmaOpen s (pairHead d.pair) then run d m v else s

/-- Microseconds since a descriptor started. -/
def sinceStart (s : State) (d : Desc) : Nat := (s.now - d.startedAt) / 1000

/-- A test that ran at once: one record, and the notice of a failing one (R338). -/
def oneRecord (s : State) (did : Nat) (d : Desc) (m : List Byte) (r : TestRec) : State :=
  bistEnd (if r.outcome = 0 then s else noteFail s) did d m [r] (selFull r.testId) (sinceStart s d)

/-- BIST_COPY_RECORDS: the start-up records, in test_id order (R341); a reserved kind is refused here too. -/
def execBistCopyRecords (did : Nat) (s : State) : Answer :=
  .next (bistRun s did (fun v => selKind v == 0 || decide (4 < selKind v)) s.bist.startup.length fun d m _ =>
    bistEnd s did d m s.bist.startup s.bist.startupFull 0)

/-- BIST_DRAM_BAY: slices on every row of a bay in service; what fails is repaired (R341, R345). -/
def execBistDramBay (did : Nat) (fails : List CellFail) (short : Option Nat) (s : State) : Answer :=
  .next (bistRun s did (fun v => selKind v == 1 && !(selRestore v && targetOut s v)) 1 fun d m v =>
    let f := selFlume v
    let cs := fails.filter fun c => c.bank / 16 == bayKey f (selSub v) (selTier v) && decide (c.row < 8224)
    let r := shortRecord s (ranRecord v cs.isEmpty (cellCount cs) (cellFail cs)) short
    if flumeOpen s f then oneRecord (if r.outcome = 1 then repairCells s cs else s) did d m r
    else wakeFlume s f)

/-- BIST_MILL: the mill leaves dispatch for its test (R341); ADMIN_BIST_TEST_END ends it. -/
def execBistMill (did : Nat) (s : State) : Answer :=
  .next (bistRun s did (fun v => selKind v == 2) 1 fun _ _ v =>
    let s1 := modDesc s did fun x => { x with work := 4, prog := [v] }
    leaveDispatch (modMill s1 (selFlume v) fun x => { x with testing := true }) (selFlume v))

/-- BIST_ENGINE: a logic slice of a sub-channel engine (R341, R349). -/
def execBistEngine (did : Nat) (pass : Bool) (short : Option Nat) (s : State) : Answer :=
  .next (bistRun s did (fun v => selKind v == 3) 1 fun d m v =>
    let f := selFlume v
    if flumeOpen s f then
      let r := shortRecord s (ranRecord v pass (logicResult s v pass) 0) short
      if r.outcome = 0 then oneRecord s did d m r
      else oneRecord (if r.outcome = 1 then withdrawSub (bumpFree s) f (selSub v) else bumpFree s) did d m r
    else wakeFlume s f)

/-- BIST_LOOP_TEST: the loop test of a sub-channel of a held flume (R341, R299). -/
def execBistLoopTest (did : Nat) (loop : LoopRes) (short : Option Nat) (s : State) : Answer :=
  .next (bistRun s did (fun v => selKind v == 4) 1 fun d m v =>
    let ws := loop.wires
    let r := shortRecord s (ranRecord v ws.isEmpty ws.length (minOf (ws.headD 0) ws)) short
    oneRecord (if r.outcome = 2 then s else loopTest s (selFlume v) (selSub v) loop) did d m r)

/-! Restore (R343). -/

/-- No pass of a bay waits any more. -/
def dropPasses (s : State) (f sc t : Nat) : State :=
  modFlume s f fun x => { x with passQueue := tabSet [] x.passQueue sc ((tabGet [] x.passQueue sc).filter fun e => e.1 != t) }

/-- Step 1: the full pass of an offline bay, in the flume's mode and then in Own-clock (R302). -/
def restoreTrain (s : State) (f sc t : Nat) (res : PassRes) : State :=
  let tuned := (getFlume s f).tunedMode
  let s1 := dropPasses (endPass s f sc t 0 tuned true res) f sc t
  let s2 := if (getBay s1 (bayKey f sc t)).trained ∨ tuned = false then s1 else dropPasses (endPass s1 f sc t 0 false true res) f sc t
  writeRecords s2 f

/-- BIST_RESTORE: the training of step 1; a bay that trains waits for its march, one that does not stays offline (R343). -/
def execBistRestore (did : Nat) (res : PassRes) (s : State) : Answer :=
  .next (bistRun s did (fun v => selRestore v && targetOut s v) 1 fun d m v =>
    let s1 := restoreTrain s (selFlume v) (selSub v) (selTier v) res
    if (getBay s1 (bayKey (selFlume v) (selSub v) (selTier v))).trained then modDesc s1 did fun x => { x with work := 4, prog := [v] }
    else oneRecord s1 did d m (notRun v))

/-- Every line of a bay is written poisoned, its data free. -/
def poisonBay (s : State) (f sc t : Nat) : State :=
  let v := encodeLine (lostData s) (mdMake 0 false true)
  bumpFree (forAll s (upFrom 0 16) fun s b => forAll s (upFrom 0 8192) fun s row => forAll s (upFrom 0 32) fun s col =>
    setStored s (placeAt s f ⟨sc, t, b, row, col⟩) v)

/-- The 1,024 bytes of chunk `c` of a bitmap of granules, 8,192 to a chunk (R262 kind 5). -/
def chunkBytes (gs : List Nat) (c : Nat) : List Byte :=
  (List.range 1024).map fun i =>
    BitVec.ofNat 8 ((List.range 8).foldl (fun a j => a + b2n (gs.contains (8192 * c + 8 * i + j)) * 2 ^ j) 0)

/-- Sending the set granules of a list, chunk by chunk (R262 kind 5). -/
def sendDirty (s : State) (gs : List Nat) : State :=
  forAll s ((gs.foldl (fun l g => insertNat (g / 8192) l) [])) fun s c => sendState s 5 c (chunkBytes gs c) 0

/-- The banks of a bay that returns to service owe nothing, and each is due at its place of the even spread (R75). -/
def restartRefresh (s : State) (f sc t : Nat) : State :=
  forAll s (upFrom 0 16) fun s b => modBank s (bankKey f sc t b) fun k =>
    { k with owed := 0, refDue := 0, owedDue := 0, dueAt := spreadPoint (refInterval (bandOf s f t)) (t * 16 + b) s.now }

/-- Steps 3 and 4: the bay returns poisoned, itself in service whatever bay stood in for it, and every granule of the flume's mirrored regions is set, whole, and sent. -/
def restoreBay (s : State) (f sc t : Nat) : State :=
  let s1 := modBay s (bayKey f sc t) fun b => { b with offline := false, redirected := false }
  let s2 := if t = 16 then modSub s1 (subKey f sc) fun u => { u with spareBad := false } else s1
  let s3 := poisonBay (restartRefresh s2 f sc t) f sc t
  let rs := (List.range 64).filter fun i => regionMirrored s3 i && entryMember (regionWord s3 i) f
  let gs := (rs.map fun i => granulesOf (regionWord s3 i)).flatten
  let s4 := forAll s3 gs setWhole
  if s4.leat.joined then sendDirty s4 gs else s4

/-- ADMIN_BIST_TEST_END: a mill's test or the march of a restore ends (R341, R343, R349). -/
def execAdminBistTestEnd (did : Nat) (pass : Bool) (fails : List CellFail) (short : Option Nat) (s : State) : Answer :=
  match adminDesc s did 0x43 with
  | none => .next s
  | some (d, m) =>
    let v := natAt d.prog 0
    let f := selFlume v
    if d.work ≠ 4 ∨ dmaOpen s (pairHead d.pair) = false then .next s
    else if selKind v = 2 then
      if (getMill s f).running.isSome then .next s
      else
        let r := shortRecord s (ranRecord v pass (logicResult s v pass) 0) short
        let s1 := modMill s f fun x => { x with testing := false, hopper := [], hopperPoison := [], scalars := [], vectors := [] }
        .next (oneRecord (if r.outcome = 0 then refillMills s1 else if r.outcome = 1 then failMill (bumpFree s1) f
          else refillMills (bumpFree s1)) did d m r)
    else
      let r := shortRecord s (ranRecord v (pass && fails.isEmpty) (cellCount fails) (cellFail fails)) short
      .next (oneRecord (if r.outcome = 0 then restoreBay s f (selSub v) (selTier v) else bayOffline s f (selSub v) (selTier v)) did d m r)

end Sys2Proof.Machine
end

