-- ==== Sys2Proof/Machine/Start.lean ====
section
/-! DEFINITION. Device resets and start-up (R356 to R362): fuse load, tally load (R306, R351), voltage search (R376), tier training
(R309), start-up BIST (R333 to R338, R349) and the wipe (R360); and the test port (R344, R364, R365). -/

namespace Sys2Proof.Machine

/-! Step 3: the tally load. -/

/-- Calibration records of every flume, tier and point: an absent one raises a notice (R306). -/
def loadCal (s : State) : State :=
  forAll s (upFrom 0 (32 * 17 * 4)) fun s k =>
    let c := tabGet none s.tally.cal k
    let s1 := checkCopies 1 s c
    if (c.bind bestCopy).isSome then s1 else event s1 10 1 1 0 1

/-- The entry's fields are in range for its kind, 1 to 4 (R317, R318). -/
def entryLoads (e : Nat) : Bool :=
  match entryKind e with
  | 1 => decide (entryTier e < 16) && decide (entryRow e < 8192) && decide (entrySpare e < 28)
  | 2 => decide (entryTier e < 16) && decide (entryCol e < 320) && decide (entrySpare e < 8)
  | 3 => decide (entryTier e < 16)
  | 4 => decide (entryWire e < 361)
  | _ => false

/-- Repair entry `k` of the fuse shadow. -/
def fuseEntry (s : State) (k : Nat) : Nat :=
  bits (tabGet (0 : BitVec 256) s.fuses.shadow (1179 + k / 4)).toNat (64 * (k % 4) + 63) (64 * (k % 4))

/-- The fuse repair entries in force, none while the repair region has failed (R318, R321). -/
def fuseEntries (s : State) : List Nat :=
  if s.fuses.failed.contains 4 then [] else ((List.range 3220).map (fuseEntry s)).filter entryLoads

/-- The bank an entry names. -/
def entryBankKey (e : Nat) : Nat := bankKey (entryFlume e) (entrySc e) (entryTier e) (entryBank e)

/-- Two entries name one element, or one spare (R351). -/
def sameElement (e o : Nat) : Bool :=
  entryKind e == entryKind o && entryFlume e == entryFlume o && entrySc e == entrySc o &&
    (match entryKind e with
    | 1 => entryBankKey e == entryBankKey o && (entryRow e == entryRow o || entrySpare e == entrySpare o)
    | 2 => entryBankKey e == entryBankKey o && (entryCol e == entryCol o || entrySpare e == entrySpare o)
    | 3 => entryTier e == entryTier o
    | _ => entryWire e == entryWire o || entrySpw e == entrySpw o)

/-- Applying a loaded entry (R351): a second redirection on a sub-channel takes its bay offline; of two spares for one wire the later
entry's serves. -/
def loadEntry (s : State) (e : Nat) : State :=
  let f := entryFlume e
  let sc := entrySc e
  let b := entryBankKey e
  match entryKind e with
  | 1 => modBank s b fun x => { x with rows := tabSet 0 x.rows (entryRow e) (entrySpare e + 1) }
  | 2 => modBank s b fun x => { x with cols := tabSet 0 x.cols (entryCol e) (entrySpare e + 1) }
  | 3 =>
    if (getSub s (subKey f sc)).spareUsed then event (bayOffline s f sc (entryTier e)) 11 0 2 (sc + 4 * entryTier e) 0
    else
      let s1 := modSub s (subKey f sc) fun u => { u with spareUsed := true }
      modBay s1 (bayKey f sc (entryTier e)) fun y => { y with redirected := true }
  | 4 => modSub s (subKey f sc) fun u =>
      { u with steer := (List.range 16).foldl (fun t i =>
          if i = entrySpw e then tabSet 0 t i (entryWire e + 1) else if tabGet 0 t i = entryWire e + 1 then tabSet 0 t i 0 else t) u.steer }
  | _ => s

/-- The soft-repair record of a flume: entries that a fuse entry covers are dropped, the rest and the erasures come into force. -/
def loadSoft (fuse : List Nat) (s : State) (f : Nat) : State :=
  let s0 := checkCopies 3 s (tabGet none s.tally.soft f)
  let r := softOf s0 f
  let keep := r.entries.filter fun e => !(fuse.any (sameElement e.toNat))
  let s1 := if keep.length = r.entries.length then s0
    else { s0 with tally := { s0.tally with soft := tabMod none s0.tally.soft f fun o => some (putCopy o ⟨keep, r.erasures⟩) } }
  let s2 := ((keep.map (·.toNat)).filter entryLoads).foldl loadEntry s1
  r.erasures.foldl (fun s e => modSub s (subKey f e.1) fun u => { u with erasures := u.erasures ++ [e.2], degraded := true }) s2

/-- The remap table of a flume; entries of repaired rows and redirected bays are released (R20, R106, R351). -/
def loadRemap (s : State) (f : Nat) : State :=
  let c := tabGet none s.tally.remap f
  let s0 := checkCopies 4 s c
  let s1 := match c.bind bestCopy with
    | some t => modFlume s0 f fun x => { x with remap := t }
    | none => s0
  releaseRemap s1 f fun e =>
    let b := bankKey f (bits e 2 1) (bits e 7 3) (bits e 11 8)
    decide (0 < tabGet 0 (getBank s1 b).rows (bits e 24 12)) || (getBay s1 (b / 16)).redirected

/-- The identity is present and the life-cycle state lets it answer (R321, R364, R369). -/
def hasIdentity (u : Fuses) : Bool := !u.failed.contains 1 && decide (1 ≤ u.lc ∧ u.lc ≤ 4)

/-- Step 3 of start-up: tally load, the start-up count, the nonce (R262, R357) and the certificate (R367). -/
def tallyLoad (s : State) : State :=
  let s1 := checkCopies 7 (checkCopies 2 (loadCal s) s.tally.ucode) s.tally.life
  let fuse := fuseEntries s1
  let s2 := forAll (fuse.foldl loadEntry s1) (upFrom 0 32) (loadSoft fuse)
  let s3 := forAll s2 (upFrom 0 32) loadRemap
  let n := Config.nonce s3.freeCtr
  let l := lifeOf s3
  bumpFree { putLife s3 { l with startups := (l.startups + 1) % 2 ^ 32 } with
    leat := { s3.leat with nonce := n }
    boot := { s3.boot with identity := hasIdentity s3.fuses } }

/-- The canary rows of the fuses go to the tally store's copy; where the repair region has failed and no copy was taken, every flume's
retention source raises a notice (R83, R420). -/
def canaryLoad (s : State) : State :=
  if s.fuses.failed.contains 4 then
    if s.tally.canary.isSome then s else forAll s (upFrom 0 32) fun s f => event s (32 + f) 9 1 0 0
  else { s with tally := { s.tally with canary := some (tabKeep s.fuses.shadow fun r => decide (74 ≤ r) && decide (r < 1179)) } }

/-! Step 4: clocks and the voltage search. -/

/-- The result of a search that lowered the target by `n` steps of 6.25 mV (R376), in quarter millivolts. -/
def searchResult (trim n : Nat) : Nat := min trim (trim - 25 * min 8 n + 50)

/-- Step 4: the PLLs lock; the search gives each mill its targets, none with the trim default (R376). -/
def clockStart (s : State) (searches : List (Nat × Nat × Nat)) : State :=
  let s1 := { s with pwr := { s.pwr with coreLock := true, laneLock := upFrom 0 24, ringOsc := false, refLost := false } }
  let s2 := forAll s1 (upFrom 0 32) fun s m =>
    let n := fun p => ((searches.find? fun e => e.1 == m && e.2.1 == p).map fun e => e.2.2).getD 0
    let t := if trimDefault s then [] else [0, 1, 2, 3].foldl (fun t p => tabSet 0 t p (searchResult (millTrim s m p) (n p))) []
    modMill s m fun x => { x with target := t, raises := [] }
  setVlogic (forAll s2 (upFrom 0 32) fun s m =>
    modFlume (modMill s m fun x => { x with opp := millPoint s m }) m fun x => { x with opp := flumePoint s m })

/-! Step 5: tier training (R309). -/

/-- What the loop test of a sub-channel found, no failing wire where none is listed. -/
def loopOf (env : StartEnv) (k : Nat) : LoopRes := ((env.loops.find? fun e => e.1 == k).map (·.2)).getD ⟨[], []⟩

/-- Loop tests, then full passes in Own-clock mode in ascending tier order; the records are written when all are done. -/
def trainAll (s : State) (env : StartEnv) : State :=
  let s1 := forAll s (upFrom 0 128) fun s k =>
    let s1 := loopTest s (k / 4) (k % 4) (loopOf env k)
    forAll s1 (upFrom 0 17) fun s t =>
      if bayOut s (k / 4) (k % 4) t then s
      else endPass s (k / 4) (k % 4) t 0 false false (passFor env.passes (k * 17 + t))
  forAll s1 (upFrom 0 32) writeRecords

/-! Step 6: start-up BIST. -/

/-- The full setting runs (R333). -/
def fullBist (s : State) (strap : Bool) : Bool :=
  strap || (!s.fuses.failed.contains 3 && bitOf (tabGet (0 : BitVec 256) s.fuses.shadow 23).toNat 0) || s.fuses.failed.contains 4

/-- The record of a bay's march. -/
def bayRecord (s : State) (env : StartEnv) (full : Bool) (f sc t : Nat) : TestRec :=
  let v := testSelector 1 f sc t full
  let cs := env.cells.filter fun c => c.bank / 16 == bayKey f sc t
  if bayOut s f sc t then notRun v else ranRecord v cs.isEmpty (cellCount cs) (cellFail cs)

/-- The record of an engine's logic test. -/
def engineRecord (s : State) (env : StartEnv) (full : Bool) (f sc : Nat) : TestRec :=
  let v := testSelector 3 f sc 0 full
  let ok := !env.badEngines.contains (subKey f sc)
  ranRecord v ok (logicResult s v ok) 0

/-- The record of a sub-channel's loop test. -/
def wireRecord (env : StartEnv) (full : Bool) (f sc : Nat) : TestRec :=
  let ws := (loopOf env (subKey f sc)).wires
  ranRecord (testSelector 4 f sc 0 full) ws.isEmpty ws.length (minOf (ws.headD 0) ws)

/-- The record of a mill's test. -/
def millRecord (s : State) (env : StartEnv) (full : Bool) (m : Nat) : TestRec :=
  let v := testSelector 2 m 0 0 full
  let ok := !env.badMills.contains m
  ranRecord v ok (logicResult s v ok) 0

/-- All start-up records, in test_id order (R341). -/
def startRecords (s : State) (env : StartEnv) (full : Bool) : List TestRec :=
  ((upFrom 0 17).map fun t => ((upFrom 0 4).map fun sc => ((upFrom 0 32).map fun f =>
    [bayRecord s env full f sc t] ++ (if t = 0 ∧ sc = 0 then [millRecord s env full f] else []) ++
      (if t = 0 then [engineRecord s env full f sc, wireRecord env full f sc] else [])).flatten).flatten).flatten

/-- A failing front-end copy (R349): the first is retired, the second takes the flume's sub-channels out of service. -/
def frontFail (s : State) (f : Nat) : State :=
  let s1 := noteFail (modFlume s f fun x => { x with frontEnds := min 2 (x.frontEnds + 1) })
  if (getFlume s1 f).frontEnds = 2 then forAll s1 [0, 1, 2, 3] fun s sc => if (getSub s (subKey f sc)).offline then s else withdrawSub s f sc
  else s1

/-- Redirections that start-up makes complete without copying, so the failed bay's remap entries are released (R20, R71); column
moves hold for every row (R347). -/
def endMoves (s : State) : State :=
  let s1 := forAll s (upFrom 0 32) fun s f =>
    let sent := (getFlume s f).migrate
    modFlume (releaseRemap s f fun e => match tabGet none sent (bits e 2 1) with
      | some (t, _) => bits e 7 3 == t
      | none => false) f fun x => { x with migrate := [] }
  forAll s1 (s1.banks.map Prod.fst) fun s b => modBank s b fun x => { x with colMove := none }

/-- The start-up records that did not pass: failing ones, and those incomplete in both runs, which count as failing (R338). -/
def failedTests (rs : List TestRec) (kind : Nat) : List Nat :=
  (rs.filter fun r => (r.outcome == 1 || r.outcome == 2) && selKind r.testId == kind).map (·.testId)

/-- The bay's march is incomplete: what its comparison found is disregarded (R337). -/
def marchShort (rs : List TestRec) (b : Nat) : Bool :=
  rs.any fun r => r.outcome == 2 && selKind r.testId == 1 && bayKey (selFlume r.testId) (selSub r.testId) (selTier r.testId) == b / 16

/-- Step 6: records, the outcomes of R349, and soft repair of what the march found (R345). -/
def bistAll (s : State) (env : StartEnv) : State :=
  let full := fullBist s env.bistMode
  let short := fun (r : TestRec) => if r.outcome = 4 then none else (env.short.find? fun e => e.1 == r.testId).map (·.2)
  let rs := (startRecords s env full).map fun r => shortRecord s r (short r)
  let s1 := { s with bist := { s.bist with startup := rs, startupFull := full } }
  let s2 := forAll s1 (List.range (rs.countP fun r => r.outcome == 1 || r.outcome == 2)) fun s _ => noteFail s
  let s3 := forAll (bumpFree s2) env.badFronts fun s f => if f < 32 then frontFail s f else s
  let s4 := forAll s3 (failedTests rs 3) fun s v =>
    if (getSub s (subKey (selFlume v) (selSub v))).offline then s else withdrawSub s (selFlume v) (selSub v)
  let s5 := forAll s4 (failedTests rs 2) fun s v => modMill s (selFlume v) fun x => { x with failed := true }
  let s6 := repairMarch s5
    (env.cells.filter fun c => decide (c.bank < 34816) && decide (c.row < 8224) && !marchShort rs c.bank)
  endMoves (if env.sramOk then s6 else raise s6 12 0 3 0 0)

/-! Step 7: the wipe, microcode, and the guard's first reference. -/

/-- The wipe (R360): every reachable line is a full line of zeros, which is all the array holds; then the microcode load (R139),
refresh from here on (R82), and the guard's reference (R451). -/
def wipeAndLoad (s : State) : State :=
  let s1 := forAll { s with mem := [], lost := 0 } (upFrom 0 32) leaveSelfRefresh
  let s2 := if s1.fuses.lc = 5 then s1 else startUcode s1
  { s2 with acc := { s2.acc with ref := guardCrc s2, last := guardCrc s2 } }

/-- Step 8: LINK_EN rises (R358, R359). -/
def raiseLinkEn (s : State) : State := emit { s with boot := { s.boot with linkEn := true } } (.pins s.boot.faultN true)

/-! The sequence. -/

/-- One step of start-up; a fatal fault ends the sequence at the step reached (R359). -/
def startStep (k : Nat) (g : State → State) (s : State) : State :=
  if s.boot.halted then s
  else
    let s1 := g { s with boot := { s.boot with step := k } }
    if s1.flt.safe then { s1 with boot := { s1.boot with halted := true } } else s1

/-- Steps 1 to 8 of R358. In SCRAPPED start-up ends after step 7 with LINK_EN high (R364). -/
def startSteps (s : State) (env : StartEnv) : State :=
  let s1 := startStep 1 (fun s => if env.lockstepOk then s else raise s 6 0 3 0 0) s
  let s2 := startStep 2 (fun s => fuseLoad (completeIntent s env.fuse)) s1
  let s3 := startStep 3 (fun s => canaryLoad (tallyLoad s)) s2
  let s4 := startStep 4 (fun s => clockStart s env.searches) s3
  let s5 := startStep 5 (fun s => trainAll s env) s4
  let s6 := startStep 6 (fun s => bistAll s env) s5
  let s7 := startStep 7 wipeAndLoad s6
  if s7.fuses.lc = 5 then startStep 7 raiseLinkEn s7 else startStep 8 raiseLinkEn s7

/-- A device reset of a cause (R356): everything but what R361 keeps is cleared, and start-up runs, or waits for the last rail where one
is out of its window (R358, R469). -/
def deviceReset (s : State) (cause : Nat) (env : StartEnv) : State :=
  let r := resetKeep s
  let s1 := emit { r with boot := { r.boot with cause := cause, since := s.now, rstN := true, bistMode := env.bistMode } } (.pins true false)
  if s1.pwr.railsOut.isEmpty then startSteps s1 env else { s1 with boot := { s1.boot with early := some s.now } }

/-- The device is held until a power-on reset: by a sequence error (R469) or by VDD_AUX out of its window (R385). -/
def heldInReset (s : State) : Bool := s.boot.seqError || s.pwr.auxReset

/-- RAIL_WINDOW_RETURN (R384, R469): where a released reset waits for the last rail, t0 is the moment it enters its window. -/
def execRailWindowReturn (r : Nat) (env : StartEnv) (s : State) : Answer :=
  onElement (decide (r < 7)) <|
    let s1 := railBack s r
    .next (if s1.pwr.railsOut.isEmpty && s1.boot.early.isSome && !heldInReset s1 then
      startSteps { s1 with boot := { s1.boot with early := none, since := s1.now } } env
    else s1)

/-- POWER_ON_RESET (R356): VDD_AUX has entered its window. -/
def execPowerOnReset (env : StartEnv) (s : State) : Answer :=
  .next (deviceReset { s with pwr := { s.pwr with railsOut := s.pwr.railsOut.filter (· != 6) } } 0 env)

/-- PIN_RESET (R356). -/
def execPinReset (env : StartEnv) (s : State) : Answer :=
  .next (if heldInReset s then s else deviceReset s 1 env)

/-- A write of GLB_RESET is taken (R356): another key is an access fault. -/
def takeReset (s : State) (path v : Nat) (env : StartEnv) : State :=
  if bits v 31 16 ≠ 0xC0DE then accessFault s path 6 8
  else if bitOf v 0 then deviceReset s 2 env else s

/-- SOFTWARE_RESET (R356). -/
def execSoftwareReset (path : Nat) (v : Word) (env : StartEnv) (s : State) : Answer :=
  onElement (okPath path) (.next (if pathOpen s path then takeReset s path v.toNat env else s))

/-- LIFE_CYCLE_RESET (R362): due once a life-cycle word has verified. -/
def execLifeCycleReset (env : StartEnv) (s : State) : Answer :=
  .next (if s.boot.lcReset then deviceReset s 3 env else s)

/-- SCAN_DEBUG_EXIT_RESET (R344 step 5, R356, R365). -/
def execScanDebugExitReset (env : StartEnv) (s : State) : Answer :=
  .next (if s.boot.scanOpen || s.boot.debugOpen then deviceReset s 4 env else s)

/-! The test port (R344, R364, R365). -/

/-- The life-cycle states that permit scan and debug: BLANK, TEST and RMA (R364). -/
def portPermits (s : State) : Bool := [0, 1, 4].contains s.fuses.lc

/-- R344 steps 1 to 3: DRAM is blocked, the secrets and the SRAM are zeroed. -/
def clearSecrets (s : State) : State :=
  let s1 := { s with
    boot := { s.boot with blocked := true, identity := false }
    regions := []
    badRegions := [] }
  let s2 := modLeat s1 fun l => { l with pond := [], dirty := [], whole := [], page := [], copies := [] }
  let s3 := forAll s2 (upFrom 0 32) fun s m => modMill s m fun x => { x with hopper := [], hopperPoison := [], scalars := [], vectors := [] }
  let s4 := forAll s3 (upFrom 0 128) fun s k => modSub s k fun u => { u with retry := [], held := [] }
  forAll s4 (upFrom 0 32) fun s f =>
    modFlume s f fun x => { x with waiting := [], queue := [], inflight := [], heldRows := [], refetch := [] }

/-- BYPASS shifts one bit of 0 (R365). -/
def bypassPort (s : State) : State := emit s (.testPort 0 0)

/-- SCAN_ENTRY (R344): BYPASS where the life-cycle state gives no scan. -/
def execScanEntry (s : State) : Answer :=
  .next (if portPermits s then
    let s1 := clearSecrets s
    { s1 with boot := { s1.boot with scanOpen := true } } else bypassPort s)

/-- DEBUG_ENTRY (R365). -/
def execDebugEntry (s : State) : Answer :=
  .next (if portPermits s then
    let s1 := clearSecrets s
    { s1 with boot := { s1.boot with debugOpen := true } } else bypassPort s)

/-- BYPASS (R365). -/
def execBypass (s : State) : Answer := .next (bypassPort s)

/-- IDCODE (R365). -/
def execIdcode (s : State) : Answer := .next (emit s (.testPort 1 Config.idcode.toNat))

/-- The digital pins of R465 as SAMPLE sees them: RST_N, PERST_N0 to 3, BIST_MODE, FAULT_N, LINK_EN, VLOGIC_SEL. -/
def pinWord (s : State) : Nat :=
  b2n s.boot.rstN + (List.range 4).foldl (fun a h => a + b2n (s.boot.perstN.contains h) * 2 ^ (h + 1)) 0 + b2n s.boot.bistMode * 2 ^ 5 +
    b2n s.boot.faultN * 2 ^ 6 + b2n s.boot.linkEn * 2 ^ 7 + s.pwr.vlogic * 2 ^ 8

/-- SAMPLE/PRELOAD (R365). -/
def execSamplePreload (s : State) : Answer := .next (emit s (.testPort 2 (pinWord s)))

/-- EXTEST (R365): BYPASS unless RST_N is low. -/
def execExtest (s : State) : Answer := .next (if s.boot.rstN then bypassPort s else emit s (.testPort 3 (pinWord s)))

end Sys2Proof.Machine
end

