-- ==== Sys2Proof/Machine/Heads.lean ====
section
/-! DEFINITION. Links of the heads and of the leat as lanes see them (R216, R217, R233, R234, R239, R247 to R250), resets and power
states of a head (R230, R231), S2M credits (R223) and configuration writes (R225, R479). -/

namespace Sys2Proof.Machine

/-! Lanes of a link. Links 0 to 3 are the heads, 4 and 5 the leat ports. -/

/-- A list of link lanes holds lane `i`; the lanes of a set. -/
def cleanSet (bad set : List Nat) : Bool := set.all fun i => !bad.contains i

/-- The width code and reversal a head forms with the lanes that are not bad, none where no set is clean (R233). -/
def headSet (bad : List Nat) : Option (Nat × Bool) :=
  ([((3, false), upFrom 0 16), ((2, false), upFrom 0 8), ((2, true), upFrom 8 8), ((1, false), upFrom 0 4),
    ((1, true), upFrom 12 4)].find? fun e => cleanSet bad e.2).map (·.1)

/-- The width code a leat port forms (R248). -/
def portSet (bad : List Nat) : Option (Nat × Bool) :=
  ([(3, upFrom 0 16), (2, upFrom 0 8), (2, upFrom 8 8), (1, upFrom 0 4), (1, upFrom 4 4), (1, upFrom 8 4),
    (1, upFrom 12 4)].find? fun e => cleanSet bad e.2).map fun e => (e.1, false)

/-- Lanes of link `n` that LAN_CTL.excl_req takes out (R247). -/
def exclReq (s : State) (n : Nat) : List Nat := (List.range 16).filter fun i => bitOf (regGet s (oLan (16 * n + i) 0)).toNat 0

/-- A change of each lane of a link. -/
def modLanes (s : State) (n : Nat) (g : Nat → Lane → Lane) : State := forAll s (upFrom 0 16) fun s i => modLane s (16 * n + i) (g i)

/-- An eye scan that runs on a lane stops with state 3 as the lane leaves L0 (R240). -/
def abortScan (s : State) (l : Nat) : State :=
  if (getLane s l).scanning then scEvent (modLane s l fun x => { x with scanning := false }) (oLan l 0x28) fun v => putBits v 14 12 3
  else s

/-- The lanes of a link leave L0: their eye scans stop. -/
def abortScans (s : State) (n : Nat) : State := forAll s (upFrom (16 * n) 16) abortScan

/-- The rate and width codes of a link. -/
def linkRate (s : State) (n : Nat) : Nat := if n < 4 then (getHead s n).rate else (getPort s (n - 4)).rate
def linkWidth (s : State) (n : Nat) : Nat := if n < 4 then (getHead s n).width else (getPort s (n - 4)).width

/-- A signed field of `n` bits. -/
def signed (n v : Nat) : Int := if v < 2 ^ (n - 1) then v else (v : Int) - 2 ^ n

/-- The code tap `k` of a lane has adapted to now (R239): from the held one it has moved by at most one code every 1,024 UI, towards a
free value of its range. -/
def adaptedTap (s : State) (l k : Nat) : Nat :=
  let w := if k = 0 then 7 else 6
  let held := signed w (tabGet 0 (getLane s l).taps k)
  let moves : Int := ((s.now - (getLane s l).adaptAt) / (if linkRate s (l / 16) = 1 then 64 else 32) : Nat)
  let aim := signed w ((Config.dfeTap l k s.now).toNat % 2 ^ w)
  (max (held - moves) (min (held + moves) aim) % 2 ^ w).toNat

/-- The codes of the eight taps of a lane that adapts. -/
def adaptedTaps (s : State) (l : Nat) : Tab Nat := (List.range 8).foldl (fun t k => tabSet 0 t k (adaptedTap s l k)) []

/-- A lane adapts: its link is in L0 and it is not frozen (R239). -/
def laneAdapts (s : State) (l : Nat) : Bool :=
  let n := l / 16
  let up := if n < 4 then (getHead s n).linkUp && !(getHead s n).l1 && !(getHead s n).recovering
    else (getPort s (n - 4)).linkUp
  up && !bitOf (regGet s (oLan l 0)).toNat 1

/-- Adaptation of a lane stops: the taps are held as they are. -/
def holdTaps (s : State) (l : Nat) : State :=
  if laneAdapts s l then modLane s l fun x => { x with taps := adaptedTaps s l } else s

/-- Adaptation goes on from the held taps on every lane of a link (R239). -/
def resumeLink (s : State) (n : Nat) : State := modLanes s n fun _ x => { x with adaptAt := s.now }

/-- Adaptation stops on every lane of a link. -/
def holdLink (s : State) (n : Nat) : State := forAll s (upFrom (16 * n) 16) holdTaps

/-- The lane PLLs of a link's lanes lock (R237). -/
def lockPlls (s : State) (qs : List Nat) : State :=
  { s with pwr := { s.pwr with laneLock := qs.foldl (fun l q => insertNat q l) s.pwr.laneLock } }

/-- The lanes of a link train: taps restart from 0, the lane PLLs and clock recovery lock, but for the bad lanes (R237, R239). -/
def trainLanes (s : State) (n : Nat) (bad : List Nat) : State :=
  modLanes (lockPlls s (upFrom (4 * n) 4)) n fun i x =>
    { x with taps := [], adaptAt := s.now, cdr := !bad.contains i, retest := false, retestAt := s.now, barred := false, rejoin := false,
             locked := false, fill := 0 }

/-- The lanes 0 to 15 that a list names, in order. -/
def laneSet (ls : List Nat) : List Nat := ls.foldl (fun a i => if i < 16 then insertNat i a else a) []

/-- Lanes of a link that is down: no test runs, and none is excluded. -/
def idleLanes (s : State) (n : Nat) : State :=
  modLanes (abortScans (holdLink s n) n) n fun _ x => { x with retest := false, barred := false, rejoin := false }

/-! Heads: link events. -/

/-- A notice or severe event of a head's link source. -/
def linkEvent (s : State) (h sev lane : Nat) : State := event s (16 + h) 0 sev (lane * 2 ^ 11) 0

/-- A head that failed to reach L0 at 16 GT/s or faster (R217). -/
def trainFailed (s : State) (h : Nat) : State :=
  let s1 := modHead s h fun x => { x with retryAt := some (s.now + oneSecond), linkUp := false, recovering := false }
  linkEvent (scEvent s1 (oHpt h 8) fun v => putBits v 2 2 1) h 1 0

/-- A head in L0 enters service (R358 step 9); in SCRAPPED it trains PCIe only and serves nothing (R364). -/
def enterService (s : State) (h : Nat) (cxl : Bool) : State :=
  let s1 := if s.fuses.lc = 5 then s else { s with boot := { s.boot with step := 9, ready := true } }
  if cxl then s1 else linkEvent (scEvent s1 (oHpt h 8) fun v => putBits v 1 1 1) h 1 0

/-- HEAD_LINK_UP (R216, R217, R221): 256 Req and 128 RwD credits are advertised, which a head that withholds keeps. LINK_EN is high and PERST# released. Rate 0 is an attempt that did not reach 16 GT/s. -/
def headUp (s : State) (h : Nat) (cxl : Bool) (rate : Nat) (bad : List Nat) (ndr drs : Option Nat) : State :=
  let x := getHead s h
  if !s.boot.linkEn || x.linkUp || x.retryAt.isSome then s
  else
    let s0 := { s with boot := { s.boot with perstN := insertNat h s.boot.perstN } }
    let mem := cxl && s.fuses.lc != 5
    match (if rate = 0 ∨ 3 < rate then none else headSet (bad ++ exclReq s h)) with
    | none => trainFailed s0 h
    | some (w, rev) =>
      let s1 := modHead (trainLanes s0 h bad) h fun x =>
        { x with linkUp := true, cxl := mem, rate := rate, width := w, reversed := rev, recovering := false, l1 := false,
                 excluded := laneSet (bad ++ exclReq s h), readmit := [], ndr := ndr, drs := drs, reqCredit := 0, rwdCredit := 0,
                 reqKept := 256, rwdKept := 128 }
      enterService (returnCredits s1 h) h mem

/-- HEAD_LINK_UP (R216). -/
def execHeadLinkUp (h : Nat) (cxl : Bool) (rate : Nat) (bad : List Nat) (ndr drs : Option Nat) (s : State) : Answer :=
  onElement (okHead h) (.next (headUp s h cxl rate bad ndr drs))

/-- HEAD_TRAIN_RETRY (R217): 1 s after the link was directed to Disabled it trains again. -/
def execHeadTrainRetry (h : Nat) (s : State) : Answer :=
  onElement (okHead h) <|
    match (getHead s h).retryAt with
    | some t => .next (if t ≤ s.now then modHead s h fun x => { x with retryAt := none } else s)
    | none => .next s

/-! Resets of a head (R230). -/

/-- A request of a head that was reset belongs to nobody. -/
def orphanDest (h : Nat) (d : ReqFor) : ReqFor :=
  match d with
  | .host k _ _ => if k = h then .nobody else d
  | _ => d

def orphanReq (h : Nat) (r : Req) : Req := { r with dest := orphanDest h r.dest }

/-- The head's buffers are emptied; requests already at the flumes complete there and are discarded. -/
def dropHeadWork (s : State) (h : Nat) : State :=
  let s1 := modHead s h fun x =>
    { x with responses := [], stopped := [], fullSince := none, starveSaid := false, ndr := none, drs := none, reqCredit := 0, rwdCredit := 0,
             reqKept := 0, rwdKept := 0 }
  let s2 := forAll s1 (upFrom 0 32) fun s f => modFlume s f fun x =>
    { x with waiting := x.waiting.filter fun r => r.port != h, queue := x.queue.map (orphanReq h), inflight := x.inflight.map (orphanReq h) }
  let wait (w : SyncWait) : SyncWait := { w with dest := orphanDest h w.dest }
  let copy (c : CopyWait) : CopyWait := { c with req := orphanReq h c.req }
  modLeat s2 fun l => { l with sync := l.sync.map wait, copies := l.copies.map copy }

/-- MSI-X at its reset values (R479). -/
def clearMsix (x : Head) : Head := { x with msix := false, fnMask := false, unmasked := [], pba := [], vectors := [] }

/-- The configuration space at its reset values, but for MSI-X (R225, R226, R230). -/
def clearConfig (x : Head) : Head :=
  { x with bme := false, cto := 0, mps := 0, mrrs := 2, tenBit := false, relaxed := true, idOrder := false, aerUnc := 0, aerCor := 0 }

/-- Conventional reset, hot reset and link down: the link goes, configuration space, decoders and MSI-X return to reset values, pairs
reset (R211, R230). -/
def resetHead (s : State) (h : Nat) : State :=
  let s1 := modHead (idleLanes s h) h fun x =>
    { clearConfig (clearMsix x) with
      linkUp := false
      cxl := false
      rate := 0
      width := 0
      reversed := false
      recovering := false
      l1 := false
      d3hot := false
      excluded := []
      readmit := []
      decoders := []
      doeBusy := false }
  resetHeadPairs (dropHeadWork s1 h) h

/-- HEAD_CONVENTIONAL_RESET (R230): PERST# is asserted. -/
def execHeadConventionalReset (h : Nat) (s : State) : Answer :=
  onElement (okHead h) (.next (resetHead { s with boot := { s.boot with perstN := s.boot.perstN.filter (· != h) } } h))

/-- HEAD_HOT_RESET (R230). -/
def execHeadHotReset (h : Nat) (s : State) : Answer :=
  onElement (okHead h) (.next (if (getHead s h).linkUp then resetHead s h else s))

/-- A link that goes down is counted (HPT_STATUS.link_downs). -/
def headDown (s : State) (h : Nat) : State := scEvent (resetHead s h) (oHpt h 8) fun v => bumpBits v 11 4

/-- HEAD_LINK_DOWN (R230). -/
def execHeadLinkDown (h : Nat) (s : State) : Answer :=
  onElement (okHead h) (.next (if (getHead s h).linkUp then headDown s h else s))

/-- FUNCTION_LEVEL_RESET (R230): pairs and MSI-X alone. -/
def execFunctionLevelReset (h : Nat) (s : State) : Answer :=
  onElement (okHead h) (.next (if (getHead s h).linkUp then resetHeadPairs (modHead s h clearMsix) h else s))

/-! Power states (R231). -/

/-- D3HOT_ENTRY (R231). -/
def execD3hotEntry (h : Nat) (s : State) : Answer :=
  onElement (okHead h) <|
    let x := getHead s h
    .next (if x.linkUp && !x.d3hot then resetHeadPairs (modHead s h fun x => { x with d3hot := true }) h else s)

/-- D0_ENTRY (R231, R398). -/
def execD0Entry (h : Nat) (s : State) : Answer :=
  onElement (okHead h) <|
    let x := getHead s h
    .next (if x.linkUp && x.d3hot then wakeDevice (modHead (if x.l1 then resumeLink s h else s) h fun x => { x with d3hot := false, l1 := false }) else s)

/-- The head's ingress or response buffer holds something (R231). -/
def headHolds (s : State) (h : Nat) : Bool :=
  !(getHead s h).responses.isEmpty || (List.range 32).any fun f => (getFlume s f).waiting.any fun r => r.port == h

/-- L1_ENTRY (R231): refused while the buffers hold anything. Taps are held and scans stop (R239, R240). -/
def execL1Entry (h : Nat) (s : State) : Answer :=
  onElement (okHead h) <|
    let x := getHead s h
    .next (if x.linkUp && !x.l1 && !headHolds s h then modHead (abortScans (holdLink s h) h) h fun x => { x with l1 := true } else s)

/-- L1_EXIT (R231, R239, R398). -/
def execL1Exit (h : Nat) (s : State) : Answer :=
  onElement (okHead h) (.next (if (getHead s h).l1 then wakeDevice (modHead (resumeLink s h) h fun x => { x with l1 := false }) else s))

/-! S2M credits (R223). -/

/-- S2M_STARVATION (R223): once for each time the buffer stays full. -/
def execS2mStarvation (h : Nat) (s : State) : Answer :=
  onElement (okHead h) <|
    let x := getHead s h
    match x.fullSince with
    | some t =>
      if responsesFull s h && !x.starveSaid && decide (t + 1000000 ≤ s.now) then
        .next (linkEvent (scEvent (modHead s h fun x => { x with starveSaid := true }) (oHpt h 8) fun v => putBits v 3 3 1) h 1 0)
      else .next s
    | none => .next s

/-- S2M_CREDIT_RETURN (R223): the buffer drains as far as the credits allow, and the completions it stopped follow. -/
def execS2mCreditReturn (h ndr drs : Nat) (s : State) : Answer :=
  onElement (okHead h) <|
    if !(getHead s h).linkUp then .next s
    else
      let x := getHead s h
      let s1 := modHead s h fun x => { x with ndr := x.ndr.map (· + ndr), drs := x.drs.map (· + drs), responses := [], stopped := [] }
      let s2 := drainResponses (x.responses ++ x.stopped) s1 h
      let full := responsesFull s2 h
      .next (modHead s2 h fun y =>
        { y with fullSince := if full then x.fullSince else none, starveSaid := full && x.starveSaid })

/-! Configuration (R225, R479). -/

/-- What a configuration write changes: also an entry of the MSI-X table (R224) and error status bits, which are cleared by writing 1
(R214, R226; PCIe and CXL: PRESUMED, log 83). -/
def configure (x : Head) (c : ConfigWrite) : Head :=
  match c with
  | .busMaster on => { x with bme := on }
  | .msixEnable on => { x with msix := on }
  | .functionMask on => { x with fnMask := on }
  | .vectorMask v on => { x with unmasked := if on then x.unmasked.filter (· != v) else if v < 64 then insertNat v x.unmasked else x.unmasked }
  | .completionTimeout v => { x with cto := v % 16 }
  | .maxPayload v => { x with mps := v % 8 }
  | .maxReadRequest v => { x with mrrs := v % 8 }
  | .tenBitTags on => { x with tenBit := on }
  | .relaxedOrdering on => { x with relaxed := on }
  | .idOrdering on => { x with idOrder := on }
  | .vectorMessage v addr data =>
    if v < 64 then { x with vectors := tabSet (0, 0) x.vectors v (addr % 2 ^ 64, data % 2 ^ 32) } else x
  | .clearAer unc cor => { x with aerUnc := x.aerUnc &&& ~~~unc, aerCor := x.aerCor &&& ~~~cor }
  | .clearRas unc cor => { x with rasUnc := x.rasUnc &&& ~~~unc, rasCor := x.rasCor &&& ~~~cor }

/-- PCIE_CONFIG_WRITE (R225). -/
def execPcieConfigWrite (h : Nat) (cfg : ConfigWrite) (s : State) : Answer :=
  onElement (okHead h) (.next (if (getHead s h).linkUp then modHead s h fun x => configure x cfg else s))

end Sys2Proof.Machine
end

