-- ==== Sys2Proof/Machine/Leat.lean ====
section
/-! DEFINITION. The leat's commands: ports (R253 to R260), joining (R254, R256, R264 to R266), messages (R262 to R279), switchover
(R284), copies (R281), the resilver (R286) and the loss of the partner (R277). -/

namespace Sys2Proof.Machine

/-! Ports. -/

/-- An event of a port's link source (R290). -/
def portEvent (s : State) (k sev : Nat) : State := event s (20 + k) 0 sev 0 0

/-- The traffic that travels on port `k` while both ports are up (R260). -/
def naturalVias (k : Nat) : List Nat := (upFrom 0 33).filter fun v => (if v = 32 then 0 else v % 2) == k

/-- A port is in L0 or Recovery (R277). -/
def portAlive (p : Port) : Bool := p.linkUp || p.recovering

/-- A port may train: LINK_EN is high, the port is enabled and not held in Disabled, the messages a lost port had sent are settled
(R253, R260, R277, R427). -/
def portMayTrain (s : State) (k : Nat) : Bool :=
  let p := getPort s k
  s.boot.linkEn && bitOf (regGet s (oLet k 0)).toNat 0 && !portAlive p && !s.flt.safe &&
    (match p.retryAt with
     | none => !p.disabled
     | some t => decide (t ≤ s.now)) &&
    (!portAlive (getPort s (1 - k)) || p.unacked.isEmpty)

/-- A port in L0 (R253, R259): sequence numbers and credits start anew, and a first port carries the other's traffic too (R260). -/
def portUp (s : State) (k rate width : Nat) (bad : List Nat) : State :=
  let up (_ : Port) : Port :=
    { portInit with linkUp := true, rate := rate, width := width, excluded := laneSet (bad ++ exclReq s (4 + k)), linkAt := s.now, rxAt := s.now }
  let s1 := modLeat (modPort (trainLanes s (4 + k) bad) k up) fun l => { l with txWait := l.txWait.filter fun m => m.via != 33 + k }
  if portAlive (getPort s (1 - k)) then s1 else modLeat s1 fun l => { l with away := naturalVias (1 - k) }

/-- A port that did not reach L0 at 32 GT/s (R253). -/
def portTrainFailed (s : State) (k : Nat) : State :=
  let s1 := modPort s k fun p => { p with retryAt := some (s.now + oneSecond), disabled := true }
  portEvent (scEvent s1 (oLet k 8) fun v => putBits v 0 0 1) k 1

/-- LEAT_PORT_TRAIN (R253): `rate` is the fastest rate at which the port reaches L0, 3 for 64 GT/s, 2 for 32 GT/s. -/
def execLeatPortTrain (k rate : Nat) (bad : List Nat) (s : State) : Answer :=
  onElement (okPort k) <|
    if !portMayTrain s k then .next s
    else
      let r := if rate = 3 ∧ bitOf (regGet s (oLet k 0)).toNat 1 then 2 else rate
      match (if r = 2 ∨ r = 3 then portSet (bad ++ exclReq s (4 + k)) else none) with
      | none => .next (portTrainFailed s k)
      | some (w, _) => .next (portUp s k r w bad)

/-- A flit carries something but the port's own LINK and HEARTBEAT messages. -/
def flitKept (x : Flit) : Bool := x.parts.any fun p => decide (p.msg.via < 33)

/-- A port leaves L0 and Recovery (R260, R277, R290): its messages wait for the partner's word on what was delivered; LINK and HEARTBEAT
messages die with the link. -/
def portDown (s : State) (k : Nat) : State :=
  let down (p : Port) : Port :=
    { p with linkUp := false, recovering := false, rate := 0, width := 0, heard := false, selfLoop := false, foreign := false, excluded := [],
             readmit := [], unacked := p.unacked.filter flitKept }
  let s1 := modPort (idleLanes s (4 + k)) k down
  let s2 := portEvent (scEvent s1 (oLet k 8) fun v => bumpBits v 15 8) k 1
  let s3 := modLeat s2 fun l => { l with away := naturalVias k, txWait := l.txWait.filter fun m => m.via != 33 + k }
  if portsDown s3.leat then partnerLost s3 else s3

/-- LEAT_PORT_DOWN (R260, R277). -/
def execLeatPortDown (k : Nat) (s : State) : Answer :=
  onElement (okPort k) (.next (if portAlive (getPort s k) then portDown s k else s))

/-- The flume of a mirrored region's DPA line. -/
def flumeOf (s : State) (region line : Nat) : Nat := (lineOf (regionWord s region) (line * 64)).1

/-- The flume of a DPA line, by the region table. -/
def viaOf (s : State) (line : Nat) : Nat := ((regionAt s (line * 64)).map fun i => flumeOf s i line).getD 0

/-- No message of the named traffic is outstanding: in flits, waiting, or sent and not yet answered (R260). -/
def viaIdle (s : State) (v : Nat) : Bool :=
  let l := s.leat
  !([0, 1].any fun k => portCarries (getPort s k) v) && !(l.txWait.any fun m => m.via == v) &&
    (if v = 32 then l.stateWait.isEmpty
     else !(l.sync.any fun w => flumeOf s w.region w.line == v) && !(l.pond.any fun e => e.sent && flumeOf s e.region e.line == v) &&
       !(l.copies.any fun c => c.flume == v) && !(l.pushes.any fun w => viaOf s w.line == v))

/-- LEAT_PORT_RETURN (R260): traffic with nothing outstanding moves back to its port. -/
def execLeatPortReturn (k : Nat) (s : State) : Answer :=
  onElement (okPort k) <|
    if !(getPort s k).linkUp then .next s
    else .next (leatFlush (modLeat s fun l => { l with away := l.away.filter fun v => !((naturalVias k).contains v && viaIdle s v) }))

/-! Flits (R258). -/

/-- A receiver that names flit `last` has delivered flit `seq`; at most 512 are outstanding. -/
def delivered (last seq : Nat) : Bool := decide ((last + 1024 - seq % 1024) % 1024 < 512)

/-- FLIT_RECEIVE (R258): in sequence with a good CRC it is acknowledged, else a NAK names the last good one. -/
def execFlitReceive (k seq : Nat) (crcOk : Bool) (s : State) : Answer :=
  onElement (okPort k) <|
    let p := getPort s k
    if !p.linkUp then .next s
    else
      let good := crcOk && seq % 1024 == (p.rxLast + 1) % 1024
      let s1 := modPort s k fun p => { p with rxAt := s.now, rxLast := if good then seq % 1024 else p.rxLast }
      .next (sendLink s1 k (!good) 0 0)

/-- Resending every flit not acknowledged; the fourth resend of one enters Recovery (R257, R258, R290). -/
def replay (s : State) (k : Nat) : State :=
  let p := getPort s k
  if p.unacked.isEmpty then s
  else
    let s1 := p.unacked.foldl (fun s x => emit s (.flit k (flitBytes x p.rate))) s
    let s2 := modPort s1 k fun p => { p with resends := p.resends + 1, linkAt := s.now }
    let s3 := portEvent (scEvent s2 (oLet k 8) fun v => bumpBits v 23 16) k 0
    if p.resends + 1 < 4 then s3
    else modPort (abortScans (holdLink s3 (4 + k)) (4 + k)) k fun p => { p with recovering := true, linkUp := false }

/-- LEAT_REPLAY_TIMEOUT (R258): 10 microseconds without a LINK message. -/
def execLeatReplayTimeout (k : Nat) (s : State) : Answer :=
  onElement (okPort k) <|
    let p := getPort s k
    .next (if p.linkUp && !p.unacked.isEmpty && decide (p.linkAt + 10000 ≤ s.now) then replay s k else s)

/-- IDLE (R262). -/
def execIdle (k : Nat) (s : State) : Answer := onElement (okPort k) (.next s)

/-- LINK (R258, R259, R262): flits up to the one named leave the replay buffer, credits return, and a NAK resends the rest. -/
def execLink (k lastGood : Nat) (nak : Bool) (reqSlots rspSlots : Nat) (s : State) : Answer :=
  onElement (okPort k) <|
    if !(getPort s k).linkUp then .next s
    else
      let s1 := modPort s k fun p =>
        let rest := p.unacked.filter fun x => !delivered lastGood x.seq
        { p with unacked := rest, resends := if rest.length < p.unacked.length then 0 else p.resends, linkAt := s.now,
                 reqCredit := min 4096 (p.reqCredit + reqSlots), rspCredit := min 2048 (p.rspCredit + rspSlots) }
      .next (leatFlush (if nak then replay s1 k else s1))

/-! Heartbeats (R254, R255, R262). -/

/-- The part number (R2). -/
def partNumber : Nat := 0x594E5132

/-- The device_id of the fuses, 0 where the identity is absent (R256). -/
def ownId (s : State) : Nat := if s.boot.identity then fuseDeviceId s.fuses else 0

/-- The 32 bytes of a heartbeat sent on port `k` (R262). -/
def heartbeatBytes (s : State) (k : Nat) : List Byte :=
  leBytes 8 (ownId s) ++ leBytes 4 partNumber ++ leBytes 4 (lifeOf s).startups ++ leBytes 4 s.leat.nonce.toNat ++ leBytes 4 s.leat.applied ++
    leBytes 2 (getPort s 0).rxLast ++ leBytes 2 (getPort s 1).rxLast ++ leBytes 1 k ++ leBytes 3 0

/-- HEARTBEAT_SEND (R254): every 100 microseconds on a port in L0. -/
def execHeartbeatSend (k : Nat) (s : State) : Answer :=
  onElement (okPort k) <|
    let p := getPort s k
    if p.linkUp && (p.beatAt == 0 || decide (p.beatAt + 100000 ≤ s.now)) then
      .next (leatOwn (modPort s k fun p => { p with beatAt := s.now }) k 6 2 0 0 (heartbeatBytes s k))
    else .next s

/-- The messages of the lost port `j` that the partner did not deliver go out again, in their order, before newer ones (R260). -/
def settlePort (s : State) (j last : Nat) : State :=
  let p := getPort s j
  if portAlive p || p.unacked.isEmpty then s
  else
    let rest := (endedIn (p.unacked.filter fun x => !delivered last x.seq)).filter fun m => decide (m.via < 33)
    leatFlush (modLeat (modPort s j fun p => { p with unacked := [] }) fun l => { l with txWait := rest ++ l.txWait })

/-- HEARTBEAT (R254, R255, R256, R260). -/
def execHeartbeat (k : Nat) (hb : HeartbeatMsg) (s : State) : Answer :=
  onElement (okPort k) <|
    if !(getPort s k).linkUp then .next s
    else if hb.nonce = s.leat.nonce.toNat ∧ hb.sendPort = 1 - k then
      .next (forAll s [0, 1] fun s j => modPort s j fun p => { p with selfLoop := true })
    else
      let s1 := modLeat s fun l =>
        { l with partnerId := hb.deviceId, partnerEpoch := hb.epoch, partnerPart := hb.part, partnerApplied := hb.applied % 2 ^ 24 }
      if hb.part ≠ partNumber then .next (portEvent (modPort s1 k fun p => { p with heard := false, foreign := true }) k 1)
      else .next (settlePort (modPort s1 k fun p => { p with heard := true, foreign := false }) (1 - k) (if k = 0 then hb.last1 else hb.last0))

/-! Joining (R254, R256, R264 to R266, R275, R276). -/

/-- The entry as the other device holds it: secondary, with no heads, mill_write or tag (R264, R266). -/
def partnerForm (e : Nat) : Nat := putBits (putBits (putBits (putBits e 127 96 0) 89 89 0) 83 80 0) 74 74 1

/-- Two entries agree in the fields both devices hold alike (R264). -/
def sameRegion (a b : Nat) : Bool :=
  rgBase a == rgBase b && rgSize a == rgSize b && rgFa a == rgFa b && rgFirst a == rgFirst b && rgLog a == rgLog b &&
    rgGranule a == rgGranule b && rgMode a == rgMode b

/-- A region is unmatched (R266, R290). -/
def unmatch (s : State) (i : Nat) : State :=
  mirrorNotice (scEvent (modLeat s fun l => { l with unmatched := insertNat i l.unmatched }) (oLet 0 0x114) fun v => putBits v 1 1 1)

/-- A region is dual primary (R266, R290). -/
def dualPrimary (s : State) (i : Nat) : State :=
  event (scEvent (modLeat s fun l => { l with dual := insertNat i l.dual }) (oLet 0 0x114) fun v => putBits v 2 2 1) 22 2 2 0 0

/-- An entry of the partner at a join (R266). -/
def joinEntry (s : State) (r : RegionIn) : State :=
  let e := r.entry.toNat
  let i := r.idx
  if 64 ≤ i ∨ rgValid e = false ∨ rgMode e = 0 then s
  else if !regionLive s i then
    let n := partnerForm e
    if entryReason s i n ≠ 0 ∨ entryUsed s i then unmatch s i
    else forAll (setEntry s i n) (granulesOf n) setGranule
  else
    let o := regionWord s i
    if !sameRegion o e then unmatch s i
    else if rgSecondary o = rgSecondary e then (if rgSecondary e then unmatch s i else dualPrimary s i)
    else s

/-- The mirrored entries of the table. -/
def mirroredRegions (s : State) : List Nat := (List.range 64).filter (regionMirrored s)

/-- A partner not joined before counts as wiped: every granule of the mirrored regions is set, whole (R256). -/
def wipedPartner (s : State) : State :=
  if s.leat.partnerId ≠ 0 ∧ s.leat.lastJoin = some (s.leat.partnerId, s.leat.partnerEpoch) then s
  else forAll s (mirroredRegions s) fun s i => forAll s (granulesOf (regionWord s i)) setWhole

/-- Words `a` to `a + 255` of the own half of the page, sent in one message (R275). -/
def sendPageHalf (s : State) (a pages : Nat) : State :=
  sendState s 4 a (((upFrom a 256).map fun w => leBytes 4 (tabGet (0 : Word) s.leat.page w).toNat).flatten) pages

/-- The mirrored entries a device sends at a join (R254). -/
def sendEntries (s : State) : State :=
  forAll s (mirroredRegions s) fun s i => sendState s 1 i (leBytes 16 (regionWord s i)) 0

/-- What follows them once the partner's are installed: the dirty bitmap, with the granules of the entries installed (R266, R276), and the
own half of the page (R275). -/
def sendJoin (s : State) : State :=
  let s1 := sendDirty s s.leat.dirty
  sendPageHalf (sendPageHalf s1 0 0) 256 (s1.leat.pageMade - s1.leat.pageAcked)

/-- The partner's dirty granules join those of this device; ones new here are whole (R276). -/
def joinDirty (s : State) (gs : List Nat) : State :=
  forAll s gs fun s g =>
    if s.leat.dirty.contains g || !((List.range 64).any fun i => regionMatched s i && granuleIn (regionWord s i) g) then s
    else setWhole s g

/-- A heartbeat of the partner has been received on a port in L0, and no self loop (R254, R255). -/
def mayJoin (s : State) : Bool :=
  !s.leat.joined && !s.flt.safe && [0, 1].any fun k => let p := getPort s k; p.linkUp && p.heard && !p.selfLoop

/-- A state update of `slots` slots, that came on port `k`, is acknowledged and its credits go back (R259, R262). -/
def ackUpdate (s : State) (k tag slots : Nat) (stored : Bool) : State := returnSlots (sendAck s 32 2 (tag % 2 ^ 24) stored) k slots

/-- The partner's entry is taken and acknowledged: not stored where its region is unmatched here (R262, R266). -/
def joinUpdate (k : Nat) (s : State) (r : RegionIn) : State :=
  let s1 := joinEntry s r
  ackUpdate s1 k r.tag 2 (!s1.leat.unmatched.contains r.idx)

/-- A chunk of the partner's dirty bitmap is taken and acknowledged (R262, R276). -/
def joinChunk (k : Nat) (s : State) (c : DirtyIn) : State := ackUpdate (joinDirty s c.granules) k c.tag 65 true

/-- PAIR_JOIN (R254, R256, R266, R275, R276): the updates of the partner came on port `k`. -/
def execPairJoin (k : Nat) (entries : List RegionIn) (dirty : List DirtyIn) (s : State) : Answer :=
  onElement (okPort k) <|
    if !mayJoin s then .next s
    else
      let s1 := sendEntries (wipedPartner (modLeat s fun l => { l with unmatched := [], dual := [] }))
      let s2 := sendJoin (entries.foldl (joinUpdate k) s1)
      let s3 := modLeat s2 fun l =>
        { l with joined := true, lastJoin := some (l.partnerId, l.partnerEpoch), pondSeq := (l.partnerApplied + 1) % 2 ^ 24,
                 acked := l.partnerApplied }
      .next (mirrorAll (dirty.foldl (joinChunk k) s3))

/-! Mirror applies (R263, R267, R269, R273). -/

/-- A message of the partner can arrive on port `k`: it is in L0, and its other end is a partner (R254, R255). -/
def leatOpen (s : State) (k : Nat) : Bool := (getPort s k).linkUp && !(getPort s k).foreign && !(getPort s k).selfLoop

/-- A line of the partner arrives for port 4 in class 2: outside a matched secondary region it will be refused, and a pond entry
already applied is acknowledged at once (R266, R267, R273). Its slots go back on port `k`, on which it came (R259). -/
def applyLine (s : State) (k line : Nat) (data : Line) (md : BitVec 2) (poison : Bool) (cls tag : Nat) : State :=
  if !s.leat.joined then s
  else
    let slots := if poison then 1 else 5
    let at0 := (regionAt s (line * 64)).filter fun i => regionMatched s i && rgSecondary (regionWord s i)
    let f := (at0.map fun i => flumeOf s i line).getD 0
    if cls = 1 ∧ atOrBelow s.leat.applied tag then returnSlots (sendAck s f 1 tag true) k slots
    else
      let r : Req := { reqInit with
        port := 4, cls := 2, kind := .write, data := data, poison := poison, md := some md, dest := .apply cls tag k, dpaLine := line,
        line := (at0.map fun i => (lineOf (regionWord s i) (line * 64)).2).getD 0, region := at0.getD 64,
        entry := (at0.map (regionWord s)).getD 0 }
      ingress (wakeDevice s) f r

/-- MIRROR_WRITE (R262, R269, R273). -/
def execMirrorWrite (k line : Nat) (data : Line) (md : BitVec 2) (cls tag : Nat) (s : State) : Answer :=
  onElement (okPort k) (.next (if leatOpen s k then applyLine s k line data md false (cls % 2) (tag % 2 ^ 24) else s))

/-- POISON_NOTICE (R263): the line is stored poisoned with data 0. -/
def execPoisonNotice (k line cls tag : Nat) (s : State) : Answer :=
  onElement (okPort k) (.next (if leatOpen s k then applyLine s k line 0 0 true (cls % 2) (tag % 2 ^ 24) else s))

/-! Acknowledgements (R262, R269, R272, R275, R286, R289). -/

/-- A tag lies in a run of consecutive tags. -/
def inRun (first count t : Nat) : Bool := decide ((t + 2 ^ 24 - first % 2 ^ 24) % 2 ^ 24 < count)

/-- An acknowledgement with status not stored (R289, R290). -/
def countNotStored (s : State) : State :=
  mirrorNotice (scEvent s (oLet 0 0x114) fun v => bumpBits v 23 16)

/-- Sync writes end (R269); one not stored is marked and completes (R278, R289). -/
def ackSync (s : State) (first count : Nat) (stored : Bool) : State :=
  let ws := s.leat.sync.filter fun w => inRun first count w.tag
  let s1 := modLeat s fun l => { l with sync := l.sync.filter fun w => !inRun first count w.tag }
  ws.foldl (fun s w => finishWrite (if stored then s else notStored (countNotStored s) w.line) w.dest) s1

/-- Pond entries are freed (R272). -/
def ackPond (s : State) (first count : Nat) (stored : Bool) : State :=
  let hit := fun (e : PondEntry) => e.sent && inRun first count e.seq
  let es := s.leat.pond.filter hit
  let top := (first + count - 1) % 2 ^ 24
  let s1 := modLeat s fun l =>
    { l with pond := l.pond.filter fun e => !hit e, acked := if es.isEmpty || atOrBelow l.acked top then l.acked else top }
  if stored then s1 else es.foldl (fun s e => notStored (countNotStored s) e.line) s1

/-- State updates are acknowledged (R275); a region entry the partner refused is unmatched here too (R266). -/
def ackState (s : State) (first count : Nat) (stored : Bool) : State :=
  let ws := s.leat.stateWait.filter fun w => inRun first count w.1
  let s1 := modLeat s fun l =>
    { l with stateWait := l.stateWait.filter fun w => !inRun first count w.1, pageAcked := l.pageAcked + (ws.map fun w => w.2.1).sum }
  if stored then s1
  else ws.foldl (fun s w => if w.2.2 = 0 then countNotStored s else unmatch (countNotStored s) (w.2.2 - 1)) s1

/-- Granules the resilver has passed, all of whose lines are stored on the partner, are cleared on both devices (R286). -/
def settleGranules (s : State) (did : Nat) : State :=
  match getDesc s did with
  | none => s
  | some d =>
    let gs := ((resilverGranules s (natAt d.prog 0)).filter fun g =>
      decide ((g + 1) * 1024 ≤ natAt d.prog 4) && !(failedGranules d).contains g && !pushOpen s did g).take 256
    if d.work ≠ 2 ∨ gs.isEmpty = true then s
    else
      let s1 := sendState (clearGranules s gs) 6 0 ((gs.map fun g => leBytes 4 g).flatten) 0
      modDesc s1 did fun x => { x with prog := x.prog.set 2 (natAt x.prog 2 + gs.length) }

/-- A push ends; one not stored leaves its granule set and its lines mirror-dirty (R279, R286, R289). -/
def endPush (stored : Bool) (s : State) (w : PushWait) : State :=
  let s1 := modLeat s fun l => { l with pushes := l.pushes.filter fun v => v.tag != w.tag }
  if stored then settleGranules s1 w.did
  else
    let g := granuleOf w.line
    modDesc (unpush (countNotStored s1) w) w.did fun x =>
      { x with prog := if (failedGranules x).contains g then x.prog else x.prog ++ [g] }

/-- ACK (R262): by tag class 0 sync, 1 pond, 2 state update, 3 push. Its slot's credit goes back (R259). -/
def execAck (k cls first count : Nat) (stored : Bool) (s : State) : Answer :=
  onElement (okPort k) <|
    if !leatOpen s k then .next s
    else
      let s0 := sendLink s k false 0 1
      let n := count % 65536
      let s1 :=
        if cls = 0 then ackSync s0 first n stored
        else if cls = 1 then ackPond s0 first n stored
        else if cls = 2 then ackState s0 first n stored
        else (s0.leat.pushes.filter fun w => inRun first n w.tag).foldl (endPush stored) s0
      .next (mirrorAll s1)

/-! State updates (R262, R264 to R266, R275, R276, R284, R286). -/

/-- Kind 1: what the mirror checks find, and the state with an entry installed (R264). -/
def installEntry (s : State) (i e : Nat) : Bool × State :=
  if regionLive s i then (sameRegion (regionWord s i) e && rgSecondary (regionWord s i) != rgSecondary e, s)
  else
    let n := partnerForm e
    if rgSecondary e || entryReason s i n != 0 || entryUsed s i then (false, s) else (true, setEntry s i n)

/-- REGION_ENTRY_UPDATE (R264). -/
def execRegionEntryUpdate (k idx : Nat) (entry : BitVec 128) (tag : Nat) (s : State) : Answer :=
  onElement (okPort k) <|
    if !leatOpen s k then .next s
    else
      let r := if idx < 64 then installEntry s idx entry.toNat else (false, s)
      .next (ackUpdate r.2 k tag 2 r.1)

/-- REGION_CLEAR_UPDATE (R265): an entry in use is not cleared. -/
def execRegionClearUpdate (k idx tag : Nat) (s : State) : Answer :=
  onElement (okPort k) <|
    if !leatOpen s k then .next s
    else if idx < 64 ∧ entryUsed s idx = false then
      .next (ackUpdate (setEntry s idx (putBits (regionWord s idx) 88 88 0)) k tag 2 true)
    else .next (ackUpdate s k tag 2 false)

/-- ROLE_CHANGE_UPDATE (R262): the regions named take the opposite role. -/
def execRoleChangeUpdate (k mask tag : Nat) (s : State) : Answer :=
  onElement (okPort k) <|
    if !leatOpen s k then .next s
    else
      let turn (s : State) (i : Nat) : State :=
        if bitOf mask i && regionMirrored s i then setRole s (2 ^ i) (!rgSecondary (regionWord s i)) else s
      .next (ackUpdate (forAll s (upFrom 0 64) turn) k tag 2 true)

/-- SHARED_PAGE_UPDATE (R275): words of the partner's half; acknowledged after the pond entries that came before. -/
def execSharedPageUpdate (k : Nat) (words : List (Nat × Word)) (tag : Nat) (s : State) : Answer :=
  onElement (okPort k) <|
    if !leatOpen s k then .next s
    else
      let put (t : Tab Word) (e : Nat × Word) : Tab Word := if e.1 < 512 then tabSet 0 t (512 + e.1) e.2 else t
      let s1 := modLeat s fun l => { l with page := words.foldl put l.page }
      let slots := 1 + (words.length + 3) / 4
      if applyWaits s then .next (returnSlots (modLeat s1 fun l => { l with ackHold := l.ackHold ++ [tag % 2 ^ 24] }) k slots)
      else .next (ackUpdate s1 k tag slots true)

/-- DIRTY_BITMAP_CHUNK (R276). -/
def execDirtyBitmapChunk (k : Nat) (granules : List Nat) (tag : Nat) (s : State) : Answer :=
  onElement (okPort k) (.next (if leatOpen s k then ackUpdate (joinDirty s granules) k tag 65 true else s))

/-- GRANULES_CLEAN (R286). -/
def execGranulesClean (k : Nat) (granules : List Nat) (tag : Nat) (s : State) : Answer :=
  onElement (okPort k) <|
    .next (if leatOpen s k then ackUpdate (clearGranules s granules) k tag (1 + (granules.length + 3) / 4) true else s)

/-! Switchover (R284). -/

/-- SWITCHOVER_REQUEST (R284 step 2): the named regions stop committing writes here. -/
def execSwitchoverRequest (k mask tag : Nat) (s : State) : Answer :=
  onElement (okPort k) <|
    if !leatOpen s k then .next s
    else
      let rs := namedRegions mask
      let ok := s.leat.joined && rs.all fun i => regionMirrored s i && !rgSecondary (regionWord s i)
      let s1 := if ok then modLeat s fun l => { l with quiesce := rs.foldl (fun l i => insertNat i l) l.quiesce } else s
      .next (ackUpdate s1 k tag 2 ok)

/-- A write that waited for a switchover is refused as on a secondary region (R267, R284). -/
def refuseWaiting (s : State) (r : Req) : State :=
  match r.dest with
  | .host h _ _ => finishWrite (event s (16 + h) 3 1 0 0) r.dest
  | _ => s

/-- Refusing the writes that wait in one flume for the named regions: accepted ones not yet mirrored, and those of the ingress buffers,
whose credits go back (R221). -/
def refuseIn (rs : List Nat) (s : State) (f : Nat) : State :=
  let x := getFlume s f
  let inQueue := fun (r : Req) => r.mirror && rs.contains r.region
  let inIngress := fun (r : Req) => decide (r.port < 4) && isWrite r && rs.contains r.region
  let ws := x.waiting.filter inIngress
  let hit := (x.inflight ++ x.queue).filter inQueue ++ ws
  if hit.isEmpty then s
  else
    let s1 := modFlume (ws.foldl leaveIngress s) f fun x =>
      { x with queue := x.queue.filter fun r => !inQueue r, inflight := x.inflight.filter fun r => !inQueue r,
               waiting := x.waiting.filter fun r => !inIngress r }
    let s2 := modLeat s1 fun l => { l with copies := l.copies.filter fun c => c.refetch || c.flume != f || !inQueue c.req }
    hit.foldl refuseWaiting (noteIdle (updateWeir s2 f) f)

/-- The mask of a list of regions. -/
def maskOfRegions (rs : List Nat) : Nat := (rs.map fun i => 2 ^ i).sum

/-- SWITCHOVER_QUIESCED (R284 steps 3 and 4). -/
def execSwitchoverQuiesced (s : State) : Answer :=
  let rs := s.leat.quiesce
  let open0 := (s.leat.sync.any fun w => rs.contains w.region) || s.leat.pond.any fun e => rs.contains e.region
  if rs.isEmpty || open0 then .next s
  else
    let m := maskOfRegions rs
    let s1 := setRole (modLeat s fun l => { l with quiesce := [] }) m true
    .next (sendState (forAll s1 (upFrom 0 32) (refuseIn rs)) 8 0 (leBytes 8 m) 0)

/-- A switchover descriptor ends with success (R284 step 5). -/
def endSwitchover (s : State) (d : Nat) : State :=
  match getDesc s d with
  | some x => if x.work = 5 then finishDesc s d ⟨0, 0, natAt x.prog 0, s.leat.applied⟩ else s
  | none => s

/-- SWITCHOVER_DONE (R284 step 5). -/
def execSwitchoverDone (k mask tag : Nat) (s : State) : Answer :=
  onElement (okPort k) <|
    if !leatOpen s k then .next s
    else
      let s1 := setRole s mask false
      .next (ackUpdate (forAll s1 (s1.descs.map Prod.fst) endSwitchover) k tag 2 true)

/-! Copies (R280, R281). -/

/-- A COPY_DATA message (R262). -/
def copyMsg (via : Nat) (push : Bool) (line tag : Nat) (ls : List CopyLine) : LeatMsg :=
  let k := ls.zipIdx
  ⟨via, 8, 4 * ls.length, push, (k.map fun e => b2n e.1.poison * 2 ^ e.2).sum, (k.map fun e => e.1.md.toNat * 4 ^ e.2).sum, line, tag,
    (ls.map fun c => lineBytes c.data.toNat).flatten⟩

/-- One line read for the partner: none where this device holds no usable copy of it. -/
def copyOut (env : OpEnv) (a : Option (List CopyLine) × State) (line : Nat) : Option (List CopyLine) × State :=
  let s := a.2
  match regionAt s (line * 64) with
  | none => (none, s)
  | some i =>
    if !regionMatched s i || (rgSecondary (regionWord s i) && isDirty s line) then (none, s)
    else
      let l := lineOf (regionWord s i) (line * 64)
      match (if (placeOf s l.1 l.2).isNone then pondEntry s line else none) with
      | some p => (a.1.map fun ls => ls ++ [⟨p.data, p.poison, p.md⟩], s)
      | none =>
        let g := readLine s l.1 l.2 line i env true
        if g.1.offline || (g.1.bad && !g.1.fetched) then (none, g.2)
        else (a.1.map fun ls => ls ++ [⟨BitVec.ofNat 512 g.1.data, g.1.poison, BitVec.ofNat 2 (mdCxl g.1.md)⟩], g.2)

/-- Answering a copy request: with the lines, or without data where a line has no usable copy here (R262, R281). -/
def answerCopy (k line n tag : Nat) (env : OpEnv) (s : State) : State :=
  let r := (upFrom line n).foldl (copyOut env) (some [], returnSlots (lookups s env) k 1)
  leatSend r.2 (copyMsg (viaOf s line) false line tag (r.1.getD []))

/-- COPY_REQUEST (R262, R281): it wakes the device, and waits while its flumes take no requests (R59, R398; log 92). -/
def execCopyRequest (k line lines : Nat) (_refetch : Bool) (tag : Nat) (env : OpEnv) (s : State) : Answer :=
  onElement (okPort k) <|
    if !leatOpen s k || !s.leat.joined then .next s
    else
      let n := max 1 (min 16 lines)
      whenOpen (wakeDevice s) [(0, line * 64, n * 64)] (answerCopy k line n tag env)

/-- One pushed line waits for port 4 in class 4 (R286). -/
def pushedLine (i tag k : Nat) (s : State) (e : CopyLine × Nat) : State :=
  let l := lineOf (regionWord s i) (e.2 * 64)
  ingress s l.1 { reqInit with
    port := 4, cls := 4, kind := .write, data := e.1.data, poison := e.1.poison, md := some e.1.md, dest := .apply 3 tag k, dpaLine := e.2,
    line := l.2, region := i, entry := regionWord s i }

/-- A push arrives: its lines wait for their flumes, or it is refused outside a matched secondary region (R286). -/
def takePush (s : State) (k line tag : Nat) (ls : List CopyLine) : State :=
  match (regionAt s (line * 64)).filter fun i => regionMatched s i && rgSecondary (regionWord s i) with
  | none => returnSlots (sendAck s (viaOf s line) 3 tag false) k (1 + 4 * ls.length)
  | some i =>
    let s1 := modLeat s fun l => { l with pushIn := l.pushIn ++ [(tag, ls.length, true, k)], resync := insertNat i l.resync }
    (ls.zip (upFrom line ls.length)).foldl (pushedLine i tag k) (wakeDevice s1)

/-- COPY_DATA (R262, R281, R286). -/
def execCopyData (k line : Nat) (push : Bool) (data : List CopyLine) (tag : Nat) (s : State) : Answer :=
  onElement (okPort k) <|
    if !leatOpen s k || !s.leat.joined then .next s
    else if push then .next (if data.isEmpty then s else takePush s k line (tag % 2 ^ 24) data)
    else
      match s.leat.copies.find? fun c => c.tag == tag with
      | none => .next s
      | some c =>
        let s1 := sendLink (dropCopy s c) k false 0 (1 + 4 * data.length)
        .next (match data with
          | [] => copyFailed s1 c
          | d :: _ => copyArrived s1 c d)

/-! The pond (R272) and the shared state page (R275). -/

/-- Page writes whose earlier pond entries have all been sent go out, in order. -/
def releasePages : List (Nat × Nat × Word) → State → State
  | [], s => s
  | (n, w, v) :: t, s =>
    if s.leat.pond.any fun e => !e.sent && decide (e.page ≤ n) then s
    else releasePages t (sendState (modLeat s fun l => { l with pageWait := t }) 4 w (leBytes 4 v.toNat) 1)

/-- The message of a pond entry may leave now. -/
def pondReady (s : State) (e : PondEntry) : Bool :=
  let m : LeatMsg := ⟨flumeOf s e.region e.line, if e.poison then 3 else 2, if e.poison then 0 else 4, false, 0, 0, e.line, e.seq, []⟩
  leatReady s (leatPortOf s.leat m) m && !(s.leat.txWait.any fun w => leatPool w == 1)

/-- POND_SEND (R272, R275). -/
def execPondSend (s : State) : Answer :=
  match s.leat.pond.find? fun e => !e.sent with
  | none => .next s
  | some e =>
    if s.leat.joined && pondReady s e then
      let mark (p : PondEntry) : PondEntry := { p with sent := true, since := s.now }
      let s1 := modLeat s fun l => { l with pond := mapWhere (fun p => p.seq == e.seq) mark l.pond }
      let s2 := sendMirror s1 (flumeOf s e.region e.line) 1 e.seq e.line e.data.toNat e.md.toNat e.poison
      .next (releasePages s2.leat.pageWait s2)
    else .next s

/-- A write of a word of the page is taken: the partner's half is read-only (R275). -/
def takePage (s : State) (path w : Nat) (v : Word) : State :=
  if 512 ≤ w then accessFault s path 6 (oLet 0 (0x8000 + 4 * w))
  else
    let n := s.leat.pageMade
    let s1 := modLeat s fun l => { l with page := tabSet 0 l.page w v, pageMade := n + 1 }
    if s.leat.joined then releasePages (s.leat.pageWait ++ [(n, w, v)]) (modLeat s1 fun l => { l with pageWait := l.pageWait ++ [(n, w, v)] })
    else s1

/-- SHARED_PAGE_WRITE (R275): `off` is the byte offset in the page. -/
def execSharedPageWrite (path off : Nat) (v : Word) (s : State) : Answer :=
  onElement (okPath path && decide (off < 0x1000)) <|
    if off % 4 ≠ 0 then .next (if pathOpen s path then accessFault s path 2 (oLet 0 (0x8000 + off)) else s)
    else .next (writeNow s path (oLet 0 (0x8000 + off)) 100 v.toNat fun s => takePage s path (off / 4) v)

/-! The resilver (R286). -/

/-- Whether a line of a set granule is to be sent: every line of a whole granule, else those whose mirror-dirty bit is 1. -/
def lineDue (s : State) (f l line : Nat) : Bool :=
  s.leat.whole.contains (granuleOf line) || (match placeOf s f l with
    | some p => mdDirty (readPlace s p []).md
    | none => false)

/-- What the resilver sends of a line that is stored: read twice where it must be (R96), poisoned where it stays uncorrectable; what a read
must rewrite it rewrites at once, and its mirror-dirty bit goes to 0 (R94, R96, R279). -/
def resilverStored (s : State) (i f l line : Nat) (p : Place) (env : OpEnv) : CopyLine × State :=
  let q := readTwice s p (flipsAt env.flips (lineKey p))
  let d := q.1
  let s1 := countRead s f l d q.2 line i
  let s2 :=
    if d.bad then storeBack (bumpTotal s1 f 4) f p d.data (rewriteMd s1 i d true)
    else if poisonSplit d.md then storeBack (bumpTotal s1 f 0) f p d.data (rewriteMd s1 i d (mdPoison d.md))
    else s1
  (⟨BitVec.ofNat 512 d.data, d.bad || mdPoison d.md, BitVec.ofNat 2 (mdCxl d.md)⟩, markClean s2 f l)

/-- Reading one line of the resilver: the requests queued for it first; a line of an offline bay is sent from a pending pond entry, or
poisoned. -/
def resilverLine (i : Nat) (env : OpEnv) (a : List (Nat × CopyLine) × State) (line : Nat) : List (Nat × CopyLine) × State :=
  let l := lineOf (regionWord a.2 i) (line * 64)
  let s := flushLine a.2 l.1 l.2 env
  if !lineDue s l.1 l.2 line then (a.1, s)
  else match placeOf s l.1 l.2 with
    | none =>
      match pondEntry s line with
      | some p => (a.1 ++ [(line, ⟨p.data, p.poison, p.md⟩)], s)
      | none => (a.1 ++ [(line, ⟨BitVec.ofNat 512 (lostData s), true, 0⟩)], bumpFree s)
    | some p =>
      let r := resilverStored s i l.1 l.2 line p env
      (a.1 ++ [(line, r.1)], r.2)

/-- Consecutive lines together. -/
def lineRuns : List (Nat × CopyLine) → List (List (Nat × CopyLine))
  | [] => []
  | a :: t =>
    match lineRuns t with
    | (b :: r) :: rs => if b.1 = a.1 + 1 then (a :: b :: r) :: rs else [a] :: (b :: r) :: rs
    | rs => [a] :: rs

/-- Pushing a run of lines (R286). -/
def pushRun (i did : Nat) (s : State) (run : List (Nat × CopyLine)) : State :=
  let line := (run.head?.map Prod.fst).getD 0
  let t := s.leat.pushTag
  let s1 := leatSend s (copyMsg (flumeOf s i line) true line t (run.map Prod.snd))
  modLeat s1 fun l => { l with pushTag := (t + 1) % 2 ^ 24, pushes := l.pushes ++ [⟨t, run.length, line, did⟩] }

/-- The next 16 lines of a resilver, from line `a` of region `i` on. -/
def resilverBatch (did i a : Nat) (d : Desc) (env : OpEnv) (s : State) : State :=
  let r := (upFrom a 16).foldl (resilverLine i env) ([], lookups s env)
  let s1 := (lineRuns r.1).foldl (pushRun i did) r.2
  let next := fun (x : Desc) => if natAt x.prog 4 < natAt d.prog 4 then natAt x.prog 4 else a + 16
  let step (x : Desc) : Desc := { x with prog := (x.prog.set 1 (natAt x.prog 1 + 64 * r.1.length)).set 4 (next x) }
  settleGranules (modDesc s1 did step) did

/-- RESILVER_SEND (R286): the next 16 lines of the lowest set granule not yet passed, once their flumes take requests (log 92). -/
def execResilverSend (did : Nat) (env : OpEnv) (s : State) : Answer :=
  match adminDesc s did 0x46 with
  | none => .next s
  | some (d, _) =>
    let gs := (resilverGranules s (natAt d.prog 0)).filter fun g => !(failedGranules d).contains g
    match gs.find? fun g => natAt d.prog 4 < (g + 1) * 1024 with
    | none => .next s
    | some g =>
      let a := max (natAt d.prog 4) (g * 1024)
      if d.work ≠ 2 then .next s
      else whenOpen s [(0, a * 64, 1024)] (resilverBatch did ((regionAt s (a * 64)).getD 0) a d env)

/-! The partner is lost (R277). -/

/-- FLIT_TIMEOUT (R277). -/
def execFlitTimeout (s : State) : Answer :=
  .next (if s.leat.joined && [0, 1].all fun k => decide ((getPort s k).rxAt + 3000000 ≤ s.now) then partnerLost s else s)

/-- LET_PAIR_CTL.ack_limit in ns. -/
def ackLimit (s : State) : Nat := 10000 * max 10 (regField s (oLet 0 0x100) 15 0)

/-- ACK_LIMIT_EXPIRY (R277): both ports are directed to Disabled and train again 1 ms later. -/
def execAckLimitExpiry (s : State) : Answer :=
  let late := fun t => decide (t + ackLimit s < s.now)
  if s.leat.joined && ((s.leat.sync.any fun w => late w.since) || s.leat.pond.any fun e => e.sent && late e.since) then
    let s1 := forAll s [0, 1] fun s k => if portAlive (getPort s k) then portDown s k else s
    .next (forAll (partnerLost s1) [0, 1] fun s k => modPort s k fun p => { p with disabled := true, retryAt := some (s.now + 1000000) })
  else .next s

end Sys2Proof.Machine
end

