-- ==== Sys2Proof/Machine/Lanes.lean ====
section
/-! DEFINITION. Serial lanes (10): loss of lock, Recovery and the choice of width (R233, R247, R248), re-admission (R234, R249,
R250), the eye scan (R240, R241), the PRBS generator and checker (R242 to R246), and the loss of the clocks (R237, R373). -/

namespace Sys2Proof.Machine

/-! Links as lanes see them. -/

/-- The link of a lane runs: L0, L1 or Recovery. -/
def linkRuns (s : State) (n : Nat) : Bool :=
  if n < 4 then (getHead s n).linkUp || (getHead s n).recovering else portAlive (getPort s (n - 4))

/-- A lane is free (10, before R242). -/
def laneFree (s : State) (l : Nat) : Bool := !linkRuns s (l / 16)

/-- The excluded lanes of a link, and those re-admitted for its next Recovery. -/
def linkExcluded (s : State) (n : Nat) : List Nat := if n < 4 then (getHead s n).excluded else (getPort s (n - 4)).excluded
def linkReadmit (s : State) (n : Nat) : List Nat := if n < 4 then (getHead s n).readmit else (getPort s (n - 4)).readmit

/-- A notice or severe event of a link's source (R233, R248, R290). -/
def laneEvent (s : State) (n sev : Nat) : State := if n < 4 then linkEvent s n sev 0 else portEvent s (n - 4) sev

/-- Every Recovery clears dfe_freeze on the lanes of its link (R239). The taps stand as they were held. -/
def clearFreeze (s : State) (n : Nat) : State :=
  forAll s (upFrom (16 * n) 16) fun s l => if bitOf (regGet s (oLan l 0)).toNat 1 then regPut s (oLan l 0) 1 1 0 else s

/-- The lanes a Recovery of link `n` counts as bad: those that fail in it, those taken out by excl_req, and the excluded ones that
have not come back, by their test or because excl_req was cleared (R247, R250). -/
def badLanes (s : State) (n : Nat) (failing : List Nat) : List Nat :=
  laneSet (failing ++ exclReq s n ++ (linkExcluded s n).filter fun i =>
    !(getLane s (16 * n + i)).cdr && !(getLane s (16 * n + i)).rejoin)

/-- No set of lanes is clean: the link goes down, and then a severe fault counts against it (R233, R248). -/
def linkFails (s : State) (n : Nat) : State := laneEvent (if n < 4 then headDown s n else portDown s (n - 4)) n 2

/-- A changed width is counted (R233, R248). -/
def widthChanged (s : State) (n : Nat) : State :=
  laneEvent (if n < 4 then scEvent s (oHpt n 8) fun v => bumpBits v 23 16 else s) n 1

/-- The lanes that took part are locked and adapt again, from 0 where the Recovery equalised (R239). -/
def lanesForm (s : State) (n : Nat) (bad : List Nat) (eq : Bool) : State :=
  modLanes s n fun i x =>
    { x with adaptAt := s.now, taps := if eq then [] else x.taps, cdr := x.cdr || !bad.contains i, rejoin := x.rejoin && bad.contains i }

/-- The link is in L0 with the chosen width. -/
def linkForms (s0 : State) (n w : Nat) (rev : Bool) (bad : List Nat) (eq : Bool) : State :=
  let s := lanesForm s0 n bad eq
  if n < 4 then
    modHead s n fun x => { x with linkUp := true, recovering := false, l1 := false, width := w, reversed := rev, excluded := bad, readmit := [] }
  else
    modPort s (n - 4) fun p =>
      { p with linkUp := true, recovering := false, width := w, excluded := bad, readmit := [], resends := 0, linkAt := s.now }

/-- Lanes that fail in a Recovery: their test comes 60 s later, and a re-admitted one is barred at a leat port (R250). -/
def failLanes (s : State) (n : Nat) (failing : List Nat) : State :=
  let back := linkReadmit s n
  forAll s (laneSet failing) fun s i =>
    modLane s (16 * n + i) fun x => { x with cdr := false, retest := false, retestAt := s.now, barred := x.barred || back.contains i }

/-- A Recovery of a running link, in which the lanes of `failing` do not train (R233, R234, R239, R240, R247, R248, R250); `eq` tells
that it went through an equalisation phase, or that the leat port trained anew. -/
def recover (s : State) (n : Nat) (failing : List Nat) (eq : Bool) : State :=
  let s1 := failLanes (clearFreeze (holdLink (abortScans s n) n) n) n failing
  let bad := badLanes s1 n failing
  match (if n < 4 then headSet bad else portSet bad) with
  | none => linkFails s1 n
  | some (w, rev) =>
    let s2 := if w = linkWidth s n then s1 else widthChanged s1 n
    linkForms s2 n w rev bad eq

/-- The lanes that a loss takes: one, or the four of its lane PLL (R237). -/
def lostLanes (l : Nat) (pll : Bool) : List Nat := if pll then upFrom (l / 4 * 4) 4 else [l]

/-- LANE_LOSS_OF_LOCK (R247): the lane's link enters Recovery and chooses a width. -/
def execLaneLossOfLock (l : Nat) (pll eq : Bool) (s : State) : Answer :=
  onElement (okLane l) <|
    let n := l / 16
    let ls := lostLanes l pll
    let s1 := if pll then { s with pwr := { s.pwr with laneLock := s.pwr.laneLock.filter (· != l / 4) } } else s
    let s2 := ls.foldl (fun s k => modLane (abortScan (holdTaps s k) k) k fun x => { x with cdr := false }) s1
    if !linkRuns s n then .next s2
    else
      let last := ls.foldl max 0 % 16
      let s3 := if n < 4 then scEvent s2 (oHpt n 8) fun v => putBits v 15 12 last else s2
      .next (recover s3 n (ls.map (· % 16)) eq)

/-! Re-admission (R234, R249, R250). -/

/-- An excluded lane whose test is due: its link runs, excl_req is clear, and a head tests at all (R234, R235, R247, R249). -/
def retestDue (s : State) (l : Nat) : Bool :=
  let n := l / 16
  let x := getLane s l
  linkRuns s n && (linkExcluded s n).contains (l % 16) && !(exclReq s n).contains (l % 16) && !x.cdr && !x.retest &&
    decide (x.retestAt + 60 * oneSecond ≤ s.now) && (decide (4 ≤ n) || bitOf (regGet s (oHpt n 0)).toNat 1)

/-- LANE_RETEST (R249). -/
def execLaneRetest (l : Nat) (s : State) : Answer :=
  onElement (okLane l) (.next (if retestDue s l then modLane s l fun x => { x with retest := true, retestAt := s.now } else s))

/-- A lane is re-admitted for its link's next Recovery (R250). -/
def readmitLane (s : State) (l : Nat) : State :=
  let n := l / 16
  let s1 := modLane (lockPlls s [l / 4]) l fun x => { x with cdr := true }
  if n < 4 then modHead s1 n fun x => { x with readmit := insertNat (l % 16) x.readmit }
  else modPort s1 (n - 4) fun p => { p with readmit := insertNat (l % 16) p.readmit }

/-- LANE_RETEST_DONE (R249, R250): in 1 ms of PRBS31 the checker counted `errors` real errors; `lock` tells that the lane PLL and the
clock recovery stayed locked. -/
def execLaneRetestDone (l errors : Nat) (lock : Bool) (s : State) : Answer :=
  onElement (okLane l) <|
    let x := getLane s l
    if x.retest && decide (x.retestAt + 1000000 ≤ s.now) then
      let s1 := modLane s l fun x => { x with retest := false }
      .next (if lock && errors == 0 then readmitLane s1 l else s1)
    else .next s

/-- The device directs a Recovery after a pass: a head with auto_widen set, a leat port for a lane that is not barred (R234, R250). -/
def mayWiden (s : State) (n : Nat) : Bool :=
  linkRuns s n && (if n < 4 then bitOf (regGet s (oHpt n 0)).toNat 0 && !(linkReadmit s n).isEmpty
    else (linkReadmit s n).any fun i => !(getLane s (16 * n + i)).barred)

/-- AUTO_WIDEN_RECOVERY (R234, R250). -/
def execAutoWidenRecovery (ln : Nat) (failing : List Nat) (eq : Bool) (s : State) : Answer :=
  onElement (decide (ln < 6)) (.next (if mayWiden s ln then recover s ln failing eq else s))

/-- LINK_RECOVERY (R234, R239, R250, R258): directed by the other end, or the Recovery of a leat port that resent a flit four times. -/
def execLinkRecovery (ln : Nat) (failing : List Nat) (eq : Bool) (s : State) : Answer :=
  onElement (decide (ln < 6)) (.next (if linkRuns s ln then recover s ln failing eq else s))

/-! Eye scan (R240, R241). -/

/-- Points of a range taken in steps: none where it is empty. -/
def offsetCount (lo hi : Int) (step : Nat) : Nat := if hi < lo then 0 else ((hi - lo).toNat / step) + 1

/-- Lowest offsets, steps and counts of the scan the lane's registers describe. -/
def scanVoltLo (s : State) (l : Nat) : Int := signed 7 (regField s (oLan l 0x20) 22 16)
def scanVoltHi (s : State) (l : Nat) : Int := max (-63) (signed 7 (regField s (oLan l 0x20) 30 24))
def scanPhaseLo (s : State) (l : Nat) : Int := signed 6 (regField s (oLan l 0x20) 5 0)
def scanPhaseHi (s : State) (l : Nat) : Int := signed 6 (regField s (oLan l 0x20) 13 8)
def scanVoltStep (s : State) (l : Nat) : Nat := max 1 (regField s (oLan l 0x24) 11 8)
def scanPhaseStep (s : State) (l : Nat) : Nat := max 1 (regField s (oLan l 0x24) 3 0)
def scanVolts (s : State) (l : Nat) : Nat := offsetCount (scanVoltLo s l) (scanVoltHi s l) (scanVoltStep s l)
def scanPhases (s : State) (l : Nat) : Nat := offsetCount (scanPhaseLo s l) (scanPhaseHi s l) (scanPhaseStep s l)
def scanTotal (s : State) (l : Nat) : Nat := scanVolts s l * scanPhases s l

/-- The rate a lane runs at: its link's, or that of its generator while it is free (R238). -/
def laneRate (s : State) (l : Nat) : Nat :=
  if laneFree s l then (let r := regField s (oLan l 0x10) 9 8; if r = 0 then 3 else r) else linkRate s (l / 16)

/-- State and points_done of LAN_SCAN_STATUS. -/
def scanStatus (s : State) (l st n : Nat) : State := scEvent s (oLan l 0x28) fun v => putBits (putBits v 14 12 st) 9 0 n

/-- Starting a scan, or refusing it with state 4 (R240). -/
def startScan (s : State) (l : Nat) : State :=
  if 512 < scanTotal s l ∨ (laneRate s l ≠ 3 ∧ regField s (oLan l 0x24) 25 24 ≠ 1) then
    scEvent s (oLan l 0x28) fun v => putBits v 14 12 4
  else if scanTotal s l = 0 then scanStatus (modLane s l fun x => { x with points := [] }) l 2 0
  else scanStatus (modLane s l fun x => { x with points := [], scanning := true, scanAt := s.now }) l 1 0

/-- A write of LAN_SCAN_CMD is taken; a start while a scan runs is ignored (R240). -/
def takeScanCmd (s : State) (l v : Nat) : State :=
  let s1 := regSet s (oLan l 0x24) (BitVec.ofNat 32 (v &&& 0x031F0F0F))
  if bitOf v 31 && !(getLane s l).scanning then startScan s1 l else s1

/-- EYE_SCAN_START (R240). -/
def execEyeScanStart (path l : Nat) (v : Word) (s : State) : Answer :=
  onElement (okPath path && okLane l) (.next (writeNow s path (oLan l 0x24) (102 + l) v.toNat fun s => takeScanCmd s l v.toNat))

/-- Symbols compared at a point, and what a point takes in ns: 2^dwell UI and 200 ns of settling (R238, R241). -/
def scanSymbols (s : State) (l : Nat) : Nat := 2 ^ max 16 (min 31 (regField s (oLan l 0x24) 20 16))
def scanTime (s : State) (l : Nat) : Nat := scanSymbols s l / (if laneRate s l = 1 then 16 else 32) + 200

/-- Result word `k` with an error count (R241): no more disagreements than symbols. -/
def scanWord (s : State) (l k errors : Nat) : Word :=
  let n := max 1 (scanVolts s l)
  let phase := scanPhaseLo s l + (k / n * scanPhaseStep s l : Nat)
  let volt := scanVoltLo s l + (k % n * scanVoltStep s l : Nat)
  BitVec.ofInt 6 phase ++ BitVec.ofInt 7 volt ++ BitVec.ofNat 19 (min 0x7FFFF (min (scanSymbols s l) errors))

/-- EYE_SCAN_POINT (R241): the next point ends with its errors; after the last one the scan is done. -/
def execEyeScanPoint (l errors : Nat) (s : State) : Answer :=
  onElement (okLane l) <|
    let x := getLane s l
    if !x.scanning || decide (s.now < x.scanAt + scanTime s l) then .next s
    else
      let k := x.points.length
      let last := decide (scanTotal s l ≤ k + 1)
      let s1 := modLane s l fun x => { x with points := x.points ++ [scanWord s l k errors], scanning := !last, scanAt := s.now }
      .next (scanStatus s1 l (if last then 2 else 1) (min 512 (k + 1)))

/-! PRBS (R242 to R246). -/

/-- The length n of PRBSn by LAN_PRBS_CTL.pattern, 0 for a reserved value (R242). -/
def prbsLen (p : Nat) : Nat := natAt [7, 9, 11, 13, 15, 23, 31] p

/-- The terms of its polynomial but for the constant, in the O.150 form (R242; log 97). -/
def prbsTaps (p : Nat) : List Nat := [[7, 6], [9, 5], [11, 9], [13, 12, 2, 1], [15, 14], [23, 18], [31, 28]].getD p []

/-- The bit that follows a history: the sum of the bits that the terms name. -/
def prbsBit (p hist : Nat) : Bool := (prbsTaps p).foldl (fun b k => b ^^ bitOf hist (k - 1)) false

/-- A pattern after one more bit; n ones announce the marker word (R244). -/
def Prbs.after (p every : Nat) (x : Prbs) (b : Bool) : Prbs :=
  let h := (2 * x.hist + b2n b) % 2 ^ prbsLen p
  if h + 1 = 2 ^ prbsLen p then ⟨h, 32, (x.turn + 1) % (every + 1)⟩ else ⟨h, x.mark - 1, x.turn⟩

/-- The bit to come is one of the marker word that the mask names, in a period that is injected; bit 0 comes first (R244; log 97). -/
def Prbs.marked (x : Prbs) (mask : Nat) : Bool := decide (0 < x.mark) && x.turn == 0 && bitOf mask (32 - x.mark)

/-- Fields of a lane's PRBS registers (R251). -/
def prbsPattern (s : State) (l : Nat) : Nat := regField s (oLan l 0x10) 5 2
def prbsEvery (s : State) (l : Nat) : Nat := regField s (oLan l 0x18) 15 0
def prbsMask (s : State) (l : Nat) : Nat := (regGet s (oLan l 0x14)).toNat
def prbsInjects (s : State) (l : Nat) : Bool := bitOf (regGet s (oLan l 0x18)).toNat 31
def prbsExpects (s : State) (l : Nat) : Bool := bitOf (regGet s (oLan l 0x18)).toNat 30

/-- The checker hears the lane's own generator (R242). -/
def nearEnd (s : State) (l : Nat) : Bool := regField s (oLan l 0x10) 7 6 == 1 && bitOf (regGet s (oLan l 0x10)).toNat 0

/-- The checker of a free lane is on, for a pattern that exists. -/
def checking (s : State) (l : Nat) : Bool :=
  laneFree s l && bitOf (regGet s (oLan l 0x10)).toNat 1 && prbsLen (prbsPattern s l) != 0

/-- The bit the generator sends, and its step (R244). -/
def genBit (s : State) (l : Nat) : Bool :=
  let g := (getLane s l).gen
  prbsBit (prbsPattern s l) g.hist ^^ (prbsInjects s l && g.marked (prbsMask s l))
def genStep (s : State) (l : Nat) : State :=
  modLane s l fun x => { x with gen := x.gen.after (prbsPattern s l) (prbsEvery s l) (prbsBit (prbsPattern s l) x.gen.hist) }

/-- One bit of the checker's seed; the last one completes it. In near-end loopback its markers are those of the generator, for arriving
bits the count of periods starts anywhere (R243, R244; log 97). -/
def seedBit (s : State) (l : Nat) (b : Bool) : State :=
  let x := getLane s l
  let n := prbsLen (prbsPattern s l)
  let h := (2 * x.chk.hist + b2n b) % 2 ^ n
  let first : Prbs :=
    if nearEnd s l then ⟨h, x.gen.mark, x.gen.turn⟩
    else ⟨h, if h + 1 = 2 ^ n then 32 else 0, Config.prbsTurn s.freeCtr % (prbsEvery s l + 1)⟩
  if x.fill + 1 < n then modLane s l fun x => { x with fill := x.fill + 1, clean := 0, chk := ⟨h, 0, 0⟩ }
  else modLane (bumpFree s) l fun x => { x with fill := n, clean := 0, chk := first }

/-- One more clean bit; 1,024 of them are lock (R243). -/
def cleanBit (s : State) (l : Nat) (next : Prbs) : State :=
  modLane s l fun x =>
    { x with chk := next, clean := x.clean + 1, locked := x.clean + 1 == 1024, sinceLock := 0, recent := [] }

/-- The checker seeds again. -/
def reseed (s : State) (l : Nat) : State := modLane s l fun x => { x with locked := false, fill := 0, clean := 0 }

/-- One compared bit of a locked checker: `b` received, `e` the pattern's bit, `inj` an expected injection (R243, R245, R246). More than
256 errors in the last 1,024 bits lose the lock. -/
def countBit (s : State) (l : Nat) (b e inj : Bool) (next : Prbs) : State :=
  let missed := inj && b == e
  let real := missed || (!inj && b != e)
  let s1 := modLane s l fun x =>
    { x with
      chk := next
      compared := (x.compared + 1) % 2 ^ 64
      real := (x.real + b2n real) % 2 ^ 64
      seen := (x.seen + b2n (inj && !missed)) % 2 ^ 64
      missed := (x.missed + b2n missed) % 2 ^ 64
      sinceLock := x.sinceLock + 1
      recent := (if real then x.recent ++ [x.sinceLock] else x.recent).filter fun k => decide (x.sinceLock < k + 1024) }
  let s2 := if real then scEvent s1 (oLan l 0x1C) fun v => putBits (bumpBits v 15 8) 2 2 (if missed then 1 else bits v 2 2) else s1
  if 256 < (getLane s2 l).recent.length then reseed (scEvent s2 (oLan l 0x1C) fun v => bumpBits v 23 16) l else s2

/-- One bit reaches the checker: it seeds, it proves the seed, or it is counted (R243, R245). -/
def takeBit (s : State) (l : Nat) (b : Bool) : State :=
  let x := getLane s l
  let p := prbsPattern s l
  if x.fill < prbsLen p then seedBit s l b
  else
    let e := prbsBit p x.chk.hist
    let inj := prbsExpects s l && x.chk.marked (prbsMask s l)
    let next := x.chk.after p (prbsEvery s l) e
    if x.locked then countBit s l b e inj next
    else if b == (e ^^ inj) then cleanBit s l next
    else reseed s l

/-- One bit at the receiver: what arrives, or, in near-end loopback, the generator's bit, inverted where `r` says so. -/
def checkBit (l : Nat) (s : State) (r : Bool) : State :=
  if nearEnd s l then takeBit (genStep s l) l (genBit s l ^^ r) else takeBit s l r

/-- PRBS_LOCK (R243): the bits that reach a checker that is not locked, until it declares lock and after. -/
def execPrbsLock (l : Nat) (rx : List Bool) (s : State) : Answer :=
  onElement (okLane l) (.next (if checking s l && !(getLane s l).locked then rx.foldl (checkBit l) s else s))

/-- PRBS_SYNC_LOSS (R243, R245, R246): the bits that a locked checker compares, to the loss of sync and after. -/
def execPrbsSyncLoss (l : Nat) (rx : List Bool) (s : State) : Answer :=
  onElement (okLane l) (.next (if checking s l && (getLane s l).locked then rx.foldl (checkBit l) s else s))

/-- A generator that is switched on, or changes its pattern, starts anywhere in its sequence (R242; log 97). -/
def startGen (s : State) (l : Nat) : State :=
  let n := prbsLen (prbsPattern s l)
  modLane (bumpFree s) l fun x =>
    { x with gen := ⟨1 + (Config.prbsStart s.freeCtr).toNat % (2 ^ n - 1), 0, Config.prbsTurn s.freeCtr % (prbsEvery s l + 1)⟩ }

/-- A write of LAN_PRBS_CTL is taken: chk_en from 0 to 1 clears the counters, and a checker that is off is not locked (R243). -/
def takePrbsCtl (s0 : State) (l v : Nat) : State :=
  let old := (regGet s0 (oLan l 0x10)).toNat
  let s := regSet s0 (oLan l 0x10) (BitVec.ofNat 32 (v &&& 0x3FF))
  let s1 := if bitOf v 0 && (!bitOf old 0 || bits old 5 2 != bits v 5 2) then startGen s l else s
  if !bitOf v 1 then reseed s1 l
  else if bitOf old 1 then s1
  else modLane (reseed s1 l) l fun x => { x with compared := 0, real := 0, seen := 0, missed := 0 }

/-! Clocks (R237, R373). -/

/-- The core PLL has lost lock: AUX runs from the ring oscillator, and the fatal fault of the clock source follows. The loss of lock is
an event; a lost reference is a condition (R419, R430). -/
def loseClock (s : State) : State := raise { s with pwr := { s.pwr with coreLock := false, ringOsc := true } } 1 0 3 0 0

/-- No lane PLL stays locked, which is a loss of lock on every lane, and scans stop (R237); the links stay up, as R232 has it in the safe
state (log 98). -/
def loseLanes (s0 : State) : State :=
  let s := { s0 with pwr := { s0.pwr with laneLock := [] } }
  forAll s (upFrom 0 96) fun s l => modLane (abortScan (holdTaps s l) l) l fun x => { x with cdr := false }

/-- REFERENCE_LOSS (R237, R373): no reference edge for 1 microsecond; no PLL stays locked. -/
def execReferenceLoss (s : State) : Answer :=
  .next (if s.pwr.refLost then s
    else loseLanes (loseClock (setLine { s with pwr := { s.pwr with refLost := true } } 1 0 true)))

/-- CORE_PLL_LOSS (R373). -/
def execCorePllLoss (s : State) : Answer := .next (if s.pwr.coreLock then loseClock s else s)

end Sys2Proof.Machine
end

