-- ==== Sys2Proof/Machine/Thermal.lean ====
section
/-! DEFINITION. Heat and coolant (17): sensor readings, the tier model, trust, throttling, the thermal trip and the coolant check.
Temperatures are in quarter degrees. Sensors: 0 to 135 tier positions, 136 to 167 mills, 168 to 183 other base-die sensors, 184 and 185
the coolant's inlet and outlet (R405). -/

namespace Sys2Proof.Machine

def modThm (s : State) (g : Thermal → Thermal) : State := { s with thm := g s.thm }

/-- The last reading of a sensor. -/
def reading (s : State) (k : Nat) : Int := tabGet 0 s.thm.reading k

/-! Readings (R405 to R407). -/

/-- What the device adds to a reading: its offset, or 3 degrees on a die sensor with the trim default (R405, R406). -/
def sensorOffset (s : State) (k : Nat) : Int :=
  if trimDefault s then (if k < 184 then 12 else 0)
  else Config.trimOffset ((upFrom 17 6).map fun r => tabGet (0 : BitVec 256) s.fuses.shadow r) k

/-- A reading is valid in itself: -20 to 140 degrees, within 10 degrees of the last one (R407). -/
def readingOk (s : State) (k : Nat) (v : Int) : Bool :=
  decide (-80 ≤ v) && decide (v ≤ 560) && (!s.thm.sampled || (decide (v - reading s k ≤ 40) && decide (reading s k - v ≤ 40)))

/-- One sensor is read: an invalid reading counts, and the sensor is valid again after 100 good ones (R407). -/
def takeReading (old : State) (s : State) (e : Int × Nat) : State :=
  let k := e.2
  let v := e.1 + sensorOffset old k
  let ok := readingOk old k v
  let s1 := modThm s fun m =>
    { m with reading := tabSet 0 m.reading k v, invalid := tabSet 0 m.invalid k (if ok then tabGet 0 m.invalid k - 1 else 100) }
  if ok then s1 else event s1 5 1 1 (k % 256 * 2 ^ 15) 0

/-- All sensors are read. -/
def takeReadings (s : State) (rs : List Int) : State :=
  modThm (rs.zipIdx.foldl (takeReading s) s) fun m => { m with sampled := true }

/-- The highest of the valid readings among some sensors, or another value where none is valid. -/
def highestValid (s : State) (ks : List Nat) (d : Int) : Int :=
  let vs := (ks.filter fun k => !posInvalid s k).map (reading s)
  match vs with
  | [] => d
  | v :: t => t.foldl max v

/-- The mills in the grid cells beside that of mill `m`, eight to a row (R8, R9). -/
def besideMill (m : Nat) : List Nat :=
  (if 8 ≤ m then [m - 8] else []) ++ (if m < 24 then [m + 8] else []) ++ (if m % 8 = 0 then [] else [m - 1]) ++ (if m % 8 = 7 then [] else [m + 1])

/-- The value of a base-die sensor, with R407's substitute for an invalid one. -/
def dieTemp (s : State) (k : Nat) : Int :=
  if !posInvalid s k then reading s k
  else
    let all := highestValid s (upFrom 136 48) (reading s k)
    if k < 168 then highestValid s ((besideMill (k - 136)).map (136 + ·)) all else all

/-! The tier model (R408). -/

/-- The four flumes under a position (R405). -/
def flumesAt (p : Nat) : List Nat := (List.range 32).filter fun f => positionOf f == p

/-- Power of a position's bays over one evaluation, in units of 10 microwatts (R408). -/
def positionPower (s : State) (k : Nat) : Nat :=
  let dyn := ((List.range 4).map fun i => tabGet 0 s.thm.cmds (4 * k + i) * Config.energy i).sum
  let idle := ((flumesAt (k % 8)).filter fun f => decide (3 ≤ (getFlume s f).pstate) || s.flt.safe).length
  dyn + 100 * (4 * idle * Config.energy 4)

/-- theta(s), in tenths of a degree per watt. -/
def theta (p : Nat) : Nat := if [1, 2, 5, 6].contains p then 9 else 7

/-- What lies below and above a position, at the previous evaluation. -/
def below (s : State) (k : Nat) : Int :=
  if k < 8 then ((flumesAt k).foldl (fun a m => a + dieTemp s (136 + m)) 0) / 4 else effTemp s (k - 8)
def above (s : State) (k : Nat) : Int := if 128 ≤ k then reading s 185 else effTemp s (k + 8)

/-- The next model value of a position, in 1/300 of a quarter degree, from the previous evaluation. -/
def modelNext (s : State) (k : Nat) : Int :=
  let t := tabGet 0 s.thm.model k
  let ss := 150 * (below s k + above s k) + (120 * theta (k % 8) * positionPower s k / 100000 : Nat)
  t + (ss - t) / 300

/-- The model runs, or starts at a position's first valid reading (R408). `old` is the state of the previous evaluation. -/
def runModel (old s : State) : State :=
  forAll s (upFrom 0 136) fun s k =>
    if old.thm.seeded.contains k then modThm s fun m => { m with model := tabSet 0 m.model k (modelNext old k) }
    else if posInvalid s k then s
    else modThm s fun m => { m with model := tabSet 0 m.model k (300 * reading s k), seeded := insertNat k m.seeded }

/-! Trust (R410). -/

def positions (t : Nat) : List Nat := upFrom (8 * t) 8

/-- Some flume's band of the tier is stepped up (R85). -/
def steppedUp (s : State) (t : Nat) : Bool := (List.range 32).any fun f => (tabGet none (getFlume s f).stepUp t).isSome

/-- Some valid reading of the tier lies more than 6 degrees below its model value. -/
def readsLow (s : State) (t : Nat) : Bool :=
  (positions t).any fun k => !posInvalid s k && s.thm.seeded.contains k && decide (reading s k < modelAt s k - 24)

/-- Every reading is valid and no more than 3 degrees below the model. -/
def readsWell (s : State) (t : Nat) : Bool :=
  (positions t).all fun k => !posInvalid s k && decide (modelAt s k - 12 ≤ reading s k)

/-- A tier is judged: it becomes untrusted with a notice, or trusted again (R410). -/
def judgeTier (s : State) (t : Nat) : State :=
  let low := if readsLow s t then tabGet 0 s.thm.low t + 1 else 0
  let good := if readsWell s t then tabGet 0 s.thm.good t + 1 else 0
  let s1 := modThm s fun m => { m with low := tabSet 0 m.low t (min 10 low), good := tabSet 0 m.good t (min 10000 good) }
  let bad := decide (10 ≤ low) || (positions t).any (posInvalid s) || steppedUp s t
  if s.thm.untrusted.contains t then
    if bad || decide (good < 10000) then s1 else modThm s1 fun m => { m with untrusted := m.untrusted.filter (· != t) }
  else if bad then
    let s2 := modThm s1 fun m => { m with untrusted := insertNat t m.untrusted }
    event (scEvent s2 (oThm 0x18) fun v => putBits v 15 11 t) 5 0 1 (4 * t) 0
  else s1

/-! Bands (R74). -/

/-- Every flume takes the band of each tier (R74, R75). -/
def setBands (s : State) : State :=
  forAll s (upFrom 0 17) fun s t =>
    let temp := tierTemp s t
    forAll s (upFrom 0 32) fun s f =>
      let b := tabGet 0 (getFlume s f).band t
      if nextBand b temp = b then s else changeBand s f t fun x => { x with band := tabSet 0 x.band t (nextBand b temp) }

/-! Throttling (R411, R412). -/

/-- The positions over flume `f` whose effective temperature is above a level. -/
def hotPositions (s : State) (f : Nat) (level : Int) : List Nat :=
  ((upFrom 0 17).map fun t => 8 * t + positionOf f).filter fun k => decide (level < effTemp s k)

/-- The base-die sensors above 97 degrees that raise a mill's floor. -/
def hotDie (s : State) (m : Nat) : List Nat := ((136 + m) :: upFrom 168 16).filter fun k => decide (388 < dieTemp s k)

/-- A condition that raised a floor is below its release level. -/
def released (s : State) (k : Nat) : Bool := if k < 136 then decide (effTemp s k < 368) else decide (dieTemp s k < 376)

/-- A step up may come now: OPP3 not reached, 1 ms since the last. -/
def mayStep (s : State) (floor : Nat) (at0 : Option Nat) : Bool :=
  decide (floor < 3) && (match at0 with
    | some t => decide (t + 1000000 ≤ s.now)
    | none => true)

/-- A step up is counted (R412, R417). -/
def noteStep (s : State) (f : Nat) : State := event (scEvent s (oThm 0x18) fun v => bumpBits v 23 16) (32 + f) 10 1 0 0

def joinNats (l ks : List Nat) : List Nat := ks.foldl (fun a k => insertNat k a) l

/-- A flume's floor, release timer and duty limit. -/
def floorFlume (s : State) (f : Nat) : State :=
  let x := getFlume s f
  let hot := hotPositions s f 380
  let s1 := if !hot.isEmpty && mayStep s x.floor x.floorRaisedAt then
      noteStep (modFlume s f fun x =>
        { x with floor := x.floor + 1, raisedBy := joinNats x.raisedBy hot, floorRaisedAt := some s.now }) f
    else s
  modFlume s1 f fun x =>
    { x with coolSince := if x.floor = 0 ∨ (x.raisedBy.all (released s)) = false then none else some (x.coolSince.getD s.now),
             duty := x.floor == 3 && !(hotPositions s f 392).isEmpty }

/-- A mill's floor and release timer. -/
def floorMill (s : State) (m : Nat) : State :=
  let x := getMill s m
  let hot := hotPositions s m 380 ++ hotDie s m
  let s1 := if !hot.isEmpty && mayStep s x.floor x.floorRaisedAt then
      noteStep (modMill s m fun x =>
        { x with floor := x.floor + 1, raisedBy := joinNats x.raisedBy hot, floorRaisedAt := some s.now }) m
    else s
  modMill s1 m fun x =>
    { x with coolSince := if x.floor = 0 ∨ (x.raisedBy.all (released s)) = false then none else some (x.coolSince.getD s.now) }

/-- THROTTLE_STEP_DOWN (R412): 10 ms below release. -/
def execThrottleStepDown (f : Nat) (mill : Bool) (s : State) : Answer :=
  onElement (okF f) <|
    let due := fun (c : Option Nat) => match c with
      | some t => decide (t + 10000000 ≤ s.now)
      | none => false
    if mill then
      .next (if 0 < (getMill s f).floor ∧ due (getMill s f).coolSince = true then
        modMill s f fun x => { x with floor := x.floor - 1, coolSince := some s.now, raisedBy := if x.floor = 1 then [] else x.raisedBy }
      else s)
    else
      .next (if 0 < (getFlume s f).floor ∧ due (getFlume s f).coolSince = true then
        modFlume s f fun x => { x with floor := x.floor - 1, coolSince := some s.now, raisedBy := if x.floor = 1 then [] else x.raisedBy }
      else s)

/-! The trip (R411, R413). -/

/-- Some effective position or base-die sensor is at 105 degrees or more. -/
def tripsNow (s : State) : Bool :=
  ((upFrom 0 136).any fun k => decide (420 ≤ effTemp s k)) || (upFrom 136 48).any fun k => decide (420 ≤ dieTemp s k)

/-- The trip's condition line follows, and its rise is the fatal fault. -/
def checkTrip (s : State) : State :=
  let on := tripsNow s
  let s1 := setLine s 3 0 on
  if on && !(getSource s (srcKey 3 0)).line then raise s1 3 0 3 0 0 else s1

/-- THERMAL_TRIP (R413): the comparator of a die sensor trips at 110 degrees. -/
def execThermalTrip (src : Nat) (s : State) : Answer :=
  onElement (decide (src < 184)) (.next (raise s 3 0 3 (src % 256 * 2 ^ 15) 0))

/-! The evaluation. -/

/-- The hottest tier. -/
def hottestTier (s : State) : Int := (upFrom 1 16).foldl (fun a t => max a (tierTemp s t)) (tierTemp s 0)

/-- The hottest temperature since the last clear, and the sum for the hour (R354, THM_STATUS). -/
def noteHottest (s : State) : State :=
  let h := hottestTier s
  let c := min 255 (h / 4).toNat
  let s1 := modThm s fun m => { m with hotSum := m.hotSum + h, hotN := m.hotN + 1, cmds := [] }
  if regField s (oThm 0x18) 7 0 < c then scEvent s1 (oThm 0x18) fun v => putBits v 7 0 c else s1

/-- THERMAL_EVALUATION (R405 to R412): the 184 die and two coolant sensors, as read. In Brake no model runs: the readings are taken, and
those of a trip act (R408, R411). -/
def execThermalEvaluation (readings : List Int) (s : State) : Answer :=
  onElement (readings.length == 186) <|
    let s1 := takeReadings s readings
    if s.pwr.dstate = 4 then .next (checkTrip s1)
    else
      let s2 := forAll (runModel s s1) (upFrom 0 17) judgeTier
      let s3 := forAll (forAll (setBands s2) (upFrom 0 32) floorFlume) (upFrom 0 32) floorMill
      .next (noteHottest (checkTrip s3))

/-! Coolant (R415, R416). -/

/-- C is below `c` W/K, for a power in milliwatts and a rise in quarter degrees. -/
def rateBelow (power share : Nat) (rise : Int) (c : Nat) : Bool :=
  decide (rise < 0) || decide ((4 * power * share : Nat) < (c * 100000 : Nat) * rise)

/-- C is above `c` W/K. -/
def rateAbove (power share : Nat) (rise : Int) (c : Nat) : Bool :=
  decide (0 ≤ rise) && (decide (rise = 0) || decide ((c * 100000 : Nat) * rise < (4 * power * share : Nat)))

/-- THM_COOL_CTL: c_min and liquid_share in force. -/
def coolMin (s : State) : Nat := max 20 (regField s (oThm 4) 15 8)
def coolShare (s : State) : Nat := max 50 (min 100 (regField s (oThm 4) 6 0))

/-- The kinds of coolant fault a check finds: 1 flow low, 2 rise implausible, 3 inlet hot, 4 sensor (R415). -/
def coolKinds (s : State) (power : Nat) (tin tout : Int) : List Nat :=
  if posInvalid s 184 || posInvalid s 185 then [4]
  else
    let load := decide (100000 ≤ power)
    let low := load && rateBelow power (coolShare s) (tout - tin) (coolMin s)
    let odd := (load && rateAbove power (coolShare s) (tout - tin) 400) || decide (tout < tin - 2)
    (if low then [1] else []) ++ (if odd then [2] else []) ++ (if 180 < tin then [3] else [])

/-- A coolant fault of a kind comes into force: the set of kinds in force is held as bits (R415). -/
def coolRaise (s : State) (k : Nat) : State :=
  if bitOf s.thm.fault k then s
  else
    let s1 := modThm s fun m => { m with fault := m.fault + 2 ^ k, goodChecks := if k ≤ 2 then 0 else m.goodChecks }
    let s2 := scEvent (setLine s1 4 0 true) (oThm 0x18) fun v => putBits v 10 8 k
    raise s2 4 0 2 0 k

/-- The kinds in force that go on: flow and rise end after ten good checks, the others with their conditions (R416). -/
def coolKeep (s : State) (found : List Nat) (good : Nat) (k : Nat) : Bool :=
  bitOf s.thm.fault k && (found.contains k || (decide (k ≤ 2) && decide (good < 10)))

/-- The end of faults whose time has come. -/
def coolEnd (s : State) (found : List Nat) (good : Nat) : State :=
  let m := (([1, 2, 3, 4].filter (coolKeep s found good)).map fun k => 2 ^ k).sum
  let s1 := modThm s fun x => { x with fault := m, goodChecks := min 10 good }
  if m = 0 then setLine s1 4 0 false else s1

/-- The notice of a check that does not run under the trim default (R406). -/
def coolSuspended (s : State) : State :=
  if s.thm.suspended then s else event (modThm s fun m => { m with suspended := true }) 5 1 1 0 0

/-- COOLANT_CHECK (R415, R416): the power in milliwatts and the 1 s averages. -/
def execCoolantCheck (power : Nat) (tin tout : Int) (s : State) : Answer :=
  let s1 := modThm s fun m => { m with tin := tin, tout := tout }
  if !bitOf (regGet s (oThm 0)).toNat 0 then .next s1
  else if trimDefault s then .next (coolSuspended s1)
  else
    let found := coolKinds s power tin tout
    let fine := !found.contains 4 && !rateBelow power (coolShare s) (tout - tin) (coolMin s + 5) &&
      !rateAbove power (coolShare s) (tout - tin) 400
    let good := if fine then s.thm.goodChecks + 1 else 0
    let s2 := found.foldl coolRaise (coolEnd s1 found good)
    let warn := !found.contains 4 && ((decide (160 ≤ tin) && decide (tin ≤ 180)) || decide (tin < 80))
    .next (if warn then event s2 5 2 1 0 0 else s2)

end Sys2Proof.Machine
end

