-- ==== Sys2Proof/Machine/Faults.lean ====
section
/-! DEFINITION. Fault collection as commands (18): error lines, windows, parity, clearing and the end of the safe state. -/

namespace Sys2Proof.Machine

/-- Groups 0 to 63 and sources 0 to 15 (R419). -/
def okSource (g i : Nat) : Bool := decide (g < 64) && decide (i < 16)

/-- Conditions whose line the model itself ends: rails, the thermal trip, coolant, the guard, sub-channels (R384, R413, R416, R451, R14). -/
def lineTracked (g i : Nat) : Bool := (i == 0 && [2, 3, 4, 7].contains g) || (i == 5 && decide (32 ≤ g))

/-- A condition ends and its line goes quiet; latches stay (R419, R429). For the clock source the reference is back (R373). -/
def endCondition (s : State) (g i : Nat) : State :=
  if lineTracked g i then s
  else
    let s1 := setLine s g i false
    if g = 1 ∧ i = 0 then { s1 with pwr := { s1.pwr with refLost := false } } else s1

/-- An event of a source; a mill that its mill-fault source disables leaves dispatch (R134, R143). -/
def raiseLine (s : State) (g i sev unit detail : Nat) : State :=
  let s1 := raise s g i sev unit detail
  if 32 ≤ g ∧ i = 13 ∧ (getMill s1 (g - 32)).disabled = true then leaveDispatch s1 (g - 32) else s1

/-- ERROR_LINE_EVENT (R419, R423): a pulse, the rise of a condition's line, or its fall; a TLP fault of a head's link is logged by AER
too (R226). -/
def execErrorLineEvent (g i sev unit detail : Nat) (line : LineChange) (tlp : Option TlpError) (s : State) : Answer :=
  onElement (okSource g i && decide (sev < 4)) (.next (match (if 16 ≤ g ∧ g < 20 ∧ i = 0 then tlp else none) with
    | some e => tlpFault s (g - 16) e
    | none => match line with
      | .pulse => raiseLine s g i sev unit detail
      | .rise => raiseLine (setLine s g i true) g i sev unit detail
      | .fall => endCondition s g i))

/-- WINDOW_CLOSE (R422): past its last tick the window closes and the count returns to 0. -/
def execWindowClose (g i : Nat) (s : State) : Answer :=
  onElement (okSource g i) <|
    match (getSource s (srcKey g i)).windowEnd with
    | some e => .next (if e ≤ ticks s then modSource s (srcKey g i) fun x => { x with windowEnd := none, count := 0 } else s)
    | none => .next s

/-- A damaged entry is reloaded with its default; its latch stays the highest that a copy shows (R425). -/
def reloadSource (s : State) (k : Nat) : State :=
  modSource s k fun x => { x with nSet := 0, wSet := 0, count := 0, windowEnd := none }

/-- COLLECTOR_PARITY_SWEEP (R425): `bad` names the damaged sources; source (0, 0) is not subject to its own check. -/
def execCollectorParitySweep (bad : List Nat) (s : State) : Answer :=
  let hit := bad.filter fun k => k != 0 && decide (k < 1024)
  .next (if hit.isEmpty then s else raise (forAll s hit reloadSource) 0 0 3 0 0)

/-! Leaving the safe state (R430). -/

/-- A flume leaves self-refresh as from Furl. -/
def wakeFromFurl (s : State) (f : Nat) : State :=
  modFlume s f fun x => { x with pstate := max 3 x.pstate, entering := none, waking := true }

/-- The halted part of a mill ends with the mill-fault status, res_b 0. -/
def endHalted (s : State) (m : Nat) : State := endRunning s m 4 0

/-- A leat port may train again. -/
def enablePort (s : State) (k : Nat) : State := modPort s k fun p => { p with disabled := false, retryAt := none }

/-- The five steps of R430. -/
def safeExit (s : State) : State :=
  let s1 := emit { s with flt := { s.flt with safe := false }, boot := { s.boot with faultN := true } } (.pins true s.boot.linkEn)
  let s2 := forAll (forAll s1 (upFrom 0 32) wakeFromFurl) (upFrom 0 32) endHalted
  forAll (forAll (refillMills s2) [0, 1, 2, 3] returnCredits) [0, 1] enablePort

/-- The safe state ends: no fatal latch is left, the core PLL is locked and no rail is out (R430). -/
def mayLeaveSafe (s : State) : Bool :=
  s.flt.safe && s.flt.sources.all (fun e => e.2.latch < 3) && s.pwr.coreLock && s.pwr.railsOut.isEmpty

/-- A clear that succeeds (R429); that of the last fatal latch may end the safe state (R430). -/
def clearLatch (s : State) (k : Nat) : State :=
  let fatal := decide (3 ≤ (getSource s k).latch)
  let s1 := modSource s k fun x => { x with latch := 0, first := none }
  let s2 := if s1.flt.firstFault = some k then { s1 with flt := { s1.flt with firstFault := none } } else s1
  if fatal && mayLeaveSafe s2 then safeExit s2 else s2

/-- FLT_CLEAR_STATUS.result. -/
def clearResult (s : State) (r : Nat) : State := scEvent s (oFlt 0x34) fun v => putBits v 1 0 r

/-- A write of FLT_CLEAR is taken: the sequence number first, then the line (R429). -/
def takeFltClear (s : State) (v : Nat) : State :=
  let k := srcKey (bits v 13 8) (bits v 3 0)
  let x := getSource s k
  if bits v 31 24 ≠ x.seq then clearResult s 3
  else if x.line then clearResult s 2
  else clearLatch (clearResult s 1) k

/-- FLT_CLEAR (R429): the collector is in the AUX domain and takes the write at once. -/
def execFltClear (path : Nat) (v : Word) (s : State) : Answer :=
  onElement (okPath path) (.next (if pathOpen s path then takeFltClear s v.toNat else s))

end Sys2Proof.Machine
end

