-- ==== Sys2Proof/Machine/View.lean ====
section
/-! DEFINITION. What a register read returns (R433, R434): read-only registers and live views computed from the state, words held
as written, windows. A read changes nothing. Also the spare reserves of R353. -/

namespace Sys2Proof.Machine

/-- A word from fields, each a lowest bit and a value. -/
def packF (fs : List (Nat × Nat)) : Nat := (fs.map fun e => e.2 * 2 ^ e.1).sum

/-- A signed value in `n` bits. -/
def sbits (n : Nat) (v : Int) : Nat := (BitVec.ofInt n v).toNat

/-- A count of the numbers below `n` that meet `p`, one bit each. -/
def bitMask (n : Nat) (p : Nat → Bool) : Nat := ((List.range n).map fun i => b2n (p i) * 2 ^ i).sum

/-! Reserves (R353). -/

/-- Consumed elements of one bank: spare rows 0 to 27, pool lines, spare column groups. -/
def rowsConsumed (x : Bank) : Nat := ((List.range 28).filter fun i => (rowsUsed x).contains i || x.badRows.contains i).length
def colsConsumed (x : Bank) : Nat :=
  let used := x.cols.map fun e => e.2 - 1
  let moving := match x.colMove with
    | some (_, i, _) => [i]
    | none => []
  ((List.range 8).filter fun i => used.contains i || moving.contains i || x.badCols.contains i).length

/-- Pool lines in use in a flume, and withdrawn in a bank. -/
def poolInUse (x : Flume) : Nat := ((List.range 32).filter fun i => rmValid (remapEntry x i)).length

/-- Consumed elements of a class: 0 spare wires, 1 spare rows, 2 pool lines, 3 column groups, 4 spare bays. -/
def consumed (s : State) (c : Nat) : Nat :=
  match c with
  | 0 => (s.subs.map fun e => ((List.range 16).filter fun i => tabGet 0 e.2.steer i != 0 || e.2.badSpares.contains i).length).sum
  | 1 => (s.banks.map fun e => rowsConsumed e.2).sum
  | 2 => (s.flumes.map fun e => poolInUse e.2).sum + (s.banks.map fun e => e.2.badPool.length).sum
  | 3 => (s.banks.map fun e => colsConsumed e.2).sum
  | _ => (s.subs.filter fun e => e.2.spareUsed || e.2.spareBad).length

/-- Totals of the classes. -/
def spareTotal (c : Nat) : Nat := natAt [2048, 974848, 4456448, 278528, 128] c

/-- A class's reserve in percent, rounded down. -/
def reserve (s : State) (c : Nat) : Nat := 100 * (spareTotal c - consumed s c) / spareTotal c

/-- The spare reserve: the lowest of the five. -/
def spareReserve (s : State) : Nat := minOf (reserve s 0) ((upFrom 1 4).map (reserve s))

/-! Views of the blocks. -/

/-- busy of a posted-write port as a bit. -/
def busyBit (s : State) (port : Nat) : Nat := b2n (busy s port)

def viewGlb (s : State) (i : Nat) : Nat :=
  if i = 0 then partNumber
  else if i = 4 then
    packF [(0, s.boot.step), (4, s.boot.cause), (8, b2n s.boot.ready), (9, b2n s.boot.linkEn), (10, b2n s.boot.halted)]
  else 0

/-- The source FLT_SRC_SEL names. -/
def selSource (s : State) : Nat × Nat := (regField s (oFlt 0x20) 13 8, regField s (oFlt 0x20) 3 0)

/-- The count of a source's open window (R422). -/
def openCount (s : State) (x : Source) : Nat :=
  match x.windowEnd with
  | some e => if ticks s < e then x.count else 0
  | none => 0

def viewFlt (s : State) (i : Nat) (held : Nat) : Nat :=
  if i = 4 then
    let fs := s.flt.sources.map fun e => e.2.latch
    let k := s.flt.firstFault
    packF [(0, fs.foldl max 0), (2, b2n s.flt.safe), (3, b2n k.isSome), (8, min 255 (fs.filter (0 < ·)).length),
      (16, (k.getD 0) / 16), (22, (k.getD 0) % 16)]
  else if i = 0x24 then srcCfg s (selSource s).1 (selSource s).2
  else if i = 0x28 then
    let g := (selSource s).1
    let j := (selSource s).2
    let x := getSource s (srcKey g j)
    if (sourceDefault g j).isNone then 0
    else packF [(8, openCount s x), (20, b2n (sourceFixed g j)), (21, b2n x.line), (22, x.latch), (24, x.seq)]
  else held

/-- Every block of a flume idles with its next known event more than 120 ns ahead: its clocks are gated (R390, R393, R394). -/
def flumeTrimmed (s : State) (f : Nat) : Bool :=
  let x := getFlume s f
  let m := getMill s f
  x.pstate == 0 && x.entering.isNone && !x.waking && x.waiting.isEmpty && x.queue.isEmpty && x.inflight.isEmpty && x.heldRows.isEmpty &&
    m.running.isNone && m.queue.isEmpty &&
    (upFrom 0 1088).all fun j => decide (s.now + 120 < (getBank s (bankKey f 0 0 0 + j)).dueAt) && (getBank s (bankKey f 0 0 0 + j)).refDue == 0

/-- The state PWR_FSTATE shows of a flume: Trim is entered and left by clock gating alone (R393). -/
def flumeShown (s : State) (f : Nat) : Nat := if flumeTrimmed s f then 1 else (getFlume s f).pstate

/-- The state PWR_STATE shows of the device: Trim while every flume is gated or deeper and no descriptor is started (R391, R393). -/
def deviceShown (s : State) : Nat :=
  if s.pwr.dstate = 0 ∧ s.descs.isEmpty ∧ ((List.range 32).all fun f => decide (0 < flumeShown s f)) then 1 else s.pwr.dstate

def viewPwr (s : State) (i : Nat) (held : Nat) : Nat :=
  if i = 4 then
    packF [(0, busyBit s 198), (1, b2n (s.pwr.entering.isSome || s.pwr.waking)), (2, deviceShown s), (5, b2n s.flt.safe)]
  else if 0x10 ≤ i ∧ i < 0x20 then
    ((List.range 8).map fun j =>
      let x := getFlume s (8 * ((i - 0x10) / 4) + j)
      (flumeShown s (8 * ((i - 0x10) / 4) + j) + 8 * b2n (x.entering.isSome || x.waking)) * 16 ^ j).sum
  else if i = 0x48 then packF [(0, s.pwr.vlogic), (8, b2n s.pwr.settled)]
  else if i = 0x80 then
    packF [(0, bitMask 24 fun q => s.pwr.laneLock.contains q), (24, b2n s.pwr.coreLock), (25, b2n s.pwr.ringOsc), (26, b2n s.pwr.refLost)]
  else held

/-- A temperature in ten bits, saturating at 127.75 degrees. -/
def temp10 (v : Int) : Nat := sbits 10 (min 511 v)

def viewThm (s : State) (i : Nat) (held : Nat) : Nat :=
  if i = 8 then
    packF [(0, busyBit s 199), (1, bitMask 17 fun t => s.thm.untrusted.contains t),
      (18, b2n ((List.range 32).any fun n => decide (0 < (getFlume s n).floor) || decide (0 < (getMill s n).floor))),
      (19, b2n ((List.range 32).any fun n => (getFlume s n).duty)), (20, b2n (decide (0 < s.thm.fault)))]
  else if i = 0x10 then
    let k := regField s (oThm 0xC) 7 0
    if 136 ≤ k then 0
    else packF [(0, temp10 (effTemp s k)), (10, temp10 (reading s k)), (20, sbits 11 (modelAt s k)), (31, b2n (posInvalid s k))]
  else if i = 0x14 then packF [(0, sbits 16 s.thm.tin), (16, sbits 16 s.thm.tout)]
  else held

/-- The fuses have been read (step 2 of start-up). -/
def fusesRead (s : State) : Bool := decide (3 ≤ s.boot.step)

/-- FUS_ROW_DATA: the shadow of a row, 0 for a row of a failed customer region (R321); of rows 0 to 9 the decoded words, but those of the
identity key. -/
def fuseData (s : State) (r i : Nat) : Nat :=
  let row := (tabGet (0 : BitVec 256) s.fuses.shadow r).toNat
  if 1984 ≤ r ∧ s.fuses.failed.contains 5 = true then 0
  else if 10 ≤ r then bits row (32 * i + 31) (32 * i)
  else if 6 ≤ i then 0
  else
    let w := 3 * r + i / 2
    if 15 ≤ w ∧ w ≤ 20 then 0
    else bits ((wordValue (wordShadow s.fuses w)).getD 0) (32 * (i % 2) + 31) (32 * (i % 2))

def viewFus (s : State) (i : Nat) (held : Nat) : Nat :=
  let u := s.fuses
  if i = 0 then
    packF [(0, busyBit s 200), (1, b2n u.session), (6, b2n (fusesRead s && !u.failed.contains 1)), (7, b2n u.intentDone),
      (8, b2n u.rereadActive), (9, bitMask 5 fun j => u.locked.contains (j + 1)), (14, bitMask 6 fun j => u.failed.contains j),
      (20, b2n u.lcDefault), (21, u.lc)]
  else if i = 4 then
    packF [(0, ((List.range 64).filter fun k => bitOf (redirEntry u 0 k) 15).length),
      (16, ((List.range 64).filter fun k => bitOf (redirEntry u 0 k) 14).length)]
  else if 0x40 ≤ i ∧ i < 0x60 then fuseData s (regField s (oFus 0x20) 10 0) ((i - 0x40) / 4)
  else held

def viewTly (s : State) (i : Nat) (held : Nat) : Nat :=
  if i = 0 then packF [(0, busyBit s 201), (2, b2n (decide (4 ≤ s.boot.step)))] else held

def viewBst (s : State) (i : Nat) (held : Nat) : Nat :=
  if i = 8 then
    packF [(0, busyBit s 202), (1, b2n s.bist.passActive), (8, min 100 (s.bist.done * 100 / passSize s)), (16, b2n s.bist.startupFull),
      (17, b2n (!s.bist.startup.isEmpty && s.bist.startup.all fun r => decide (r.outcome = 0))),
      (18, b2n (s.descs.any fun e => match e.2 with
        | some d => d.work == 4
        | none => false))]
  else if i = 0x10 then packF [(0, spareReserve s), (8, reserve s 0), (16, reserve s 1), (24, reserve s 2)]
  else if i = 0x14 then packF [(0, reserve s 3), (8, reserve s 4)]
  else held

def viewSec (s : State) : Nat :=
  packF [(0, busyBit s 203), (1, b2n s.boot.identity), (2, b2n (fusesRead s && !s.fuses.failed.contains 2)), (3, b2n s.boot.debugOpen),
    (4, b2n s.boot.scanOpen)]

/-- The mailbox of a path. -/
def mailboxOf (s : State) (path : Nat) : Mailbox := tabGet mailboxInit s.acc.mailboxes path

def viewGrd (s : State) (path i : Nat) (held : Nat) : Nat :=
  let m := mailboxOf s path
  if i = 0 then bitMask 5 fun p => s.acc.hold.contains p
  else if i = 8 then packF [(0, b2n s.acc.committing), (1, b2n (!s.acc.hold.isEmpty)), (2, b2n s.acc.mismatch)]
  else if i = 0xC then s.acc.ref
  else if i = 0x10 then s.acc.last
  else if i = 0x24 then s.acc.addr
  else if i = 0x100 then m.sel.toNat
  else if i = 0x104 then packF [(0, b2n m.valid), (1, b2n m.busy), (2, m.err)]
  else if 0x110 ≤ i ∧ i < 0x120 then (if m.valid then (m.data.getD ((i - 0x110) / 4) 0).toNat else 0)
  else held

/-- 0 Own-clock, 1 Tuned, 2 Tuned with fallback bays (R293). -/
def modeCode (s : State) (f : Nat) : Nat :=
  if !(getFlume s f).tunedMode then 0
  else if (upFrom (bayKey f 0 0) 68).any fun k => (getBay s k).fallback then 2 else 1

/-- The bay FLM_TRN_SEL selects, none where it names no tier. -/
def selBay (s : State) (f : Nat) : Option Nat :=
  let v := (regGet s (oFlm f 0x14C)).toNat
  if bits v 6 2 < 17 then some (bayKey f (bits v 1 0) (bits v 6 2)) else none

/-- Word `k` of the staged or in-force window. -/
def windowWord (s : State) (f k : Nat) (staged : Bool) : Nat :=
  match selBay s f with
  | none => 0
  | some b =>
    if 378 ≤ k then 0
    else
      let x := getBay s b
      let v := (tabGet (0 : Word) (if staged then x.staged else x.inForce) k).toNat
      if k = 377 then putBits v 9 9 (b2n x.tuned) else v

def viewFlm (s : State) (f i : Nat) (held : Nat) : Nat :=
  let x := getFlume s f
  if i = 4 then
    packF [(0, busyBit s f), (1, b2n x.held), (2, b2n x.holding), (3, b2n ((List.range 4).any fun k => (tabGet none x.migrate k).isSome)),
      (4, bitMask 4 fun k => (getSub s (subKey f k)).degraded), (8, bitMask 4 fun k => (getSub s (subKey f k)).offline), (12, x.opp),
      (14, b2n (trimDefault s))]
  else if i = 0x58 then held + packF [(4, bitMask 4 fun h => (tabGet none x.aboveSince h).isSome)]
  else if i = 0x64 then ((List.range 16).map fun t => bandOf s f t * 4 ^ t).sum
  else if i = 0x68 then putBits (putBits held 17 16 (bandOf s f 16)) 9 9 (b2n ((List.range 17).any fun t => (tabGet none x.stepUp t).isSome))
  else if i = 0x6C then putBits held 0 0 (b2n ((upFrom (bankKey f 0 0 0) 1088).any fun b => (getBank s b).scrubbing))
  else if i = 0x74 then putBits held 5 0 (poolInUse x)
  else if 0x80 ≤ i ∧ i < 0xA0 then
    let k := (i - 0x80) / 4
    erasureWord (flumeErasures s f) k
  else if i = 0x134 then putBits held 23 16 (x.mapGen % 256)
  else if i = 0x150 then
    packF [(0, busyBit s (32 + f)), (17, modeCode s f), (19, b2n (x.opp != flumePoint s f && gathering s f)),
      (20, bitMask 4 fun k => (tabGet none x.passes k).isSome)]
  else if 0x160 ≤ i ∧ i < 0x170 then bitMask 17 fun t => (getBay s (bayKey f ((i - 0x160) / 4) t)).fallback
  else if 0x2000 ≤ i ∧ i < 0x2600 then windowWord s f ((i - 0x2000) / 4) true
  else if 0x2800 ≤ i ∧ i < 0x2E00 then windowWord s f ((i - 0x2800) / 4) false
  else held

def viewMil (s : State) (m i : Nat) (held : Nat) : Nat :=
  let x := getMill s m
  if i = 4 then
    packF [(0, busyBit s (64 + m)), (1, b2n (inDispatch s m)), (3, b2n x.running.isSome), (4, b2n x.slice), (5, b2n x.swapPending),
      (6, b2n (!x.recovering.isEmpty)), (11, b2n (millOff s m)), (12, x.opp), (14, x.queue.length)]
  else if i = 0xC then (x.active.map fun u => u.version).getD 0
  else if i = 0x10 then (x.active.map fun u => u.sec).getD 0
  else held

def viewRing (s : State) (n i : Nat) (held : Nat) : Nat :=
  let x := getPair s n
  if i = 0x20 then packF [(0, x.state), (8, x.err), (16, x.sqHead)]
  else if i = 0x24 then packF [(0, x.sqTail), (16, x.cqHead)]
  else held

def viewHpt (s : State) (h i : Nat) (held : Nat) : Nat :=
  let x := getHead s h
  if 0x1000 ≤ i ∧ i < 0x2000 then viewRing s (64 * h + (i - 0x1000) / 0x40) ((i - 0x1000) % 0x40) held
  else if i = 4 then
    packF [(0, busyBit s (96 + h)), (1, b2n x.linkUp), (2, b2n x.cxl), (3, b2n x.reversed), (4, x.width), (6, x.rate), (8, b2n x.recovering),
      (9, b2n x.l1), (10, b2n x.d3hot), (16, bitMask 16 fun j => x.excluded.contains j)]
  else if i = 8 then putBits held 0 0 (b2n (withholding s h))
  else held

def viewLet (s : State) (k i : Nat) (held : Nat) : Nat :=
  let p := getPort s k
  let l := s.leat
  if i = 4 then
    packF [(0, busyBit s (100 + k)), (1, b2n p.linkUp), (2, b2n p.recovering), (3, p.width), (5, p.rate), (7, b2n l.joined), (8, b2n p.selfLoop)]
  else if k ≠ 0 then held
  else if i = 0x104 then packF [(0, l.pond.length), (17, b2n l.joined)]
  else if i = 0x108 then l.acked
  else if i = 0x10C then l.applied
  else if i = 0x110 then l.dirty.length
  else if i = 0x120 then packF [(0, l.pageMade % 65536), (16, l.pageAcked % 65536)]
  else if 0x200 ≤ i ∧ i < 0x220 then ((List.range 8).map fun j => regionState s (8 * ((i - 0x200) / 4) + j) * 16 ^ j).sum
  else if 0x8000 ≤ i ∧ i < 0x9000 then (tabGet (0 : Word) l.page ((i - 0x8000) / 4)).toNat
  else held

/-- The lanes of the set a link runs on (R233, R248). -/
def usedLanes (s : State) (n : Nat) : List Nat :=
  let ex := linkExcluded s n
  let sets := if linkWidth s n = 3 then [upFrom 0 16] else if linkWidth s n = 2 then [upFrom 0 8, upFrom 8 8]
    else if n < 4 then [upFrom 0 4, upFrom 12 4] else [upFrom 0 4, upFrom 4 4, upFrom 8 4, upFrom 12 4]
  (sets.find? (cleanSet ex)).getD []

/-- The tap codes of a lane now (R239). -/
def tapsNow (s : State) (l : Nat) : Tab Nat := if laneAdapts s l then adaptedTaps s l else (getLane s l).taps

/-- Generator or checker are on: by the lane's register, in a test, or on an excluded lane of a leat port, which sends PRBS31 (R249). -/
def patternRuns (s : State) (l : Nat) : Bool :=
  decide (0 < regField s (oLan l 0x10) 1 0) || (getLane s l).retest ||
    (decide (64 ≤ l) && linkRuns s (l / 16) && (linkExcluded s (l / 16)).contains (l % 16))

def viewLan (s : State) (l i : Nat) (held : Nat) : Nat :=
  let x := getLane s l
  let n := l / 16
  if i = 4 then
    packF [(0, busyBit s (102 + l)), (1, b2n (laneFree s l)), (2, b2n (s.pwr.laneLock.contains (l / 4))), (3, b2n x.cdr),
      (4, b2n (linkRuns s n && (usedLanes s n).contains (l % 16))), (5, b2n (linkRuns s n && (linkExcluded s n).contains (l % 16))),
      (6, b2n x.scanning), (7, b2n (patternRuns s l)), (8, b2n x.retest)]
  else if i = 8 ∨ i = 0xC then
    let t := fun (k : Nat) => tabGet 0 (tapsNow s l) k
    let b := if i = 8 then 0 else 4
    packF [(0, t b), (8, t (b + 1)), (16, t (b + 2)), (24, t (b + 3))]
  else if i = 0x1C then putBits held 1 1 (b2n x.locked)
  else if 0x800 ≤ i ∧ i < 0x1000 then
    let k := (i - 0x800) / 4
    if k < regField s (oLan l 0x28) 9 0 then (x.points.getD k 0).toNat else 0
  else held

/-- What a read of BAR0 offset `off`, word aligned, returns on a path (R433, R434, R437, R445). -/
def readReg (s : State) (path off : Nat) : Word :=
  match blkAt off with
  | none => 0
  | some (b, i) =>
    let held := match rowAt b i with
      | some r => if r.acc = .wo then 0 else (regGet s (canonOff off)).toNat
      | none => 0
    BitVec.ofNat 32 (match b with
      | .glb => viewGlb s i
      | .flt => viewFlt s i held
      | .pwr => viewPwr s i held
      | .thm => viewThm s i held
      | .fus => viewFus s i held
      | .tly => viewTly s i held
      | .bst => viewBst s i held
      | .sec => if i = 0 then viewSec s else 0
      | .grd => viewGrd s path i held
      | .rng _ => 0
      | .flm f => viewFlm s f i held
      | .mil m => viewMil s m i held
      | .hpt h => viewHpt s h i held
      | .lett k => viewLet s k i held
      | .lan l => viewLan s l i held)

end Sys2Proof.Machine
end

