-- ==== Sys2Proof/Machine/RegAccess.lean ====
section
/-! DEFINITION. Register accesses (19, 20): shape, posting and taking of writes, field classes, sequence write-backs, the mailboxes
and the config guard. -/

namespace Sys2Proof.Machine

/-! The config guard (R448 to R452). -/

/-- GRD_HOLD: bit 0 sets or clears the hold of the writing path (R449, R450). -/
def takeHold (s : State) (path v : Nat) : State :=
  let a := s.acc
  if bitOf v 0 then
    { s with acc := { a with hold := insertNat path a.hold, heldSince := if a.hold.isEmpty then s.now else a.heldSince } }
  else { s with acc := { a with hold := a.hold.filter (· != path) } }

/-- GRD_CMD.commit: a holding path starts the commit sweep (R449). -/
def takeCommit (s : State) (path : Nat) : State :=
  if !s.acc.hold.contains path then accessFault s path 8 (oGrd 4)
  else if s.acc.committing then accessFault s path 4 (oGrd 4)
  else { s with acc := { s.acc with committing := true } }

/-- The comparing sweeps run from the end of start-up step 7 (R451). -/
def guardRuns (s : State) : Bool := decide (8 ≤ s.boot.step) || s.boot.linkEn

/-- A comparison that matches quiets the line, one that differs raises it and counts (R449, GRD_STATUS). -/
def guardCompare (s : State) (crc : Nat) : State :=
  if crc = s.acc.ref then setLine { s with acc := { s.acc with mismatch := false } } 7 0 false
  else
    let was := (getSource s (srcKey 7 0)).line
    let s1 := scEvent { s with acc := { s.acc with mismatch := true } } (oGrd 0x18) fun v => bumpBits v 23 16
    let s2 := setLine s1 7 0 true
    if was then s2 else event s2 7 0 2 0 0

/-- GUARD_HOLD (R449). -/
def execGuardHold (path : Nat) (v : Word) (s : State) : Answer :=
  onElement (okPath path) (.next (if pathOpen s path then takeHold s path v.toNat else s))

/-- GUARD_COMMIT (R449). -/
def execGuardCommit (path : Nat) (s : State) : Answer :=
  onElement (okPath path) (.next (if pathOpen s path then takeCommit s path else s))

/-- GUARD_COMMIT_DONE (R449). -/
def execGuardCommitDone (s : State) : Answer :=
  .next (if s.acc.committing then
    let crc := guardCrc s
    { s with acc := { s.acc with committing := false, ref := crc, last := crc } } else s)

/-- GUARD_SWEEP (R448, R449): no comparison while held. -/
def execGuardSweep (s : State) : Answer :=
  .next (if guardRuns s then
    let crc := guardCrc s
    let s1 := { s with acc := { s.acc with last := crc } }
    if s.acc.hold.isEmpty then guardCompare s1 crc else s1
  else s)

/-- GUARD_HOLD_EXPIRY (R450). -/
def execGuardHoldExpiry (s : State) : Answer :=
  let ms := max 1 (regField s (oGrd 0x14) 15 0)
  .next (if !s.acc.hold.isEmpty && decide (ms * 1000000 < s.now - s.acc.heldSince) then
    event (scEvent { s with acc := { s.acc with hold := [] } } (oGrd 0x18) fun v => putBits v 0 0 1) 7 0 2 0 0
  else s)

/-! The mailboxes (R445 to R447). -/

def setMailbox (s : State) (path : Nat) (m : Mailbox) : State :=
  { s with acc := { s.acc with mailboxes := tabSet mailboxInit s.acc.mailboxes path m } }

/-- MBX_SEL: valid clears and a capture starts, abandoning one that runs (R445). -/
def takeSelect (s : State) (path : Nat) (v : Word) : State := setMailbox s path ⟨v, false, true, 0, []⟩

/-- The first-cause record as 16 bytes, a number (R428). -/
def firstRecord (x : Source) : Nat :=
  match x.first with
  | none => 0
  | some (tick, unit, sev, count, detail) => packF [(0, tick % 2 ^ 64), (64, unit % 2 ^ 32), (96, sev), (104, count), (112, detail % 65536)]

/-- PRBS counter `i` of a lane (R246). -/
def prbsCount (s : State) (l i : Nat) : Nat :=
  let x := getLane s l
  natAt [x.compared, x.real, x.seen, x.missed] i

/-- Lifetime counter `i`: 0 powered, 1 weighted, 2 hard faults, 3 to 7 the consumed counts (R354). -/
def lifetimeCount (s : State) (i : Nat) : Nat := tabGet 0 (lifeOf s).counters i

/-- A capture's outcome: a number of 128 bits, or err 1 for a bad selector, 2 for a tally copy that fails its check (R446, R447). -/
inductive Capture where
  | value (v : Nat)
  | badSelector
  | badCopy
  deriving DecidableEq, Repr

/-- Entry or header of a copy of a soft-repair record (R446, R458). -/
def softValue (c : Copy SoftRec) (i : Nat) : Nat :=
  let l := softBytes c
  if i = 0 then fieldLe l 0x2004 2 + fieldLe l 0x2000 4 * 2 ^ 32 else fieldLe l (8 * (i - 1)) 8

/-- What a selector captures. -/
def captureOf (s : State) (sel : Word) (tallyOk : Bool) : Capture :=
  let i := bits sel.toNat 23 16
  let j := bits sel.toNat 15 0
  let within (ok : Bool) (v : Nat) : Capture := if ok then .value v else .badSelector
  match bits sel.toNat 31 24 with
  | 0x01 => within (decide (i = 0 ∧ j = 0)) (bitMask 64 (groupLatched s))
  | 0x02 => within (decide (i < 64 ∧ j < 16)) ((getSource s (srcKey i j)).total % 2 ^ 64)
  | 0x03 => within (decide (i < 64 ∧ j < 16)) (firstRecord (getSource s (srcKey i j)))
  | 0x10 => within (decide (i < 32 ∧ j < 9)) (tabGet 0 (getFlume s i).totals j % 2 ^ 64)
  | 0x11 => within (decide (i < 32 ∧ j < 32)) (remapEntry (getFlume s i) j)
  | 0x12 =>
    if 32 ≤ i ∨ 1024 < j then .badSelector
    else
      match (tabGet none s.tally.soft i).bind bestOf with
      | some c => if tallyOk then .value (softValue c j) else .badCopy
      | none => .badCopy
  | 0x20 => within (decide (i < 96 ∧ j < 4)) (prbsCount s i j)
  | 0x30 => within (decide (i < 32 ∧ j < 4)) (tabGet 0 (getMill s i).target j % 65536 + tabGet 0 (getMill s i).raises j % 256 * 65536)
  | 0x40 => within (decide (i = 0 ∧ j < 3)) (natAt [ownId s, s.leat.partnerId, (lifeOf s).startups] j % 2 ^ 64)
  | 0x41 => if i ≠ 0 ∨ 8 ≤ j then .badSelector else if tallyOk && (s.tally.life.bind bestOf).isSome then .value (lifetimeCount s j % 2 ^ 64) else .badCopy
  | _ => .badSelector

/-- The area of the tally store a selector reads. -/
def captureArea (sel : Word) : Nat := if bits sel.toNat 31 24 = 0x12 then 3 else 7

/-- MAILBOX_SELECT (R445). -/
def execMailboxSelect (path : Nat) (v : Word) (s : State) : Answer :=
  onElement (okPath path) (.next (if pathOpen s path then takeSelect s path v else s))

/-- MAILBOX_CAPTURE_DONE (R445 to R447). -/
def execMailboxCaptureDone (path : Nat) (tallyOk : Bool) (s : State) : Answer :=
  onElement (okPath path) <|
    let m := mailboxOf s path
    if !m.busy then .next s
    else
      match captureOf s m.sel tallyOk with
      | .value v =>
        let words := (List.range 4).map fun k => BitVec.ofNat 32 (bits v (32 * k + 31) (32 * k))
        .next (setMailbox s path { m with valid := true, busy := false, data := words })
      | .badSelector => .next (setMailbox s path { m with busy := false, err := 1 })
      | .badCopy =>
        let area := captureArea m.sel
        .next (checkFail (setMailbox s path { m with busy := false, err := 2 }) area)

/-! Writes as blocks take them (R439 to R443). -/

/-- The block is stopped for its Held fields: a pair that is disabled (R189), a free lane with no test (R251). -/
def heldOpen (s : State) (b : Blk) (i : Nat) : Bool :=
  match b with
  | .hpt h => decide (0x1000 ≤ i) && decide ((getPair s (64 * h + (i - 0x1000) / 0x40)).state = 0)
  | .lan l => laneFree s l && !(getLane s l).retest
  | _ => false

/-- A word written to a register by its row's access and classes; true where a Held field was not open (R434, R439 to R442). -/
def classWrite (s : State) (b : Blk) (i off : Nat) (v : Word) : State × Bool :=
  match rowAt b i with
  | none => (s, false)
  | some r =>
    let old := (regGet s off).toNat
    match r.acc with
    | .ro => (s, false)
    | .wo => (s, false)
    | .sc => (scClear s off r.clr v, false)
    | .rwm => (regSet s off (BitVec.ofNat 32 (maskedValue old v.toNat (r.live ||| r.staged))), false)
    | .rw =>
      let stopped := heldOpen s b i
      let m := r.live ||| r.staged ||| (if stopped then r.held else 0)
      (regSet s off (BitVec.ofNat 32 ((old &&& (0xFFFFFFFF ^^^ m)) ||| (v.toNat &&& m))), decide (0 < r.held) && !stopped)

/-- FLT_SRC_CFG: N and w of the selected source; undefined sources ignore it, fixed ones log it (R420, R424). -/
def takeSrcCfg (s : State) (path v : Nat) : State :=
  let (g, j) := selSource s
  if (sourceDefault g j).isNone then s
  else if sourceFixed g j then accessFault s path 6 (oFlt 0x24)
  else modSource s (srcKey g j) fun x => { x with nSet := bits v 7 0 + 1, wSet := bits v 13 8 + 1 }

/-- A word of the staged training window: the held flume takes the fields that exist (R295, R301, R311). -/
def takeStaged (s : State) (f k : Nat) (v : Word) : State × Bool :=
  if 378 ≤ k then (s, false)
  else if !(getFlume s f).held then (s, true)
  else
    match selBay s f with
    | none => (s, false)
    | some b => (modBay s b fun x => { x with staged := tabSet 0 x.staged k (BitVec.ofNat 32 (v.toNat &&& wordMask k)) }, false)

/-- PWR_CTL: with seq_en 0, states already entered are woken. -/
def followSequencer (s : State) : State :=
  if bitOf (regGet s (oPwr 0)).toNat 0 then s
  else wakeDevice (forAll s ((upFrom 0 32).filter fun f => decide (2 ≤ (getFlume s f).pstate) || (getFlume s f).entering.isSome) wakeFlume)

/-- LAN_CTL: a rising dfe_freeze holds the taps and a falling one lets them adapt from there (R239); a lane taken out is not tested, and
one whose excl_req is cleared takes part at the next Recovery (R247). -/
def takeLanCtl (s : State) (l v : Nat) : State :=
  let o := oLan l 0
  let old := (regGet s o).toNat
  let new := maskedValue old v 3
  let s1 := if bitOf new 1 && !bitOf old 1 then holdTaps s l
    else if bitOf old 1 && !bitOf new 1 then modLane s l fun x => { x with adaptAt := s.now } else s
  let s2 := regSet s1 o (BitVec.ofNat 32 new)
  if bitOf new 0 then modLane s2 l fun x => { x with retest := false, rejoin := false }
  else if bitOf old 0 && (linkExcluded s (l / 16)).contains (l % 16) then modLane s2 l fun x => { x with rejoin := true }
  else s2

/-- LET_CTL: with port_en 0 the port is directed to Disabled. -/
def takeLetCtl (s : State) (k v : Nat) : State :=
  let o := oLet k 0
  let s1 := regSet s o (BitVec.ofNat 32 (maskedValue (regGet s o).toNat v 3))
  if !bitOf (regGet s1 o).toNat 0 && portAlive (getPort s1 k) then portDown s1 k else s1

/-- One word of a write as its block takes it; true where a Held field was written while its block was not stopped. -/
def takeWord (s : State) (path off : Nat) (v : Word) (loop : LoopRes) : State × Bool :=
  match blkAt off with
  | none => (s, false)
  | some (b, i) =>
    let o := canonOff off
    let plain := classWrite s b i o v
    let n := v.toNat
    match b with
    | .flt => if i = 0x30 then (takeFltClear s n, false) else if i = 0x24 then (takeSrcCfg s path n, false) else plain
    | .grd =>
      if i = 0 then (takeHold s path n, false)
      else if i = 4 then (if bitOf n 0 then takeCommit s path else s, false)
      else if i = 0x100 then (takeSelect s path v, false)
      else plain
    | .rng p =>
      (if i = 0 then doorbell s path p fun s => takeTail s p (n % 65536)
       else if i = 4 then doorbell s path p fun s => takeHead s p (n % 65536) else s, false)
    | .pwr => if i = 0x20 then (takeRunReq s n, false) else if i = 0 then (followSequencer plain.1, false) else plain
    | .fus => if i = 0xC then (takeFusCmd s n, false) else plain
    | .flm f =>
      if i = 0 then (takeFlmCtl s f n, false)
      else if i = 0x70 then
        (if bitOf (regGet plain.1 o).toNat 0 then plain.1 else modFlume plain.1 f fun x => { x with tracker := [] }, false)
      else if i = 0x50 then (updateWeir plain.1 f, false)
      else if i = 0x130 then (takeMapApply s path f n, false)
      else if i = 0x140 then (takeTrnCtl s path f n, false)
      else if i = 0x148 then (takeTrnCmd s f n loop, false)
      else if 0x2000 ≤ i ∧ i < 0x2600 then takeStaged s f ((i - 0x2000) / 4) v
      else plain
    | .mil m => if i = 0 then (takeMilCtl s m n, false) else plain
    | .hpt h => if 0x1000 ≤ i ∧ i < 0x2000 ∧ i % 0x40 = 0x14 then (takeRngCmd s (64 * h + (i - 0x1000) / 0x40) n, false) else plain
    | .lett k =>
      if i = 0 then (takeLetCtl s k n, false)
      else if k = 0 ∧ 0x8000 ≤ i ∧ i < 0x9000 then (takePage s path ((i - 0x8000) / 4) v, false)
      else plain
    | .lan l =>
      if i = 0 then (takeLanCtl s l n, false)
      else if i = 0x10 then (if heldOpen s b i then (takePrbsCtl s l n, false) else (s, true))
      else if i = 0x24 then (takeScanCmd s l n, false)
      else plain
    | _ => plain

/-- The words of a write in ascending order; a Held field that was not open is logged once for the write (R432, R442). -/
def takeWords (s : State) (path off : Nat) (ws : List Word) (loop : LoopRes) : State :=
  let r := ws.zipIdx.foldl (fun (a : State × Bool) e =>
    let b := takeWord a.1 path (off + 4 * e.2) e.1 loop
    (b.1, a.2 || b.2)) (s, false)
  if r.2 then accessFault r.1 path 5 off else r.1

/-! Arrival of a write (R432, R435, R436). -/

/-- The access-fault kind of a write's shape, none where it is served (R432; log 60 for two words not 8-byte aligned). -/
def writeShape (off n : Nat) : Option Nat :=
  if n < 4 ∧ off % 4 + n ≤ 4 then some 1
  else if off % 4 ≠ 0 ∨ n % 4 ≠ 0 then some 2
  else if n = 4 then none
  else if n = 8 then (if off % 8 = 0 then none else some 2)
  else some 3

/-- The words of a write's bytes. -/
def wordsOf (data : List Byte) : List Word := (List.range (data.length / 4)).map fun k => BitVec.ofNat 32 (leNat (slice data (4 * k) 4))

/-- A write that is served arrives at its block: the AUX blocks take it at once, the others post it. -/
def arriveWrite (s : State) (path off : Nat) (ws : List Word) (env : StartEnv) : State :=
  match blkAt off with
  | none => s
  | some (.glb, _) =>
    ws.zipIdx.foldl (fun s e => if (off + 4 * e.2) % 0x1000 = 8 then takeReset s path e.1.toNat env else s) s
  | some (b, i) =>
    match busyOf b i with
    | none => takeWords s path off ws ⟨[], []⟩
    | some port =>
      if busy s port then accessFault s path 4 off
      else
        let s1 := { s with acc := { s.acc with posted := tabSet none s.acc.posted port (some ⟨path, off, ws⟩) } }
        if portAwake s port then s1 else wakePort s1 port

/-- A write of bytes at a BAR0 offset on a path. -/
def writeAccess (s : State) (path off : Nat) (data : List Byte) (env : StartEnv) : State :=
  if !pathOpen s path || data.isEmpty then s
  else
    match writeShape off data.length with
    | some kind => accessFault s path kind off
    | none => arriveWrite s path off (wordsOf data) env

/-- REGISTER_WRITE (R432 to R436). -/
def execRegisterWrite (path off : Nat) (data : List Byte) (env : StartEnv) (s : State) : Answer :=
  onElement (okPath path) (.next (writeAccess s path off data env))

/-- POSTED_WRITE_TAKEN (R436, R442): the block's domain is in Run; busy clears, and a command may keep it set. -/
def execPostedWriteTaken (block : Nat) (loop : LoopRes) (s : State) : Answer :=
  onElement (decide (block < 204)) <|
    match tabGet none s.acc.posted block with
    | none => .next s
    | some p =>
      if portAwake s block then
        .next (takeWords { s with acc := { s.acc with posted := tabSet none s.acc.posted block none } } p.path p.off p.words loop)
      else .next s

/-- The GLB and FUS blocks, which answer reads when nothing else does (R359, R364). -/
def openBlock (off : Nat) : Bool := decide (off < 0x10000) || decide (0x40000 ≤ off ∧ off < 0x50000)

/-- A register read of a path reaches the map: as a write does; GLB and FUS also on the sideband from start-up step 2, and through a
head whose link is up (R359, R364). -/
def readOpen (s : State) (path : Nat) (off : Nat) : Bool :=
  pathOpen s path || (openBlock off &&
    (if path = 4 then decide (2 ≤ s.boot.step) else (getHead s path).linkUp && !(getHead s path).d3hot))

/-- A word read on a path; 0 where only GLB and FUS answer. -/
def readVia (s : State) (path off : Nat) : Word := if readOpen s path off then readReg s path off else 0

/-- The bytes of the whole words of an access, lower address first. -/
def wordBytes (s : State) (path off n : Nat) : List Byte :=
  ((List.range n).map fun k => leBytes 4 (readVia s path (off + 4 * k)).toNat).flatten

/-- A read of `n` bytes at a BAR0 offset (R432): whether it is served, and its bytes. Part of a word returns the whole word; a read not
confined to whole aligned words is dropped and logged. -/
def readAccess (s : State) (path off n : Nat) : State × Bool × List Byte :=
  if n < 4 ∧ off % 4 + n ≤ 4 then (s, true, wordBytes s path (off - off % 4) 1)
  else if off % 4 ≠ 0 ∨ n % 4 ≠ 0 ∨ (n = 8 ∧ off % 8 ≠ 0) then (accessFault s path 2 off, false, List.replicate n 0)
  else (s, true, wordBytes s path off (n / 4))

/-- REGISTER_READ_TIMEOUT (R437): only a read that crosses into a block with a busy bit can time out. -/
def execRegisterReadTimeout (path off : Nat) (s : State) : Answer :=
  onElement (okPath path) <|
    match (blkAt off).bind fun e => busyOf e.1 e.2 with
    | some _ => .next (if readOpen s path off then accessFault (emit s (.ucr path 0xFFFFFFFF)) path 7 off else s)
    | none => .next s

/-- SEQUENCE_WRITE_BACK (R440). -/
def execSequenceWriteBack (path off : Nat) (v : Word) (s : State) : Answer :=
  onElement (okPath path) <|
    match blkAt off with
    | none => .next s
    | some (b, i) =>
      match rowAt b i with
      | none => .next s
      | some r =>
        if r.acc ≠ .sc then .next s
        else
          match busyOf b i with
          | none => .next (if pathOpen s path then scClear s (canonOff off) r.clr v else s)
          | some port => .next (writeNow s path off port v.toNat fun s => scClear s (canonOff off) r.clr v)

end Sys2Proof.Machine
end

