-- ==== Sys2Proof/Machine/Sideband.lean ====
section
/-! DEFINITION. The I3C sideband's targets and framing (R459 to R461), and the hourly lifetime counters (R354). -/

namespace Sys2Proof.Machine

/-- A target, 0 registers and 1 MCTP, holds a dynamic address. -/
def addressed (s : State) (target : Nat) : Bool := tabGet 0 s.side.addr target != 0

/-- The targets work from start-up step 2 (R359, R459). -/
def sidebandUp (s : State) : Bool := decide (2 ≤ s.boot.step)

/-- The Provisioned ID of a target (R459). -/
def provisionedId (s : State) (target : Nat) : Nat :=
  Config.manufacturerId.toNat * 2 ^ 33 + 2 ^ 32 + (s.leat.nonce.toNat ^^^ target)

/-- ENTDAA (R459): an unaddressed target sends its Provisioned ID and takes the address. -/
def execEntdaa (target addr : Nat) (s : State) : Answer :=
  onElement (decide (target < 2) && decide (addr < 128)) <|
    if sidebandUp s && !addressed s target then
      .next (emit { s with side := { s.side with addr := tabSet 0 s.side.addr target (addr + 1) } }
        (.sideband (0x100 + target) (leBytes 6 (provisionedId s target))))
    else .next s

/-- HOT_JOIN (R459). -/
def execHotJoin (target : Nat) (s : State) : Answer :=
  onElement (decide (target < 2)) (.next (if sidebandUp s && !addressed s target then emit s (.hotJoin target) else s))

/-- TARGET_RESET_PATTERN (R459): the targets alone are reset. -/
def execTargetResetPattern (s : State) : Answer := .next { s with side := ⟨[], none⟩ }

/-- A private write the register target cannot frame: logged, kind 2, with ACC_ADDR 0 (R460). -/
def framingError (s : State) : State := accessFault s 4 2 0

/-- Offset and words of a private write, none where its framing is wrong (R460). -/
def frameOf (data : List Byte) : Option (Nat × Nat) :=
  let op := fieldLe data 0 1
  let off := fieldLe data 1 4
  let words := fieldLe data 5 1
  let size := if op = 1 then 6 + 4 * words else 6
  if (op = 1 ∨ op = 2) ∧ off < 2 ^ 25 ∧ 1 ≤ words ∧ words ≤ 16 ∧ data.length = size then some (off, words) else none

/-- A read set-up: an access of 4 x words bytes, kept with its status for one private read (R460, R461). -/
def setUpRead (s : State) (off words : Nat) : State :=
  let r := readAccess s 4 off (4 * words)
  { r.1 with side := { r.1.side with setup := some (b2n !r.2.1, r.2.2) } }

/-- A private write to the register target (R460). -/
def privateWrite (s : State) (data : List Byte) (write : Nat → State) : State :=
  if !sidebandUp s || !addressed s 0 then s
  else
    match frameOf data with
    | none => framingError s
    | some (off, words) => if fieldLe data 0 1 = 1 then write off else setUpRead s off words

/-- SIDEBAND_WRITE (R460): an access of 4 x words bytes on path 4. -/
def execSidebandWrite (data : List Byte) (env : StartEnv) (s : State) : Answer :=
  .next (privateWrite s data fun off => writeAccess s 4 off (data.drop 6) env)

/-- SIDEBAND_READ_SETUP (R460): its op is 0x02. -/
def execSidebandReadSetup (data : List Byte) (s : State) : Answer :=
  .next (privateWrite s data fun _ => s)

/-- SIDEBAND_READ (R461): the status byte and as many of the data words as the bus takes; one answer for each set-up. -/
def execSidebandRead (words : Nat) (s : State) : Answer :=
  .next (if !sidebandUp s || !addressed s 0 then s
    else
      match s.side.setup with
      | none => emit s (.sideband 2 [])
      | some (st, data) => emit { s with side := { s.side with setup := none } } (.sideband st (data.take (4 * words))))

/-! Lifetime counters (R354). -/

/-- The largest number of `k` bits, from `lo` up, whose 40th power is at most 2 to the power `e`: floor of 2 to the power e / 40. -/
def rootSearch (e : Nat) : Nat → Nat → Nat
  | 0, lo => lo
  | k + 1, lo => rootSearch e k (if (lo + 2 ^ k) ^ 40 ≤ 2 ^ e then lo + 2 ^ k else lo)

/-- 65,536 x 2 to the power (T - 70) / 10, for T in quarter degrees, rounded down (R354; log 61). -/
def hourWeight (t : Int) : Nat := if 360 + t < 0 then 0 else rootSearch (360 + t).toNat 32 0

/-- The hour's mean of the hottest effective tier temperature, in quarter degrees, rounded down. -/
def hourMean (s : State) : Int := s.thm.hotSum / (max 1 s.thm.hotN : Nat)

/-- LIFETIME_COUNTER_UPDATE (R354): the eight counters, unless the record write fails. -/
def execLifetimeCounterUpdate (ok : Bool) (s : State) : Answer :=
  let s1 := { s with thm := { s.thm with hotSum := 0, hotN := 0 } }
  if !ok then .next (tallyFail s1 7)
  else
    let l := (lifeOf s).counters
    let weight := if s.thm.hotN = 0 then 0 else hourWeight (hourMean s)
    let base := tabMod 0 (tabMod 0 (tabMod 0 l 0 fun n => (n + 1) % 2 ^ 64) 1 fun n => (n + weight) % 2 ^ 64) 2
      fun n => (n + s.bist.hard) % 2 ^ 64
    let all := (List.range 5).foldl (fun t c => tabSet 0 t (3 + c) (consumed s c)) base
    .next (putLife { s1 with bist := { s1.bist with hard := 0 } } { lifeOf s with counters := all })

end Sys2Proof.Machine
end

