-- ==== Sys2Proof/Machine/Responder.lean ====
section
/-! DEFINITION. Attestation by SPDM on the heads' DOE mailboxes and on I3C (R227, R366 to R369), Discovery and CDAT (R227, R228), and
the primary mailbox (R229). -/

namespace Sys2Proof.Machine

/-! SPDM. Response codes and field layouts are those of SPDM 1.2 (log 62). -/

/-- Responder `r` can be asked: head `r` with its link up, or the MCTP target from the end of start-up step 3 (R359, R459). -/
def canAsk (s : State) (r : Nat) : Bool :=
  if r < 4 then (getHead s r).linkUp else addressed s 1 && decide (4 ≤ s.boot.step)

/-- A response of responder `r`; on a head it stands in the DOE mailbox (R227). -/
def answer (s : State) (r code : Nat) (data : List Byte) : State :=
  emit (if r < 4 then modHead s r fun x => { x with doeBusy := true } else s) (.spdm r code data)

/-- ERROR with a code: 1 InvalidRequest, 7 UnsupportedRequest. -/
def spdmError (s : State) (r code : Nat) : State := answer s r 0x7F [BitVec.ofNat 8 code, 0]

/-- The capability flags: certificates, challenges and signed measurements with an identity, else unsigned measurements (R369). -/
def capFlags (s : State) : Nat := if s.boot.identity then 0x16 else 0x08

/-- The certificate chain of slot 0: one self-signed certificate (R367). -/
def certChain (s : State) : List Byte :=
  let c := Config.certificate (identityPublic s.fuses) (fuseDeviceId s.fuses)
  leBytes 2 (52 + c.length) ++ [0, 0] ++ sha384 c ++ c

/-- A signature with the identity key: a free value. -/
def signedBytes (s : State) : List Byte := leBytes 96 (Config.signature s.freeCtr).toNat

/-- Content of a measurement block (R368). -/
def measureContent (s : State) (i : Nat) : List Byte :=
  match i with
  | 1 => leBytes 4 partNumber ++ leBytes 1 s.fuses.lc ++ leBytes 2 (bits (viewFus s 0 0) 23 9)
  | 2 => fuseKeyHash s.fuses
  | 3 => ((List.range 32).map fun m => if (getMill s m).hash.isEmpty then List.replicate 48 0 else (getMill s m).hash).flatten ++
      leBytes 4 (minSec s)
  | 4 => leBytes 8 (sealWord s.fuses 3) ++ leBytes 8 (sealWord s.fuses 4) ++ leBytes 8 (sealWord s.fuses 5)
  | _ => leBytes 1 (b2n s.bist.startupFull) ++ leBytes 1 s.boot.cause

/-- Type of a measurement block (R368): 0 immutable ROM, 1 firmware, 2 hardware configuration, 3 firmware configuration. -/
def measureType (i : Nat) : Nat := natAt [2, 2, 0, 1, 3, 2] i

/-- A measurement block with its index, type and length. -/
def measureBlock (s : State) (i : Nat) : List Byte :=
  let c := measureContent s i
  leBytes 1 i ++ leBytes 1 (measureType i) ++ leBytes 2 c.length ++ c

/-- The answer to GET_VERSION: version 1.2. -/
def sayVersion (s : State) (r : Nat) : State := answer s r 0x04 (leBytes 2 0x1200)

def sayCapabilities (s : State) (r : Nat) : State := answer s r 0x61 (leBytes 4 (capFlags s))

/-- ECDSA P-384 with SHA-384 alone, where the requester offers it. -/
def sayAlgorithms (s : State) (r : Nat) (offers : Bool) : State :=
  answer s r 0x63 (if offers then leBytes 4 0x80 ++ leBytes 4 2 else leBytes 4 0 ++ leBytes 4 0)

def sayDigests (s : State) (r : Nat) : State :=
  if s.boot.identity then answer s r 0x01 (1 :: sha384 (certChain s)) else spdmError s r 7

/-- A portion of the chain and what is left of it; the other slots are empty (R367). -/
def sayCertificate (s : State) (r slot off len : Nat) : State :=
  if !s.boot.identity then spdmError s r 7
  else if slot ≠ 0 ∨ (certChain s).length ≤ off then spdmError s r 1
  else
    let p := slice (certChain s) off len
    answer s r 0x02 (leBytes 2 p.length ++ leBytes 2 ((certChain s).length - off - p.length) ++ p)

/-- The digest of the chain, a nonce, and a signature over the exchange, which covers the requester's nonce. -/
def sayChallenge (s : State) (r slot : Nat) : State :=
  if !s.boot.identity then spdmError s r 7
  else if slot ≠ 0 then spdmError s r 1
  else bumpFree (answer s r 0x03 (sha384 (certChain s) ++ leBytes 32 (Config.responderNonce s.freeCtr).toNat ++ signedBytes s))

/-- Operation 0 asks for the number of blocks, 1 to 5 for one, 255 for all. -/
def sayMeasurements (s : State) (r op : Nat) (sign : Bool) : State :=
  if sign && !s.boot.identity then spdmError s r 7
  else
    let n := leBytes 32 (Config.responderNonce s.freeCtr).toNat
    let tail := if sign then n ++ signedBytes s else n
    if op = 0 then bumpFree (answer s r 0x60 ([5] ++ tail))
    else if op ≤ 5 then bumpFree (answer s r 0x60 (measureBlock s op ++ tail))
    else if op = 255 then bumpFree (answer s r 0x60 (((upFrom 1 5).map (measureBlock s)).flatten ++ tail))
    else spdmError s r 1

/-- KEY_EXCHANGE and session messages (R227). -/
def refuseSession (s : State) (r : Nat) : State := spdmError s r 7

/-- A request of responder `r`, where it can be asked. -/
def ask (s : State) (r : Nat) (say : State → State) : Answer :=
  onElement (decide (r < 5)) (.next (if canAsk s r then say s else s))

/-- GET_VERSION (R227). -/
def execGetVersion (rsp : Nat) (s : State) : Answer := ask s rsp fun s => sayVersion s rsp
/-- GET_CAPABILITIES (R227, R369). -/
def execGetCapabilities (rsp : Nat) (s : State) : Answer := ask s rsp fun s => sayCapabilities s rsp
/-- NEGOTIATE_ALGORITHMS (R227). -/
def execNegotiateAlgorithms (rsp : Nat) (offers : Bool) (s : State) : Answer := ask s rsp fun s => sayAlgorithms s rsp offers
/-- GET_DIGESTS (R227, R369). -/
def execGetDigests (rsp : Nat) (s : State) : Answer := ask s rsp fun s => sayDigests s rsp
/-- GET_CERTIFICATE (R367, R369). -/
def execGetCertificate (rsp slot off len : Nat) (s : State) : Answer := ask s rsp fun s => sayCertificate s rsp slot off len
/-- CHALLENGE (R227, R369). -/
def execChallenge (rsp slot : Nat) (_nonce : BitVec 256) (s : State) : Answer := ask s rsp fun s => sayChallenge s rsp slot
/-- GET_MEASUREMENTS (R368, R369). -/
def execGetMeasurements (rsp op : Nat) (signed : Bool) (_nonce : BitVec 256) (s : State) : Answer :=
  ask s rsp fun s => sayMeasurements s rsp op signed
/-- KEY_EXCHANGE and every session message (R227). -/
def execKeyExchange (rsp : Nat) (s : State) : Answer := ask s rsp fun s => refuseSession s rsp

/-- MCTP_MESSAGE (R459): SPDM over I3C. -/
def execMctpMessage (msg : SpdmReq) (s : State) : Answer :=
  ask s 4 fun s =>
    match msg with
    | .version => sayVersion s 4
    | .capabilities => sayCapabilities s 4
    | .algorithms offers => sayAlgorithms s 4 offers
    | .digests => sayDigests s 4
    | .certificate slot off len => sayCertificate s 4 slot off len
    | .challenge slot _ => sayChallenge s 4 slot
    | .measurements op signed _ => sayMeasurements s 4 op signed
    | .session => refuseSession s 4

/-! DOE (R227, R228). -/

/-- A DOE answer of a head whose link is up. -/
def doeAnswer (s : State) (h type : Nat) (data : List Nat) : State :=
  if (getHead s h).linkUp then emit (modHead s h fun x => { x with doeBusy := true }) (.doe h type data) else s

/-- DOE_ABORT (R227): that head's data object is discarded. -/
def execDoeAbort (h : Nat) (s : State) : Answer :=
  onElement (okHead h) (.next (if (getHead s h).linkUp then modHead s h fun x => { x with doeBusy := false } else s))

/-- DOE_DISCOVERY (R227): vendor, type and next index of Discovery, CMA/SPDM and table access. -/
def execDoeDiscovery (h index : Nat) (s : State) : Answer :=
  onElement (okHead h) (.next (doeAnswer s h 0 (match index with
    | 0 => [1, 0, 1]
    | 1 => [1, 1, 2]
    | 2 => [0x1E98, 2, 0]
    | _ => [0xFFFF, 0, 0])))

/-- The four entries of the CDAT (R228): type, handle and values; 512 GiB, 120 ns, 128 GB/s, EFI conventional memory. -/
def cdatEntry (i : Nat) : List Nat :=
  match i with
  | 0 => [0, 0, 0, 0, 2 ^ 39]
  | 1 => [1, 0, 0, 120]
  | 2 => [1, 0, 3, 128]
  | 3 => [4, 0, 0, 0, 2 ^ 39]
  | _ => []

/-- CDAT_READ (R228). -/
def execCdatRead (h entry : Nat) (s : State) : Answer := onElement (okHead h) (.next (doeAnswer s h 2 (cdatEntry entry)))

/-! The primary mailbox (R229). Return codes 0 Success, 2 Invalid Input, 3 Unsupported, 14 Invalid Handle. -/

/-- The mailbox of a head answers: its link is up with CXL.mem, its function in D0 (R216, R224). -/
def mailAnswer (s : State) (h code : Nat) (data : List Nat) : State :=
  let x := getHead s h
  if x.linkUp && x.cxl && !x.d3hot then emit s (.mailbox h code data) else s

/-- Commands of R229 by opcode, with their effects as the CEL lists them. -/
def celEntries : List (Nat × Nat) :=
  [(0x0001, 0), (0x0100, 0), (0x0101, 0x10), (0x0102, 0), (0x0103, 0x08), (0x0300, 0), (0x0301, 0x08), (0x0400, 0), (0x0401, 0),
   (0x4000, 0), (0x4200, 0), (0x5500, 0)]

/-- The CEL's bytes. -/
def celBytes : List Nat := (celEntries.map fun e => [e.1 % 256, e.1 / 256, e.2 % 256, e.2 / 256]).flatten

/-- The event log a record belongs to: notices informational, severe faults failures, fatal ones fatal. -/
def logOf (e : EventRec) : Nat := if e.severity ≤ 1 then 0 else e.severity

/-- IDENTIFY (R229). -/
def execIdentify (h : Nat) (s : State) : Answer :=
  onElement (okHead h) (.next (mailAnswer s h 0 (((List.range 6).map fun k => (Config.identifyField k).toNat) ++ [3])))

/-- GET_SUPPORTED_LOGS (R229): the CEL alone, and its size. -/
def execGetSupportedLogs (h : Nat) (s : State) : Answer := onElement (okHead h) (.next (mailAnswer s h 0 [1, celBytes.length]))

/-- GET_LOG (R229): bytes of the CEL. -/
def execGetLog (h off len : Nat) (s : State) : Answer :=
  onElement (okHead h) (.next (if celBytes.length < off + len then mailAnswer s h 2 [] else mailAnswer s h 0 ((celBytes.drop off).take len)))

/-- GET_EVENT_RECORDS (R229). -/
def execGetEventRecords (h log : Nat) (s : State) : Answer :=
  onElement (okHead h) <|
    let es := (getHead s h).events.filter fun e => logOf e == log
    .next (if 4 ≤ log then mailAnswer s h 2 []
      else mailAnswer s h 0 ((es.map fun e => [e.handle, e.group, e.src, e.severity]).flatten))

/-- CLEAR_EVENT_RECORDS (R229): all named records, or none where a handle names none of the log. -/
def execClearEventRecords (h log : Nat) (handles : List Nat) (s : State) : Answer :=
  onElement (okHead h) <|
    let x := getHead s h
    let known := (x.events.filter fun e => logOf e == log).map EventRec.handle
    if !(x.linkUp && x.cxl && !x.d3hot) then .next s
    else if 4 ≤ log then .next (mailAnswer s h 2 [])
    else if handles.all known.contains then
      .next (mailAnswer (modHead s h fun x => { x with events := x.events.filter fun e => !(logOf e == log && handles.contains e.handle) }) h 0 [])
    else .next (mailAnswer s h 14 [])

/-- GET_EVENT_INTERRUPT_POLICY (R229). -/
def execGetEventInterruptPolicy (h : Nat) (s : State) : Answer :=
  onElement (okHead h) (.next (mailAnswer s h 0 [(getHead s h).policy.toNat]))

/-- A command that changes the head where its mailbox answers. -/
def mailChange (s : State) (h : Nat) (g : Head → Head) : State :=
  let x := getHead s h
  mailAnswer (if x.linkUp && x.cxl && !x.d3hot then modHead s h g else s) h 0 []

/-- SET_EVENT_INTERRUPT_POLICY (R229). -/
def execSetEventInterruptPolicy (h : Nat) (pol : Word) (s : State) : Answer :=
  onElement (okHead h) (.next (mailChange s h fun x => { x with policy := pol }))

/-- GET_HEALTH_INFO (R229, R353): life used, and the hottest effective tier temperature in degrees, 16 bits signed. -/
def execGetHealthInfo (h : Nat) (s : State) : Answer :=
  onElement (okHead h) (.next (mailAnswer s h 0 [100 - spareReserve s, sbits 16 (hottestTier s / 4)]))

/-- IDENTIFY_MEMORY_DEVICE (R229): total, volatile and persistent capacity in bytes, and the poison list, not supported. -/
def execIdentifyMemoryDevice (h : Nat) (s : State) : Answer :=
  onElement (okHead h) (.next (mailAnswer s h 0 [2 ^ 39, 2 ^ 39, 0, 0]))

/-- GET_MULTI_HEADED_INFO (R214, R229): heads, and logical devices per head. -/
def execGetMultiHeadedInfo (h : Nat) (s : State) : Answer := onElement (okHead h) (.next (mailAnswer s h 0 [4, 1]))

/-- The timestamp of a head: what was set and the time since, 0 before it is set. -/
def timestamp (s : State) (h : Nat) : Nat :=
  let x := getHead s h
  if x.stamp = 0 then 0 else (x.stamp.toNat + (s.now - x.stampAt)) % 2 ^ 64

/-- GET_TIMESTAMP (R229). -/
def execGetTimestamp (h : Nat) (s : State) : Answer := onElement (okHead h) (.next (mailAnswer s h 0 [timestamp s h]))

/-- SET_TIMESTAMP (R229). -/
def execSetTimestamp (h : Nat) (ts : BitVec 64) (s : State) : Answer :=
  onElement (okHead h) (.next (mailChange s h fun x => { x with stamp := ts, stampAt := s.now }))

/-- Any other command (R229). -/
def execUnsupportedMailboxCommand (h _opcode : Nat) (s : State) : Answer := onElement (okHead h) (.next (mailAnswer s h 3 []))

end Sys2Proof.Machine
end

