-- ==== Sys2Proof/Machine/Dispatch.lean ====
section
/-! DEFINITION. Every command's meaning, arm by arm. -/

namespace Sys2Proof.Machine

def exec (i : Instr) (s : State) : Host.Outcome State Fault Refusal :=
  match i with
  | .memRd h tag hpa meta0 ecc => Sys2Proof.Machine.execMemRd h tag hpa meta0 ecc s
  | .memRdFwd h tag hpa meta0 ecc => Sys2Proof.Machine.execMemRdFwd h tag hpa meta0 ecc s
  | .memSpecRd h hpa => Sys2Proof.Machine.execMemSpecRd h hpa s
  | .memInv h tag hpa => Sys2Proof.Machine.execMemInv h tag hpa s
  | .memWr h tag hpa data poison md ecc => Sys2Proof.Machine.execMemWr h tag hpa data poison md ecc s
  | .memWrFwd h tag hpa data poison md ecc => Sys2Proof.Machine.execMemWrFwd h tag hpa data poison md ecc s
  | .memWrPtl h tag hpa data mask poison md ecc => Sys2Proof.Machine.execMemWrPtl h tag hpa data mask poison md ecc s
  | .hdmDecoderCommit h idx base size ways gran skip lock commit => Sys2Proof.Machine.execHdmDecoderCommit h idx base size ways gran skip lock commit s
  | .requestAccept f port => Sys2Proof.Machine.execRequestAccept f port s
  | .scheduleCommand f sc gap => Sys2Proof.Machine.execScheduleCommand f sc gap s
  | .agePromotion f rid => Sys2Proof.Machine.execAgePromotion f rid s
  | .urgencyRise f rid => Sys2Proof.Machine.execUrgencyRise f rid s
  | .rowIdleClose f sc tier bank => Sys2Proof.Machine.execRowIdleClose f sc tier bank s
  | .sustainedOverload f h => Sys2Proof.Machine.execSustainedOverload f h s
  | .holdFlume path f v => Sys2Proof.Machine.execHoldFlume path f v s
  | .flumeHeld f => Sys2Proof.Machine.execFlumeHeld f s
  | .releaseFlume path f v => Sys2Proof.Machine.execReleaseFlume path f v s
  | .caparError f sc tier n loop => Sys2Proof.Machine.execCaparError f sc tier n loop s
  | .readDataReturn f rid flips1 flips2 => Sys2Proof.Machine.execReadDataReturn f rid flips1 flips2 s
  | .trackerEntryExpiry f key => Sys2Proof.Machine.execTrackerEntryExpiry f key s
  | .trackerWaitExpiry f key => Sys2Proof.Machine.execTrackerWaitExpiry f key s
  | .remapTallyWrite f ok => Sys2Proof.Machine.execRemapTallyWrite f ok s
  | .refreshDue f sc tier bank => Sys2Proof.Machine.execRefreshDue f sc tier bank s
  | .owedRefresh f sc tier bank => Sys2Proof.Machine.execOwedRefresh f sc tier bank s
  | .canarySweep f env => Sys2Proof.Machine.execCanarySweep f env s
  | .retentionScrubDone f sc tier bank env => Sys2Proof.Machine.execRetentionScrubDone f sc tier bank env s
  | .dramSliceStart f sc tier bank row => Sys2Proof.Machine.execDramSliceStart f sc tier bank row s
  | .dramSliceEnd f sc fails badSpares => Sys2Proof.Machine.execDramSliceEnd f sc fails badSpares s
  | .logicSliceStart f sc => Sys2Proof.Machine.execLogicSliceStart f sc s
  | .logicSliceEnd f sc pass => Sys2Proof.Machine.execLogicSliceEnd f sc pass s
  | .migrationRow f sc env => Sys2Proof.Machine.execMigrationRow f sc env s
  | .flmMapApply path f => Sys2Proof.Machine.execFlmMapApply path f s
  | .milDispatchDisable path m v => Sys2Proof.Machine.execMilDispatchDisable path m v s
  | .fill m env => Sys2Proof.Machine.execFill m env s
  | .copy m env => Sys2Proof.Machine.execCopy m env s
  | .scan m env => Sys2Proof.Machine.execScan m env s
  | .compact m env => Sys2Proof.Machine.execCompact m env s
  | .gather m env => Sys2Proof.Machine.execGather m env s
  | .hashBuild m env => Sys2Proof.Machine.execHashBuild m env s
  | .hashProbe m env => Sys2Proof.Machine.execHashProbe m env s
  | .aggregate m env => Sys2Proof.Machine.execAggregate m env s
  | .bitmap m env => Sys2Proof.Machine.execBitmap m env s
  | .checksum m env => Sys2Proof.Machine.execChecksum m env s
  | .compare m env => Sys2Proof.Machine.execCompare m env s
  | .descriptorStart n env => Sys2Proof.Machine.execDescriptorStart n env s
  | .partStart m => Sys2Proof.Machine.execPartStart m s
  | .partEnd m => Sys2Proof.Machine.execPartEnd m s
  | .mergePart did env => Sys2Proof.Machine.execMergePart did env s
  | .descriptorComplete did => Sys2Proof.Machine.execDescriptorComplete did s
  | .millLogicSliceStart m => Sys2Proof.Machine.execMillLogicSliceStart m s
  | .millSliceWaitExpiry m => Sys2Proof.Machine.execMillSliceWaitExpiry m s
  | .millLogicSliceEnd m pass => Sys2Proof.Machine.execMillLogicSliceEnd m pass s
  | .ucodeLoad did env tallyOk => Sys2Proof.Machine.execUcodeLoad did env tallyOk s
  | .microcodeSwap m => Sys2Proof.Machine.execMicrocodeSwap m s
  | .swapBankExchange m => Sys2Proof.Machine.execSwapBankExchange m s
  | .millFault m kind => Sys2Proof.Machine.execMillFault m kind s
  | .millWatchdog m => Sys2Proof.Machine.execMillWatchdog m s
  | .millRecoveryDone m => Sys2Proof.Machine.execMillRecoveryDone m s
  | .millOppChange m => Sys2Proof.Machine.execMillOppChange m s
  | .ringEnable path n => Sys2Proof.Machine.execRingEnable path n s
  | .ringDrain path n => Sys2Proof.Machine.execRingDrain path n s
  | .ringDrainDone n => Sys2Proof.Machine.execRingDrainDone n s
  | .ringReset path n => Sys2Proof.Machine.execRingReset path n s
  | .ringResetDone n => Sys2Proof.Machine.execRingResetDone n s
  | .sqTail path n v => Sys2Proof.Machine.execSqTail path n v s
  | .cqHead path n v => Sys2Proof.Machine.execCqHead path n v s
  | .descriptorFetch n k host => Sys2Proof.Machine.execDescriptorFetch n k host s
  | .completionPost n => Sys2Proof.Machine.execCompletionPost n s
  | .coalesceTimer n => Sys2Proof.Machine.execCoalesceTimer n s
  | .msixPendingSend h vec => Sys2Proof.Machine.execMsixPendingSend h vec s
  | .regionWrite did reply => Sys2Proof.Machine.execRegionWrite did reply s
  | .regionRead did ecc => Sys2Proof.Machine.execRegionRead did ecc s
  | .scrub did env => Sys2Proof.Machine.execScrub did env s
  | .scrubComplete did => Sys2Proof.Machine.execScrubComplete did s
  | .powerHint did => Sys2Proof.Machine.execPowerHint did s
  | .hintExpiry h => Sys2Proof.Machine.execHintExpiry h s
  | .mirrorPromote did => Sys2Proof.Machine.execMirrorPromote did s
  | .resilver did => Sys2Proof.Machine.execResilver did s
  | .resilverComplete did => Sys2Proof.Machine.execResilverComplete did s
  | .fuseSession did env fuse => Sys2Proof.Machine.execFuseSession did env fuse s
  | .fuseReread path => Sys2Proof.Machine.execFuseReread path s
  | .fuseRereadDone => Sys2Proof.Machine.execFuseRereadDone s
  | .bistCopyRecords did => Sys2Proof.Machine.execBistCopyRecords did s
  | .bistDramBay did fails short => Sys2Proof.Machine.execBistDramBay did fails short s
  | .bistMill did => Sys2Proof.Machine.execBistMill did s
  | .bistEngine did pass short => Sys2Proof.Machine.execBistEngine did pass short s
  | .bistLoopTest did loop short => Sys2Proof.Machine.execBistLoopTest did loop short s
  | .bistRestore did res => Sys2Proof.Machine.execBistRestore did res s
  | .inServicePass => Sys2Proof.Machine.execInServicePass s
  | .repairTallyWrite f ok => Sys2Proof.Machine.execRepairTallyWrite f ok s
  | .scanEntry => Sys2Proof.Machine.execScanEntry s
  | .debugEntry => Sys2Proof.Machine.execDebugEntry s
  | .bypass => Sys2Proof.Machine.execBypass s
  | .idcode => Sys2Proof.Machine.execIdcode s
  | .samplePreload => Sys2Proof.Machine.execSamplePreload s
  | .extest => Sys2Proof.Machine.execExtest s
  | .powerOnReset env => Sys2Proof.Machine.execPowerOnReset env s
  | .pinReset env => Sys2Proof.Machine.execPinReset env s
  | .softwareReset path v env => Sys2Proof.Machine.execSoftwareReset path v env s
  | .lifeCycleReset env => Sys2Proof.Machine.execLifeCycleReset env s
  | .scanDebugExitReset env => Sys2Proof.Machine.execScanDebugExitReset env s
  | .headLinkUp h cxl rate bad ndr drs => Sys2Proof.Machine.execHeadLinkUp h cxl rate bad ndr drs s
  | .headTrainRetry h => Sys2Proof.Machine.execHeadTrainRetry h s
  | .headConventionalReset h => Sys2Proof.Machine.execHeadConventionalReset h s
  | .headHotReset h => Sys2Proof.Machine.execHeadHotReset h s
  | .headLinkDown h => Sys2Proof.Machine.execHeadLinkDown h s
  | .functionLevelReset h => Sys2Proof.Machine.execFunctionLevelReset h s
  | .d3hotEntry h => Sys2Proof.Machine.execD3hotEntry h s
  | .d0Entry h => Sys2Proof.Machine.execD0Entry h s
  | .l1Entry h => Sys2Proof.Machine.execL1Entry h s
  | .l1Exit h => Sys2Proof.Machine.execL1Exit h s
  | .s2mStarvation h => Sys2Proof.Machine.execS2mStarvation h s
  | .laneLossOfLock l pll eq => Sys2Proof.Machine.execLaneLossOfLock l pll eq s
  | .laneRetest l => Sys2Proof.Machine.execLaneRetest l s
  | .laneRetestDone l errors lock => Sys2Proof.Machine.execLaneRetestDone l errors lock s
  | .autoWidenRecovery ln failing eq => Sys2Proof.Machine.execAutoWidenRecovery ln failing eq s
  | .eyeScanStart path l v => Sys2Proof.Machine.execEyeScanStart path l v s
  | .eyeScanPoint l errors => Sys2Proof.Machine.execEyeScanPoint l errors s
  | .prbsLock l rx => Sys2Proof.Machine.execPrbsLock l rx s
  | .prbsSyncLoss l rx => Sys2Proof.Machine.execPrbsSyncLoss l rx s
  | .referenceLoss => Sys2Proof.Machine.execReferenceLoss s
  | .corePllLoss => Sys2Proof.Machine.execCorePllLoss s
  | .leatPortTrain k rate bad => Sys2Proof.Machine.execLeatPortTrain k rate bad s
  | .heartbeatSend k => Sys2Proof.Machine.execHeartbeatSend k s
  | .heartbeat k hb => Sys2Proof.Machine.execHeartbeat k hb s
  | .pairJoin k entries dirty => Sys2Proof.Machine.execPairJoin k entries dirty s
  | .flitReceive k seq crcOk => Sys2Proof.Machine.execFlitReceive k seq crcOk s
  | .leatReplayTimeout k => Sys2Proof.Machine.execLeatReplayTimeout k s
  | .idle k => Sys2Proof.Machine.execIdle k s
  | .link k lastGood nak reqSlots rspSlots => Sys2Proof.Machine.execLink k lastGood nak reqSlots rspSlots s
  | .mirrorWrite k line data md cls tag => Sys2Proof.Machine.execMirrorWrite k line data md cls tag s
  | .poisonNotice k line cls tag => Sys2Proof.Machine.execPoisonNotice k line cls tag s
  | .ack k cls first count stored => Sys2Proof.Machine.execAck k cls first count stored s
  | .regionEntryUpdate k idx entry tag => Sys2Proof.Machine.execRegionEntryUpdate k idx entry tag s
  | .regionClearUpdate k idx tag => Sys2Proof.Machine.execRegionClearUpdate k idx tag s
  | .roleChangeUpdate k mask tag => Sys2Proof.Machine.execRoleChangeUpdate k mask tag s
  | .sharedPageUpdate k words tag => Sys2Proof.Machine.execSharedPageUpdate k words tag s
  | .dirtyBitmapChunk k granules tag => Sys2Proof.Machine.execDirtyBitmapChunk k granules tag s
  | .granulesClean k granules tag => Sys2Proof.Machine.execGranulesClean k granules tag s
  | .switchoverRequest k mask tag => Sys2Proof.Machine.execSwitchoverRequest k mask tag s
  | .switchoverQuiesced => Sys2Proof.Machine.execSwitchoverQuiesced s
  | .switchoverDone k mask tag => Sys2Proof.Machine.execSwitchoverDone k mask tag s
  | .copyRequest k line lines refetch tag env => Sys2Proof.Machine.execCopyRequest k line lines refetch tag env s
  | .copyData k line push data tag => Sys2Proof.Machine.execCopyData k line push data tag s
  | .pondSend => Sys2Proof.Machine.execPondSend s
  | .resilverSend did env => Sys2Proof.Machine.execResilverSend did env s
  | .leatPortDown k => Sys2Proof.Machine.execLeatPortDown k s
  | .leatPortReturn k => Sys2Proof.Machine.execLeatPortReturn k s
  | .flitTimeout => Sys2Proof.Machine.execFlitTimeout s
  | .ackLimitExpiry => Sys2Proof.Machine.execAckLimitExpiry s
  | .sharedPageWrite path off v => Sys2Proof.Machine.execSharedPageWrite path off v s
  | .modeChange path f v => Sys2Proof.Machine.execModeChange path f v s
  | .retunePeriodExpiry f sc tier => Sys2Proof.Machine.execRetunePeriodExpiry f sc tier s
  | .retuneRetry f sc tier => Sys2Proof.Machine.execRetuneRetry f sc tier s
  | .trainingPassEnd f sc res => Sys2Proof.Machine.execTrainingPassEnd f sc res s
  | .fullPassBay path f sc tier => Sys2Proof.Machine.execFullPassBay path f sc tier s
  | .fullPassSubchannel path f sc => Sys2Proof.Machine.execFullPassSubchannel path f sc s
  | .retunePassBay path f sc tier => Sys2Proof.Machine.execRetunePassBay path f sc tier s
  | .applyStaged path f sc tier => Sys2Proof.Machine.execApplyStaged path f sc tier s
  | .loopTest path f sc loop => Sys2Proof.Machine.execLoopTest path f sc loop s
  | .flumeOppChange f => Sys2Proof.Machine.execFlumeOppChange f s
  | .droopTrip f ctl => Sys2Proof.Machine.execDroopTrip f ctl s
  | .droopRecover f ctl => Sys2Proof.Machine.execDroopRecover f ctl s
  | .droopHoldExpiry m => Sys2Proof.Machine.execDroopHoldExpiry m s
  | .monitorWarning m => Sys2Proof.Machine.execMonitorWarning m s
  | .railOutOfWindow r => Sys2Proof.Machine.execRailOutOfWindow r s
  | .auxBrownout => Sys2Proof.Machine.execAuxBrownout s
  | .auxUndervoltage => Sys2Proof.Machine.execAuxUndervoltage s
  | .sequenceError r => Sys2Proof.Machine.execSequenceError r s
  | .earlyReleaseTimeout => Sys2Proof.Machine.execEarlyReleaseTimeout s
  | .sequencerEvaluation target tallyOk => Sys2Proof.Machine.execSequencerEvaluation target tallyOk s
  | .holdoffExpiry target => Sys2Proof.Machine.execHoldoffExpiry target s
  | .powerEntryComplete target => Sys2Proof.Machine.execPowerEntryComplete target s
  | .flumeWake f passes env => Sys2Proof.Machine.execFlumeWake f passes env s
  | .deviceWake restoreOk => Sys2Proof.Machine.execDeviceWake restoreOk s
  | .runReqWrite path v => Sys2Proof.Machine.execRunReqWrite path v s
  | .thermalEvaluation readings => Sys2Proof.Machine.execThermalEvaluation readings s
  | .throttleStepDown f mill => Sys2Proof.Machine.execThrottleStepDown f mill s
  | .thermalTrip src => Sys2Proof.Machine.execThermalTrip src s
  | .coolantCheck power tin tout => Sys2Proof.Machine.execCoolantCheck power tin tout s
  | .errorLineEvent g src sev unit detail line tlp => Sys2Proof.Machine.execErrorLineEvent g src sev unit detail line tlp s
  | .windowClose g src => Sys2Proof.Machine.execWindowClose g src s
  | .collectorParitySweep bad => Sys2Proof.Machine.execCollectorParitySweep bad s
  | .fltClear path v => Sys2Proof.Machine.execFltClear path v s
  | .registerWrite path off data env => Sys2Proof.Machine.execRegisterWrite path off data env s
  | .postedWriteTaken block loop => Sys2Proof.Machine.execPostedWriteTaken block loop s
  | .registerReadTimeout path off => Sys2Proof.Machine.execRegisterReadTimeout path off s
  | .sequenceWriteBack path off v => Sys2Proof.Machine.execSequenceWriteBack path off v s
  | .mailboxSelect path v => Sys2Proof.Machine.execMailboxSelect path v s
  | .mailboxCaptureDone path tallyOk => Sys2Proof.Machine.execMailboxCaptureDone path tallyOk s
  | .guardHold path v => Sys2Proof.Machine.execGuardHold path v s
  | .guardCommit path => Sys2Proof.Machine.execGuardCommit path s
  | .guardCommitDone => Sys2Proof.Machine.execGuardCommitDone s
  | .guardSweep => Sys2Proof.Machine.execGuardSweep s
  | .guardHoldExpiry => Sys2Proof.Machine.execGuardHoldExpiry s
  | .entdaa target addr => Sys2Proof.Machine.execEntdaa target addr s
  | .hotJoin target => Sys2Proof.Machine.execHotJoin target s
  | .targetResetPattern => Sys2Proof.Machine.execTargetResetPattern s
  | .sidebandWrite data env => Sys2Proof.Machine.execSidebandWrite data env s
  | .sidebandReadSetup data => Sys2Proof.Machine.execSidebandReadSetup data s
  | .sidebandRead words => Sys2Proof.Machine.execSidebandRead words s
  | .mctpMessage msg => Sys2Proof.Machine.execMctpMessage msg s
  | .getVersion rsp => Sys2Proof.Machine.execGetVersion rsp s
  | .getCapabilities rsp => Sys2Proof.Machine.execGetCapabilities rsp s
  | .negotiateAlgorithms rsp offers => Sys2Proof.Machine.execNegotiateAlgorithms rsp offers s
  | .getDigests rsp => Sys2Proof.Machine.execGetDigests rsp s
  | .getCertificate rsp slot off len => Sys2Proof.Machine.execGetCertificate rsp slot off len s
  | .challenge rsp slot nonce => Sys2Proof.Machine.execChallenge rsp slot nonce s
  | .getMeasurements rsp op signed nonce => Sys2Proof.Machine.execGetMeasurements rsp op signed nonce s
  | .keyExchange rsp => Sys2Proof.Machine.execKeyExchange rsp s
  | .doeAbort h => Sys2Proof.Machine.execDoeAbort h s
  | .doeDiscovery h index => Sys2Proof.Machine.execDoeDiscovery h index s
  | .cdatRead h entry => Sys2Proof.Machine.execCdatRead h entry s
  | .identify h => Sys2Proof.Machine.execIdentify h s
  | .getSupportedLogs h => Sys2Proof.Machine.execGetSupportedLogs h s
  | .getLog h off len => Sys2Proof.Machine.execGetLog h off len s
  | .getEventRecords h log => Sys2Proof.Machine.execGetEventRecords h log s
  | .clearEventRecords h log handles => Sys2Proof.Machine.execClearEventRecords h log handles s
  | .getEventInterruptPolicy h => Sys2Proof.Machine.execGetEventInterruptPolicy h s
  | .setEventInterruptPolicy h pol => Sys2Proof.Machine.execSetEventInterruptPolicy h pol s
  | .getHealthInfo h => Sys2Proof.Machine.execGetHealthInfo h s
  | .identifyMemoryDevice h => Sys2Proof.Machine.execIdentifyMemoryDevice h s
  | .getMultiHeadedInfo h => Sys2Proof.Machine.execGetMultiHeadedInfo h s
  | .getTimestamp h => Sys2Proof.Machine.execGetTimestamp h s
  | .setTimestamp h ts => Sys2Proof.Machine.execSetTimestamp h ts s
  | .unsupportedMailboxCommand h opcode => Sys2Proof.Machine.execUnsupportedMailboxCommand h opcode s
  | .lifetimeCounterUpdate ok => Sys2Proof.Machine.execLifetimeCounterUpdate ok s
  | .columnGroupMoveRow f sc tier bank env => Sys2Proof.Machine.execColumnGroupMoveRow f sc tier bank env s
  | .selfRefreshDue f sc tier bank => Sys2Proof.Machine.execSelfRefreshDue f sc tier bank s
  | .linkRecovery ln failing eq => Sys2Proof.Machine.execLinkRecovery ln failing eq s
  | .s2mCreditReturn h ndr drs => Sys2Proof.Machine.execS2mCreditReturn h ndr drs s
  | .pcieConfigWrite h cfg => Sys2Proof.Machine.execPcieConfigWrite h cfg s
  | .railWindowReturn r env => Sys2Proof.Machine.execRailWindowReturn r env s
  | .adminBistTestEnd did pass fails short => Sys2Proof.Machine.execAdminBistTestEnd did pass fails short s

end Sys2Proof.Machine
end

