-- ==== Sys2Proof/WellFormed.lean ====
section
/-! DEFINITION. Well-formed commands: every element a command names exists (R10, R43, R187, R224, R419, R432, R454). -/

namespace Sys2Proof

/-- A power target: none for the device, else a flume (R395). -/
def okTarget (t : Option Nat) : Bool :=
  match t with
  | none => true
  | some f => decide (f < 32)

/-- The elements a command names exist: flumes, mills and cells 0 to 31, sub-channels 0 to 3, tiers 0 to 16, banks 0 to 15,
heads 0 to 3, ring pairs 0 to 255, access paths 0 to 4, lanes 0 to 95, leat ports 0 to 1, requester ports 0 to 8, fault groups
0 to 63 and sources 0 to 15, decoders 0 to 7, rails 0 to 6, 7 and 8 for the retention windows of the tier rails, physical rows 0 to 8,223. -/
def Instr.wf : Instr → Bool
  | .memRd h _ _ _ _ => decide (h < 4)
  | .memRdFwd h _ _ _ _ => decide (h < 4)
  | .memSpecRd h _ => decide (h < 4)
  | .memInv h _ _ => decide (h < 4)
  | .memWr h _ _ _ _ _ _ => decide (h < 4)
  | .memWrFwd h _ _ _ _ _ _ => decide (h < 4)
  | .memWrPtl h _ _ _ _ _ _ _ => decide (h < 4)
  | .hdmDecoderCommit h i _ _ _ _ _ _ _ => decide (h < 4) && decide (i < 8)
  | .requestAccept f port => decide (f < 32) && decide (port < 9)
  | .scheduleCommand f sc _ => decide (f < 32) && decide (sc < 4)
  | .agePromotion f _ => decide (f < 32)
  | .urgencyRise f _ => decide (f < 32)
  | .rowIdleClose f sc tier bank => decide (f < 32) && decide (sc < 4) && decide (tier < 17) && decide (bank < 16)
  | .sustainedOverload f h => decide (f < 32) && decide (h < 4)
  | .holdFlume path f _ => decide (path < 5) && decide (f < 32)
  | .flumeHeld f => decide (f < 32)
  | .releaseFlume path f _ => decide (path < 5) && decide (f < 32)
  | .caparError f sc tier n _ => decide (f < 32) && decide (sc < 4) && decide (tier < 17) && decide (n < 32)
  | .readDataReturn f _ _ _ => decide (f < 32)
  | .trackerEntryExpiry f _ => decide (f < 32)
  | .trackerWaitExpiry f _ => decide (f < 32)
  | .remapTallyWrite f _ => decide (f < 32)
  | .refreshDue f sc tier bank => decide (f < 32) && decide (sc < 4) && decide (tier < 17) && decide (bank < 16)
  | .owedRefresh f sc tier bank => decide (f < 32) && decide (sc < 4) && decide (tier < 17) && decide (bank < 16)
  | .canarySweep f _ => decide (f < 32)
  | .retentionScrubDone f sc tier bank _ => decide (f < 32) && decide (sc < 4) && decide (tier < 17) && decide (bank < 16)
  | .dramSliceStart f sc tier bank row => decide (f < 32) && decide (sc < 4) && decide (tier < 17) && decide (bank < 16) && decide (row < 8224)
  | .dramSliceEnd f sc _ _ => decide (f < 32) && decide (sc < 4)
  | .logicSliceStart f sc => decide (f < 32) && decide (sc < 4)
  | .logicSliceEnd f sc _ => decide (f < 32) && decide (sc < 4)
  | .migrationRow f sc _ => decide (f < 32) && decide (sc < 4)
  | .flmMapApply path f => decide (path < 5) && decide (f < 32)
  | .milDispatchDisable path m _ => decide (path < 5) && decide (m < 32)
  | .fill m _ => decide (m < 32)
  | .copy m _ => decide (m < 32)
  | .scan m _ => decide (m < 32)
  | .compact m _ => decide (m < 32)
  | .gather m _ => decide (m < 32)
  | .hashBuild m _ => decide (m < 32)
  | .hashProbe m _ => decide (m < 32)
  | .aggregate m _ => decide (m < 32)
  | .bitmap m _ => decide (m < 32)
  | .checksum m _ => decide (m < 32)
  | .compare m _ => decide (m < 32)
  | .descriptorStart n _ => decide (n < 256)
  | .partStart m => decide (m < 32)
  | .partEnd m => decide (m < 32)
  | .mergePart _ _ => true
  | .descriptorComplete _ => true
  | .millLogicSliceStart m => decide (m < 32)
  | .millSliceWaitExpiry m => decide (m < 32)
  | .millLogicSliceEnd m _ => decide (m < 32)
  | .ucodeLoad _ _ _ => true
  | .microcodeSwap m => decide (m < 32)
  | .swapBankExchange m => decide (m < 32)
  | .millFault m kind => decide (m < 32) && decide (kind < 4)
  | .millWatchdog m => decide (m < 32)
  | .millRecoveryDone m => decide (m < 32)
  | .millOppChange m => decide (m < 32)
  | .ringEnable path n => decide (path < 5) && decide (n < 256)
  | .ringDrain path n => decide (path < 5) && decide (n < 256)
  | .ringDrainDone n => decide (n < 256)
  | .ringReset path n => decide (path < 5) && decide (n < 256)
  | .ringResetDone n => decide (n < 256)
  | .sqTail path n _ => decide (path < 5) && decide (n < 256)
  | .cqHead path n _ => decide (path < 5) && decide (n < 256)
  | .descriptorFetch n _ _ => decide (n < 256)
  | .completionPost n => decide (n < 256)
  | .coalesceTimer n => decide (n < 256)
  | .msixPendingSend h vec => decide (h < 4) && decide (vec < 64)
  | .regionWrite _ _ => true
  | .regionRead _ _ => true
  | .scrub _ _ => true
  | .scrubComplete _ => true
  | .powerHint _ => true
  | .hintExpiry h => decide (h < 4)
  | .mirrorPromote _ => true
  | .resilver _ => true
  | .resilverComplete _ => true
  | .fuseSession _ _ _ => true
  | .fuseReread path => decide (path < 5)
  | .fuseRereadDone => true
  | .bistCopyRecords _ => true
  | .bistDramBay _ _ _ => true
  | .bistMill _ => true
  | .bistEngine _ _ _ => true
  | .bistLoopTest _ _ _ => true
  | .bistRestore _ _ => true
  | .inServicePass => true
  | .repairTallyWrite f _ => decide (f < 32)
  | .scanEntry => true
  | .debugEntry => true
  | .bypass => true
  | .idcode => true
  | .samplePreload => true
  | .extest => true
  | .powerOnReset _ => true
  | .pinReset _ => true
  | .softwareReset path _ _ => decide (path < 5)
  | .lifeCycleReset _ => true
  | .scanDebugExitReset _ => true
  | .headLinkUp h _ _ _ _ _ => decide (h < 4)
  | .headTrainRetry h => decide (h < 4)
  | .headConventionalReset h => decide (h < 4)
  | .headHotReset h => decide (h < 4)
  | .headLinkDown h => decide (h < 4)
  | .functionLevelReset h => decide (h < 4)
  | .d3hotEntry h => decide (h < 4)
  | .d0Entry h => decide (h < 4)
  | .l1Entry h => decide (h < 4)
  | .l1Exit h => decide (h < 4)
  | .s2mStarvation h => decide (h < 4)
  | .laneLossOfLock l _ _ => decide (l < 96)
  | .laneRetest l => decide (l < 96)
  | .laneRetestDone l _ _ => decide (l < 96)
  | .autoWidenRecovery ln _ _ => decide (ln < 6)
  | .eyeScanStart path l _ => decide (path < 5) && decide (l < 96)
  | .eyeScanPoint l _ => decide (l < 96)
  | .prbsLock l _ => decide (l < 96)
  | .prbsSyncLoss l _ => decide (l < 96)
  | .referenceLoss => true
  | .corePllLoss => true
  | .leatPortTrain k _ _ => decide (k < 2)
  | .heartbeatSend k => decide (k < 2)
  | .heartbeat k _ => decide (k < 2)
  | .pairJoin k _ _ => decide (k < 2)
  | .flitReceive k _ _ => decide (k < 2)
  | .leatReplayTimeout k => decide (k < 2)
  | .idle k => decide (k < 2)
  | .link k _ _ _ _ => decide (k < 2)
  | .mirrorWrite k _ _ _ _ _ => decide (k < 2)
  | .poisonNotice k _ _ _ => decide (k < 2)
  | .ack k _ _ _ _ => decide (k < 2)
  | .regionEntryUpdate k _ _ _ => decide (k < 2)
  | .regionClearUpdate k _ _ => decide (k < 2)
  | .roleChangeUpdate k _ _ => decide (k < 2)
  | .sharedPageUpdate k _ _ => decide (k < 2)
  | .dirtyBitmapChunk k _ _ => decide (k < 2)
  | .granulesClean k _ _ => decide (k < 2)
  | .switchoverRequest k _ _ => decide (k < 2)
  | .switchoverQuiesced => true
  | .switchoverDone k _ _ => decide (k < 2)
  | .copyRequest k _ _ _ _ _ => decide (k < 2)
  | .copyData k _ _ _ _ => decide (k < 2)
  | .pondSend => true
  | .resilverSend _ _ => true
  | .leatPortDown k => decide (k < 2)
  | .leatPortReturn k => decide (k < 2)
  | .flitTimeout => true
  | .ackLimitExpiry => true
  | .sharedPageWrite path off _ => decide (path < 5) && decide (off < 4096)
  | .modeChange path f _ => decide (path < 5) && decide (f < 32)
  | .retunePeriodExpiry f sc tier => decide (f < 32) && decide (sc < 4) && decide (tier < 17)
  | .retuneRetry f sc tier => decide (f < 32) && decide (sc < 4) && decide (tier < 17)
  | .trainingPassEnd f sc _ => decide (f < 32) && decide (sc < 4)
  | .fullPassBay path f sc tier => decide (path < 5) && decide (f < 32) && decide (sc < 4) && decide (tier < 17)
  | .fullPassSubchannel path f sc => decide (path < 5) && decide (f < 32) && decide (sc < 4)
  | .retunePassBay path f sc tier => decide (path < 5) && decide (f < 32) && decide (sc < 4) && decide (tier < 17)
  | .applyStaged path f sc tier => decide (path < 5) && decide (f < 32) && decide (sc < 4) && decide (tier < 17)
  | .loopTest path f sc _ => decide (path < 5) && decide (f < 32) && decide (sc < 4)
  | .flumeOppChange f => decide (f < 32)
  | .droopTrip f _ => decide (f < 32)
  | .droopRecover f _ => decide (f < 32)
  | .droopHoldExpiry m => decide (m < 32)
  | .monitorWarning m => decide (m < 32)
  | .railOutOfWindow r => decide (r < 9)
  | .auxBrownout => true
  | .auxUndervoltage => true
  | .sequenceError r => decide (r < 7)
  | .earlyReleaseTimeout => true
  | .sequencerEvaluation target _ => okTarget target
  | .holdoffExpiry target => okTarget target
  | .powerEntryComplete target => okTarget target
  | .flumeWake f _ _ => decide (f < 32)
  | .deviceWake _ => true
  | .runReqWrite path _ => decide (path < 5)
  | .thermalEvaluation readings => readings.length == 186
  | .throttleStepDown f _ => decide (f < 32)
  | .thermalTrip src => decide (src < 184)
  | .coolantCheck _ _ _ => true
  | .errorLineEvent g i sev _ _ _ _ => decide (g < 64) && decide (i < 16) && decide (sev < 4)
  | .windowClose g i => decide (g < 64) && decide (i < 16)
  | .collectorParitySweep _ => true
  | .fltClear path _ => decide (path < 5)
  | .registerWrite path _ _ _ => decide (path < 5)
  | .postedWriteTaken block _ => decide (block < 204)
  | .registerReadTimeout path _ => decide (path < 5)
  | .sequenceWriteBack path _ _ => decide (path < 5)
  | .mailboxSelect path _ => decide (path < 5)
  | .mailboxCaptureDone path _ => decide (path < 5)
  | .guardHold path _ => decide (path < 5)
  | .guardCommit path => decide (path < 5)
  | .guardCommitDone => true
  | .guardSweep => true
  | .guardHoldExpiry => true
  | .entdaa target addr => decide (target < 2) && decide (addr < 128)
  | .hotJoin target => decide (target < 2)
  | .targetResetPattern => true
  | .sidebandWrite _ _ => true
  | .sidebandReadSetup _ => true
  | .sidebandRead _ => true
  | .mctpMessage _ => true
  | .getVersion rsp => decide (rsp < 5)
  | .getCapabilities rsp => decide (rsp < 5)
  | .negotiateAlgorithms rsp _ => decide (rsp < 5)
  | .getDigests rsp => decide (rsp < 5)
  | .getCertificate rsp _ _ _ => decide (rsp < 5)
  | .challenge rsp _ _ => decide (rsp < 5)
  | .getMeasurements rsp _ _ _ => decide (rsp < 5)
  | .keyExchange rsp => decide (rsp < 5)
  | .doeAbort h => decide (h < 4)
  | .doeDiscovery h _ => decide (h < 4)
  | .cdatRead h _ => decide (h < 4)
  | .identify h => decide (h < 4)
  | .getSupportedLogs h => decide (h < 4)
  | .getLog h _ _ => decide (h < 4)
  | .getEventRecords h _ => decide (h < 4)
  | .clearEventRecords h _ _ => decide (h < 4)
  | .getEventInterruptPolicy h => decide (h < 4)
  | .setEventInterruptPolicy h _ => decide (h < 4)
  | .getHealthInfo h => decide (h < 4)
  | .identifyMemoryDevice h => decide (h < 4)
  | .getMultiHeadedInfo h => decide (h < 4)
  | .getTimestamp h => decide (h < 4)
  | .setTimestamp h _ => decide (h < 4)
  | .unsupportedMailboxCommand h _ => decide (h < 4)
  | .lifetimeCounterUpdate _ => true
  | .columnGroupMoveRow f sc tier bank _ => decide (f < 32) && decide (sc < 4) && decide (tier < 17) && decide (bank < 16)
  | .selfRefreshDue f sc tier bank => decide (f < 32) && decide (sc < 4) && decide (tier < 17) && decide (bank < 16)
  | .linkRecovery ln _ _ => decide (ln < 6)
  | .s2mCreditReturn h _ _ => decide (h < 4)
  | .pcieConfigWrite h _ => decide (h < 4)
  | .railWindowReturn r _ => decide (r < 7)
  | .adminBistTestEnd _ _ _ _ => true

end Sys2Proof
end

