-- ==== Sys2Proof/Safety.lean ====
section
/-! DEFINITION. What a safe run is: every waiting command names elements that exist, a step never faults or is refused, and the
state's arrays stay in their canonical form. -/

namespace Sys2Proof.Machine

/-- The canonical form of the register table: offsets rising, no word equal to its register's reset value. -/
abbrev regsWf (t : Tab Word) : Prop := t.Pairwise (fun a b => a.1 < b.1) ∧ ∀ e ∈ t, e.2 ≠ regReset e.1

/-- The region tables of the Brake save area are canonical. -/
def brakeWf (b : Option (Copies BrakeSave)) : Prop :=
  ∀ c, b = some c → tabWf (0 : BitVec 128) c.a.val.regions ∧ tabWf (0 : BitVec 128) c.b.val.regions

/-- Every array of the state is in its canonical form: indexes rising, no entry equal to what an unlisted element holds. -/
structure State.wf (s : State) : Prop where
  regs : regsWf s.regs
  mem : Memory.wf s.mem
  flumes : tabWf flumeInit s.flumes
  subs : tabWf subInit s.subs
  bays : tabWf bayInit s.bays
  banks : tabWf bankInit s.banks
  regions : tabWf (0 : BitVec 128) s.regions
  heads : tabWf headInit s.heads
  pairs : tabWf pairInit s.pairs
  descs : tabWf none s.descs
  parts : tabWf none s.parts
  grants : tabWf 31 s.grants
  mills : tabWf millInit s.mills
  lanes : tabWf laneInit s.lanes
  ports : tabWf portInit s.leat.ports
  sources : tabWf sourceInit s.flt.sources
  posted : tabWf none s.acc.posted
  mailboxes : tabWf mailboxInit s.acc.mailboxes
  normal : tabWf (0 : BitVec 256) s.fuses.normal
  high : tabWf (0 : BitVec 256) s.fuses.high
  low : tabWf (0 : BitVec 256) s.fuses.low
  brake : brakeWf s.tally.brake

/-- No fuse bit of the first array is 0 in the second at the same margin (13_fuses.md: a bit can be set but never cleared). -/
structure FuseGrow (u v : Fuses) : Prop where
  normal : ∀ r, tabGet (0 : BitVec 256) u.normal r &&& tabGet 0 v.normal r = tabGet 0 u.normal r
  high : ∀ r, tabGet (0 : BitVec 256) u.high r &&& tabGet 0 v.high r = tabGet 0 u.high r
  low : ∀ r, tabGet (0 : BitVec 256) u.low r &&& tabGet 0 v.low r = tabGet 0 u.low r

/-- Every command that waits is well formed. -/
def State.queueWf (s : State) : Prop := ∀ c ∈ s.pending, c.wf = true

/-- The step from a state answers a next state. -/
def State.safe (s : State) : Prop := ∃ t, step s = .next t

/-- The parts of the state a command can change; the clock and the queue are not among them. -/
inductive Field where
  | out
  | freeCtr
  | regs
  | mem
  | lost
  | flumes
  | subs
  | bays
  | banks
  | regions
  | badRegions
  | heads
  | pairs
  | descs
  | nextDesc
  | parts
  | nextPart
  | partStore
  | rr
  | grants
  | mills
  | lanes
  | leat
  | tally
  | fuses
  | flt
  | acc
  | thm
  | pwr
  | bist
  | boot
  | side
  deriving DecidableEq, Repr

/-- The part is in the second state what it is in the first. -/
def Field.same (k : Field) (s t : State) : Prop :=
  match k with
  | .out => t.out = s.out
  | .freeCtr => t.freeCtr = s.freeCtr
  | .regs => t.regs = s.regs
  | .mem => t.mem = s.mem
  | .lost => t.lost = s.lost
  | .flumes => t.flumes = s.flumes
  | .subs => t.subs = s.subs
  | .bays => t.bays = s.bays
  | .banks => t.banks = s.banks
  | .regions => t.regions = s.regions
  | .badRegions => t.badRegions = s.badRegions
  | .heads => t.heads = s.heads
  | .pairs => t.pairs = s.pairs
  | .descs => t.descs = s.descs
  | .nextDesc => t.nextDesc = s.nextDesc
  | .parts => t.parts = s.parts
  | .nextPart => t.nextPart = s.nextPart
  | .partStore => t.partStore = s.partStore
  | .rr => t.rr = s.rr
  | .grants => t.grants = s.grants
  | .mills => t.mills = s.mills
  | .lanes => t.lanes = s.lanes
  | .leat => t.leat = s.leat
  | .tally => t.tally = s.tally
  | .fuses => t.fuses = s.fuses
  | .flt => t.flt = s.flt
  | .acc => t.acc = s.acc
  | .thm => t.thm = s.thm
  | .pwr => t.pwr = s.pwr
  | .bist => t.bist = s.bist
  | .boot => t.boot = s.boot
  | .side => t.side = s.side

/-- What each command can change, whatever the state: every part not listed is left as it is. -/
def touches : Instr → List Field
  | .idle .. =>
    []
  | .hdmDecoderCommit .. | .hintExpiry .. | .headTrainRetry .. | .doeAbort .. | .pcieConfigWrite .. =>
    [.heads]
  | .trackerEntryExpiry .. | .trackerWaitExpiry .. | .retunePeriodExpiry .. | .retuneRetry .. =>
    [.flumes]
  | .owedRefresh .. =>
    [.banks]
  | .logicSliceStart .. =>
    [.subs]
  | .descriptorComplete .. | .powerHint .. | .resilverComplete .. =>
    [.descs]
  | .millLogicSliceStart .. | .droopHoldExpiry .. =>
    [.mills]
  | .ringDrainDone .. =>
    [.pairs]
  | .bypass .. | .idcode .. | .samplePreload .. | .extest .. | .hotJoin .. | .identify .. | .getSupportedLogs .. |
  .getLog .. | .getEventRecords .. | .getEventInterruptPolicy .. | .getHealthInfo .. | .identifyMemoryDevice .. |
  .getMultiHeadedInfo .. | .getTimestamp .. | .unsupportedMailboxCommand .. =>
    [.out]
  | .laneRetest .. =>
    [.lanes]
  | .windowClose .. =>
    [.flt]
  | .mailboxSelect .. | .guardHold .. | .guardCommitDone .. =>
    [.acc]
  | .targetResetPattern .. =>
    [.side]
  | .memSpecRd .. =>
    [.heads, .pwr]
  | .agePromotion .. | .urgencyRise .. =>
    [.flumes, .subs]
  | .dramSliceStart .. | .selfRefreshDue .. =>
    [.flumes, .banks]
  | .millOppChange .. =>
    [.mills, .pwr]
  | .msixPendingSend .. | .getVersion .. | .getCapabilities .. | .negotiateAlgorithms .. | .getDigests .. |
  .getCertificate .. | .keyExchange .. | .doeDiscovery .. | .cdatRead .. | .clearEventRecords .. |
  .setEventInterruptPolicy .. | .setTimestamp .. | .s2mCreditReturn .. =>
    [.out, .heads]
  | .scrubComplete .. | .bistCopyRecords .. =>
    [.out, .descs]
  | .resilver .. =>
    [.descs, .leat]
  | .inServicePass .. =>
    [.regs, .bist]
  | .eyeScanPoint .. =>
    [.regs, .lanes]
  | .heartbeatSend .. | .flitReceive .. | .sharedPageUpdate .. | .granulesClean .. | .switchoverRequest .. | .pondSend .. |
  .leatPortReturn .. =>
    [.out, .leat]
  | .droopRecover .. | .throttleStepDown .. =>
    [.flumes, .mills]
  | .sequenceError .. | .earlyReleaseTimeout .. =>
    [.out, .boot]
  | .holdoffExpiry .. =>
    [.flumes, .pwr]
  | .entdaa .. | .sidebandRead .. =>
    [.out, .side]
  | .memInv .. =>
    [.out, .heads, .pwr]
  | .rowIdleClose .. =>
    [.mem, .subs, .banks]
  | .flumeHeld .. =>
    [.mem, .flumes, .subs]
  | .refreshDue .. =>
    [.regs, .subs, .banks]
  | .microcodeSwap .. =>
    [.parts, .partStore, .mills]
  | .coalesceTimer .. =>
    [.out, .heads, .pairs]
  | .regionWrite .. | .dirtyBitmapChunk .. =>
    [.out, .descs, .leat]
  | .d0Entry .. | .l1Exit .. =>
    [.heads, .lanes, .pwr]
  | .l1Entry .. =>
    [.regs, .heads, .lanes]
  | .prbsLock .. | .prbsSyncLoss .. =>
    [.freeCtr, .regs, .lanes]
  | .roleChangeUpdate .. =>
    [.out, .regions, .leat]
  | .flumeOppChange .. =>
    [.flumes, .bays, .pwr]
  | .mctpMessage .. | .challenge .. | .getMeasurements .. =>
    [.out, .freeCtr, .heads]
  | .swapBankExchange .. | .bistMill .. =>
    [.descs, .parts, .partStore, .mills]
  | .mirrorPromote .. | .switchoverDone .. =>
    [.out, .regions, .descs, .leat]
  | .s2mStarvation .. =>
    [.out, .regs, .heads, .flt]
  | .laneRetestDone .. =>
    [.heads, .lanes, .leat, .pwr]
  | .heartbeat .. =>
    [.out, .heads, .leat, .flt]
  | .mirrorWrite .. | .poisonNotice .. =>
    [.out, .flumes, .leat, .pwr]
  | .regionEntryUpdate .. | .regionClearUpdate .. =>
    [.out, .regions, .badRegions, .leat]
  | .sustainedOverload .. =>
    [.out, .regs, .flumes, .heads, .flt]
  | .partStart .. | .millSliceWaitExpiry .. =>
    [.flumes, .parts, .partStore, .mills, .pwr]
  | .partEnd .. =>
    [.descs, .parts, .nextPart, .partStore, .mills]
  | .regionRead .. =>
    [.out, .badRegions, .heads, .descs, .flt]
  | .registerReadTimeout .. | .mailboxCaptureDone .. | .guardCommit .. | .guardSweep .. | .guardHoldExpiry .. =>
    [.out, .regs, .heads, .flt, .acc]
  | .memWr .. | .memWrFwd .. | .memWrPtl .. =>
    [.out, .flumes, .badRegions, .heads, .flt, .pwr]
  | .remapTallyWrite .. | .repairTallyWrite .. =>
    [.out, .regs, .flumes, .heads, .tally, .flt]
  | .logicSliceEnd .. =>
    [.out, .regs, .subs, .heads, .flt, .bist]
  | .sqTail .. | .cqHead .. =>
    [.out, .regs, .heads, .pairs, .flt, .pwr]
  | .functionLevelReset .. | .d3hotEntry .. =>
    [.heads, .pairs, .descs, .parts, .partStore, .mills]
  | .leatReplayTimeout .. | .link .. =>
    [.out, .regs, .heads, .lanes, .leat, .flt]
  | .switchoverQuiesced .. =>
    [.out, .flumes, .regions, .heads, .leat, .flt]
  | .sidebandReadSetup .. =>
    [.out, .regs, .heads, .flt, .acc, .side]
  | .memRd .. | .memRdFwd .. =>
    [.out, .freeCtr, .flumes, .badRegions, .heads, .flt, .pwr]
  | .flmMapApply .. | .modeChange .. | .runReqWrite .. | .sequenceWriteBack .. =>
    [.out, .regs, .flumes, .heads, .flt, .acc, .pwr]
  | .headLinkUp .. =>
    [.out, .regs, .heads, .lanes, .flt, .pwr, .boot]
  | .leatPortTrain .. =>
    [.out, .regs, .heads, .lanes, .leat, .flt, .pwr]
  | .lifetimeCounterUpdate .. =>
    [.out, .regs, .heads, .tally, .flt, .thm, .bist]
  | .holdFlume .. | .releaseFlume .. =>
    [.out, .regs, .flumes, .subs, .heads, .flt, .acc, .pwr]
  | .millLogicSliceEnd .. =>
    [.out, .regs, .heads, .parts, .partStore, .mills, .flt, .bist]
  | .descriptorFetch .. =>
    [.out, .regs, .heads, .pairs, .descs, .nextDesc, .flt, .pwr]
  | .completionPost .. =>
    [.out, .regions, .badRegions, .heads, .pairs, .descs, .parts, .leat]
  | .fuseReread .. =>
    [.out, .regs, .flumes, .heads, .fuses, .flt, .acc, .pwr]
  | .scanEntry .. | .debugEntry .. =>
    [.out, .flumes, .subs, .regions, .badRegions, .mills, .leat, .boot]
  | .eyeScanStart .. =>
    [.out, .regs, .flumes, .heads, .lanes, .flt, .acc, .pwr]
  | .sharedPageWrite .. =>
    [.out, .regs, .flumes, .heads, .leat, .flt, .acc, .pwr]
  | .ringResetDone .. =>
    [.regs, .regions, .badRegions, .heads, .pairs, .descs, .parts, .leat, .acc]
  | .fuseSession .. =>
    [.out, .freeCtr, .regs, .heads, .descs, .tally, .fuses, .flt, .boot]
  | .bistEngine .. =>
    [.out, .freeCtr, .regs, .flumes, .subs, .heads, .descs, .flt, .pwr]
  | .bistLoopTest .. =>
    [.out, .regs, .flumes, .subs, .bays, .heads, .descs, .flt, .bist]
  | .ack .. =>
    [.out, .regs, .mem, .flumes, .subs, .heads, .descs, .leat, .flt]
  | .powerEntryComplete .. =>
    [.flumes, .bays, .banks, .regions, .badRegions, .mills, .leat, .thm, .pwr]
  | .requestAccept .. =>
    [.out, .freeCtr, .mem, .flumes, .subs, .heads, .descs, .grants, .leat, .flt]
  | .caparError .. | .dramSliceEnd .. =>
    [.out, .regs, .mem, .flumes, .subs, .bays, .banks, .heads, .flt, .bist]
  | .milDispatchDisable .. =>
    [.out, .regs, .flumes, .heads, .parts, .partStore, .mills, .flt, .acc, .pwr]
  | .headHotReset .. | .headLinkDown .. =>
    [.regs, .flumes, .heads, .pairs, .descs, .parts, .partStore, .mills, .lanes, .leat]
  | .copyData .. =>
    [.out, .freeCtr, .mem, .flumes, .subs, .heads, .descs, .leat, .flt, .pwr]
  | .fullPassBay .. | .fullPassSubchannel .. | .retunePassBay .. | .applyStaged .. | .loopTest .. =>
    [.out, .regs, .flumes, .subs, .bays, .heads, .flt, .acc, .pwr, .bist]
  | .scheduleCommand .. =>
    [.out, .freeCtr, .regs, .mem, .flumes, .subs, .banks, .heads, .descs, .leat, .thm]
  | .headConventionalReset .. =>
    [.regs, .flumes, .heads, .pairs, .descs, .parts, .partStore, .mills, .lanes, .leat, .boot]
  | .pairJoin .. =>
    [.out, .regs, .mem, .flumes, .subs, .regions, .badRegions, .heads, .descs, .leat, .flt]
  | .flitTimeout .. =>
    [.out, .freeCtr, .regs, .mem, .flumes, .subs, .regions, .heads, .descs, .leat, .flt]
  | .trainingPassEnd .. =>
    [.out, .freeCtr, .regs, .flumes, .subs, .bays, .banks, .heads, .tally, .flt, .bist]
  | .migrationRow .. | .columnGroupMoveRow .. =>
    [.out, .regs, .mem, .flumes, .subs, .bays, .banks, .badRegions, .heads, .leat, .flt, .bist]
  | .ringEnable .. | .ringDrain .. | .ringReset .. =>
    [.out, .regs, .flumes, .heads, .pairs, .descs, .parts, .partStore, .mills, .flt, .acc, .pwr]
  | .bistDramBay .. =>
    [.out, .regs, .mem, .flumes, .subs, .bays, .banks, .heads, .descs, .flt, .pwr, .bist]
  | .bistRestore .. =>
    [.out, .freeCtr, .regs, .flumes, .subs, .bays, .banks, .heads, .descs, .tally, .flt, .bist]
  | .leatPortDown .. | .ackLimitExpiry .. =>
    [.out, .freeCtr, .regs, .mem, .flumes, .subs, .regions, .heads, .descs, .lanes, .leat, .flt]
  | .fltClear .. =>
    [.out, .regs, .flumes, .heads, .descs, .parts, .nextPart, .partStore, .mills, .leat, .flt, .boot]
  | .readDataReturn .. =>
    [.out, .freeCtr, .regs, .mem, .flumes, .subs, .bays, .banks, .heads, .descs, .leat, .flt, .thm, .bist]
  | .canarySweep .. | .retentionScrubDone .. =>
    [.out, .freeCtr, .regs, .mem, .flumes, .subs, .bays, .banks, .badRegions, .heads, .descs, .leat, .flt, .bist]
  | .droopTrip .. | .thermalTrip .. | .collectorParitySweep .. =>
    [.out, .freeCtr, .regs, .mem, .flumes, .subs, .banks, .regions, .heads, .descs, .mills, .leat, .flt, .boot]
  | .ucodeLoad .. =>
    [.out, .freeCtr, .regs, .mem, .flumes, .subs, .banks, .regions, .heads, .descs, .mills, .leat, .tally, .flt, .boot]
  | .scrub .. | .copyRequest .. | .resilverSend .. =>
    [.out, .freeCtr, .regs, .mem, .flumes, .subs, .bays, .banks, .badRegions, .heads, .descs, .leat, .flt, .pwr, .bist]
  | .fuseRereadDone .. =>
    [.out, .freeCtr, .regs, .mem, .flumes, .subs, .banks, .regions, .heads, .descs, .mills, .leat, .fuses, .flt, .boot]
  | .corePllLoss .. | .monitorWarning .. | .auxBrownout .. =>
    [.out, .freeCtr, .regs, .mem, .flumes, .subs, .banks, .regions, .heads, .descs, .mills, .leat, .flt, .pwr, .boot]
  | .flumeWake .. =>
    [.out, .freeCtr, .regs, .mem, .flumes, .subs, .bays, .banks, .badRegions, .heads, .descs, .leat, .tally, .flt, .bist]
  | .thermalEvaluation .. | .coolantCheck .. =>
    [.out, .freeCtr, .regs, .mem, .flumes, .subs, .banks, .regions, .heads, .descs, .mills, .leat, .flt, .thm, .boot]
  | .adminBistTestEnd .. =>
    [.out, .freeCtr, .regs, .mem, .flumes, .subs, .bays, .banks, .heads, .descs, .parts, .partStore, .mills, .leat, .flt]
  | .millRecoveryDone .. =>
    [.out, .freeCtr, .regs, .mem, .flumes, .subs, .banks, .regions, .heads, .descs, .parts, .partStore, .mills, .leat, .flt,
    .boot]
  | .autoWidenRecovery .. | .linkRecovery .. =>
    [.out, .freeCtr, .regs, .mem, .flumes, .subs, .regions, .heads, .pairs, .descs, .parts, .partStore, .mills, .lanes,
    .leat, .flt]
  | .railOutOfWindow .. =>
    [.out, .freeCtr, .regs, .mem, .lost, .flumes, .subs, .banks, .regions, .heads, .descs, .mills, .leat, .flt, .pwr, .boot]
  | .sequencerEvaluation .. =>
    [.out, .freeCtr, .regs, .mem, .flumes, .subs, .banks, .regions, .heads, .descs, .mills, .leat, .tally, .flt, .pwr, .boot]
  | .deviceWake .. =>
    [.out, .freeCtr, .regs, .mem, .flumes, .subs, .banks, .regions, .heads, .descs, .mills, .leat, .flt, .thm, .pwr, .boot]
  | .millFault .. | .millWatchdog .. =>
    [.out, .freeCtr, .regs, .mem, .flumes, .subs, .banks, .regions, .heads, .descs, .parts, .nextPart, .partStore, .mills,
    .leat, .flt, .boot]
  | .laneLossOfLock .. =>
    [.out, .freeCtr, .regs, .mem, .flumes, .subs, .regions, .heads, .pairs, .descs, .parts, .partStore, .mills, .lanes,
    .leat, .flt, .pwr]
  | .errorLineEvent .. =>
    [.out, .freeCtr, .regs, .mem, .flumes, .subs, .banks, .regions, .heads, .descs, .parts, .partStore, .mills, .leat, .flt,
    .pwr, .boot]
  | .fill .. | .copy .. | .scan .. | .compact .. | .gather .. | .hashBuild .. | .hashProbe .. | .aggregate .. | .bitmap .. |
  .checksum .. | .compare .. | .mergePart .. =>
    [.out, .freeCtr, .regs, .mem, .flumes, .subs, .bays, .banks, .badRegions, .heads, .descs, .parts, .grants, .mills, .leat,
    .flt, .pwr, .bist]
  | .referenceLoss .. =>
    [.out, .freeCtr, .regs, .mem, .flumes, .subs, .banks, .regions, .heads, .pairs, .descs, .parts, .partStore, .mills,
    .lanes, .leat, .flt, .pwr, .boot]
  | .railWindowReturn .. =>
    [.out, .freeCtr, .regs, .mem, .lost, .flumes, .subs, .bays, .banks, .regions, .heads, .descs, .mills, .leat, .tally,
    .fuses, .flt, .acc, .pwr, .bist, .boot]
  | .descriptorStart .. =>
    [.out, .freeCtr, .regs, .mem, .flumes, .subs, .bays, .banks, .badRegions, .heads, .pairs, .descs, .nextDesc, .parts,
    .nextPart, .partStore, .rr, .mills, .leat, .flt, .pwr, .bist]
  | .postedWriteTaken .. =>
    [.out, .freeCtr, .regs, .mem, .flumes, .subs, .bays, .regions, .heads, .pairs, .descs, .parts, .nextPart, .partStore,
    .mills, .lanes, .leat, .fuses, .flt, .acc, .pwr, .bist, .boot]
  | .auxUndervoltage .. =>
    [.out, .regs, .flumes, .subs, .bays, .banks, .regions, .badRegions, .heads, .pairs, .descs, .nextDesc, .parts, .nextPart,
    .partStore, .rr, .grants, .mills, .lanes, .leat, .fuses, .flt, .acc, .thm, .pwr, .bist, .boot, .side]
  | .powerOnReset .. | .pinReset .. | .softwareReset .. | .lifeCycleReset .. | .scanDebugExitReset .. | .registerWrite .. |
  .sidebandWrite .. =>
    [.out, .freeCtr, .regs, .mem, .lost, .flumes, .subs, .bays, .banks, .regions, .badRegions, .heads, .pairs, .descs,
    .nextDesc, .parts, .nextPart, .partStore, .rr, .grants, .mills, .lanes, .leat, .tally, .fuses, .flt, .acc, .thm, .pwr,
    .bist, .boot, .side]

end Sys2Proof.Machine
end

