-- ==== Sys2Proof/Certificates/Slice0/Obligations.lean ====
section
/-! DEFINITION. The statements for the provers. Each docstring names the rules of the spec it formalises, or says that it rests on
a choice of the model and names the log entry. -/

open Sys2Proof Sys2Proof.Machine

/-- Flume `f` with the waiting requests that are left. -/
def leftWaiting (s : State) (f : Nat) (rest : List Req) : State := modFlume s f fun x => { x with waiting := rest }

/-- The state in which request `r` of a port is admitted: it has left the waiting requests. -/
def taken (s : State) (f port : Nat) (r : Req) (rest : List Req) : State :=
  grantTo (leaveIngress (leftWaiting s f rest) r) f (if port = 6 then r.mill else f)

/-- The same for a host's write: write-backs of the line voided, the host answered, its order number used. -/
def answered (s : State) (f port : Nat) (r : Req) (rest : List Req) (h tag : Nat) : State :=
  bumpId (answerWrite (voidWriteBacks (taken s f port r rest) f r.line) h tag) f

/-- The state in which the data of issued read `rid`, request `r`, have come back. -/
def backNow (s : State) (f rid : Nat) (r : Req) : State := dataBack s f (subKey f (coordOf s f r.line).sc) rid

/-- The commands of a sub-channel's retry buffer from number `n` on (R61). -/
def fromError (s : State) (f sc n : Nat) : List Issued := (getSub s (subKey f sc)).retry.dropWhile fun x => x.n != n

/-- A parity error of command `n`: the commands before it have taken effect and left the retry buffer (R61, R62). -/
def atError (s : State) (f sc n : Nat) : State :=
  ((getSub s (subKey f sc)).retry.takeWhile fun x => x.n != n).foldl takeEffect
    (modSub s (subKey f sc) fun u => { u with retry := fromError s f sc n })

/-- The first malformed member of a unit, with the offset of its field (R199, R206). -/
def malformedSlot (n : Nat) (ts : List Slot) : Option (Slot × Nat) :=
  (ts.zip (ctxs (ts.map fun t => t.body))).findSome? fun e => (malformedAt (isAdmin n) e.2.1 e.2.2).map fun o => (e.1, o)

/-- A unit of pair `n` taken off what was fetched, with its descriptor created (R201). -/
def unitNew (s : State) (n : Nat) (ts : List Slot) : State :=
  (newDesc (noteVisit (modPair s n fun x => { x with fetched := x.fetched.drop ts.length }) n) n (ts.map fun t => t.body)).2

/-- The tally store with a flume's soft-repair record written (R305, R346). -/
def putSoft (t : Tally) (f : Nat) (r : SoftRec) : Tally := { t with soft := tabMod none t.soft f fun o => some (putCopy o r) }

/-- What a stage reads and writes. -/
def stageRanges (g : Stage) : List Range := (opRanges g.c g.m).1 ++ (opRanges g.c g.m).2

/-- Mill `m` has a stage `g` of opcode `op` to run: no safe state, DMA open where it needs host memory, every flume of its ranges takes
requests and no line of them waits for a scrub. -/
abbrev StageReady (s : State) (m op : Nat) (g : Stage) : Prop :=
  stageOf s m = some g ∧ bOp g.m = op ∧ s.flt.safe = false ∧ (stageHost g && !dmaOpen s g.head) = false ∧
    ((rangeFlumes s (stageRanges g)).filter fun f => !flumeOpen s f) = [] ∧ rangeScrubbed s (stageRanges g) = false
/-- The queue is first in, first out: a step takes the command at its front and carries it out with the queue's rest. -/
def Obligations.CommandAtFront : Prop :=
  ∀ (s : State) (c : Instr), step { s with pending := c :: s.pending } = exec c s

/-- A choice of the model (log 1): with no command waiting the clock advances by 1 ns and nothing else changes. -/
def Obligations.EmptyQueue : Prop :=
  ∀ (s : State), s.pending = [] → step s = .next { s with now := s.now + 1 }

/-- A command whose elements exist (flumes, mills, heads, lanes ... : Instr.wf) never stops the model. -/
def Obligations.EveryCommandRuns : Prop :=
  ∀ (s : State) (c : Instr), c.wf = true → ∃ t, exec c s = .next t

/-- The canonical form of the arrays is the model's (log 4): no two states that differ as data stand for the same device. It and the
well-formedness of what waits are kept by every step, from every such state. -/
def Obligations.CanonicalStep : Prop :=
  ∀ (s : State), s.queueWf → s.wf → ∃ t, step s = .next t ∧ t.queueWf ∧ t.wf

/-- The state after reset is canonical and nothing waits. -/
def Obligations.ResetCanonical : Prop :=
  State.reset.wf ∧ State.reset.queueWf ∧ State.reset.pending = [] ∧ State.reset.mem = [] ∧ State.reset.out = [] ∧
  (∀ off, regGet State.reset off = regReset off) ∧ (∀ f, f < 32 → regGet State.reset (oFlm f 0x10) = 200) ∧ regGet State.reset (oGrd 0x14) = 100 ∧
  State.reset.boot.step = 1 ∧ State.reset.boot.ready = false ∧ State.reset.boot.linkEn = false ∧ State.reset.flt.safe = false ∧
  (∀ f, (getFlume State.reset f).pstate = 0 ∧ (getFlume State.reset f).queue = [] ∧ (getFlume State.reset f).waiting = []) ∧
  (∀ h, (getHead State.reset h).linkUp = false) ∧ (∀ n, (getPair State.reset n).state = 0) ∧ (∀ l, (getLane State.reset l).scanning = false) ∧
  State.reset.descs = [] ∧ State.reset.parts = [] ∧ State.reset.regions = [] ∧ State.reset.leat.joined = false

/-- The frame of every command, in every state and on every path: a part of the state that `touches` does not list for it is left as it is. -/
def Obligations.CommandTouches : Prop :=
  ∀ (s : State) (t : State) (c : Instr) (k : Field), exec c s = .next t → k ∉ touches c → k.same s t

/-- 13_fuses.md: a fuse bit can be set but never cleared. Programming, completion of an intent record, resets and everything else only ever set fuse bits, at each of the three margins. -/
def Obligations.FuseBitsOnlySet : Prop :=
  ∀ (s : State) (t : State), s.queueWf → s.wf → step s = .next t → FuseGrow s.fuses t.fuses

/-- The list of what has left the device only grows (log 5), and a command takes no time of its own (log 1). -/
def Obligations.SentStaysSent : Prop :=
  ∀ (s : State) (t : State) (c : Instr), c.wf = true → exec c s = .next t →
      s.out <+: t.out ∧ t.now = s.now ∧ t.pending = s.pending

/-- R24 and R216: a commit succeeds or sets Error Not Committed. The lock bit and the order of release are the model's reading of CXL 3.1 (log 15). -/
def Obligations.HdmCommit : Prop :=
  (∀ (s : State) (h i base size ways gran skip : Nat) (lock : Bool), h < 4 → i < 8 →
     (tabGet decoderInit (getHead s h).decoders i).committed = false →
       exec (.hdmDecoderCommit h i base size ways gran skip lock true) s = .next (modHead s h fun x => { x with
           decoders := tabSet decoderInit x.decoders i
             (if commitOk (getHead s h) i base size ways gran skip
              then ⟨base, size, ways, gran, skip, decoderEnd (getHead s h) i + skip, true, lock, false⟩
              else ⟨base, size, ways, gran, skip, 0, false, lock, true⟩) }) ∧
         exec (.hdmDecoderCommit h i base size ways gran skip lock false) s = .next (modHead s h fun x => { x with
           decoders := tabSet decoderInit x.decoders i
             { tabGet decoderInit (getHead s h).decoders i with committed := false, failed := false } })) ∧
  (∀ (s : State) (h i base size ways gran skip : Nat) (lock : Bool), h < 4 → i < 8 →
     (tabGet decoderInit (getHead s h).decoders i).lock = false →
     (tabGet decoderInit (getHead s h).decoders (i + 1)).committed = false →
       exec (.hdmDecoderCommit h i base size ways gran skip lock false) s = .next (modHead s h fun x => { x with
           decoders := tabSet decoderInit x.decoders i
             { tabGet decoderInit (getHead s h).decoders i with committed := false, failed := false } })) ∧
  (∀ (s : State) (h i base size ways gran skip : Nat) (lock commit : Bool), h < 4 → i < 8 →
     (tabGet decoderInit (getHead s h).decoders i).committed = true →
     (tabGet decoderInit (getHead s h).decoders i).lock = true ∨ commit = true →
       exec (.hdmDecoderCommit h i base size ways gran skip lock commit) s = .next s)

/-- A host request that resolves waits at its flume; a speculative read and an invalidate touch no line. -/
def Obligations.HostRequestsWait : Prop :=
  (∀ (s : State) (h tag hpa : Nat) (meta0 : Bool) (dpa i : Nat), s.wf → h < 4 → mayRead (getHead s h) = true →
     s.flt.safe = false → dpaOfHpa (getHead s h) hpa = some dpa → regionAt s dpa = some i →
     bitOf (rgHeads (regionWord s i)) h = true →
       exec (.memRd h tag hpa meta0 .clean) s = .next (ingress (takeCredit (memArrives s h) h false) (lineOf (regionWord s i) dpa).1
           { reqInit with port := h, cls := 1, line := (lineOf (regionWord s i) dpa).2, dest := .host h tag meta0, dpaLine := dpa / 64, region := i,
                          entry := regionWord s i }) ∧
         exec (.memRdFwd h tag hpa meta0 .clean) s = exec (.memRd h tag hpa meta0 .clean) s) ∧
  (∀ (s : State) (h tag hpa : Nat) (data : Line) (poison : Bool) (md : Option (BitVec 2)) (dpa i : Nat), s.wf → h < 4 →
     mayWrite (getHead s h) = true → s.flt.safe = false → dpaOfHpa (getHead s h) hpa = some dpa → regionAt s dpa = some i →
     bitOf (rgHeads (regionWord s i)) h = true → (rgMode (regionWord s i) != 0 && rgSecondary (regionWord s i)) = false →
       exec (.memWr h tag hpa data poison md .clean) s = .next (ingress (takeCredit (notePoison (memArrives s h) h poison) h true) (lineOf (regionWord s i) dpa).1
           { reqInit with port := h, cls := 1, line := (lineOf (regionWord s i) dpa).2, dest := .host h tag false, dpaLine := dpa / 64, region := i,
                          kind := .write, data := data, mask := BitVec.allOnes 64, poison := poison, md := md, entry := regionWord s i }) ∧
         exec (.memWrFwd h tag hpa data poison md .clean) s = exec (.memWr h tag hpa data poison md .clean) s) ∧
  (∀ (s : State) (h tag hpa : Nat) (data : Line) (mask : BitVec 64) (poison : Bool) (md : Option (BitVec 2)) (dpa i : Nat),
     s.wf → h < 4 → mayWrite (getHead s h) = true → s.flt.safe = false → dpaOfHpa (getHead s h) hpa = some dpa →
     regionAt s dpa = some i → bitOf (rgHeads (regionWord s i)) h = true →
     (rgMode (regionWord s i) != 0 && rgSecondary (regionWord s i)) = false →
       exec (.memWrPtl h tag hpa data mask poison md .clean) s = .next (ingress (takeCredit (notePoison (memArrives s h) h poison) h true) (lineOf (regionWord s i) dpa).1
           { reqInit with port := h, cls := 1, line := (lineOf (regionWord s i) dpa).2, dest := .host h tag false, dpaLine := dpa / 64, region := i,
                          kind := if mask = BitVec.allOnes 64 then .write else .partialWrite, data := data, mask := mask, poison := poison, md := md,
                          entry := regionWord s i })) ∧
  (∀ (s : State) (h f : Nat) (poison write : Bool) (r : Req),
       notePoison s h poison = (if poison then modHead s h (fun x => { x with rasCor := x.rasCor ||| 0x20 }) else s) ∧
         (ingress (takeCredit (notePoison (memArrives s h) h poison) h write) f r).mem = s.mem) ∧
  (∀ (s : State) (h tag hpa : Nat), h < 4 → mayRead (getHead s h) = true →
       exec (.memSpecRd h hpa) s = .next (passThrough (memArrives s h) h false) ∧
         exec (.memInv h tag hpa) s = .next (respond (passThrough (memArrives s h) h false) h (.ndr tag false)))

/-- What the arrival of a host request and its joining a flume change. -/
def Obligations.ArrivalFrame : Prop :=
  (∀ (s : State) (h : Nat), s.wf →
       (getHead (memArrives s h) h).hint = none ∧ (∀ g, g ≠ h → getHead (memArrives s h) g = getHead s g) ∧
         (memArrives s h).pwr.waking = (s.pwr.waking || decide (2 ≤ s.pwr.dstate) || s.pwr.entering.isSome) ∧
         memArrives s h = { s with heads := (memArrives s h).heads, pwr := { s.pwr with waking := (memArrives s h).pwr.waking } }) ∧
  (∀ (s : State) (f : Nat) (r : Req), s.wf →
       (getFlume (ingress s f r) f).waiting = (getFlume s f).waiting ++ [r] ∧ (∀ g, g ≠ f → getFlume (ingress s f r) g = getFlume s g) ∧
         ingress s f r = { s with flumes := (ingress s f r).flumes, pwr := { s.pwr with waking := (ingress s f r).pwr.waking } })

/-- The oldest waiting request that may go next at a port enters the queue. -/
def Obligations.RequestsAccepted : Prop :=
  (∀ (s : State) (f port : Nat) (r : Req) (rest : List Req), f < 32 → port < 9 →
     takeFirst (acceptTurn s f port) (getFlume s f).waiting = some (r, rest) →
     (flumeOpen s f && portFree (getFlume s f) port && destFree s r.dest) = true → r.kind = .read → r.secondary = false →
     (placeOf (bumpId (taken s f port r rest) f) f r.line).isSome = true →
     (getFlume (bumpId (taken s f port r rest) f) f).refetch.contains r.line = false →
       exec (.requestAccept f port) s = .next (putQueue (bumpId (taken s f port r rest) f) f (stamped (taken s f port r rest) f r)) ∧
         (stamped (taken s f port r rest) f r).id = (getFlume (taken s f port r rest) f).nextId ∧ (stamped (taken s f port r rest) f r).since = s.now) ∧
  (∀ (s : State) (f port : Nat) (r : Req) (rest : List Req) (h tag : Nat) (m : Bool), f < 32 → port < 9 →
     takeFirst (acceptTurn s f port) (getFlume s f).waiting = some (r, rest) →
     (flumeOpen s f && portFree (getFlume s f) port && destFree s r.dest) = true → r.kind = .write →
     r.dest = .host h tag m → r.primary = false → (placeOf (answered s f port r rest h tag) f r.line).isSome = true →
       exec (.requestAccept f port) s = .next (mirrorStep (putQueue (answered s f port r rest h tag) f
           { r with mirror := false, inject := injectOn (voidWriteBacks (taken s f port r rest) f r.line) f r,
                    id := (getFlume (voidWriteBacks (taken s f port r rest) f r.line) f).nextId,
                    since := (voidWriteBacks (taken s f port r rest) f r.line).now }) f)) ∧
  (∀ (s : State) (f port : Nat), f < 32 → port < 9 → takeFirst (acceptTurn s f port) (getFlume s f).waiting = none →
       exec (.requestAccept f port) s = .next s)

/-- Age promotion and urgency mark requests and end a logic slice. -/
def Obligations.QueueMarks : Prop :=
  (∀ (s : State) (f rid : Nat) (r : Req), f < 32 → (getFlume s f).queue.find? (fun q => q.id == rid) = some r →
     ageLimit s f r.cls < s.now - r.since →
       exec (.agePromotion f rid) s = .next (abandonSlice (modFlume s f fun x =>
           { x with queue := x.queue.map fun q => if promotes x r q then { q with promoted := true } else q,
                    inflight := x.inflight.map fun q => if promotes x r q then { q with promoted := true } else q })
           (subKey f (coordOf s f r.line).sc))) ∧
  (∀ (s : State) (f rid : Nat) (r : Req), f < 32 → (getFlume s f).queue.find? (fun q => q.id == rid) = some r →
       exec (.urgencyRise f rid) s = .next
           (if urgencyAt (s.now - r.since) (portTarget s f r.port) = 4 then
             abandonSlice (modFlume s f fun x => { x with queue := x.queue.map fun q =>
               if q.id == rid then { q with urgency := urgencyAt (s.now - r.since) (portTarget s f r.port) } else q })
               (subKey f (coordOf s f r.line).sc)
            else modFlume s f fun x => { x with queue := x.queue.map fun q =>
               if q.id == rid then { q with urgency := urgencyAt (s.now - r.since) (portTarget s f r.port) } else q }))

/-- A command slot lets cycles pass and issues at most one command, in a fixed order of preference. -/
def Obligations.ScheduleOneCommand : Prop :=
  (∀ (s : State) (f sc gap : Nat), f < 32 → sc < 4 →
     subIssues (passCycles s (subKey f sc) gap) f sc = false ∨ fullPass (passCycles s (subKey f sc) gap) f sc = true →
       exec (.scheduleCommand f sc gap) s = .next (passCycles s (subKey f sc) gap)) ∧
  (∀ (s : State) (f sc gap b : Nat), f < 32 → sc < 4 → subIssues (passCycles s (subKey f sc) gap) f sc = true →
     fullPass (passCycles s (subKey f sc) gap) f sc = false →
     zeroRefresh (passCycles s (subKey f sc) gap) (subKey f sc) = some b →
       exec (.scheduleCommand f sc gap) s = .next
           (if (getBank (passCycles s (subKey f sc) gap) b).openRow.isSome then issuePre (passCycles s (subKey f sc) gap) f (subKey f sc) b
            else issueRef (passCycles s (subKey f sc) gap) f (subKey f sc) b)) ∧
  (∀ (s : State) (f sc gap : Nat), f < 32 → sc < 4 → subIssues (passCycles s (subKey f sc) gap) f sc = true →
     fullPass (passCycles s (subKey f sc) gap) f sc = false →
     zeroRefresh (passCycles s (subKey f sc) gap) (subKey f sc) = none →
     (getFlume (passCycles s (subKey f sc) gap) f).held = true →
       exec (.scheduleCommand f sc gap) s = .next (passCycles s (subKey f sc) gap)) ∧
  (∀ (s : State) (f sc gap b : Nat), f < 32 → sc < 4 → subIssues (passCycles s (subKey f sc) gap) f sc = true →
     fullPass (passCycles s (subKey f sc) gap) f sc = false →
     zeroRefresh (passCycles s (subKey f sc) gap) (subKey f sc) = none →
     (getFlume (passCycles s (subKey f sc) gap) f).held = false →
     zeroElement (passCycles s (subKey f sc) gap) f (subKey f sc) = some b →
       exec (.scheduleCommand f sc gap) s = .next
           (if (getBank (passCycles s (subKey f sc) gap) b).openRow.isSome then issuePre (passCycles s (subKey f sc) gap) f (subKey f sc) b
            else issueElement (passCycles s (subKey f sc) gap) f (subKey f sc) b)) ∧
  (∀ (s : State) (f sc gap : Nat) (p : Pass), f < 32 → sc < 4 → subIssues (passCycles s (subKey f sc) gap) f sc = true →
     fullPass (passCycles s (subKey f sc) gap) f sc = false →
     zeroRefresh (passCycles s (subKey f sc) gap) (subKey f sc) = none →
     (getFlume (passCycles s (subKey f sc) gap) f).held = false →
     zeroElement (passCycles s (subKey f sc) gap) f (subKey f sc) = none →
     livePass (passCycles s (subKey f sc) gap) f sc = some p →
     trainFirst (passCycles s (subKey f sc) gap) p (bestCand (candsOf (passCycles s (subKey f sc) gap) f sc)) = true →
       exec (.scheduleCommand f sc gap) s = .next (issueTrain (passCycles s (subKey f sc) gap) f sc p)) ∧
  (∀ (s : State) (f sc gap : Nat), f < 32 → sc < 4 → subIssues (passCycles s (subKey f sc) gap) f sc = true →
     fullPass (passCycles s (subKey f sc) gap) f sc = false →
     zeroRefresh (passCycles s (subKey f sc) gap) (subKey f sc) = none →
     (getFlume (passCycles s (subKey f sc) gap) f).held = false →
     zeroElement (passCycles s (subKey f sc) gap) f (subKey f sc) = none →
     (∀ p, livePass (passCycles s (subKey f sc) gap) f sc = some p → trainFirst (passCycles s (subKey f sc) gap) p (bestCand (candsOf (passCycles s (subKey f sc) gap) f sc)) = false) →
       exec (.scheduleCommand f sc gap) s = .next (match bestCand (candsOf (passCycles s (subKey f sc) gap) f sc) with
           | some x => issueCand (passCycles s (subKey f sc) gap) f sc x
           | none => passCycles s (subKey f sc) gap)) ∧
  (∀ (s : State) (f sc tier bank row : Nat), f < 32 → sc < 4 → tier < 17 → bank < 16 →
     (getBank (passCycles s (subKey f sc) 1) (bankKey f sc tier bank)).openRow = some row →
     regField s (oFlm f 0x54) 7 0 ≤ (getSub (passCycles s (subKey f sc) 1) (subKey f sc)).cycle - (getBank (passCycles s (subKey f sc) 1) (bankKey f sc tier bank)).usedAt →
     (getBank (passCycles s (subKey f sc) 1) (bankKey f sc tier bank)).preAt ≤ (getSub (passCycles s (subKey f sc) 1) (subKey f sc)).cycle →
     hitWaits s f (bankKey f sc tier bank) row = false → subIssues (passCycles s (subKey f sc) 1) f sc = true →
     fullPass (passCycles s (subKey f sc) 1) f sc = false → (getFlume s f).held = false →
       exec (.rowIdleClose f sc tier bank) s = .next (issuePre (passCycles s (subKey f sc) 1) f (subKey f sc) (bankKey f sc tier bank))) ∧
  (∀ (s : State) (f sc tier bank : Nat), f < 32 → sc < 4 → tier < 17 → bank < 16 →
     (getBank (passCycles s (subKey f sc) 1) (bankKey f sc tier bank)).openRow = none →
       exec (.rowIdleClose f sc tier bank) s = .next s)

/-- What an activate, a precharge and a refresh do to their bank. -/
def Obligations.RowCommands : Prop :=
  (∀ (s : State) (f sub b row : Nat), s.wf →
       (getBank (issueAct s f sub b row) b).openRow = some row ∧ (getBank (issueAct s f sub b row) b).hits = 0 ∧
         (∀ k, k ≠ b → getBank (issueAct s f sub b row) k = getBank s k) ∧ (issueAct s f sub b row).mem = s.mem ∧
         (issueAct s f sub b row).flumes = s.flumes ∧
         (getSub (issueAct s f sub b row) sub).retry = (getSub s sub).retry ++ [⟨(getSub s sub).count, (getSub s sub).cycle, 0, .act b row⟩]) ∧
  (∀ (s : State) (f sub b : Nat), s.wf →
       (getBank (issuePre s f sub b) b).openRow = none ∧ (getBank (issuePre s f sub b) b).hits = 0 ∧
         (∀ k, k ≠ b → getBank (issuePre s f sub b) k = getBank s k) ∧ (issuePre s f sub b).mem = s.mem ∧ (issuePre s f sub b).flumes = s.flumes ∧
         (getSub (issuePre s f sub b) sub).retry = (getSub s sub).retry ++ [⟨(getSub s sub).count, (getSub s sub).cycle, 0, .pre b⟩]) ∧
  (∀ (s : State) (f sub b : Nat), s.wf →
       (getBank (issueRef s f sub b) b).rowCtr = ((getBank s b).rowCtr + 1) % 1028 ∧
         (getBank (issueRef s f sub b) b).refDue = (getBank s b).refDue - 1 ∧
         (∀ k, k ≠ b → getBank (issueRef s f sub b) k = getBank s k) ∧ (issueRef s f sub b).mem = s.mem ∧ (issueRef s f sub b).flumes = s.flumes ∧
         (getSub (issueRef s f sub b) sub).retry = (getSub s sub).retry ++
           [⟨(getSub s sub).count, (getSub s sub).cycle, 0, .ref b (decide (0 < (getBank s b).owedDue))⟩])

/-- Storing a line changes the 80 bytes of its place and nothing else of the array. -/
def Obligations.WriteStoresItsLine : Prop :=
  (∀ (s : State) (f line data : Nat) (md : Option (BitVec 2)) (dirty poison : Bool) (inj : List Nat) (p : Place),
     placeOf s f line = some p →
       ∀ a, a < lineKey p * 80 ∨ lineKey p * 80 + 80 ≤ a →
           tabGet (0 : Byte) (storeLine s f line data md dirty poison inj).mem a = tabGet 0 s.mem a) ∧
  (∀ (s : State) (f line data : Nat) (md : Option (BitVec 2)) (dirty poison : Bool) (inj : List Nat),
     placeOf s f line = none → storeLine s f line data md dirty poison inj = s) ∧
  (∀ (s : State) (p : Place) (v : Nat), s.wf → heldAt s p = none → v < 2 ^ 640 →
       storedAt (setStored s p v) p = v ∧ (∀ q, heldAt s q = none → lineKey q ≠ lineKey p → storedAt (setStored s p v) q = storedAt s q)) ∧
  (∀ (s : State) (p : Place) (v : Nat) (h : HeldRow), heldAt s p = some h → (setStored s p v).mem = s.mem)

/-- A read answers with the decoded line. -/
def Obligations.ReadReturns : Prop :=
  (∀ (s : State) (f rid : Nat) (flips1 flips2 : List Nat) (r : Req) (p : Place), f < 32 →
     (getFlume s f).inflight.find? (fun q => q.id == rid) = some r → destFree s r.dest = true → copyOf s f rid = none →
     readHeld (getSub s (subKey f (coordOf s f r.line).sc)) rid = false → r.kind = .read →
     placeOf (backNow s f rid r) f r.line = some p → (readPlace (backNow s f rid r) p flips1).bad = false →
     (readPlace (backNow s f rid r) p flips1).words = 0 → poisonSplit (readPlace (backNow s f rid r) p flips1).md = false →
       exec (.readDataReturn f rid flips1 flips2) s = .next (completeRead (dropReq (backNow s f rid r) f r.id) r f
           (readPlace (backNow s f rid r) p flips1).data (readPlace (backNow s f rid r) p flips1).md (mdPoison (readPlace (backNow s f rid r) p flips1).md))) ∧
  (∀ (s : State) (r : Req) (f data md h tag : Nat) (m : Bool), r.dest = .host h tag m →
       completeRead s r f data md false = respond s h (.drs tag (BitVec.ofNat 512 data) false (if m then some (BitVec.ofNat 2 (mdCxl md)) else none) false)) ∧
  (∀ (s : State) (f rid : Nat) (flips1 flips2 : List Nat), f < 32 →
     (getFlume s f).inflight.find? (fun q => q.id == rid) = none → exec (.readDataReturn f rid flips1 flips2) s = .next s)

/-- A head above its weir for 1 ms is marked and told once. -/
def Obligations.Overload : Prop :=
  (∀ (s : State) (f h t : Nat), f < 32 → h < 4 → tabGet none (getFlume s f).aboveSince h = some t → 1000000 ≤ s.now - t →
     (getFlume s f).overloadSaid.contains h = false →
       exec (.sustainedOverload f h) s = .next (event (scEvent
           (modFlume s f fun x => { x with overloadSaid := insertNat h x.overloadSaid }) (oFlm f 0x58) fun v => v ||| 2 ^ h) (32 + f) 7 1 0 0)) ∧
  (∀ (s : State) (f h : Nat), f < 32 → h < 4 →
     ((getFlume s f).overloadSaid.contains h = true ∨ tabGet none (getFlume s f).aboveSince h = none ∨ ∃ t, tabGet none (getFlume s f).aboveSince h = some t ∧ s.now - t < 1000000) →
       exec (.sustainedOverload f h) s = .next s)

/-- A flume is held by its control register and reaches Hold when its work is done. -/
def Obligations.FlumeHold : Prop :=
  (∀ (s : State) (path f : Nat) (v : Word), path < 5 → f < 32 → pathOpen s path = true → busy s f = false →
     portAwake s f = true →
       exec (.holdFlume path f v) s = .next (followHold (regSet s (oFlm f 0)
             (BitVec.ofNat 32 (maskedValue (regGet s (oFlm f 0)).toNat v.toNat 7))) f) ∧
         exec (.releaseFlume path f v) s = exec (.holdFlume path f v) s) ∧
  (∀ (s : State) (f : Nat), f < 32 → (getFlume s f).holding = true → (getFlume s f).queue = [] →
     (getFlume s f).inflight = [] → (getFlume s f).heldRows = [] → (s.leat.copies.any fun c => c.flume == f) = false →
     ((List.range 4).all fun sc => (getSub s (subKey f sc)).held.isEmpty) = true →
       exec (.flumeHeld f) s = .next (modFlume (forAll s [0, 1, 2, 3] fun s sc => drainWindows s (subKey f sc)) f fun x => { x with holding := false, held := true })) ∧
  (∀ (s : State) (f : Nat), f < 32 →
     ((getFlume s f).holding = false ∨ (getFlume s f).queue ≠ [] ∨ (getFlume s f).inflight ≠ [] ∨ (getFlume s f).heldRows ≠ []) →
       exec (.flumeHeld f) s = .next s)

/-- A command-register write that cannot be taken at once is dropped, logged or posted. -/
def Obligations.PostedWrites : Prop :=
  (∀ (s : State) (path off port v : Nat) (take : State → State), pathOpen s path = false →
       writeNow s path off port v take = s) ∧
  (∀ (s : State) (path off port v : Nat) (take : State → State), pathOpen s path = true → busy s port = true →
       writeNow s path off port v take = accessFault s path 4 off) ∧
  (∀ (s : State) (path off port v : Nat) (take : State → State), pathOpen s path = true → busy s port = false →
     portAwake s port = false →
       writeNow s path off port v take = wakePort { s with acc := { s.acc with
           posted := tabSet none s.acc.posted port (some ⟨path, off, [BitVec.ofNat 32 v]⟩) } } port)

/-- A command-address parity error is replayed three times and then stops the sub-channel. -/
def Obligations.CommandParity : Prop :=
  (∀ (s : State) (f sc tier n : Nat) (loop : LoopRes) (e : Issued), f < 32 → sc < 4 → tier < 17 → s.flt.safe = false →
     (getSub s (subKey f sc)).offline = false → (getSub s (subKey f sc)).retry.find? (fun x => x.n == n) = some e →
     e.fails < 3 →
       exec (.caparError f sc tier n loop) s = .next (event (scEvent
           (reissue ((fromError s f sc n).foldl undoCmd (atError s f sc n)) f (subKey f sc)
             ((getSub s (subKey f sc)).cycle + cycles s f 1200) (countFail (e.fails + 1) (fromError s f sc n))) (oFlm f 0x5C)
           fun v => putBits (putBits (bumpBits v 23 16) 13 12 sc) 8 4 tier) (32 + f) 6 0 (sc + 4 * tier) n)) ∧
  (∀ (s : State) (f sc tier n : Nat) (loop : LoopRes) (e : Issued), f < 32 → sc < 4 → tier < 17 → s.flt.safe = false →
     (getSub s (subKey f sc)).offline = false → (getSub s (subKey f sc)).retry.find? (fun x => x.n == n) = some e →
     3 ≤ e.fails → (loop.wires.filter fun w => 320 ≤ w ∧ w ≤ 344) = [] →
       ∃ t, t = event (modSub (scEvent ((fromError s f sc n).foldl undoCmd (atError s f sc n)) (oFlm f 0x5C)
               fun v => putBits (putBits (putBits v 13 12 sc) 8 4 tier) 0 0 1) (subKey f sc)
             fun u => { u with stopped := true, retry := [], held := countFail 0 (fromError s f sc n) }) (32 + f) 6 2 (sc + 4 * tier) n ∧
           exec (.caparError f sc tier n loop) s = .next (startPass (queuePasses t f sc 0 (getFlume t f).tunedMode (upFrom 0 17)) f sc)) ∧
  (∀ (s : State) (f sc tier n : Nat) (loop : LoopRes), f < 32 → sc < 4 → tier < 17 →
     ((getSub s (subKey f sc)).retry.find? (fun x => x.n == n) = none ∨ (getSub s (subKey f sc)).offline = true ∨ s.flt.safe = true) →
       exec (.caparError f sc tier n loop) s = .next s)

/-- The error tracker forgets entries after one second. -/
def Obligations.TrackerExpiry : Prop :=
  (∀ (s : State) (f key : Nat), f < 32 →
       exec (.trackerEntryExpiry f key) s = .next (modFlume s f fun x =>
           { x with tracker := x.tracker.filter fun e => !(e.key == key && !e.waiting && decide (1000000000 ≤ s.now - e.since)) })) ∧
  (∀ (s : State) (f key : Nat), f < 32 →
       exec (.trackerWaitExpiry f key) s = .next (modFlume s f fun x =>
           { x with tracker := x.tracker.filter fun e => !(e.key == key && e.waiting && decide (1000000000 ≤ s.now - e.since)) }))

/-- Refreshes fall due, are postponed, owed and made up. -/
def Obligations.RefreshWork : Prop :=
  (∀ (s : State) (f sc tier bank : Nat), f < 32 → sc < 4 → tier < 17 → bank < 16 →
     (getBank s (bankKey f sc tier bank)).dueAt ≤ s.now → busRefresh s f sc tier = true →
     (((getSub s (subKey f sc)).logicSlice = true ∧ 7 ≤ (getBank s (bankKey f sc tier bank)).owed) ∨ ((getSub s (subKey f sc)).logicSlice = false ∧ (bankWanted s f (bankKey f sc tier bank) = false ∨ postponeMax s f ≤ (getBank s (bankKey f sc tier bank)).owed))) →
       exec (.refreshDue f sc tier bank) s = .next (abandonSlice
           (modBank (modBank s (bankKey f sc tier bank) fun k => { k with dueAt := k.dueAt + refInterval (bandOf s f tier) })
             (bankKey f sc tier bank) fun k => { k with refDue := k.refDue + 1 }) (subKey f sc))) ∧
  (∀ (s : State) (f sc tier bank : Nat), f < 32 → sc < 4 → tier < 17 → bank < 16 →
     (getBank s (bankKey f sc tier bank)).dueAt ≤ s.now → busRefresh s f sc tier = true →
     (((getSub s (subKey f sc)).logicSlice = true ∧ (getBank s (bankKey f sc tier bank)).owed < 7) ∨ ((getSub s (subKey f sc)).logicSlice = false ∧ bankWanted s f (bankKey f sc tier bank) = true ∧ (getBank s (bankKey f sc tier bank)).owed < postponeMax s f)) →
       exec (.refreshDue f sc tier bank) s = .next (postpone
           (modBank s (bankKey f sc tier bank) fun k => { k with dueAt := k.dueAt + refInterval (bandOf s f tier) }) f (bankKey f sc tier bank))) ∧
  (∀ (s : State) (f sc tier bank : Nat), f < 32 → sc < 4 → tier < 17 → bank < 16 →
     (s.now < (getBank s (bankKey f sc tier bank)).dueAt ∨ busRefresh s f sc tier = false) →
       exec (.refreshDue f sc tier bank) s = .next s) ∧
  (∀ (s : State) (f sc tier bank : Nat), f < 32 → sc < 4 → tier < 17 → bank < 16 → busRefresh s f sc tier = true →
     (getSub s (subKey f sc)).logicSlice = false →
     (getBank s (bankKey f sc tier bank)).owedDue < (getBank s (bankKey f sc tier bank)).owed →
     (postponeMax s f ≤ (getBank s (bankKey f sc tier bank)).owed ∨ bankWanted s f (bankKey f sc tier bank) = false ∧ (getBank s (bankKey f sc tier bank)).owedDue = 0) →
       exec (.owedRefresh f sc tier bank) s = .next (modBank s (bankKey f sc tier bank) fun k =>
           let n := if postponeMax s f ≤ (getBank s (bankKey f sc tier bank)).owed then
             (getBank s (bankKey f sc tier bank)).owed - (getBank s (bankKey f sc tier bank)).owedDue else 1
           { k with refDue := k.refDue + n, owedDue := k.owedDue + n })) ∧
  (∀ (s : State) (f sc tier bank : Nat), f < 32 → sc < 4 → tier < 17 → bank < 16 →
     ((getBank s (bankKey f sc tier bank)).owed ≤ (getBank s (bankKey f sc tier bank)).owedDue ∨ (getSub s (subKey f sc)).logicSlice = true) →
       exec (.owedRefresh f sc tier bank) s = .next s) ∧
  (∀ (s : State) (f sc tier bank : Nat), f < 32 → sc < 4 → tier < 17 → bank < 16 →
     (getBank s (bankKey f sc tier bank)).dueAt ≤ s.now → bayOut s f sc tier = false →
     (2 ≤ (getFlume s f).pstate ∨ s.flt.safe = true) → (getFlume s f).pstate ≠ 4 →
       exec (.selfRefreshDue f sc tier bank) s = .next (modBank s (bankKey f sc tier bank) fun k =>
           { k with rowCtr := (k.rowCtr + 1) % 1028, dueAt := k.dueAt + refInterval (bandOf s f tier) })) ∧
  (∀ (s : State) (f sc tier bank : Nat), f < 32 → sc < 4 → tier < 17 → bank < 16 →
     (getBank s (bankKey f sc tier bank)).dueAt ≤ s.now → bayOut s f sc tier = false → (getFlume s f).pstate = 4 →
       exec (.selfRefreshDue f sc tier bank) s = .next (modBank (brakeStep s f tier) (bankKey f sc tier bank) fun k =>
           { k with rowCtr := (k.rowCtr + 1) % 1028, dueAt := k.dueAt + refInterval (selfBand (brakeStep s f tier) f tier) })) ∧
  (∀ (s : State) (f sc tier bank : Nat), f < 32 → sc < 4 → tier < 17 → bank < 16 →
     (s.now < (getBank s (bankKey f sc tier bank)).dueAt ∨ bayOut s f sc tier = true ∨ (getFlume s f).pstate ≤ 1 ∧ s.flt.safe = false) →
       exec (.selfRefreshDue f sc tier bank) s = .next s) ∧
  (∀ (s : State) (f b : Nat), s.wf →
       (getBank (postpone s f b) b).owed = (getBank s b).owed + 1 ∧
         refInterval 0 = 30880 ∧ refInterval 1 = 15440 ∧ refInterval 2 = 7720)

/-- Canary sweeps and retention scrubs run where the flume is open. -/
def Obligations.CanaryAndScrub : Prop :=
  (∀ (s : State) (f : Nat) (env : OpEnv), f < 32 → flumeOpen s f = true → (getFlume s f).pstate = 0 →
     max s.boot.since (getFlume s f).sweepAt + 256000000 ≤ s.now →
       exec (.canarySweep f env) s = .next (forAll (modFlume (lookups s env) f fun x => { x with sweepAt := s.now }) (upFrom 0 17) fun s t =>
           (canaryTier s f t env false).2.1.foldl (fun s k => failInRun s f t env k)
             (gradeTier (canaryTier s f t env false).2.2 f t (canaryTier s f t env false).1 (canaryTier s f t env false).2.1 true))) ∧
  (∀ (s : State) (f : Nat) (env : OpEnv), f < 32 →
     (flumeOpen s f = false ∨ (getFlume s f).pstate ≠ 0 ∨ s.now < max s.boot.since (getFlume s f).sweepAt + 256000000) →
       exec (.canarySweep f env) s = .next s) ∧
  (∀ (s : State) (f sc tier bank : Nat) (env : OpEnv), f < 32 → sc < 4 → tier < 17 → bank < 16 →
     (getBank s (bankKey f sc tier bank)).scrubbing = true →
       ∃ t, t = modBank (forAll (scrubRows (lookups s env) f sc tier bank (upFrom 0 8192) env true) (upFrom 8192 32)
               fun s row => scrubSpare s (bankKey f sc tier bank) row env.flips) (bankKey f sc tier bank) (fun k => { k with scrubbing := false }) ∧
           exec (.retentionScrubDone f sc tier bank env) s = .next
             (if (bankLines t f sc tier bank).any fun l => refetchFails t f l then
               mirrorNotice ((bankLines t f sc tier bank).foldl (fun s l => refetchLine s f l) t)
              else (bankLines t f sc tier bank).foldl (fun s l => refetchLine s f l) t)) ∧
  (∀ (s : State) (f sc tier bank : Nat) (env : OpEnv), f < 32 → sc < 4 → tier < 17 → bank < 16 →
     (getBank s (bankKey f sc tier bank)).scrubbing = false → exec (.retentionScrubDone f sc tier bank env) s = .next s)

/-- Remap and repair tables go to their tally records. -/
def Obligations.RepairRecords : Prop :=
  (∀ (s : State) (f : Nat), f < 32 → (getFlume s f).remapDirty = true →
       exec (.remapTallyWrite f true) s = .next { (modFlume s f fun x => { x with remapDirty := false }) with
             tally := { s.tally with remap := tabMod none s.tally.remap f fun o => some (putCopy o (getFlume s f).remap) } } ∧
         exec (.remapTallyWrite f false) s = .next (tallyFail (modFlume s f fun x => { x with remapDirty := false }) 4)) ∧
  (∀ (s : State) (f : Nat), f < 32 → ((getFlume s f).repairsDue ≠ [] ∨ (softOf s f).erasures ≠ flumeErasures s f) →
       ∃ t, t = { (modFlume s f fun x => { x with repairsDue := [] }) with
             tally := putSoft s.tally f ⟨((softOf s f).entries ++ (getFlume s f).repairsDue).take 1024, flumeErasures s f⟩ } ∧
         (((softOf s f).entries ++ (getFlume s f).repairsDue).length ≤ 1024 → exec (.repairTallyWrite f true) s = .next t) ∧
         (1024 < ((softOf s f).entries ++ (getFlume s f).repairsDue).length → exec (.repairTallyWrite f true) s = .next (event t 10 1 1 0 3)) ∧
         exec (.repairTallyWrite f false) s = .next (tallyFail (modFlume s f fun x => { x with repairsDue := [] }) 3)) ∧
  (∀ (s : State) (f : Nat) (ok : Bool), f < 32 → (getFlume s f).remapDirty = false → (getFlume s f).repairsDue = [] →
     (softOf s f).erasures = flumeErasures s f →
       exec (.remapTallyWrite f ok) s = .next s ∧ exec (.repairTallyWrite f ok) s = .next s) ∧
  (∀ {α : Type} (old : Option (Copies α)) (v : α), bestCopy (putCopy old v) = some v)

/-- Self-test slices of the DRAM and the logic. -/
def Obligations.ServiceSlices : Prop :=
  (∀ (s : State) (f sc tier bank row : Nat), f < 32 → sc < 4 → tier < 17 → bank < 16 → row < 8224 → slicesOn s f = true →
     bayOut s f sc tier = false → subIssues s f sc = true → fullPass s f sc = false → demandReady s f sc = false →
     (getBank s (bankKey f sc tier bank)).scrubbing = false →
     ((getFlume s f).heldRows.any fun h => bankSub h.bank == subKey f sc) = false →
       exec (.dramSliceStart f sc tier bank row) s = .next (modBank (modFlume s f fun x => { x with heldRows := x.heldRows ++
             [⟨bankKey f sc tier bank, row, true, 0, (List.range 32).map fun c => BitVec.ofNat 640 (storedAt s ⟨bankKey f sc tier bank, row, c⟩)⟩] })
           (bankKey f sc tier bank) fun k => { k with openRow := none, hits := 0 })) ∧
  (∀ (s : State) (f sc : Nat) (badSpares : List Nat) (h : HeldRow), f < 32 → sc < 4 →
     (getFlume s f).heldRows.find? (fun h => h.slice && bankSub h.bank == subKey f sc) = some h → 8 ≤ h.elems →
       exec (.dramSliceEnd f sc [] badSpares) s = .next (sliceRan (putRow
           (modFlume s f fun x => { x with heldRows := x.heldRows.filter fun y => y != h }) h.bank h.row h.copy))) ∧
  (∀ (s : State) (f sc : Nat) (e : Nat × Nat) (fails : List (Nat × Nat)) (badSpares : List Nat) (h : HeldRow), f < 32 →
     sc < 4 → (getFlume s f).heldRows.find? (fun h => h.slice && bankSub h.bank == subKey f sc) = some h → 2 ≤ h.elems →
       exec (.dramSliceEnd f sc (e :: fails) badSpares) s = .next (sliceRan (repairFailure (noteFail (putRow
           (modFlume s f fun x => { x with heldRows := x.heldRows.filter fun y => y != h }) h.bank h.row h.copy)) h.bank h.row
             (distinct ((e :: fails).map Prod.fst)) (distinct ((e :: fails).map fun e => e.2 % 32)) badSpares))) ∧
  (∀ (s : State) (f sc : Nat) (fails : List (Nat × Nat)) (badSpares : List Nat) (h : HeldRow), f < 32 → sc < 4 →
     (getFlume s f).heldRows.find? (fun h => h.slice && bankSub h.bank == subKey f sc) = some h →
     (h.elems < 2 ∨ h.elems < 8 ∧ fails = []) → exec (.dramSliceEnd f sc fails badSpares) s = .next s) ∧
  (∀ (s : State) (f sc : Nat), f < 32 → sc < 4 → slicesOn s f = true → (getSub s (subKey f sc)).logicSlice = false →
     (getSub s (subKey f sc)).offline = false → (getSub s (subKey f sc)).stopped = false →
     (getSub s (subKey f sc)).sliceAfter ≤ s.now →
     ((getFlume s f).queue.any fun r => (r.promoted || urgencyNow s f r == 4) && (coordOf s f r.line).sc == sc) = false →
       exec (.logicSliceStart f sc) s = .next (modSub s (subKey f sc) fun u => { u with logicSlice := true })) ∧
  (∀ (s : State) (f sc : Nat), f < 32 → sc < 4 → (getSub s (subKey f sc)).logicSlice = true →
       exec (.logicSliceEnd f sc true) s = .next (sliceRan (modSub s (subKey f sc) fun u => { u with logicSlice := false })) ∧
         exec (.logicSliceEnd f sc false) s = .next (withdrawSub (noteFail (sliceRan (modSub s (subKey f sc) fun u => { u with logicSlice := false }))) f sc)) ∧
  (∀ (s : State), bitOf (regGet s (oBst 0)).toNat 0 = true →
     (s.bist.passAt = 0 ∨ max 1 (regField s (oBst 4) 7 0) * 3600 * 1000000000 ≤ s.now - s.bist.passAt) →
       ∃ t, t = (if s.bist.passActive then scEvent s (oBst 0xC) fun v => bumpBits v 4 0 else s) ∧
         exec .inServicePass s = .next { t with bist := { t.bist with passActive := true, done := 0, passAt := s.now } }) ∧
  (∀ (s : State),
     (bitOf (regGet s (oBst 0)).toNat 0 = false ∨ s.bist.passAt ≠ 0 ∧ s.now - s.bist.passAt < max 1 (regField s (oBst 4) 7 0) * 3600 * 1000000000) →
       exec .inServicePass s = .next s)

/-- Rows move to the spare tier or to a spare column, and a new map takes effect. -/
def Obligations.RowMoves : Prop :=
  (∀ (s : State) (f sc : Nat) (env : OpEnv) (t ptr : Nat), f < 32 → sc < 4 →
     tabGet none (getFlume s f).migrate sc = some (t, ptr) → movesOn s f = true → ptr + 1 < 131072 →
       exec (.migrationRow f sc env) s = .next (modFlume (forAll (lookups s env) (upFrom 0 32) fun s col =>
             moveLine s f (placeAt s f ⟨sc, t, ptr / 8192, ptr % 8192, col⟩) (placeAt s f ⟨sc, 16, ptr / 8192, ptr % 8192, col⟩)
               (lineServed s f ⟨sc, t, ptr / 8192, ptr % 8192, col⟩) true env) f
           fun x => { x with migrate := tabSet none x.migrate sc (some (t, ptr + 1)) })) ∧
  (∀ (s : State) (f sc : Nat) (env : OpEnv) (t ptr : Nat), f < 32 → sc < 4 →
     tabGet none (getFlume s f).migrate sc = some (t, ptr) → movesOn s f = true → 131072 ≤ ptr + 1 →
       exec (.migrationRow f sc env) s = .next (releaseRemap (modFlume (forAll (lookups s env) (upFrom 0 32) fun s col =>
             moveLine s f (placeAt s f ⟨sc, t, ptr / 8192, ptr % 8192, col⟩) (placeAt s f ⟨sc, 16, ptr / 8192, ptr % 8192, col⟩)
               (lineServed s f ⟨sc, t, ptr / 8192, ptr % 8192, col⟩) true env) f
           fun x => { x with migrate := tabSet none x.migrate sc none }) f fun e => bits e 2 1 == sc && bits e 7 3 == t)) ∧
  (∀ (s : State) (f sc tier bank : Nat) (env : OpEnv) (g i ptr : Nat), f < 32 → sc < 4 → tier < 17 → bank < 16 →
     (getBank s (bankKey f sc tier bank)).colMove = some (g, i, ptr) → flumeOpen s f = true →
       exec (.columnGroupMoveRow f sc tier bank env) s = .next (modBank (forAll (lookups s env) (upFrom 0 32) fun s col =>
             moveLine s f ⟨bankKey f sc tier bank, ptr, col⟩ ⟨bankKey f sc tier bank, ptr, col⟩
               ((coordHeld s ⟨bankKey f sc tier bank, ptr, col⟩).bind (lineServed s f)) false env)
           (bankKey f sc tier bank) fun k => { k with colMove := if ptr + 1 < 8224 then some (g, i, ptr + 1) else none })) ∧
  (∀ (s : State) (f sc : Nat) (env : OpEnv), f < 32 → sc < 4 →
     (tabGet none (getFlume s f).migrate sc = none ∨ movesOn s f = false) → exec (.migrationRow f sc env) s = .next s) ∧
  (∀ (s : State) (f sc tier bank : Nat) (env : OpEnv), f < 32 → sc < 4 → tier < 17 → bank < 16 →
     ((getBank s (bankKey f sc tier bank)).colMove = none ∨ flumeOpen s f = false) →
       exec (.columnGroupMoveRow f sc tier bank env) s = .next s) ∧
  (∀ (s : State) (path f : Nat), path < 5 → f < 32 → pathOpen s path = true → busy s f = false → portAwake s f = true →
       exec (.flmMapApply path f) s = .next (if (getFlume s f).held then mapApply s f else accessFault s path 5 (oFlm f 0x130)))

/-- Ring pairs are enabled, drained and reset by their command register. -/
def Obligations.RingCommands : Prop :=
  (∀ (s : State) (path n : Nat), path < 5 → n < 256 → pathOpen s path = true → busy s (96 + pairHead n) = false →
     portAwake s (96 + pairHead n) = true →
       exec (.ringEnable path n) s = .next (enablePair (regPut s (oRing n 0x14) 0 0 1) n)) ∧
  (∀ (s : State) (n : Nat), (getPair s n).state = 0 → pairOk s n = true →
       enablePair s n = modPair s n fun x => { pairInit with state := 1, phase := true, pendCount := x.pendCount, pendSince := x.pendSince }) ∧
  (∀ (s : State) (n : Nat), (getPair s n).state = 0 → pairOk s n = false →
       enablePair s n = ringNotice (modPair s n fun x => { x with err := 4 }) n) ∧
  (∀ (s : State) (path n : Nat), path < 5 → n < 256 → pathOpen s path = true → busy s (96 + pairHead n) = false →
     portAwake s (96 + pairHead n) = true → (getPair s n).state = 1 →
       exec (.ringDrain path n) s = .next (modPair (regPut s (oRing n 0x14) 0 0 0) n fun x => { x with state := 3, draining := true, fetched := [] })) ∧
  (∀ (s : State) (path n : Nat), path < 5 → n < 256 → pathOpen s path = true → busy s (96 + pairHead n) = false →
     portAwake s (96 + pairHead n) = true →
       exec (.ringReset path n) s = .next (resetPair (regPut (regPut s (oRing n 0x14) 0 0 0) (oRing n 0x14) 1 1 1) n false)) ∧
  (∀ (s : State) (n : Nat), (getPair s n).state ≠ 0 → enablePair s n = s) ∧
  (∀ (s : State) (n : Nat) (clear : Bool),
       resetPair s n clear = (descsOf s n).foldl (fun s d => modDesc (stopParts s d) d fun x => { x with dropped := true })
           (modPair s n fun x => { x with state := 3, draining := false, fetched := [], clearRegs := x.clearRegs || clear })) ∧
  (∀ (s : State) (n : Nat), n < 256 → (getPair s n).state = 3 → (getPair s n).draining = true → descsOf s n = [] →
       exec (.ringDrainDone n) s = .next (modPair s n fun x => { pairInit with
           phase := x.phase, clearRegs := x.clearRegs, pendCount := x.pendCount, pendSince := x.pendSince })) ∧
  (∀ (s : State) (n : Nat), n < 256 → ((getPair s n).state ≠ 3 ∨ (getPair s n).draining = false ∨ descsOf s n ≠ []) →
       exec (.ringDrainDone n) s = .next s)

/-- Doorbells of a running pair move its pointers. -/
def Obligations.Doorbells : Prop :=
  (∀ (s : State) (path n : Nat) (v : Word), path < 5 → n < 256 → pathOpen s path = true → (getPair s n).state = 1 →
     path = pairHead n → v.toNat % 65536 < sqSize s n →
       exec (.sqTail path n v) s = .next (modPair (doorbellArrives s path) n fun x => { x with sqTail := v.toNat % 65536 })) ∧
  (∀ (s : State) (path n : Nat) (v : Word) (d c : Nat), path < 5 → n < 256 → pathOpen s path = true →
     (getPair s n).state = 1 → path = pairHead n → d = (v.toNat % 65536 + cqSize s n - (getPair s n).cqHead) % cqSize s n →
     c = (if d = 0 ∧ (getPair s n).posted = cqSize s n then cqSize s n else d) → v.toNat % 65536 < cqSize s n →
     c ≤ (getPair s n).posted →
       exec (.cqHead path n v) s = .next (modPair (doorbellArrives s path) n fun x =>
           { x with cqHead := v.toNat % 65536, posted := x.posted - c })) ∧
  (∀ (s : State) (path n : Nat) (v : Word) (d c : Nat), path < 5 → n < 256 → pathOpen s path = true →
     (getPair s n).state = 1 → path = pairHead n → d = (v.toNat % 65536 + cqSize s n - (getPair s n).cqHead) % cqSize s n →
     c = (if d = 0 ∧ (getPair s n).posted = cqSize s n then cqSize s n else d) →
     (cqSize s n ≤ v.toNat % 65536 ∨ (getPair s n).posted < c) →
       exec (.cqHead path n v) s = .next (stopPair (doorbellArrives s path) n 3 (getPair s n).sqHead)) ∧
  (∀ (s : State) (path n : Nat) (v : Word), path < 5 → n < 256 → pathOpen s path = true → (getPair s n).state = 1 →
     path = pairHead n → sqSize s n ≤ v.toNat % 65536 →
       exec (.sqTail path n v) s = .next (stopPair (doorbellArrives s path) n 3 (getPair s n).sqHead))

/-- Slots are fetched and interrupts of a pair are sent. -/
def Obligations.RingTraffic : Prop :=
  (∀ (s : State) (n : Nat) (host : List Host.Cell) (bytes : List Byte), n < 256 → dmaOpen s (pairHead n) = true →
     (getPair s n).state = 1 → (getPair s n).sqHead ≠ (getPair s n).sqTail →
     hostBytes host (sqBase s n + 128 * (getPair s n).sqHead) 128 = some bytes →
       exec (.descriptorFetch n 1 host) s = .next (wakeDevice (modPair s n fun x =>
           { x with fetched := x.fetched ++ [⟨x.sqHead, bytes⟩], sqHead := (x.sqHead + 1) % sqSize s n }))) ∧
  (∀ (s : State) (n : Nat) (host : List Host.Cell), n < 256 → dmaOpen s (pairHead n) = true → (getPair s n).state = 1 →
     (getPair s n).sqHead ≠ (getPair s n).sqTail → hostBytes host (sqBase s n + 128 * (getPair s n).sqHead) 128 = none →
       exec (.descriptorFetch n 1 host) s = .next (wakeDevice (stopPair (finishDesc (newDesc s n []).2 s.nextDesc
           ⟨0x0C, 0, (getPair s n).sqHead, 0⟩) n 1 (getPair s n).sqHead))) ∧
  (∀ (s : State) (n k : Nat) (host : List Host.Cell), n < 256 → dmaOpen s (pairHead n) = false →
       exec (.descriptorFetch n k host) s = .next s) ∧
  (∀ (s : State) (n a : Nat), n < 256 → (getPair s n).pendSince = some a → bitOf (regGet s (oRing n 0x18)).toNat 14 = true →
     regField s (oRing n 0x1C) 25 16 ≠ 0 → a + 1000 * regField s (oRing n 0x1C) 25 16 ≤ s.now →
       exec (.coalesceTimer n) s = .next (sendMsix (modPair s n fun x => { x with pendCount := 0, pendSince := none }) (pairHead n)
           (regField s (oRing n 0x18) 13 8))) ∧
  (∀ (s : State) (n a : Nat), n < 256 →
     ((getPair s n).pendSince = none ∨ (getPair s n).pendSince = some a ∧ s.now < a + 1000 * regField s (oRing n 0x1C) 25 16) →
       exec (.coalesceTimer n) s = .next s) ∧
  (∀ (s : State) (h vec : Nat), h < 4 → vec < 64 → (getHead s h).pba.contains vec = true → (getHead s h).msix = true →
     msixOpen (getHead s h) vec = true → (getHead s h).linkUp = true →
       exec (.msixPendingSend h vec) s = .next (sendMsix (modHead s h fun y => { y with pba := y.pba.filter (· != vec) }) h vec)) ∧
  (∀ (s : State) (h vec : Nat), h < 4 → vec < 64 →
     ((getHead s h).pba.contains vec = false ∨ (getHead s h).msix = false ∨ msixOpen (getHead s h) vec = false ∨ (getHead s h).linkUp = false) →
       exec (.msixPendingSend h vec) s = .next s)

/-- The dispatcher starts the pair it serves next. -/
def Obligations.DescriptorsStart : Prop :=
  (∀ (s : State) (n : Nat) (env : OpEnv) (ts : List Slot), n < 256 → servedPair s = some n → nextUnit s n = some ts →
     (needsHost ts = false ∨ dmaOpen s (pairHead n) = true) →
     ((rangeFlumes s (programRanges n ts)).filter fun f => !flumeOpen s f) = [] →
     rangeScrubbed s (programRanges n ts) = false →
       exec (.descriptorStart n env) s = .next (startUnit (lookups s env) n env ts)) ∧
  (∀ (s : State) (n : Nat) (env : OpEnv) (ts : List Slot) (f : Nat) (fs : List Nat), n < 256 → servedPair s = some n →
     nextUnit s n = some ts → (needsHost ts = false ∨ dmaOpen s (pairHead n) = true) →
     ((rangeFlumes s (programRanges n ts)).filter fun f => !flumeOpen s f) = f :: fs →
       exec (.descriptorStart n env) s = .next ((f :: fs).foldl wakeFlume s)) ∧
  (∀ (s : State) (n : Nat) (env : OpEnv), n < 256 → servedPair s ≠ some n → exec (.descriptorStart n env) s = .next s) ∧
  (∀ (s : State) (n : Nat) (env : OpEnv) (ts : List Slot), malformedSlot n ts = none → isAdmin n = true →
       startUnit s n env ts = unitNew s n ts) ∧
  (∀ (s : State) (n : Nat) (env : OpEnv) (ts : List Slot) (r : Result) (t : State), malformedSlot n ts = none →
     isAdmin n = false → checkChain (unitNew s n ts) (pairHead n) env (ts.map fun t => t.body) = (.refused r, t) →
       startUnit s n env ts = finishDesc t s.nextDesc r) ∧
  (∀ (s : State) (n : Nat) (env : OpEnv) (ts : List Slot) (p : List Byte) (t : State), malformedSlot n ts = none →
     isAdmin n = false → checkChain (unitNew s n ts) (pairHead n) env (ts.map fun t => t.body) = (.passed p, t) →
       ∃ u, u = modDesc t s.nextDesc (fun d => { d with uses := rangeUses t ((chainRanges (ts.map fun t => t.body)).1 ++ (chainRanges (ts.map fun t => t.body)).2), program := p }) ∧
         startUnit s n env ts = (splitParts u (ts.map fun t => t.body)).foldl (createPart s.nextDesc false) u) ∧
  (∀ (s : State) (n : Nat) (env : OpEnv) (ts : List Slot) (t : Slot) (o : Nat), malformedSlot n ts = some (t, o) →
       startUnit s n env ts = stopPair (finishDesc
             (newDesc (noteVisit (modPair s n fun x => { x with fetched := x.fetched.drop ts.length }) n) n [t.body]).2 s.nextDesc ⟨0x0B, 0, o, 0⟩) n 2 t.idx)

/-- Parts start, end and complete their descriptor. -/
def Obligations.PartsRun : Prop :=
  (∀ (s : State) (m p : Nat) (rest : List Nat), m < 32 → (getMill s m).queue = p :: rest → inDispatch s m = true →
     (getMill s m).running = none → s.flt.safe = false → portAwake s (64 + m) = true →
       exec (.partStart m) s = .next (refillMills (modPart (hopperBytes
           (clearHopper (modMill s m fun x => { x with queue := rest, running := some p }) m) m hopControl 1024
           ((((getPart s p).bind fun y => getDesc s y.did).map fun d => d.members.flatten ++ d.program).getD [])) p
           fun y => { y with started := true, startedAt := s.now }))) ∧
  (∀ (s : State) (m p : Nat) (rest : List Nat), m < 32 → (getMill s m).queue = p :: rest → inDispatch s m = true →
     (getMill s m).running = none → s.flt.safe = false → portAwake s (64 + m) = false →
       exec (.partStart m) s = .next (wakeFlume s m)) ∧
  (∀ (s : State) (m : Nat), m < 32 →
     ((getMill s m).queue = [] ∨ inDispatch s m = false ∨ (getMill s m).running.isSome = true) →
       exec (.partStart m) s = .next s) ∧
  (∀ (s : State) (m p : Nat) (x : Part), m < 32 → (getMill s m).running = some p → getPart s p = some x → x.done = false →
     x.status = none → x.stop = false → exec (.partEnd m) s = .next s) ∧
  (∀ (s : State) (did : Nat) (d : Desc), getDesc s did = some d → (partsEnded s d = false ∨ writesOpen s did = true) →
       exec (.descriptorComplete did) s = .next s) ∧
  (∀ (s : State) (m p : Nat) (x : Part), m < 32 → (getMill s m).running = some p → getPart s p = some x →
     x.done = true ∨ x.status.isSome = true ∨ x.stop = true → s.flt.safe = false →
       exec (.partEnd m) s = .next (endPart s m p)) ∧
  (∀ (s : State) (did : Nat) (d : Desc), getDesc s did = some d → d.result = none → isAdmin d.pair = false → d.parts ≠ [] →
     partsEnded s d = true → d.dropped = true ∨ mergeDue s d = false → writesOpen s did = false → s.flt.safe = false →
       exec (.descriptorComplete did) s = .next (modDesc s did fun x => { x with result := some (opResult s d), uses := [], work := 0 }))

/-- R164: with a nonzero crc_in the result is the CRC of the bytes that gave crc_in followed by this range; the parts' CRCs are combined in address order, so the result does not depend on the split. -/
def Obligations.ChecksumJoins : Prop :=
  ∀ (c : Nat) (a b : List Byte),
      crc32c c (a ++ b) = crc32c (crc32c c a) b ∧ crc32c c (a ++ b) = crcJoin (crc32c c a) (crc32c 0 b) b.length ∧ crc32c 0 [] = 0

/-- A key's hash, home bucket and tag. -/
def Obligations.KeyHash : Prop :=
  ∀ (seed : Nat) (k : List Byte) (t : Table) (c : Nat) (u : Units) (ty a i : Nat), isFloat ty = true →
      keyHash seed k = crc32c seed k ∧ homeOf t c = c % 2 ^ t.k ∧ tagOf c = 0x80 ||| c >>> 25 ∧
        keyBytes u ty a i = leBytes (outWidth ty) (elemRaw u ty a i)

/-- The bit functions of BITMAP and the sums, minima and maxima of AGGREGATE. -/
def Obligations.BitmapFunctions : Prop :=
  (∀ (a b : Nat), a < 2 → b < 2 →
       bitFunc 0 a b = (a == 1 && b == 1) ∧ bitFunc 1 a b = (a == 1 || b == 1) ∧ bitFunc 2 a b = (a == 1 && b != 1) ∧ bitFunc 3 a b = (a == 1 ^^ b == 1)) ∧
  (∀ (t a b : Nat), isFloat t = false → isSigned t = false → a < 2 ^ 64 → b < 2 ^ 64 →
       (aggSum t a b).1 = (a + b) % 2 ^ 64 ∧ ((aggSum t a b).2 = 1 ↔ 2 ^ 64 ≤ a + b) ∧ aggMin t a b = min a b ∧ aggMax t a b = max a b)

/-- A ready stage of each operator runs its operator. -/
def Obligations.OperatorStages : Prop :=
  (∀ (s : State) (m : Nat) (env : OpEnv) (g : Stage), m < 32 → StageReady s m 1 g →
       exec (.fill m env) s = .next (stageDone (forAll (lookups s env) (unitsIn g.part.ranges) fun s i => writeMarked s env g (bDst g.m + 64 * i)
           ((List.replicate 8 (leBytes 8 (bImm0 g.m))).flatten.map fun b => (b, false))) g .none (64 * (unitsIn g.part.ranges).length) 0)) ∧
  (∀ (s : State) (m : Nat) (env : OpEnv) (g : Stage), m < 32 → StageReady s m 2 g →
       exec (.copy m env) s = .next (stageDone (forAll (lookups s env) (unitsIn g.part.ranges) fun s i =>
             writeMarked (stageRead g env s [bSrcA g.m / 64 + i]).2 env g (bDst g.m + 64 * i)
               (marked 64 (unitAt (stageRead g env s [bSrcA g.m / 64 + i]).1 (bSrcA g.m / 64 + i)).data
                 (unitAt (stageRead g env s [bSrcA g.m / 64 + i]).1 (bSrcA g.m / 64 + i)).poison))
           g .none (64 * (unitsIn g.part.ranges).length) 0)) ∧
  (∀ (s : State) (m : Nat) (env : OpEnv) (g : Stage), m < 32 → StageReady s m 3 g →
       exec (.scan m env) s = .next (scanBody env g (lookups s env))) ∧
  (∀ (s : State) (m : Nat) (env : OpEnv) (g : Stage), m < 32 → StageReady s m 4 g →
       exec (.compact m env) s = .next (compactBody env g (lookups s env))) ∧
  (∀ (s : State) (m : Nat) (env : OpEnv) (g : Stage), m < 32 → StageReady s m 5 g →
       exec (.gather m env) s = .next (gatherBody env g (lookups s env))) ∧
  (∀ (s : State) (m : Nat) (env : OpEnv) (g : Stage), m < 32 → StageReady s m 6 g →
       exec (.hashBuild m env) s = .next (buildBody env g (lookups s env))) ∧
  (∀ (s : State) (m : Nat) (env : OpEnv) (g : Stage), m < 32 → StageReady s m 7 g →
       exec (.hashProbe m env) s = .next (probeBody env g (lookups s env))) ∧
  (∀ (s : State) (m : Nat) (env : OpEnv) (g : Stage), m < 32 → StageReady s m 8 g →
       exec (.aggregate m env) s = .next (aggBody env g (lookups s env))) ∧
  (∀ (s : State) (m : Nat) (env : OpEnv) (g : Stage), m < 32 → StageReady s m 9 g →
       exec (.bitmap m env) s = .next (bitmapBody env g (lookups s env))) ∧
  (∀ (s : State) (m : Nat) (env : OpEnv) (g : Stage) (r : Units × State), m < 32 → StageReady s m 10 g →
     r = stageRead g env (lookups s env) (rangeUnits (bSrcA g.m) g.part.ranges) → (r.1.find? fun e => e.2.poison) = none →
       exec (.checksum m env) s = .next (stageDone (modDesc r.2 g.part.did fun d =>
           { d with accum := d.accum ++ crcPieces (bSrcA g.m) r.1 g.part.ranges }) g .none 0 0)) ∧
  (∀ (s : State) (m : Nat) (env : OpEnv) (g : Stage), m < 32 → StageReady s m 10 g →
       exec (.checksum m env) s = .next (checksumBody env g (lookups s env))) ∧
  (∀ (s : State) (m : Nat) (env : OpEnv) (g : Stage) (r q : Units × State) (diff : List Nat), m < 32 → StageReady s m 11 g →
     r = stageRead g env (lookups s env) (rangeUnits (bSrcA g.m) g.part.ranges) →
     q = stageRead g env r.2 (rangeUnits (bSrcB g.m) g.part.ranges) →
     ((unitsIn g.part.ranges).findSome? fun i => lowerUnit (poisonIn r.1 (8 * (bSrcA g.m + i)) 8) (poisonIn q.1 (8 * (bSrcB g.m + i)) 8)) = none →
     diff = ((unitsIn g.part.ranges).filter fun i => bitsFrom r.1 (8 * (bSrcA g.m + i)) 8 != bitsFrom q.1 (8 * (bSrcB g.m + i)) 8) →
       exec (.compare m env) s = .next (stageDone q.2 g .none (diff.headD (2 ^ 64 - 1)) diff.length)) ∧
  (∀ (s : State) (m : Nat) (env : OpEnv) (g : Stage), m < 32 → StageReady s m 11 g →
       exec (.compare m env) s = .next (compareBody env g (lookups s env))) ∧
  (∀ (s : State) (m op : Nat) (env : OpEnv) (g : Stage) (body : Stage → State → State) (f : Nat) (fs : List Nat), m < 32 →
     stageOf s m = some g → bOp g.m = op → s.flt.safe = false → (stageHost g && !dmaOpen s g.head) = false →
     ((rangeFlumes s (stageRanges g)).filter fun f => !flumeOpen s f) = f :: fs →
       runStage m op env s body = .next ((f :: fs).foldl wakeFlume s)) ∧
  (∀ (s : State) (m op : Nat) (env : OpEnv) (body : Stage → State → State), m < 32 → stageOf s m = none →
       runStage m op env s body = .next s) ∧
  (∀ (s : State) (did : Nat) (env : OpEnv) (g : Stage), mergeStage s did = some g → s.flt.safe = false →
     (isHost (bDst g.m) && !dmaOpen s g.head) = false →
     ((rangeFlumes s (opRanges g.c g.m).2).filter fun f => !flumeOpen s f) = [] →
     rangeScrubbed s (opRanges g.c g.m).2 = false → exec (.mergePart did env) s = .next (mergeBody env g (lookups s env))) ∧
  (∀ (s : State) (did : Nat) (env : OpEnv), mergeStage s did = none → exec (.mergePart did env) s = .next s)

/-- A fuse script is checked, recorded as an intent and run. -/
def Obligations.FuseScripts : Prop :=
  (∀ (s : State) (did : Nat) (env : OpEnv) (fuse : FuseEnv) (d : Desc), getDesc s did = some d → isAdmin d.pair = true →
     bOp (d.members.headD []) = 0x47 → d.result = none → s.fuses.rereadActive = false → d.work = 0 →
     isHost (bSrcA (d.members.headD [])) = true → bSrcA (d.members.headD []) % 64 = 0 →
     rangeOk (bSrcA (d.members.headD [])) (bCount (d.members.headD [])) = true → dmaOpen s (pairHead d.pair) = true →
       ∃ script, script = fuseScript env (d.members.headD []) ∧ exec (.fuseSession did env fuse) s = .next
           (if scriptReason s.fuses (bCount (d.members.headD [])) script ≠ 0 then
              finishDesc (fuseStatus s 0 (scriptReason s.fuses (bCount (d.members.headD [])) script) 2) did ⟨0x0A, scriptReason s.fuses (bCount (d.members.headD [])) script, 0, 0⟩
            else if fuse.tallyOk = false then finishDesc (fuseStatus (tallyFail s 6) 0 11 2) did ⟨0x0A, 11, 0, 0⟩
            else runSession (modDesc { s with
                tally := { s.tally with intent := some (script.getD [], true) }, fuses := { s.fuses with session := true } } did
                fun d => { d with work := 8, prog := [0, 0] }) did fuse { d with prog := [0, 0] } (script.getD []))) ∧
  (∀ (s : State) (did : Nat) (env : OpEnv) (fuse : FuseEnv) (d : Desc) (l : List Byte), getDesc s did = some d →
     isAdmin d.pair = true → bOp (d.members.headD []) = 0x47 → d.result = none → s.fuses.rereadActive = false → d.work = 8 →
     s.tally.intent = some (l, true) → exec (.fuseSession did env fuse) s = .next (runSession s did fuse d l)) ∧
  (∀ (s : State) (did : Nat) (env : OpEnv) (fuse : FuseEnv), s.fuses.rereadActive = true →
       exec (.fuseSession did env fuse) s = .next s) ∧
  (∀ (s : State) (did : Nat) (env : FuseEnv) (d : Desc) (l : List Byte), env.upTo = none →
       ∃ r, r = runFuseOps env ((fuseOps l).drop (natAt d.prog 0)) ⟨s.fuses, s.freeCtr, natAt d.prog 1, none⟩ (natAt d.prog 0) ∧
         runSession s did env d l = endSession { s with fuses := r.1.u, freeCtr := r.1.ctr } did r.2.1 r.2.2 r.1.spares ((fuseOps l).getLast?.any fun o => o.kind == 4)) ∧
  (∀ (s : State) (did ops reason spares : Nat) (life : Bool), reason ≠ 0 → s.fuses.rereadWaits = false →
       endSession s did ops reason spares life = finishDesc (fuseStatus { s with fuses := { s.fuses with session := false }, tally := { s.tally with intent := none } } ops reason 2) did ⟨0x0A, reason, 0, 0⟩) ∧
  (∀ (s : State) (path : Nat), path < 5 → pathOpen s path = true → busy s 200 = false → portAwake s 200 = true →
     s.fuses.rereadActive = false → s.fuses.session = false →
       exec (.fuseReread path) s = .next (scEvent { s with fuses := { s.fuses with rereadActive := true, rereadWaits := false } } (oFus 0x10) fun _ => 1)) ∧
  (∀ (s : State) (drift marg regions : Nat), s.fuses.rereadActive = true →
     (rereadWords s.fuses).countP (fun w => w.2.1) = drift → (rereadWords s.fuses).countP (fun w => w.2.2) = marg →
     ([0, 1, 2, 3, 4, 5].foldl (fun a j => a + if (rereadWords s.fuses).any (fun w => regionOfRow w.1 == j && (w.2.1 || w.2.2)) then 2 ^ (2 + j) else 0) 0) = regions →
       ∃ t, t = scEvent { s with fuses := { s.fuses with rereadActive := false } } (oFus 0x10) (fun _ => min 255 drift * 2 ^ 16 + min 255 marg * 2 ^ 8 + regions + 2) ∧
         exec .fuseRereadDone s = .next (if drift + marg = 0 then t else raise t 9 1 1 0 0))

/-- Training passes gather, commit or are refused, and what follows is queued. -/
def Obligations.TrainingPasses : Prop :=
  (∀ (s : State) (f sc : Nat) (res : PassRes) (p : Pass), f < 32 → sc < 4 → tabGet none (getFlume s f).passes sc = some p →
       exec (.trainingPassEnd f sc res) s = .next (unstop (startPass
           (writeRecords (endPass (modFlume s f fun x => { x with passes := tabSet none x.passes sc none }) f sc p.tier p.kind p.tuned true res) f) f sc) f sc)) ∧
  (∀ (s : State) (f sc : Nat) (res : PassRes), f < 32 → sc < 4 → tabGet none (getFlume s f).passes sc = none →
       exec (.trainingPassEnd f sc res) s = .next s) ∧
  (∀ (s : State) (f sc t kind : Nat) (tuned : Bool) (minEye : Nat) (ok : Bool) (u : State), s.wf →
     u = commitPass s f sc t kind tuned minEye ok →
       (getBay u (bayKey f sc t)).inForce = (getBay s (bayKey f sc t)).staged ∧ (getBay u (bayKey f sc t)).trained = true ∧
         (getBay u (bayKey f sc t)).tuned = tuned ∧ (getBay u (bayKey f sc t)).refusals = 0 ∧ (getBay u (bayKey f sc t)).commitAt = s.now ∧
         (getBay u (bayKey f sc t)).commitTemp = tierTemp s t ∧ (∀ k, k ≠ bayKey f sc t → getBay u k = getBay s k)) ∧
  (∀ (s : State) (f sc tier : Nat), f < 32 → sc < 4 → tier < 17 → retuneOpen s f sc tier = true →
     (getBay s (bayKey f sc tier)).commitAt + retunePeriod s f ≤ s.now →
       exec (.retunePeriodExpiry f sc tier) s = .next
           (if (getBay s (bayKey f sc tier)).commitAt + 2 * retunePeriod s f ≤ s.now then duePass s f sc tier 0 true
            else if retuneEn s f then duePass s f sc tier 1 true else s)) ∧
  (∀ (s : State) (f sc tier : Nat), f < 32 → sc < 4 → tier < 17 → 0 < (getBay s (bayKey f sc tier)).refusals →
     (getBay s (bayKey f sc tier)).refusedAt + 1000000 ≤ s.now → passBusy s f sc tier = false → bayOut s f sc tier = false →
       exec (.retuneRetry f sc tier) s = .next
           (duePass s f sc tier (getBay s (bayKey f sc tier)).refusedKind (getBay s (bayKey f sc tier)).tuned)) ∧
  (∀ (s : State) (f sc tier : Nat), f < 32 → sc < 4 → tier < 17 →
     s.now < (getBay s (bayKey f sc tier)).commitAt + retunePeriod s f →
     s.now < (getBay s (bayKey f sc tier)).refusedAt + 1000000 →
       exec (.retunePeriodExpiry f sc tier) s = .next s ∧ exec (.retuneRetry f sc tier) s = .next s) ∧
  (∀ (s : State) (path f : Nat) (v : Word), path < 5 → f < 32 → pathOpen s path = true → busy s (32 + f) = false →
     portAwake s (32 + f) = true → exec (.modeChange path f v) s = .next (takeTrnCtl s path f v.toNat)) ∧
  (∀ (s : State) (path f sc tier : Nat), path < 5 → f < 32 → sc < 4 → tier < 17 → pathOpen s path = true →
     busy s (32 + f) = false → portAwake s (32 + f) = true →
       exec (.fullPassBay path f sc tier) s = .next (fullBay s f sc tier) ∧ exec (.retunePassBay path f sc tier) s = .next (retuneCmd s f sc tier)) ∧
  (∀ (s : State) (path f sc : Nat), path < 5 → f < 32 → sc < 4 → pathOpen s path = true → busy s (32 + f) = false →
     portAwake s (32 + f) = true → exec (.fullPassSubchannel path f sc) s = .next (fullSub s f sc)) ∧
  (∀ (s : State) (path f sc tier : Nat), path < 5 → f < 32 → sc < 4 → tier < 17 → pathOpen s path = true →
     busy s (32 + f) = false → portAwake s (32 + f) = true →
       exec (.applyStaged path f sc tier) s = .next (applyCmd s f sc tier)) ∧
  (∀ (s : State) (path f sc : Nat) (loop : LoopRes), path < 5 → f < 32 → sc < 4 → pathOpen s path = true →
     busy s (32 + f) = false → portAwake s (32 + f) = true →
       exec (.loopTest path f sc loop) s = .next (loopCmd s f sc loop))

/-- Mills leave dispatch, run slices, swap microcode, fault and recover. -/
def Obligations.MillCare : Prop :=
  (∀ (s : State) (path m : Nat) (v : Word), path < 5 → m < 32 → pathOpen s path = true → busy s (64 + m) = false →
     portAwake s (64 + m) = true →
       exec (.milDispatchDisable path m v) s = .next
           (let s1 := regSet s (oMil m 0) (BitVec.ofNat 32 (maskedValue (regGet s (oMil m 0)).toNat v.toNat 3))
            if bitOf (regGet s1 (oMil m 0)).toNat 0 then refillMills s1 else leaveDispatch s1 m)) ∧
  (∀ (s : State) (m : Nat), m < 32 → bitOf (regGet s (oMil m 0)).toNat 1 = true → bitOf (regGet s (oBst 0)).toNat 0 = true →
     (getMill s m).running = none → (getMill s m).queue = [] → (getMill s m).slice = false → (getMill s m).failed = false →
     (getMill s m).swapPending = false → (getMill s m).recovering = [] → (getMill s m).testing = false →
     (getMill s m).sliceAfter ≤ s.now → portAwake s (64 + m) = true → s.flt.safe = false →
       exec (.millLogicSliceStart m) s = .next (modMill s m fun x => { x with slice := true })) ∧
  (∀ (s : State) (m : Nat), m < 32 → (getMill s m).slice = true → heldTooLong s m = true →
       exec (.millSliceWaitExpiry m) s = .next (startNextPart (modMill s m fun x => { x with slice := false, sliceAfter := s.now + 1000000 }) m)) ∧
  (∀ (s : State) (m : Nat), m < 32 → (getMill s m).slice = true →
       exec (.millLogicSliceEnd m true) s = .next (refillMills (sliceRan (modMill s m fun x => { x with slice := false }))) ∧
         exec (.millLogicSliceEnd m false) s = .next (failMill (noteFail (sliceRan (modMill s m fun x => { x with slice := false }))) m)) ∧
  (∀ (s : State) (did : Nat) (env : OpEnv) (tallyOk : Bool) (d : Desc) (l : List Byte), getDesc s did = some d →
     isAdmin d.pair = true → bOp (d.members.headD []) = 0x44 → d.result = none → d.work = 0 → swapsOf s = none →
     isHost (bSrcA (d.members.headD [])) = true →
     rangeOk (bSrcA (d.members.headD [])) (bCount (d.members.headD [])) = true → dmaOpen s (pairHead d.pair) = true →
     bCount (d.members.headD []) ≤ 65792 →
     hostBytes env.host (bSrcA (d.members.headD []) - 2 ^ 63) (bCount (d.members.headD [])) = some l →
       exec (.ucodeLoad did env tallyOk) s = .next
           (let m := d.members.headD []
            let mask := bImm0 m % 2 ^ 32
            if imageReason s l ≠ 0 then refuseUcode s did mask (imageReason s l)
            else swapsEnd (modDesc ((maskMills mask).foldl (fun s k => modMill s k fun x => { x with standby := some (ucodeOf l) })
              (if bitOf (bOpt m) 0 then persistUcode s l tallyOk else s)) did
                fun d => { d with work := 3, prog := [mask, 0, fieldLe l 0x10 4] }) did)) ∧
  (∀ (s : State) (m did : Nat) (rest : List Nat), m < 32 → swapsOf s = some (did, m :: rest) →
     (getMill s m).swapPending = false → (getMill s m).testing = false → s.flt.safe = false →
       exec (.microcodeSwap m) s = .next (leaveDispatch (modMill s m fun x => { x with swapPending := true }) m)) ∧
  (∀ (s : State) (m did : Nat) (rest : List Nat), m < 32 → swapsOf s = some (did, rest) → (getMill s m).swapPending = true →
     (getMill s m).running = none → (getMill s m).recovering = [] → s.flt.safe = false →
       exec (.swapBankExchange m) s = .next (refillMills (swapsEnd (modDesc (modMill s m swapBanks) did fun d =>
           { d with prog := [natAt d.prog 0, natAt d.prog 1 ||| 2 ^ m, natAt d.prog 2] }) did))) ∧
  (∀ (s : State) (m kind : Nat), m < 32 → kind < 4 → s.flt.safe = false →
       exec (.millFault m kind) s = .next (if kind = 0 then raise (scEvent s (oMil m 0x1C) fun v => bumpBits v 7 0) (32 + m) 12 0 0 0
           else faultMill s m 4 kind)) ∧
  (∀ (s : State) (m p : Nat) (x : Part), m < 32 → (getMill s m).running = some p → getPart s p = some x →
     x.startedAt + watchdogLimit s m < s.now → s.flt.safe = false → exec (.millWatchdog m) s = .next (faultMill s m 3 4)) ∧
  (∀ (s : State) (m : Nat), m < 32 → (getMill s m).recovering ≠ [] → s.flt.safe = false →
       exec (.millRecoveryDone m) s = .next (refillMills (if (getMill s m).recovering.contains 2 = false then modMill s m recovered
           else match reloadImage s m with
             | some u => modMill (modMill s m recovered) m fun x => { x with active := some u, standby := some u }
             | none => raise (modMill (modMill s m recovered) m fun x => { x with disabled := true }) (32 + m) 14 1 0 0))) ∧
  (∀ (s : State) (m : Nat) (pass : Bool), m < 32 → (getMill s m).slice = false → swapsOf s = none →
     (getMill s m).recovering = [] →
       exec (.millLogicSliceEnd m pass) s = .next s ∧ exec (.millSliceWaitExpiry m) s = .next s ∧ exec (.microcodeSwap m) s = .next s ∧
         exec (.swapBankExchange m) s = .next s ∧ exec (.millRecoveryDone m) s = .next s)

/-- Mills and flumes change operating point, and droops slow them. -/
def Obligations.OperatingPoints : Prop :=
  (∀ (s : State) (m : Nat), m < 32 → (getMill s m).opp ≠ millPoint s m → s.flt.safe = false →
       exec (.millOppChange m) s = .next (setVlogic (modMill s m fun x => { x with opp := millPoint s m }))) ∧
  (∀ (s : State) (f : Nat), f < 32 → (getFlume s f).opp ≠ flumePoint s f → flumeCanChange s f = true →
       exec (.flumeOppChange f) s = .next (setVlogic (rescaleFlume (modFlume s f fun x => { x with opp := flumePoint s f }) f (getFlume s f).opp (flumePoint s f)))) ∧
  (∀ (s : State) (k : Nat), k < 32 → (getMill s k).opp = millPoint s k → (getFlume s k).opp = flumePoint s k →
       exec (.millOppChange k) s = .next s ∧ exec (.flumeOppChange k) s = .next s) ∧
  (∀ (s : State) (m : Nat), m < 32 → trimDefault s = false →
     tabGet 0 (getMill s m).target (getMill s m).opp < millTrim s m (getMill s m).opp →
       exec (.monitorWarning m) s = .next (setVlogic (raise (modMill s m fun x => { x with
           target := tabSet 0 x.target x.opp (min (millTrim s m x.opp) (tabGet 0 x.target x.opp + 25)), raises := tabMod 0 x.raises x.opp (· + 1) })
           (32 + m) 15 1 0 (getMill s m).opp))) ∧
  (∀ (s : State) (m : Nat), m < 32 →
     (trimDefault s = true ∨ millTrim s m (getMill s m).opp ≤ tabGet 0 (getMill s m).target (getMill s m).opp) →
       exec (.monitorWarning m) s = .next s) ∧
  (∀ (s : State) (f : Nat), f < 32 → portAwake s f = true →
       exec (.droopTrip f true) s = .next (modFlume (raise (scEvent s (oPwr 0x44) fun v =>
             putBits (putBits (bumpBits v 23 16) 13 13 1) 12 8 f) (32 + f) 11 0 0 1) f fun x => { x with stretched := some (x.stretched.getD s.now) }) ∧
         exec (.droopTrip f false) s = .next (modMill (raise (scEvent s (oPwr 0x44) fun v =>
             putBits (putBits (bumpBits v 23 16) 13 13 0) 12 8 f) (32 + f) 11 0 0 0) f fun x =>
               { x with stretched := some (x.stretched.getD s.now), droop := min 3 (x.droop + 1), droopAt := s.now })) ∧
  (∀ (s : State) (f : Nat) (ctl : Bool), f < 32 → portAwake s f = false → exec (.droopTrip f ctl) s = .next s) ∧
  (∀ (s : State) (f : Nat), f < 32 →
       exec (.droopRecover f true) s = .next (modFlume s f fun x => { x with stretched := none }) ∧
         exec (.droopRecover f false) s = .next (modMill s f fun x => { x with stretched := none })) ∧
  (∀ (s : State) (m : Nat), m < 32 → 0 < (getMill s m).droop →
     (getMill s m).droopAt + 1000000 * max 1 (regField s (oPwr 0x40) 15 8) ≤ s.now →
       exec (.droopHoldExpiry m) s = .next (modMill s m fun x => { x with droop := x.droop - 1, droopAt := s.now })) ∧
  (∀ (s : State) (m : Nat), m < 32 →
     ((getMill s m).droop = 0 ∨ s.now < (getMill s m).droopAt + 1000000 * max 1 (regField s (oPwr 0x40) 15 8)) →
       exec (.droopHoldExpiry m) s = .next s)

/-- The sequencer enters power states by agreement and wake events end them. -/
def Obligations.PowerStates : Prop :=
  (∀ (s : State) (tallyOk : Bool), exec (.sequencerEvaluation none tallyOk) s = .next (evalDevice s tallyOk)) ∧
  (∀ (s : State) (f st : Nat) (tallyOk : Bool), f < 32 → s.flt.safe = false → (getFlume s f).entering = none →
     (getFlume s f).waking = false → bitOf (regGet s (oPwr 0)).toNat 0 = true → flumeChoice s f = some st →
     (getFlume s f).pstate < st →
       exec (.sequencerEvaluation (some f) tallyOk) s = .next (match flumeRefuses s f st with
           | some r => noteRefusal (modFlume s f fun x => { x with holdoff := some (st, holdoffEnd s) }) st r
           | none => modFlume s f fun x => { x with entering := some st })) ∧
  (∀ (s : State) (f : Nat) (tallyOk : Bool), f < 32 → bitOf (regGet s (oPwr 0)).toNat 0 = true →
     (s.flt.safe = true ∨ (getFlume s f).entering.isSome = true ∨ (getFlume s f).waking = true ∨ flumeChoice s f = none) →
       exec (.sequencerEvaluation (some f) tallyOk) s = .next s) ∧
  (∀ (s : State) (f t st : Nat), f < 32 → (getFlume s f).holdoff = some (st, t) → t ≤ s.now →
       exec (.holdoffExpiry (some f)) s = .next (modFlume s f fun x => { x with holdoff := none })) ∧
  (∀ (s : State) (t st : Nat), s.pwr.holdoff = some (st, t) → t ≤ s.now →
       exec (.holdoffExpiry none) s = .next { s with pwr := { s.pwr with holdoff := none } }) ∧
  (∀ (s : State) (f t st : Nat), f < 32 →
     ((getFlume s f).holdoff = none ∨ (getFlume s f).holdoff = some (st, t) ∧ s.now < t) →
       exec (.holdoffExpiry (some f)) s = .next s) ∧
  (∀ (s : State) (f st : Nat), f < 32 → (getFlume s f).entering = some st → st ≠ 4 →
       exec (.powerEntryComplete (some f)) s = .next (modFlume (payAll s fun b => bankFlume b == f) f fun x => { x with pstate := st, entering := none })) ∧
  (∀ (s : State) (st : Nat), s.pwr.entering = some st → st ≠ 4 →
       exec (.powerEntryComplete none) s = .next { s with pwr := { s.pwr with dstate := st, entering := none } }) ∧
  (∀ (s : State) (f : Nat) (passes : List PassRes) (env : OpEnv), f < 32 → (getFlume s f).waking = true →
     (getFlume s f).entering = none → s.flt.safe = false → (getFlume s f).pstate = 2 →
       exec (.flumeWake f passes env) s = .next (modFlume (leaveSelfRefresh s f) f fun x => { x with pstate := 0, waking := false, idleSince := s.now })) ∧
  (∀ (s : State) (f : Nat) (passes : List PassRes) (env : OpEnv), f < 32 → (getFlume s f).waking = true →
     (getFlume s f).entering = none → s.flt.safe = false → (getFlume s f).pstate = 3 →
       exec (.flumeWake f passes env) s = .next (flumeRuns (wakeCheck (leaveSelfRefresh s f) f env) f)) ∧
  (∀ (s : State) (ok : Bool), s.pwr.waking = true → s.pwr.entering = none → s.flt.safe = false → s.pwr.dstate ≠ 4 →
       exec (.deviceWake ok) s = .next { s with pwr := { s.pwr with dstate := 0, waking := false } }) ∧
  (∀ (s : State) (f : Nat) (passes : List PassRes) (env : OpEnv) (ok : Bool), f < 32 → (getFlume s f).waking = false →
     s.pwr.waking = false → exec (.flumeWake f passes env) s = .next s ∧ exec (.deviceWake ok) s = .next s) ∧
  (∀ (s : State) (path : Nat) (v : Word), path < 5 → pathOpen s path = true → busy s 198 = false → portAwake s 198 = true →
       exec (.runReqWrite path v) s = .next (forAll (regSet s (oPwr 0x20) v) ((List.range 32).filter fun f => bitOf v.toNat f) wakeFlume))

/-- Rails out of their window, brown-out and sequence errors. -/
def Obligations.Rails : Prop :=
  (∀ (s : State) (r : Nat), r < 7 → r ≠ 0 ∨ stretching s = false →
       exec (.railOutOfWindow r) s = .next (raise (setLine (scEvent
           { s with pwr := { s.pwr with railsOut := insertNat r s.pwr.railsOut } } (oPwr 0x4C) fun v => putBits v r r 1) 2 0 true) 2 0 3 0 r)) ∧
  (∀ (s : State) (r : Nat), r = 7 ∨ r = 8 →
       exec (.railOutOfWindow r) s = .next (raise (setLine (scEvent
           { loseArray s with pwr := { s.pwr with railsOut := insertNat (r - 3) s.pwr.railsOut } } (oPwr 0x4C) fun v => putBits v (r - 3) (r - 3) 1) 2 0 true) 2 0 3 0 (r - 3)) ∧
         (loseArray s).mem = [] ∧ 0 < (loseArray s).lost) ∧
  (∀ (s : State) (r : Nat) (env : StartEnv), r < 7 → (s.pwr.railsOut.filter (· != r) ≠ [] ∨ s.boot.early = none) →
       exec (.railWindowReturn r env) s = .next (railBack s r) ∧ (railBack s r).pwr.railsOut = s.pwr.railsOut.filter (· != r) ∧
         (s.pwr.railsOut.filter (· != r) = [] → railBack s r = setLine { s with pwr := { s.pwr with railsOut := [] } } 2 0 false)) ∧
  (∀ (s : State) (r t : Nat) (env : StartEnv), r < 7 → s.pwr.railsOut.filter (· != r) = [] → s.boot.early = some t →
     heldInReset (railBack s r) = false →
       exec (.railWindowReturn r env) s = .next (startSteps { railBack s r with boot := { (railBack s r).boot with early := none, since := s.now } } env)) ∧
  (∀ (s : State),
       exec .auxBrownout s = .next (raise (setLine (scEvent
           { s with pwr := { s.pwr with railsOut := insertNat 6 s.pwr.railsOut } } (oPwr 0x4C) fun v => putBits v 7 7 1) 2 0 true) 2 0 3 0 6)) ∧
  (∀ (s : State),
       exec .auxUndervoltage s = .next (emit { resetKeep s with pwr := { (resetKeep s).pwr with auxReset := true } } (.pins true false)) ∧
         (resetKeep s).mem = s.mem ∧ (resetKeep s).tally = s.tally ∧ (resetKeep s).fuses.normal = s.fuses.normal ∧
         (resetKeep s).regs = [] ∧ (resetKeep s).regions = [] ∧ (resetKeep s).flumes = []) ∧
  (∀ (s : State) (r : Nat), r < 7 → s.boot.step = 1 → s.boot.seqError = false →
       exec (.sequenceError r) s = .next (emit { s with boot := { s.boot with halted := true, seqError := true, faultN := false, early := none } } (.pins false s.boot.linkEn))) ∧
  (∀ (s : State) (t : Nat), s.boot.early = some t → t + 1000000000 ≤ s.now → s.boot.seqError = false →
       exec .earlyReleaseTimeout s = .next (emit { s with boot := { s.boot with halted := true, seqError := true, faultN := false, early := none } } (.pins false s.boot.linkEn))) ∧
  (∀ (s : State) (t : Nat), (s.boot.early = none ∨ s.boot.early = some t ∧ s.now < t + 1000000000) →
       exec .earlyReleaseTimeout s = .next s)

/-- Admin descriptors write and read the region table, hint, scrub, promote and resilver. -/
def Obligations.AdminDescriptors : Prop :=
  (∀ (s : State) (did : Nat) (reply : PartnerReply) (d : Desc) (m : List Byte), Machine.adminDesc s did 0x40 = some (d, m) →
     regionWriteBefore s did = false →
       exec (.regionWrite did reply) s = .next
           (let i := fieldLe m 0x10 1 % 64
            let e := fieldLe m 0x20 16
            let r := regionOutcome s i e reply
            if r.1 = 0 then finishKeep r.2 did ⟨0, 0, 0, 0⟩ 6 [i, e] else finishDesc r.2 did ⟨0x0A, r.1, 0, 0⟩)) ∧
  (∀ (s : State) (did : Nat) (reply : PartnerReply), regionWriteBefore s did = true →
       exec (.regionWrite did reply) s = .next s) ∧
  (∀ (s : State) (did : Nat) (d : Desc) (m : List Byte), Machine.adminDesc s did 0x41 = some (d, m) →
     s.badRegions.contains (fieldLe m 0x10 1 % 64) = false →
       exec (.regionRead did .clean) s = .next (finishDesc s did ⟨0, 0, regionWord s (fieldLe m 0x10 1 % 64) % 2 ^ 64, regionWord s (fieldLe m 0x10 1 % 64) / 2 ^ 64⟩)) ∧
  (∀ (s : State) (did : Nat) (ecc : EccCheck) (d : Desc) (m : List Byte), Machine.adminDesc s did 0x41 = some (d, m) →
     s.badRegions.contains (fieldLe m 0x10 1 % 64) = true →
       exec (.regionRead did ecc) s = .next (finishDesc s did ⟨0, 0, 0, 0⟩)) ∧
  (∀ (s : State) (did : Nat) (d : Desc) (m : List Byte), Machine.adminDesc s did 0x48 = some (d, m) →
       exec (.powerHint did) s = .next (finishKeep s did ⟨0, 0, 0, 0⟩ 7 [bImm0 m % 2 ^ 32, bImm1 m % 2 ^ 32])) ∧
  (∀ (s : State) (h t m : Nat), h < 4 → (getHead s h).hint = some (t, m) →
       exec (.hintExpiry h) s = .next (if t ≤ s.now then modHead s h fun x => { x with hint := none } else s)) ∧
  (∀ (s : State) (did : Nat) (env : OpEnv) (d : Desc) (m : List Byte), Machine.adminDesc s did 0x42 = some (d, m) →
     d.work = 0 → scrubParam m = none → ((rangePoints (bSrcA m) (bCount m)).find? fun p => (regionAt s p).isNone) = none →
     ((rangeFlumes s [(0x10, bSrcA m, bCount m)]).filter fun f => !flumeOpen s f) = [] →
     rangeScrubbed s [(0x10, bSrcA m, bCount m)] = false → exec (.scrub did env) s = .next (scrubPass s did d m env)) ∧
  (∀ (s : State) (did o : Nat) (env : OpEnv) (d : Desc) (m : List Byte), Machine.adminDesc s did 0x42 = some (d, m) →
     d.work = 0 → scrubParam m = some o → exec (.scrub did env) s = .next (finishDesc s did ⟨8, 0, o, 0⟩)) ∧
  (∀ (s : State) (did : Nat) (d : Desc) (m : List Byte), Machine.adminDesc s did 0x42 = some (d, m) → d.work = 1 →
     dmaOpen s (pairHead d.pair) = true →
       exec (.scrubComplete did) s = .next (finishDesc (emit s (.dmaWrite (pairHead d.pair) (bDst m - 2 ^ 63) (scrubRecord (scrubCounts s d m)) false)) did
           ⟨0, 0, natAt d.prog 0, natAt d.prog 2⟩)) ∧
  (∀ (s : State) (did : Nat) (d : Desc) (m : List Byte), Machine.adminDesc s did 0x45 = some (d, m) → d.work = 0 →
     promoteReason s (bImm0 m) (bitOf (bOpt m) 0) = 0 →
       exec (.mirrorPromote did) s = .next (if s.leat.joined then
             modDesc (sendState s 7 0 (leBytes 16 (bImm0 m)) 0) did fun x => { x with work := 5, prog := [bImm0 m] }
           else finishDesc (setRole s (bImm0 m) (bitOf (bOpt m) 0)) did ⟨0, 0, bImm0 m, s.leat.applied⟩)) ∧
  (∀ (s : State) (did : Nat) (d : Desc) (m : List Byte), Machine.adminDesc s did 0x46 = some (d, m) → d.work = 0 →
     resilverReason s (bImm0 m) = 0 → bitOf (bOpt m) 0 = false →
       exec (.resilver did) s = .next (modDesc s did fun x => { x with work := 2, prog := [bImm0 m, 0, 0, 0, 0], uses := namedRegions (bImm0 m) })) ∧
  (∀ (s : State) (did : Nat) (d : Desc) (m : List Byte), Machine.adminDesc s did 0x46 = some (d, m) → d.work = 0 →
     resilverReason s (bImm0 m) ≠ 0 → exec (.resilver did) s = .next (refuseDesc s did (resilverReason s (bImm0 m)))) ∧
  (∀ (s : State) (did : Nat) (d : Desc) (m : List Byte), Machine.adminDesc s did 0x46 = some (d, m) → d.work = 2 →
     (s.leat.pushes.any fun w => w.did == did) = false → resilverGranules s (natAt d.prog 0) = [] → failedGranules d = [] →
       exec (.resilverComplete did) s = .next (finishDesc s did ⟨0, 0, natAt d.prog 1, natAt d.prog 2⟩))

/-- Completion records are posted in ring order. -/
def Obligations.CompletionsPosted : Prop :=
  (∀ (s : State) (n k : Nat) (d : Desc) (r : Result), n < 256 → readyDesc s n = some (k, d, r) →
     dmaOpen s (pairHead n) = true → (getPair s n).posted < cqSize s n →
       exec (.completionPost n) s = .next (notePosted (modPair (dropDesc
             (emit (applyPosted s d) (.dmaWrite (pairHead n) (cqBase s n + 32 * (getPair s n).cqTail) (completionBytes s n d r) false)) k) n fun x =>
           { x with cqTail := if (getPair s n).cqTail + 1 = cqSize s n then 0 else x.cqTail + 1,
                    phase := if (getPair s n).cqTail + 1 = cqSize s n then !x.phase else x.phase, posted := x.posted + 1 }) n d r)) ∧
  (∀ (s : State) (n : Nat), n < 256 → (dmaOpen s (pairHead n) = false ∨ cqSize s n ≤ (getPair s n).posted) →
       exec (.completionPost n) s = .next s) ∧
  (∀ (s : State) (n : Nat), n < 256 → (getPair s n).state = 3 → (getPair s n).draining = false → pairEnded s n = true →
       exec (.ringResetDone n) s = .next (returnRings (zeroPair (forAll s (descsOf s n) discardDesc) n) (pairHead n))) ∧
  (∀ (s : State) (n : Nat), n < 256 → ((getPair s n).state ≠ 3 ∨ (getPair s n).draining = true ∨ pairEnded s n = false) →
       exec (.ringResetDone n) s = .next s)

/-- BIST admin descriptors test their target and write its record. -/
def Obligations.BistDescriptors : Prop :=
  (∀ (s : State) (did : Nat) (d : Desc) (m : List Byte), Machine.adminDesc s did 0x43 = some (d, m) → d.work = 0 →
     selKind (fieldLe m 0x10 8) = 0 → bistCheck s did s.bist.startup.length m = none → dmaOpen s (pairHead d.pair) = true →
       exec (.bistCopyRecords did) s = .next (bistEnd s did d m s.bist.startup s.bist.startupFull 0)) ∧
  (∀ (s : State) (did : Nat) (fails : List CellFail) (short : Option Nat) (d : Desc) (m : List Byte),
     Machine.adminDesc s did 0x43 = some (d, m) → d.work = 0 → selKind (fieldLe m 0x10 8) = 1 →
     targetOut s (fieldLe m 0x10 8) = false → bistCheck s did 1 m = none → dmaOpen s (pairHead d.pair) = true →
     flumeOpen s (selFlume (fieldLe m 0x10 8)) = true →
       exec (.bistDramBay did fails short) s = .next
           (let v := fieldLe m 0x10 8
            let cs := fails.filter fun c => c.bank / 16 == bayKey (selFlume v) (selSub v) (selTier v) && decide (c.row < 8224)
            let r := shortRecord s (ranRecord v cs.isEmpty (cellCount cs) (cellFail cs)) short
            oneRecord (if r.outcome = 1 then repairCells s cs else s) did d m r)) ∧
  (∀ (s : State) (did : Nat) (d : Desc) (m : List Byte), Machine.adminDesc s did 0x43 = some (d, m) → d.work = 0 →
     selKind (fieldLe m 0x10 8) = 2 → bistCheck s did 1 m = none → dmaOpen s (pairHead d.pair) = true →
       exec (.bistMill did) s = .next (leaveDispatch (modMill (modDesc s did fun x => { x with work := 4, prog := [fieldLe m 0x10 8] })
           (selFlume (fieldLe m 0x10 8)) fun x => { x with testing := true }) (selFlume (fieldLe m 0x10 8)))) ∧
  (∀ (s : State) (did : Nat) (pass : Bool) (short : Option Nat) (d : Desc) (m : List Byte),
     Machine.adminDesc s did 0x43 = some (d, m) → d.work = 0 → selKind (fieldLe m 0x10 8) = 3 → bistCheck s did 1 m = none →
     dmaOpen s (pairHead d.pair) = true → flumeOpen s (selFlume (fieldLe m 0x10 8)) = true →
       exec (.bistEngine did pass short) s = .next
           (let v := fieldLe m 0x10 8
            let r := shortRecord s (ranRecord v pass (logicResult s v pass) 0) short
            oneRecord (if r.outcome = 0 then s else if r.outcome = 1 then withdrawSub (bumpFree s) (selFlume v) (selSub v) else bumpFree s) did d m r)) ∧
  (∀ (s : State) (did : Nat) (loop : LoopRes) (short : Option Nat) (d : Desc) (m : List Byte),
     Machine.adminDesc s did 0x43 = some (d, m) → d.work = 0 → selKind (fieldLe m 0x10 8) = 4 → bistCheck s did 1 m = none →
     dmaOpen s (pairHead d.pair) = true →
       exec (.bistLoopTest did loop short) s = .next
           (let v := fieldLe m 0x10 8
            let r := shortRecord s (ranRecord v loop.wires.isEmpty loop.wires.length (minOf (loop.wires.headD 0) loop.wires)) short
            oneRecord (if r.outcome = 2 then s else loopTest s (selFlume v) (selSub v) loop) did d m r)) ∧
  (∀ (s : State) (did : Nat) (res : PassRes) (d : Desc) (m : List Byte), Machine.adminDesc s did 0x43 = some (d, m) →
     d.work = 0 → selRestore (fieldLe m 0x10 8) = true → targetOut s (fieldLe m 0x10 8) = true →
     bistCheck s did 1 m = none → dmaOpen s (pairHead d.pair) = true →
       exec (.bistRestore did res) s = .next
           (let v := fieldLe m 0x10 8
            let s1 := restoreTrain s (selFlume v) (selSub v) (selTier v) res
            if (getBay s1 (bayKey (selFlume v) (selSub v) (selTier v))).trained then modDesc s1 did fun x => { x with work := 4, prog := [v] }
            else oneRecord s1 did d m (notRun v))) ∧
  (∀ (s : State) (did : Nat) (pass : Bool) (short : Option Nat) (d : Desc) (m : List Byte),
     Machine.adminDesc s did 0x43 = some (d, m) → d.work = 4 → dmaOpen s (pairHead d.pair) = true →
     selKind (natAt d.prog 0) = 2 → (getMill s (selFlume (natAt d.prog 0))).running = none →
       exec (.adminBistTestEnd did pass [] short) s = .next
           (let v := natAt d.prog 0
            let s1 := modMill s (selFlume v) fun x => { x with testing := false, hopper := [], hopperPoison := [], scalars := [], vectors := [] }
            let r := shortRecord s (ranRecord v pass (logicResult s v pass) 0) short
            oneRecord (if r.outcome = 0 then refillMills s1 else if r.outcome = 1 then failMill (bumpFree s1) (selFlume v)
              else refillMills (bumpFree s1)) did d m r)) ∧
  (∀ (s : State) (did : Nat) (pass : Bool) (fails : List CellFail) (short : Option Nat) (d : Desc) (m : List Byte),
     Machine.adminDesc s did 0x43 = some (d, m) → d.work = 4 → dmaOpen s (pairHead d.pair) = true →
     selKind (natAt d.prog 0) ≠ 2 →
       exec (.adminBistTestEnd did pass fails short) s = .next
           (let v := natAt d.prog 0
            let r := shortRecord s (ranRecord v (pass && fails.isEmpty) (cellCount fails) (cellFail fails)) short
            oneRecord (if r.outcome = 0 then restoreBay s (selFlume v) (selSub v) (selTier v) else bayOffline s (selFlume v) (selSub v) (selTier v)) did d m r)) ∧
  (∀ (s : State) (did n : Nat) (ok : Nat → Bool) (run : Desc → List Byte → Nat → State) (d : Desc) (m : List Byte) (r : Result),
     Machine.adminDesc s did 0x43 = some (d, m) → d.work = 0 → ok (fieldLe m 0x10 8) = true → bistCheck s did n m = some r →
       bistRun s did ok n run = finishDesc s did r) ∧
  (∀ (s : State) (r : TestRec) (n : Nat),
       (shortRecord s r (some n)).outcome = (if testToken r.testId (n % 2 ^ 64) = testToken r.testId r.expected then r.outcome else 2) ∧
         (shortRecord s r (some n)).applied = n % 2 ^ 64) ∧
  (∀ (s : State) (did : Nat) (fails : List CellFail) (short : Option Nat) (d : Desc) (m : List Byte),
     Machine.adminDesc s did 0x43 = some (d, m) → d.work = 0 → selKind (fieldLe m 0x10 8) = 1 →
     targetOut s (fieldLe m 0x10 8) = false → bistCheck s did 1 m = none → dmaOpen s (pairHead d.pair) = true →
     flumeOpen s (selFlume (fieldLe m 0x10 8)) = false →
       exec (.bistDramBay did fails short) s = .next (wakeFlume s (selFlume (fieldLe m 0x10 8))))

/-- Each device reset keeps fuses and tally store, records its cause and starts up. -/
def Obligations.DeviceResets : Prop :=
  (∀ (s : State) (env : StartEnv),
       exec (.powerOnReset env) s = .next (deviceReset { s with pwr := { s.pwr with railsOut := s.pwr.railsOut.filter (· != 6) } } 0 env)) ∧
  (∀ (s : State) (env : StartEnv), s.boot.seqError = false → s.pwr.auxReset = false →
       exec (.pinReset env) s = .next (deviceReset s 1 env)) ∧
  (∀ (s : State) (path : Nat) (v : Word) (env : StartEnv), path < 5 → pathOpen s path = true →
       exec (.softwareReset path v env) s = .next (if bits v.toNat 31 16 ≠ 0xC0DE then accessFault s path 6 8
           else if bitOf v.toNat 0 then deviceReset s 2 env else s)) ∧
  (∀ (s : State) (path : Nat) (v : Word) (env : StartEnv), path < 5 → pathOpen s path = false → heldInReset s = true →
     s.boot.lcReset = false → s.boot.scanOpen = false → s.boot.debugOpen = false →
       exec (.softwareReset path v env) s = .next s ∧ exec (.pinReset env) s = .next s ∧ exec (.lifeCycleReset env) s = .next s ∧
         exec (.scanDebugExitReset env) s = .next s) ∧
  (∀ (s : State) (env : StartEnv), s.boot.lcReset = true → exec (.lifeCycleReset env) s = .next (deviceReset s 3 env)) ∧
  (∀ (s : State) (env : StartEnv), s.boot.scanOpen = true ∨ s.boot.debugOpen = true →
       exec (.scanDebugExitReset env) s = .next (deviceReset s 4 env)) ∧
  (∀ (s : State) (cause : Nat) (env : StartEnv), s.pwr.railsOut = [] →
       deviceReset s cause env = startSteps (emit { resetKeep s with boot :=
           { (resetKeep s).boot with cause := cause, since := s.now, rstN := true, bistMode := env.bistMode } } (.pins true false)) env) ∧
  (∀ (s : State) (cause : Nat) (env : StartEnv), s.pwr.railsOut ≠ [] →
       ((deviceReset s cause env).boot.cause = cause ∧ (deviceReset s cause env).boot.step = 1 ∧ (deviceReset s cause env).boot.early = some s.now ∧ (deviceReset s cause env).regs = [] ∧
           (deviceReset s cause env).tally = s.tally ∧ (deviceReset s cause env).mem = s.mem ∧ (deviceReset s cause env).parts = [] ∧
           (deviceReset s cause env).fuses.normal = s.fuses.normal))

/-- The test port answers its instructions and opens scan and debug only in the states that permit them. -/
def Obligations.TestPort : Prop :=
  (∀ (s : State),
       exec .bypass s = .next (emit s (.testPort 0 0)) ∧ exec .idcode s = .next (emit s (.testPort 1 Config.idcode.toNat)) ∧
         exec .samplePreload s = .next (emit s (.testPort 2 (pinWord s)))) ∧
  (∀ (s : State),
       exec .extest s = .next (if s.boot.rstN then emit s (.testPort 0 0) else emit s (.testPort 3 (pinWord s)))) ∧
  (∀ (s : State), s.fuses.lc = 0 ∨ s.fuses.lc = 1 ∨ s.fuses.lc = 4 →
       exec .scanEntry s = .next { clearSecrets s with boot := { (clearSecrets s).boot with scanOpen := true } } ∧
         exec .debugEntry s = .next { clearSecrets s with boot := { (clearSecrets s).boot with debugOpen := true } }) ∧
  (∀ (s : State), s.fuses.lc ≠ 0 → s.fuses.lc ≠ 1 → s.fuses.lc ≠ 4 →
       exec .scanEntry s = .next (emit s (.testPort 0 0)) ∧ exec .debugEntry s = .next (emit s (.testPort 0 0))) ∧
  (∀ (s : State) (f m k : Nat) (u : State), s.wf → f < 32 → m < 32 → k < 128 → u = clearSecrets s →
       u.regions = [] ∧ u.leat.pond = [] ∧ u.leat.dirty = [] ∧ u.leat.copies = [] ∧ u.boot.identity = false ∧ u.boot.blocked = true ∧
         (getFlume u f).queue = [] ∧ (getFlume u f).waiting = [] ∧ (getFlume u f).inflight = [] ∧ (getFlume u f).heldRows = [] ∧ (getFlume u f).refetch = [] ∧
         (getSub u k).retry = [] ∧ (getSub u k).held = [] ∧
         (getMill u m).hopper = [] ∧ (getMill u m).scalars = [] ∧ (getMill u m).vectors = [])

/-- A head's link trains, goes down and is reset alone. -/
def Obligations.HeadLinks : Prop :=
  (∀ (s : State) (h : Nat) (cxl : Bool) (rate w : Nat) (rev : Bool) (bad : List Nat) (ndr drs : Option Nat), h < 4 →
     s.boot.linkEn = true → (getHead s h).linkUp = false → (getHead s h).retryAt = none → rate ≠ 0 → rate ≤ 3 →
     headSet (bad ++ exclReq s h) = some (w, rev) →
       exec (.headLinkUp h cxl rate bad ndr drs) s = .next (enterService
           (returnCredits (modHead (trainLanes { s with boot := { s.boot with perstN := insertNat h s.boot.perstN } } h bad) h fun x =>
             { x with linkUp := true, cxl := cxl && s.fuses.lc != 5, rate := rate, width := w, reversed := rev, recovering := false, l1 := false,
                      excluded := laneSet (bad ++ exclReq s h), readmit := [], ndr := ndr, drs := drs, reqCredit := 0, rwdCredit := 0, reqKept := 256, rwdKept := 128 }) h) h (cxl && s.fuses.lc != 5))) ∧
  (∀ (s : State) (h : Nat) (cxl : Bool) (rate : Nat) (bad : List Nat) (ndr drs : Option Nat), h < 4 → s.boot.linkEn = true →
     (getHead s h).linkUp = false → (getHead s h).retryAt = none →
     (rate = 0 ∨ 3 < rate ∨ headSet (bad ++ exclReq s h) = none) →
       exec (.headLinkUp h cxl rate bad ndr drs) s = .next (trainFailed { s with boot := { s.boot with perstN := insertNat h s.boot.perstN } } h)) ∧
  (∀ (s : State) (h t : Nat), h < 4 → (getHead s h).retryAt = some t → t ≤ s.now →
       exec (.headTrainRetry h) s = .next (modHead s h fun x => { x with retryAt := none })) ∧
  (∀ (s : State) (h t : Nat), h < 4 → ((getHead s h).retryAt = none ∨ (getHead s h).retryAt = some t ∧ s.now < t) →
       exec (.headTrainRetry h) s = .next s) ∧
  (∀ (s : State) (h : Nat), h < 4 → (getHead s h).linkUp = true →
       exec (.headHotReset h) s = .next (resetHead s h) ∧
         exec (.headLinkDown h) s = .next (scEvent (resetHead s h) (oHpt h 8) fun v => bumpBits v 11 4) ∧
         exec (.functionLevelReset h) s = .next (resetHeadPairs (modHead s h fun x =>
           { x with msix := false, fnMask := false, unmasked := [], pba := [], vectors := [] }) h)) ∧
  (∀ (s : State) (h : Nat), h < 4 → (getHead s h).linkUp = false →
       exec (.headHotReset h) s = .next s ∧ exec (.headLinkDown h) s = .next s ∧ exec (.functionLevelReset h) s = .next s) ∧
  (∀ (s : State) (h : Nat), h < 4 →
       exec (.headConventionalReset h) s = .next (resetHead { s with boot := { s.boot with perstN := s.boot.perstN.filter (· != h) } } h))

/-- Power states of a head, its S2M credits and its configuration. -/
def Obligations.HeadStates : Prop :=
  (∀ (s : State) (h : Nat), h < 4 → (getHead s h).linkUp = true → (getHead s h).d3hot = false →
       exec (.d3hotEntry h) s = .next (resetHeadPairs (modHead s h fun x => { x with d3hot := true }) h)) ∧
  (∀ (s : State) (h : Nat), h < 4 → (getHead s h).linkUp = true → (getHead s h).d3hot = true →
       exec (.d0Entry h) s = .next (wakeDevice (modHead (if (getHead s h).l1 then resumeLink s h else s) h fun x => { x with d3hot := false, l1 := false }))) ∧
  (∀ (s : State) (h : Nat), h < 4 → (getHead s h).linkUp = true → (getHead s h).l1 = false → headHolds s h = false →
       exec (.l1Entry h) s = .next (modHead (abortScans (holdLink s h) h) h fun x => { x with l1 := true })) ∧
  (∀ (s : State) (h : Nat), h < 4 → ((getHead s h).linkUp = false ∨ headHolds s h = true) → exec (.l1Entry h) s = .next s) ∧
  (∀ (s : State) (h : Nat), h < 4 → (getHead s h).l1 = true →
       exec (.l1Exit h) s = .next (wakeDevice (modHead (resumeLink s h) h fun x => { x with l1 := false }))) ∧
  (∀ (s : State) (h t : Nat), h < 4 → (getHead s h).fullSince = some t → 384 ≤ (getHead s h).responses.length →
     (getHead s h).starveSaid = false → t + 1000000 ≤ s.now →
       exec (.s2mStarvation h) s = .next (linkEvent (scEvent (modHead s h fun x => { x with starveSaid := true }) (oHpt h 8) fun v => putBits v 3 3 1) h 1 0)) ∧
  (∀ (s : State) (h : Nat), h < 4 → ((getHead s h).starveSaid = true ∨ (getHead s h).responses.length < 384) →
       exec (.s2mStarvation h) s = .next s) ∧
  (∀ (s : State) (h ndr drs : Nat), h < 4 → (getHead s h).linkUp = true →
       ∃ t, t = drainResponses ((getHead s h).responses ++ (getHead s h).stopped)
             (modHead s h fun x => { x with ndr := x.ndr.map (· + ndr), drs := x.drs.map (· + drs), responses := [], stopped := [] }) h ∧
         exec (.s2mCreditReturn h ndr drs) s = .next (modHead t h fun y => { y with
           fullSince := if responsesFull t h then (getHead s h).fullSince else none, starveSaid := responsesFull t h && (getHead s h).starveSaid })) ∧
  (∀ (s : State) (h : Nat) (cfg : ConfigWrite), h < 4 → (getHead s h).linkUp = true →
       exec (.pcieConfigWrite h cfg) s = .next (modHead s h fun x => configure x cfg)) ∧
  (∀ (x : Head) (on : Bool) (v : Nat),
       configure x (.busMaster on) = { x with bme := on } ∧ configure x (.msixEnable on) = { x with msix := on } ∧
         configure x (.functionMask on) = { x with fnMask := on } ∧ configure x (.completionTimeout v) = { x with cto := v % 16 } ∧
         configure x (.vectorMask v true) = { x with unmasked := x.unmasked.filter (· != v) } ∧
         configure x (.maxPayload v) = { x with mps := v % 8 } ∧ configure x (.maxReadRequest v) = { x with mrrs := v % 8 } ∧
         configure x (.tenBitTags on) = { x with tenBit := on } ∧ configure x (.relaxedOrdering on) = { x with relaxed := on } ∧ configure x (.idOrdering on) = { x with idOrder := on })

/-- Leat ports train, exchange flits and heartbeats, replay and go down. -/
def Obligations.LeatPorts : Prop :=
  (∀ (s : State) (k rate w : Nat) (rev : Bool) (bad : List Nat), k < 2 → portMayTrain s k = true →
     bitOf (regGet s (oLet k 0)).toNat 1 = false → rate = 2 ∨ rate = 3 →
     portSet (bad ++ exclReq s (4 + k)) = some (w, rev) →
       exec (.leatPortTrain k rate bad) s = .next (portUp s k rate w bad)) ∧
  (∀ (s : State) (k : Nat) (bad : List Nat), k < 2 → portMayTrain s k = true → portSet (bad ++ exclReq s (4 + k)) = none →
       exec (.leatPortTrain k 3 bad) s = .next (portTrainFailed s k)) ∧
  (∀ (s : State) (k rate w : Nat) (rev : Bool) (bad : List Nat), k < 2 → portMayTrain s k = true →
     bitOf (regGet s (oLet k 0)).toNat 1 = true → (rate = 2 ∨ rate = 3) →
     portSet (bad ++ exclReq s (4 + k)) = some (w, rev) → exec (.leatPortTrain k rate bad) s = .next (portUp s k 2 w bad)) ∧
  (∀ (s : State) (k : Nat), k < 2 → portAlive (getPort s k) = true → exec (.leatPortDown k) s = .next (portDown s k)) ∧
  (∀ (s : State) (k : Nat), k < 2 → (getPort s k).linkUp = true →
       exec (.leatPortReturn k) s = .next (leatFlush (modLeat s fun l =>
           { l with away := l.away.filter fun v => !((naturalVias k).contains v && viaIdle s v) }))) ∧
  (∀ (s : State) (k seq : Nat) (crcOk : Bool), k < 2 → (getPort s k).linkUp = true →
       exec (.flitReceive k seq crcOk) s = .next
           (if crcOk && seq % 1024 == ((getPort s k).rxLast + 1) % 1024 then
              sendLink (modPort s k fun p => { p with rxAt := s.now, rxLast := seq % 1024 }) k false 0 0
            else sendLink (modPort s k fun p => { p with rxAt := s.now, rxLast := p.rxLast }) k true 0 0)) ∧
  (∀ (s : State) (k : Nat), k < 2 → (getPort s k).linkUp = true → (getPort s k).unacked.isEmpty = false →
     (getPort s k).linkAt + 10000 ≤ s.now → exec (.leatReplayTimeout k) s = .next (replay s k)) ∧
  (∀ (s : State) (k : Nat), k < 2 → exec (.idle k) s = .next s) ∧
  (∀ (s : State) (k lastGood reqSlots rspSlots : Nat), k < 2 → (getPort s k).linkUp = true →
       exec (.link k lastGood false reqSlots rspSlots) s = .next (leatFlush (modPort s k fun p =>
           let rest := p.unacked.filter fun e => !delivered lastGood e.seq
           { p with unacked := rest, resends := if rest.length < p.unacked.length then 0 else p.resends, linkAt := s.now,
                    reqCredit := min 4096 (p.reqCredit + reqSlots), rspCredit := min 2048 (p.rspCredit + rspSlots) }))) ∧
  (∀ (s : State) (k lastGood reqSlots rspSlots : Nat), k < 2 → (getPort s k).linkUp = true →
       exec (.link k lastGood true reqSlots rspSlots) s = .next (leatFlush (replay (modPort s k fun p =>
           let rest := p.unacked.filter fun e => !delivered lastGood e.seq
           { p with unacked := rest, resends := if rest.length < p.unacked.length then 0 else p.resends, linkAt := s.now,
                    reqCredit := min 4096 (p.reqCredit + reqSlots), rspCredit := min 2048 (p.rspCredit + rspSlots) }) k))) ∧
  (∀ (s : State) (k : Nat), k < 2 → (getPort s k).linkUp = true →
     (getPort s k).beatAt = 0 ∨ (getPort s k).beatAt + 100000 ≤ s.now →
       exec (.heartbeatSend k) s = .next (leatOwn (modPort s k fun p => { p with beatAt := s.now }) k 6 2 0 0 (heartbeatBytes s k))) ∧
  (∀ (s : State) (k : Nat) (hb : HeartbeatMsg), k < 2 → (getPort s k).linkUp = true → hb.nonce = s.leat.nonce.toNat →
     hb.sendPort = 1 - k →
       exec (.heartbeat k hb) s = .next (forAll s [0, 1] fun s j => modPort s j fun p => { p with selfLoop := true })) ∧
  (∀ (s : State) (k : Nat) (hb : HeartbeatMsg), k < 2 → (getPort s k).linkUp = true →
     (hb.nonce ≠ s.leat.nonce.toNat ∨ hb.sendPort ≠ 1 - k) →
       ∃ t, t = modLeat s (fun l =>
             { l with partnerId := hb.deviceId, partnerEpoch := hb.epoch, partnerPart := hb.part, partnerApplied := hb.applied % 2 ^ 24 }) ∧
         (hb.part = partNumber → exec (.heartbeat k hb) s = .next (settlePort (modPort t k fun p => { p with heard := true, foreign := false }) (1 - k)
           (if k = 0 then hb.last1 else hb.last0))) ∧
         (hb.part ≠ partNumber → exec (.heartbeat k hb) s = .next (portEvent (modPort t k fun p => { p with heard := false, foreign := true }) k 1))) ∧
  (∀ (s : State) (k seq lastGood rq rs : Nat) (ok nak : Bool) (hb : HeartbeatMsg), k < 2 → (getPort s k).linkUp = false →
     (getPort s k).recovering = false →
       exec (.flitReceive k seq ok) s = .next s ∧ exec (.link k lastGood nak rq rs) s = .next s ∧ exec (.leatReplayTimeout k) s = .next s ∧
         exec (.heartbeatSend k) s = .next s ∧ exec (.heartbeat k hb) s = .next s ∧ exec (.leatPortReturn k) s = .next s ∧ exec (.leatPortDown k) s = .next s)

/-- Mirror writes, acknowledgements, copies, the pond and the shared page. -/
def Obligations.MirrorTraffic : Prop :=
  (∀ (s : State) (k line cls tag : Nat) (data : Line) (md : BitVec 2), k < 2 → leatOpen s k = true →
       exec (.mirrorWrite k line data md cls tag) s = .next (applyLine s k line data md false (cls % 2) (tag % 2 ^ 24)) ∧
         exec (.poisonNotice k line cls tag) s = .next (applyLine s k line 0 0 true (cls % 2) (tag % 2 ^ 24))) ∧
  (∀ (s : State) (k line : Nat) (data : Line) (md : BitVec 2) (poison : Bool) (tag i : Nat), s.leat.joined = true →
     (regionAt s (line * 64)).filter (fun i => regionMatched s i && rgSecondary (regionWord s i)) = some i →
       applyLine s k line data md poison 0 tag = ingress (wakeDevice s) (flumeOf s i line)
           { reqInit with port := 4, cls := 2, kind := .write, data := data, poison := poison, md := some md, dest := .apply 0 tag k, dpaLine := line,
                          line := (lineOf (regionWord s i) (line * 64)).2, region := i, entry := regionWord s i }) ∧
  (∀ (s : State) (k first count : Nat) (stored : Bool), k < 2 → leatOpen s k = true →
       exec (.ack k 0 first count stored) s = .next (mirrorAll (ackSync (sendLink s k false 0 1) first (count % 65536) stored)) ∧
         exec (.ack k 1 first count stored) s = .next (mirrorAll (ackPond (sendLink s k false 0 1) first (count % 65536) stored)) ∧
         exec (.ack k 2 first count stored) s = .next (mirrorAll (ackState (sendLink s k false 0 1) first (count % 65536) stored)) ∧
         exec (.ack k 3 first count stored) s = .next (mirrorAll (((sendLink s k false 0 1).leat.pushes.filter fun w => inRun first (count % 65536) w.tag).foldl (endPush stored) (sendLink s k false 0 1)))) ∧
  (∀ (s : State) (k line lines tag : Nat) (refetch : Bool) (env : OpEnv), k < 2 → leatOpen s k = true →
     s.leat.joined = true →
     ((rangeFlumes (wakeDevice s) [(0, line * 64, max 1 (min 16 lines) * 64)]).filter fun f => !flumeOpen (wakeDevice s) f) = [] →
     rangeScrubbed (wakeDevice s) [(0, line * 64, max 1 (min 16 lines) * 64)] = false →
       exec (.copyRequest k line lines refetch tag env) s = .next (answerCopy k line (max 1 (min 16 lines)) tag env (wakeDevice s))) ∧
  (∀ (s : State) (k line tag : Nat) (d : CopyLine) (rest : List CopyLine) (c : CopyWait), k < 2 → leatOpen s k = true →
     s.leat.joined = true → s.leat.copies.find? (fun c => c.tag == tag) = some c →
       exec (.copyData k line false (d :: rest) tag) s = .next (copyArrived (sendLink (dropCopy s c) k false 0 (1 + 4 * (d :: rest).length)) c d) ∧
         exec (.copyData k line false [] tag) s = .next (copyFailed (sendLink (dropCopy s c) k false 0 1) c)) ∧
  (∀ (s : State) (k line lines cls tag first count : Nat) (data : Line) (md : BitVec 2) (stored rf push : Bool) (env : OpEnv) (ds : List CopyLine),
     k < 2 → leatOpen s k = false →
       exec (.mirrorWrite k line data md cls tag) s = .next s ∧ exec (.poisonNotice k line cls tag) s = .next s ∧
         exec (.ack k cls first count stored) s = .next s ∧ exec (.copyRequest k line lines rf tag env) s = .next s ∧ exec (.copyData k line push ds tag) s = .next s) ∧
  (∀ (s : State) (e : PondEntry), s.leat.pond.find? (fun e => !e.sent) = some e → s.leat.joined = true →
     pondReady s e = true →
       exec .pondSend s = .next
           (let s1 := modLeat s fun l => { l with pond := mapWhere (fun p => p.seq == e.seq) (fun p => { p with sent := true, since := s.now }) l.pond }
            let s2 := sendMirror s1 (flumeOf s e.region e.line) 1 e.seq e.line e.data.toNat e.md.toNat e.poison
            releasePages s2.leat.pageWait s2)) ∧
  (∀ (s : State) (path off : Nat) (v : Word), path < 5 → off < 0x800 → off % 4 = 0 → pathOpen s path = true →
     busy s 100 = false → portAwake s 100 = true → s.leat.joined = false →
       exec (.sharedPageWrite path off v) s = .next (modLeat s fun l => { l with page := tabSet 0 l.page (off / 4) v, pageMade := s.leat.pageMade + 1 })) ∧
  (∀ (s : State) (did g a : Nat) (env : OpEnv) (d : Desc) (m : List Byte), Machine.adminDesc s did 0x46 = some (d, m) →
     d.work = 2 →
     ((resilverGranules s (natAt d.prog 0)).filter fun g => !(failedGranules d).contains g).find? (fun g => natAt d.prog 4 < (g + 1) * 1024) = some g →
     a = max (natAt d.prog 4) (g * 1024) → ((rangeFlumes s [(0, a * 64, 1024)]).filter fun f => !flumeOpen s f) = [] →
     rangeScrubbed s [(0, a * 64, 1024)] = false →
       exec (.resilverSend did env) s = .next (resilverBatch did ((regionAt s (a * 64)).getD 0) a d env s)) ∧
  (∀ (s : State), s.leat.joined = true → (getPort s 0).rxAt + 3000000 ≤ s.now → (getPort s 1).rxAt + 3000000 ≤ s.now →
       exec .flitTimeout s = .next (partnerLost s)) ∧
  (∀ (s : State), (s.leat.joined = false ∨ s.now < (getPort s 0).rxAt + 3000000 ∨ s.now < (getPort s 1).rxAt + 3000000) →
       exec .flitTimeout s = .next s) ∧
  (∀ (s : State), s.leat.joined = true →
     ((s.leat.sync.any fun w => decide (w.since + ackLimit s < s.now)) || s.leat.pond.any fun e => e.sent && decide (e.since + ackLimit s < s.now)) = true →
       exec .ackLimitExpiry s = .next (forAll (partnerLost (forAll s [0, 1] fun s k => if portAlive (getPort s k) then portDown s k else s)) [0, 1]
           fun s k => modPort s k fun p => { p with disabled := true, retryAt := some (s.now + 1000000) }))

/-- The pair joins and keeps its regions, roles, page and dirty bitmap alike. -/
def Obligations.PairState : Prop :=
  (∀ (s : State) (k : Nat) (entries : List RegionIn) (dirty : List DirtyIn), k < 2 → mayJoin s = true →
       exec (.pairJoin k entries dirty) s = .next (mirrorAll (dirty.foldl (joinChunk k) (modLeat
           (sendJoin (entries.foldl (joinUpdate k) (sendEntries (wipedPartner (modLeat s fun l => { l with unmatched := [], dual := [] }))))) fun l =>
             { l with joined := true, lastJoin := some (l.partnerId, l.partnerEpoch), pondSeq := (l.partnerApplied + 1) % 2 ^ 24,
                      acked := l.partnerApplied })))) ∧
  (∀ (s : State) (k : Nat) (entries : List RegionIn) (dirty : List DirtyIn), k < 2 → mayJoin s = false →
       exec (.pairJoin k entries dirty) s = .next s) ∧
  (∀ (s : State) (k idx tag : Nat) (entry : BitVec 128), k < 2 → leatOpen s k = true → idx < 64 →
       exec (.regionEntryUpdate k idx entry tag) s = .next (ackUpdate (installEntry s idx entry.toNat).2 k tag 2 (installEntry s idx entry.toNat).1)) ∧
  (∀ (s : State) (i e : Nat), regionLive s i = false →
     (rgSecondary e = true ∨ entryReason s i (partnerForm e) ≠ 0 ∨ entryUsed s i = true) →
       installEntry s i e = (false, s)) ∧
  (∀ (s : State) (k idx tag : Nat), k < 2 → leatOpen s k = true → idx < 64 →
       exec (.regionClearUpdate k idx tag) s = .next (if entryUsed s idx then ackUpdate s k tag 2 false
           else ackUpdate (setEntry s idx (putBits (regionWord s idx) 88 88 0)) k tag 2 true)) ∧
  (∀ (s : State) (k mask tag : Nat), k < 2 → leatOpen s k = true →
       exec (.roleChangeUpdate k mask tag) s = .next (ackUpdate (forAll s (upFrom 0 64) fun s i =>
           if bitOf mask i && regionMirrored s i then setRole s (2 ^ i) (!rgSecondary (regionWord s i)) else s) k tag 2 true)) ∧
  (∀ (s : State) (k : Nat) (words : List (Nat × Word)) (tag : Nat), k < 2 → leatOpen s k = true →
       ∃ t, t = modLeat s (fun l => { l with page := words.foldl (fun t e => if e.1 < 512 then tabSet 0 t (512 + e.1) e.2 else t) l.page }) ∧
         exec (.sharedPageUpdate k words tag) s = .next (if applyWaits s then
             returnSlots (modLeat t fun l => { l with ackHold := l.ackHold ++ [tag % 2 ^ 24] }) k (1 + (words.length + 3) / 4)
           else ackUpdate t k tag (1 + (words.length + 3) / 4) true)) ∧
  (∀ (s : State) (k : Nat) (granules : List Nat) (tag : Nat), k < 2 → leatOpen s k = true →
       exec (.dirtyBitmapChunk k granules tag) s = .next (ackUpdate (joinDirty s granules) k tag 65 true) ∧
         exec (.granulesClean k granules tag) s = .next (ackUpdate (clearGranules s granules) k tag (1 + (granules.length + 3) / 4) true)) ∧
  (∀ (s : State) (k mask tag : Nat), k < 2 → leatOpen s k = true →
       exec (.switchoverRequest k mask tag) s = .next
           (if s.leat.joined && (namedRegions mask).all fun i => regionMirrored s i && !rgSecondary (regionWord s i) then
             ackUpdate (modLeat s fun l => { l with quiesce := (namedRegions mask).foldl (fun l i => insertNat i l) l.quiesce }) k tag 2 true
            else ackUpdate s k tag 2 false)) ∧
  (∀ (s : State), s.leat.quiesce ≠ [] → (s.leat.sync.any fun w => s.leat.quiesce.contains w.region) = false →
     (s.leat.pond.any fun e => s.leat.quiesce.contains e.region) = false →
       exec .switchoverQuiesced s = .next (sendState (forAll
             (setRole (modLeat s fun l => { l with quiesce := [] }) (maskOfRegions s.leat.quiesce) true) (upFrom 0 32) (refuseIn s.leat.quiesce)) 8 0
           (leBytes 8 (maskOfRegions s.leat.quiesce)) 0)) ∧
  (∀ (s : State) (k mask tag : Nat), k < 2 → leatOpen s k = true →
       exec (.switchoverDone k mask tag) s = .next (ackUpdate (forAll (setRole s mask false) ((setRole s mask false).descs.map Prod.fst) endSwitchover) k tag 2 true)) ∧
  (∀ (s : State) (k idx mask tag : Nat) (entry : BitVec 128) (words : List (Nat × Word)) (gs : List Nat), k < 2 →
     leatOpen s k = false →
       exec (.regionEntryUpdate k idx entry tag) s = .next s ∧ exec (.regionClearUpdate k idx tag) s = .next s ∧ exec (.roleChangeUpdate k mask tag) s = .next s ∧
         exec (.sharedPageUpdate k words tag) s = .next s ∧ exec (.dirtyBitmapChunk k gs tag) s = .next s ∧ exec (.granulesClean k gs tag) s = .next s ∧
         exec (.switchoverRequest k mask tag) s = .next s ∧ exec (.switchoverDone k mask tag) s = .next s)

/-- Lanes lose lock, are tested again and carry PRBS and eye scans. -/
def Obligations.Lanes : Prop :=
  (∀ (s : State) (l : Nat) (pll eq : Bool), l < 96 → linkRuns s (l / 16) = true →
       exec (.laneLossOfLock l pll eq) s = .next
           (let s2 := (lostLanes l pll).foldl (fun s k => modLane (abortScan (holdTaps s k) k) k fun x => { x with cdr := false })
              (if pll then { s with pwr := { s.pwr with laneLock := s.pwr.laneLock.filter (· != l / 4) } } else s)
            recover (if l / 16 < 4 then scEvent s2 (oHpt (l / 16) 8) fun v => putBits v 15 12 ((lostLanes l pll).foldl max 0 % 16) else s2)
              (l / 16) ((lostLanes l pll).map (· % 16)) eq)) ∧
  (∀ (s : State) (l : Nat) (pll eq : Bool), l < 96 → linkRuns s (l / 16) = false →
       exec (.laneLossOfLock l pll eq) s = .next
           ((lostLanes l pll).foldl (fun s k => modLane (abortScan (holdTaps s k) k) k fun x => { x with cdr := false })
             (if pll then { s with pwr := { s.pwr with laneLock := s.pwr.laneLock.filter (· != l / 4) } } else s))) ∧
  (∀ (s : State) (l : Nat), l < 96 → retestDue s l = true →
       exec (.laneRetest l) s = .next (modLane s l fun x => { x with retest := true, retestAt := s.now })) ∧
  (∀ (s : State) (l : Nat), l < 96 → retestDue s l = false → exec (.laneRetest l) s = .next s) ∧
  (∀ (s : State) (l errors : Nat) (lock : Bool), l < 96 → (getLane s l).retest = true →
     (getLane s l).retestAt + 1000000 ≤ s.now →
       exec (.laneRetestDone l errors lock) s = .next (if lock = true ∧ errors = 0 then readmitLane (modLane s l fun x => { x with retest := false }) l
           else modLane s l fun x => { x with retest := false })) ∧
  (∀ (s : State) (l errors : Nat) (lock : Bool), l < 96 →
     ((getLane s l).retest = false ∨ s.now < (getLane s l).retestAt + 1000000) →
       exec (.laneRetestDone l errors lock) s = .next s) ∧
  (∀ (s : State) (n : Nat) (failing : List Nat) (eq : Bool), n < 6 →
       exec (.autoWidenRecovery n failing eq) s = .next (if mayWiden s n = true then recover s n failing eq else s)) ∧
  (∀ (s : State) (n : Nat) (failing : List Nat) (eq : Bool), n < 6 →
       exec (.linkRecovery n failing eq) s = .next (if linkRuns s n = true then recover s n failing eq else s)) ∧
  (∀ (s : State) (path l : Nat) (v : Word), path < 5 → l < 96 → pathOpen s path = true → busy s (102 + l) = false →
     portAwake s (102 + l) = true → bitOf v.toNat 31 = true → (getLane s l).scanning = false →
       exec (.eyeScanStart path l v) s = .next (startScan (regSet s (oLan l 0x24) (BitVec.ofNat 32 (v.toNat &&& 0x031F0F0F))) l)) ∧
  (∀ (s : State) (path l : Nat) (v : Word), path < 5 → l < 96 → pathOpen s path = true → busy s (102 + l) = false →
     portAwake s (102 + l) = true → (bitOf v.toNat 31 = false ∨ (getLane s l).scanning = true) →
       exec (.eyeScanStart path l v) s = .next (regSet s (oLan l 0x24) (BitVec.ofNat 32 (v.toNat &&& 0x031F0F0F)))) ∧
  (∀ (s : State) (l errors : Nat), l < 96 → (getLane s l).scanning = true → (getLane s l).scanAt + scanTime s l ≤ s.now →
     (getLane s l).points.length + 1 < scanTotal s l →
       exec (.eyeScanPoint l errors) s = .next (scanStatus (modLane s l fun x =>
           { x with points := x.points ++ [scanWord s l (getLane s l).points.length errors], scanning := true, scanAt := s.now })
           l 1 (min 512 ((getLane s l).points.length + 1)))) ∧
  (∀ (s : State) (l errors : Nat), l < 96 → (getLane s l).scanning = true → (getLane s l).scanAt + scanTime s l ≤ s.now →
     scanTotal s l ≤ (getLane s l).points.length + 1 →
       exec (.eyeScanPoint l errors) s = .next (scanStatus (modLane s l fun x =>
           { x with points := x.points ++ [scanWord s l (getLane s l).points.length errors], scanning := false, scanAt := s.now })
           l 2 (min 512 ((getLane s l).points.length + 1)))) ∧
  (∀ (s : State) (l errors : Nat), l < 96 → ((getLane s l).scanning = false ∨ s.now < (getLane s l).scanAt + scanTime s l) →
       exec (.eyeScanPoint l errors) s = .next s) ∧
  (∀ (s : State) (l : Nat) (rx : List Bool), l < 96 →
       exec (.prbsLock l rx) s = .next (if checking s l = true ∧ (getLane s l).locked = false then rx.foldl (checkBit l) s else s)) ∧
  (∀ (s : State) (l : Nat) (rx : List Bool), l < 96 →
       exec (.prbsSyncLoss l rx) s = .next (if checking s l = true ∧ (getLane s l).locked = true then rx.foldl (checkBit l) s else s)) ∧
  (∀ (s : State) (l : Nat) (next : Prbs),
       cleanBit s l next = modLane s l fun x =>
           { x with chk := next, clean := x.clean + 1, locked := x.clean + 1 == 1024, sinceLock := 0, recent := [] }) ∧
  (∀ (s : State) (l : Nat) (bit e inj : Bool) (next : Prbs),
       countBit s l bit e inj next =
           (let missed := inj && bit == e
            let real := missed || (!inj && bit != e)
            let s1 := modLane s l fun x =>
              { x with
                chk := next, compared := (x.compared + 1) % 2 ^ 64, real := (x.real + b2n real) % 2 ^ 64
                seen := (x.seen + b2n (inj && !missed)) % 2 ^ 64, missed := (x.missed + b2n missed) % 2 ^ 64, sinceLock := x.sinceLock + 1
                recent := (if real then x.recent ++ [x.sinceLock] else x.recent).filter fun k => decide (x.sinceLock < k + 1024) }
            let s2 := if real then scEvent s1 (oLan l 0x1C) fun v => putBits (bumpBits v 15 8) 2 2 (if missed then 1 else bits v 2 2) else s1
            if 256 < (getLane s2 l).recent.length then
              modLane (scEvent s2 (oLan l 0x1C) fun v => bumpBits v 23 16) l fun x => { x with locked := false, fill := 0, clean := 0 }
            else s2)) ∧
  (∀ (s : State),
       exec .corePllLoss s = .next (if s.pwr.coreLock = true then raise { s with pwr := { s.pwr with coreLock := false, ringOsc := true } } 1 0 3 0 0 else s)) ∧
  (∀ (s : State),
       exec .referenceLoss s = .next (if s.pwr.refLost = true then s else
           (let s1 := setLine { s with pwr := { s.pwr with refLost := true } } 1 0 true
            loseLanes (raise { s1 with pwr := { s1.pwr with coreLock := false, ringOsc := true } } 1 0 3 0 0))))

/-- Readings set floors, a trip is fatal, and the collector counts, latches and clears its sources. -/
def Obligations.ThermalAndFaults : Prop :=
  (∀ (s : State) (readings : List Int), readings.length = 186 → s.pwr.dstate ≠ 4 →
       exec (.thermalEvaluation readings) s = .next
           (let s1 := takeReadings s readings
            let s2 := forAll (runModel s s1) (upFrom 0 17) judgeTier
            noteHottest (checkTrip (forAll (forAll (setBands s2) (upFrom 0 32) floorFlume) (upFrom 0 32) floorMill)))) ∧
  (∀ (s : State) (readings : List Int), readings.length = 186 → s.pwr.dstate = 4 →
       exec (.thermalEvaluation readings) s = .next (checkTrip (takeReadings s readings))) ∧
  (∀ (s : State) (m t : Nat), m < 32 → 0 < (getMill s m).floor → (getMill s m).coolSince = some t → t + 10000000 ≤ s.now →
       exec (.throttleStepDown m true) s = .next (modMill s m fun x =>
           { x with floor := x.floor - 1, coolSince := some s.now, raisedBy := if x.floor = 1 then [] else x.raisedBy })) ∧
  (∀ (s : State) (f t : Nat), f < 32 → 0 < (getFlume s f).floor → (getFlume s f).coolSince = some t → t + 10000000 ≤ s.now →
       exec (.throttleStepDown f false) s = .next (modFlume s f fun x =>
           { x with floor := x.floor - 1, coolSince := some s.now, raisedBy := if x.floor = 1 then [] else x.raisedBy })) ∧
  (∀ (s : State) (m : Nat), m < 32 →
     ((getMill s m).floor = 0 ∨ ∀ t, (getMill s m).coolSince = some t → s.now < t + 10000000) →
       exec (.throttleStepDown m true) s = .next s) ∧
  (∀ (s : State) (f : Nat), f < 32 →
     ((getFlume s f).floor = 0 ∨ ∀ t, (getFlume s f).coolSince = some t → s.now < t + 10000000) →
       exec (.throttleStepDown f false) s = .next s) ∧
  (∀ (s : State) (src : Nat), src < 184 → exec (.thermalTrip src) s = .next (raise s 3 0 3 (src % 256 * 2 ^ 15) 0)) ∧
  (∀ (s : State) (power : Nat) (tin tout : Int), bitOf (regGet s (oThm 0)).toNat 0 = true → trimDefault s = false →
       exec (.coolantCheck power tin tout) s = .next
           (let found := coolKinds s power tin tout
            let fine := !found.contains 4 && !rateBelow power (coolShare s) (tout - tin) (coolMin s + 5) && !rateAbove power (coolShare s) (tout - tin) 400
            let s2 := found.foldl coolRaise (coolEnd (modThm s fun m => { m with tin := tin, tout := tout }) found
              (if fine then s.thm.goodChecks + 1 else 0))
            if !found.contains 4 && ((decide (160 ≤ tin) && decide (tin ≤ 180)) || decide (tin < 80)) then event s2 5 2 1 0 0 else s2)) ∧
  (∀ (s : State) (power : Nat) (tin tout : Int), bitOf (regGet s (oThm 0)).toNat 0 = false →
       exec (.coolantCheck power tin tout) s = .next (modThm s fun m => { m with tin := tin, tout := tout })) ∧
  (∀ (s : State) (power : Nat) (tin tout : Int), bitOf (regGet s (oThm 0)).toNat 0 = true → trimDefault s = true →
       exec (.coolantCheck power tin tout) s = .next
           (let s1 := modThm s fun m => { m with tin := tin, tout := tout }
            if s1.thm.suspended then s1 else event (modThm s1 fun m => { m with suspended := true }) 5 1 1 0 0)) ∧
  (∀ (s : State) (g i sev unit detail : Nat), g < 64 → i < 16 → sev < 4 →
       exec (.errorLineEvent g i sev unit detail .pulse none) s = .next (raiseLine s g i sev unit detail) ∧
         exec (.errorLineEvent g i sev unit detail .rise none) s = .next (raiseLine (setLine s g i true) g i sev unit detail) ∧
         exec (.errorLineEvent g i sev unit detail .fall none) s = .next (endCondition s g i)) ∧
  (∀ (s : State) (g sev unit detail : Nat) (line : LineChange) (e : TlpError), 16 ≤ g → g < 20 → sev < 4 →
       exec (.errorLineEvent g 0 sev unit detail line (some e)) s = .next (tlpFault s (g - 16) e)) ∧
  (∀ (s : State) (g i sev unit detail : Nat),
       raiseLine s g i sev unit detail =
           if 32 ≤ g ∧ i = 13 ∧ (getMill (raise s g i sev unit detail) (g - 32)).disabled = true then leaveDispatch (raise s g i sev unit detail) (g - 32)
           else raise s g i sev unit detail) ∧
  (∀ (s : State) (g i e : Nat), g < 64 → i < 16 → (getSource s (srcKey g i)).windowEnd = some e → e ≤ ticks s →
       exec (.windowClose g i) s = .next (modSource s (srcKey g i) fun x => { x with windowEnd := none, count := 0 })) ∧
  (∀ (s : State) (g i : Nat), g < 64 → i < 16 → (∀ e, (getSource s (srcKey g i)).windowEnd = some e → ticks s < e) →
       exec (.windowClose g i) s = .next s) ∧
  (∀ (s : State) (bad : List Nat), (bad.filter fun k => k != 0 && decide (k < 1024)) ≠ [] →
       exec (.collectorParitySweep bad) s = .next (raise (forAll s (bad.filter fun k => k != 0 && decide (k < 1024)) reloadSource) 0 0 3 0 0)) ∧
  (∀ (s : State) (bad : List Nat), (bad.filter fun k => k != 0 && decide (k < 1024)) = [] →
       exec (.collectorParitySweep bad) s = .next s) ∧
  (∀ (s : State) (path : Nat) (v : Word), path < 5 → pathOpen s path = true →
       exec (.fltClear path v) s = .next
           (let k := srcKey (bits v.toNat 13 8) (bits v.toNat 3 0)
            if bits v.toNat 31 24 ≠ (getSource s k).seq then clearResult s 3
            else if (getSource s k).line then clearResult s 2 else clearLatch (clearResult s 1) k)) ∧
  (∀ (s : State) (path : Nat) (v : Word), path < 5 → pathOpen s path = false → exec (.fltClear path v) s = .next s)

/-- The poison mark is a majority of three equal copies. -/
def Obligations.PoisonMajority : Prop :=
  (∀ (md : Nat), mdPoison md = decide (2 ≤ b2n (bitOf md 0) + b2n (bitOf md 3) + b2n (bitOf md 6))) ∧
  (∀ (cxl : Nat) (dirty poison : Bool),
       bitOf (mdMake cxl dirty poison) 0 = poison ∧ bitOf (mdMake cxl dirty poison) 3 = poison ∧ bitOf (mdMake cxl dirty poison) 6 = poison) ∧
  (∀ (s : State) (f line dpaLine region : Nat) (d : Decoded), d.bad = false →
     (bitOf d.md 0 ≠ bitOf d.md 3 ∨ bitOf d.md 0 ≠ bitOf d.md 6) →
       settlePoison s f line d dpaLine region =
           queueWriteBack (modFlume s f fun x => { x with totals := tabMod 0 x.totals 0 (· + 1) }) f line d.data
             (mdMake (mdCxl d.md) (mdDirty d.md) (mdPoison d.md)) dpaLine region)

/-- A doorbell of a pair that does not run, or from another path, is dropped and counted. -/
def Obligations.DoorbellDropped : Prop :=
  (∀ (s : State) (path n : Nat) (v : Word), path < 5 → n < 256 → pathOpen s path = true →
     ((getPair s n).state ≠ 1 ∨ path ≠ pairHead n) →
       exec (.sqTail path n v) s = .next (scEvent (doorbellArrives s path) (oRing n 0x28) fun v => bumpBits v 23 16) ∧
         exec (.cqHead path n v) s = .next (scEvent (doorbellArrives s path) (oRing n 0x28) fun v => bumpBits v 23 16) ∧
         getPair (scEvent (doorbellArrives s path) (oRing n 0x28) fun v => bumpBits v 23 16) n = getPair s n) ∧
  (∀ (s : State) (path n : Nat) (v : Word), path < 5 → n < 256 → pathOpen s path = true → (getPair s n).state = 1 →
     path = pairHead n →
       exec (.sqTail path n v) s = .next (takeTail (doorbellArrives s path) n (v.toNat % 65536)) ∧
         exec (.cqHead path n v) s = .next (takeHead (doorbellArrives s path) n (v.toNat % 65536)))

/-- Register writes, the read-out of the mailbox and write-back of sequence numbers. -/
def Obligations.RegisterAccesses : Prop :=
  (∀ (s : State) (path off kind : Nat) (data : List Byte) (env : StartEnv), path < 5 → pathOpen s path = true →
     data.isEmpty = false → writeShape off data.length = some kind →
       exec (.registerWrite path off data env) s = .next (accessFault s path kind off)) ∧
  (∀ (s : State) (path off port i : Nat) (b : Blk) (data : List Byte) (env : StartEnv), path < 5 → pathOpen s path = true →
     data.isEmpty = false → writeShape off data.length = none → blkAt off = some (b, i) → busyOf b i = some port →
     busy s port = false → portAwake s port = true → b ≠ .glb →
       exec (.registerWrite path off data env) s = .next { s with acc := { s.acc with
           posted := tabSet none s.acc.posted port (some ⟨path, off, wordsOf data⟩) } }) ∧
  (∀ (s : State) (path off port i : Nat) (b : Blk) (data : List Byte) (env : StartEnv), path < 5 → pathOpen s path = true →
     data.isEmpty = false → writeShape off data.length = none → blkAt off = some (b, i) → busyOf b i = some port →
     busy s port = true → b ≠ .glb → exec (.registerWrite path off data env) s = .next (accessFault s path 4 off)) ∧
  (∀ (s : State) (path off port i : Nat) (b : Blk) (data : List Byte) (env : StartEnv), path < 5 → pathOpen s path = true →
     data.isEmpty = false → writeShape off data.length = none → blkAt off = some (b, i) → busyOf b i = some port →
     busy s port = false → portAwake s port = false → b ≠ .glb →
       exec (.registerWrite path off data env) s = .next (wakePort { s with acc := { s.acc with
           posted := tabSet none s.acc.posted port (some ⟨path, off, wordsOf data⟩) } } port)) ∧
  (∀ (s : State) (path off i : Nat) (b : Blk) (data : List Byte) (env : StartEnv), path < 5 → pathOpen s path = true →
     data.isEmpty = false → writeShape off data.length = none → blkAt off = some (b, i) → busyOf b i = none → b ≠ .glb →
       exec (.registerWrite path off data env) s = .next (takeWords s path off (wordsOf data) ⟨[], []⟩)) ∧
  (∀ (s : State) (block : Nat) (loop : LoopRes) (p : Posted), block < 204 → tabGet none s.acc.posted block = some p →
     portAwake s block = true →
       exec (.postedWriteTaken block loop) s = .next (takeWords { s with acc := { s.acc with
           posted := tabSet none s.acc.posted block none } } p.path p.off p.words loop)) ∧
  (∀ (s : State) (block : Nat) (loop : LoopRes), block < 204 →
     (tabGet none s.acc.posted block = none ∨ portAwake s block = false) →
       exec (.postedWriteTaken block loop) s = .next s) ∧
  (∀ (s : State) (path off i : Nat) (v : Word) (b : Blk) (r : RegRow), path < 5 → blkAt off = some (b, i) →
     rowAt b i = some r → r.acc = .sc → busyOf b i = none → pathOpen s path = true →
       exec (.sequenceWriteBack path off v) s = .next (scClear s (canonOff off) r.clr v)) ∧
  (∀ (s : State) (off clr : Nat) (v : Word), s.wf → v.toNat / 2 ^ 24 = (regGet s off).toNat / 2 ^ 24 →
       regGet (scClear s off clr v) off = regGet s off &&& ~~~(BitVec.ofNat 32 clr)) ∧
  (∀ (s : State) (off clr : Nat) (v : Word), v.toNat / 2 ^ 24 ≠ (regGet s off).toNat / 2 ^ 24 → scClear s off clr v = s) ∧
  (∀ (s : State) (off : Nat) (f : Nat → Nat), s.wf →
       (regGet (scEvent s off f) off).toNat / 2 ^ 24 = nextSeq ((regGet s off).toNat / 2 ^ 24) ∧
         1 ≤ nextSeq ((regGet s off).toNat / 2 ^ 24) ∧ nextSeq ((regGet s off).toNat / 2 ^ 24) ≤ 255 ∧
         (∀ o, o ≠ off → regGet (scEvent s off f) o = regGet s o)) ∧
  (∀ (s : State) (path off i port : Nat) (b : Blk), path < 5 → blkAt off = some (b, i) → busyOf b i = some port →
     readOpen s path off = true →
       exec (.registerReadTimeout path off) s = .next (accessFault (emit s (.ucr path 0xFFFFFFFF)) path 7 off)) ∧
  (∀ (s : State) (path : Nat) (v : Word), path < 5 → pathOpen s path = true →
       exec (.mailboxSelect path v) s = .next { s with acc := { s.acc with
           mailboxes := tabSet mailboxInit s.acc.mailboxes path ⟨v, false, true, 0, []⟩ } }) ∧
  (∀ (s : State) (path n : Nat) (tallyOk : Bool), path < 5 → (mailboxOf s path).busy = true →
     captureOf s (mailboxOf s path).sel tallyOk = .value n →
       exec (.mailboxCaptureDone path tallyOk) s = .next (setMailbox s path { mailboxOf s path with
           valid := true, busy := false, data := (List.range 4).map fun k => BitVec.ofNat 32 (bits n (32 * k + 31) (32 * k)) })) ∧
  (∀ (s : State) (path : Nat) (tallyOk : Bool), path < 5 → (mailboxOf s path).busy = true →
     captureOf s (mailboxOf s path).sel tallyOk = .badSelector →
       exec (.mailboxCaptureDone path tallyOk) s = .next (setMailbox s path { mailboxOf s path with busy := false, err := 1 })) ∧
  (∀ (s : State) (path : Nat) (tallyOk : Bool), path < 5 → (mailboxOf s path).busy = true →
     captureOf s (mailboxOf s path).sel tallyOk = .badCopy →
       exec (.mailboxCaptureDone path tallyOk) s = .next
           (let area := captureArea (mailboxOf s path).sel
            event (scEvent (setMailbox s path { mailboxOf s path with busy := false, err := 2 }) (oTly 4) fun v => putBits (bumpBits v 15 8) 2 0 area)
              10 1 1 0 area)) ∧
  (∀ (s : State) (path : Nat) (tallyOk : Bool), path < 5 → (mailboxOf s path).busy = false →
       exec (.mailboxCaptureDone path tallyOk) s = .next s)

/-- The config guard is held by paths, commits its reference and compares. -/
def Obligations.ConfigGuard : Prop :=
  (∀ (s : State) (path : Nat) (v : Word), path < 5 → pathOpen s path = true →
       exec (.guardHold path v) s = .next { s with acc := { s.acc with
           hold := if bitOf v.toNat 0 then insertNat path s.acc.hold else s.acc.hold.filter (· != path),
           heldSince := if bitOf v.toNat 0 && s.acc.hold.isEmpty then s.now else s.acc.heldSince } }) ∧
  (∀ (s : State) (path : Nat), path < 5 → pathOpen s path = true → s.acc.hold.contains path = true →
     s.acc.committing = false → exec (.guardCommit path) s = .next { s with acc := { s.acc with committing := true } }) ∧
  (∀ (s : State) (path : Nat), path < 5 → pathOpen s path = true → s.acc.hold.contains path = false →
       exec (.guardCommit path) s = .next (accessFault s path 8 (oGrd 4))) ∧
  (∀ (s : State) (path : Nat), path < 5 → pathOpen s path = true → s.acc.hold.contains path = true →
     s.acc.committing = true → exec (.guardCommit path) s = .next (accessFault s path 4 (oGrd 4))) ∧
  (∀ (s : State) (path : Nat) (v : Word), path < 5 → pathOpen s path = false →
       exec (.guardHold path v) s = .next s ∧ exec (.guardCommit path) s = .next s) ∧
  (∀ (s : State), s.acc.committing = true →
       exec .guardCommitDone s = .next { s with acc := { s.acc with committing := false, ref := guardCrc s, last := guardCrc s } }) ∧
  (∀ (s : State), s.acc.committing = false → exec .guardCommitDone s = .next s) ∧
  (∀ (s : State), guardRuns s = true →
       exec .guardSweep s = .next (if s.acc.hold.isEmpty then guardCompare { s with acc := { s.acc with last := guardCrc s } } (guardCrc s)
           else { s with acc := { s.acc with last := guardCrc s } })) ∧
  (∀ (s : State) (crc : Nat),
       guardCompare s crc = if crc = s.acc.ref then setLine { s with acc := { s.acc with mismatch := false } } 7 0 false
           else if (getSource s (srcKey 7 0)).line = true then
             setLine (scEvent { s with acc := { s.acc with mismatch := true } } (oGrd 0x18) fun v => bumpBits v 23 16) 7 0 true
           else event (setLine (scEvent { s with acc := { s.acc with mismatch := true } } (oGrd 0x18) fun v => bumpBits v 23 16) 7 0 true) 7 0 2 0 0) ∧
  (∀ (s : State), guardRuns s = false → exec .guardSweep s = .next s) ∧
  (∀ (s : State), s.acc.hold.isEmpty = false → max 1 (regField s (oGrd 0x14) 15 0) * 1000000 < s.now - s.acc.heldSince →
       exec .guardHoldExpiry s = .next (event (scEvent { s with acc := { s.acc with hold := [] } } (oGrd 0x18) fun v => putBits v 0 0 1) 7 0 2 0 0)) ∧
  (∀ (s : State), (s.acc.hold.isEmpty = true ∨ s.now - s.acc.heldSince ≤ max 1 (regField s (oGrd 0x14) 15 0) * 1000000) →
       exec .guardHoldExpiry s = .next s)

/-- The I3C targets take addresses, private writes and reads. -/
def Obligations.Sideband : Prop :=
  (∀ (s : State) (target addr : Nat), target < 2 → addr < 128 → sidebandUp s = true → addressed s target = false →
       exec (.entdaa target addr) s = .next (emit { s with side := { s.side with addr := tabSet 0 s.side.addr target (addr + 1) } }
           (.sideband (0x100 + target) (leBytes 6 (provisionedId s target))))) ∧
  (∀ (s : State) (target : Nat), target < 2 → sidebandUp s = true → addressed s target = false →
       exec (.hotJoin target) s = .next (emit s (.hotJoin target))) ∧
  (∀ (s : State) (target addr : Nat), target < 2 → addr < 128 → (sidebandUp s = false ∨ addressed s target = true) →
       exec (.entdaa target addr) s = .next s ∧ exec (.hotJoin target) s = .next s) ∧
  (∀ (s : State), exec .targetResetPattern s = .next { s with side := ⟨[], none⟩ }) ∧
  (∀ (s : State) (off words : Nat) (data : List Byte) (env : StartEnv), sidebandUp s = true → addressed s 0 = true →
     frameOf data = some (off, words) → fieldLe data 0 1 = 1 →
       exec (.sidebandWrite data env) s = .next (writeAccess s 4 off (data.drop 6) env)) ∧
  (∀ (s : State) (off words : Nat) (data : List Byte), sidebandUp s = true → addressed s 0 = true →
     frameOf data = some (off, words) → fieldLe data 0 1 ≠ 1 →
       exec (.sidebandReadSetup data) s = .next (setUpRead s off words)) ∧
  (∀ (s : State) (words st : Nat) (data : List Byte), sidebandUp s = true → addressed s 0 = true →
     s.side.setup = some (st, data) →
       exec (.sidebandRead words) s = .next (emit { s with side := { s.side with setup := none } } (.sideband st (data.take (4 * words))))) ∧
  (∀ (s : State) (data : List Byte) (env : StartEnv), sidebandUp s = true → addressed s 0 = true → frameOf data = none →
       exec (.sidebandWrite data env) s = .next (accessFault s 4 2 0) ∧ exec (.sidebandReadSetup data) s = .next (accessFault s 4 2 0)) ∧
  (∀ (s : State) (off words : Nat) (data : List Byte) (env : StartEnv), sidebandUp s = true → addressed s 0 = true →
     frameOf data = some (off, words) → fieldLe data 0 1 ≠ 1 →
       exec (.sidebandWrite data env) s = .next (setUpRead s off words)) ∧
  (∀ (s : State) (words : Nat), sidebandUp s = true → addressed s 0 = true → s.side.setup = none →
       exec (.sidebandRead words) s = .next (emit s (.sideband 2 []))) ∧
  (∀ (s : State) (words : Nat) (data : List Byte) (env : StartEnv), (sidebandUp s = false ∨ addressed s 0 = false) →
       exec (.sidebandWrite data env) s = .next s ∧ exec (.sidebandReadSetup data) s = .next s ∧ exec (.sidebandRead words) s = .next s) ∧
  (∀ (s : State),
       exec (.lifetimeCounterUpdate true) s = .next
           (let weight := if s.thm.hotN = 0 then 0 else hourWeight (hourMean s)
            let base := tabMod 0 (tabMod 0 (tabMod 0 (lifeOf s).counters 0 fun n => (n + 1) % 2 ^ 64) 1 fun n => (n + weight) % 2 ^ 64) 2
              fun n => (n + s.bist.hard) % 2 ^ 64
            let all := (List.range 5).foldl (fun t c => tabSet 0 t (3 + c) (consumed s c)) base
            putLife { s with thm := { s.thm with hotSum := 0, hotN := 0 }, bist := { s.bist with hard := 0 } } { lifeOf s with counters := all })) ∧
  (∀ (s : State),
       exec (.lifetimeCounterUpdate false) s = .next (tallyFail { s with thm := { s.thm with hotSum := 0, hotN := 0 } } 7))

/-- SPDM, DOE and mailbox requests are answered. -/
def Obligations.Responders : Prop :=
  (∀ (s : State) (r slot off len op : Nat) (offers signed : Bool) (nonce : BitVec 256), r < 5 → canAsk s r = true →
       exec (.getVersion r) s = .next (sayVersion s r) ∧ exec (.getCapabilities r) s = .next (sayCapabilities s r) ∧
         exec (.negotiateAlgorithms r offers) s = .next (sayAlgorithms s r offers) ∧ exec (.getDigests r) s = .next (sayDigests s r) ∧
         exec (.getCertificate r slot off len) s = .next (sayCertificate s r slot off len) ∧
         exec (.challenge r slot nonce) s = .next (sayChallenge s r slot) ∧
         exec (.getMeasurements r op signed nonce) s = .next (sayMeasurements s r op signed) ∧ exec (.keyExchange r) s = .next (refuseSession s r)) ∧
  (∀ (s : State) (slot off len op : Nat) (offers signed : Bool) (nonce : BitVec 256), addressed s 1 = true →
     4 ≤ s.boot.step →
       exec (.mctpMessage .version) s = exec (.getVersion 4) s ∧ exec (.mctpMessage .capabilities) s = .next (sayCapabilities s 4) ∧
         exec (.mctpMessage (.algorithms offers)) s = .next (sayAlgorithms s 4 offers) ∧ exec (.mctpMessage .digests) s = .next (sayDigests s 4) ∧
         exec (.mctpMessage (.certificate slot off len)) s = .next (sayCertificate s 4 slot off len) ∧
         exec (.mctpMessage (.challenge slot nonce)) s = .next (sayChallenge s 4 slot) ∧
         exec (.mctpMessage (.measurements op signed nonce)) s = .next (sayMeasurements s 4 op signed) ∧
         exec (.mctpMessage .session) s = .next (refuseSession s 4)) ∧
  (∀ (s : State) (r slot off len op : Nat) (offers signed : Bool) (nonce : BitVec 256), r < 5 → canAsk s r = false →
       exec (.getVersion r) s = .next s ∧ exec (.getCapabilities r) s = .next s ∧
         exec (.negotiateAlgorithms r offers) s = .next s ∧ exec (.getDigests r) s = .next s ∧
         exec (.getCertificate r slot off len) s = .next s ∧ exec (.challenge r slot nonce) s = .next s ∧
         exec (.getMeasurements r op signed nonce) s = .next s ∧ exec (.keyExchange r) s = .next s) ∧
  (∀ (s : State) (msg : SpdmReq), canAsk s 4 = false → exec (.mctpMessage msg) s = .next s) ∧
  (∀ (s : State) (h entry : Nat), h < 4 → (getHead s h).linkUp = true →
       exec (.doeAbort h) s = .next (modHead s h fun x => { x with doeBusy := false }) ∧
         exec (.doeDiscovery h 0) s = .next (emit (modHead s h fun x => { x with doeBusy := true }) (.doe h 0 [1, 0, 1])) ∧
         exec (.doeDiscovery h 1) s = .next (emit (modHead s h fun x => { x with doeBusy := true }) (.doe h 0 [1, 1, 2])) ∧
         exec (.doeDiscovery h 2) s = .next (emit (modHead s h fun x => { x with doeBusy := true }) (.doe h 0 [0x1E98, 2, 0])) ∧
         exec (.doeDiscovery h (entry + 3)) s = .next (emit (modHead s h fun x => { x with doeBusy := true }) (.doe h 0 [0xFFFF, 0, 0])) ∧
         exec (.cdatRead h entry) s = .next (emit (modHead s h fun x => { x with doeBusy := true }) (.doe h 2 (cdatEntry entry)))) ∧
  (∀ (s : State) (h opcode : Nat), h < 4 → (getHead s h).linkUp = true → (getHead s h).cxl = true →
     (getHead s h).d3hot = false →
       exec (.identify h) s = .next (emit s (.mailbox h 0 (((List.range 6).map fun k => (Config.identifyField k).toNat) ++ [3]))) ∧
         exec (.getSupportedLogs h) s = .next (emit s (.mailbox h 0 [1, celBytes.length])) ∧
         exec (.getEventInterruptPolicy h) s = .next (emit s (.mailbox h 0 [(getHead s h).policy.toNat])) ∧
         exec (.getHealthInfo h) s = .next (emit s (.mailbox h 0 [100 - spareReserve s, sbits 16 (hottestTier s / 4)])) ∧
         exec (.identifyMemoryDevice h) s = .next (emit s (.mailbox h 0 [2 ^ 39, 2 ^ 39, 0, 0])) ∧
         exec (.getMultiHeadedInfo h) s = .next (emit s (.mailbox h 0 [4, 1])) ∧
         exec (.getTimestamp h) s = .next (emit s (.mailbox h 0 [timestamp s h])) ∧
         exec (.unsupportedMailboxCommand h opcode) s = .next (emit s (.mailbox h 3 []))) ∧
  (∀ (s : State) (h off len log : Nat), h < 4 → (getHead s h).linkUp = true → (getHead s h).cxl = true →
     (getHead s h).d3hot = false → off + len ≤ celBytes.length → log < 4 →
       exec (.getLog h off len) s = .next (emit s (.mailbox h 0 ((celBytes.drop off).take len))) ∧
         exec (.getEventRecords h log) s = .next (emit s (.mailbox h 0
           ((((getHead s h).events.filter fun e => logOf e == log).map fun e => [e.handle, e.group, e.src, e.severity]).flatten)))) ∧
  (∀ (s : State) (h log : Nat) (handles : List Nat), h < 4 → (getHead s h).linkUp = true → (getHead s h).cxl = true →
     (getHead s h).d3hot = false → log < 4 →
     (handles.all (((getHead s h).events.filter fun e => logOf e == log).map EventRec.handle).contains) = true →
       exec (.clearEventRecords h log handles) s = .next (mailAnswer (modHead s h fun x =>
           { x with events := x.events.filter fun e => !(logOf e == log && handles.contains e.handle) }) h 0 [])) ∧
  (∀ (s : State) (h off len log : Nat) (handles : List Nat), h < 4 → (getHead s h).linkUp = true →
     (getHead s h).cxl = true → (getHead s h).d3hot = false → celBytes.length < off + len → 4 ≤ log →
       exec (.getLog h off len) s = .next (emit s (.mailbox h 2 [])) ∧ exec (.getEventRecords h log) s = .next (emit s (.mailbox h 2 [])) ∧
         exec (.clearEventRecords h log handles) s = .next (emit s (.mailbox h 2 []))) ∧
  (∀ (s : State) (h log : Nat) (handles : List Nat), h < 4 → (getHead s h).linkUp = true → (getHead s h).cxl = true →
     (getHead s h).d3hot = false → log < 4 →
     (handles.all (((getHead s h).events.filter fun e => logOf e == log).map EventRec.handle).contains) = false →
       exec (.clearEventRecords h log handles) s = .next (emit s (.mailbox h 14 []))) ∧
  (∀ (s : State) (h : Nat) (pol : Word) (ts : BitVec 64), h < 4 → (getHead s h).linkUp = true → (getHead s h).cxl = true →
     (getHead s h).d3hot = false →
       exec (.setEventInterruptPolicy h pol) s = .next (mailAnswer (modHead s h fun x => { x with policy := pol }) h 0 []) ∧
         exec (.setTimestamp h ts) s = .next (mailAnswer (modHead s h fun x => { x with stamp := ts, stampAt := s.now }) h 0 [])) ∧
  (∀ (s : State) (h opcode off len log : Nat) (handles : List Nat) (pol : Word) (ts : BitVec 64), h < 4 →
     ((getHead s h).linkUp && (getHead s h).cxl && !(getHead s h).d3hot) = false →
       exec (.identify h) s = .next s ∧ exec (.getSupportedLogs h) s = .next s ∧ exec (.getEventInterruptPolicy h) s = .next s ∧
         exec (.getHealthInfo h) s = .next s ∧ exec (.identifyMemoryDevice h) s = .next s ∧ exec (.getMultiHeadedInfo h) s = .next s ∧
         exec (.getTimestamp h) s = .next s ∧ exec (.unsupportedMailboxCommand h opcode) s = .next s ∧ exec (.getLog h off len) s = .next s ∧
         exec (.getEventRecords h log) s = .next s ∧ exec (.clearEventRecords h log handles) s = .next s ∧
         exec (.setEventInterruptPolicy h pol) s = .next s ∧ exec (.setTimestamp h ts) s = .next s) ∧
  (∀ (s : State) (h index entry : Nat), h < 4 → (getHead s h).linkUp = false →
       exec (.doeAbort h) s = .next s ∧ exec (.doeDiscovery h index) s = .next s ∧ exec (.cdatRead h entry) s = .next s)
end

