-- ==== Sys2Proof/Laws/Tab.lean ====
section
/-! SUPPORT. Laws of the sparse arrays and of the memory: read after write, and every write keeps the canonical form. -/

set_option Elab.async false

namespace Sys2Proof.Machine

variable {α : Type}

theorem someIte {c : Prop} [Decidable c] {o : Option α} {t : α} (e : (if c then o else none) = some t) : o = some t := by
  split at e
  · exact e
  · cases e

/-! Reading after a write. -/

theorem tabGet_tabPut_self (d : α) (t : Tab α) (k : Nat) (v : α) : tabGet d (tabPut t k v) k = v := by
  induction t with
  | nil => simp [tabPut, tabGet]
  | cons e t ih =>
    obtain ⟨j, w⟩ := e
    by_cases h1 : k < j
    · simp [tabPut, tabGet, h1]
    · by_cases h2 : j = k
      · subst h2; simp [tabPut, tabGet]
      · simp [tabPut, tabGet, h1, h2, ih]

theorem tabGet_tabPut_ne (d : α) (t : Tab α) {k i : Nat} (v : α) (h : i ≠ k) : tabGet d (tabPut t k v) i = tabGet d t i := by
  induction t with
  | nil => simp [tabPut, tabGet, Ne.symm h]
  | cons e t ih =>
    obtain ⟨j, w⟩ := e
    by_cases h1 : k < j
    · simp [tabPut, tabGet, h1, Ne.symm h]
    · by_cases h2 : j = k
      · subst h2; simp [tabPut, tabGet, Ne.symm h]
      · by_cases h3 : j = i
        · subst h3; simp [tabPut, tabGet, h1, h]
        · simp [tabPut, tabGet, h1, h2, h3, ih]

theorem tabGet_tabDel_ne (d : α) (t : Tab α) {k i : Nat} (h : i ≠ k) : tabGet d (tabDel t k) i = tabGet d t i := by
  induction t with
  | nil => simp [tabDel]
  | cons e t ih =>
    obtain ⟨j, w⟩ := e
    by_cases h2 : j = k
    · subst h2; simp [tabDel, tabGet, Ne.symm h]
    · by_cases h3 : j = i
      · subst h3; simp [tabDel, tabGet, h]
      · simp [tabDel, tabGet, h2, h3, ih]

theorem tabGet_of_lt (d : α) (t : Tab α) (k : Nat) (h : ∀ e ∈ t, k < e.1) : tabGet d t k = d := by
  induction t with
  | nil => rfl
  | cons e t ih =>
    obtain ⟨j, w⟩ := e
    have hj : k < j := h (j, w) (by simp)
    have hne : j ≠ k := by omega
    simp only [tabGet, hne, ↓reduceIte]
    exact ih fun e he => h e (by simp [he])

theorem tabGet_tabDel_pairwise (d : α) (t : Tab α) (k : Nat) (hs : t.Pairwise fun a b => a.1 < b.1) : tabGet d (tabDel t k) k = d := by
  induction t with
  | nil => rfl
  | cons e t ih =>
    obtain ⟨j, w⟩ := e
    rw [List.pairwise_cons] at hs
    by_cases h2 : j = k
    · subst h2
      simp only [tabDel, ↓reduceIte]
      exact tabGet_of_lt d t j fun e he => hs.1 e he
    · simp [tabDel, tabGet, h2, ih hs.2]

theorem tabGet_tabDel_self (d : α) (t : Tab α) (k : Nat) (h : tabWf d t) : tabGet d (tabDel t k) k = d :=
  tabGet_tabDel_pairwise d t k h.1

theorem tabGet_tabSet_ne [DecidableEq α] (d : α) (t : Tab α) {k i : Nat} (v : α) (h : i ≠ k) :
    tabGet d (tabSet d t k v) i = tabGet d t i := by
  unfold tabSet
  split
  · exact tabGet_tabDel_ne d t h
  · exact tabGet_tabPut_ne d t v h

theorem tabGet_tabSet_pairwise [DecidableEq α] (d : α) (t : Tab α) (k : Nat) (v : α) (h : t.Pairwise fun a b => a.1 < b.1) :
    tabGet d (tabSet d t k v) k = v := by
  unfold tabSet
  split
  · next e => rw [e]; exact tabGet_tabDel_pairwise d t k h
  · exact tabGet_tabPut_self d t k v

theorem tabGet_tabSet_self [DecidableEq α] (d : α) (t : Tab α) (k : Nat) (v : α) (h : tabWf d t) : tabGet d (tabSet d t k v) k = v := by
  unfold tabSet
  split
  · next e => rw [e]; exact tabGet_tabDel_self d t k h
  · exact tabGet_tabPut_self d t k v

theorem tabGet_tabMod_ne [DecidableEq α] (d : α) (t : Tab α) {k i : Nat} (f : α → α) (h : i ≠ k) :
    tabGet d (tabMod d t k f) i = tabGet d t i := tabGet_tabSet_ne d t _ h

theorem tabGet_tabMod_self [DecidableEq α] (d : α) (t : Tab α) (k : Nat) (f : α → α) (h : tabWf d t) :
    tabGet d (tabMod d t k f) k = f (tabGet d t k) := tabGet_tabSet_self d t k _ h

/-! The canonical form. -/

theorem tabWf_nil (d : α) : tabWf d ([] : Tab α) := by simp [tabWf]

theorem mem_tabDel {t : Tab α} {k : Nat} {e : Nat × α} (h : e ∈ tabDel t k) : e ∈ t := by
  induction t with
  | nil => simp [tabDel] at h
  | cons a t ih =>
    obtain ⟨j, w⟩ := a
    by_cases h2 : j = k
    · simp [tabDel, h2] at h; simp [h]
    · simp only [tabDel, h2, ↓reduceIte, List.mem_cons] at h
      rcases h with h | h
      · simp [h]
      · simp [ih h]

theorem pairwise_tabDel (t : Tab α) (k : Nat) (hs : t.Pairwise fun a b => a.1 < b.1) : (tabDel t k).Pairwise fun a b => a.1 < b.1 := by
  induction t with
  | nil => simp [tabDel]
  | cons a t ih =>
    obtain ⟨j, w⟩ := a
    rw [List.pairwise_cons] at hs
    by_cases h2 : j = k
    · simp only [tabDel, h2, ↓reduceIte]; exact hs.2
    · simp only [tabDel, h2, ↓reduceIte, List.pairwise_cons]
      exact ⟨fun e he => hs.1 e (mem_tabDel he), ih hs.2⟩

theorem tabWf_tabDel (d : α) (t : Tab α) (k : Nat) (h : tabWf d t) : tabWf d (tabDel t k) :=
  ⟨pairwise_tabDel t k h.1, fun e he => h.2 e (mem_tabDel he)⟩

theorem mem_tabPut {t : Tab α} {k : Nat} {v : α} {e : Nat × α} (h : e ∈ tabPut t k v) : e = (k, v) ∨ e ∈ t := by
  induction t with
  | nil => simpa [tabPut] using h
  | cons a t ih =>
    obtain ⟨j, w⟩ := a
    unfold tabPut at h
    split at h
    · simpa using h
    · split at h
      · simp only [List.mem_cons] at h ⊢
        rcases h with h | h
        · exact .inl h
        · exact .inr (.inr h)
      · simp only [List.mem_cons] at h ⊢
        rcases h with h | h
        · exact .inr (.inl h)
        · rcases ih h with h | h
          · exact .inl h
          · exact .inr (.inr h)

theorem pairwise_tabPut (t : Tab α) (k : Nat) (v : α) (hs : t.Pairwise fun a b => a.1 < b.1) :
    (tabPut t k v).Pairwise fun a b => a.1 < b.1 := by
  induction t with
  | nil => simp [tabPut]
  | cons a t ih =>
    obtain ⟨j, w⟩ := a
    rw [List.pairwise_cons] at hs
    unfold tabPut
    split
    · next h1 =>
      simp only [List.pairwise_cons, List.mem_cons]
      refine ⟨fun e he => ?_, hs.1, hs.2⟩
      rcases he with rfl | he
      · exact h1
      · exact Nat.lt_trans h1 (hs.1 e he)
    · split
      · next h2 => subst h2; simp only [List.pairwise_cons]; exact ⟨hs.1, hs.2⟩
      · simp only [List.pairwise_cons]
        refine ⟨fun e he => ?_, ih hs.2⟩
        rcases mem_tabPut he with rfl | he
        · show j < k; omega
        · exact hs.1 e he

theorem tabWf_tabPut (d : α) (t : Tab α) (k : Nat) (v : α) (hv : v ≠ d) (h : tabWf d t) : tabWf d (tabPut t k v) := by
  refine ⟨pairwise_tabPut t k v h.1, fun e he => ?_⟩
  rcases mem_tabPut he with rfl | he
  · exact hv
  · exact h.2 e he

theorem tabWf_tabSet [DecidableEq α] (d : α) (t : Tab α) (k : Nat) (v : α) (h : tabWf d t) : tabWf d (tabSet d t k v) := by
  unfold tabSet
  split
  · exact tabWf_tabDel d t k h
  · next hv => exact tabWf_tabPut d t k v hv h

theorem tabWf_tabMod [DecidableEq α] (d : α) (t : Tab α) (k : Nat) (f : α → α) (h : tabWf d t) : tabWf d (tabMod d t k f) :=
  tabWf_tabSet d t k _ h

theorem tabWf_tabModAll [DecidableEq α] (d : α) (ks : List Nat) (f : Nat → α → α) :
    ∀ t : Tab α, tabWf d t → tabWf d (tabModAll d t ks f) := by
  induction ks with
  | nil => exact fun t h => h
  | cons k ks ih => exact fun t h => ih _ (tabWf_tabMod d t k _ h)

theorem tabWf_filter (d : α) (t : Tab α) (p : Nat × α → Bool) (h : tabWf d t) : tabWf d (t.filter p) :=
  ⟨h.1.filter p, fun e he => h.2 e (List.mem_filter.1 he).1⟩

theorem tabWf_tabKeep (d : α) (t : Tab α) (keep : Nat → Bool) (h : tabWf d t) : tabWf d (tabKeep t keep) := tabWf_filter d t _ h

/-! The memory: bytes of the DRAM array. -/

theorem Memory.wf_memWrite (n : Nat) : ∀ (m : List Host.Cell) (a v : Nat), Memory.wf m → Memory.wf (memWrite m a n v) := by
  induction n with
  | zero => exact fun m a v h => h
  | succ n ih => exact fun m a v h => ih _ _ _ (tabWf_tabSet (0 : Byte) m a _ h)

/-- A write of `n` bytes at `a` leaves every byte outside them as it was. -/
theorem tabGet_memWrite_out (n : Nat) : ∀ (m : List Host.Cell) (a v b : Nat), b < a ∨ a + n ≤ b →
    tabGet (0 : Byte) (memWrite m a n v) b = tabGet 0 m b := by
  induction n with
  | zero => intros; rfl
  | succ n ih =>
    intro m a v b h
    have hb : b ≠ a := by omega
    exact (ih _ _ _ _ (by omega)).trans (tabGet_tabSet_ne 0 m _ hb)

/-- The byte `i` of a write reads back. -/
theorem tabGet_memWrite_in (n : Nat) : ∀ (m : List Host.Cell) (a v i : Nat), Memory.wf m → i < n →
    tabGet (0 : Byte) (memWrite m a n v) (a + i) = BitVec.ofNat 8 (v / 256 ^ i) := by
  induction n with
  | zero => intros; omega
  | succ n ih =>
    intro m a v i h hi
    rcases i with _ | i
    · have ho : tabGet (0 : Byte) (memWrite m a (n + 1) v) a = BitVec.ofNat 8 v :=
        (tabGet_memWrite_out n _ _ _ _ (.inl (by omega))).trans (tabGet_tabSet_self 0 m a _ h)
      simpa using ho
    · have hr := ih (tabSet (0 : Byte) m a (BitVec.ofNat 8 v)) (a + 1) (v / 256) i (tabWf_tabSet 0 m a _ h) (by omega)
      have he : a + (i + 1) = a + 1 + i := by omega
      rw [he, memWrite, hr, Nat.div_div_eq_div_mul, Nat.pow_succ, Nat.mul_comm 256]

/-- The number read back is the number written. -/
theorem memRead_memWrite (n : Nat) : ∀ (m : List Host.Cell) (a v : Nat), Memory.wf m →
    memRead (memWrite m a n v) a n = v % 256 ^ n := by
  induction n with
  | zero => intro m a v _; simp [memRead, Nat.mod_one]
  | succ n ih =>
    intro m a v h
    have h0 : tabGet (0 : Byte) (memWrite m a (n + 1) v) a = BitVec.ofNat 8 v := by
      simpa using tabGet_memWrite_in (n + 1) m a v 0 h (by omega)
    have h1 := ih (tabSet (0 : Byte) m a (BitVec.ofNat 8 v)) (a + 1) (v / 256) (tabWf_tabSet 0 m a _ h)
    rw [memRead, h0, show memWrite m a (n + 1) v = memWrite (tabSet (0 : Byte) m a (BitVec.ofNat 8 v)) (a + 1) n (v / 256) from rfl, h1]
    simp only [BitVec.toNat_ofNat]
    rw [show (2 : Nat) ^ 8 = 256 from rfl, Nat.pow_succ, Nat.mul_comm (256 ^ n) 256, Nat.mod_mul]

/-- A read of bytes outside a write sees what it saw before. -/
theorem memRead_memWrite_out (k : Nat) : ∀ (m : List Host.Cell) (a n v b : Nat), b + k ≤ a ∨ a + n ≤ b →
    memRead (memWrite m a n v) b k = memRead m b k := by
  induction k with
  | zero => intros; rfl
  | succ k ih =>
    intro m a n v b h
    rw [memRead, memRead, tabGet_memWrite_out n m a v b (by omega), ih m a n v (b + 1) (by omega)]

/-! A stored line. -/

theorem cellsAt_setCells_ne (s : State) {k j : Nat} (v : Nat) (h : j ≠ k) : cellsAt (setCells s k v) j = cellsAt s j := by
  have ho : j * 80 + 80 ≤ k * 80 ∨ k * 80 + 80 ≤ j * 80 := by omega
  have hm : ∀ n, j * 80 + n ≤ k * 80 ∨ k * 80 + 80 ≤ j * 80 →
      memRead (setCells s k v).mem (j * 80) n = memRead s.mem (j * 80) n :=
    fun n hn => memRead_memWrite_out n s.mem (k * 80) 80 _ (j * 80) hn
  unfold cellsAt
  rw [hm 80 ho]
  rfl

theorem lineBase_lt (s : State) (k : Nat) : lineBase s k < 2 ^ 640 := by
  unfold lineBase
  split
  · exact Nat.two_pow_pos 640
  · exact BitVec.isLt _

theorem cellsAt_setCells_self (s : State) (k v : Nat) (h : Memory.wf s.mem) (hv : v < 2 ^ 640) : cellsAt (setCells s k v) k = v := by
  have hx : v ^^^ lineBase s k < 2 ^ 640 := Nat.xor_lt_two_pow hv (lineBase_lt s k)
  have hm : ∀ n, memRead (memWrite s.mem (k * 80) n (v ^^^ lineBase s k)) (k * 80) n = (v ^^^ lineBase s k) % 256 ^ n :=
    fun n => memRead_memWrite n s.mem (k * 80) _ h
  have he : (256 : Nat) ^ 80 = 2 ^ 640 := by rw [show (256 : Nat) = 2 ^ 8 from rfl, ← Nat.pow_mul]
  have hr : memRead (setCells s k v).mem (k * 80) 80 = v ^^^ lineBase s k := by
    refine (hm 80).trans ?_
    rw [he, Nat.mod_eq_of_lt hx]
  unfold cellsAt
  rw [hr, show lineBase (setCells s k v) k = lineBase s k from rfl, Nat.xor_assoc, Nat.xor_self, Nat.xor_zero]

end Sys2Proof.Machine
end

