-- ==== Sys2Proof/Laws/State.lean ====
section
/-! SUPPORT. What each update of the state does to each of its fields, and to the element it names. -/

namespace Sys2Proof.Machine

variable (s : State)

/-! `modFlume` -/

@[simp] theorem modFlume_now (f : Nat) (g : Flume → Flume) : (modFlume s f g).now = s.now := rfl
@[simp] theorem modFlume_pending (f : Nat) (g : Flume → Flume) : (modFlume s f g).pending = s.pending := rfl
@[simp] theorem modFlume_out (f : Nat) (g : Flume → Flume) : (modFlume s f g).out = s.out := rfl
@[simp] theorem modFlume_freeCtr (f : Nat) (g : Flume → Flume) : (modFlume s f g).freeCtr = s.freeCtr := rfl
@[simp] theorem modFlume_regs (f : Nat) (g : Flume → Flume) : (modFlume s f g).regs = s.regs := rfl
@[simp] theorem modFlume_mem (f : Nat) (g : Flume → Flume) : (modFlume s f g).mem = s.mem := rfl
@[simp] theorem modFlume_lost (f : Nat) (g : Flume → Flume) : (modFlume s f g).lost = s.lost := rfl
@[simp] theorem modFlume_flumes (f : Nat) (g : Flume → Flume) : (modFlume s f g).flumes = tabMod flumeInit s.flumes f g := rfl
@[simp] theorem modFlume_subs (f : Nat) (g : Flume → Flume) : (modFlume s f g).subs = s.subs := rfl
@[simp] theorem modFlume_bays (f : Nat) (g : Flume → Flume) : (modFlume s f g).bays = s.bays := rfl
@[simp] theorem modFlume_banks (f : Nat) (g : Flume → Flume) : (modFlume s f g).banks = s.banks := rfl
@[simp] theorem modFlume_regions (f : Nat) (g : Flume → Flume) : (modFlume s f g).regions = s.regions := rfl
@[simp] theorem modFlume_badRegions (f : Nat) (g : Flume → Flume) : (modFlume s f g).badRegions = s.badRegions := rfl
@[simp] theorem modFlume_heads (f : Nat) (g : Flume → Flume) : (modFlume s f g).heads = s.heads := rfl
@[simp] theorem modFlume_pairs (f : Nat) (g : Flume → Flume) : (modFlume s f g).pairs = s.pairs := rfl
@[simp] theorem modFlume_descs (f : Nat) (g : Flume → Flume) : (modFlume s f g).descs = s.descs := rfl
@[simp] theorem modFlume_nextDesc (f : Nat) (g : Flume → Flume) : (modFlume s f g).nextDesc = s.nextDesc := rfl
@[simp] theorem modFlume_parts (f : Nat) (g : Flume → Flume) : (modFlume s f g).parts = s.parts := rfl
@[simp] theorem modFlume_nextPart (f : Nat) (g : Flume → Flume) : (modFlume s f g).nextPart = s.nextPart := rfl
@[simp] theorem modFlume_partStore (f : Nat) (g : Flume → Flume) : (modFlume s f g).partStore = s.partStore := rfl
@[simp] theorem modFlume_rr (f : Nat) (g : Flume → Flume) : (modFlume s f g).rr = s.rr := rfl
@[simp] theorem modFlume_grants (f : Nat) (g : Flume → Flume) : (modFlume s f g).grants = s.grants := rfl
@[simp] theorem modFlume_mills (f : Nat) (g : Flume → Flume) : (modFlume s f g).mills = s.mills := rfl
@[simp] theorem modFlume_lanes (f : Nat) (g : Flume → Flume) : (modFlume s f g).lanes = s.lanes := rfl
@[simp] theorem modFlume_leat (f : Nat) (g : Flume → Flume) : (modFlume s f g).leat = s.leat := rfl
@[simp] theorem modFlume_tally (f : Nat) (g : Flume → Flume) : (modFlume s f g).tally = s.tally := rfl
@[simp] theorem modFlume_fuses (f : Nat) (g : Flume → Flume) : (modFlume s f g).fuses = s.fuses := rfl
@[simp] theorem modFlume_flt (f : Nat) (g : Flume → Flume) : (modFlume s f g).flt = s.flt := rfl
@[simp] theorem modFlume_acc (f : Nat) (g : Flume → Flume) : (modFlume s f g).acc = s.acc := rfl
@[simp] theorem modFlume_thm (f : Nat) (g : Flume → Flume) : (modFlume s f g).thm = s.thm := rfl
@[simp] theorem modFlume_pwr (f : Nat) (g : Flume → Flume) : (modFlume s f g).pwr = s.pwr := rfl
@[simp] theorem modFlume_bist (f : Nat) (g : Flume → Flume) : (modFlume s f g).bist = s.bist := rfl
@[simp] theorem modFlume_boot (f : Nat) (g : Flume → Flume) : (modFlume s f g).boot = s.boot := rfl
@[simp] theorem modFlume_side (f : Nat) (g : Flume → Flume) : (modFlume s f g).side = s.side := rfl

/-! `modSub` -/

@[simp] theorem modSub_now (k : Nat) (g : SubChan → SubChan) : (modSub s k g).now = s.now := rfl
@[simp] theorem modSub_pending (k : Nat) (g : SubChan → SubChan) : (modSub s k g).pending = s.pending := rfl
@[simp] theorem modSub_out (k : Nat) (g : SubChan → SubChan) : (modSub s k g).out = s.out := rfl
@[simp] theorem modSub_freeCtr (k : Nat) (g : SubChan → SubChan) : (modSub s k g).freeCtr = s.freeCtr := rfl
@[simp] theorem modSub_regs (k : Nat) (g : SubChan → SubChan) : (modSub s k g).regs = s.regs := rfl
@[simp] theorem modSub_mem (k : Nat) (g : SubChan → SubChan) : (modSub s k g).mem = s.mem := rfl
@[simp] theorem modSub_lost (k : Nat) (g : SubChan → SubChan) : (modSub s k g).lost = s.lost := rfl
@[simp] theorem modSub_flumes (k : Nat) (g : SubChan → SubChan) : (modSub s k g).flumes = s.flumes := rfl
@[simp] theorem modSub_subs (k : Nat) (g : SubChan → SubChan) : (modSub s k g).subs = tabMod subInit s.subs k g := rfl
@[simp] theorem modSub_bays (k : Nat) (g : SubChan → SubChan) : (modSub s k g).bays = s.bays := rfl
@[simp] theorem modSub_banks (k : Nat) (g : SubChan → SubChan) : (modSub s k g).banks = s.banks := rfl
@[simp] theorem modSub_regions (k : Nat) (g : SubChan → SubChan) : (modSub s k g).regions = s.regions := rfl
@[simp] theorem modSub_badRegions (k : Nat) (g : SubChan → SubChan) : (modSub s k g).badRegions = s.badRegions := rfl
@[simp] theorem modSub_heads (k : Nat) (g : SubChan → SubChan) : (modSub s k g).heads = s.heads := rfl
@[simp] theorem modSub_pairs (k : Nat) (g : SubChan → SubChan) : (modSub s k g).pairs = s.pairs := rfl
@[simp] theorem modSub_descs (k : Nat) (g : SubChan → SubChan) : (modSub s k g).descs = s.descs := rfl
@[simp] theorem modSub_nextDesc (k : Nat) (g : SubChan → SubChan) : (modSub s k g).nextDesc = s.nextDesc := rfl
@[simp] theorem modSub_parts (k : Nat) (g : SubChan → SubChan) : (modSub s k g).parts = s.parts := rfl
@[simp] theorem modSub_nextPart (k : Nat) (g : SubChan → SubChan) : (modSub s k g).nextPart = s.nextPart := rfl
@[simp] theorem modSub_partStore (k : Nat) (g : SubChan → SubChan) : (modSub s k g).partStore = s.partStore := rfl
@[simp] theorem modSub_rr (k : Nat) (g : SubChan → SubChan) : (modSub s k g).rr = s.rr := rfl
@[simp] theorem modSub_grants (k : Nat) (g : SubChan → SubChan) : (modSub s k g).grants = s.grants := rfl
@[simp] theorem modSub_mills (k : Nat) (g : SubChan → SubChan) : (modSub s k g).mills = s.mills := rfl
@[simp] theorem modSub_lanes (k : Nat) (g : SubChan → SubChan) : (modSub s k g).lanes = s.lanes := rfl
@[simp] theorem modSub_leat (k : Nat) (g : SubChan → SubChan) : (modSub s k g).leat = s.leat := rfl
@[simp] theorem modSub_tally (k : Nat) (g : SubChan → SubChan) : (modSub s k g).tally = s.tally := rfl
@[simp] theorem modSub_fuses (k : Nat) (g : SubChan → SubChan) : (modSub s k g).fuses = s.fuses := rfl
@[simp] theorem modSub_flt (k : Nat) (g : SubChan → SubChan) : (modSub s k g).flt = s.flt := rfl
@[simp] theorem modSub_acc (k : Nat) (g : SubChan → SubChan) : (modSub s k g).acc = s.acc := rfl
@[simp] theorem modSub_thm (k : Nat) (g : SubChan → SubChan) : (modSub s k g).thm = s.thm := rfl
@[simp] theorem modSub_pwr (k : Nat) (g : SubChan → SubChan) : (modSub s k g).pwr = s.pwr := rfl
@[simp] theorem modSub_bist (k : Nat) (g : SubChan → SubChan) : (modSub s k g).bist = s.bist := rfl
@[simp] theorem modSub_boot (k : Nat) (g : SubChan → SubChan) : (modSub s k g).boot = s.boot := rfl
@[simp] theorem modSub_side (k : Nat) (g : SubChan → SubChan) : (modSub s k g).side = s.side := rfl

/-! `modBay` -/

@[simp] theorem modBay_now (k : Nat) (g : Bay → Bay) : (modBay s k g).now = s.now := rfl
@[simp] theorem modBay_pending (k : Nat) (g : Bay → Bay) : (modBay s k g).pending = s.pending := rfl
@[simp] theorem modBay_out (k : Nat) (g : Bay → Bay) : (modBay s k g).out = s.out := rfl
@[simp] theorem modBay_freeCtr (k : Nat) (g : Bay → Bay) : (modBay s k g).freeCtr = s.freeCtr := rfl
@[simp] theorem modBay_regs (k : Nat) (g : Bay → Bay) : (modBay s k g).regs = s.regs := rfl
@[simp] theorem modBay_mem (k : Nat) (g : Bay → Bay) : (modBay s k g).mem = s.mem := rfl
@[simp] theorem modBay_lost (k : Nat) (g : Bay → Bay) : (modBay s k g).lost = s.lost := rfl
@[simp] theorem modBay_flumes (k : Nat) (g : Bay → Bay) : (modBay s k g).flumes = s.flumes := rfl
@[simp] theorem modBay_subs (k : Nat) (g : Bay → Bay) : (modBay s k g).subs = s.subs := rfl
@[simp] theorem modBay_bays (k : Nat) (g : Bay → Bay) : (modBay s k g).bays = tabMod bayInit s.bays k g := rfl
@[simp] theorem modBay_banks (k : Nat) (g : Bay → Bay) : (modBay s k g).banks = s.banks := rfl
@[simp] theorem modBay_regions (k : Nat) (g : Bay → Bay) : (modBay s k g).regions = s.regions := rfl
@[simp] theorem modBay_badRegions (k : Nat) (g : Bay → Bay) : (modBay s k g).badRegions = s.badRegions := rfl
@[simp] theorem modBay_heads (k : Nat) (g : Bay → Bay) : (modBay s k g).heads = s.heads := rfl
@[simp] theorem modBay_pairs (k : Nat) (g : Bay → Bay) : (modBay s k g).pairs = s.pairs := rfl
@[simp] theorem modBay_descs (k : Nat) (g : Bay → Bay) : (modBay s k g).descs = s.descs := rfl
@[simp] theorem modBay_nextDesc (k : Nat) (g : Bay → Bay) : (modBay s k g).nextDesc = s.nextDesc := rfl
@[simp] theorem modBay_parts (k : Nat) (g : Bay → Bay) : (modBay s k g).parts = s.parts := rfl
@[simp] theorem modBay_nextPart (k : Nat) (g : Bay → Bay) : (modBay s k g).nextPart = s.nextPart := rfl
@[simp] theorem modBay_partStore (k : Nat) (g : Bay → Bay) : (modBay s k g).partStore = s.partStore := rfl
@[simp] theorem modBay_rr (k : Nat) (g : Bay → Bay) : (modBay s k g).rr = s.rr := rfl
@[simp] theorem modBay_grants (k : Nat) (g : Bay → Bay) : (modBay s k g).grants = s.grants := rfl
@[simp] theorem modBay_mills (k : Nat) (g : Bay → Bay) : (modBay s k g).mills = s.mills := rfl
@[simp] theorem modBay_lanes (k : Nat) (g : Bay → Bay) : (modBay s k g).lanes = s.lanes := rfl
@[simp] theorem modBay_leat (k : Nat) (g : Bay → Bay) : (modBay s k g).leat = s.leat := rfl
@[simp] theorem modBay_tally (k : Nat) (g : Bay → Bay) : (modBay s k g).tally = s.tally := rfl
@[simp] theorem modBay_fuses (k : Nat) (g : Bay → Bay) : (modBay s k g).fuses = s.fuses := rfl
@[simp] theorem modBay_flt (k : Nat) (g : Bay → Bay) : (modBay s k g).flt = s.flt := rfl
@[simp] theorem modBay_acc (k : Nat) (g : Bay → Bay) : (modBay s k g).acc = s.acc := rfl
@[simp] theorem modBay_thm (k : Nat) (g : Bay → Bay) : (modBay s k g).thm = s.thm := rfl
@[simp] theorem modBay_pwr (k : Nat) (g : Bay → Bay) : (modBay s k g).pwr = s.pwr := rfl
@[simp] theorem modBay_bist (k : Nat) (g : Bay → Bay) : (modBay s k g).bist = s.bist := rfl
@[simp] theorem modBay_boot (k : Nat) (g : Bay → Bay) : (modBay s k g).boot = s.boot := rfl
@[simp] theorem modBay_side (k : Nat) (g : Bay → Bay) : (modBay s k g).side = s.side := rfl

/-! `modBank` -/

@[simp] theorem modBank_now (k : Nat) (g : Bank → Bank) : (modBank s k g).now = s.now := rfl
@[simp] theorem modBank_pending (k : Nat) (g : Bank → Bank) : (modBank s k g).pending = s.pending := rfl
@[simp] theorem modBank_out (k : Nat) (g : Bank → Bank) : (modBank s k g).out = s.out := rfl
@[simp] theorem modBank_freeCtr (k : Nat) (g : Bank → Bank) : (modBank s k g).freeCtr = s.freeCtr := rfl
@[simp] theorem modBank_regs (k : Nat) (g : Bank → Bank) : (modBank s k g).regs = s.regs := rfl
@[simp] theorem modBank_mem (k : Nat) (g : Bank → Bank) : (modBank s k g).mem = s.mem := rfl
@[simp] theorem modBank_lost (k : Nat) (g : Bank → Bank) : (modBank s k g).lost = s.lost := rfl
@[simp] theorem modBank_flumes (k : Nat) (g : Bank → Bank) : (modBank s k g).flumes = s.flumes := rfl
@[simp] theorem modBank_subs (k : Nat) (g : Bank → Bank) : (modBank s k g).subs = s.subs := rfl
@[simp] theorem modBank_bays (k : Nat) (g : Bank → Bank) : (modBank s k g).bays = s.bays := rfl
@[simp] theorem modBank_banks (k : Nat) (g : Bank → Bank) : (modBank s k g).banks = tabMod bankInit s.banks k g := rfl
@[simp] theorem modBank_regions (k : Nat) (g : Bank → Bank) : (modBank s k g).regions = s.regions := rfl
@[simp] theorem modBank_badRegions (k : Nat) (g : Bank → Bank) : (modBank s k g).badRegions = s.badRegions := rfl
@[simp] theorem modBank_heads (k : Nat) (g : Bank → Bank) : (modBank s k g).heads = s.heads := rfl
@[simp] theorem modBank_pairs (k : Nat) (g : Bank → Bank) : (modBank s k g).pairs = s.pairs := rfl
@[simp] theorem modBank_descs (k : Nat) (g : Bank → Bank) : (modBank s k g).descs = s.descs := rfl
@[simp] theorem modBank_nextDesc (k : Nat) (g : Bank → Bank) : (modBank s k g).nextDesc = s.nextDesc := rfl
@[simp] theorem modBank_parts (k : Nat) (g : Bank → Bank) : (modBank s k g).parts = s.parts := rfl
@[simp] theorem modBank_nextPart (k : Nat) (g : Bank → Bank) : (modBank s k g).nextPart = s.nextPart := rfl
@[simp] theorem modBank_partStore (k : Nat) (g : Bank → Bank) : (modBank s k g).partStore = s.partStore := rfl
@[simp] theorem modBank_rr (k : Nat) (g : Bank → Bank) : (modBank s k g).rr = s.rr := rfl
@[simp] theorem modBank_grants (k : Nat) (g : Bank → Bank) : (modBank s k g).grants = s.grants := rfl
@[simp] theorem modBank_mills (k : Nat) (g : Bank → Bank) : (modBank s k g).mills = s.mills := rfl
@[simp] theorem modBank_lanes (k : Nat) (g : Bank → Bank) : (modBank s k g).lanes = s.lanes := rfl
@[simp] theorem modBank_leat (k : Nat) (g : Bank → Bank) : (modBank s k g).leat = s.leat := rfl
@[simp] theorem modBank_tally (k : Nat) (g : Bank → Bank) : (modBank s k g).tally = s.tally := rfl
@[simp] theorem modBank_fuses (k : Nat) (g : Bank → Bank) : (modBank s k g).fuses = s.fuses := rfl
@[simp] theorem modBank_flt (k : Nat) (g : Bank → Bank) : (modBank s k g).flt = s.flt := rfl
@[simp] theorem modBank_acc (k : Nat) (g : Bank → Bank) : (modBank s k g).acc = s.acc := rfl
@[simp] theorem modBank_thm (k : Nat) (g : Bank → Bank) : (modBank s k g).thm = s.thm := rfl
@[simp] theorem modBank_pwr (k : Nat) (g : Bank → Bank) : (modBank s k g).pwr = s.pwr := rfl
@[simp] theorem modBank_bist (k : Nat) (g : Bank → Bank) : (modBank s k g).bist = s.bist := rfl
@[simp] theorem modBank_boot (k : Nat) (g : Bank → Bank) : (modBank s k g).boot = s.boot := rfl
@[simp] theorem modBank_side (k : Nat) (g : Bank → Bank) : (modBank s k g).side = s.side := rfl

/-! `modHead` -/

@[simp] theorem modHead_now (h : Nat) (g : Head → Head) : (modHead s h g).now = s.now := rfl
@[simp] theorem modHead_pending (h : Nat) (g : Head → Head) : (modHead s h g).pending = s.pending := rfl
@[simp] theorem modHead_out (h : Nat) (g : Head → Head) : (modHead s h g).out = s.out := rfl
@[simp] theorem modHead_freeCtr (h : Nat) (g : Head → Head) : (modHead s h g).freeCtr = s.freeCtr := rfl
@[simp] theorem modHead_regs (h : Nat) (g : Head → Head) : (modHead s h g).regs = s.regs := rfl
@[simp] theorem modHead_mem (h : Nat) (g : Head → Head) : (modHead s h g).mem = s.mem := rfl
@[simp] theorem modHead_lost (h : Nat) (g : Head → Head) : (modHead s h g).lost = s.lost := rfl
@[simp] theorem modHead_flumes (h : Nat) (g : Head → Head) : (modHead s h g).flumes = s.flumes := rfl
@[simp] theorem modHead_subs (h : Nat) (g : Head → Head) : (modHead s h g).subs = s.subs := rfl
@[simp] theorem modHead_bays (h : Nat) (g : Head → Head) : (modHead s h g).bays = s.bays := rfl
@[simp] theorem modHead_banks (h : Nat) (g : Head → Head) : (modHead s h g).banks = s.banks := rfl
@[simp] theorem modHead_regions (h : Nat) (g : Head → Head) : (modHead s h g).regions = s.regions := rfl
@[simp] theorem modHead_badRegions (h : Nat) (g : Head → Head) : (modHead s h g).badRegions = s.badRegions := rfl
@[simp] theorem modHead_heads (h : Nat) (g : Head → Head) : (modHead s h g).heads = tabMod headInit s.heads h g := rfl
@[simp] theorem modHead_pairs (h : Nat) (g : Head → Head) : (modHead s h g).pairs = s.pairs := rfl
@[simp] theorem modHead_descs (h : Nat) (g : Head → Head) : (modHead s h g).descs = s.descs := rfl
@[simp] theorem modHead_nextDesc (h : Nat) (g : Head → Head) : (modHead s h g).nextDesc = s.nextDesc := rfl
@[simp] theorem modHead_parts (h : Nat) (g : Head → Head) : (modHead s h g).parts = s.parts := rfl
@[simp] theorem modHead_nextPart (h : Nat) (g : Head → Head) : (modHead s h g).nextPart = s.nextPart := rfl
@[simp] theorem modHead_partStore (h : Nat) (g : Head → Head) : (modHead s h g).partStore = s.partStore := rfl
@[simp] theorem modHead_rr (h : Nat) (g : Head → Head) : (modHead s h g).rr = s.rr := rfl
@[simp] theorem modHead_grants (h : Nat) (g : Head → Head) : (modHead s h g).grants = s.grants := rfl
@[simp] theorem modHead_mills (h : Nat) (g : Head → Head) : (modHead s h g).mills = s.mills := rfl
@[simp] theorem modHead_lanes (h : Nat) (g : Head → Head) : (modHead s h g).lanes = s.lanes := rfl
@[simp] theorem modHead_leat (h : Nat) (g : Head → Head) : (modHead s h g).leat = s.leat := rfl
@[simp] theorem modHead_tally (h : Nat) (g : Head → Head) : (modHead s h g).tally = s.tally := rfl
@[simp] theorem modHead_fuses (h : Nat) (g : Head → Head) : (modHead s h g).fuses = s.fuses := rfl
@[simp] theorem modHead_flt (h : Nat) (g : Head → Head) : (modHead s h g).flt = s.flt := rfl
@[simp] theorem modHead_acc (h : Nat) (g : Head → Head) : (modHead s h g).acc = s.acc := rfl
@[simp] theorem modHead_thm (h : Nat) (g : Head → Head) : (modHead s h g).thm = s.thm := rfl
@[simp] theorem modHead_pwr (h : Nat) (g : Head → Head) : (modHead s h g).pwr = s.pwr := rfl
@[simp] theorem modHead_bist (h : Nat) (g : Head → Head) : (modHead s h g).bist = s.bist := rfl
@[simp] theorem modHead_boot (h : Nat) (g : Head → Head) : (modHead s h g).boot = s.boot := rfl
@[simp] theorem modHead_side (h : Nat) (g : Head → Head) : (modHead s h g).side = s.side := rfl

/-! `modPair` -/

@[simp] theorem modPair_now (n : Nat) (g : Pair → Pair) : (modPair s n g).now = s.now := rfl
@[simp] theorem modPair_pending (n : Nat) (g : Pair → Pair) : (modPair s n g).pending = s.pending := rfl
@[simp] theorem modPair_out (n : Nat) (g : Pair → Pair) : (modPair s n g).out = s.out := rfl
@[simp] theorem modPair_freeCtr (n : Nat) (g : Pair → Pair) : (modPair s n g).freeCtr = s.freeCtr := rfl
@[simp] theorem modPair_regs (n : Nat) (g : Pair → Pair) : (modPair s n g).regs = s.regs := rfl
@[simp] theorem modPair_mem (n : Nat) (g : Pair → Pair) : (modPair s n g).mem = s.mem := rfl
@[simp] theorem modPair_lost (n : Nat) (g : Pair → Pair) : (modPair s n g).lost = s.lost := rfl
@[simp] theorem modPair_flumes (n : Nat) (g : Pair → Pair) : (modPair s n g).flumes = s.flumes := rfl
@[simp] theorem modPair_subs (n : Nat) (g : Pair → Pair) : (modPair s n g).subs = s.subs := rfl
@[simp] theorem modPair_bays (n : Nat) (g : Pair → Pair) : (modPair s n g).bays = s.bays := rfl
@[simp] theorem modPair_banks (n : Nat) (g : Pair → Pair) : (modPair s n g).banks = s.banks := rfl
@[simp] theorem modPair_regions (n : Nat) (g : Pair → Pair) : (modPair s n g).regions = s.regions := rfl
@[simp] theorem modPair_badRegions (n : Nat) (g : Pair → Pair) : (modPair s n g).badRegions = s.badRegions := rfl
@[simp] theorem modPair_heads (n : Nat) (g : Pair → Pair) : (modPair s n g).heads = s.heads := rfl
@[simp] theorem modPair_pairs (n : Nat) (g : Pair → Pair) : (modPair s n g).pairs = tabMod pairInit s.pairs n g := rfl
@[simp] theorem modPair_descs (n : Nat) (g : Pair → Pair) : (modPair s n g).descs = s.descs := rfl
@[simp] theorem modPair_nextDesc (n : Nat) (g : Pair → Pair) : (modPair s n g).nextDesc = s.nextDesc := rfl
@[simp] theorem modPair_parts (n : Nat) (g : Pair → Pair) : (modPair s n g).parts = s.parts := rfl
@[simp] theorem modPair_nextPart (n : Nat) (g : Pair → Pair) : (modPair s n g).nextPart = s.nextPart := rfl
@[simp] theorem modPair_partStore (n : Nat) (g : Pair → Pair) : (modPair s n g).partStore = s.partStore := rfl
@[simp] theorem modPair_rr (n : Nat) (g : Pair → Pair) : (modPair s n g).rr = s.rr := rfl
@[simp] theorem modPair_grants (n : Nat) (g : Pair → Pair) : (modPair s n g).grants = s.grants := rfl
@[simp] theorem modPair_mills (n : Nat) (g : Pair → Pair) : (modPair s n g).mills = s.mills := rfl
@[simp] theorem modPair_lanes (n : Nat) (g : Pair → Pair) : (modPair s n g).lanes = s.lanes := rfl
@[simp] theorem modPair_leat (n : Nat) (g : Pair → Pair) : (modPair s n g).leat = s.leat := rfl
@[simp] theorem modPair_tally (n : Nat) (g : Pair → Pair) : (modPair s n g).tally = s.tally := rfl
@[simp] theorem modPair_fuses (n : Nat) (g : Pair → Pair) : (modPair s n g).fuses = s.fuses := rfl
@[simp] theorem modPair_flt (n : Nat) (g : Pair → Pair) : (modPair s n g).flt = s.flt := rfl
@[simp] theorem modPair_acc (n : Nat) (g : Pair → Pair) : (modPair s n g).acc = s.acc := rfl
@[simp] theorem modPair_thm (n : Nat) (g : Pair → Pair) : (modPair s n g).thm = s.thm := rfl
@[simp] theorem modPair_pwr (n : Nat) (g : Pair → Pair) : (modPair s n g).pwr = s.pwr := rfl
@[simp] theorem modPair_bist (n : Nat) (g : Pair → Pair) : (modPair s n g).bist = s.bist := rfl
@[simp] theorem modPair_boot (n : Nat) (g : Pair → Pair) : (modPair s n g).boot = s.boot := rfl
@[simp] theorem modPair_side (n : Nat) (g : Pair → Pair) : (modPair s n g).side = s.side := rfl

/-! `putDesc` -/

@[simp] theorem putDesc_now (d : Nat) (x : Option Desc) : (putDesc s d x).now = s.now := rfl
@[simp] theorem putDesc_pending (d : Nat) (x : Option Desc) : (putDesc s d x).pending = s.pending := rfl
@[simp] theorem putDesc_out (d : Nat) (x : Option Desc) : (putDesc s d x).out = s.out := rfl
@[simp] theorem putDesc_freeCtr (d : Nat) (x : Option Desc) : (putDesc s d x).freeCtr = s.freeCtr := rfl
@[simp] theorem putDesc_regs (d : Nat) (x : Option Desc) : (putDesc s d x).regs = s.regs := rfl
@[simp] theorem putDesc_mem (d : Nat) (x : Option Desc) : (putDesc s d x).mem = s.mem := rfl
@[simp] theorem putDesc_lost (d : Nat) (x : Option Desc) : (putDesc s d x).lost = s.lost := rfl
@[simp] theorem putDesc_flumes (d : Nat) (x : Option Desc) : (putDesc s d x).flumes = s.flumes := rfl
@[simp] theorem putDesc_subs (d : Nat) (x : Option Desc) : (putDesc s d x).subs = s.subs := rfl
@[simp] theorem putDesc_bays (d : Nat) (x : Option Desc) : (putDesc s d x).bays = s.bays := rfl
@[simp] theorem putDesc_banks (d : Nat) (x : Option Desc) : (putDesc s d x).banks = s.banks := rfl
@[simp] theorem putDesc_regions (d : Nat) (x : Option Desc) : (putDesc s d x).regions = s.regions := rfl
@[simp] theorem putDesc_badRegions (d : Nat) (x : Option Desc) : (putDesc s d x).badRegions = s.badRegions := rfl
@[simp] theorem putDesc_heads (d : Nat) (x : Option Desc) : (putDesc s d x).heads = s.heads := rfl
@[simp] theorem putDesc_pairs (d : Nat) (x : Option Desc) : (putDesc s d x).pairs = s.pairs := rfl
@[simp] theorem putDesc_descs (d : Nat) (x : Option Desc) : (putDesc s d x).descs = tabSet none s.descs d x := rfl
@[simp] theorem putDesc_nextDesc (d : Nat) (x : Option Desc) : (putDesc s d x).nextDesc = s.nextDesc := rfl
@[simp] theorem putDesc_parts (d : Nat) (x : Option Desc) : (putDesc s d x).parts = s.parts := rfl
@[simp] theorem putDesc_nextPart (d : Nat) (x : Option Desc) : (putDesc s d x).nextPart = s.nextPart := rfl
@[simp] theorem putDesc_partStore (d : Nat) (x : Option Desc) : (putDesc s d x).partStore = s.partStore := rfl
@[simp] theorem putDesc_rr (d : Nat) (x : Option Desc) : (putDesc s d x).rr = s.rr := rfl
@[simp] theorem putDesc_grants (d : Nat) (x : Option Desc) : (putDesc s d x).grants = s.grants := rfl
@[simp] theorem putDesc_mills (d : Nat) (x : Option Desc) : (putDesc s d x).mills = s.mills := rfl
@[simp] theorem putDesc_lanes (d : Nat) (x : Option Desc) : (putDesc s d x).lanes = s.lanes := rfl
@[simp] theorem putDesc_leat (d : Nat) (x : Option Desc) : (putDesc s d x).leat = s.leat := rfl
@[simp] theorem putDesc_tally (d : Nat) (x : Option Desc) : (putDesc s d x).tally = s.tally := rfl
@[simp] theorem putDesc_fuses (d : Nat) (x : Option Desc) : (putDesc s d x).fuses = s.fuses := rfl
@[simp] theorem putDesc_flt (d : Nat) (x : Option Desc) : (putDesc s d x).flt = s.flt := rfl
@[simp] theorem putDesc_acc (d : Nat) (x : Option Desc) : (putDesc s d x).acc = s.acc := rfl
@[simp] theorem putDesc_thm (d : Nat) (x : Option Desc) : (putDesc s d x).thm = s.thm := rfl
@[simp] theorem putDesc_pwr (d : Nat) (x : Option Desc) : (putDesc s d x).pwr = s.pwr := rfl
@[simp] theorem putDesc_bist (d : Nat) (x : Option Desc) : (putDesc s d x).bist = s.bist := rfl
@[simp] theorem putDesc_boot (d : Nat) (x : Option Desc) : (putDesc s d x).boot = s.boot := rfl
@[simp] theorem putDesc_side (d : Nat) (x : Option Desc) : (putDesc s d x).side = s.side := rfl

/-! `modDesc` -/

@[simp] theorem modDesc_now (d : Nat) (g : Desc → Desc) : (modDesc s d g).now = s.now := rfl
@[simp] theorem modDesc_pending (d : Nat) (g : Desc → Desc) : (modDesc s d g).pending = s.pending := rfl
@[simp] theorem modDesc_out (d : Nat) (g : Desc → Desc) : (modDesc s d g).out = s.out := rfl
@[simp] theorem modDesc_freeCtr (d : Nat) (g : Desc → Desc) : (modDesc s d g).freeCtr = s.freeCtr := rfl
@[simp] theorem modDesc_regs (d : Nat) (g : Desc → Desc) : (modDesc s d g).regs = s.regs := rfl
@[simp] theorem modDesc_mem (d : Nat) (g : Desc → Desc) : (modDesc s d g).mem = s.mem := rfl
@[simp] theorem modDesc_lost (d : Nat) (g : Desc → Desc) : (modDesc s d g).lost = s.lost := rfl
@[simp] theorem modDesc_flumes (d : Nat) (g : Desc → Desc) : (modDesc s d g).flumes = s.flumes := rfl
@[simp] theorem modDesc_subs (d : Nat) (g : Desc → Desc) : (modDesc s d g).subs = s.subs := rfl
@[simp] theorem modDesc_bays (d : Nat) (g : Desc → Desc) : (modDesc s d g).bays = s.bays := rfl
@[simp] theorem modDesc_banks (d : Nat) (g : Desc → Desc) : (modDesc s d g).banks = s.banks := rfl
@[simp] theorem modDesc_regions (d : Nat) (g : Desc → Desc) : (modDesc s d g).regions = s.regions := rfl
@[simp] theorem modDesc_badRegions (d : Nat) (g : Desc → Desc) : (modDesc s d g).badRegions = s.badRegions := rfl
@[simp] theorem modDesc_heads (d : Nat) (g : Desc → Desc) : (modDesc s d g).heads = s.heads := rfl
@[simp] theorem modDesc_pairs (d : Nat) (g : Desc → Desc) : (modDesc s d g).pairs = s.pairs := rfl
@[simp] theorem modDesc_descs (d : Nat) (g : Desc → Desc) : (modDesc s d g).descs = tabSet none s.descs d ((getDesc s d).map g) := rfl
@[simp] theorem modDesc_nextDesc (d : Nat) (g : Desc → Desc) : (modDesc s d g).nextDesc = s.nextDesc := rfl
@[simp] theorem modDesc_parts (d : Nat) (g : Desc → Desc) : (modDesc s d g).parts = s.parts := rfl
@[simp] theorem modDesc_nextPart (d : Nat) (g : Desc → Desc) : (modDesc s d g).nextPart = s.nextPart := rfl
@[simp] theorem modDesc_partStore (d : Nat) (g : Desc → Desc) : (modDesc s d g).partStore = s.partStore := rfl
@[simp] theorem modDesc_rr (d : Nat) (g : Desc → Desc) : (modDesc s d g).rr = s.rr := rfl
@[simp] theorem modDesc_grants (d : Nat) (g : Desc → Desc) : (modDesc s d g).grants = s.grants := rfl
@[simp] theorem modDesc_mills (d : Nat) (g : Desc → Desc) : (modDesc s d g).mills = s.mills := rfl
@[simp] theorem modDesc_lanes (d : Nat) (g : Desc → Desc) : (modDesc s d g).lanes = s.lanes := rfl
@[simp] theorem modDesc_leat (d : Nat) (g : Desc → Desc) : (modDesc s d g).leat = s.leat := rfl
@[simp] theorem modDesc_tally (d : Nat) (g : Desc → Desc) : (modDesc s d g).tally = s.tally := rfl
@[simp] theorem modDesc_fuses (d : Nat) (g : Desc → Desc) : (modDesc s d g).fuses = s.fuses := rfl
@[simp] theorem modDesc_flt (d : Nat) (g : Desc → Desc) : (modDesc s d g).flt = s.flt := rfl
@[simp] theorem modDesc_acc (d : Nat) (g : Desc → Desc) : (modDesc s d g).acc = s.acc := rfl
@[simp] theorem modDesc_thm (d : Nat) (g : Desc → Desc) : (modDesc s d g).thm = s.thm := rfl
@[simp] theorem modDesc_pwr (d : Nat) (g : Desc → Desc) : (modDesc s d g).pwr = s.pwr := rfl
@[simp] theorem modDesc_bist (d : Nat) (g : Desc → Desc) : (modDesc s d g).bist = s.bist := rfl
@[simp] theorem modDesc_boot (d : Nat) (g : Desc → Desc) : (modDesc s d g).boot = s.boot := rfl
@[simp] theorem modDesc_side (d : Nat) (g : Desc → Desc) : (modDesc s d g).side = s.side := rfl

/-! `putPart` -/

@[simp] theorem putPart_now (p : Nat) (x : Option Part) : (putPart s p x).now = s.now := rfl
@[simp] theorem putPart_pending (p : Nat) (x : Option Part) : (putPart s p x).pending = s.pending := rfl
@[simp] theorem putPart_out (p : Nat) (x : Option Part) : (putPart s p x).out = s.out := rfl
@[simp] theorem putPart_freeCtr (p : Nat) (x : Option Part) : (putPart s p x).freeCtr = s.freeCtr := rfl
@[simp] theorem putPart_regs (p : Nat) (x : Option Part) : (putPart s p x).regs = s.regs := rfl
@[simp] theorem putPart_mem (p : Nat) (x : Option Part) : (putPart s p x).mem = s.mem := rfl
@[simp] theorem putPart_lost (p : Nat) (x : Option Part) : (putPart s p x).lost = s.lost := rfl
@[simp] theorem putPart_flumes (p : Nat) (x : Option Part) : (putPart s p x).flumes = s.flumes := rfl
@[simp] theorem putPart_subs (p : Nat) (x : Option Part) : (putPart s p x).subs = s.subs := rfl
@[simp] theorem putPart_bays (p : Nat) (x : Option Part) : (putPart s p x).bays = s.bays := rfl
@[simp] theorem putPart_banks (p : Nat) (x : Option Part) : (putPart s p x).banks = s.banks := rfl
@[simp] theorem putPart_regions (p : Nat) (x : Option Part) : (putPart s p x).regions = s.regions := rfl
@[simp] theorem putPart_badRegions (p : Nat) (x : Option Part) : (putPart s p x).badRegions = s.badRegions := rfl
@[simp] theorem putPart_heads (p : Nat) (x : Option Part) : (putPart s p x).heads = s.heads := rfl
@[simp] theorem putPart_pairs (p : Nat) (x : Option Part) : (putPart s p x).pairs = s.pairs := rfl
@[simp] theorem putPart_descs (p : Nat) (x : Option Part) : (putPart s p x).descs = s.descs := rfl
@[simp] theorem putPart_nextDesc (p : Nat) (x : Option Part) : (putPart s p x).nextDesc = s.nextDesc := rfl
@[simp] theorem putPart_parts (p : Nat) (x : Option Part) : (putPart s p x).parts = tabSet none s.parts p x := rfl
@[simp] theorem putPart_nextPart (p : Nat) (x : Option Part) : (putPart s p x).nextPart = s.nextPart := rfl
@[simp] theorem putPart_partStore (p : Nat) (x : Option Part) : (putPart s p x).partStore = s.partStore := rfl
@[simp] theorem putPart_rr (p : Nat) (x : Option Part) : (putPart s p x).rr = s.rr := rfl
@[simp] theorem putPart_grants (p : Nat) (x : Option Part) : (putPart s p x).grants = s.grants := rfl
@[simp] theorem putPart_mills (p : Nat) (x : Option Part) : (putPart s p x).mills = s.mills := rfl
@[simp] theorem putPart_lanes (p : Nat) (x : Option Part) : (putPart s p x).lanes = s.lanes := rfl
@[simp] theorem putPart_leat (p : Nat) (x : Option Part) : (putPart s p x).leat = s.leat := rfl
@[simp] theorem putPart_tally (p : Nat) (x : Option Part) : (putPart s p x).tally = s.tally := rfl
@[simp] theorem putPart_fuses (p : Nat) (x : Option Part) : (putPart s p x).fuses = s.fuses := rfl
@[simp] theorem putPart_flt (p : Nat) (x : Option Part) : (putPart s p x).flt = s.flt := rfl
@[simp] theorem putPart_acc (p : Nat) (x : Option Part) : (putPart s p x).acc = s.acc := rfl
@[simp] theorem putPart_thm (p : Nat) (x : Option Part) : (putPart s p x).thm = s.thm := rfl
@[simp] theorem putPart_pwr (p : Nat) (x : Option Part) : (putPart s p x).pwr = s.pwr := rfl
@[simp] theorem putPart_bist (p : Nat) (x : Option Part) : (putPart s p x).bist = s.bist := rfl
@[simp] theorem putPart_boot (p : Nat) (x : Option Part) : (putPart s p x).boot = s.boot := rfl
@[simp] theorem putPart_side (p : Nat) (x : Option Part) : (putPart s p x).side = s.side := rfl

/-! `modPart` -/

@[simp] theorem modPart_now (p : Nat) (g : Part → Part) : (modPart s p g).now = s.now := rfl
@[simp] theorem modPart_pending (p : Nat) (g : Part → Part) : (modPart s p g).pending = s.pending := rfl
@[simp] theorem modPart_out (p : Nat) (g : Part → Part) : (modPart s p g).out = s.out := rfl
@[simp] theorem modPart_freeCtr (p : Nat) (g : Part → Part) : (modPart s p g).freeCtr = s.freeCtr := rfl
@[simp] theorem modPart_regs (p : Nat) (g : Part → Part) : (modPart s p g).regs = s.regs := rfl
@[simp] theorem modPart_mem (p : Nat) (g : Part → Part) : (modPart s p g).mem = s.mem := rfl
@[simp] theorem modPart_lost (p : Nat) (g : Part → Part) : (modPart s p g).lost = s.lost := rfl
@[simp] theorem modPart_flumes (p : Nat) (g : Part → Part) : (modPart s p g).flumes = s.flumes := rfl
@[simp] theorem modPart_subs (p : Nat) (g : Part → Part) : (modPart s p g).subs = s.subs := rfl
@[simp] theorem modPart_bays (p : Nat) (g : Part → Part) : (modPart s p g).bays = s.bays := rfl
@[simp] theorem modPart_banks (p : Nat) (g : Part → Part) : (modPart s p g).banks = s.banks := rfl
@[simp] theorem modPart_regions (p : Nat) (g : Part → Part) : (modPart s p g).regions = s.regions := rfl
@[simp] theorem modPart_badRegions (p : Nat) (g : Part → Part) : (modPart s p g).badRegions = s.badRegions := rfl
@[simp] theorem modPart_heads (p : Nat) (g : Part → Part) : (modPart s p g).heads = s.heads := rfl
@[simp] theorem modPart_pairs (p : Nat) (g : Part → Part) : (modPart s p g).pairs = s.pairs := rfl
@[simp] theorem modPart_descs (p : Nat) (g : Part → Part) : (modPart s p g).descs = s.descs := rfl
@[simp] theorem modPart_nextDesc (p : Nat) (g : Part → Part) : (modPart s p g).nextDesc = s.nextDesc := rfl
@[simp] theorem modPart_parts (p : Nat) (g : Part → Part) : (modPart s p g).parts = tabSet none s.parts p ((getPart s p).map g) := rfl
@[simp] theorem modPart_nextPart (p : Nat) (g : Part → Part) : (modPart s p g).nextPart = s.nextPart := rfl
@[simp] theorem modPart_partStore (p : Nat) (g : Part → Part) : (modPart s p g).partStore = s.partStore := rfl
@[simp] theorem modPart_rr (p : Nat) (g : Part → Part) : (modPart s p g).rr = s.rr := rfl
@[simp] theorem modPart_grants (p : Nat) (g : Part → Part) : (modPart s p g).grants = s.grants := rfl
@[simp] theorem modPart_mills (p : Nat) (g : Part → Part) : (modPart s p g).mills = s.mills := rfl
@[simp] theorem modPart_lanes (p : Nat) (g : Part → Part) : (modPart s p g).lanes = s.lanes := rfl
@[simp] theorem modPart_leat (p : Nat) (g : Part → Part) : (modPart s p g).leat = s.leat := rfl
@[simp] theorem modPart_tally (p : Nat) (g : Part → Part) : (modPart s p g).tally = s.tally := rfl
@[simp] theorem modPart_fuses (p : Nat) (g : Part → Part) : (modPart s p g).fuses = s.fuses := rfl
@[simp] theorem modPart_flt (p : Nat) (g : Part → Part) : (modPart s p g).flt = s.flt := rfl
@[simp] theorem modPart_acc (p : Nat) (g : Part → Part) : (modPart s p g).acc = s.acc := rfl
@[simp] theorem modPart_thm (p : Nat) (g : Part → Part) : (modPart s p g).thm = s.thm := rfl
@[simp] theorem modPart_pwr (p : Nat) (g : Part → Part) : (modPart s p g).pwr = s.pwr := rfl
@[simp] theorem modPart_bist (p : Nat) (g : Part → Part) : (modPart s p g).bist = s.bist := rfl
@[simp] theorem modPart_boot (p : Nat) (g : Part → Part) : (modPart s p g).boot = s.boot := rfl
@[simp] theorem modPart_side (p : Nat) (g : Part → Part) : (modPart s p g).side = s.side := rfl

/-! `modMill` -/

@[simp] theorem modMill_now (m : Nat) (g : Mill → Mill) : (modMill s m g).now = s.now := rfl
@[simp] theorem modMill_pending (m : Nat) (g : Mill → Mill) : (modMill s m g).pending = s.pending := rfl
@[simp] theorem modMill_out (m : Nat) (g : Mill → Mill) : (modMill s m g).out = s.out := rfl
@[simp] theorem modMill_freeCtr (m : Nat) (g : Mill → Mill) : (modMill s m g).freeCtr = s.freeCtr := rfl
@[simp] theorem modMill_regs (m : Nat) (g : Mill → Mill) : (modMill s m g).regs = s.regs := rfl
@[simp] theorem modMill_mem (m : Nat) (g : Mill → Mill) : (modMill s m g).mem = s.mem := rfl
@[simp] theorem modMill_lost (m : Nat) (g : Mill → Mill) : (modMill s m g).lost = s.lost := rfl
@[simp] theorem modMill_flumes (m : Nat) (g : Mill → Mill) : (modMill s m g).flumes = s.flumes := rfl
@[simp] theorem modMill_subs (m : Nat) (g : Mill → Mill) : (modMill s m g).subs = s.subs := rfl
@[simp] theorem modMill_bays (m : Nat) (g : Mill → Mill) : (modMill s m g).bays = s.bays := rfl
@[simp] theorem modMill_banks (m : Nat) (g : Mill → Mill) : (modMill s m g).banks = s.banks := rfl
@[simp] theorem modMill_regions (m : Nat) (g : Mill → Mill) : (modMill s m g).regions = s.regions := rfl
@[simp] theorem modMill_badRegions (m : Nat) (g : Mill → Mill) : (modMill s m g).badRegions = s.badRegions := rfl
@[simp] theorem modMill_heads (m : Nat) (g : Mill → Mill) : (modMill s m g).heads = s.heads := rfl
@[simp] theorem modMill_pairs (m : Nat) (g : Mill → Mill) : (modMill s m g).pairs = s.pairs := rfl
@[simp] theorem modMill_descs (m : Nat) (g : Mill → Mill) : (modMill s m g).descs = s.descs := rfl
@[simp] theorem modMill_nextDesc (m : Nat) (g : Mill → Mill) : (modMill s m g).nextDesc = s.nextDesc := rfl
@[simp] theorem modMill_parts (m : Nat) (g : Mill → Mill) : (modMill s m g).parts = s.parts := rfl
@[simp] theorem modMill_nextPart (m : Nat) (g : Mill → Mill) : (modMill s m g).nextPart = s.nextPart := rfl
@[simp] theorem modMill_partStore (m : Nat) (g : Mill → Mill) : (modMill s m g).partStore = s.partStore := rfl
@[simp] theorem modMill_rr (m : Nat) (g : Mill → Mill) : (modMill s m g).rr = s.rr := rfl
@[simp] theorem modMill_grants (m : Nat) (g : Mill → Mill) : (modMill s m g).grants = s.grants := rfl
@[simp] theorem modMill_mills (m : Nat) (g : Mill → Mill) : (modMill s m g).mills = tabMod millInit s.mills m g := rfl
@[simp] theorem modMill_lanes (m : Nat) (g : Mill → Mill) : (modMill s m g).lanes = s.lanes := rfl
@[simp] theorem modMill_leat (m : Nat) (g : Mill → Mill) : (modMill s m g).leat = s.leat := rfl
@[simp] theorem modMill_tally (m : Nat) (g : Mill → Mill) : (modMill s m g).tally = s.tally := rfl
@[simp] theorem modMill_fuses (m : Nat) (g : Mill → Mill) : (modMill s m g).fuses = s.fuses := rfl
@[simp] theorem modMill_flt (m : Nat) (g : Mill → Mill) : (modMill s m g).flt = s.flt := rfl
@[simp] theorem modMill_acc (m : Nat) (g : Mill → Mill) : (modMill s m g).acc = s.acc := rfl
@[simp] theorem modMill_thm (m : Nat) (g : Mill → Mill) : (modMill s m g).thm = s.thm := rfl
@[simp] theorem modMill_pwr (m : Nat) (g : Mill → Mill) : (modMill s m g).pwr = s.pwr := rfl
@[simp] theorem modMill_bist (m : Nat) (g : Mill → Mill) : (modMill s m g).bist = s.bist := rfl
@[simp] theorem modMill_boot (m : Nat) (g : Mill → Mill) : (modMill s m g).boot = s.boot := rfl
@[simp] theorem modMill_side (m : Nat) (g : Mill → Mill) : (modMill s m g).side = s.side := rfl

/-! `modLane` -/

@[simp] theorem modLane_now (l : Nat) (g : Lane → Lane) : (modLane s l g).now = s.now := rfl
@[simp] theorem modLane_pending (l : Nat) (g : Lane → Lane) : (modLane s l g).pending = s.pending := rfl
@[simp] theorem modLane_out (l : Nat) (g : Lane → Lane) : (modLane s l g).out = s.out := rfl
@[simp] theorem modLane_freeCtr (l : Nat) (g : Lane → Lane) : (modLane s l g).freeCtr = s.freeCtr := rfl
@[simp] theorem modLane_regs (l : Nat) (g : Lane → Lane) : (modLane s l g).regs = s.regs := rfl
@[simp] theorem modLane_mem (l : Nat) (g : Lane → Lane) : (modLane s l g).mem = s.mem := rfl
@[simp] theorem modLane_lost (l : Nat) (g : Lane → Lane) : (modLane s l g).lost = s.lost := rfl
@[simp] theorem modLane_flumes (l : Nat) (g : Lane → Lane) : (modLane s l g).flumes = s.flumes := rfl
@[simp] theorem modLane_subs (l : Nat) (g : Lane → Lane) : (modLane s l g).subs = s.subs := rfl
@[simp] theorem modLane_bays (l : Nat) (g : Lane → Lane) : (modLane s l g).bays = s.bays := rfl
@[simp] theorem modLane_banks (l : Nat) (g : Lane → Lane) : (modLane s l g).banks = s.banks := rfl
@[simp] theorem modLane_regions (l : Nat) (g : Lane → Lane) : (modLane s l g).regions = s.regions := rfl
@[simp] theorem modLane_badRegions (l : Nat) (g : Lane → Lane) : (modLane s l g).badRegions = s.badRegions := rfl
@[simp] theorem modLane_heads (l : Nat) (g : Lane → Lane) : (modLane s l g).heads = s.heads := rfl
@[simp] theorem modLane_pairs (l : Nat) (g : Lane → Lane) : (modLane s l g).pairs = s.pairs := rfl
@[simp] theorem modLane_descs (l : Nat) (g : Lane → Lane) : (modLane s l g).descs = s.descs := rfl
@[simp] theorem modLane_nextDesc (l : Nat) (g : Lane → Lane) : (modLane s l g).nextDesc = s.nextDesc := rfl
@[simp] theorem modLane_parts (l : Nat) (g : Lane → Lane) : (modLane s l g).parts = s.parts := rfl
@[simp] theorem modLane_nextPart (l : Nat) (g : Lane → Lane) : (modLane s l g).nextPart = s.nextPart := rfl
@[simp] theorem modLane_partStore (l : Nat) (g : Lane → Lane) : (modLane s l g).partStore = s.partStore := rfl
@[simp] theorem modLane_rr (l : Nat) (g : Lane → Lane) : (modLane s l g).rr = s.rr := rfl
@[simp] theorem modLane_grants (l : Nat) (g : Lane → Lane) : (modLane s l g).grants = s.grants := rfl
@[simp] theorem modLane_mills (l : Nat) (g : Lane → Lane) : (modLane s l g).mills = s.mills := rfl
@[simp] theorem modLane_lanes (l : Nat) (g : Lane → Lane) : (modLane s l g).lanes = tabMod laneInit s.lanes l g := rfl
@[simp] theorem modLane_leat (l : Nat) (g : Lane → Lane) : (modLane s l g).leat = s.leat := rfl
@[simp] theorem modLane_tally (l : Nat) (g : Lane → Lane) : (modLane s l g).tally = s.tally := rfl
@[simp] theorem modLane_fuses (l : Nat) (g : Lane → Lane) : (modLane s l g).fuses = s.fuses := rfl
@[simp] theorem modLane_flt (l : Nat) (g : Lane → Lane) : (modLane s l g).flt = s.flt := rfl
@[simp] theorem modLane_acc (l : Nat) (g : Lane → Lane) : (modLane s l g).acc = s.acc := rfl
@[simp] theorem modLane_thm (l : Nat) (g : Lane → Lane) : (modLane s l g).thm = s.thm := rfl
@[simp] theorem modLane_pwr (l : Nat) (g : Lane → Lane) : (modLane s l g).pwr = s.pwr := rfl
@[simp] theorem modLane_bist (l : Nat) (g : Lane → Lane) : (modLane s l g).bist = s.bist := rfl
@[simp] theorem modLane_boot (l : Nat) (g : Lane → Lane) : (modLane s l g).boot = s.boot := rfl
@[simp] theorem modLane_side (l : Nat) (g : Lane → Lane) : (modLane s l g).side = s.side := rfl

/-! `modLeat` -/

@[simp] theorem modLeat_now (g : Leat → Leat) : (modLeat s g).now = s.now := rfl
@[simp] theorem modLeat_pending (g : Leat → Leat) : (modLeat s g).pending = s.pending := rfl
@[simp] theorem modLeat_out (g : Leat → Leat) : (modLeat s g).out = s.out := rfl
@[simp] theorem modLeat_freeCtr (g : Leat → Leat) : (modLeat s g).freeCtr = s.freeCtr := rfl
@[simp] theorem modLeat_regs (g : Leat → Leat) : (modLeat s g).regs = s.regs := rfl
@[simp] theorem modLeat_mem (g : Leat → Leat) : (modLeat s g).mem = s.mem := rfl
@[simp] theorem modLeat_lost (g : Leat → Leat) : (modLeat s g).lost = s.lost := rfl
@[simp] theorem modLeat_flumes (g : Leat → Leat) : (modLeat s g).flumes = s.flumes := rfl
@[simp] theorem modLeat_subs (g : Leat → Leat) : (modLeat s g).subs = s.subs := rfl
@[simp] theorem modLeat_bays (g : Leat → Leat) : (modLeat s g).bays = s.bays := rfl
@[simp] theorem modLeat_banks (g : Leat → Leat) : (modLeat s g).banks = s.banks := rfl
@[simp] theorem modLeat_regions (g : Leat → Leat) : (modLeat s g).regions = s.regions := rfl
@[simp] theorem modLeat_badRegions (g : Leat → Leat) : (modLeat s g).badRegions = s.badRegions := rfl
@[simp] theorem modLeat_heads (g : Leat → Leat) : (modLeat s g).heads = s.heads := rfl
@[simp] theorem modLeat_pairs (g : Leat → Leat) : (modLeat s g).pairs = s.pairs := rfl
@[simp] theorem modLeat_descs (g : Leat → Leat) : (modLeat s g).descs = s.descs := rfl
@[simp] theorem modLeat_nextDesc (g : Leat → Leat) : (modLeat s g).nextDesc = s.nextDesc := rfl
@[simp] theorem modLeat_parts (g : Leat → Leat) : (modLeat s g).parts = s.parts := rfl
@[simp] theorem modLeat_nextPart (g : Leat → Leat) : (modLeat s g).nextPart = s.nextPart := rfl
@[simp] theorem modLeat_partStore (g : Leat → Leat) : (modLeat s g).partStore = s.partStore := rfl
@[simp] theorem modLeat_rr (g : Leat → Leat) : (modLeat s g).rr = s.rr := rfl
@[simp] theorem modLeat_grants (g : Leat → Leat) : (modLeat s g).grants = s.grants := rfl
@[simp] theorem modLeat_mills (g : Leat → Leat) : (modLeat s g).mills = s.mills := rfl
@[simp] theorem modLeat_lanes (g : Leat → Leat) : (modLeat s g).lanes = s.lanes := rfl
@[simp] theorem modLeat_leat (g : Leat → Leat) : (modLeat s g).leat = g s.leat := rfl
@[simp] theorem modLeat_tally (g : Leat → Leat) : (modLeat s g).tally = s.tally := rfl
@[simp] theorem modLeat_fuses (g : Leat → Leat) : (modLeat s g).fuses = s.fuses := rfl
@[simp] theorem modLeat_flt (g : Leat → Leat) : (modLeat s g).flt = s.flt := rfl
@[simp] theorem modLeat_acc (g : Leat → Leat) : (modLeat s g).acc = s.acc := rfl
@[simp] theorem modLeat_thm (g : Leat → Leat) : (modLeat s g).thm = s.thm := rfl
@[simp] theorem modLeat_pwr (g : Leat → Leat) : (modLeat s g).pwr = s.pwr := rfl
@[simp] theorem modLeat_bist (g : Leat → Leat) : (modLeat s g).bist = s.bist := rfl
@[simp] theorem modLeat_boot (g : Leat → Leat) : (modLeat s g).boot = s.boot := rfl
@[simp] theorem modLeat_side (g : Leat → Leat) : (modLeat s g).side = s.side := rfl

/-! `modPort` -/

@[simp] theorem modPort_now (k : Nat) (g : Port → Port) : (modPort s k g).now = s.now := rfl
@[simp] theorem modPort_pending (k : Nat) (g : Port → Port) : (modPort s k g).pending = s.pending := rfl
@[simp] theorem modPort_out (k : Nat) (g : Port → Port) : (modPort s k g).out = s.out := rfl
@[simp] theorem modPort_freeCtr (k : Nat) (g : Port → Port) : (modPort s k g).freeCtr = s.freeCtr := rfl
@[simp] theorem modPort_regs (k : Nat) (g : Port → Port) : (modPort s k g).regs = s.regs := rfl
@[simp] theorem modPort_mem (k : Nat) (g : Port → Port) : (modPort s k g).mem = s.mem := rfl
@[simp] theorem modPort_lost (k : Nat) (g : Port → Port) : (modPort s k g).lost = s.lost := rfl
@[simp] theorem modPort_flumes (k : Nat) (g : Port → Port) : (modPort s k g).flumes = s.flumes := rfl
@[simp] theorem modPort_subs (k : Nat) (g : Port → Port) : (modPort s k g).subs = s.subs := rfl
@[simp] theorem modPort_bays (k : Nat) (g : Port → Port) : (modPort s k g).bays = s.bays := rfl
@[simp] theorem modPort_banks (k : Nat) (g : Port → Port) : (modPort s k g).banks = s.banks := rfl
@[simp] theorem modPort_regions (k : Nat) (g : Port → Port) : (modPort s k g).regions = s.regions := rfl
@[simp] theorem modPort_badRegions (k : Nat) (g : Port → Port) : (modPort s k g).badRegions = s.badRegions := rfl
@[simp] theorem modPort_heads (k : Nat) (g : Port → Port) : (modPort s k g).heads = s.heads := rfl
@[simp] theorem modPort_pairs (k : Nat) (g : Port → Port) : (modPort s k g).pairs = s.pairs := rfl
@[simp] theorem modPort_descs (k : Nat) (g : Port → Port) : (modPort s k g).descs = s.descs := rfl
@[simp] theorem modPort_nextDesc (k : Nat) (g : Port → Port) : (modPort s k g).nextDesc = s.nextDesc := rfl
@[simp] theorem modPort_parts (k : Nat) (g : Port → Port) : (modPort s k g).parts = s.parts := rfl
@[simp] theorem modPort_nextPart (k : Nat) (g : Port → Port) : (modPort s k g).nextPart = s.nextPart := rfl
@[simp] theorem modPort_partStore (k : Nat) (g : Port → Port) : (modPort s k g).partStore = s.partStore := rfl
@[simp] theorem modPort_rr (k : Nat) (g : Port → Port) : (modPort s k g).rr = s.rr := rfl
@[simp] theorem modPort_grants (k : Nat) (g : Port → Port) : (modPort s k g).grants = s.grants := rfl
@[simp] theorem modPort_mills (k : Nat) (g : Port → Port) : (modPort s k g).mills = s.mills := rfl
@[simp] theorem modPort_lanes (k : Nat) (g : Port → Port) : (modPort s k g).lanes = s.lanes := rfl
@[simp] theorem modPort_leat (k : Nat) (g : Port → Port) : (modPort s k g).leat = { s.leat with ports := tabMod portInit s.leat.ports k g } := rfl
@[simp] theorem modPort_tally (k : Nat) (g : Port → Port) : (modPort s k g).tally = s.tally := rfl
@[simp] theorem modPort_fuses (k : Nat) (g : Port → Port) : (modPort s k g).fuses = s.fuses := rfl
@[simp] theorem modPort_flt (k : Nat) (g : Port → Port) : (modPort s k g).flt = s.flt := rfl
@[simp] theorem modPort_acc (k : Nat) (g : Port → Port) : (modPort s k g).acc = s.acc := rfl
@[simp] theorem modPort_thm (k : Nat) (g : Port → Port) : (modPort s k g).thm = s.thm := rfl
@[simp] theorem modPort_pwr (k : Nat) (g : Port → Port) : (modPort s k g).pwr = s.pwr := rfl
@[simp] theorem modPort_bist (k : Nat) (g : Port → Port) : (modPort s k g).bist = s.bist := rfl
@[simp] theorem modPort_boot (k : Nat) (g : Port → Port) : (modPort s k g).boot = s.boot := rfl
@[simp] theorem modPort_side (k : Nat) (g : Port → Port) : (modPort s k g).side = s.side := rfl

/-! `modSource` -/

@[simp] theorem modSource_now (k : Nat) (g : Source → Source) : (modSource s k g).now = s.now := rfl
@[simp] theorem modSource_pending (k : Nat) (g : Source → Source) : (modSource s k g).pending = s.pending := rfl
@[simp] theorem modSource_out (k : Nat) (g : Source → Source) : (modSource s k g).out = s.out := rfl
@[simp] theorem modSource_freeCtr (k : Nat) (g : Source → Source) : (modSource s k g).freeCtr = s.freeCtr := rfl
@[simp] theorem modSource_regs (k : Nat) (g : Source → Source) : (modSource s k g).regs = s.regs := rfl
@[simp] theorem modSource_mem (k : Nat) (g : Source → Source) : (modSource s k g).mem = s.mem := rfl
@[simp] theorem modSource_lost (k : Nat) (g : Source → Source) : (modSource s k g).lost = s.lost := rfl
@[simp] theorem modSource_flumes (k : Nat) (g : Source → Source) : (modSource s k g).flumes = s.flumes := rfl
@[simp] theorem modSource_subs (k : Nat) (g : Source → Source) : (modSource s k g).subs = s.subs := rfl
@[simp] theorem modSource_bays (k : Nat) (g : Source → Source) : (modSource s k g).bays = s.bays := rfl
@[simp] theorem modSource_banks (k : Nat) (g : Source → Source) : (modSource s k g).banks = s.banks := rfl
@[simp] theorem modSource_regions (k : Nat) (g : Source → Source) : (modSource s k g).regions = s.regions := rfl
@[simp] theorem modSource_badRegions (k : Nat) (g : Source → Source) : (modSource s k g).badRegions = s.badRegions := rfl
@[simp] theorem modSource_heads (k : Nat) (g : Source → Source) : (modSource s k g).heads = s.heads := rfl
@[simp] theorem modSource_pairs (k : Nat) (g : Source → Source) : (modSource s k g).pairs = s.pairs := rfl
@[simp] theorem modSource_descs (k : Nat) (g : Source → Source) : (modSource s k g).descs = s.descs := rfl
@[simp] theorem modSource_nextDesc (k : Nat) (g : Source → Source) : (modSource s k g).nextDesc = s.nextDesc := rfl
@[simp] theorem modSource_parts (k : Nat) (g : Source → Source) : (modSource s k g).parts = s.parts := rfl
@[simp] theorem modSource_nextPart (k : Nat) (g : Source → Source) : (modSource s k g).nextPart = s.nextPart := rfl
@[simp] theorem modSource_partStore (k : Nat) (g : Source → Source) : (modSource s k g).partStore = s.partStore := rfl
@[simp] theorem modSource_rr (k : Nat) (g : Source → Source) : (modSource s k g).rr = s.rr := rfl
@[simp] theorem modSource_grants (k : Nat) (g : Source → Source) : (modSource s k g).grants = s.grants := rfl
@[simp] theorem modSource_mills (k : Nat) (g : Source → Source) : (modSource s k g).mills = s.mills := rfl
@[simp] theorem modSource_lanes (k : Nat) (g : Source → Source) : (modSource s k g).lanes = s.lanes := rfl
@[simp] theorem modSource_leat (k : Nat) (g : Source → Source) : (modSource s k g).leat = s.leat := rfl
@[simp] theorem modSource_tally (k : Nat) (g : Source → Source) : (modSource s k g).tally = s.tally := rfl
@[simp] theorem modSource_fuses (k : Nat) (g : Source → Source) : (modSource s k g).fuses = s.fuses := rfl
@[simp] theorem modSource_flt (k : Nat) (g : Source → Source) : (modSource s k g).flt = { s.flt with sources := tabMod sourceInit s.flt.sources k g } := rfl
@[simp] theorem modSource_acc (k : Nat) (g : Source → Source) : (modSource s k g).acc = s.acc := rfl
@[simp] theorem modSource_thm (k : Nat) (g : Source → Source) : (modSource s k g).thm = s.thm := rfl
@[simp] theorem modSource_pwr (k : Nat) (g : Source → Source) : (modSource s k g).pwr = s.pwr := rfl
@[simp] theorem modSource_bist (k : Nat) (g : Source → Source) : (modSource s k g).bist = s.bist := rfl
@[simp] theorem modSource_boot (k : Nat) (g : Source → Source) : (modSource s k g).boot = s.boot := rfl
@[simp] theorem modSource_side (k : Nat) (g : Source → Source) : (modSource s k g).side = s.side := rfl

/-! `emit` -/

@[simp] theorem emit_now (o : Out) : (emit s o).now = s.now := rfl
@[simp] theorem emit_pending (o : Out) : (emit s o).pending = s.pending := rfl
@[simp] theorem emit_out (o : Out) : (emit s o).out = s.out ++ [o] := rfl
@[simp] theorem emit_freeCtr (o : Out) : (emit s o).freeCtr = s.freeCtr := rfl
@[simp] theorem emit_regs (o : Out) : (emit s o).regs = s.regs := rfl
@[simp] theorem emit_mem (o : Out) : (emit s o).mem = s.mem := rfl
@[simp] theorem emit_lost (o : Out) : (emit s o).lost = s.lost := rfl
@[simp] theorem emit_flumes (o : Out) : (emit s o).flumes = s.flumes := rfl
@[simp] theorem emit_subs (o : Out) : (emit s o).subs = s.subs := rfl
@[simp] theorem emit_bays (o : Out) : (emit s o).bays = s.bays := rfl
@[simp] theorem emit_banks (o : Out) : (emit s o).banks = s.banks := rfl
@[simp] theorem emit_regions (o : Out) : (emit s o).regions = s.regions := rfl
@[simp] theorem emit_badRegions (o : Out) : (emit s o).badRegions = s.badRegions := rfl
@[simp] theorem emit_heads (o : Out) : (emit s o).heads = s.heads := rfl
@[simp] theorem emit_pairs (o : Out) : (emit s o).pairs = s.pairs := rfl
@[simp] theorem emit_descs (o : Out) : (emit s o).descs = s.descs := rfl
@[simp] theorem emit_nextDesc (o : Out) : (emit s o).nextDesc = s.nextDesc := rfl
@[simp] theorem emit_parts (o : Out) : (emit s o).parts = s.parts := rfl
@[simp] theorem emit_nextPart (o : Out) : (emit s o).nextPart = s.nextPart := rfl
@[simp] theorem emit_partStore (o : Out) : (emit s o).partStore = s.partStore := rfl
@[simp] theorem emit_rr (o : Out) : (emit s o).rr = s.rr := rfl
@[simp] theorem emit_grants (o : Out) : (emit s o).grants = s.grants := rfl
@[simp] theorem emit_mills (o : Out) : (emit s o).mills = s.mills := rfl
@[simp] theorem emit_lanes (o : Out) : (emit s o).lanes = s.lanes := rfl
@[simp] theorem emit_leat (o : Out) : (emit s o).leat = s.leat := rfl
@[simp] theorem emit_tally (o : Out) : (emit s o).tally = s.tally := rfl
@[simp] theorem emit_fuses (o : Out) : (emit s o).fuses = s.fuses := rfl
@[simp] theorem emit_flt (o : Out) : (emit s o).flt = s.flt := rfl
@[simp] theorem emit_acc (o : Out) : (emit s o).acc = s.acc := rfl
@[simp] theorem emit_thm (o : Out) : (emit s o).thm = s.thm := rfl
@[simp] theorem emit_pwr (o : Out) : (emit s o).pwr = s.pwr := rfl
@[simp] theorem emit_bist (o : Out) : (emit s o).bist = s.bist := rfl
@[simp] theorem emit_boot (o : Out) : (emit s o).boot = s.boot := rfl
@[simp] theorem emit_side (o : Out) : (emit s o).side = s.side := rfl

/-! `bumpFree` -/

@[simp] theorem bumpFree_now : (bumpFree s).now = s.now := rfl
@[simp] theorem bumpFree_pending : (bumpFree s).pending = s.pending := rfl
@[simp] theorem bumpFree_out : (bumpFree s).out = s.out := rfl
@[simp] theorem bumpFree_freeCtr : (bumpFree s).freeCtr = s.freeCtr + 1 := rfl
@[simp] theorem bumpFree_regs : (bumpFree s).regs = s.regs := rfl
@[simp] theorem bumpFree_mem : (bumpFree s).mem = s.mem := rfl
@[simp] theorem bumpFree_lost : (bumpFree s).lost = s.lost := rfl
@[simp] theorem bumpFree_flumes : (bumpFree s).flumes = s.flumes := rfl
@[simp] theorem bumpFree_subs : (bumpFree s).subs = s.subs := rfl
@[simp] theorem bumpFree_bays : (bumpFree s).bays = s.bays := rfl
@[simp] theorem bumpFree_banks : (bumpFree s).banks = s.banks := rfl
@[simp] theorem bumpFree_regions : (bumpFree s).regions = s.regions := rfl
@[simp] theorem bumpFree_badRegions : (bumpFree s).badRegions = s.badRegions := rfl
@[simp] theorem bumpFree_heads : (bumpFree s).heads = s.heads := rfl
@[simp] theorem bumpFree_pairs : (bumpFree s).pairs = s.pairs := rfl
@[simp] theorem bumpFree_descs : (bumpFree s).descs = s.descs := rfl
@[simp] theorem bumpFree_nextDesc : (bumpFree s).nextDesc = s.nextDesc := rfl
@[simp] theorem bumpFree_parts : (bumpFree s).parts = s.parts := rfl
@[simp] theorem bumpFree_nextPart : (bumpFree s).nextPart = s.nextPart := rfl
@[simp] theorem bumpFree_partStore : (bumpFree s).partStore = s.partStore := rfl
@[simp] theorem bumpFree_rr : (bumpFree s).rr = s.rr := rfl
@[simp] theorem bumpFree_grants : (bumpFree s).grants = s.grants := rfl
@[simp] theorem bumpFree_mills : (bumpFree s).mills = s.mills := rfl
@[simp] theorem bumpFree_lanes : (bumpFree s).lanes = s.lanes := rfl
@[simp] theorem bumpFree_leat : (bumpFree s).leat = s.leat := rfl
@[simp] theorem bumpFree_tally : (bumpFree s).tally = s.tally := rfl
@[simp] theorem bumpFree_fuses : (bumpFree s).fuses = s.fuses := rfl
@[simp] theorem bumpFree_flt : (bumpFree s).flt = s.flt := rfl
@[simp] theorem bumpFree_acc : (bumpFree s).acc = s.acc := rfl
@[simp] theorem bumpFree_thm : (bumpFree s).thm = s.thm := rfl
@[simp] theorem bumpFree_pwr : (bumpFree s).pwr = s.pwr := rfl
@[simp] theorem bumpFree_bist : (bumpFree s).bist = s.bist := rfl
@[simp] theorem bumpFree_boot : (bumpFree s).boot = s.boot := rfl
@[simp] theorem bumpFree_side : (bumpFree s).side = s.side := rfl

/-! `setCells` -/

@[simp] theorem setCells_now (k v : Nat) : (setCells s k v).now = s.now := rfl
@[simp] theorem setCells_pending (k v : Nat) : (setCells s k v).pending = s.pending := rfl
@[simp] theorem setCells_out (k v : Nat) : (setCells s k v).out = s.out := rfl
@[simp] theorem setCells_freeCtr (k v : Nat) : (setCells s k v).freeCtr = s.freeCtr := rfl
@[simp] theorem setCells_regs (k v : Nat) : (setCells s k v).regs = s.regs := rfl
@[simp] theorem setCells_mem (k v : Nat) : (setCells s k v).mem = memWrite s.mem (k * 80) 80 (v ^^^ lineBase s k) := rfl
@[simp] theorem setCells_lost (k v : Nat) : (setCells s k v).lost = s.lost := rfl
@[simp] theorem setCells_flumes (k v : Nat) : (setCells s k v).flumes = s.flumes := rfl
@[simp] theorem setCells_subs (k v : Nat) : (setCells s k v).subs = s.subs := rfl
@[simp] theorem setCells_bays (k v : Nat) : (setCells s k v).bays = s.bays := rfl
@[simp] theorem setCells_banks (k v : Nat) : (setCells s k v).banks = s.banks := rfl
@[simp] theorem setCells_regions (k v : Nat) : (setCells s k v).regions = s.regions := rfl
@[simp] theorem setCells_badRegions (k v : Nat) : (setCells s k v).badRegions = s.badRegions := rfl
@[simp] theorem setCells_heads (k v : Nat) : (setCells s k v).heads = s.heads := rfl
@[simp] theorem setCells_pairs (k v : Nat) : (setCells s k v).pairs = s.pairs := rfl
@[simp] theorem setCells_descs (k v : Nat) : (setCells s k v).descs = s.descs := rfl
@[simp] theorem setCells_nextDesc (k v : Nat) : (setCells s k v).nextDesc = s.nextDesc := rfl
@[simp] theorem setCells_parts (k v : Nat) : (setCells s k v).parts = s.parts := rfl
@[simp] theorem setCells_nextPart (k v : Nat) : (setCells s k v).nextPart = s.nextPart := rfl
@[simp] theorem setCells_partStore (k v : Nat) : (setCells s k v).partStore = s.partStore := rfl
@[simp] theorem setCells_rr (k v : Nat) : (setCells s k v).rr = s.rr := rfl
@[simp] theorem setCells_grants (k v : Nat) : (setCells s k v).grants = s.grants := rfl
@[simp] theorem setCells_mills (k v : Nat) : (setCells s k v).mills = s.mills := rfl
@[simp] theorem setCells_lanes (k v : Nat) : (setCells s k v).lanes = s.lanes := rfl
@[simp] theorem setCells_leat (k v : Nat) : (setCells s k v).leat = s.leat := rfl
@[simp] theorem setCells_tally (k v : Nat) : (setCells s k v).tally = s.tally := rfl
@[simp] theorem setCells_fuses (k v : Nat) : (setCells s k v).fuses = s.fuses := rfl
@[simp] theorem setCells_flt (k v : Nat) : (setCells s k v).flt = s.flt := rfl
@[simp] theorem setCells_acc (k v : Nat) : (setCells s k v).acc = s.acc := rfl
@[simp] theorem setCells_thm (k v : Nat) : (setCells s k v).thm = s.thm := rfl
@[simp] theorem setCells_pwr (k v : Nat) : (setCells s k v).pwr = s.pwr := rfl
@[simp] theorem setCells_bist (k v : Nat) : (setCells s k v).bist = s.bist := rfl
@[simp] theorem setCells_boot (k v : Nat) : (setCells s k v).boot = s.boot := rfl
@[simp] theorem setCells_side (k v : Nat) : (setCells s k v).side = s.side := rfl

/-! `regSet` -/

@[simp] theorem regSet_now (off : Nat) (v : Word) : (regSet s off v).now = s.now := rfl
@[simp] theorem regSet_pending (off : Nat) (v : Word) : (regSet s off v).pending = s.pending := rfl
@[simp] theorem regSet_out (off : Nat) (v : Word) : (regSet s off v).out = s.out := rfl
@[simp] theorem regSet_freeCtr (off : Nat) (v : Word) : (regSet s off v).freeCtr = s.freeCtr := rfl
@[simp] theorem regSet_mem (off : Nat) (v : Word) : (regSet s off v).mem = s.mem := rfl
@[simp] theorem regSet_lost (off : Nat) (v : Word) : (regSet s off v).lost = s.lost := rfl
@[simp] theorem regSet_flumes (off : Nat) (v : Word) : (regSet s off v).flumes = s.flumes := rfl
@[simp] theorem regSet_subs (off : Nat) (v : Word) : (regSet s off v).subs = s.subs := rfl
@[simp] theorem regSet_bays (off : Nat) (v : Word) : (regSet s off v).bays = s.bays := rfl
@[simp] theorem regSet_banks (off : Nat) (v : Word) : (regSet s off v).banks = s.banks := rfl
@[simp] theorem regSet_regions (off : Nat) (v : Word) : (regSet s off v).regions = s.regions := rfl
@[simp] theorem regSet_badRegions (off : Nat) (v : Word) : (regSet s off v).badRegions = s.badRegions := rfl
@[simp] theorem regSet_heads (off : Nat) (v : Word) : (regSet s off v).heads = s.heads := rfl
@[simp] theorem regSet_pairs (off : Nat) (v : Word) : (regSet s off v).pairs = s.pairs := rfl
@[simp] theorem regSet_descs (off : Nat) (v : Word) : (regSet s off v).descs = s.descs := rfl
@[simp] theorem regSet_nextDesc (off : Nat) (v : Word) : (regSet s off v).nextDesc = s.nextDesc := rfl
@[simp] theorem regSet_parts (off : Nat) (v : Word) : (regSet s off v).parts = s.parts := rfl
@[simp] theorem regSet_nextPart (off : Nat) (v : Word) : (regSet s off v).nextPart = s.nextPart := rfl
@[simp] theorem regSet_partStore (off : Nat) (v : Word) : (regSet s off v).partStore = s.partStore := rfl
@[simp] theorem regSet_rr (off : Nat) (v : Word) : (regSet s off v).rr = s.rr := rfl
@[simp] theorem regSet_grants (off : Nat) (v : Word) : (regSet s off v).grants = s.grants := rfl
@[simp] theorem regSet_mills (off : Nat) (v : Word) : (regSet s off v).mills = s.mills := rfl
@[simp] theorem regSet_lanes (off : Nat) (v : Word) : (regSet s off v).lanes = s.lanes := rfl
@[simp] theorem regSet_leat (off : Nat) (v : Word) : (regSet s off v).leat = s.leat := rfl
@[simp] theorem regSet_tally (off : Nat) (v : Word) : (regSet s off v).tally = s.tally := rfl
@[simp] theorem regSet_fuses (off : Nat) (v : Word) : (regSet s off v).fuses = s.fuses := rfl
@[simp] theorem regSet_flt (off : Nat) (v : Word) : (regSet s off v).flt = s.flt := rfl
@[simp] theorem regSet_acc (off : Nat) (v : Word) : (regSet s off v).acc = s.acc := rfl
@[simp] theorem regSet_thm (off : Nat) (v : Word) : (regSet s off v).thm = s.thm := rfl
@[simp] theorem regSet_pwr (off : Nat) (v : Word) : (regSet s off v).pwr = s.pwr := rfl
@[simp] theorem regSet_bist (off : Nat) (v : Word) : (regSet s off v).bist = s.bist := rfl
@[simp] theorem regSet_boot (off : Nat) (v : Word) : (regSet s off v).boot = s.boot := rfl
@[simp] theorem regSet_side (off : Nat) (v : Word) : (regSet s off v).side = s.side := rfl

/-! Reading an element after an update. -/

theorem getFlume_modFlume_self (f : Nat) (g : Flume → Flume) (w : tabWf flumeInit s.flumes) : getFlume (modFlume s f g) f = g (getFlume s f) :=
  tabGet_tabMod_self flumeInit s.flumes f g w

theorem getFlume_modFlume_ne {f i : Nat} (g : Flume → Flume) (n_ : i ≠ f) : getFlume (modFlume s f g) i = getFlume s i :=
  tabGet_tabMod_ne flumeInit s.flumes g n_

theorem getSub_modSub_self (k : Nat) (g : SubChan → SubChan) (w : tabWf subInit s.subs) : getSub (modSub s k g) k = g (getSub s k) :=
  tabGet_tabMod_self subInit s.subs k g w

theorem getSub_modSub_ne {k i : Nat} (g : SubChan → SubChan) (n_ : i ≠ k) : getSub (modSub s k g) i = getSub s i :=
  tabGet_tabMod_ne subInit s.subs g n_

theorem getBay_modBay_self (k : Nat) (g : Bay → Bay) (w : tabWf bayInit s.bays) : getBay (modBay s k g) k = g (getBay s k) :=
  tabGet_tabMod_self bayInit s.bays k g w

theorem getBay_modBay_ne {k i : Nat} (g : Bay → Bay) (n_ : i ≠ k) : getBay (modBay s k g) i = getBay s i :=
  tabGet_tabMod_ne bayInit s.bays g n_

theorem getBank_modBank_self (k : Nat) (g : Bank → Bank) (w : tabWf bankInit s.banks) : getBank (modBank s k g) k = g (getBank s k) :=
  tabGet_tabMod_self bankInit s.banks k g w

theorem getBank_modBank_ne {k i : Nat} (g : Bank → Bank) (n_ : i ≠ k) : getBank (modBank s k g) i = getBank s i :=
  tabGet_tabMod_ne bankInit s.banks g n_

theorem getHead_modHead_self (h : Nat) (g : Head → Head) (w : tabWf headInit s.heads) : getHead (modHead s h g) h = g (getHead s h) :=
  tabGet_tabMod_self headInit s.heads h g w

theorem getHead_modHead_ne {h i : Nat} (g : Head → Head) (n_ : i ≠ h) : getHead (modHead s h g) i = getHead s i :=
  tabGet_tabMod_ne headInit s.heads g n_

theorem getPair_modPair_self (n : Nat) (g : Pair → Pair) (w : tabWf pairInit s.pairs) : getPair (modPair s n g) n = g (getPair s n) :=
  tabGet_tabMod_self pairInit s.pairs n g w

theorem getPair_modPair_ne {n i : Nat} (g : Pair → Pair) (n_ : i ≠ n) : getPair (modPair s n g) i = getPair s i :=
  tabGet_tabMod_ne pairInit s.pairs g n_

theorem getMill_modMill_self (m : Nat) (g : Mill → Mill) (w : tabWf millInit s.mills) : getMill (modMill s m g) m = g (getMill s m) :=
  tabGet_tabMod_self millInit s.mills m g w

theorem getMill_modMill_ne {m i : Nat} (g : Mill → Mill) (n_ : i ≠ m) : getMill (modMill s m g) i = getMill s i :=
  tabGet_tabMod_ne millInit s.mills g n_

theorem getLane_modLane_self (l : Nat) (g : Lane → Lane) (w : tabWf laneInit s.lanes) : getLane (modLane s l g) l = g (getLane s l) :=
  tabGet_tabMod_self laneInit s.lanes l g w

theorem getLane_modLane_ne {l i : Nat} (g : Lane → Lane) (n_ : i ≠ l) : getLane (modLane s l g) i = getLane s i :=
  tabGet_tabMod_ne laneInit s.lanes g n_

theorem getDesc_putDesc_self (d : Nat) (x : Option Desc) (w : tabWf none s.descs) : getDesc (putDesc s d x) d = x :=
  tabGet_tabSet_self none s.descs d x w

theorem getDesc_putDesc_ne {d i : Nat} (x : Option Desc) (n_ : i ≠ d) : getDesc (putDesc s d x) i = getDesc s i :=
  tabGet_tabSet_ne none s.descs x n_

theorem getDesc_modDesc_self (d : Nat) (g : Desc → Desc) (w : tabWf none s.descs) : getDesc (modDesc s d g) d = (getDesc s d).map g :=
  getDesc_putDesc_self s d _ w

theorem getDesc_modDesc_ne {d i : Nat} (g : Desc → Desc) (n_ : i ≠ d) : getDesc (modDesc s d g) i = getDesc s i :=
  getDesc_putDesc_ne s _ n_

theorem getPart_putPart_self (d : Nat) (x : Option Part) (w : tabWf none s.parts) : getPart (putPart s d x) d = x :=
  tabGet_tabSet_self none s.parts d x w

theorem getPart_putPart_ne {d i : Nat} (x : Option Part) (n_ : i ≠ d) : getPart (putPart s d x) i = getPart s i :=
  tabGet_tabSet_ne none s.parts x n_

theorem getPart_modPart_self (d : Nat) (g : Part → Part) (w : tabWf none s.parts) : getPart (modPart s d g) d = (getPart s d).map g :=
  getPart_putPart_self s d _ w

theorem getPart_modPart_ne {d i : Nat} (g : Part → Part) (n_ : i ≠ d) : getPart (modPart s d g) i = getPart s i :=
  getPart_putPart_ne s _ n_

theorem getSource_modSource_self (k : Nat) (g : Source → Source) (w : tabWf sourceInit s.flt.sources) :
    getSource (modSource s k g) k = g (getSource s k) := tabGet_tabMod_self sourceInit s.flt.sources k g w

theorem getSource_modSource_ne {k i : Nat} (g : Source → Source) (n_ : i ≠ k) : getSource (modSource s k g) i = getSource s i :=
  tabGet_tabMod_ne sourceInit s.flt.sources g n_

theorem getPort_modPort_self (k : Nat) (g : Port → Port) (w : tabWf portInit s.leat.ports) :
    getPort (modPort s k g) k = g (getPort s k) := tabGet_tabMod_self portInit s.leat.ports k g w

theorem getPort_modPort_ne {k i : Nat} (g : Port → Port) (n_ : i ≠ k) : getPort (modPort s k g) i = getPort s i :=
  tabGet_tabMod_ne portInit s.leat.ports g n_

end Sys2Proof.Machine
end

