-- ==== Sys2Proof/Laws/Keeps.lean ====
section
/-! SUPPORT. What every operation on the state keeps: the queue and the clock, what has been sent, the canonical form of the
arrays, and the fuse bits that are set. -/

set_option Elab.async false

namespace Sys2Proof.Machine

/-- What no command's meaning breaks. -/
structure Keeps (s t : State) : Prop where
  pending : t.pending = s.pending
  now : t.now = s.now
  out : s.out <+: t.out
  wf : s.wf → t.wf ∧ FuseGrow s.fuses t.fuses

theorem FuseGrow.refl (u : Fuses) : FuseGrow u u := ⟨fun _ => BitVec.and_self, fun _ => BitVec.and_self, fun _ => BitVec.and_self⟩

theorem and_trans_eq {w : Nat} {a b c : BitVec w} (h : a &&& b = a) (k : b &&& c = b) : a &&& c = a := by
  rw [← h, BitVec.and_assoc, k]

theorem FuseGrow.trans {u v w : Fuses} (h : FuseGrow u v) (k : FuseGrow v w) : FuseGrow u w :=
  ⟨fun r => and_trans_eq (h.normal r) (k.normal r), fun r => and_trans_eq (h.high r) (k.high r), fun r => and_trans_eq (h.low r) (k.low r)⟩

theorem Keeps.refl (s : State) : Keeps s s := ⟨rfl, rfl, List.prefix_refl _, fun w => ⟨w, .refl _⟩⟩

theorem Keeps.trans {s t v : State} (h : Keeps s t) (k : Keeps t v) : Keeps s v where
  pending := k.pending.trans h.pending
  now := k.now.trans h.now
  out := h.out.trans k.out
  wf := fun w => ⟨(k.wf (h.wf w).1).1, (h.wf w).2.trans (k.wf (h.wf w).1).2⟩

variable {u s : State}

/-- A change of nothing that is tracked. -/
theorem Keeps.raw {fr lo : Nat} {br : List Nat} {nd np : Nat} {ps : List Nat} {rr : Nat} {le : Leat} {ta : Tally} {fu : Fuses}
    {fl : Collector} {ac : Access} {th : Thermal} {pw : Power} {bi : Bist} {bo : Boot} {si : Sideband}
    (h : Keeps u s) (e1 : le.ports = s.leat.ports) (e2 : ta.brake = s.tally.brake) (e3 : fu.normal = s.fuses.normal)
    (e4 : fu.high = s.fuses.high) (e5 : fu.low = s.fuses.low) (e6 : fl.sources = s.flt.sources) (e7 : ac.posted = s.acc.posted)
    (e8 : ac.mailboxes = s.acc.mailboxes) :
    Keeps u ⟨s.now, s.pending, s.out, fr, s.regs, s.mem, lo, s.flumes, s.subs, s.bays, s.banks, s.regions, br, s.heads, s.pairs,
      s.descs, nd, s.parts, np, ps, rr, s.grants, s.mills, s.lanes, le, ta, fu, fl, ac, th, pw, bi, bo, si⟩ where
  pending := h.pending
  now := h.now
  out := h.out
  wf := fun w => by
    obtain ⟨⟨q1, q2, q3, q4, q5, q6, q7, q8, q9, q10, q11, q12, q13, qg, q14, q15, q16, q17, q18, q19, q20, q21⟩, g⟩ := h.wf w
    refine ⟨⟨q1, q2, q3, q4, q5, q6, q7, q8, q9, q10, q11, q12, q13, qg, ?_, ?_, ?_, ?_, ?_, ?_, ?_, ?_⟩, ?_⟩
    · exact e1 ▸ q14
    · exact e6 ▸ q15
    · exact e7 ▸ q16
    · exact e8 ▸ q17
    · exact e3 ▸ q18
    · exact e4 ▸ q19
    · exact e5 ▸ q20
    · exact e2 ▸ q21
    · exact ⟨fun r => e3 ▸ g.normal r, fun r => e4 ▸ g.high r, fun r => e5 ▸ g.low r⟩

/-- A change of what is tracked, from a state to one. -/
theorem Keeps.upd {t : State} (h : Keeps u s) (e1 : t.pending = s.pending) (e2 : t.now = s.now) (e3 : s.out <+: t.out)
    (e4 : t.fuses = s.fuses) (e5 : s.wf → t.wf) : Keeps u t :=
  h.trans ⟨e1, e2, e3, fun w => ⟨e5 w, e4 ▸ .refl _⟩⟩

theorem Keeps.ite {c : Prop} [Decidable c] {a b : State} (ha : Keeps u a) (hb : Keeps u b) : Keeps u (if c then a else b) := by
  split
  · exact ha
  · exact hb

theorem Keeps.foldl {α : Type} {f : State → α → State} (l : List α) : ∀ {s : State}, Keeps u s →
    (∀ t x, Keeps u t → Keeps u (f t x)) → Keeps u (l.foldl f s) := by
  induction l with
  | nil => exact fun h _ => h
  | cons x l ih => exact fun h hf => ih (hf _ x h) hf

theorem forAll_keeps {ks : List Nat} {g : State → Nat → State} (h : Keeps u s) (hg : ∀ t k, Keeps u t → Keeps u (g t k)) :
    Keeps u (forAll s ks g) := Keeps.foldl ks h hg

/-- A fold over a pair whose second part is the state. -/
theorem Keeps.foldl_snd {α β : Type} {f : β × State → α → β × State} (l : List α) : ∀ {a : β × State}, Keeps u a.2 →
    (∀ t x, Keeps u t.2 → Keeps u (f t x).2) → Keeps u (l.foldl f a).2 := by
  induction l with
  | nil => exact fun h _ => h
  | cons x l ih => exact fun h hf => ih (hf _ x h) hf

theorem Keeps.foldl_snd2 {α β γ : Type} {f : β × γ × State → α → β × γ × State} (l : List α) : ∀ {a : β × γ × State}, Keeps u a.2.2 →
    (∀ t x, Keeps u t.2.2 → Keeps u (f t x).2.2) → Keeps u (l.foldl f a).2.2 := by
  induction l with
  | nil => exact fun h _ => h
  | cons x l ih => exact fun h hf => ih (hf _ x h) hf

theorem Keeps.foldl_fst {α β : Type} {f : State × β → α → State × β} (l : List α) : ∀ {a : State × β}, Keeps u a.1 →
    (∀ t x, Keeps u t.1 → Keeps u (f t x).1) → Keeps u (l.foldl f a).1 := by
  induction l with
  | nil => exact fun h _ => h
  | cons x l ih => exact fun h hf => ih (hf _ x h) hf

theorem Keeps.ite_fst {β : Type} {c : Prop} [Decidable c] {a b : State × β} (ha : Keeps u a.1) (hb : Keeps u b.1) :
    Keeps u (if c then a else b).1 := by
  split
  · exact ha
  · exact hb

theorem Keeps.snd {α : Type} {p : α × State} {a : α} {t : State} (e : p = (a, t)) (h : Keeps u p.2) : Keeps u t := by
  subst e; exact h

/-- A meaning answers a next state that keeps what every operation keeps. -/
def Runs (s : State) (a : Answer) : Prop := ∃ t, a = .next t ∧ Keeps s t

theorem Runs.next {s t : State} (h : Keeps s t) : Runs s (.next t) := ⟨t, rfl, h⟩

theorem Runs.onElement {s : State} {ok : Bool} {k : Answer} (e : ok = true) (h : Runs s k) : Runs s (onElement ok k) := by
  subst e; exact h

theorem Runs.ite {s : State} {c : Prop} [Decidable c] {a b : Answer} (ha : Runs s a) (hb : Runs s b) : Runs s (if c then a else b) := by
  split
  · exact ha
  · exact hb

/-! The updates of the arrays. -/

theorem modFlume_keeps {f : Nat} {g : Flume → Flume} (h : Keeps u s) : Keeps u (modFlume s f g) :=
  h.upd rfl rfl (List.prefix_refl _) rfl fun w => { w with flumes := tabWf_tabMod _ _ _ _ w.flumes }

theorem modSub_keeps {k : Nat} {g : SubChan → SubChan} (h : Keeps u s) : Keeps u (modSub s k g) :=
  h.upd rfl rfl (List.prefix_refl _) rfl fun w => { w with subs := tabWf_tabMod _ _ _ _ w.subs }

theorem modBay_keeps {k : Nat} {g : Bay → Bay} (h : Keeps u s) : Keeps u (modBay s k g) :=
  h.upd rfl rfl (List.prefix_refl _) rfl fun w => { w with bays := tabWf_tabMod _ _ _ _ w.bays }

theorem modBank_keeps {k : Nat} {g : Bank → Bank} (h : Keeps u s) : Keeps u (modBank s k g) :=
  h.upd rfl rfl (List.prefix_refl _) rfl fun w => { w with banks := tabWf_tabMod _ _ _ _ w.banks }

theorem modHead_keeps {k : Nat} {g : Head → Head} (h : Keeps u s) : Keeps u (modHead s k g) :=
  h.upd rfl rfl (List.prefix_refl _) rfl fun w => { w with heads := tabWf_tabMod _ _ _ _ w.heads }

theorem modPair_keeps {k : Nat} {g : Pair → Pair} (h : Keeps u s) : Keeps u (modPair s k g) :=
  h.upd rfl rfl (List.prefix_refl _) rfl fun w => { w with pairs := tabWf_tabMod _ _ _ _ w.pairs }

theorem putDesc_keeps {d : Nat} {x : Option Desc} (h : Keeps u s) : Keeps u (putDesc s d x) :=
  h.upd rfl rfl (List.prefix_refl _) rfl fun w => { w with descs := tabWf_tabSet _ _ _ _ w.descs }

theorem modDesc_keeps {d : Nat} {g : Desc → Desc} (h : Keeps u s) : Keeps u (modDesc s d g) := putDesc_keeps h

theorem putPart_keeps {p : Nat} {x : Option Part} (h : Keeps u s) : Keeps u (putPart s p x) :=
  h.upd rfl rfl (List.prefix_refl _) rfl fun w => { w with parts := tabWf_tabSet _ _ _ _ w.parts }

theorem modPart_keeps {p : Nat} {g : Part → Part} (h : Keeps u s) : Keeps u (modPart s p g) := putPart_keeps h

theorem modMill_keeps {k : Nat} {g : Mill → Mill} (h : Keeps u s) : Keeps u (modMill s k g) :=
  h.upd rfl rfl (List.prefix_refl _) rfl fun w => { w with mills := tabWf_tabMod _ _ _ _ w.mills }

theorem modLane_keeps {k : Nat} {g : Lane → Lane} (h : Keeps u s) : Keeps u (modLane s k g) :=
  h.upd rfl rfl (List.prefix_refl _) rfl fun w => { w with lanes := tabWf_tabMod _ _ _ _ w.lanes }

/-- A change of the pair's state keeps what its ports' table keeps. -/
theorem modLeat_keeps' {g : Leat → Leat} (h : Keeps u s) (hg : ∀ l, tabWf portInit l.ports → tabWf portInit (g l).ports) :
    Keeps u (modLeat s g) :=
  h.upd rfl rfl (List.prefix_refl _) rfl fun w => { w with ports := hg _ w.ports }

theorem modLeat_keeps {g : Leat → Leat} (h : Keeps u s) (hg : ∀ l, (g l).ports = l.ports) : Keeps u (modLeat s g) :=
  modLeat_keeps' h fun l w => by rw [hg l]; exact w

theorem modPort_keeps {k : Nat} {g : Port → Port} (h : Keeps u s) : Keeps u (modPort s k g) :=
  modLeat_keeps' h fun _ w => tabWf_tabMod _ _ _ _ w

theorem modSource_keeps {k : Nat} {g : Source → Source} (h : Keeps u s) : Keeps u (modSource s k g) :=
  h.upd rfl rfl (List.prefix_refl _) rfl fun w => { w with sources := tabWf_tabMod _ _ _ _ w.sources }

theorem emit_keeps {o : Out} (h : Keeps u s) : Keeps u (emit s o) :=
  h.upd rfl rfl (List.prefix_append _ _) rfl fun w => { w with }

theorem bumpFree_keeps (h : Keeps u s) : Keeps u (bumpFree s) :=
  h.upd rfl rfl (List.prefix_refl _) rfl fun w => { w with }

theorem setCells_keeps {k v : Nat} (h : Keeps u s) : Keeps u (setCells s k v) :=
  h.upd rfl rfl (List.prefix_refl _) rfl fun w => { w with mem := Memory.wf_memWrite _ _ _ _ w.mem }

theorem regsWf_set (t : Tab Word) (off : Nat) (v : Word) (h : regsWf t) : regsWf (tabSet (regReset off) t off v) := by
  unfold tabSet
  split
  · refine ⟨pairwise_tabDel t off h.1, fun e he => h.2 e (mem_tabDel he)⟩
  · next hv =>
    refine ⟨pairwise_tabPut t off v h.1, fun e he => ?_⟩
    rcases mem_tabPut he with rfl | he
    · exact hv
    · exact h.2 e he

theorem regSet_keeps {off : Nat} {v : Word} (h : Keeps u s) : Keeps u (regSet s off v) :=
  h.upd rfl rfl (List.prefix_refl _) rfl fun w => { w with regs := regsWf_set _ _ _ w.regs }

end Sys2Proof.Machine
end

