-- ==== Sys2Proof/Laws/Burn.lean ====
section
/-! SUPPORT. Fuse bits are set and never cleared (13_fuses.md): every operation on the fuse array. -/

set_option Elab.async false

namespace Sys2Proof.Machine

/-- The three margins are in canonical form. -/
structure fusesWf (u : Fuses) : Prop where
  normal : tabWf (0 : BitVec 256) u.normal
  high : tabWf (0 : BitVec 256) u.high
  low : tabWf (0 : BitVec 256) u.low

/-- What an operation on the fuse array keeps. -/
def FuseKeeps (u v : Fuses) : Prop := fusesWf u → fusesWf v ∧ FuseGrow u v

theorem FuseKeeps.refl (u : Fuses) : FuseKeeps u u := fun w => ⟨w, .refl u⟩

theorem FuseKeeps.trans {u v w : Fuses} (h : FuseKeeps u v) (k : FuseKeeps v w) : FuseKeeps u w := fun q =>
  ⟨(k (h q).1).1, (h q).2.trans (k (h q).1).2⟩

/-- A change that leaves the three margins as they are. -/
theorem FuseKeeps.same {z u v : Fuses} (h : FuseKeeps z u) (a : v.normal = u.normal) (b : v.high = u.high) (c : v.low = u.low) :
    FuseKeeps z v :=
  h.trans fun q => ⟨⟨a ▸ q.normal, b ▸ q.high, c ▸ q.low⟩,
    ⟨fun _ => a ▸ BitVec.and_self, fun _ => b ▸ BitVec.and_self, fun _ => c ▸ BitVec.and_self⟩⟩

theorem and_or_self {n : Nat} (a b : BitVec n) : a &&& (a ||| b) = a := by
  ext i
  simp only [BitVec.getElem_and, BitVec.getElem_or]
  cases a[i] <;> simp

/-- Setting bits of a row clears none of any row. -/
theorem tabGet_or_row (t : Tab (BitVec 256)) (r : Nat) (v : BitVec 256) (h : tabWf (0 : BitVec 256) t) (k : Nat) :
    tabGet (0 : BitVec 256) t k &&& tabGet 0 (tabMod 0 t r fun x => x ||| v) k = tabGet 0 t k := by
  by_cases e : k = r
  · subst e; rw [tabGet_tabMod_self 0 t k _ h, and_or_self]
  · rw [tabGet_tabMod_ne 0 t _ e, BitVec.and_self]

variable {z : Fuses}

theorem setBits_keeps (u : Fuses) (r : Nat) (v1 v2 v3 : BitVec 256) (h : FuseKeeps z u) :
    FuseKeeps z { u with normal := tabMod 0 u.normal r (fun x => x ||| v1), high := tabMod 0 u.high r (fun x => x ||| v2),
                         low := tabMod 0 u.low r fun x => x ||| v3 } :=
  h.trans fun q => ⟨⟨tabWf_tabMod 0 u.normal r (fun x => x ||| v1) q.normal, tabWf_tabMod 0 u.high r (fun x => x ||| v2) q.high,
      tabWf_tabMod 0 u.low r (fun x => x ||| v3) q.low⟩,
    ⟨tabGet_or_row u.normal r v1 q.normal, tabGet_or_row u.high r v2 q.high, tabGet_or_row u.low r v3 q.low⟩⟩

theorem burnRow_keeps (env : FuseEnv) (b : Burn) (r want : Nat) (h : FuseKeeps z b.u) : FuseKeeps z (burnRow env b r want).1.u := by
  unfold burnRow
  dsimp only
  exact setBits_keeps b.u r _ _ _ h

theorem burnCopy_keeps (k v : Nat) (b : Burn) (c : Nat) (h : FuseKeeps z b.u) : FuseKeeps z (burnCopy k v b c).u := h.same rfl rfl rfl

theorem burnEntry_keeps (b : Burn) (k v : Nat) (h : FuseKeeps z b.u) : FuseKeeps z (burnEntry b k v).u :=
  burnCopy_keeps k v _ 2 (burnCopy_keeps k v _ 1 (burnCopy_keeps k v b 0 h))

theorem shadowWord_keeps (u : Fuses) (w : Nat) (h : FuseKeeps z u) : FuseKeeps z (shadowWord u w) := h.same rfl rfl rfl

theorem foldl_shadowWord_keeps (l : List Nat) : ∀ u : Fuses, FuseKeeps z u → FuseKeeps z (l.foldl shadowWord u) := by
  induction l with
  | nil => exact fun _ h => h
  | cons r l ih => exact fun u h => ih _ (shadowWord_keeps u r h)

theorem shadowRow_keeps (u : Fuses) (r : Nat) (h : FuseKeeps z u) : FuseKeeps z (shadowRow u r) := h.same rfl rfl rfl

theorem burnSpares_keeps (env : FuseEnv) (r want n : Nat) : ∀ b : Burn, FuseKeeps z b.u → ∀ q, burnSpares env r want n b = some q →
    FuseKeeps z q.u := by
  induction n with
  | zero => intro b _ q e; cases e
  | succ n ih =>
    intro b h q e
    unfold burnSpares at e
    dsimp only at e
    split at e
    · cases e
    · next k _ =>
      have hb := burnRow_keeps env (burnEntry { b with spares := b.spares + 1 } k (0x8000 + r)) (2048 + k) want
        (burnEntry_keeps { b with spares := b.spares + 1 } _ _ h)
      split at e
      · rw [← Option.some.inj e]; exact hb
      · refine ih _ ?_ q e
        exact burnEntry_keeps _ k 0x4000 hb

theorem programRow_keeps (env : FuseEnv) (b : Burn) (r data : Nat) (h : FuseKeeps z b.u) : FuseKeeps z (programRow env b r data).1.u := by
  have hb := burnRow_keeps env b (servingRow b.u r) (data ||| earlierContents b.u r) h
  unfold programRow
  dsimp only
  split
  · exact hb
  · split
    · next q e => exact burnSpares_keeps env r _ 64 _ hb q e
    · exact hb

theorem programWord_keeps (env : FuseEnv) (b : Burn) (w v : Nat) (h : FuseKeeps z b.u) : FuseKeeps z (programWord env b w v).1.u := by
  unfold programWord
  dsimp only
  repeat' split
  all_goals first
    | exact h
    | exact burnRow_keeps _ _ _ _ h

theorem programWords_keeps (env : FuseEnv) (l : List (Nat × Nat)) : ∀ b : Burn, FuseKeeps z b.u →
    FuseKeeps z (programWords env l b).1.u := by
  induction l with
  | nil => exact fun _ h => h
  | cons e l ih =>
    intro b h
    unfold programWords
    dsimp only
    split
    · exact ih _ (programWord_keeps _ _ _ _ h)
    · exact programWord_keeps _ _ _ _ h

theorem lockRegion_keeps (env : FuseEnv) (b : Burn) (j sl : Nat) (h : FuseKeeps z b.u) : FuseKeeps z (lockRegion env b j sl).1.u := by
  unfold lockRegion
  split
  · exact h
  · split
    · exact h
    · dsimp only
      split
      · exact (foldl_shadowWord_keeps _ _ (programWords_keeps _ _ _ h)).same rfl rfl rfl
      · exact programWords_keeps _ _ _ h

theorem makeIdentity_keeps (env : FuseEnv) (b : Burn) (h : FuseKeeps z b.u) : FuseKeeps z (makeIdentity env b).1.u := by
  unfold makeIdentity
  split
  · exact h
  · dsimp only
    repeat' split
    all_goals first
      | exact foldl_shadowWord_keeps _ _ (programWords_keeps _ _ ⟨b.u, _, _, _⟩ h)
      | exact programWords_keeps _ _ ⟨b.u, _, _, _⟩ h

theorem runFuseOp_keeps (env : FuseEnv) (b : Burn) (o : FuseOp) (h : FuseKeeps z b.u) : FuseKeeps z (runFuseOp env b o).1.u := by
  unfold runFuseOp
  split
  · dsimp only
    split
    · exact shadowRow_keeps _ _ (programRow_keeps _ _ _ _ h)
    · exact programRow_keeps _ _ _ _ h
  · dsimp only
    split
    · exact shadowWord_keeps _ _ (programWord_keeps _ _ _ _ h)
    · exact programWord_keeps _ _ _ _ h
  · exact lockRegion_keeps _ _ _ _ h
  · dsimp only
    split
    · exact shadowWord_keeps _ _ (programWord_keeps _ _ _ _ h)
    · exact programWord_keeps _ _ _ _ h
  · exact makeIdentity_keeps _ _ h

theorem runFuseOps_keeps (env : FuseEnv) (l : List FuseOp) : ∀ (b : Burn) (n : Nat), FuseKeeps z b.u →
    FuseKeeps z (runFuseOps env l b n).1.u := by
  induction l with
  | nil => exact fun _ _ h => h
  | cons o l ih =>
    intro b n h
    unfold runFuseOps
    dsimp only
    split
    · exact ih _ _ (runFuseOp_keeps _ _ _ h)
    · exact runFuseOp_keeps _ _ _ h

theorem healEntries_keeps (b : Burn) (h : FuseKeeps z b.u) : FuseKeeps z (healEntries b).u := by
  have hl : ∀ (l : List Nat) (v : Burn), FuseKeeps z v.u →
      FuseKeeps z (l.foldl (fun b k => burnEntry b k (redirEntry b.u 0 k)) v).u := by
    intro l
    induction l with
    | nil => exact fun _ k => k
    | cons r l ih => exact fun v k => ih _ (burnEntry_keeps _ _ _ k)
  exact hl _ b h

theorem takeShadow_keeps (u : Fuses) (h : FuseKeeps z u) : FuseKeeps z (takeShadow u) := by
  unfold takeShadow
  generalize List.foldl _ _ _ = t
  exact h.same rfl rfl rfl

theorem checkRegions_keeps (u : Fuses) (h : FuseKeeps z u) : FuseKeeps z (checkRegions u) := by
  unfold checkRegions
  dsimp only
  exact h.same rfl rfl rfl

/-- A state whose fuse array was changed by an operation on it. -/
theorem setFuses_keeps {w s : State} {u : Fuses} {t : Tally} {n : Nat} (h : Keeps w s) (hu : FuseKeeps s.fuses u)
    (ht : t.brake = s.tally.brake) : Keeps w { s with fuses := u, tally := t, freeCtr := n } :=
  h.trans ⟨rfl, rfl, List.prefix_refl _, fun q =>
    let r := hu ⟨q.normal, q.high, q.low⟩
    ⟨{ q with normal := r.1.normal, high := r.1.high, low := r.1.low, brake := by simpa [ht] using q.brake }, r.2⟩⟩

end Sys2Proof.Machine
end

