-- ==== Sys2Proof/Laws/KeepsRegs.lean ====
section
/-! SUPPORT. What the operations of Machine/Regs.lean keep. -/

set_option Elab.async false

namespace Sys2Proof.Machine

theorem regPut_keeps {z0 : State} (s : State) (off : Nat) (hi : Nat) (lo : Nat) (v : Nat) (h_ : Keeps z0 s) : Keeps z0 (regPut s off hi lo v) := by
  unfold regPut
  repeat' first
    | with_reducible assumption
    | with_reducible apply regSet_keeps
    | dsimp only

theorem scEvent_keeps {z0 : State} (s : State) (off : Nat) (f : Nat → Nat) (h_ : Keeps z0 s) : Keeps z0 (scEvent s off f) := by
  unfold scEvent
  repeat' first
    | with_reducible assumption
    | with_reducible apply regSet_keeps
    | dsimp only

theorem scClear_keeps {z0 : State} (s : State) (off : Nat) (clr : Nat) (v : Word) (h_ : Keeps z0 s) : Keeps z0 (scClear s off clr v) := by
  unfold scClear
  repeat' first
    | with_reducible assumption
    | with_reducible apply Keeps.ite
    | with_reducible apply regSet_keeps
    | split
    | dsimp only

end Sys2Proof.Machine
end

