-- ==== Sys2Proof/Laws/KeepsMap.lean ====
section
/-! SUPPORT. What the operations of Machine/Map.lean keep. -/

set_option Elab.async false

namespace Sys2Proof.Machine

theorem overtake_keeps {z0 : State} (s : State) (sub : Nat) (k : Nat) (h_ : Keeps z0 s) : Keeps z0 (overtake s sub k) := by
  unfold overtake
  repeat' first
    | with_reducible assumption
    | exact Eq.refl _
    | with_reducible apply Keeps.ite
    | with_reducible apply modSub_keeps
    | split
    | dsimp only

theorem setStored_keeps {z0 : State} (s : State) (p : Place) (v : Nat) (h_ : Keeps z0 s) : Keeps z0 (setStored s p v) := by
  unfold setStored
  repeat' first
    | with_reducible assumption
    | exact Eq.refl _
    | with_reducible apply modFlume_keeps
    | with_reducible apply setCells_keeps
    | with_reducible apply overtake_keeps
    | split
    | dsimp only

theorem writePlace_keeps {z0 : State} (s : State) (p : Place) (data : Nat) (md : Nat) (h_ : Keeps z0 s) : Keeps z0 (writePlace s p data md) := by
  unfold writePlace
  repeat' first
    | with_reducible assumption
    | with_reducible apply setStored_keeps
    | dsimp only

end Sys2Proof.Machine
end

