-- ==== Sys2Proof/Laws/KeepsFlags.lean ====
section
/-! SUPPORT. What the operations of Machine/Flags.lean keep. -/

set_option Elab.async false

namespace Sys2Proof.Machine

theorem sendMsix_keeps {z0 : State} (s : State) (h : Nat) (v : Nat) (h_ : Keeps z0 s) : Keeps z0 (sendMsix s h v) := by
  unfold sendMsix
  repeat' first
    | with_reducible assumption
    | exact Eq.refl _
    | with_reducible apply Keeps.ite
    | with_reducible apply emit_keeps
    | with_reducible apply modHead_keeps
    | split
    | dsimp only

theorem addEvents_keeps {z0 : State} (s : State) (g : Nat) (i : Nat) (sev : Nat) (h_ : Keeps z0 s) : Keeps z0 (addEvents s g i sev) := by
  unfold addEvents
  repeat' first
    | with_reducible assumption
    | intro _
    | exact Eq.refl _
    | with_reducible apply Keeps.ite
    | with_reducible apply modHead_keeps
    | with_reducible apply forAll_keeps
    | split
    | dsimp only

theorem latchMessages_keeps {z0 : State} (s : State) (sev : Nat) (h_ : Keeps z0 s) : Keeps z0 (latchMessages s sev) := by
  unfold latchMessages
  repeat' first
    | with_reducible assumption
    | intro _
    | with_reducible apply Keeps.ite
    | with_reducible apply sendMsix_keeps
    | with_reducible apply emit_keeps
    | with_reducible apply forAll_keeps
    | split
    | dsimp only

theorem latchSource_keeps {z0 : State} (s : State) (g : Nat) (i : Nat) (sev : Nat) (unit : Nat) (detail : Nat) (h_ : Keeps z0 s) : Keeps z0 (latchSource s g i sev unit detail) := by
  unfold latchSource
  repeat' first
    | with_reducible assumption
    | exact Eq.refl _
    | with_reducible apply Keeps.ite
    | with_reducible apply modSource_keeps
    | with_reducible apply latchMessages_keeps
    | with_reducible apply addEvents_keeps
    | split
    | dsimp only
    | with_reducible apply Keeps.raw

theorem countSource_keeps {z0 : State} (s : State) (g : Nat) (i : Nat) (h_ : Keeps z0 s) : Keeps z0 (countSource s g i) := by
  unfold countSource
  repeat' first
    | with_reducible assumption
    | exact Eq.refl _
    | with_reducible apply Keeps.ite
    | with_reducible apply modSource_keeps
    | split
    | dsimp only

theorem event_keeps {z0 : State} (s : State) (g : Nat) (i : Nat) (sev : Nat) (unit : Nat) (detail : Nat) (h_ : Keeps z0 s) : Keeps z0 (event s g i sev unit detail) := by
  unfold event
  repeat' first
    | with_reducible assumption
    | with_reducible apply Keeps.ite
    | with_reducible apply countSource_keeps
    | with_reducible apply latchSource_keeps
    | split
    | dsimp only

theorem setLine_keeps {z0 : State} (s : State) (g : Nat) (i : Nat) (on : Bool) (h_ : Keeps z0 s) : Keeps z0 (setLine s g i on) := by
  unfold setLine
  repeat' first
    | with_reducible assumption
    | exact Eq.refl _
    | with_reducible apply Keeps.ite
    | with_reducible apply modSource_keeps
    | split
    | dsimp only

theorem accessFault_keeps {z0 : State} (s : State) (path : Nat) (kind : Nat) (off : Nat) (h_ : Keeps z0 s) : Keeps z0 (accessFault s path kind off) := by
  unfold accessFault
  repeat' first
    | with_reducible assumption
    | exact Eq.refl _
    | with_reducible apply scEvent_keeps
    | with_reducible apply event_keeps
    | dsimp only
    | with_reducible apply Keeps.raw

theorem dmaOut_keeps {z0 : State} (a0_ : Nat) : ∀ (a1_ : State) (a2_ : Nat) (a3_ : Nat) (a4_ : List Byte) (a5_ : Bool), Keeps z0 a1_ → Keeps z0 (dmaOut a0_ a1_ a2_ a3_ a4_ a5_) := by
  induction a0_ with
  | zero =>
    intro a1_ a2_ a3_ a4_ a5_ h_
    unfold dmaOut
    repeat' first
      | with_reducible assumption
      | with_reducible apply Keeps.ite
      | with_reducible apply emit_keeps
      | split
      | dsimp only
  | succ k_ ih_ =>
    intro a1_ a2_ a3_ a4_ a5_ h_
    unfold dmaOut
    repeat' first
      | with_reducible assumption
      | with_reducible apply ih_
      | with_reducible apply Keeps.ite
      | with_reducible apply emit_keeps
      | split
      | dsimp only

theorem aerLog_keeps {z0 : State} (s : State) (h : Nat) (b : Nat) (fatal : Bool) (h_ : Keeps z0 s) : Keeps z0 (aerLog s h b fatal) := by
  unfold aerLog
  repeat' first
    | with_reducible assumption
    | exact Eq.refl _
    | with_reducible apply Keeps.ite
    | with_reducible apply modHead_keeps
    | with_reducible apply emit_keeps
    | split
    | dsimp only

theorem tlpFault_keeps {z0 : State} (s : State) (h : Nat) (e : TlpError) (h_ : Keeps z0 s) : Keeps z0 (tlpFault s h e) := by
  unfold tlpFault
  repeat' first
    | with_reducible assumption
    | exact Eq.refl _
    | with_reducible apply aerLog_keeps
    | with_reducible apply event_keeps
    | split
    | dsimp only

theorem returnCredits_keeps {z0 : State} (s : State) (h : Nat) (h_ : Keeps z0 s) : Keeps z0 (returnCredits s h) := by
  unfold returnCredits
  repeat' first
    | with_reducible assumption
    | exact Eq.refl _
    | with_reducible apply Keeps.ite
    | with_reducible apply modHead_keeps
    | split
    | dsimp only

theorem freeCredit_keeps {z0 : State} (s : State) (h : Nat) (write : Bool) (h_ : Keeps z0 s) : Keeps z0 (freeCredit s h write) := by
  unfold freeCredit
  repeat' first
    | with_reducible assumption
    | exact Eq.refl _
    | with_reducible apply Keeps.ite
    | with_reducible apply returnCredits_keeps
    | with_reducible apply modHead_keeps
    | split
    | dsimp only

theorem takeCredit_keeps {z0 : State} (s : State) (h : Nat) (write : Bool) (h_ : Keeps z0 s) : Keeps z0 (takeCredit s h write) := by
  unfold takeCredit
  repeat' first
    | with_reducible assumption
    | exact Eq.refl _
    | with_reducible apply Keeps.ite
    | with_reducible apply modHead_keeps
    | split
    | dsimp only

theorem sendS2m_keeps {z0 : State} (s : State) (h : Nat) (m : S2M) (h_ : Keeps z0 s) : Keeps z0 (sendS2m s h m) := by
  unfold sendS2m
  repeat' first
    | with_reducible assumption
    | exact Eq.refl _
    | with_reducible apply emit_keeps
    | with_reducible apply modHead_keeps
    | dsimp only

theorem holdS2m_keeps {z0 : State} (s : State) (h : Nat) (m : S2M) (h_ : Keeps z0 s) : Keeps z0 (holdS2m s h m) := by
  unfold holdS2m
  repeat' first
    | with_reducible assumption
    | exact Eq.refl _
    | with_reducible apply Keeps.ite
    | with_reducible apply modHead_keeps
    | split
    | dsimp only

theorem respond_keeps {z0 : State} (s : State) (h : Nat) (m : S2M) (h_ : Keeps z0 s) : Keeps z0 (respond s h m) := by
  unfold respond
  repeat' first
    | with_reducible assumption
    | with_reducible apply Keeps.ite
    | with_reducible apply sendS2m_keeps
    | with_reducible apply holdS2m_keeps
    | split
    | dsimp only

theorem drainResponses_keeps {z0 : State} (ms : List S2M) (s : State) (h : Nat) (h_ : Keeps z0 s) : Keeps z0 (drainResponses ms s h) := by
  unfold drainResponses
  repeat' first
    | with_reducible assumption
    | intro _
    | with_reducible apply respond_keeps
    | with_reducible apply Keeps.foldl
    | with_reducible apply Keeps.foldl_snd2
    | with_reducible apply Keeps.foldl_snd
    | with_reducible apply Keeps.foldl_fst
    | dsimp only

theorem answerRead_keeps {z0 : State} (s : State) (h : Nat) (tag : Nat) (data : Nat) (poison : Bool) (md : Option Nat) (h_ : Keeps z0 s) : Keeps z0 (answerRead s h tag data poison md) := by
  unfold answerRead
  repeat' first
    | with_reducible assumption
    | with_reducible apply respond_keeps
    | dsimp only

theorem answerWrite_keeps {z0 : State} (s : State) (h : Nat) (tag : Nat) (h_ : Keeps z0 s) : Keeps z0 (answerWrite s h tag) := by
  unfold answerWrite
  repeat' first
    | with_reducible assumption
    | with_reducible apply respond_keeps
    | dsimp only

theorem bumpTotal_keeps {z0 : State} (s : State) (f : Nat) (i : Nat) (h_ : Keeps z0 s) : Keeps z0 (bumpTotal s f i) := by
  unfold bumpTotal
  repeat' first
    | with_reducible assumption
    | exact Eq.refl _
    | with_reducible apply modFlume_keeps
    | dsimp only

theorem addTotal_keeps {z0 : State} (s : State) (f : Nat) (i : Nat) (n : Nat) (h_ : Keeps z0 s) : Keeps z0 (addTotal s f i n) := by
  unfold addTotal
  repeat' first
    | with_reducible assumption
    | exact Eq.refl _
    | with_reducible apply modFlume_keeps
    | dsimp only

end Sys2Proof.Machine
end

