-- ==== Sys2Proof/Laws/KeepsSweep.lean ====
section
/-! SUPPORT. What the operations of Machine/Sweep.lean keep. -/

set_option Elab.async false

namespace Sys2Proof.Machine



end Sys2Proof.Machine
end

