-- ==== Sys2Proof/Laws/KeepsTally.lean ====
section
/-! SUPPORT. What the operations of Machine/Tally.lean keep. -/

set_option Elab.async false

namespace Sys2Proof.Machine

theorem tallyFail_keeps {z0 : State} (s : State) (area : Nat) (h_ : Keeps z0 s) : Keeps z0 (tallyFail s area) := by
  unfold tallyFail
  repeat' first
    | with_reducible assumption
    | with_reducible apply event_keeps
    | with_reducible apply scEvent_keeps
    | dsimp only

theorem checkFail_keeps {z0 : State} (s : State) (area : Nat) (h_ : Keeps z0 s) : Keeps z0 (checkFail s area) := by
  unfold checkFail
  repeat' first
    | with_reducible assumption
    | with_reducible apply event_keeps
    | with_reducible apply scEvent_keeps
    | dsimp only

theorem checkCopies_keeps {z0 : State} {α : Type} (area : Nat) (s : State) (c : Option (Copies α)) (h_ : Keeps z0 s) : Keeps z0 (checkCopies area s c) := by
  unfold checkCopies
  repeat' first
    | with_reducible assumption
    | intro _
    | exact Eq.refl _
    | with_reducible apply Keeps.ite
    | with_reducible apply checkFail_keeps
    | with_reducible apply forAll_keeps
    | split
    | dsimp only

theorem putLife_keeps {z0 : State} (s : State) (l : LifeRec) (h_ : Keeps z0 s) : Keeps z0 (putLife s l) := by
  unfold putLife
  repeat' first
    | with_reducible assumption
    | exact Eq.refl _
    | dsimp only
    | with_reducible apply Keeps.raw

end Sys2Proof.Machine
end

