-- ==== Sys2Proof/Laws/KeepsServe.lean ====
section
/-! SUPPORT. What the operations of Machine/Serve.lean keep. -/

set_option Elab.async false

namespace Sys2Proof.Machine

theorem finishDesc_keeps {z0 : State} (s : State) (d : Nat) (r : Result) (h_ : Keeps z0 s) : Keeps z0 (finishDesc s d r) := by
  unfold finishDesc
  repeat' first
    | with_reducible assumption
    | exact Eq.refl _
    | with_reducible apply modDesc_keeps
    | dsimp only

theorem finishWrite_keeps {z0 : State} (s : State) (dest : ReqFor) (h_ : Keeps z0 s) : Keeps z0 (finishWrite s dest) := by
  unfold finishWrite
  repeat' first
    | with_reducible assumption
    | exact Eq.refl _
    | with_reducible apply answerWrite_keeps
    | split
    | dsimp only

theorem completeRead_keeps {z0 : State} (s : State) (r : Req) (f : Nat) (data : Nat) (md : Nat) (poison : Bool) (h_ : Keeps z0 s) : Keeps z0 (completeRead s r f data md poison) := by
  unfold completeRead
  repeat' first
    | with_reducible assumption
    | exact Eq.refl _
    | with_reducible apply Keeps.ite
    | with_reducible apply bumpTotal_keeps
    | with_reducible apply answerRead_keeps
    | split
    | dsimp only

theorem grantTo_keeps {z0 : State} (s : State) (f m : Nat) (h_ : Keeps z0 s) : Keeps z0 (grantTo s f m) := by
  unfold grantTo
  split
  · exact h_
  · exact h_.upd rfl rfl (List.prefix_refl _) rfl fun w => { w with grants := tabWf_tabSet _ _ _ _ w.grants }

theorem regionCheck_keeps {z0 : State} (s : State) (i : Nat) (ecc : EccCheck) (h_ : Keeps z0 s) : Keeps z0 (regionCheck s i ecc) := by
  unfold regionCheck
  repeat' first
    | with_reducible assumption
    | exact Eq.refl _
    | with_reducible apply event_keeps
    | split
    | dsimp only
    | with_reducible apply Keeps.raw

theorem lookups_keeps {z0 : State} (s : State) (env : OpEnv) (h_ : Keeps z0 s) : Keeps z0 (lookups s env) := by
  unfold lookups
  repeat' first
    | with_reducible assumption
    | intro _
    | with_reducible apply Keeps.ite
    | with_reducible apply regionCheck_keeps
    | with_reducible apply Keeps.foldl
    | with_reducible apply Keeps.foldl_snd2
    | with_reducible apply Keeps.foldl_snd
    | with_reducible apply Keeps.foldl_fst
    | split
    | dsimp only

theorem episodes_keeps {z0 : State} (s : State) (f : Nat) (h_ : Keeps z0 s) : Keeps z0 (episodes s f) := by
  unfold episodes
  repeat' first
    | with_reducible assumption
    | intro _
    | exact Eq.refl _
    | with_reducible apply Keeps.ite
    | with_reducible apply modFlume_keeps
    | with_reducible apply forAll_keeps
    | split
    | dsimp only

theorem updateWeir_keeps {z0 : State} (s : State) (f : Nat) (h_ : Keeps z0 s) : Keeps z0 (updateWeir s f) := by
  unfold updateWeir
  repeat' first
    | with_reducible assumption
    | intro _
    | with_reducible apply episodes_keeps
    | with_reducible apply returnCredits_keeps
    | with_reducible apply forAll_keeps
    | dsimp only

theorem noteIdle_keeps {z0 : State} (s : State) (f : Nat) (h_ : Keeps z0 s) : Keeps z0 (noteIdle s f) := by
  unfold noteIdle
  repeat' first
    | with_reducible assumption
    | exact Eq.refl _
    | with_reducible apply Keeps.ite
    | with_reducible apply modFlume_keeps
    | split
    | dsimp only

theorem dropReq_keeps {z0 : State} (s : State) (f : Nat) (id : Nat) (h_ : Keeps z0 s) : Keeps z0 (dropReq s f id) := by
  unfold dropReq
  repeat' first
    | with_reducible assumption
    | exact Eq.refl _
    | with_reducible apply modFlume_keeps
    | with_reducible apply noteIdle_keeps
    | with_reducible apply updateWeir_keeps
    | dsimp only

theorem bumpId_keeps {z0 : State} (s : State) (f : Nat) (h_ : Keeps z0 s) : Keeps z0 (bumpId s f) := by
  unfold bumpId
  repeat' first
    | with_reducible assumption
    | exact Eq.refl _
    | with_reducible apply modFlume_keeps
    | dsimp only

theorem putQueue_keeps {z0 : State} (s : State) (f : Nat) (r : Req) (h_ : Keeps z0 s) : Keeps z0 (putQueue s f r) := by
  unfold putQueue
  repeat' first
    | with_reducible assumption
    | exact Eq.refl _
    | with_reducible apply updateWeir_keeps
    | with_reducible apply modFlume_keeps
    | dsimp only

theorem enqueue_keeps {z0 : State} (s : State) (f : Nat) (r : Req) (h_ : Keeps z0 s) : Keeps z0 (enqueue s f r) := by
  unfold enqueue
  repeat' first
    | with_reducible assumption
    | with_reducible apply putQueue_keeps
    | with_reducible apply bumpId_keeps
    | dsimp only

theorem park_keeps {z0 : State} (s : State) (f : Nat) (r : Req) (h_ : Keeps z0 s) : Keeps z0 (park s f r) := by
  unfold park
  repeat' first
    | with_reducible assumption
    | exact Eq.refl _
    | with_reducible apply updateWeir_keeps
    | with_reducible apply modFlume_keeps
    | dsimp only

theorem voidWriteBacks_keeps {z0 : State} (s : State) (f : Nat) (line : Nat) (h_ : Keeps z0 s) : Keeps z0 (voidWriteBacks s f line) := by
  unfold voidWriteBacks
  repeat' first
    | with_reducible assumption
    | exact Eq.refl _
    | with_reducible apply Keeps.ite
    | with_reducible apply addTotal_keeps
    | with_reducible apply modFlume_keeps
    | split
    | dsimp only

theorem queueWriteBack_keeps {z0 : State} (s : State) (f : Nat) (line : Nat) (data : Nat) (md : Nat) (dpaLine : Nat) (region : Nat) (h_ : Keeps z0 s) : Keeps z0 (queueWriteBack s f line data md dpaLine region) := by
  unfold queueWriteBack
  repeat' first
    | with_reducible assumption
    | exact Eq.refl _
    | with_reducible apply Keeps.ite
    | with_reducible apply bumpTotal_keeps
    | with_reducible apply enqueue_keeps
    | with_reducible apply modFlume_keeps
    | split
    | dsimp only

theorem noRefetch_keeps {z0 : State} (s : State) (f : Nat) (line : Nat) (h_ : Keeps z0 s) : Keeps z0 (noRefetch s f line) := by
  unfold noRefetch
  repeat' first
    | with_reducible assumption
    | exact Eq.refl _
    | with_reducible apply Keeps.ite
    | with_reducible apply modFlume_keeps
    | split
    | dsimp only

theorem storeLine_keeps {z0 : State} (s : State) (f : Nat) (line : Nat) (data : Nat) (md : Option (BitVec 2)) (dirty : Bool) (poison : Bool) (inj : List Nat) (h_ : Keeps z0 s) : Keeps z0 (storeLine s f line data md dirty poison inj) := by
  unfold storeLine
  repeat' first
    | with_reducible assumption
    | exact Eq.refl _
    | with_reducible apply setStored_keeps
    | with_reducible apply noRefetch_keeps
    | split
    | dsimp only

theorem disarm_keeps {z0 : State} (s : State) (f : Nat) (r : Req) (h_ : Keeps z0 s) : Keeps z0 (disarm s f r) := by
  unfold disarm
  repeat' first
    | with_reducible assumption
    | with_reducible apply Keeps.ite
    | with_reducible apply regPut_keeps
    | split
    | dsimp only

end Sys2Proof.Machine
end

