-- ==== Sys2Proof/Laws/KeepsMirror.lean ====
section
/-! SUPPORT. What the operations of Machine/Mirror.lean keep. -/

set_option Elab.async false

namespace Sys2Proof.Machine

theorem putFlits_keeps {z0 : State} (s : State) (k : Nat) (m : LeatMsg) (h_ : Keeps z0 s) : Keeps z0 (putFlits s k m) := by
  unfold putFlits
  repeat' first
    | with_reducible assumption
    | exact Eq.refl _
    | with_reducible apply Keeps.ite
    | with_reducible apply modPort_keeps
    | with_reducible apply emit_keeps
    | split
    | dsimp only

theorem leatSend_keeps {z0 : State} (s : State) (m : LeatMsg) (h_ : Keeps z0 s) : Keeps z0 (leatSend s m) := by
  unfold leatSend
  repeat' first
    | with_reducible assumption
    | intro _
    | exact Eq.refl _
    | with_reducible apply Keeps.ite
    | with_reducible apply putFlits_keeps
    | with_reducible apply modLeat_keeps
    | split
    | dsimp only

theorem leatFlush_keeps {z0 : State} (s : State) (h_ : Keeps z0 s) : Keeps z0 (leatFlush s) := by
  unfold leatFlush
  repeat' first
    | with_reducible assumption
    | intro _
    | exact Eq.refl _
    | with_reducible apply leatSend_keeps
    | with_reducible apply modLeat_keeps
    | with_reducible apply Keeps.foldl
    | with_reducible apply Keeps.foldl_snd2
    | with_reducible apply Keeps.foldl_snd
    | with_reducible apply Keeps.foldl_fst
    | dsimp only

theorem leatOwn_keeps {z0 : State} (s : State) (k : Nat) (type : Nat) (slots : Nat) (pmask : Nat) (md : Nat) (data : List Byte) (h_ : Keeps z0 s) : Keeps z0 (leatOwn s k type slots pmask md data) := by
  unfold leatOwn
  repeat' first
    | with_reducible assumption
    | with_reducible apply Keeps.ite
    | with_reducible apply leatSend_keeps
    | split
    | dsimp only

theorem sendLink_keeps {z0 : State} (s : State) (k : Nat) (nak : Bool) (req : Nat) (rsp : Nat) (h_ : Keeps z0 s) : Keeps z0 (sendLink s k nak req rsp) := by
  unfold sendLink
  repeat' first
    | with_reducible assumption
    | with_reducible apply Keeps.ite
    | with_reducible apply leatOwn_keeps
    | split
    | dsimp only

theorem returnSlots_keeps {z0 : State} (s : State) (k : Nat) (n : Nat) (h_ : Keeps z0 s) : Keeps z0 (returnSlots s k n) := by
  unfold returnSlots
  repeat' first
    | with_reducible assumption
    | with_reducible apply sendLink_keeps
    | dsimp only

theorem sendAck_keeps {z0 : State} (s : State) (via : Nat) (cls : Nat) (tag : Nat) (stored : Bool) (h_ : Keeps z0 s) : Keeps z0 (sendAck s via cls tag stored) := by
  unfold sendAck
  repeat' first
    | with_reducible assumption
    | with_reducible apply leatSend_keeps
    | dsimp only

theorem sendState_keeps {z0 : State} (s : State) (kind : Nat) (line : Nat) (data : List Byte) (pages : Nat) (h_ : Keeps z0 s) : Keeps z0 (sendState s kind line data pages) := by
  unfold sendState
  repeat' first
    | with_reducible assumption
    | intro _
    | exact Eq.refl _
    | with_reducible apply Keeps.ite
    | with_reducible apply leatSend_keeps
    | with_reducible apply modLeat_keeps
    | split
    | dsimp only

theorem sendMirror_keeps {z0 : State} (s : State) (via : Nat) (cls : Nat) (tag : Nat) (line : Nat) (data : Nat) (cxl : Nat) (poison : Bool) (h_ : Keeps z0 s) : Keeps z0 (sendMirror s via cls tag line data cxl poison) := by
  unfold sendMirror
  repeat' first
    | with_reducible assumption
    | with_reducible apply Keeps.ite
    | with_reducible apply leatSend_keeps
    | split
    | dsimp only

theorem rewind_keeps {z0 : State} (s : State) (g : Nat) (h_ : Keeps z0 s) : Keeps z0 (rewind s g) := by
  unfold rewind
  repeat' first
    | with_reducible assumption
    | intro _
    | exact Eq.refl _
    | with_reducible apply Keeps.ite
    | with_reducible apply modDesc_keeps
    | with_reducible apply forAll_keeps
    | split
    | dsimp only

theorem setGranule_keeps {z0 : State} (s : State) (g : Nat) (h_ : Keeps z0 s) : Keeps z0 (setGranule s g) := by
  unfold setGranule
  repeat' first
    | with_reducible assumption
    | intro _
    | exact Eq.refl _
    | with_reducible apply rewind_keeps
    | with_reducible apply modLeat_keeps
    | dsimp only

theorem setWhole_keeps {z0 : State} (s : State) (g : Nat) (h_ : Keeps z0 s) : Keeps z0 (setWhole s g) := by
  unfold setWhole
  repeat' first
    | with_reducible assumption
    | intro _
    | exact Eq.refl _
    | with_reducible apply rewind_keeps
    | with_reducible apply modLeat_keeps
    | dsimp only

theorem clearGranules_keeps {z0 : State} (s : State) (gs : List Nat) (h_ : Keeps z0 s) : Keeps z0 (clearGranules s gs) := by
  unfold clearGranules
  repeat' first
    | with_reducible assumption
    | intro _
    | exact Eq.refl _
    | with_reducible apply modLeat_keeps
    | dsimp only

theorem mirrorNotice_keeps {z0 : State} (s : State) (h_ : Keeps z0 s) : Keeps z0 (mirrorNotice s) := by
  unfold mirrorNotice
  repeat' first
    | with_reducible assumption
    | with_reducible apply event_keeps
    | dsimp only

theorem markDirty_keeps {z0 : State} (s : State) (line : Nat) (h_ : Keeps z0 s) : Keeps z0 (markDirty s line) := by
  unfold markDirty
  repeat' first
    | with_reducible assumption
    | exact Eq.refl _
    | with_reducible apply Keeps.ite
    | with_reducible apply modFlume_keeps
    | with_reducible apply writePlace_keeps
    | split
    | dsimp only

theorem notStored_keeps {z0 : State} (s : State) (line : Nat) (h_ : Keeps z0 s) : Keeps z0 (notStored s line) := by
  unfold notStored
  repeat' first
    | with_reducible assumption
    | with_reducible apply markDirty_keeps
    | with_reducible apply setGranule_keeps
    | dsimp only

theorem mirrorDone_keeps {z0 : State} (s : State) (f : Nat) (id : Nat) (h_ : Keeps z0 s) : Keeps z0 (mirrorDone s f id) := by
  unfold mirrorDone
  repeat' first
    | with_reducible assumption
    | exact Eq.refl _
    | with_reducible apply modFlume_keeps
    | dsimp only

theorem makePond_keeps {z0 : State} (s : State) (region : Nat) (line : Nat) (data : Nat) (md : BitVec 2) (poison : Bool) (h_ : Keeps z0 s) : Keeps z0 (makePond s region line data md poison) := by
  unfold makePond
  repeat' first
    | with_reducible assumption
    | intro _
    | exact Eq.refl _
    | with_reducible apply modLeat_keeps
    | dsimp only

theorem mirrorLine_keeps {z0 : State} (s : State) (region : Nat) (f : Nat) (line : Nat) (data : Nat) (md : BitVec 2) (poison : Bool) (dest : ReqFor) (h_ : Keeps z0 s) : Keeps z0 (mirrorLine s region f line data md poison dest) := by
  unfold mirrorLine
  repeat' first
    | with_reducible assumption
    | intro _
    | exact Eq.refl _
    | with_reducible apply Keeps.ite
    | with_reducible apply finishWrite_keeps
    | with_reducible apply notStored_keeps
    | with_reducible apply sendMirror_keeps
    | with_reducible apply modLeat_keeps
    | with_reducible apply makePond_keeps
    | split
    | dsimp only

theorem tryMirror_keeps {z0 : State} (f : Nat) (s : State) (id : Nat) (h_ : Keeps z0 s) : Keeps z0 (tryMirror f s id) := by
  unfold tryMirror
  repeat' first
    | with_reducible assumption
    | exact Eq.refl _
    | with_reducible apply Keeps.ite
    | with_reducible apply mirrorDone_keeps
    | with_reducible apply mirrorLine_keeps
    | split
    | dsimp only

theorem mirrorStep_keeps {z0 : State} (s : State) (f : Nat) (h_ : Keeps z0 s) : Keeps z0 (mirrorStep s f) := by
  unfold mirrorStep
  repeat' first
    | with_reducible assumption
    | intro _
    | with_reducible apply tryMirror_keeps
    | with_reducible apply forAll_keeps
    | dsimp only

theorem mirrorAll_keeps {z0 : State} (s : State) (h_ : Keeps z0 s) : Keeps z0 (mirrorAll s) := by
  unfold mirrorAll
  repeat' first
    | with_reducible assumption
    | intro _
    | with_reducible apply mirrorStep_keeps
    | with_reducible apply forAll_keeps
    | dsimp only

theorem askPartner_keeps {z0 : State} (s : State) (f : Nat) (r : Req) (refetch : Bool) (store : Bool) (asRead : Nat) (mdRead : Nat) (h_ : Keeps z0 s) : Keeps z0 (askPartner s f r refetch store asRead mdRead) := by
  unfold askPartner
  repeat' first
    | with_reducible assumption
    | intro _
    | exact Eq.refl _
    | with_reducible apply leatSend_keeps
    | with_reducible apply modLeat_keeps
    | dsimp only

theorem requestCopy_keeps {z0 : State} (s : State) (f : Nat) (r : Req) (store : Bool) (asRead : Nat) (mdRead : Nat) (h_ : Keeps z0 s) : Keeps z0 (requestCopy s f r store asRead mdRead) := by
  unfold requestCopy
  repeat' first
    | with_reducible assumption
    | with_reducible apply askPartner_keeps
    | with_reducible apply park_keeps
    | dsimp only

theorem putMerged_keeps {z0 : State} (s : State) (f : Nat) (r : Req) (data : Nat) (poison : Bool) (h_ : Keeps z0 s) : Keeps z0 (putMerged s f r data poison) := by
  unfold putMerged
  repeat' first
    | with_reducible assumption
    | exact Eq.refl _
    | with_reducible apply dropReq_keeps
    | with_reducible apply mirrorStep_keeps
    | with_reducible apply updateWeir_keeps
    | with_reducible apply modFlume_keeps
    | dsimp only

theorem serveLost_keeps {z0 : State} (s0 : State) (f : Nat) (r : Req) (h_ : Keeps z0 s0) : Keeps z0 (serveLost s0 f r) := by
  unfold serveLost
  repeat' first
    | with_reducible assumption
    | exact Eq.refl _
    | with_reducible apply Keeps.ite
    | with_reducible apply dropReq_keeps
    | with_reducible apply completeRead_keeps
    | with_reducible apply bumpFree_keeps
    | with_reducible apply mirrorLine_keeps
    | split
    | dsimp only

theorem serveAway_keeps {z0 : State} (s : State) (f : Nat) (r : Req) (h_ : Keeps z0 s) : Keeps z0 (serveAway s f r) := by
  unfold serveAway
  repeat' first
    | with_reducible assumption
    | exact Eq.refl _
    | with_reducible apply Keeps.ite
    | with_reducible apply completeRead_keeps
    | with_reducible apply dropReq_keeps
    | with_reducible apply requestCopy_keeps
    | with_reducible apply serveLost_keeps
    | split
    | dsimp only

theorem copyFailed_keeps {z0 : State} (s : State) (c : CopyWait) (h_ : Keeps z0 s) : Keeps z0 (copyFailed s c) := by
  unfold copyFailed
  repeat' first
    | with_reducible assumption
    | exact Eq.refl _
    | with_reducible apply Keeps.ite
    | with_reducible apply mirrorNotice_keeps
    | with_reducible apply modFlume_keeps
    | with_reducible apply dropReq_keeps
    | with_reducible apply bumpTotal_keeps
    | with_reducible apply completeRead_keeps
    | with_reducible apply queueWriteBack_keeps
    | with_reducible apply putMerged_keeps
    | with_reducible apply serveLost_keeps
    | split
    | dsimp only

theorem refill_keeps {z0 : State} (s : State) (f : Nat) (line : Nat) (c : CopyLine) (h_ : Keeps z0 s) : Keeps z0 (refill s f line c) := by
  unfold refill
  repeat' first
    | with_reducible assumption
    | with_reducible apply storeLine_keeps
    | dsimp only

theorem copyArrived_keeps {z0 : State} (s : State) (c : CopyWait) (d : CopyLine) (h_ : Keeps z0 s) : Keeps z0 (copyArrived s c d) := by
  unfold copyArrived
  repeat' first
    | with_reducible assumption
    | exact Eq.refl _
    | with_reducible apply Keeps.ite
    | with_reducible apply refill_keeps
    | with_reducible apply modFlume_keeps
    | with_reducible apply completeRead_keeps
    | with_reducible apply dropReq_keeps
    | with_reducible apply putMerged_keeps
    | split
    | dsimp only

theorem markClean_keeps {z0 : State} (s0 : State) (f : Nat) (line : Nat) (h_ : Keeps z0 s0) : Keeps z0 (markClean s0 f line) := by
  unfold markClean
  repeat' first
    | with_reducible assumption
    | exact Eq.refl _
    | with_reducible apply Keeps.ite
    | with_reducible apply modFlume_keeps
    | with_reducible apply writePlace_keeps
    | split
    | dsimp only

theorem unpush_keeps {z0 : State} (s : State) (w : PushWait) (h_ : Keeps z0 s) : Keeps z0 (unpush s w) := by
  unfold unpush
  repeat' first
    | with_reducible assumption
    | intro _
    | with_reducible apply markDirty_keeps
    | with_reducible apply forAll_keeps
    | dsimp only

theorem dropLeatWork_keeps {u : State} (s0 : State) (h : Keeps u s0) : Keeps u (dropLeatWork s0) := by
  unfold dropLeatWork
  refine Keeps.foldl _ (modLeat_keeps' (Keeps.foldl _ h fun t x k => unpush_keeps t x k) fun l w => ?_) fun t x k => copyFailed_keeps t x k
  exact tabWf_tabModAll _ _ _ _ w

theorem dropMirrorWork_keeps {z0 : State} (s : State) (h_ : Keeps z0 s) : Keeps z0 (dropMirrorWork s) := by
  unfold dropMirrorWork
  repeat' first
    | with_reducible assumption
    | intro _
    | exact Eq.refl _
    | with_reducible apply modLeat_keeps
    | with_reducible apply finishWrite_keeps
    | with_reducible apply notStored_keeps
    | with_reducible apply Keeps.foldl
    | with_reducible apply Keeps.foldl_snd2
    | with_reducible apply Keeps.foldl_snd
    | with_reducible apply Keeps.foldl_fst
    | dsimp only

theorem setRegions_keeps {u s : State} {r : Tab (BitVec 128)} {b : List Nat} (h : Keeps u s) (hr : s.wf → tabWf (0 : BitVec 128) r) :
    Keeps u { s with regions := r, badRegions := b } :=
  h.upd rfl rfl (List.prefix_refl _) rfl fun w => { w with regions := hr w }

theorem setRole_keeps {u : State} (s : State) (mask : Nat) (secondary : Bool) (h : Keeps u s) : Keeps u (setRole s mask secondary) := by
  unfold setRole
  refine forAll_keeps h fun t k ht => ?_
  split
  · exact setRegions_keeps ht fun w => tabWf_tabSet _ _ _ _ w.regions
  · exact ht

theorem endLeatDesc_keeps {z0 : State} (s : State) (d : Nat) (h_ : Keeps z0 s) : Keeps z0 (endLeatDesc s d) := by
  unfold endLeatDesc
  repeat' first
    | with_reducible assumption
    | exact Eq.refl _
    | with_reducible apply Keeps.ite
    | with_reducible apply finishDesc_keeps
    | with_reducible apply setRole_keeps
    | split
    | dsimp only

theorem partnerLost_keeps {z0 : State} (s : State) (h_ : Keeps z0 s) : Keeps z0 (partnerLost s) := by
  unfold partnerLost
  repeat' first
    | with_reducible assumption
    | intro _
    | exact Eq.refl _
    | with_reducible apply Keeps.ite
    | with_reducible apply event_keeps
    | with_reducible apply scEvent_keeps
    | with_reducible apply modLeat_keeps
    | with_reducible apply dropLeatWork_keeps
    | with_reducible apply dropMirrorWork_keeps
    | with_reducible apply endLeatDesc_keeps
    | with_reducible apply mirrorAll_keeps
    | with_reducible apply forAll_keeps
    | split
    | dsimp only

end Sys2Proof.Machine
end

