-- ==== Sys2Proof/Laws/KeepsRepair.lean ====
section
/-! SUPPORT. What the operations of Machine/Repair.lean keep. -/

set_option Elab.async false

namespace Sys2Proof.Machine

theorem noteRepair_keeps {z0 : State} (s : State) (f : Nat) (e : Nat) (h_ : Keeps z0 s) : Keeps z0 (noteRepair s f e) := by
  unfold noteRepair
  repeat' first
    | with_reducible assumption
    | exact Eq.refl _
    | with_reducible apply modFlume_keeps
    | with_reducible apply scEvent_keeps
    | dsimp only
    | with_reducible apply Keeps.raw

theorem setRemap_keeps {z0 : State} (s : State) (f : Nat) (i : Nat) (e : Nat) (h_ : Keeps z0 s) : Keeps z0 (setRemap s f i e) := by
  unfold setRemap
  repeat' first
    | with_reducible assumption
    | exact Eq.refl _
    | with_reducible apply modFlume_keeps
    | dsimp only

theorem releaseRemap_keeps {z0 : State} (s : State) (f : Nat) (p : Nat → Bool) (h_ : Keeps z0 s) : Keeps z0 (releaseRemap s f p) := by
  unfold releaseRemap
  repeat' first
    | with_reducible assumption
    | intro _
    | with_reducible apply Keeps.ite
    | with_reducible apply setRemap_keeps
    | with_reducible apply forAll_keeps
    | split
    | dsimp only

theorem noteRemap_keeps {z0 : State} (s : State) (f : Nat) (h_ : Keeps z0 s) : Keeps z0 (noteRemap s f) := by
  unfold noteRemap
  repeat' first
    | with_reducible assumption
    | exact Eq.refl _
    | with_reducible apply scEvent_keeps
    | with_reducible apply bumpTotal_keeps
    | with_reducible apply event_keeps
    | dsimp only
    | with_reducible apply Keeps.raw

theorem withdrawPool_keeps {z0 : State} (s : State) (b : Nat) (p : Nat) (h_ : Keeps z0 s) : Keeps z0 (withdrawPool s b p) := by
  unfold withdrawPool
  repeat' first
    | with_reducible assumption
    | exact Eq.refl _
    | with_reducible apply modBank_keeps
    | dsimp only

theorem remapLine_keeps {u : State} (s : State) (f : Nat) (c : Coord) (stored : Nat) (h : Keeps u s) :
    ∀ t, remapLine s f c stored = some t → Keeps u t := by
  intro t e
  unfold remapLine at e
  dsimp only at e
  split at e
  · cases e
  · split at e
    · cases e
      exact setStored_keeps _ _ _ (noteRemap_keeps _ _ (setRemap_keeps _ _ _ _ (withdrawPool_keeps _ _ _ h)))
    · rw [Option.map_eq_some_iff] at e
      obtain ⟨i, _, rfl⟩ := e
      exact setStored_keeps _ _ _ (noteRemap_keeps _ _ (setRemap_keeps _ _ _ _ h))

theorem bayOffline_keeps {z0 : State} (s : State) (f : Nat) (sc : Nat) (t : Nat) (h_ : Keeps z0 s) : Keeps z0 (bayOffline s f sc t) := by
  unfold bayOffline
  repeat' first
    | with_reducible assumption
    | exact Eq.refl _
    | with_reducible apply modBay_keeps
    | dsimp only

theorem spareUnusable_keeps {z0 : State} (s : State) (f : Nat) (sc : Nat) (h_ : Keeps z0 s) : Keeps z0 (spareUnusable s f sc) := by
  unfold spareUnusable
  repeat' first
    | with_reducible assumption
    | intro _
    | exact Eq.refl _
    | with_reducible apply Keeps.ite
    | with_reducible apply modSub_keeps
    | with_reducible apply bayOffline_keeps
    | with_reducible apply modFlume_keeps
    | with_reducible apply modBay_keeps
    | with_reducible apply forAll_keeps
    | split
    | dsimp only

theorem endColMoves_keeps {z0 : State} (s : State) (f : Nat) (sc : Nat) (t : Nat) (h_ : Keeps z0 s) : Keeps z0 (endColMoves s f sc t) := by
  unfold endColMoves
  repeat' first
    | with_reducible assumption
    | intro _
    | exact Eq.refl _
    | with_reducible apply modBank_keeps
    | with_reducible apply forAll_keeps
    | dsimp only

theorem redirectBay_keeps {z0 : State} (s : State) (f : Nat) (sc : Nat) (t : Nat) (g : Nat) (i : Nat) (copying : Bool) (h_ : Keeps z0 s) : Keeps z0 (redirectBay s f sc t g i copying) := by
  unfold redirectBay
  repeat' first
    | with_reducible assumption
    | exact Eq.refl _
    | with_reducible apply Keeps.ite
    | with_reducible apply event_keeps
    | with_reducible apply spareUnusable_keeps
    | with_reducible apply bayOffline_keeps
    | with_reducible apply modSub_keeps
    | with_reducible apply modBay_keeps
    | with_reducible apply endColMoves_keeps
    | with_reducible apply modFlume_keeps
    | with_reducible apply releaseRemap_keeps
    | with_reducible apply noteRepair_keeps
    | split
    | dsimp only

theorem withdrawSub_keeps {z0 : State} (s : State) (f : Nat) (sc : Nat) (h_ : Keeps z0 s) : Keeps z0 (withdrawSub s f sc) := by
  unfold withdrawSub
  repeat' first
    | with_reducible assumption
    | exact Eq.refl _
    | with_reducible apply modSub_keeps
    | with_reducible apply event_keeps
    | with_reducible apply setLine_keeps
    | dsimp only

theorem putRow_keeps {z0 : State} (s : State) (b : Nat) (row : Nat) (copy : List Stored) (h_ : Keeps z0 s) : Keeps z0 (putRow s b row copy) := by
  unfold putRow
  repeat' first
    | with_reducible assumption
    | intro _
    | with_reducible apply setCells_keeps
    | with_reducible apply overtake_keeps
    | with_reducible apply forAll_keeps
    | dsimp only

theorem rowRepair_keeps {z0 : State} (s : State) (b : Nat) (row : Nat) (i : Nat) (copy : List Stored) (h_ : Keeps z0 s) : Keeps z0 (rowRepair s b row i copy) := by
  unfold rowRepair
  repeat' first
    | with_reducible assumption
    | exact Eq.refl _
    | with_reducible apply putRow_keeps
    | with_reducible apply modBank_keeps
    | with_reducible apply releaseRemap_keeps
    | with_reducible apply event_keeps
    | with_reducible apply noteRepair_keeps
    | dsimp only

theorem markRows_keeps {z0 : State} (s : State) (b : Nat) (bad : List Nat) (h_ : Keeps z0 s) : Keeps z0 (markRows s b bad) := by
  unfold markRows
  repeat' first
    | with_reducible assumption
    | intro _
    | exact Eq.refl _
    | with_reducible apply Keeps.ite
    | with_reducible apply modBank_keeps
    | with_reducible apply Keeps.foldl
    | with_reducible apply Keeps.foldl_snd2
    | with_reducible apply Keeps.foldl_snd
    | with_reducible apply Keeps.foldl_fst
    | split
    | dsimp only

theorem remapRow_keeps {u : State} (l : List Nat) : ∀ (s : State) (b row : Nat), Keeps u s →
    ∀ t, remapRow l s b row = some t → Keeps u t := by
  induction l with
  | nil => intro s b row h t e; cases e; exact h
  | cons k l ih =>
    intro s b row h t e
    unfold remapRow at e
    dsimp only at e
    split at e
    · next s1 e1 => exact ih s1 b row (remapLine_keeps _ _ _ _ h s1 e1) t e
    · cases e

theorem repairRow_keeps {z0 : State} (s : State) (b : Nat) (row : Nat) (cols : List Nat) (bad : List Nat) (copy : List Stored) (h_ : Keeps z0 s) : Keeps z0 (repairRow s b row cols bad copy) := by
  unfold repairRow
  repeat' first
    | with_reducible assumption
    | exact Eq.refl _
    | refine remapRow_keeps _ _ _ _ ?_ _ (someIte (by assumption))
    | refine remapRow_keeps _ _ _ _ ?_ _ (by assumption)
    | with_reducible apply Keeps.ite
    | with_reducible apply markRows_keeps
    | with_reducible apply rowRepair_keeps
    | with_reducible apply event_keeps
    | with_reducible apply redirectBay_keeps
    | split
    | dsimp only

theorem colRepair_keeps {z0 : State} (s : State) (b : Nat) (cg : Nat) (i : Nat) (h_ : Keeps z0 s) : Keeps z0 (colRepair s b cg i) := by
  unfold colRepair
  repeat' first
    | with_reducible assumption
    | exact Eq.refl _
    | with_reducible apply modBank_keeps
    | with_reducible apply event_keeps
    | with_reducible apply noteRepair_keeps
    | dsimp only

theorem poolRowBad_keeps {z0 : State} (s : State) (b : Nat) (i : Nat) (cols : List Nat) (h_ : Keeps z0 s) : Keeps z0 (poolRowBad s b i cols) := by
  unfold poolRowBad
  repeat' first
    | with_reducible assumption
    | intro _
    | exact Eq.refl _
    | with_reducible apply withdrawPool_keeps
    | with_reducible apply setStored_keeps
    | with_reducible apply setRemap_keeps
    | with_reducible apply forAll_keeps
    | split
    | dsimp only

theorem colFail_keeps {z0 : State} (s : State) (b : Nat) (g : Nat) (h_ : Keeps z0 s) : Keeps z0 (colFail s b g) := by
  unfold colFail
  repeat' first
    | with_reducible assumption
    | exact Eq.refl _
    | with_reducible apply Keeps.ite
    | with_reducible apply colRepair_keeps
    | with_reducible apply redirectBay_keeps
    | split
    | dsimp only

theorem spareColBad_keeps {z0 : State} (s : State) (b : Nat) (i : Nat) (h_ : Keeps z0 s) : Keeps z0 (spareColBad s b i) := by
  unfold spareColBad
  repeat' first
    | with_reducible assumption
    | exact Eq.refl _
    | with_reducible apply modBank_keeps
    | with_reducible apply colFail_keeps
    | split
    | dsimp only

theorem spareRowBad_keeps {z0 : State} (s : State) (b : Nat) (i : Nat) (cols : List Nat) (bad : List Nat) (h_ : Keeps z0 s) : Keeps z0 (spareRowBad s b i cols bad) := by
  unfold spareRowBad
  repeat' first
    | with_reducible assumption
    | exact Eq.refl _
    | with_reducible apply markRows_keeps
    | with_reducible apply repairRow_keeps
    | with_reducible apply modBank_keeps
    | split
    | dsimp only

theorem noteGroups_keeps {z0 : State} (s : State) (b : Nat) (row : Nat) (cgs : List Nat) (h_ : Keeps z0 s) : Keeps z0 (noteGroups s b row cgs) := by
  unfold noteGroups
  repeat' first
    | with_reducible assumption
    | intro _
    | exact Eq.refl _
    | with_reducible apply Keeps.ite
    | with_reducible apply modBank_keeps
    | with_reducible apply Keeps.foldl
    | with_reducible apply Keeps.foldl_snd2
    | with_reducible apply Keeps.foldl_snd
    | with_reducible apply Keeps.foldl_fst
    | split
    | dsimp only

theorem repairService_keeps {z0 : State} (s : State) (b : Nat) (row : Nat) (cgs : List Nat) (cols : List Nat) (bad : List Nat) (h_ : Keeps z0 s) : Keeps z0 (repairService s b row cgs cols bad) := by
  unfold repairService
  repeat' first
    | with_reducible assumption
    | intro _
    | with_reducible apply Keeps.ite
    | with_reducible apply noteGroups_keeps
    | with_reducible apply colFail_keeps
    | with_reducible apply repairRow_keeps
    | with_reducible apply Keeps.foldl
    | with_reducible apply Keeps.foldl_snd2
    | with_reducible apply Keeps.foldl_snd
    | with_reducible apply Keeps.foldl_fst
    | split
    | dsimp only

theorem repairFailure_keeps {z0 : State} (s : State) (b : Nat) (row : Nat) (cgs : List Nat) (cols : List Nat) (bad : List Nat) (h_ : Keeps z0 s) : Keeps z0 (repairFailure s b row cgs cols bad) := by
  unfold repairFailure
  repeat' first
    | with_reducible assumption
    | intro _
    | with_reducible apply Keeps.ite
    | with_reducible apply redirectBay_keeps
    | with_reducible apply poolRowBad_keeps
    | with_reducible apply spareRowBad_keeps
    | with_reducible apply repairService_keeps
    | with_reducible apply spareColBad_keeps
    | with_reducible apply Keeps.foldl
    | with_reducible apply Keeps.foldl_snd2
    | with_reducible apply Keeps.foldl_snd
    | with_reducible apply Keeps.foldl_fst
    | split
    | dsimp only

theorem repairCells_keeps {z0 : State} (s : State) (cs : List CellFail) (h_ : Keeps z0 s) : Keeps z0 (repairCells s cs) := by
  unfold repairCells
  repeat' first
    | with_reducible assumption
    | intro _
    | with_reducible apply repairFailure_keeps
    | with_reducible apply Keeps.foldl
    | with_reducible apply Keeps.foldl_snd2
    | with_reducible apply Keeps.foldl_snd
    | with_reducible apply Keeps.foldl_fst
    | dsimp only

theorem repairMarch_keeps {z0 : State} (s : State) (cs : List CellFail) (h_ : Keeps z0 s) : Keeps z0 (repairMarch s cs) := by
  unfold repairMarch
  repeat' first
    | with_reducible assumption
    | intro _
    | with_reducible apply repairCells_keeps
    | with_reducible apply noteGroups_keeps
    | with_reducible apply Keeps.foldl
    | with_reducible apply Keeps.foldl_snd2
    | with_reducible apply Keeps.foldl_snd
    | with_reducible apply Keeps.foldl_fst
    | dsimp only

theorem addErasure_keeps {z0 : State} (s : State) (f : Nat) (sc : Nat) (w : Nat) (h_ : Keeps z0 s) : Keeps z0 (addErasure s f sc w) := by
  unfold addErasure
  repeat' first
    | with_reducible assumption
    | exact Eq.refl _
    | with_reducible apply Keeps.ite
    | with_reducible apply withdrawSub_keeps
    | with_reducible apply modSub_keeps
    | with_reducible apply event_keeps
    | split
    | dsimp only

theorem setSpareWord_keeps {z0 : State} (i : Nat) (w : Nat) (trains : List (Nat × List Sweep)) (f : Nat) (sc : Nat) (s : State) (t : Nat) (h_ : Keeps z0 s) : Keeps z0 (setSpareWord i w trains f sc s t) := by
  unfold setSpareWord
  repeat' first
    | with_reducible assumption
    | exact Eq.refl _
    | with_reducible apply Keeps.ite
    | with_reducible apply modBay_keeps
    | split
    | dsimp only

theorem steer_keeps {z0 : State} (s : State) (f : Nat) (sc : Nat) (w : Nat) (i : Nat) (trains : List (Nat × List Sweep)) (h_ : Keeps z0 s) : Keeps z0 (steer s f sc w i trains) := by
  unfold steer
  repeat' first
    | with_reducible assumption
    | intro _
    | exact Eq.refl _
    | with_reducible apply noteRepair_keeps
    | with_reducible apply modSub_keeps
    | with_reducible apply setSpareWord_keeps
    | with_reducible apply forAll_keeps
    | dsimp only

theorem markSpares_keeps {z0 : State} (s : State) (k : Nat) (bad : List Nat) (h_ : Keeps z0 s) : Keeps z0 (markSpares s k bad) := by
  unfold markSpares
  repeat' first
    | with_reducible assumption
    | intro _
    | exact Eq.refl _
    | with_reducible apply modSub_keeps
    | with_reducible apply Keeps.foldl
    | with_reducible apply Keeps.foldl_snd2
    | with_reducible apply Keeps.foldl_snd
    | with_reducible apply Keeps.foldl_fst
    | dsimp only

theorem pickSpare_keeps {z0 : State} (f : Nat) (sc : Nat) (w : Nat) (trains : List (Nat × List Sweep)) (a0_ : List Nat) : ∀ (a1_ : State), Keeps z0 a1_ → Keeps z0 (pickSpare f sc w trains a0_ a1_).2 := by
  induction a0_ with
  | nil =>
    intro a1_ h_
    unfold pickSpare
    repeat' first
      | with_reducible assumption
      | exact Eq.refl _
      | with_reducible apply Keeps.ite
      | with_reducible apply steer_keeps
      | with_reducible apply modSub_keeps
      | with_reducible apply markSpares_keeps
      | with_reducible apply addErasure_keeps
      | split
      | dsimp only
  | cons x_ l_ ih_ =>
    intro a1_ h_
    unfold pickSpare
    repeat' first
      | with_reducible assumption
      | with_reducible apply ih_
      | exact Eq.refl _
      | with_reducible apply Keeps.ite
      | with_reducible apply steer_keeps
      | with_reducible apply modSub_keeps
      | with_reducible apply markSpares_keeps
      | with_reducible apply addErasure_keeps
      | split
      | dsimp only

theorem steerOut_keeps {z0 : State} (s : State) (f : Nat) (sc : Nat) (w : Nat) (trains : List (Nat × List Sweep)) (h_ : Keeps z0 s) : Keeps z0 (steerOut s f sc w trains) := by
  unfold steerOut
  repeat' first
    | with_reducible assumption
    | exact Eq.refl _
    | with_reducible apply Keeps.ite
    | with_reducible apply steer_keeps
    | with_reducible apply pickSpare_keeps
    | with_reducible apply addErasure_keeps
    | with_reducible apply withdrawSub_keeps
    | split
    | refine Keeps.snd (by assumption) ?_
    | dsimp only

theorem loseCopy_keeps {z0 : State} (s : State) (f : Nat) (sc : Nat) (ck : Bool) (i : Nat) (h_ : Keeps z0 s) : Keeps z0 (loseCopy s f sc ck i) := by
  unfold loseCopy
  repeat' first
    | with_reducible assumption
    | exact Eq.refl _
    | with_reducible apply Keeps.ite
    | with_reducible apply modSub_keeps
    | with_reducible apply withdrawSub_keeps
    | with_reducible apply event_keeps
    | split
    | dsimp only

theorem wireFail_keeps {z0 : State} (s : State) (f : Nat) (sc : Nat) (w : Nat) (trains : List (Nat × List Sweep)) (h_ : Keeps z0 s) : Keeps z0 (wireFail s f sc w trains) := by
  unfold wireFail
  repeat' first
    | with_reducible assumption
    | exact Eq.refl _
    | with_reducible apply Keeps.ite
    | with_reducible apply steer_keeps
    | with_reducible apply steerOut_keeps
    | with_reducible apply modSub_keeps
    | with_reducible apply markSpares_keeps
    | with_reducible apply loseCopy_keeps
    | split
    | dsimp only

theorem applySteering_keeps {z0 : State} (old : State) (s : State) (f : Nat) (sc : Nat) (h_ : Keeps z0 s) : Keeps z0 (applySteering old s f sc) := by
  unfold applySteering
  repeat' first
    | with_reducible assumption
    | exact Eq.refl _
    | with_reducible apply Keeps.ite
    | with_reducible apply steer_keeps
    | with_reducible apply scEvent_keeps
    | with_reducible apply modSub_keeps
    | split
    | dsimp only

theorem loopTest_keeps {z0 : State} (s : State) (f : Nat) (sc : Nat) (r : LoopRes) (h_ : Keeps z0 s) : Keeps z0 (loopTest s f sc r) := by
  unfold loopTest
  repeat' first
    | with_reducible assumption
    | intro _
    | with_reducible apply applySteering_keeps
    | with_reducible apply wireFail_keeps
    | with_reducible apply Keeps.foldl
    | with_reducible apply Keeps.foldl_snd2
    | with_reducible apply Keeps.foldl_snd
    | with_reducible apply Keeps.foldl_fst
    | dsimp only

end Sys2Proof.Machine
end

