-- ==== Sys2Proof/Laws/KeepsRead.lean ====
section
/-! SUPPORT. What the operations of Machine/Read.lean keep. -/

set_option Elab.async false

namespace Sys2Proof.Machine

theorem trackNew_keeps {z0 : State} (s : State) (f : Nat) (key : Nat) (h_ : Keeps z0 s) : Keeps z0 (trackNew s f key) := by
  unfold trackNew
  repeat' first
    | with_reducible assumption
    | exact Eq.refl _
    | with_reducible apply Keeps.ite
    | with_reducible apply modFlume_keeps
    | with_reducible apply event_keeps
    | with_reducible apply bumpTotal_keeps
    | split
    | dsimp only

theorem trackFree_keeps {z0 : State} (s : State) (f : Nat) (key : Nat) (h_ : Keeps z0 s) : Keeps z0 (trackFree s f key) := by
  unfold trackFree
  repeat' first
    | with_reducible assumption
    | exact Eq.refl _
    | with_reducible apply modFlume_keeps
    | dsimp only

theorem offerRow_keeps {z0 : State} (s : State) (f : Nat) (c : Coord) (stored : Nat) (h_ : Keeps z0 s) : Keeps z0 (offerRow s f c stored) := by
  unfold offerRow
  repeat' first
    | with_reducible assumption
    | exact Eq.refl _
    | with_reducible apply Keeps.ite
    | with_reducible apply redirectBay_keeps
    | with_reducible apply modBank_keeps
    | with_reducible apply markRows_keeps
    | with_reducible apply repairRow_keeps
    | split
    | dsimp only

theorem hardFault_keeps {z0 : State} (s : State) (f : Nat) (c : Coord) (stored : Nat) (h_ : Keeps z0 s) : Keeps z0 (hardFault s f c stored) := by
  unfold hardFault
  repeat' first
    | with_reducible assumption
    | exact Eq.refl _
    | refine remapLine_keeps _ _ _ _ ?_ _ (someIte (by assumption))
    | refine remapLine_keeps _ _ _ _ ?_ _ (by assumption)
    | with_reducible apply Keeps.ite
    | with_reducible apply trackFree_keeps
    | with_reducible apply offerRow_keeps
    | with_reducible apply event_keeps
    | split
    | dsimp only

theorem storeBack_keeps {z0 : State} (s : State) (f : Nat) (p : Place) (data : Nat) (md : Nat) (h_ : Keeps z0 s) : Keeps z0 (storeBack s f p data md) := by
  unfold storeBack
  repeat' first
    | with_reducible assumption
    | exact Eq.refl _
    | with_reducible apply disarm_keeps
    | with_reducible apply setStored_keeps
    | dsimp only

theorem track_keeps {z0 : State} (s : State) (f : Nat) (c : Coord) (line : Option Nat) (d : Decoded) (dpaLine : Nat) (region : Nat) (h_ : Keeps z0 s) : Keeps z0 (track s f c line d dpaLine region) := by
  unfold track
  repeat' first
    | with_reducible assumption
    | exact Eq.refl _
    | with_reducible apply Keeps.ite
    | with_reducible apply trackNew_keeps
    | with_reducible apply trackFree_keeps
    | with_reducible apply hardFault_keeps
    | with_reducible apply modFlume_keeps
    | with_reducible apply queueWriteBack_keeps
    | with_reducible apply storeBack_keeps
    | split
    | dsimp only

theorem countAt_keeps {z0 : State} (s : State) (f : Nat) (c : Coord) (line : Option Nat) (d : Decoded) (retried : Bool) (dpaLine : Nat) (region : Nat) (h_ : Keeps z0 s) : Keeps z0 (countAt s f c line d retried dpaLine region) := by
  unfold countAt
  repeat' first
    | with_reducible assumption
    | with_reducible apply Keeps.ite
    | with_reducible apply event_keeps
    | with_reducible apply scEvent_keeps
    | with_reducible apply bumpTotal_keeps
    | with_reducible apply addTotal_keeps
    | with_reducible apply track_keeps
    | split
    | dsimp only

theorem countRead_keeps {z0 : State} (s : State) (f : Nat) (line : Nat) (d : Decoded) (retried : Bool) (dpaLine : Nat) (region : Nat) (h_ : Keeps z0 s) : Keeps z0 (countRead s f line d retried dpaLine region) := by
  unfold countRead
  repeat' first
    | with_reducible assumption
    | with_reducible apply countAt_keeps
    | dsimp only

theorem settlePoison_keeps {z0 : State} (s : State) (f : Nat) (line : Nat) (d : Decoded) (dpaLine : Nat) (region : Nat) (h_ : Keeps z0 s) : Keeps z0 (settlePoison s f line d dpaLine region) := by
  unfold settlePoison
  repeat' first
    | with_reducible assumption
    | with_reducible apply Keeps.ite
    | with_reducible apply queueWriteBack_keeps
    | with_reducible apply bumpTotal_keeps
    | split
    | dsimp only

theorem dropCopy_keeps {z0 : State} (s : State) (c : CopyWait) (h_ : Keeps z0 s) : Keeps z0 (dropCopy s c) := by
  unfold dropCopy
  repeat' first
    | with_reducible assumption
    | intro _
    | exact Eq.refl _
    | with_reducible apply modLeat_keeps
    | dsimp only

theorem rescueNotice_keeps {z0 : State} (s : State) (r : Req) (h_ : Keeps z0 s) : Keeps z0 (rescueNotice s r) := by
  unfold rescueNotice
  repeat' first
    | with_reducible assumption
    | with_reducible apply Keeps.ite
    | with_reducible apply mirrorNotice_keeps
    | split
    | dsimp only

theorem readNow_keeps {z0 : State} (s : State) (f : Nat) (r : Req) (p : Place) (env : OpEnv) (h_ : Keeps z0 s) : Keeps z0 (readNow s f r p env) := by
  unfold readNow
  repeat' first
    | with_reducible assumption
    | exact Eq.refl _
    | with_reducible apply Keeps.ite
    | with_reducible apply countRead_keeps
    | with_reducible apply storeBack_keeps
    | with_reducible apply bumpTotal_keeps
    | with_reducible apply completeRead_keeps
    | with_reducible apply dropReq_keeps
    | with_reducible apply putMerged_keeps
    | with_reducible apply refill_keeps
    | with_reducible apply rescueNotice_keeps
    | split
    | dsimp only

theorem awayNow_keeps {z0 : State} (s : State) (f : Nat) (r : Req) (env : OpEnv) (h_ : Keeps z0 s) : Keeps z0 (awayNow s f r env) := by
  unfold awayNow
  repeat' first
    | with_reducible assumption
    | exact Eq.refl _
    | with_reducible apply Keeps.ite
    | with_reducible apply completeRead_keeps
    | with_reducible apply dropReq_keeps
    | with_reducible apply putMerged_keeps
    | with_reducible apply serveLost_keeps
    | split
    | dsimp only

theorem writeQueued_keeps {z0 : State} (s : State) (f : Nat) (r : Req) (h_ : Keeps z0 s) : Keeps z0 (writeQueued s f r) := by
  unfold writeQueued
  repeat' first
    | with_reducible assumption
    | with_reducible apply Keeps.ite
    | with_reducible apply dropReq_keeps
    | with_reducible apply mirrorLine_keeps
    | with_reducible apply disarm_keeps
    | with_reducible apply storeLine_keeps
    | split
    | dsimp only

theorem execNow_keeps {z0 : State} (f : Nat) (env : OpEnv) (s : State) (r : Req) (h_ : Keeps z0 s) : Keeps z0 (execNow f env s r) := by
  unfold execNow
  repeat' first
    | with_reducible assumption
    | exact Eq.refl _
    | with_reducible apply copyArrived_keeps
    | with_reducible apply dropCopy_keeps
    | with_reducible apply copyFailed_keeps
    | with_reducible apply awayNow_keeps
    | with_reducible apply readNow_keeps
    | with_reducible apply writeQueued_keeps
    | split
    | dsimp only

theorem flushLine_keeps {z0 : State} (s : State) (f : Nat) (line : Nat) (env : OpEnv) (h_ : Keeps z0 s) : Keeps z0 (flushLine s f line env) := by
  unfold flushLine
  repeat' first
    | with_reducible assumption
    | intro _
    | with_reducible apply execNow_keeps
    | with_reducible apply Keeps.foldl
    | with_reducible apply Keeps.foldl_snd2
    | with_reducible apply Keeps.foldl_snd
    | with_reducible apply Keeps.foldl_fst
    | dsimp only

theorem readLine_keeps {z0 : State} (s0 : State) (f : Nat) (line : Nat) (dpaLine : Nat) (region : Nat) (env : OpEnv) (heal : Bool) (h_ : Keeps z0 s0) : Keeps z0 (readLine s0 f line dpaLine region env heal).2 := by
  unfold readLine
  repeat' first
    | with_reducible assumption
    | exact Eq.refl _
    | with_reducible apply Keeps.ite
    | with_reducible apply flushLine_keeps
    | with_reducible apply bumpTotal_keeps
    | with_reducible apply bumpFree_keeps
    | with_reducible apply mirrorNotice_keeps
    | with_reducible apply settlePoison_keeps
    | with_reducible apply countRead_keeps
    | with_reducible apply refill_keeps
    | with_reducible apply storeBack_keeps
    | split
    | dsimp only

theorem writeLine_keeps {z0 : State} (s0 : State) (f : Nat) (line : Nat) (dpaLine : Nat) (region : Nat) (data : Nat) (md : Option (BitVec 2)) (poison : Bool) (port : Nat) (dest : ReqFor) (env : OpEnv) (h_ : Keeps z0 s0) : Keeps z0 (writeLine s0 f line dpaLine region data md poison port dest env) := by
  unfold writeLine
  repeat' first
    | with_reducible assumption
    | exact Eq.refl _
    | with_reducible apply Keeps.ite
    | with_reducible apply voidWriteBacks_keeps
    | with_reducible apply flushLine_keeps
    | with_reducible apply mirrorLine_keeps
    | with_reducible apply disarm_keeps
    | with_reducible apply storeLine_keeps
    | split
    | dsimp only

end Sys2Proof.Machine
end

