-- ==== Sys2Proof/Laws/KeepsSafe.lean ====
section
/-! SUPPORT. What the operations of Machine/Safe.lean keep. -/

set_option Elab.async false

namespace Sys2Proof.Machine

theorem answerSafe_keeps {z0 : State} (s : State) (r : Req) (h_ : Keeps z0 s) : Keeps z0 (answerSafe s r) := by
  unfold answerSafe
  repeat' first
    | with_reducible assumption
    | exact Eq.refl _
    | with_reducible apply Keeps.ite
    | with_reducible apply answerRead_keeps
    | with_reducible apply bumpFree_keeps
    | with_reducible apply finishWrite_keeps
    | split
    | dsimp only

theorem flushIngress_keeps {z0 : State} (s : State) (h_ : Keeps z0 s) : Keeps z0 (flushIngress s) := by
  unfold flushIngress
  repeat' first
    | with_reducible assumption
    | intro _
    | exact Eq.refl _
    | with_reducible apply modFlume_keeps
    | with_reducible apply answerSafe_keeps
    | with_reducible apply freeCredit_keeps
    | with_reducible apply forAll_keeps
    | with_reducible apply Keeps.foldl
    | with_reducible apply Keeps.foldl_snd2
    | with_reducible apply Keeps.foldl_snd
    | with_reducible apply Keeps.foldl_fst
    | dsimp only

theorem payAll_keeps {z0 : State} (s : State) (p : Nat → Bool) (h_ : Keeps z0 s) : Keeps z0 (payAll s p) := by
  unfold payAll
  repeat' first
    | with_reducible assumption
    | intro _
    | with_reducible apply Keeps.ite
    | with_reducible apply modBank_keeps
    | with_reducible apply forAll_keeps
    | split
    | dsimp only

theorem disablePorts_keeps {z0 : State} (s : State) (h_ : Keeps z0 s) : Keeps z0 (disablePorts s) := by
  unfold disablePorts
  repeat' first
    | with_reducible assumption
    | intro _
    | exact Eq.refl _
    | with_reducible apply modPort_keeps
    | with_reducible apply forAll_keeps
    | dsimp only

theorem internalError_keeps {z0 : State} (s : State) (h : Nat) (h_ : Keeps z0 s) : Keeps z0 (internalError s h) := by
  unfold internalError
  repeat' first
    | with_reducible assumption
    | exact Eq.refl _
    | with_reducible apply modHead_keeps
    | with_reducible apply aerLog_keeps
    | dsimp only

theorem safeEntry_keeps {z0 : State} (s : State) (h_ : Keeps z0 s) : Keeps z0 (safeEntry s) := by
  unfold safeEntry
  repeat' first
    | with_reducible assumption
    | intro _
    | exact Eq.refl _
    | with_reducible apply Keeps.ite
    | with_reducible apply emit_keeps
    | with_reducible apply flushIngress_keeps
    | with_reducible apply internalError_keeps
    | with_reducible apply partnerLost_keeps
    | with_reducible apply disablePorts_keeps
    | with_reducible apply payAll_keeps
    | with_reducible apply modBank_keeps
    | with_reducible apply forAll_keeps
    | split
    | dsimp only
    | with_reducible apply Keeps.raw

theorem raise_keeps {z0 : State} (s : State) (g : Nat) (i : Nat) (sev : Nat) (unit : Nat) (detail : Nat) (h_ : Keeps z0 s) : Keeps z0 (raise s g i sev unit detail) := by
  unfold raise
  repeat' first
    | with_reducible assumption
    | exact Eq.refl _
    | with_reducible apply Keeps.ite
    | with_reducible apply countSource_keeps
    | with_reducible apply event_keeps
    | with_reducible apply modMill_keeps
    | with_reducible apply safeEntry_keeps
    | split
    | dsimp only

end Sys2Proof.Machine
end

