-- ==== Sys2Proof/Laws/KeepsMem.lean ====
section
/-! SUPPORT. What the operations of Machine/Mem.lean keep. -/

set_option Elab.async false

namespace Sys2Proof.Machine

theorem wakeDevice_keeps {z0 : State} (s : State) (h_ : Keeps z0 s) : Keeps z0 (wakeDevice s) := by
  unfold wakeDevice
  repeat' first
    | with_reducible assumption
    | exact Eq.refl _
    | with_reducible apply Keeps.ite
    | split
    | dsimp only
    | with_reducible apply Keeps.raw

theorem wakeFlume_keeps {z0 : State} (s : State) (f : Nat) (h_ : Keeps z0 s) : Keeps z0 (wakeFlume s f) := by
  unfold wakeFlume
  repeat' first
    | with_reducible assumption
    | exact Eq.refl _
    | with_reducible apply Keeps.ite
    | with_reducible apply modFlume_keeps
    | with_reducible apply wakeDevice_keeps
    | split
    | dsimp only

theorem lapseHint_keeps {z0 : State} (s : State) (h : Nat) (h_ : Keeps z0 s) : Keeps z0 (lapseHint s h) := by
  unfold lapseHint
  repeat' first
    | with_reducible assumption
    | exact Eq.refl _
    | with_reducible apply modHead_keeps
    | dsimp only

theorem route_keeps {z0 : State} (s : State) (h : Nat) (hpa : Nat) (write : Bool) (ecc : EccCheck) (h_ : Keeps z0 s) : Keeps z0 (route s h hpa write ecc).2 := by
  unfold route
  repeat' first
    | with_reducible assumption
    | exact Eq.refl _
    | with_reducible apply Keeps.ite
    | with_reducible apply regionCheck_keeps
    | split
    | dsimp only

theorem ingress_keeps {z0 : State} (s : State) (f : Nat) (r : Req) (h_ : Keeps z0 s) : Keeps z0 (ingress s f r) := by
  unfold ingress
  repeat' first
    | with_reducible assumption
    | exact Eq.refl _
    | with_reducible apply wakeFlume_keeps
    | with_reducible apply modFlume_keeps
    | dsimp only

theorem memArrives_keeps {z0 : State} (s : State) (h : Nat) (h_ : Keeps z0 s) : Keeps z0 (memArrives s h) := by
  unfold memArrives
  repeat' first
    | with_reducible assumption
    | with_reducible apply wakeDevice_keeps
    | with_reducible apply lapseHint_keeps
    | dsimp only

theorem passThrough_keeps {z0 : State} (s : State) (h : Nat) (write : Bool) (h_ : Keeps z0 s) : Keeps z0 (passThrough s h write) := by
  unfold passThrough
  repeat' first
    | with_reducible assumption
    | with_reducible apply freeCredit_keeps
    | with_reducible apply takeCredit_keeps
    | dsimp only

theorem notePoison_keeps {z0 : State} (s : State) (h : Nat) (poison : Bool) (h_ : Keeps z0 s) : Keeps z0 (notePoison s h poison) := by
  unfold notePoison
  repeat' first
    | with_reducible assumption
    | exact Eq.refl _
    | with_reducible apply Keeps.ite
    | with_reducible apply modHead_keeps
    | split
    | dsimp only

theorem hostRead_keeps {z0 : State} (s0 : State) (h : Nat) (tag : Nat) (hpa : Nat) (meta0 : Bool) (ecc : EccCheck) (h_ : Keeps z0 s0) : Keeps z0 (hostRead s0 h tag hpa meta0 ecc) := by
  unfold hostRead
  repeat' first
    | with_reducible assumption
    | exact Eq.refl _
    | with_reducible apply Keeps.ite
    | with_reducible apply memArrives_keeps
    | with_reducible apply answerSafe_keeps
    | with_reducible apply passThrough_keeps
    | with_reducible apply route_keeps
    | with_reducible apply event_keeps
    | with_reducible apply ingress_keeps
    | with_reducible apply takeCredit_keeps
    | split
    | refine Keeps.snd (by assumption) ?_
    | dsimp only

theorem hostWrite_keeps {z0 : State} (s0 : State) (h : Nat) (tag : Nat) (hpa : Nat) (data : Line) (mask : BitVec 64) (poison : Bool) (md : Option (BitVec 2)) (ecc : EccCheck) (h_ : Keeps z0 s0) : Keeps z0 (hostWrite s0 h tag hpa data mask poison md ecc) := by
  unfold hostWrite
  repeat' first
    | with_reducible assumption
    | exact Eq.refl _
    | with_reducible apply Keeps.ite
    | with_reducible apply notePoison_keeps
    | with_reducible apply memArrives_keeps
    | with_reducible apply answerWrite_keeps
    | with_reducible apply passThrough_keeps
    | with_reducible apply route_keeps
    | with_reducible apply event_keeps
    | with_reducible apply ingress_keeps
    | with_reducible apply takeCredit_keeps
    | split
    | refine Keeps.snd (by assumption) ?_
    | dsimp only

theorem ackPush_keeps {z0 : State} (s : State) (f : Nat) (tag : Nat) (k : Nat) (stored : Bool) (h_ : Keeps z0 s) : Keeps z0 (ackPush s f tag k stored) := by
  unfold ackPush
  repeat' first
    | with_reducible assumption
    | intro _
    | exact Eq.refl _
    | with_reducible apply Keeps.ite
    | with_reducible apply returnSlots_keeps
    | with_reducible apply sendAck_keeps
    | with_reducible apply modLeat_keeps
    | split
    | dsimp only

theorem dropApplied_keeps {z0 : State} (s : State) (h_ : Keeps z0 s) : Keeps z0 (dropApplied s) := by
  unfold dropApplied
  repeat' first
    | with_reducible assumption
    | intro _
    | exact Eq.refl _
    | with_reducible apply Keeps.ite
    | with_reducible apply returnSlots_keeps
    | with_reducible apply sendAck_keeps
    | with_reducible apply modFlume_keeps
    | with_reducible apply forAll_keeps
    | with_reducible apply Keeps.foldl
    | with_reducible apply Keeps.foldl_snd2
    | with_reducible apply Keeps.foldl_snd
    | with_reducible apply Keeps.foldl_fst
    | split
    | dsimp only

theorem ackApply_keeps {z0 : State} (s : State) (f : Nat) (d : ReqFor) (poison : Bool) (stored : Bool) (h_ : Keeps z0 s) : Keeps z0 (ackApply s f d poison stored) := by
  unfold ackApply
  repeat' first
    | with_reducible assumption
    | intro _
    | exact Eq.refl _
    | with_reducible apply Keeps.ite
    | with_reducible apply ackPush_keeps
    | with_reducible apply returnSlots_keeps
    | with_reducible apply sendAck_keeps
    | with_reducible apply dropApplied_keeps
    | with_reducible apply modLeat_keeps
    | with_reducible apply Keeps.foldl
    | with_reducible apply Keeps.foldl_snd2
    | with_reducible apply Keeps.foldl_snd
    | with_reducible apply Keeps.foldl_fst
    | split
    | dsimp only

theorem admitRead_keeps {z0 : State} (s0 : State) (f : Nat) (r0 : Req) (h_ : Keeps z0 s0) : Keeps z0 (admitRead s0 f r0) := by
  unfold admitRead
  repeat' first
    | with_reducible assumption
    | with_reducible apply Keeps.ite
    | with_reducible apply bumpId_keeps
    | with_reducible apply requestCopy_keeps
    | with_reducible apply serveLost_keeps
    | with_reducible apply mirrorNotice_keeps
    | with_reducible apply serveAway_keeps
    | with_reducible apply putQueue_keeps
    | split
    | dsimp only

theorem admitWrite_keeps {z0 : State} (s0 : State) (f : Nat) (r0 : Req) (h_ : Keeps z0 s0) : Keeps z0 (admitWrite s0 f r0) := by
  unfold admitWrite
  repeat' first
    | with_reducible assumption
    | exact Eq.refl _
    | with_reducible apply Keeps.ite
    | with_reducible apply voidWriteBacks_keeps
    | with_reducible apply bumpId_keeps
    | with_reducible apply finishWrite_keeps
    | with_reducible apply putQueue_keeps
    | with_reducible apply serveAway_keeps
    | with_reducible apply mirrorStep_keeps
    | with_reducible apply ackApply_keeps
    | split
    | dsimp only

theorem leaveIngress_keeps {z0 : State} (s : State) (r : Req) (h_ : Keeps z0 s) : Keeps z0 (leaveIngress s r) := by
  unfold leaveIngress
  repeat' first
    | with_reducible assumption
    | with_reducible apply Keeps.ite
    | with_reducible apply freeCredit_keeps
    | split
    | dsimp only

/-! The meanings: on elements that exist, each answers a next state. -/

theorem execHdmDecoderCommit_runs (h : Nat) (i : Nat) (base : Nat) (size : Nat) (ways : Nat) (gran : Nat) (skip : Nat) (lock : Bool) (commit : Bool) (s : State) (w_ : (Instr.hdmDecoderCommit h i base size ways gran skip lock commit).wf = true) : Runs s (execHdmDecoderCommit h i base size ways gran skip lock commit s) := by
  unfold execHdmDecoderCommit
  repeat' first
    | with_reducible assumption
    | with_reducible exact Keeps.refl _
    | with_reducible apply Runs.next
    | with_reducible apply Runs.ite
    | (with_reducible apply Runs.onElement; (first | assumption | simp_all [Instr.wf, okHead]))
    | exact Eq.refl _
    | with_reducible apply Keeps.ite
    | with_reducible apply modHead_keeps
    | split
    | dsimp only

theorem execMemRd_runs (h : Nat) (tag : Nat) (hpa : Nat) (meta0 : Bool) (ecc : EccCheck) (s : State) (w_ : (Instr.memRd h tag hpa meta0 ecc).wf = true) : Runs s (execMemRd h tag hpa meta0 ecc s) := by
  unfold execMemRd
  repeat' first
    | with_reducible assumption
    | with_reducible exact Keeps.refl _
    | with_reducible apply Runs.next
    | with_reducible apply Runs.ite
    | (with_reducible apply Runs.onElement; (first | assumption | simp_all [Instr.wf, okHead]))
    | with_reducible apply Keeps.ite
    | with_reducible apply hostRead_keeps
    | split
    | dsimp only

theorem execMemRdFwd_runs (h : Nat) (tag : Nat) (hpa : Nat) (meta0 : Bool) (ecc : EccCheck) (s : State) (w_ : (Instr.memRdFwd h tag hpa meta0 ecc).wf = true) : Runs s (execMemRdFwd h tag hpa meta0 ecc s) := by
  unfold execMemRdFwd
  repeat' first
    | with_reducible assumption
    | with_reducible exact Keeps.refl _
    | with_reducible apply Runs.next
    | with_reducible apply Runs.ite
    | (with_reducible apply Runs.onElement; (first | assumption | simp_all [Instr.wf, okHead]))
    | with_reducible apply Keeps.ite
    | with_reducible apply hostRead_keeps
    | split
    | dsimp only

theorem execMemSpecRd_runs (h : Nat) (_hpa : Nat) (s : State) (w_ : (Instr.memSpecRd h _hpa).wf = true) : Runs s (execMemSpecRd h _hpa s) := by
  unfold execMemSpecRd
  repeat' first
    | with_reducible assumption
    | with_reducible exact Keeps.refl _
    | with_reducible apply Runs.next
    | with_reducible apply Runs.ite
    | (with_reducible apply Runs.onElement; (first | assumption | simp_all [Instr.wf, okHead]))
    | with_reducible apply Keeps.ite
    | with_reducible apply passThrough_keeps
    | with_reducible apply memArrives_keeps
    | split
    | dsimp only

theorem execMemInv_runs (h : Nat) (tag : Nat) (_hpa : Nat) (s : State) (w_ : (Instr.memInv h tag _hpa).wf = true) : Runs s (execMemInv h tag _hpa s) := by
  unfold execMemInv
  repeat' first
    | with_reducible assumption
    | with_reducible exact Keeps.refl _
    | with_reducible apply Runs.next
    | with_reducible apply Runs.ite
    | (with_reducible apply Runs.onElement; (first | assumption | simp_all [Instr.wf, okHead]))
    | with_reducible apply Keeps.ite
    | with_reducible apply answerWrite_keeps
    | with_reducible apply passThrough_keeps
    | with_reducible apply memArrives_keeps
    | split
    | dsimp only

theorem execMemWr_runs (h : Nat) (tag : Nat) (hpa : Nat) (data : Line) (poison : Bool) (md : Option (BitVec 2)) (ecc : EccCheck) (s : State) (w_ : (Instr.memWr h tag hpa data poison md ecc).wf = true) : Runs s (execMemWr h tag hpa data poison md ecc s) := by
  unfold execMemWr
  repeat' first
    | with_reducible assumption
    | with_reducible exact Keeps.refl _
    | with_reducible apply Runs.next
    | with_reducible apply Runs.ite
    | (with_reducible apply Runs.onElement; (first | assumption | simp_all [Instr.wf, okHead]))
    | with_reducible apply Keeps.ite
    | with_reducible apply hostWrite_keeps
    | split
    | dsimp only

theorem execMemWrFwd_runs (h : Nat) (tag : Nat) (hpa : Nat) (data : Line) (poison : Bool) (md : Option (BitVec 2)) (ecc : EccCheck) (s : State) (w_ : (Instr.memWrFwd h tag hpa data poison md ecc).wf = true) : Runs s (execMemWrFwd h tag hpa data poison md ecc s) := by
  unfold execMemWrFwd
  repeat' first
    | with_reducible assumption
    | with_reducible exact Keeps.refl _
    | with_reducible apply Runs.next
    | with_reducible apply Runs.ite
    | (with_reducible apply Runs.onElement; (first | assumption | simp_all [Instr.wf, okHead]))
    | with_reducible apply Keeps.ite
    | with_reducible apply hostWrite_keeps
    | split
    | dsimp only

theorem execMemWrPtl_runs (h : Nat) (tag : Nat) (hpa : Nat) (data : Line) (mask : BitVec 64) (poison : Bool) (md : Option (BitVec 2)) (ecc : EccCheck) (s : State) (w_ : (Instr.memWrPtl h tag hpa data mask poison md ecc).wf = true) : Runs s (execMemWrPtl h tag hpa data mask poison md ecc s) := by
  unfold execMemWrPtl
  repeat' first
    | with_reducible assumption
    | with_reducible exact Keeps.refl _
    | with_reducible apply Runs.next
    | with_reducible apply Runs.ite
    | (with_reducible apply Runs.onElement; (first | assumption | simp_all [Instr.wf, okHead]))
    | (with_reducible apply ask_runs; (first | assumption | simp_all [Instr.wf, okHead]))
    | intro _
    | with_reducible apply Keeps.ite
    | with_reducible apply hostWrite_keeps
    | split
    | dsimp only

theorem execRequestAccept_runs (f : Nat) (port : Nat) (s : State) (w_ : (Instr.requestAccept f port).wf = true) : Runs s (execRequestAccept f port s) := by
  unfold execRequestAccept
  repeat' first
    | with_reducible assumption
    | with_reducible exact Keeps.refl _
    | with_reducible apply Runs.next
    | with_reducible apply Runs.ite
    | (with_reducible apply Runs.onElement; (first | assumption | simp_all [Instr.wf, okF]))
    | exact Eq.refl _
    | with_reducible apply Keeps.ite
    | with_reducible apply grantTo_keeps
    | with_reducible apply leaveIngress_keeps
    | with_reducible apply modFlume_keeps
    | with_reducible apply admitRead_keeps
    | with_reducible apply admitWrite_keeps
    | split
    | dsimp only

end Sys2Proof.Machine
end

