-- ==== Sys2Proof/Laws/KeepsFlume.lean ====
section
/-! SUPPORT. What the operations of Machine/Flume.lean keep. -/

set_option Elab.async false

namespace Sys2Proof.Machine

theorem waitUntil_keeps {z0 : State} (s : State) (sub : Nat) (c : Nat) (h_ : Keeps z0 s) : Keeps z0 (waitUntil s sub c) := by
  unfold waitUntil
  repeat' first
    | with_reducible assumption
    | exact Eq.refl _
    | with_reducible apply modSub_keeps
    | dsimp only

theorem takeEffect_keeps {z0 : State} (s : State) (e : Issued) (h_ : Keeps z0 s) : Keeps z0 (takeEffect s e) := by
  unfold takeEffect
  repeat' first
    | with_reducible assumption
    | exact Eq.refl _
    | with_reducible apply setCells_keeps
    | split
    | dsimp only

theorem closeWindows_keeps {z0 : State} (s : State) (sub : Nat) (h_ : Keeps z0 s) : Keeps z0 (closeWindows s sub) := by
  unfold closeWindows
  repeat' first
    | with_reducible assumption
    | intro _
    | exact Eq.refl _
    | with_reducible apply takeEffect_keeps
    | with_reducible apply modSub_keeps
    | with_reducible apply Keeps.foldl
    | with_reducible apply Keeps.foldl_snd2
    | with_reducible apply Keeps.foldl_snd
    | with_reducible apply Keeps.foldl_fst
    | dsimp only

theorem drainWindows_keeps {z0 : State} (s : State) (sub : Nat) (h_ : Keeps z0 s) : Keeps z0 (drainWindows s sub) := by
  unfold drainWindows
  repeat' first
    | with_reducible assumption
    | intro _
    | with_reducible apply closeWindows_keeps
    | with_reducible apply waitUntil_keeps
    | with_reducible apply Keeps.foldl
    | with_reducible apply Keeps.foldl_snd2
    | with_reducible apply Keeps.foldl_snd
    | with_reducible apply Keeps.foldl_fst
    | dsimp only

theorem noteCmd_keeps {z0 : State} (s : State) (sub : Nat) (c : DramCmd) (h_ : Keeps z0 s) : Keeps z0 (noteCmd s sub c) := by
  unfold noteCmd
  repeat' first
    | with_reducible assumption
    | exact Eq.refl _
    | with_reducible apply modSub_keeps
    | dsimp only

theorem timeAct_keeps {z0 : State} (s : State) (f : Nat) (sub : Nat) (b : Nat) (row : Nat) (h_ : Keeps z0 s) : Keeps z0 (timeAct s f sub b row) := by
  unfold timeAct
  repeat' first
    | with_reducible assumption
    | exact Eq.refl _
    | with_reducible apply modBank_keeps
    | with_reducible apply modSub_keeps
    | dsimp only

theorem timePre_keeps {z0 : State} (s : State) (f : Nat) (sub : Nat) (b : Nat) (h_ : Keeps z0 s) : Keeps z0 (timePre s f sub b) := by
  unfold timePre
  repeat' first
    | with_reducible assumption
    | exact Eq.refl _
    | with_reducible apply modBank_keeps
    | dsimp only

theorem autoClose_keeps {z0 : State} (s : State) (f : Nat) (b : Nat) (h_ : Keeps z0 s) : Keeps z0 (autoClose s f b) := by
  unfold autoClose
  repeat' first
    | with_reducible assumption
    | exact Eq.refl _
    | with_reducible apply Keeps.ite
    | with_reducible apply modBank_keeps
    | split
    | dsimp only

theorem timeRead_keeps {z0 : State} (s : State) (f : Nat) (sub : Nat) (b : Nat) (h_ : Keeps z0 s) : Keeps z0 (timeRead s f sub b) := by
  unfold timeRead
  repeat' first
    | with_reducible assumption
    | exact Eq.refl _
    | with_reducible apply modBank_keeps
    | with_reducible apply autoClose_keeps
    | with_reducible apply modSub_keeps
    | dsimp only

theorem timeWrite_keeps {z0 : State} (s : State) (f : Nat) (sub : Nat) (b : Nat) (h_ : Keeps z0 s) : Keeps z0 (timeWrite s f sub b) := by
  unfold timeWrite
  repeat' first
    | with_reducible assumption
    | intro _
    | exact Eq.refl _
    | with_reducible apply modBank_keeps
    | with_reducible apply autoClose_keeps
    | with_reducible apply modSub_keeps
    | with_reducible apply forAll_keeps
    | dsimp only

theorem timeBusy_keeps {z0 : State} (s : State) (f : Nat) (sub : Nat) (b : Nat) (tenths : Nat) (h_ : Keeps z0 s) : Keeps z0 (timeBusy s f sub b tenths) := by
  unfold timeBusy
  repeat' first
    | with_reducible assumption
    | exact Eq.refl _
    | with_reducible apply modBank_keeps
    | dsimp only

theorem noteThermal_keeps {z0 : State} (s : State) (b : Nat) (kind : Nat) (h_ : Keeps z0 s) : Keeps z0 (noteThermal s b kind) := by
  unfold noteThermal
  repeat' first
    | with_reducible assumption
    | exact Eq.refl _
    | dsimp only
    | with_reducible apply Keeps.raw

theorem issueAct_keeps {z0 : State} (s : State) (f : Nat) (sub : Nat) (b : Nat) (row : Nat) (h_ : Keeps z0 s) : Keeps z0 (issueAct s f sub b row) := by
  unfold issueAct
  repeat' first
    | with_reducible assumption
    | with_reducible apply noteThermal_keeps
    | with_reducible apply noteCmd_keeps
    | with_reducible apply timeAct_keeps
    | dsimp only

theorem issuePre_keeps {z0 : State} (s : State) (f : Nat) (sub : Nat) (b : Nat) (h_ : Keeps z0 s) : Keeps z0 (issuePre s f sub b) := by
  unfold issuePre
  repeat' first
    | with_reducible assumption
    | with_reducible apply noteCmd_keeps
    | with_reducible apply timePre_keeps
    | dsimp only

theorem countHit_keeps {z0 : State} (s : State) (b : Nat) (h_ : Keeps z0 s) : Keeps z0 (countHit s b) := by
  unfold countHit
  repeat' first
    | with_reducible assumption
    | exact Eq.refl _
    | with_reducible apply modBank_keeps
    | dsimp only

theorem issueRead_keeps {z0 : State} (s : State) (f : Nat) (sub : Nat) (b : Nat) (rid : Nat) (h_ : Keeps z0 s) : Keeps z0 (issueRead s f sub b rid) := by
  unfold issueRead
  repeat' first
    | with_reducible assumption
    | with_reducible apply noteThermal_keeps
    | with_reducible apply noteCmd_keeps
    | with_reducible apply timeRead_keeps
    | with_reducible apply countHit_keeps
    | dsimp only

theorem issueWrite_keeps {z0 : State} (s : State) (f : Nat) (sub : Nat) (b : Nat) (store : Option (Nat × Stored)) (h_ : Keeps z0 s) : Keeps z0 (issueWrite s f sub b store) := by
  unfold issueWrite
  repeat' first
    | with_reducible assumption
    | with_reducible apply noteThermal_keeps
    | with_reducible apply noteCmd_keeps
    | with_reducible apply timeWrite_keeps
    | with_reducible apply countHit_keeps
    | dsimp only

theorem refreshed_keeps {z0 : State} (s : State) (b : Nat) (owed : Bool) (h_ : Keeps z0 s) : Keeps z0 (refreshed s b owed) := by
  unfold refreshed
  repeat' first
    | with_reducible assumption
    | exact Eq.refl _
    | with_reducible apply modBank_keeps
    | dsimp only

theorem unrefreshed_keeps {z0 : State} (s : State) (b : Nat) (owed : Bool) (h_ : Keeps z0 s) : Keeps z0 (unrefreshed s b owed) := by
  unfold unrefreshed
  repeat' first
    | with_reducible assumption
    | exact Eq.refl _
    | with_reducible apply modBank_keeps
    | dsimp only

theorem issueRef_keeps {z0 : State} (s : State) (f : Nat) (sub : Nat) (b : Nat) (h_ : Keeps z0 s) : Keeps z0 (issueRef s f sub b) := by
  unfold issueRef
  repeat' first
    | with_reducible assumption
    | with_reducible apply noteThermal_keeps
    | with_reducible apply noteCmd_keeps
    | with_reducible apply refreshed_keeps
    | with_reducible apply timeBusy_keeps
    | dsimp only

theorem issueElement_keeps {z0 : State} (s : State) (f : Nat) (sub : Nat) (b : Nat) (h_ : Keeps z0 s) : Keeps z0 (issueElement s f sub b) := by
  unfold issueElement
  repeat' first
    | with_reducible assumption
    | exact Eq.refl _
    | with_reducible apply modFlume_keeps
    | with_reducible apply noteCmd_keeps
    | with_reducible apply timeBusy_keeps
    | dsimp only

theorem issueTrain_keeps {z0 : State} (s : State) (f : Nat) (sc : Nat) (p : Pass) (h_ : Keeps z0 s) : Keeps z0 (issueTrain s f sc p) := by
  unfold issueTrain
  repeat' first
    | with_reducible assumption
    | exact Eq.refl _
    | with_reducible apply modFlume_keeps
    | with_reducible apply noteCmd_keeps
    | dsimp only

theorem serveHeld_keeps {z0 : State} (s : State) (f : Nat) (r : Req) (h_ : Keeps z0 s) : Keeps z0 (serveHeld s f r) := by
  unfold serveHeld
  repeat' first
    | with_reducible assumption
    | exact Eq.refl _
    | with_reducible apply Keeps.ite
    | with_reducible apply dropReq_keeps
    | with_reducible apply disarm_keeps
    | with_reducible apply storeLine_keeps
    | with_reducible apply modFlume_keeps
    | split
    | dsimp only

theorem writeOut_keeps {z0 : State} (s : State) (f : Nat) (sub : Nat) (r : Req) (p : Place) (h_ : Keeps z0 s) : Keeps z0 (writeOut s f sub r p) := by
  unfold writeOut
  repeat' first
    | with_reducible assumption
    | with_reducible apply dropReq_keeps
    | with_reducible apply disarm_keeps
    | with_reducible apply issueWrite_keeps
    | with_reducible apply noRefetch_keeps
    | dsimp only

theorem issueCand_keeps {z0 : State} (s0 : State) (f : Nat) (sc : Nat) (x : Cand) (h_ : Keeps z0 s0) : Keeps z0 (issueCand s0 f sc x) := by
  unfold issueCand
  repeat' first
    | with_reducible assumption
    | exact Eq.refl _
    | with_reducible apply Keeps.ite
    | with_reducible apply modSub_keeps
    | with_reducible apply serveAway_keeps
    | with_reducible apply serveHeld_keeps
    | with_reducible apply issueAct_keeps
    | with_reducible apply modBank_keeps
    | with_reducible apply issuePre_keeps
    | with_reducible apply writeOut_keeps
    | with_reducible apply modFlume_keeps
    | with_reducible apply issueRead_keeps
    | split
    | dsimp only

theorem issueAny_keeps {z0 : State} (s : State) (f : Nat) (sc : Nat) (x : Option Cand) (h_ : Keeps z0 s) : Keeps z0 (issueAny s f sc x) := by
  unfold issueAny
  repeat' first
    | with_reducible assumption
    | exact Eq.refl _
    | with_reducible apply issueCand_keeps
    | split
    | dsimp only

theorem issueBest_keeps {z0 : State} (s : State) (f : Nat) (sc : Nat) (h_ : Keeps z0 s) : Keeps z0 (issueBest s f sc) := by
  unfold issueBest
  repeat' first
    | with_reducible assumption
    | exact Eq.refl _
    | with_reducible apply Keeps.ite
    | with_reducible apply issueTrain_keeps
    | with_reducible apply issueAny_keeps
    | split
    | dsimp only

theorem issueNext_keeps {z0 : State} (s : State) (f : Nat) (sc : Nat) (h_ : Keeps z0 s) : Keeps z0 (issueNext s f sc) := by
  unfold issueNext
  repeat' first
    | with_reducible assumption
    | exact Eq.refl _
    | with_reducible apply Keeps.ite
    | with_reducible apply issuePre_keeps
    | with_reducible apply issueRef_keeps
    | with_reducible apply issueElement_keeps
    | with_reducible apply issueBest_keeps
    | split
    | dsimp only

theorem passCycles_keeps {z0 : State} (s : State) (sub : Nat) (gap : Nat) (h_ : Keeps z0 s) : Keeps z0 (passCycles s sub gap) := by
  unfold passCycles
  repeat' first
    | with_reducible assumption
    | exact Eq.refl _
    | with_reducible apply closeWindows_keeps
    | with_reducible apply modSub_keeps
    | dsimp only

theorem abandonSlice_keeps {z0 : State} (s : State) (sub : Nat) (h_ : Keeps z0 s) : Keeps z0 (abandonSlice s sub) := by
  unfold abandonSlice
  repeat' first
    | with_reducible assumption
    | exact Eq.refl _
    | with_reducible apply Keeps.ite
    | with_reducible apply modSub_keeps
    | split
    | dsimp only

theorem followHold_keeps {z0 : State} (s : State) (f : Nat) (h_ : Keeps z0 s) : Keeps z0 (followHold s f) := by
  unfold followHold
  repeat' first
    | with_reducible assumption
    | intro _
    | exact Eq.refl _
    | with_reducible apply Keeps.ite
    | with_reducible apply modFlume_keeps
    | with_reducible apply abandonSlice_keeps
    | with_reducible apply forAll_keeps
    | split
    | dsimp only

theorem takeFlmCtl_keeps {z0 : State} (s : State) (f : Nat) (v : Nat) (h_ : Keeps z0 s) : Keeps z0 (takeFlmCtl s f v) := by
  unfold takeFlmCtl
  repeat' first
    | with_reducible assumption
    | with_reducible apply followHold_keeps
    | with_reducible apply regSet_keeps
    | dsimp only

theorem wakePort_keeps {z0 : State} (s : State) (port : Nat) (h_ : Keeps z0 s) : Keeps z0 (wakePort s port) := by
  unfold wakePort
  repeat' first
    | with_reducible assumption
    | with_reducible apply Keeps.ite
    | with_reducible apply wakeFlume_keeps
    | with_reducible apply wakeDevice_keeps
    | split
    | dsimp only

theorem setPosted_keeps {u s : State} {k : Nat} {x : Option Posted} (h : Keeps u s) :
    Keeps u { s with acc := { s.acc with posted := tabSet none s.acc.posted k x } } :=
  h.upd rfl rfl (List.prefix_refl _) rfl fun w => { w with posted := tabWf_tabSet _ _ _ _ w.posted }

theorem writeNow_keeps {u : State} (s : State) (path off port v : Nat) (take : State → State) (h : Keeps u s)
    (ht : ∀ t, Keeps u t → Keeps u (take t)) : Keeps u (writeNow s path off port v take) := by
  unfold writeNow
  split
  · exact h
  · split
    · exact accessFault_keeps _ _ _ _ h
    · split
      · exact ht s h
      · exact wakePort_keeps _ _ (setPosted_keeps h)

theorem queuePasses_keeps {z0 : State} (s : State) (f : Nat) (sc : Nat) (kind : Nat) (tuned : Bool) (tiers : List Nat) (h_ : Keeps z0 s) : Keeps z0 (queuePasses s f sc kind tuned tiers) := by
  unfold queuePasses
  repeat' first
    | with_reducible assumption
    | intro _
    | exact Eq.refl _
    | with_reducible apply modFlume_keeps
    | with_reducible apply Keeps.foldl
    | with_reducible apply Keeps.foldl_snd2
    | with_reducible apply Keeps.foldl_snd
    | with_reducible apply Keeps.foldl_fst
    | dsimp only

theorem startPass_keeps {z0 : State} (s : State) (f : Nat) (sc : Nat) (h_ : Keeps z0 s) : Keeps z0 (startPass s f sc) := by
  unfold startPass
  repeat' first
    | with_reducible assumption
    | exact Eq.refl _
    | with_reducible apply modFlume_keeps
    | split
    | dsimp only

theorem timeCmd_keeps {z0 : State} (s : State) (f : Nat) (sub : Nat) (c : DramCmd) (h_ : Keeps z0 s) : Keeps z0 (timeCmd s f sub c) := by
  unfold timeCmd
  repeat' first
    | with_reducible assumption
    | exact Eq.refl _
    | with_reducible apply timeAct_keeps
    | with_reducible apply timePre_keeps
    | with_reducible apply timeRead_keeps
    | with_reducible apply timeWrite_keeps
    | with_reducible apply timeBusy_keeps
    | split
    | dsimp only

theorem undoCmd_keeps {z0 : State} (s : State) (e : Issued) (h_ : Keeps z0 s) : Keeps z0 (undoCmd s e) := by
  unfold undoCmd
  repeat' first
    | with_reducible assumption
    | exact Eq.refl _
    | with_reducible apply unrefreshed_keeps
    | split
    | dsimp only

theorem redoCmd_keeps {z0 : State} (s : State) (c : DramCmd) (h_ : Keeps z0 s) : Keeps z0 (redoCmd s c) := by
  unfold redoCmd
  repeat' first
    | with_reducible assumption
    | exact Eq.refl _
    | with_reducible apply refreshed_keeps
    | split
    | dsimp only

theorem reissueAll_keeps {z0 : State} (f : Nat) (sub : Nat) (base : Nat) (first : Nat) (a0_ : List Issued) : ∀ (a1_ : State), Keeps z0 a1_ → Keeps z0 (reissueAll f sub base first a0_ a1_) := by
  induction a0_ with
  | nil =>
    intro a1_ h_
    unfold reissueAll
    repeat' first
      | with_reducible assumption
      | exact Eq.refl _
      | with_reducible apply waitUntil_keeps
      | with_reducible apply redoCmd_keeps
      | with_reducible apply timeCmd_keeps
      | with_reducible apply modSub_keeps
      | split
      | dsimp only
  | cons x_ l_ ih_ =>
    intro a1_ h_
    unfold reissueAll
    repeat' first
      | with_reducible assumption
      | with_reducible apply ih_
      | exact Eq.refl _
      | with_reducible apply waitUntil_keeps
      | with_reducible apply redoCmd_keeps
      | with_reducible apply timeCmd_keeps
      | with_reducible apply modSub_keeps
      | split
      | dsimp only

theorem reissue_keeps {z0 : State} (s : State) (f : Nat) (sub : Nat) (base : Nat) (es : List Issued) (h_ : Keeps z0 s) : Keeps z0 (reissue s f sub base es) := by
  unfold reissue
  repeat' first
    | with_reducible assumption
    | exact Eq.refl _
    | with_reducible apply reissueAll_keeps
    | with_reducible apply modSub_keeps
    | dsimp only

theorem resume_keeps {z0 : State} (s : State) (f : Nat) (sc : Nat) (h_ : Keeps z0 s) : Keeps z0 (resume s f sc) := by
  unfold resume
  repeat' first
    | with_reducible assumption
    | exact Eq.refl _
    | with_reducible apply Keeps.ite
    | with_reducible apply modSub_keeps
    | with_reducible apply reissue_keeps
    | split
    | dsimp only

theorem escalate_keeps {z0 : State} (s0 : State) (f : Nat) (sc : Nat) (tier : Nat) (n : Nat) (es : List Issued) (loop : LoopRes) (h_ : Keeps z0 s0) : Keeps z0 (escalate s0 f sc tier n es loop) := by
  unfold escalate
  repeat' first
    | with_reducible assumption
    | intro _
    | exact Eq.refl _
    | with_reducible apply Keeps.ite
    | with_reducible apply undoCmd_keeps
    | with_reducible apply scEvent_keeps
    | with_reducible apply event_keeps
    | with_reducible apply modSub_keeps
    | with_reducible apply startPass_keeps
    | with_reducible apply queuePasses_keeps
    | with_reducible apply resume_keeps
    | with_reducible apply loopTest_keeps
    | with_reducible apply Keeps.foldl
    | with_reducible apply Keeps.foldl_snd2
    | with_reducible apply Keeps.foldl_snd
    | with_reducible apply Keeps.foldl_fst
    | split
    | dsimp only

theorem readDone_keeps {z0 : State} (s : State) (f : Nat) (r : Req) (d : Decoded) (h_ : Keeps z0 s) : Keeps z0 (readDone s f r d) := by
  unfold readDone
  repeat' first
    | with_reducible assumption
    | exact Eq.refl _
    | with_reducible apply completeRead_keeps
    | with_reducible apply dropReq_keeps
    | with_reducible apply putMerged_keeps
    | split
    | dsimp only

theorem readBad_keeps {z0 : State} (s : State) (f : Nat) (r : Req) (d : Decoded) (h_ : Keeps z0 s) : Keeps z0 (readBad s f r d) := by
  unfold readBad
  repeat' first
    | with_reducible assumption
    | exact Eq.refl _
    | with_reducible apply Keeps.ite
    | with_reducible apply requestCopy_keeps
    | with_reducible apply bumpTotal_keeps
    | with_reducible apply mirrorNotice_keeps
    | with_reducible apply completeRead_keeps
    | with_reducible apply queueWriteBack_keeps
    | with_reducible apply dropReq_keeps
    | with_reducible apply putMerged_keeps
    | split
    | dsimp only

theorem dataBack_keeps {z0 : State} (s : State) (f : Nat) (sub : Nat) (rid : Nat) (h_ : Keeps z0 s) : Keeps z0 (dataBack s f sub rid) := by
  unfold dataBack
  repeat' first
    | with_reducible assumption
    | exact Eq.refl _
    | with_reducible apply closeWindows_keeps
    | with_reducible apply waitUntil_keeps
    | split
    | dsimp only

theorem readAgain_keeps {z0 : State} (s : State) (f : Nat) (sub : Nat) (rid : Nat) (p : Place) (h_ : Keeps z0 s) : Keeps z0 (readAgain s f sub rid p) := by
  unfold readAgain
  repeat' first
    | with_reducible assumption
    | exact Eq.refl _
    | with_reducible apply Keeps.ite
    | with_reducible apply issuePre_keeps
    | with_reducible apply waitUntil_keeps
    | with_reducible apply issueAct_keeps
    | with_reducible apply dataBack_keeps
    | with_reducible apply issueRead_keeps
    | split
    | dsimp only

/-! The meanings: on elements that exist, each answers a next state. -/

theorem execScheduleCommand_runs (f : Nat) (sc : Nat) (gap : Nat) (s : State) (w_ : (Instr.scheduleCommand f sc gap).wf = true) : Runs s (execScheduleCommand f sc gap s) := by
  unfold execScheduleCommand
  repeat' first
    | with_reducible assumption
    | with_reducible exact Keeps.refl _
    | with_reducible apply Runs.next
    | with_reducible apply Runs.ite
    | (with_reducible apply Runs.onElement; (first | assumption | simp_all [Instr.wf, okSub]))
    | with_reducible apply Keeps.ite
    | with_reducible apply passCycles_keeps
    | with_reducible apply issueNext_keeps
    | split
    | dsimp only

theorem execAgePromotion_runs (f : Nat) (rid : Nat) (s : State) (w_ : (Instr.agePromotion f rid).wf = true) : Runs s (execAgePromotion f rid s) := by
  unfold execAgePromotion
  repeat' first
    | with_reducible assumption
    | with_reducible exact Keeps.refl _
    | with_reducible apply Runs.next
    | with_reducible apply Runs.ite
    | (with_reducible apply Runs.onElement; (first | assumption | simp_all [Instr.wf, okF]))
    | exact Eq.refl _
    | with_reducible apply Keeps.ite
    | with_reducible apply modFlume_keeps
    | with_reducible apply abandonSlice_keeps
    | split
    | dsimp only

theorem execUrgencyRise_runs (f : Nat) (rid : Nat) (s : State) (w_ : (Instr.urgencyRise f rid).wf = true) : Runs s (execUrgencyRise f rid s) := by
  unfold execUrgencyRise
  repeat' first
    | with_reducible assumption
    | with_reducible exact Keeps.refl _
    | with_reducible apply Runs.next
    | with_reducible apply Runs.ite
    | (with_reducible apply Runs.onElement; (first | assumption | simp_all [Instr.wf, okF]))
    | exact Eq.refl _
    | with_reducible apply Keeps.ite
    | with_reducible apply modFlume_keeps
    | with_reducible apply abandonSlice_keeps
    | split
    | dsimp only

theorem execRowIdleClose_runs (f : Nat) (sc : Nat) (tier : Nat) (bank : Nat) (s : State) (w_ : (Instr.rowIdleClose f sc tier bank).wf = true) : Runs s (execRowIdleClose f sc tier bank s) := by
  unfold execRowIdleClose
  repeat' first
    | with_reducible assumption
    | with_reducible exact Keeps.refl _
    | with_reducible apply Runs.next
    | with_reducible apply Runs.ite
    | (with_reducible apply Runs.onElement; (first | assumption | simp_all [Instr.wf, okBank, okBay, okSub]))
    | exact Eq.refl _
    | with_reducible apply Keeps.ite
    | with_reducible apply passCycles_keeps
    | with_reducible apply issuePre_keeps
    | split
    | dsimp only

theorem execSustainedOverload_runs (f : Nat) (h : Nat) (s : State) (w_ : (Instr.sustainedOverload f h).wf = true) : Runs s (execSustainedOverload f h s) := by
  unfold execSustainedOverload
  repeat' first
    | with_reducible assumption
    | with_reducible exact Keeps.refl _
    | with_reducible apply Runs.next
    | with_reducible apply Runs.ite
    | (with_reducible apply Runs.onElement; (first | assumption | simp_all [Instr.wf, okF, okHead]))
    | exact Eq.refl _
    | with_reducible apply Keeps.ite
    | with_reducible apply modFlume_keeps
    | with_reducible apply scEvent_keeps
    | with_reducible apply event_keeps
    | split
    | dsimp only

theorem execHoldFlume_runs (path : Nat) (f : Nat) (v : Word) (s : State) (w_ : (Instr.holdFlume path f v).wf = true) : Runs s (execHoldFlume path f v s) := by
  unfold execHoldFlume
  repeat' first
    | with_reducible assumption
    | with_reducible exact Keeps.refl _
    | with_reducible apply Runs.next
    | with_reducible apply Runs.ite
    | (with_reducible apply Runs.onElement; (first | assumption | simp_all [Instr.wf, okPath, okF]))
    | intro _
    | with_reducible apply Keeps.ite
    | with_reducible apply writeNow_keeps
    | with_reducible apply takeFlmCtl_keeps
    | split
    | dsimp only

theorem execFlumeHeld_runs (f : Nat) (s : State) (w_ : (Instr.flumeHeld f).wf = true) : Runs s (execFlumeHeld f s) := by
  unfold execFlumeHeld
  repeat' first
    | with_reducible assumption
    | with_reducible exact Keeps.refl _
    | with_reducible apply Runs.next
    | with_reducible apply Runs.ite
    | (with_reducible apply Runs.onElement; (first | assumption | simp_all [Instr.wf, okF]))
    | intro _
    | exact Eq.refl _
    | with_reducible apply Keeps.ite
    | with_reducible apply modFlume_keeps
    | with_reducible apply drainWindows_keeps
    | with_reducible apply forAll_keeps
    | split
    | dsimp only

theorem execReleaseFlume_runs (path : Nat) (f : Nat) (v : Word) (s : State) (w_ : (Instr.releaseFlume path f v).wf = true) : Runs s (execReleaseFlume path f v s) := by
  unfold execReleaseFlume
  repeat' first
    | with_reducible assumption
    | with_reducible exact Keeps.refl _
    | with_reducible apply Runs.next
    | with_reducible apply Runs.ite
    | (with_reducible apply Runs.onElement; (first | assumption | simp_all [Instr.wf, okPath, okF]))
    | intro _
    | with_reducible apply Keeps.ite
    | with_reducible apply writeNow_keeps
    | with_reducible apply takeFlmCtl_keeps
    | split
    | dsimp only

theorem execCaparError_runs (f : Nat) (sc : Nat) (tier : Nat) (n : Nat) (loop : LoopRes) (s : State) (w_ : (Instr.caparError f sc tier n loop).wf = true) : Runs s (execCaparError f sc tier n loop s) := by
  unfold execCaparError
  repeat' first
    | with_reducible assumption
    | with_reducible exact Keeps.refl _
    | with_reducible apply Runs.next
    | with_reducible apply Runs.ite
    | (with_reducible apply Runs.onElement; (first | assumption | simp_all [Instr.wf, okSub]))
    | intro _
    | exact Eq.refl _
    | with_reducible apply Keeps.ite
    | with_reducible apply takeEffect_keeps
    | with_reducible apply modSub_keeps
    | with_reducible apply escalate_keeps
    | with_reducible apply reissue_keeps
    | with_reducible apply undoCmd_keeps
    | with_reducible apply scEvent_keeps
    | with_reducible apply event_keeps
    | with_reducible apply Keeps.foldl
    | with_reducible apply Keeps.foldl_snd
    | split
    | dsimp only

theorem execReadDataReturn_runs (f : Nat) (rid : Nat) (flips1 : List Nat) (flips2 : List Nat) (s : State) (w_ : (Instr.readDataReturn f rid flips1 flips2).wf = true) : Runs s (execReadDataReturn f rid flips1 flips2 s) := by
  unfold execReadDataReturn
  repeat' first
    | with_reducible assumption
    | with_reducible exact Keeps.refl _
    | with_reducible apply Runs.next
    | with_reducible apply Runs.ite
    | (with_reducible apply Runs.onElement; (first | assumption | simp_all [Instr.wf, okF]))
    | exact Eq.refl _
    | with_reducible apply Keeps.ite
    | with_reducible apply dataBack_keeps
    | with_reducible apply serveAway_keeps
    | with_reducible apply readAgain_keeps
    | with_reducible apply settlePoison_keeps
    | with_reducible apply countRead_keeps
    | with_reducible apply readBad_keeps
    | with_reducible apply readDone_keeps
    | split
    | dsimp only

theorem execTrackerEntryExpiry_runs (f : Nat) (key : Nat) (s : State) (w_ : (Instr.trackerEntryExpiry f key).wf = true) : Runs s (execTrackerEntryExpiry f key s) := by
  unfold execTrackerEntryExpiry
  repeat' first
    | with_reducible assumption
    | with_reducible exact Keeps.refl _
    | with_reducible apply Runs.next
    | with_reducible apply Runs.ite
    | (with_reducible apply Runs.onElement; (first | assumption | simp_all [Instr.wf, okF]))
    | exact Eq.refl _
    | with_reducible apply Keeps.ite
    | with_reducible apply modFlume_keeps
    | split
    | dsimp only

theorem execTrackerWaitExpiry_runs (f : Nat) (key : Nat) (s : State) (w_ : (Instr.trackerWaitExpiry f key).wf = true) : Runs s (execTrackerWaitExpiry f key s) := by
  unfold execTrackerWaitExpiry
  repeat' first
    | with_reducible assumption
    | with_reducible exact Keeps.refl _
    | with_reducible apply Runs.next
    | with_reducible apply Runs.ite
    | (with_reducible apply Runs.onElement; (first | assumption | simp_all [Instr.wf, okF]))
    | exact Eq.refl _
    | with_reducible apply Keeps.ite
    | with_reducible apply modFlume_keeps
    | split
    | dsimp only

end Sys2Proof.Machine
end

