-- ==== Sys2Proof/Laws/KeepsRefresh.lean ====
section
/-! SUPPORT. What the operations of Machine/Refresh.lean keep. -/

set_option Elab.async false

namespace Sys2Proof.Machine

theorem respread_keeps {z0 : State} (s : State) (f : Nat) (t : Nat) (iv : Nat) (h_ : Keeps z0 s) : Keeps z0 (respread s f t iv) := by
  unfold respread
  repeat' first
    | with_reducible assumption
    | intro _
    | exact Eq.refl _
    | with_reducible apply modBank_keeps
    | with_reducible apply forAll_keeps
    | dsimp only

theorem changeBand_keeps {z0 : State} (s : State) (f : Nat) (t : Nat) (g : Flume → Flume) (h_ : Keeps z0 s) : Keeps z0 (changeBand s f t g) := by
  unfold changeBand
  repeat' first
    | with_reducible assumption
    | with_reducible apply Keeps.ite
    | with_reducible apply modFlume_keeps
    | with_reducible apply respread_keeps
    | split
    | dsimp only

theorem postpone_keeps {z0 : State} (s : State) (f : Nat) (b : Nat) (h_ : Keeps z0 s) : Keeps z0 (postpone s f b) := by
  unfold postpone
  repeat' first
    | with_reducible assumption
    | exact Eq.refl _
    | with_reducible apply Keeps.ite
    | with_reducible apply modBank_keeps
    | with_reducible apply scEvent_keeps
    | split
    | dsimp only

theorem brakeStep_keeps {z0 : State} (s : State) (f : Nat) (t : Nat) (h_ : Keeps z0 s) : Keeps z0 (brakeStep s f t) := by
  unfold brakeStep
  repeat' first
    | with_reducible assumption
    | exact Eq.refl _
    | with_reducible apply Keeps.ite
    | with_reducible apply respread_keeps
    | with_reducible apply modFlume_keeps
    | split
    | dsimp only

theorem scrubBad_keeps {z0 : State} (s : State) (f : Nat) (p : Place) (d : Decoded) (line : Option Nat) (dl : Nat) (i : Nat) (env : OpEnv) (later : Bool) (h_ : Keeps z0 s) : Keeps z0 (scrubBad s f p d line dl i env later) := by
  unfold scrubBad
  repeat' first
    | with_reducible assumption
    | exact Eq.refl _
    | with_reducible apply Keeps.ite
    | with_reducible apply refill_keeps
    | with_reducible apply mirrorNotice_keeps
    | with_reducible apply storeBack_keeps
    | with_reducible apply bumpTotal_keeps
    | split
    | dsimp only

theorem scrubCoord_keeps {z0 : State} (s0 : State) (f : Nat) (c : Coord) (env : OpEnv) (later : Bool) (h_ : Keeps z0 s0) : Keeps z0 (scrubCoord s0 f c env later).2 := by
  unfold scrubCoord
  repeat' first
    | with_reducible assumption
    | exact Eq.refl _
    | with_reducible apply Keeps.ite
    | with_reducible apply flushLine_keeps
    | with_reducible apply countAt_keeps
    | with_reducible apply bumpTotal_keeps
    | with_reducible apply scrubBad_keeps
    | with_reducible apply storeBack_keeps
    | split
    | dsimp only

theorem scrubRows_keeps {z0 : State} (s : State) (f : Nat) (sc : Nat) (t : Nat) (b : Nat) (rows : List Nat) (env : OpEnv) (later : Bool) (h_ : Keeps z0 s) : Keeps z0 (scrubRows s f sc t b rows env later) := by
  unfold scrubRows
  repeat' first
    | with_reducible assumption
    | intro _
    | with_reducible apply scrubCoord_keeps
    | with_reducible apply forAll_keeps
    | dsimp only

theorem scrubSpare_keeps {z0 : State} (s : State) (b : Nat) (row : Nat) (flips : List Flip) (h_ : Keeps z0 s) : Keeps z0 (scrubSpare s b row flips) := by
  unfold scrubSpare
  repeat' first
    | with_reducible assumption
    | intro _
    | with_reducible apply Keeps.ite
    | with_reducible apply setStored_keeps
    | with_reducible apply forAll_keeps
    | split
    | dsimp only

theorem canaryBank_keeps {z0 : State} (s : State) (f : Nat) (sc : Nat) (t : Nat) (b : Nat) (env : OpEnv) (later : Bool) (h_ : Keeps z0 s) : Keeps z0 (canaryBank s f sc t b env later).2 := by
  unfold canaryBank
  repeat' first
    | with_reducible assumption
    | intro _
    | with_reducible apply scrubCoord_keeps
    | with_reducible apply Keeps.foldl
    | with_reducible apply Keeps.foldl_snd2
    | with_reducible apply Keeps.foldl_snd
    | with_reducible apply Keeps.foldl_fst
    | dsimp only

theorem canaryTier_keeps {z0 : State} (s : State) (f : Nat) (t : Nat) (env : OpEnv) (later : Bool) (h_ : Keeps z0 s) : Keeps z0 (canaryTier s f t env later).2.2 := by
  unfold canaryTier
  repeat' first
    | with_reducible assumption
    | intro _
    | with_reducible apply Keeps.ite
    | with_reducible apply canaryBank_keeps
    | with_reducible apply Keeps.foldl
    | with_reducible apply Keeps.foldl_snd2
    | with_reducible apply Keeps.foldl_snd
    | with_reducible apply Keeps.foldl_fst
    | split
    | dsimp only

theorem gradeTier_keeps {z0 : State} (s : State) (f : Nat) (t : Nat) (weak : Nat) (failing : List (Nat × Nat)) (sweep : Bool) (h_ : Keeps z0 s) : Keeps z0 (gradeTier s f t weak failing sweep) := by
  unfold gradeTier
  repeat' first
    | with_reducible assumption
    | exact Eq.refl _
    | with_reducible apply Keeps.ite
    | with_reducible apply scEvent_keeps
    | with_reducible apply event_keeps
    | with_reducible apply changeBand_keeps
    | split
    | dsimp only

theorem failInRun_keeps {z0 : State} (s : State) (f : Nat) (t : Nat) (env : OpEnv) (k : Nat × Nat) (h_ : Keeps z0 s) : Keeps z0 (failInRun s f t env k) := by
  unfold failInRun
  repeat' first
    | with_reducible assumption
    | with_reducible apply scrubRows_keeps
    | with_reducible apply event_keeps
    | dsimp only

theorem refetchLine_keeps {z0 : State} (s : State) (f : Nat) (line : Nat) (h_ : Keeps z0 s) : Keeps z0 (refetchLine s f line) := by
  unfold refetchLine
  repeat' first
    | with_reducible assumption
    | exact Eq.refl _
    | with_reducible apply Keeps.ite
    | with_reducible apply modFlume_keeps
    | with_reducible apply askPartner_keeps
    | split
    | dsimp only

/-! The meanings: on elements that exist, each answers a next state. -/

theorem execRefreshDue_runs (f : Nat) (sc : Nat) (tier : Nat) (bank : Nat) (s : State) (w_ : (Instr.refreshDue f sc tier bank).wf = true) : Runs s (execRefreshDue f sc tier bank s) := by
  unfold execRefreshDue
  repeat' first
    | with_reducible assumption
    | with_reducible exact Keeps.refl _
    | with_reducible apply Runs.next
    | with_reducible apply Runs.ite
    | (with_reducible apply Runs.onElement; (first | assumption | simp_all [Instr.wf, okBank, okBay, okSub]))
    | exact Eq.refl _
    | with_reducible apply Keeps.ite
    | with_reducible apply modBank_keeps
    | with_reducible apply postpone_keeps
    | with_reducible apply abandonSlice_keeps
    | split
    | dsimp only

theorem execOwedRefresh_runs (f : Nat) (sc : Nat) (tier : Nat) (bank : Nat) (s : State) (w_ : (Instr.owedRefresh f sc tier bank).wf = true) : Runs s (execOwedRefresh f sc tier bank s) := by
  unfold execOwedRefresh
  repeat' first
    | with_reducible assumption
    | with_reducible exact Keeps.refl _
    | with_reducible apply Runs.next
    | with_reducible apply Runs.ite
    | (with_reducible apply Runs.onElement; (first | assumption | simp_all [Instr.wf, okBank, okBay, okSub]))
    | exact Eq.refl _
    | with_reducible apply Keeps.ite
    | with_reducible apply modBank_keeps
    | split
    | dsimp only

theorem execSelfRefreshDue_runs (f : Nat) (sc : Nat) (tier : Nat) (bank : Nat) (s : State) (w_ : (Instr.selfRefreshDue f sc tier bank).wf = true) : Runs s (execSelfRefreshDue f sc tier bank s) := by
  unfold execSelfRefreshDue
  repeat' first
    | with_reducible assumption
    | with_reducible exact Keeps.refl _
    | with_reducible apply Runs.next
    | with_reducible apply Runs.ite
    | (with_reducible apply Runs.onElement; (first | assumption | simp_all [Instr.wf, okBank, okBay, okSub]))
    | exact Eq.refl _
    | with_reducible apply Keeps.ite
    | with_reducible apply brakeStep_keeps
    | with_reducible apply modBank_keeps
    | split
    | dsimp only

theorem execCanarySweep_runs (f : Nat) (env : OpEnv) (s : State) (w_ : (Instr.canarySweep f env).wf = true) : Runs s (execCanarySweep f env s) := by
  unfold execCanarySweep
  repeat' first
    | with_reducible assumption
    | with_reducible exact Keeps.refl _
    | with_reducible apply Runs.next
    | with_reducible apply Runs.ite
    | (with_reducible apply Runs.onElement; (first | assumption | simp_all [Instr.wf, okF]))
    | intro _
    | exact Eq.refl _
    | with_reducible apply Keeps.ite
    | with_reducible apply modFlume_keeps
    | with_reducible apply lookups_keeps
    | with_reducible apply canaryTier_keeps
    | with_reducible apply failInRun_keeps
    | with_reducible apply gradeTier_keeps
    | with_reducible apply forAll_keeps
    | with_reducible apply Keeps.foldl
    | with_reducible apply Keeps.foldl_snd
    | split
    | dsimp only

theorem execRetentionScrubDone_runs (f : Nat) (sc : Nat) (tier : Nat) (bank : Nat) (env : OpEnv) (s : State) (w_ : (Instr.retentionScrubDone f sc tier bank env).wf = true) : Runs s (execRetentionScrubDone f sc tier bank env s) := by
  unfold execRetentionScrubDone
  repeat' first
    | with_reducible assumption
    | with_reducible exact Keeps.refl _
    | with_reducible apply Runs.next
    | with_reducible apply Runs.ite
    | (with_reducible apply Runs.onElement; (first | assumption | simp_all [Instr.wf, okBank, okBay, okSub]))
    | intro _
    | exact Eq.refl _
    | with_reducible apply Keeps.ite
    | with_reducible apply scrubRows_keeps
    | with_reducible apply lookups_keeps
    | with_reducible apply scrubSpare_keeps
    | with_reducible apply modBank_keeps
    | with_reducible apply refetchLine_keeps
    | with_reducible apply mirrorNotice_keeps
    | with_reducible apply forAll_keeps
    | with_reducible apply Keeps.foldl
    | with_reducible apply Keeps.foldl_snd
    | split
    | dsimp only

end Sys2Proof.Machine
end

