-- ==== Sys2Proof/Laws/KeepsSelfTest.lean ====
section
/-! SUPPORT. What the operations of Machine/SelfTest.lean keep. -/

set_option Elab.async false

namespace Sys2Proof.Machine

theorem noteFail_keeps {z0 : State} (s : State) (h_ : Keeps z0 s) : Keeps z0 (noteFail s) := by
  unfold noteFail
  repeat' first
    | with_reducible assumption
    | with_reducible apply event_keeps
    | with_reducible apply scEvent_keeps
    | dsimp only

theorem sliceRan_keeps {z0 : State} (s : State) (h_ : Keeps z0 s) : Keeps z0 (sliceRan s) := by
  unfold sliceRan
  repeat' first
    | with_reducible assumption
    | exact Eq.refl _
    | with_reducible apply Keeps.ite
    | split
    | dsimp only
    | with_reducible apply Keeps.raw

theorem moveRefetch_keeps {z0 : State} (s : State) (f : Nat) (line : Option Nat) (h_ : Keeps z0 s) : Keeps z0 (moveRefetch s f line) := by
  unfold moveRefetch
  repeat' first
    | with_reducible assumption
    | exact Eq.refl _
    | with_reducible apply Keeps.ite
    | with_reducible apply mirrorNotice_keeps
    | with_reducible apply refetchLine_keeps
    | split
    | dsimp only

theorem moveCount_keeps {z0 : State} (s : State) (f : Nat) (line : Option Nat) (d : Decoded) (retried : Bool) (tracked : Bool) (h_ : Keeps z0 s) : Keeps z0 (moveCount s f line d retried tracked) := by
  unfold moveCount
  repeat' first
    | with_reducible assumption
    | exact Eq.refl _
    | with_reducible apply Keeps.ite
    | with_reducible apply countRead_keeps
    | split
    | dsimp only

theorem moveLine_keeps {z0 : State} (s : State) (f : Nat) (from_ : Place) (to_ : Place) (line : Option Nat) (tracked : Bool) (env : OpEnv) (h_ : Keeps z0 s) : Keeps z0 (moveLine s f from_ to_ line tracked env) := by
  unfold moveLine
  repeat' first
    | with_reducible assumption
    | exact Eq.refl _
    | with_reducible apply Keeps.ite
    | with_reducible apply moveCount_keeps
    | with_reducible apply bumpTotal_keeps
    | with_reducible apply storeBack_keeps
    | with_reducible apply moveRefetch_keeps
    | split
    | dsimp only

theorem mapApply_keeps {z0 : State} (s : State) (f : Nat) (h_ : Keeps z0 s) : Keeps z0 (mapApply s f) := by
  unfold mapApply
  repeat' first
    | with_reducible assumption
    | intro _
    | exact Eq.refl _
    | with_reducible apply Keeps.ite
    | with_reducible apply modFlume_keeps
    | with_reducible apply scEvent_keeps
    | with_reducible apply event_keeps
    | with_reducible apply Keeps.foldl
    | with_reducible apply Keeps.foldl_snd2
    | with_reducible apply Keeps.foldl_snd
    | with_reducible apply Keeps.foldl_fst
    | split
    | dsimp only

theorem takeMapApply_keeps {z0 : State} (s : State) (path : Nat) (f : Nat) (v : Nat) (h_ : Keeps z0 s) : Keeps z0 (takeMapApply s path f v) := by
  unfold takeMapApply
  repeat' first
    | with_reducible assumption
    | with_reducible apply Keeps.ite
    | with_reducible apply accessFault_keeps
    | with_reducible apply mapApply_keeps
    | split
    | dsimp only

/-! The meanings: on elements that exist, each answers a next state. -/

theorem execRemapTallyWrite_runs (f : Nat) (ok : Bool) (s : State) (w_ : (Instr.remapTallyWrite f ok).wf = true) : Runs s (execRemapTallyWrite f ok s) := by
  unfold execRemapTallyWrite
  repeat' first
    | with_reducible assumption
    | with_reducible exact Keeps.refl _
    | with_reducible apply Runs.next
    | with_reducible apply Runs.ite
    | (with_reducible apply Runs.onElement; (first | assumption | simp_all [Instr.wf, okF]))
    | exact Eq.refl _
    | with_reducible apply Keeps.ite
    | with_reducible apply modFlume_keeps
    | with_reducible apply tallyFail_keeps
    | split
    | dsimp only
    | with_reducible apply Keeps.raw

theorem execRepairTallyWrite_runs (f : Nat) (ok : Bool) (s : State) (w_ : (Instr.repairTallyWrite f ok).wf = true) : Runs s (execRepairTallyWrite f ok s) := by
  unfold execRepairTallyWrite
  repeat' first
    | with_reducible assumption
    | with_reducible exact Keeps.refl _
    | with_reducible apply Runs.next
    | with_reducible apply Runs.ite
    | (with_reducible apply Runs.onElement; (first | assumption | simp_all [Instr.wf, okF]))
    | exact Eq.refl _
    | with_reducible apply Keeps.ite
    | with_reducible apply modFlume_keeps
    | with_reducible apply tallyFail_keeps
    | with_reducible apply event_keeps
    | split
    | dsimp only
    | with_reducible apply Keeps.raw

theorem execDramSliceStart_runs (f : Nat) (sc : Nat) (tier : Nat) (bank : Nat) (row : Nat) (s : State) (w_ : (Instr.dramSliceStart f sc tier bank row).wf = true) : Runs s (execDramSliceStart f sc tier bank row s) := by
  unfold execDramSliceStart
  repeat' first
    | with_reducible assumption
    | with_reducible exact Keeps.refl _
    | with_reducible apply Runs.next
    | with_reducible apply Runs.ite
    | (with_reducible apply Runs.onElement; (first | assumption | simp_all [Instr.wf, okBank, okBay, okSub]))
    | exact Eq.refl _
    | with_reducible apply Keeps.ite
    | with_reducible apply modFlume_keeps
    | with_reducible apply modBank_keeps
    | split
    | dsimp only

theorem execDramSliceEnd_runs (f : Nat) (sc : Nat) (fails : List (Nat × Nat)) (badSpares : List Nat) (s : State) (w_ : (Instr.dramSliceEnd f sc fails badSpares).wf = true) : Runs s (execDramSliceEnd f sc fails badSpares s) := by
  unfold execDramSliceEnd
  repeat' first
    | with_reducible assumption
    | with_reducible exact Keeps.refl _
    | with_reducible apply Runs.next
    | with_reducible apply Runs.ite
    | (with_reducible apply Runs.onElement; (first | assumption | simp_all [Instr.wf, okSub]))
    | exact Eq.refl _
    | with_reducible apply Keeps.ite
    | with_reducible apply modFlume_keeps
    | with_reducible apply putRow_keeps
    | with_reducible apply sliceRan_keeps
    | with_reducible apply repairFailure_keeps
    | with_reducible apply noteFail_keeps
    | split
    | dsimp only

theorem execLogicSliceStart_runs (f : Nat) (sc : Nat) (s : State) (w_ : (Instr.logicSliceStart f sc).wf = true) : Runs s (execLogicSliceStart f sc s) := by
  unfold execLogicSliceStart
  repeat' first
    | with_reducible assumption
    | with_reducible exact Keeps.refl _
    | with_reducible apply Runs.next
    | with_reducible apply Runs.ite
    | (with_reducible apply Runs.onElement; (first | assumption | simp_all [Instr.wf, okSub]))
    | exact Eq.refl _
    | with_reducible apply Keeps.ite
    | with_reducible apply modSub_keeps
    | split
    | dsimp only

theorem execLogicSliceEnd_runs (f : Nat) (sc : Nat) (pass : Bool) (s : State) (w_ : (Instr.logicSliceEnd f sc pass).wf = true) : Runs s (execLogicSliceEnd f sc pass s) := by
  unfold execLogicSliceEnd
  repeat' first
    | with_reducible assumption
    | with_reducible exact Keeps.refl _
    | with_reducible apply Runs.next
    | with_reducible apply Runs.ite
    | (with_reducible apply Runs.onElement; (first | assumption | simp_all [Instr.wf, okSub]))
    | exact Eq.refl _
    | with_reducible apply Keeps.ite
    | with_reducible apply sliceRan_keeps
    | with_reducible apply modSub_keeps
    | with_reducible apply withdrawSub_keeps
    | with_reducible apply noteFail_keeps
    | split
    | dsimp only

theorem execInServicePass_runs (s : State) : Runs s (execInServicePass s) := by
  unfold execInServicePass
  repeat' first
    | with_reducible assumption
    | with_reducible exact Keeps.refl _
    | with_reducible apply Runs.next
    | with_reducible apply Runs.ite
    | exact Eq.refl _
    | with_reducible apply Keeps.ite
    | with_reducible apply scEvent_keeps
    | split
    | dsimp only
    | with_reducible apply Keeps.raw

theorem execMigrationRow_runs (f : Nat) (sc : Nat) (env : OpEnv) (s : State) (w_ : (Instr.migrationRow f sc env).wf = true) : Runs s (execMigrationRow f sc env s) := by
  unfold execMigrationRow
  repeat' first
    | with_reducible assumption
    | with_reducible exact Keeps.refl _
    | with_reducible apply Runs.next
    | with_reducible apply Runs.ite
    | (with_reducible apply Runs.onElement; (first | assumption | simp_all [Instr.wf, okSub]))
    | intro _
    | exact Eq.refl _
    | with_reducible apply Keeps.ite
    | with_reducible apply lookups_keeps
    | with_reducible apply moveLine_keeps
    | with_reducible apply modFlume_keeps
    | with_reducible apply releaseRemap_keeps
    | with_reducible apply forAll_keeps
    | split
    | dsimp only

theorem execColumnGroupMoveRow_runs (f : Nat) (sc : Nat) (tier : Nat) (bank : Nat) (env : OpEnv) (s : State) (w_ : (Instr.columnGroupMoveRow f sc tier bank env).wf = true) : Runs s (execColumnGroupMoveRow f sc tier bank env s) := by
  unfold execColumnGroupMoveRow
  repeat' first
    | with_reducible assumption
    | with_reducible exact Keeps.refl _
    | with_reducible apply Runs.next
    | with_reducible apply Runs.ite
    | (with_reducible apply Runs.onElement; (first | assumption | simp_all [Instr.wf, okBank, okBay, okSub]))
    | intro _
    | exact Eq.refl _
    | with_reducible apply Keeps.ite
    | with_reducible apply lookups_keeps
    | with_reducible apply moveLine_keeps
    | with_reducible apply modBank_keeps
    | with_reducible apply forAll_keeps
    | split
    | dsimp only

theorem execFlmMapApply_runs (path : Nat) (f : Nat) (s : State) (w_ : (Instr.flmMapApply path f).wf = true) : Runs s (execFlmMapApply path f s) := by
  unfold execFlmMapApply
  repeat' first
    | with_reducible assumption
    | with_reducible exact Keeps.refl _
    | with_reducible apply Runs.next
    | with_reducible apply Runs.ite
    | (with_reducible apply Runs.onElement; (first | assumption | simp_all [Instr.wf, okPath, okF]))
    | intro _
    | with_reducible apply Keeps.ite
    | with_reducible apply writeNow_keeps
    | with_reducible apply takeMapApply_keeps
    | split
    | dsimp only

end Sys2Proof.Machine
end

