-- ==== Sys2Proof/Laws/KeepsGuard.lean ====
section
/-! SUPPORT. What the operations of Machine/Guard.lean keep. -/

set_option Elab.async false

namespace Sys2Proof.Machine

theorem guardAdjust_keeps {u : State} (old new : State) (h : Keeps u new) : Keeps u (guardAdjust old new) := by
  unfold guardAdjust
  split
  · exact h
  · exact h.raw rfl rfl rfl rfl rfl rfl rfl rfl

end Sys2Proof.Machine
end

