-- ==== Sys2Proof/Laws/KeepsRings.lean ====
section
/-! SUPPORT. What the operations of Machine/Rings.lean keep. -/

set_option Elab.async false

namespace Sys2Proof.Machine

theorem ringNotice_keeps {z0 : State} (s : State) (n : Nat) (h_ : Keeps z0 s) : Keeps z0 (ringNotice s n) := by
  unfold ringNotice
  repeat' first
    | with_reducible assumption
    | with_reducible apply event_keeps
    | dsimp only

theorem newDesc_keeps {z0 : State} (s : State) (n : Nat) (members : List (List Byte)) (h_ : Keeps z0 s) : Keeps z0 (newDesc s n members).2 := by
  unfold newDesc
  repeat' first
    | with_reducible assumption
    | exact Eq.refl _
    | with_reducible apply modPair_keeps
    | with_reducible apply putDesc_keeps
    | dsimp only
    | with_reducible apply Keeps.raw

theorem dropDesc_keeps {z0 : State} (s : State) (d : Nat) (h_ : Keeps z0 s) : Keeps z0 (dropDesc s d) := by
  unfold dropDesc
  repeat' first
    | with_reducible assumption
    | intro _
    | exact Eq.refl _
    | with_reducible apply putPart_keeps
    | with_reducible apply modPair_keeps
    | with_reducible apply putDesc_keeps
    | with_reducible apply forAll_keeps
    | split
    | dsimp only

theorem stopPart_keeps {z0 : State} (s : State) (p : Nat) (h_ : Keeps z0 s) : Keeps z0 (stopPart s p) := by
  unfold stopPart
  repeat' first
    | with_reducible assumption
    | exact Eq.refl _
    | with_reducible apply Keeps.ite
    | with_reducible apply modPart_keeps
    | with_reducible apply modMill_keeps
    | split
    | dsimp only
    | with_reducible apply Keeps.raw

theorem stopParts_keeps {z0 : State} (s : State) (d : Nat) (h_ : Keeps z0 s) : Keeps z0 (stopParts s d) := by
  unfold stopParts
  repeat' first
    | with_reducible assumption
    | intro _
    | exact Eq.refl _
    | with_reducible apply stopPart_keeps
    | with_reducible apply forAll_keeps
    | split
    | dsimp only

theorem stopPair_keeps {z0 : State} (s : State) (n : Nat) (err : Nat) (slot : Nat) (h_ : Keeps z0 s) : Keeps z0 (stopPair s n err slot) := by
  unfold stopPair
  repeat' first
    | with_reducible assumption
    | exact Eq.refl _
    | with_reducible apply modPair_keeps
    | with_reducible apply ringNotice_keeps
    | with_reducible apply scEvent_keeps
    | dsimp only

theorem enablePair_keeps {z0 : State} (s : State) (n : Nat) (h_ : Keeps z0 s) : Keeps z0 (enablePair s n) := by
  unfold enablePair
  repeat' first
    | with_reducible assumption
    | exact Eq.refl _
    | with_reducible apply Keeps.ite
    | with_reducible apply modPair_keeps
    | with_reducible apply ringNotice_keeps
    | split
    | dsimp only

theorem drainPair_keeps {z0 : State} (s : State) (n : Nat) (h_ : Keeps z0 s) : Keeps z0 (drainPair s n) := by
  unfold drainPair
  repeat' first
    | with_reducible assumption
    | exact Eq.refl _
    | with_reducible apply Keeps.ite
    | with_reducible apply modPair_keeps
    | split
    | dsimp only

theorem resetPair_keeps {z0 : State} (s : State) (n : Nat) (clear : Bool) (h_ : Keeps z0 s) : Keeps z0 (resetPair s n clear) := by
  unfold resetPair
  repeat' first
    | with_reducible assumption
    | intro _
    | exact Eq.refl _
    | with_reducible apply modPair_keeps
    | with_reducible apply modDesc_keeps
    | with_reducible apply stopParts_keeps
    | with_reducible apply forAll_keeps
    | dsimp only

theorem resetHeadPairs_keeps {z0 : State} (s : State) (h : Nat) (h_ : Keeps z0 s) : Keeps z0 (resetHeadPairs s h) := by
  unfold resetHeadPairs
  repeat' first
    | with_reducible assumption
    | intro _
    | with_reducible apply resetPair_keeps
    | with_reducible apply forAll_keeps
    | dsimp only

theorem zeroPair_keeps {z0 : State} (s : State) (n : Nat) (h_ : Keeps z0 s) : Keeps z0 (zeroPair s n) := by
  unfold zeroPair
  repeat' first
    | with_reducible assumption
    | exact Eq.refl _
    | with_reducible apply regPut_keeps
    | with_reducible apply modPair_keeps
    | dsimp only

theorem drainedPair_keeps {z0 : State} (s : State) (n : Nat) (h_ : Keeps z0 s) : Keeps z0 (drainedPair s n) := by
  unfold drainedPair
  repeat' first
    | with_reducible assumption
    | exact Eq.refl _
    | with_reducible apply modPair_keeps
    | dsimp only

theorem takeRngCmd_keeps {z0 : State} (s : State) (n : Nat) (v : Nat) (h_ : Keeps z0 s) : Keeps z0 (takeRngCmd s n v) := by
  unfold takeRngCmd
  repeat' first
    | with_reducible assumption
    | with_reducible apply Keeps.ite
    | with_reducible apply regPut_keeps
    | with_reducible apply resetPair_keeps
    | with_reducible apply enablePair_keeps
    | with_reducible apply drainPair_keeps
    | split
    | dsimp only

theorem dropDoorbell_keeps {z0 : State} (s : State) (n : Nat) (h_ : Keeps z0 s) : Keeps z0 (dropDoorbell s n) := by
  unfold dropDoorbell
  repeat' first
    | with_reducible assumption
    | with_reducible apply scEvent_keeps
    | dsimp only

theorem doorbellArrives_keeps {z0 : State} (s : State) (path : Nat) (h_ : Keeps z0 s) : Keeps z0 (doorbellArrives s path) := by
  unfold doorbellArrives
  repeat' first
    | with_reducible assumption
    | with_reducible apply Keeps.ite
    | with_reducible apply wakeDevice_keeps
    | with_reducible apply lapseHint_keeps
    | split
    | dsimp only

theorem doorbell_keeps {z0 : State} (s : State) (path : Nat) (n : Nat) (act : State → State) (h_ : Keeps z0 s) (hf_ : ∀ a0, Keeps z0 a0 → Keeps z0 (act a0)) : Keeps z0 (doorbell s path n act) := by
  unfold doorbell
  repeat' first
    | with_reducible assumption
    | intro _
    | with_reducible apply hf_
    | with_reducible apply Keeps.ite
    | with_reducible apply doorbellArrives_keeps
    | with_reducible apply dropDoorbell_keeps
    | split
    | dsimp only

theorem takeTail_keeps {z0 : State} (s : State) (n : Nat) (tail : Nat) (h_ : Keeps z0 s) : Keeps z0 (takeTail s n tail) := by
  unfold takeTail
  repeat' first
    | with_reducible assumption
    | exact Eq.refl _
    | with_reducible apply Keeps.ite
    | with_reducible apply stopPair_keeps
    | with_reducible apply modPair_keeps
    | split
    | dsimp only

theorem takeHead_keeps {z0 : State} (s : State) (n : Nat) (head : Nat) (h_ : Keeps z0 s) : Keeps z0 (takeHead s n head) := by
  unfold takeHead
  repeat' first
    | with_reducible assumption
    | exact Eq.refl _
    | with_reducible apply Keeps.ite
    | with_reducible apply setPosted_keeps
    | with_reducible apply stopPair_keeps
    | with_reducible apply modPair_keeps
    | split
    | dsimp only

theorem fetchFailure_keeps {z0 : State} (s : State) (n : Nat) (slot : Nat) (h_ : Keeps z0 s) : Keeps z0 (fetchFailure s n slot) := by
  unfold fetchFailure
  repeat' first
    | with_reducible assumption
    | with_reducible apply newDesc_keeps
    | with_reducible apply stopPair_keeps
    | with_reducible apply finishDesc_keeps
    | dsimp only

theorem fetchSlots_keeps {u : State} (n : Nat) (host : List Host.Cell) (k : Nat) : ∀ s : State, Keeps u s →
    Keeps u (fetchSlots n host k s) := by
  induction k with
  | zero => exact fun _ h => h
  | succ k ih =>
    intro s h
    unfold fetchSlots
    dsimp only
    split
    · exact h
    · split
      · exact fetchFailure_keeps _ _ _ h
      · exact ih _ (modPair_keeps h)

theorem signalPair_keeps {z0 : State} (s : State) (n : Nat) (h_ : Keeps z0 s) : Keeps z0 (signalPair s n) := by
  unfold signalPair
  repeat' first
    | with_reducible assumption
    | exact Eq.refl _
    | with_reducible apply sendMsix_keeps
    | with_reducible apply modPair_keeps
    | dsimp only

/-! The meanings: on elements that exist, each answers a next state. -/

theorem execRingEnable_runs (path : Nat) (n : Nat) (s : State) (w_ : (Instr.ringEnable path n).wf = true) : Runs s (execRingEnable path n s) := by
  unfold execRingEnable
  repeat' first
    | with_reducible assumption
    | with_reducible exact Keeps.refl _
    | with_reducible apply Runs.next
    | with_reducible apply Runs.ite
    | (with_reducible apply Runs.onElement; (first | assumption | simp_all [Instr.wf, okPath, okPair]))
    | intro _
    | with_reducible apply Keeps.ite
    | with_reducible apply writeNow_keeps
    | with_reducible apply takeRngCmd_keeps
    | split
    | dsimp only

theorem execRingDrain_runs (path : Nat) (n : Nat) (s : State) (w_ : (Instr.ringDrain path n).wf = true) : Runs s (execRingDrain path n s) := by
  unfold execRingDrain
  repeat' first
    | with_reducible assumption
    | with_reducible exact Keeps.refl _
    | with_reducible apply Runs.next
    | with_reducible apply Runs.ite
    | (with_reducible apply Runs.onElement; (first | assumption | simp_all [Instr.wf, okPath, okPair]))
    | intro _
    | with_reducible apply Keeps.ite
    | with_reducible apply writeNow_keeps
    | with_reducible apply takeRngCmd_keeps
    | split
    | dsimp only

theorem execRingReset_runs (path : Nat) (n : Nat) (s : State) (w_ : (Instr.ringReset path n).wf = true) : Runs s (execRingReset path n s) := by
  unfold execRingReset
  repeat' first
    | with_reducible assumption
    | with_reducible exact Keeps.refl _
    | with_reducible apply Runs.next
    | with_reducible apply Runs.ite
    | (with_reducible apply Runs.onElement; (first | assumption | simp_all [Instr.wf, okPath, okPair]))
    | intro _
    | with_reducible apply Keeps.ite
    | with_reducible apply writeNow_keeps
    | with_reducible apply takeRngCmd_keeps
    | split
    | dsimp only

theorem execRingDrainDone_runs (n : Nat) (s : State) (w_ : (Instr.ringDrainDone n).wf = true) : Runs s (execRingDrainDone n s) := by
  unfold execRingDrainDone
  repeat' first
    | with_reducible assumption
    | with_reducible exact Keeps.refl _
    | with_reducible apply Runs.next
    | with_reducible apply Runs.ite
    | (with_reducible apply Runs.onElement; (first | assumption | simp_all [Instr.wf, okPair]))
    | with_reducible apply Keeps.ite
    | with_reducible apply drainedPair_keeps
    | split
    | dsimp only

theorem execSqTail_runs (path : Nat) (n : Nat) (v : Word) (s : State) (w_ : (Instr.sqTail path n v).wf = true) : Runs s (execSqTail path n v s) := by
  unfold execSqTail
  repeat' first
    | with_reducible assumption
    | with_reducible exact Keeps.refl _
    | with_reducible apply Runs.next
    | with_reducible apply Runs.ite
    | (with_reducible apply Runs.onElement; (first | assumption | simp_all [Instr.wf, okPath, okPair]))
    | intro _
    | with_reducible apply Keeps.ite
    | with_reducible apply doorbell_keeps
    | with_reducible apply takeTail_keeps
    | split
    | dsimp only

theorem execCqHead_runs (path : Nat) (n : Nat) (v : Word) (s : State) (w_ : (Instr.cqHead path n v).wf = true) : Runs s (execCqHead path n v s) := by
  unfold execCqHead
  repeat' first
    | with_reducible assumption
    | with_reducible exact Keeps.refl _
    | with_reducible apply Runs.next
    | with_reducible apply Runs.ite
    | (with_reducible apply Runs.onElement; (first | assumption | simp_all [Instr.wf, okPath, okPair]))
    | intro _
    | with_reducible apply Keeps.ite
    | with_reducible apply doorbell_keeps
    | with_reducible apply takeHead_keeps
    | split
    | dsimp only

theorem execDescriptorFetch_runs (n : Nat) (k : Nat) (host : List Host.Cell) (s : State) (w_ : (Instr.descriptorFetch n k host).wf = true) : Runs s (execDescriptorFetch n k host s) := by
  unfold execDescriptorFetch
  repeat' first
    | with_reducible assumption
    | with_reducible exact Keeps.refl _
    | with_reducible apply Runs.next
    | with_reducible apply Runs.ite
    | (with_reducible apply Runs.onElement; (first | assumption | simp_all [Instr.wf, okPair]))
    | with_reducible apply Keeps.ite
    | with_reducible apply wakeDevice_keeps
    | with_reducible apply fetchSlots_keeps
    | split
    | dsimp only

theorem execCoalesceTimer_runs (n : Nat) (s : State) (w_ : (Instr.coalesceTimer n).wf = true) : Runs s (execCoalesceTimer n s) := by
  unfold execCoalesceTimer
  repeat' first
    | with_reducible assumption
    | with_reducible exact Keeps.refl _
    | with_reducible apply Runs.next
    | with_reducible apply Runs.ite
    | (with_reducible apply Runs.onElement; (first | assumption | simp_all [Instr.wf, okPair]))
    | exact Eq.refl _
    | with_reducible apply Keeps.ite
    | with_reducible apply signalPair_keeps
    | split
    | dsimp only

theorem execMsixPendingSend_runs (h : Nat) (vec : Nat) (s : State) (w_ : (Instr.msixPendingSend h vec).wf = true) : Runs s (execMsixPendingSend h vec s) := by
  unfold execMsixPendingSend
  repeat' first
    | with_reducible assumption
    | with_reducible exact Keeps.refl _
    | with_reducible apply Runs.next
    | with_reducible apply Runs.ite
    | (with_reducible apply Runs.onElement; (first | assumption | simp_all [Instr.wf, okHead]))
    | exact Eq.refl _
    | with_reducible apply Keeps.ite
    | with_reducible apply sendMsix_keeps
    | with_reducible apply modHead_keeps
    | split
    | dsimp only

end Sys2Proof.Machine
end

