-- ==== Sys2Proof/Laws/KeepsDispatcher.lean ====
section
/-! SUPPORT. What the operations of Machine/Dispatcher.lean keep. -/

set_option Elab.async false

namespace Sys2Proof.Machine

theorem storePart_keeps {z0 : State} (s : State) (p : Nat) (h_ : Keeps z0 s) : Keeps z0 (storePart s p) := by
  unfold storePart
  repeat' first
    | with_reducible assumption
    | exact Eq.refl _
    | dsimp only
    | with_reducible apply Keeps.raw

theorem queuePart_keeps {z0 : State} (s : State) (p : Nat) (m : Nat) (h_ : Keeps z0 s) : Keeps z0 (queuePart s p m) := by
  unfold queuePart
  repeat' first
    | with_reducible assumption
    | exact Eq.refl _
    | with_reducible apply Keeps.ite
    | with_reducible apply modPart_keeps
    | with_reducible apply modMill_keeps
    | with_reducible apply storePart_keeps
    | split
    | dsimp only

theorem failPart_keeps {z0 : State} (s : State) (p : Nat) (status : Nat) (h_ : Keeps z0 s) : Keeps z0 (failPart s p status) := by
  unfold failPart
  repeat' first
    | with_reducible assumption
    | intro _
    | exact Eq.refl _
    | with_reducible apply modPart_keeps
    | with_reducible apply stopPart_keeps
    | with_reducible apply forAll_keeps
    | split
    | dsimp only

theorem placePart_keeps {z0 : State} (s : State) (p : Nat) (h_ : Keeps z0 s) : Keeps z0 (placePart s p) := by
  unfold placePart
  repeat' first
    | with_reducible assumption
    | exact Eq.refl _
    | with_reducible apply Keeps.ite
    | with_reducible apply queuePart_keeps
    | with_reducible apply failPart_keeps
    | with_reducible apply storePart_keeps
    | split
    | dsimp only

theorem refillMills_keeps {z0 : State} (s : State) (h_ : Keeps z0 s) : Keeps z0 (refillMills s) := by
  unfold refillMills
  repeat' first
    | with_reducible assumption
    | intro _
    | exact Eq.refl _
    | with_reducible apply placePart_keeps
    | with_reducible apply Keeps.foldl
    | with_reducible apply Keeps.foldl_snd2
    | with_reducible apply Keeps.foldl_snd
    | with_reducible apply Keeps.foldl_fst
    | dsimp only
    | with_reducible apply Keeps.raw

theorem leaveDispatch_keeps {z0 : State} (s : State) (m : Nat) (h_ : Keeps z0 s) : Keeps z0 (leaveDispatch s m) := by
  unfold leaveDispatch
  repeat' first
    | with_reducible assumption
    | intro _
    | exact Eq.refl _
    | with_reducible apply modMill_keeps
    | with_reducible apply refillMills_keeps
    | with_reducible apply placePart_keeps
    | with_reducible apply Keeps.foldl
    | with_reducible apply Keeps.foldl_snd2
    | with_reducible apply Keeps.foldl_snd
    | with_reducible apply Keeps.foldl_fst
    | dsimp only

theorem readUnit_keeps {z0 : State} (s : State) (env : OpEnv) (k : Nat) (h_ : Keeps z0 s) : Keeps z0 (readUnit s env k).2 := by
  unfold readUnit
  repeat' first
    | with_reducible assumption
    | exact Eq.refl _
    | with_reducible apply Keeps.ite
    | with_reducible apply bumpFree_keeps
    | with_reducible apply readLine_keeps
    | split
    | dsimp only

theorem readUnits_keeps {z0 : State} (s : State) (env : OpEnv) (ks : List Nat) (h_ : Keeps z0 s) : Keeps z0 (readUnits s env ks).2 := by
  unfold readUnits
  repeat' first
    | with_reducible assumption
    | intro _
    | with_reducible apply readUnit_keeps
    | with_reducible apply Keeps.foldl
    | with_reducible apply Keeps.foldl_snd2
    | with_reducible apply Keeps.foldl_snd
    | with_reducible apply Keeps.foldl_fst
    | dsimp only

theorem sieveStep_keeps {z0 : State} (s : State) (h : Nat) (env : OpEnv) (m : List Byte) (h_ : Keeps z0 s) : Keeps z0 (sieveStep s h env m).2 := by
  unfold sieveStep
  repeat' first
    | with_reducible assumption
    | exact Eq.refl _
    | with_reducible apply Keeps.ite
    | with_reducible apply readUnits_keeps
    | split
    | dsimp only

theorem checkChain_keeps {z0 : State} (s : State) (h : Nat) (env : OpEnv) (ms : List (List Byte)) (h_ : Keeps z0 s) : Keeps z0 (checkChain s h env ms).2 := by
  unfold checkChain
  repeat' first
    | with_reducible assumption
    | exact Eq.refl _
    | with_reducible apply sieveStep_keeps
    | split
    | dsimp only

theorem createPart_keeps {z0 : State} (did : Nat) (merge : Bool) (s : State) (e : Option Nat × List (Nat × Nat)) (h_ : Keeps z0 s) : Keeps z0 (createPart did merge s e) := by
  unfold createPart
  repeat' first
    | with_reducible assumption
    | exact Eq.refl _
    | with_reducible apply putPart_keeps
    | with_reducible apply placePart_keeps
    | with_reducible apply modDesc_keeps
    | split
    | dsimp only
    | with_reducible apply Keeps.raw

theorem noteVisit_keeps {z0 : State} (s : State) (n : Nat) (h_ : Keeps z0 s) : Keeps z0 (noteVisit s n) := by
  unfold noteVisit
  repeat' first
    | with_reducible assumption
    | exact Eq.refl _
    | with_reducible apply Keeps.ite
    | with_reducible apply modPair_keeps
    | split
    | dsimp only
    | with_reducible apply Keeps.raw

theorem startUnit_keeps {z0 : State} (s : State) (n : Nat) (env : OpEnv) (ts : List Slot) (h_ : Keeps z0 s) : Keeps z0 (startUnit s n env ts) := by
  unfold startUnit
  repeat' first
    | with_reducible assumption
    | intro _
    | exact Eq.refl _
    | with_reducible apply Keeps.ite
    | with_reducible apply noteVisit_keeps
    | with_reducible apply modPair_keeps
    | with_reducible apply newDesc_keeps
    | with_reducible apply stopPair_keeps
    | with_reducible apply finishDesc_keeps
    | with_reducible apply checkChain_keeps
    | with_reducible apply modDesc_keeps
    | with_reducible apply createPart_keeps
    | with_reducible apply Keeps.foldl
    | with_reducible apply Keeps.foldl_snd2
    | with_reducible apply Keeps.foldl_snd
    | with_reducible apply Keeps.foldl_fst
    | split
    | dsimp only

theorem hopperPut_keeps {z0 : State} (s : State) (mill : Nat) (at_ : Nat) (size : Nat) (us : List (Line × Bool)) (h_ : Keeps z0 s) : Keeps z0 (hopperPut s mill at_ size us) := by
  unfold hopperPut
  repeat' first
    | with_reducible assumption
    | intro _
    | exact Eq.refl _
    | with_reducible apply Keeps.ite
    | with_reducible apply modMill_keeps
    | with_reducible apply Keeps.foldl
    | with_reducible apply Keeps.foldl_snd2
    | with_reducible apply Keeps.foldl_snd
    | with_reducible apply Keeps.foldl_fst
    | split
    | dsimp only

theorem hopperBytes_keeps {z0 : State} (s : State) (mill : Nat) (at_ : Nat) (size : Nat) (bs : List Byte) (h_ : Keeps z0 s) : Keeps z0 (hopperBytes s mill at_ size bs) := by
  unfold hopperBytes
  repeat' first
    | with_reducible assumption
    | with_reducible apply hopperPut_keeps
    | dsimp only

theorem clearHopper_keeps {z0 : State} (s : State) (m : Nat) (h_ : Keeps z0 s) : Keeps z0 (clearHopper s m) := by
  unfold clearHopper
  repeat' first
    | with_reducible assumption
    | exact Eq.refl _
    | with_reducible apply modMill_keeps
    | dsimp only

theorem startNextPart_keeps {z0 : State} (s : State) (m : Nat) (h_ : Keeps z0 s) : Keeps z0 (startNextPart s m) := by
  unfold startNextPart
  repeat' first
    | with_reducible assumption
    | exact Eq.refl _
    | with_reducible apply Keeps.ite
    | with_reducible apply clearHopper_keeps
    | with_reducible apply modMill_keeps
    | with_reducible apply refillMills_keeps
    | with_reducible apply modPart_keeps
    | with_reducible apply hopperBytes_keeps
    | with_reducible apply wakeFlume_keeps
    | split
    | dsimp only

theorem createMerge_keeps {z0 : State} (s : State) (did : Nat) (h_ : Keeps z0 s) : Keeps z0 (createMerge s did) := by
  unfold createMerge
  repeat' first
    | with_reducible assumption
    | exact Eq.refl _
    | with_reducible apply Keeps.ite
    | with_reducible apply createPart_keeps
    | split
    | dsimp only

theorem endPart_keeps {z0 : State} (s : State) (m : Nat) (p : Nat) (h_ : Keeps z0 s) : Keeps z0 (endPart s m p) := by
  unfold endPart
  repeat' first
    | with_reducible assumption
    | intro _
    | exact Eq.refl _
    | with_reducible apply Keeps.ite
    | with_reducible apply modMill_keeps
    | with_reducible apply modPart_keeps
    | with_reducible apply stopPart_keeps
    | with_reducible apply refillMills_keeps
    | with_reducible apply createMerge_keeps
    | with_reducible apply forAll_keeps
    | split
    | dsimp only

/-! The meanings: on elements that exist, each answers a next state. -/

theorem whenOpen_runs {z0 : State} (s : State) (rs : List Range) (act : State → State) (h_ : Keeps z0 s)
    (hf_ : ∀ t, Keeps z0 t → Keeps z0 (act t)) : Runs z0 (whenOpen s rs act) := by
  unfold whenOpen
  exact Runs.ite (.next (forAll_keeps h_ fun t k ht => wakeFlume_keeps t k ht)) (Runs.ite (.next h_) (.next (hf_ s h_)))

theorem execDescriptorStart_runs (n : Nat) (env : OpEnv) (s : State) (w_ : (Instr.descriptorStart n env).wf = true) : Runs s (execDescriptorStart n env s) := by
  unfold execDescriptorStart
  repeat' first
    | with_reducible assumption
    | with_reducible exact Keeps.refl _
    | with_reducible apply Runs.next
    | with_reducible apply Runs.ite
    | (with_reducible apply Runs.onElement; (first | assumption | simp_all [Instr.wf, okPair]))
    | with_reducible apply whenOpen_runs
    | intro _
    | exact Eq.refl _
    | with_reducible apply Keeps.ite
    | with_reducible apply startUnit_keeps
    | with_reducible apply lookups_keeps
    | split
    | dsimp only

theorem execPartStart_runs (m : Nat) (s : State) (w_ : (Instr.partStart m).wf = true) : Runs s (execPartStart m s) := by
  unfold execPartStart
  repeat' first
    | with_reducible assumption
    | with_reducible exact Keeps.refl _
    | with_reducible apply Runs.next
    | with_reducible apply Runs.ite
    | (with_reducible apply Runs.onElement; (first | assumption | simp_all [Instr.wf, okF]))
    | with_reducible apply Keeps.ite
    | with_reducible apply startNextPart_keeps
    | split
    | dsimp only

theorem execPartEnd_runs (m : Nat) (s : State) (w_ : (Instr.partEnd m).wf = true) : Runs s (execPartEnd m s) := by
  unfold execPartEnd
  repeat' first
    | with_reducible assumption
    | with_reducible exact Keeps.refl _
    | with_reducible apply Runs.next
    | with_reducible apply Runs.ite
    | (with_reducible apply Runs.onElement; (first | assumption | simp_all [Instr.wf, okF]))
    | exact Eq.refl _
    | with_reducible apply Keeps.ite
    | with_reducible apply endPart_keeps
    | split
    | dsimp only

theorem execDescriptorComplete_runs (did : Nat) (s : State) : Runs s (execDescriptorComplete did s) := by
  unfold execDescriptorComplete
  repeat' first
    | with_reducible assumption
    | with_reducible exact Keeps.refl _
    | with_reducible apply Runs.next
    | with_reducible apply Runs.ite
    | exact Eq.refl _
    | with_reducible apply Keeps.ite
    | with_reducible apply finishDesc_keeps
    | split
    | dsimp only

end Sys2Proof.Machine
end

