-- ==== Sys2Proof/Laws/KeepsOperate.lean ====
section
/-! SUPPORT. What the operations of Machine/Operate.lean keep. -/

set_option Elab.async false

namespace Sys2Proof.Machine

theorem stageDone_keeps {z0 : State} (s : State) (g : Stage) (inter : Inter) (resA : Nat) (resB : Nat) (h_ : Keeps z0 s) : Keeps z0 (stageDone s g inter resA resB) := by
  unfold stageDone
  repeat' first
    | with_reducible assumption
    | exact Eq.refl _
    | with_reducible apply Keeps.ite
    | with_reducible apply modPart_keeps
    | with_reducible apply hopperBytes_keeps
    | split
    | dsimp only

theorem stageStop_keeps {z0 : State} (s : State) (g : Stage) (status : Nat) (resA : Nat) (resB : Nat) (h_ : Keeps z0 s) : Keeps z0 (stageStop s g status resA resB) := by
  unfold stageStop
  repeat' first
    | with_reducible assumption
    | exact Eq.refl _
    | with_reducible apply modPart_keeps
    | dsimp only

theorem stagePoison_keeps {z0 : State} (s : State) (g : Stage) (k : Nat) (h_ : Keeps z0 s) : Keeps z0 (stagePoison s g k) := by
  unfold stagePoison
  repeat' first
    | with_reducible assumption
    | exact Eq.refl _
    | with_reducible apply Keeps.ite
    | with_reducible apply modPart_keeps
    | split
    | dsimp only

theorem grantUnit_keeps {z0 : State} (m : Nat) (s : State) (k : Nat) (h_ : Keeps z0 s) : Keeps z0 (grantUnit m s k) := by
  unfold grantUnit
  repeat' first
    | with_reducible assumption
    | exact Eq.refl _
    | with_reducible apply Keeps.ite
    | with_reducible apply grantTo_keeps
    | split
    | dsimp only

theorem stageRead_keeps {z0 : State} (g : Stage) (env : OpEnv) (s : State) (ks : List Nat) (h_ : Keeps z0 s) : Keeps z0 (stageRead g env s ks).2 := by
  unfold stageRead
  repeat' first
    | with_reducible assumption
    | intro _
    | with_reducible apply readUnits_keeps
    | with_reducible apply grantUnit_keeps
    | with_reducible apply hopperPut_keeps
    | with_reducible apply Keeps.foldl
    | with_reducible apply Keeps.foldl_snd2
    | with_reducible apply Keeps.foldl_snd
    | with_reducible apply Keeps.foldl_fst
    | dsimp only

theorem readColumn_keeps {z0 : State} (g : Stage) (env : OpEnv) (s : State) (t : Nat) (a : Nat) (is : List Nat) (h_ : Keeps z0 s) : Keeps z0 (readColumn g env s t a is).2 := by
  unfold readColumn
  repeat' first
    | with_reducible assumption
    | with_reducible apply stageRead_keeps
    | dsimp only

theorem deviceWrite_keeps {z0 : State} (s0 : State) (env : OpEnv) (did : Nat) (mill : Nat) (k : Nat) (data : Nat) (mask : Nat) (poison : Bool) (h_ : Keeps z0 s0) : Keeps z0 (deviceWrite s0 env did mill k data mask poison) := by
  unfold deviceWrite
  repeat' first
    | with_reducible assumption
    | exact Eq.refl _
    | with_reducible apply Keeps.ite
    | with_reducible apply grantTo_keeps
    | with_reducible apply modFlume_keeps
    | with_reducible apply writeLine_keeps
    | with_reducible apply readLine_keeps
    | with_reducible apply bumpTotal_keeps
    | split
    | dsimp only

theorem writeMarked_keeps {z0 : State} (s : State) (env : OpEnv) (g : Stage) (a : Nat) (bs : Marked) (h_ : Keeps z0 s) : Keeps z0 (writeMarked s env g a bs) := by
  unfold writeMarked
  repeat' first
    | with_reducible assumption
    | intro _
    | with_reducible apply Keeps.ite
    | with_reducible apply emit_keeps
    | with_reducible apply deviceWrite_keeps
    | with_reducible apply forAll_keeps
    | split
    | dsimp only

theorem writeBits_keeps {z0 : State} (s : State) (env : OpEnv) (g : Stage) (a : Nat) (n : Nat) (own : List Nat) (set : List Nat) (h_ : Keeps z0 s) : Keeps z0 (writeBits s env g a n own set) := by
  unfold writeBits
  repeat' first
    | with_reducible assumption
    | intro _
    | with_reducible apply Keeps.ite
    | with_reducible apply emit_keeps
    | with_reducible apply deviceWrite_keeps
    | with_reducible apply forAll_keeps
    | with_reducible apply Keeps.foldl
    | with_reducible apply Keeps.foldl_snd2
    | with_reducible apply Keeps.foldl_snd
    | with_reducible apply Keeps.foldl_fst
    | split
    | dsimp only

theorem stageOut_keeps {z0 : State} (s : State) (g : Stage) (bs : Marked) (h_ : Keeps z0 s) : Keeps z0 (stageOut s g bs) := by
  unfold stageOut
  repeat' first
    | with_reducible assumption
    | with_reducible apply hopperPut_keeps
    | dsimp only

theorem flushUnits_keeps {z0 : State} (env : OpEnv) (g : Stage) (area : Area) (keep : Option (Nat × Nat)) (a0_ : List Entries) : ∀ (a1_ : State), Keeps z0 a1_ → Keeps z0 (flushUnits env g area keep a0_ a1_).2 := by
  induction a0_ with
  | nil =>
    intro a1_ h_
    unfold flushUnits
    repeat' first
      | with_reducible assumption
      | exact Eq.refl _
      | with_reducible apply Keeps.ite
      | with_reducible apply modDesc_keeps
      | with_reducible apply writeMarked_keeps
      | with_reducible apply stageOut_keeps
      | split
      | dsimp only
  | cons x_ l_ ih_ =>
    intro a1_ h_
    unfold flushUnits
    repeat' first
      | with_reducible assumption
      | with_reducible apply ih_
      | exact Eq.refl _
      | with_reducible apply Keeps.ite
      | with_reducible apply modDesc_keeps
      | with_reducible apply writeMarked_keeps
      | with_reducible apply stageOut_keeps
      | split
      | dsimp only

theorem writeList_keeps {z0 : State} (s : State) (env : OpEnv) (g : Stage) (area : Area) (keep : Option (Nat × Nat)) (es : Entries) (h_ : Keeps z0 s) : Keeps z0 (writeList s env g area keep es).2 := by
  unfold writeList
  repeat' first
    | with_reducible assumption
    | with_reducible apply flushUnits_keeps
    | dsimp only

theorem writeKeepBits_keeps {z0 : State} (s : State) (env : OpEnv) (g : Stage) (h_ : Keeps z0 s) : Keeps z0 (writeKeepBits s env g) := by
  unfold writeKeepBits
  repeat' first
    | with_reducible assumption
    | with_reducible apply Keeps.ite
    | with_reducible apply writeBits_keeps
    | split
    | dsimp only

theorem listEnd_keeps {z0 : State} (g : Stage) (ok : Bool) (s : State) (resA : Nat) (resB : Nat) (h_ : Keeps z0 s) : Keeps z0 (listEnd g ok s resA resB) := by
  unfold listEnd
  repeat' first
    | with_reducible assumption
    | with_reducible apply Keeps.ite
    | with_reducible apply stageDone_keeps
    | with_reducible apply stageStop_keeps
    | split
    | dsimp only

/-! The meanings: on elements that exist, each answers a next state. -/

theorem runStage_runs (mill op : Nat) (env : OpEnv) (s : State) (body : Stage → State → State) (w_ : mill < 32)
    (hf_ : ∀ g t, Keeps s t → Keeps s (body g t)) : Runs s (runStage mill op env s body) := by
  unfold runStage
  refine Runs.onElement (by simpa [okF] using w_) ?_
  split
  · exact .next (.refl s)
  · next g _ =>
    refine Runs.ite (.next (.refl s)) (Runs.ite (.next (.refl s)) ?_)
    exact whenOpen_runs s _ _ (.refl s) fun t ht => hf_ g _ (lookups_keeps t env ht)

end Sys2Proof.Machine
end

