-- ==== Sys2Proof/Laws/KeepsOperators.lean ====
section
/-! SUPPORT. What the operations of Machine/Operators.lean keep. -/

set_option Elab.async false

namespace Sys2Proof.Machine

theorem fillBody_keeps {z0 : State} (env : OpEnv) (g : Stage) (s : State) (h_ : Keeps z0 s) : Keeps z0 (fillBody env g s) := by
  unfold fillBody
  repeat' first
    | with_reducible assumption
    | intro _
    | with_reducible apply writeMarked_keeps
    | with_reducible apply stageDone_keeps
    | with_reducible apply forAll_keeps
    | dsimp only

theorem copyBody_keeps {z0 : State} (env : OpEnv) (g : Stage) (s : State) (h_ : Keeps z0 s) : Keeps z0 (copyBody env g s) := by
  unfold copyBody
  repeat' first
    | with_reducible assumption
    | intro _
    | with_reducible apply stageRead_keeps
    | with_reducible apply writeMarked_keeps
    | with_reducible apply stageDone_keeps
    | with_reducible apply forAll_keeps
    | dsimp only

theorem scanBody_keeps {z0 : State} (env : OpEnv) (g : Stage) (s : State) (h_ : Keeps z0 s) : Keeps z0 (scanBody env g s) := by
  unfold scanBody
  repeat' first
    | with_reducible assumption
    | exact Eq.refl _
    | with_reducible apply Keeps.ite
    | with_reducible apply readColumn_keeps
    | with_reducible apply modMill_keeps
    | with_reducible apply writeBits_keeps
    | with_reducible apply writeList_keeps
    | with_reducible apply stagePoison_keeps
    | with_reducible apply stageStop_keeps
    | with_reducible apply stageDone_keeps
    | split
    | dsimp only

theorem compactBody_keeps {z0 : State} (env : OpEnv) (g : Stage) (s : State) (h_ : Keeps z0 s) : Keeps z0 (compactBody env g s) := by
  unfold compactBody
  repeat' first
    | with_reducible assumption
    | exact Eq.refl _
    | with_reducible apply Keeps.ite
    | with_reducible apply stageRead_keeps
    | with_reducible apply readColumn_keeps
    | with_reducible apply writeList_keeps
    | with_reducible apply writeKeepBits_keeps
    | with_reducible apply stagePoison_keeps
    | with_reducible apply stageStop_keeps
    | with_reducible apply listEnd_keeps
    | split
    | dsimp only

theorem gatherBody_keeps {z0 : State} (env : OpEnv) (g : Stage) (s : State) (h_ : Keeps z0 s) : Keeps z0 (gatherBody env g s) := by
  unfold gatherBody
  repeat' first
    | with_reducible assumption
    | intro _
    | exact Eq.refl _
    | with_reducible apply Keeps.ite
    | with_reducible apply stageRead_keeps
    | with_reducible apply hopperBytes_keeps
    | with_reducible apply readColumn_keeps
    | with_reducible apply writeMarked_keeps
    | with_reducible apply modPart_keeps
    | with_reducible apply stagePoison_keeps
    | with_reducible apply stageDone_keeps
    | with_reducible apply writeList_keeps
    | with_reducible apply listEnd_keeps
    | with_reducible apply writeKeepBits_keeps
    | with_reducible apply Keeps.foldl
    | with_reducible apply Keeps.foldl_snd2
    | with_reducible apply Keeps.foldl_snd
    | with_reducible apply Keeps.foldl_fst
    | split
    | dsimp only

theorem search_keeps {z0 : State} (env : OpEnv) (g : Stage) (t : Table) (tag : Nat) (key : List Byte) (a0_ : Nat) : ∀ (a1_ : Nat) (a2_ : Units) (a3_ : State), Keeps z0 a3_ → Keeps z0 (search env g t tag key a0_ a1_ a2_ a3_).st := by
  induction a0_ with
  | zero =>
    intro a1_ a2_ a3_ h_
    unfold search
    repeat' first
      | with_reducible assumption
      | exact Eq.refl _
      | with_reducible apply Keeps.ite
      | with_reducible apply stageRead_keeps
      | split
      | dsimp only
  | succ k_ ih_ =>
    intro a1_ a2_ a3_ h_
    unfold search
    repeat' first
      | with_reducible assumption
      | with_reducible apply ih_
      | exact Eq.refl _
      | with_reducible apply Keeps.ite
      | with_reducible apply stageRead_keeps
      | split
      | dsimp only

theorem condWrite_keeps {z0 : State} (env : OpEnv) (g : Stage) (k old data : Nat) (bad : Bool) (s : State) (h : Keeps z0 s) :
    Keeps z0 (condWrite env g k old data bad s).2 ∧ ∀ t, (condWrite env g k old data bad s).1 = some t → Keeps z0 t := by
  have hr := stageRead_keeps g env s [k] h
  unfold condWrite
  dsimp only
  split
  · exact ⟨h, fun t e => by cases e; exact writeMarked_keeps _ _ _ _ _ h⟩
  · split
    · exact ⟨hr, fun t e => by cases e; exact writeMarked_keeps _ _ _ _ _ hr⟩
    · exact ⟨hr, fun t e => by cases e⟩

theorem buildAll_keeps {z0 : State} (env : OpEnv) (g : Stage) (u : Units) (l : List Nat) : ∀ (cache : Units) (r : Built), Keeps z0 r.st →
    Keeps z0 (buildAll env g u l cache r).st := by
  induction l with
  | nil => exact fun _ _ h => h
  | cons i l ih =>
    intro cache r h
    unfold buildAll
    dsimp only
    split
    · exact h
    · have hs := search_keeps env g (tableOf g.m) (tagOf (keyHash (bImm1 g.m % 2 ^ 32) (keyBytes u (bTypeA g.m) (bSrcA g.m) i)))
        (keyBytes u (bTypeA g.m) (bSrcA g.m) i) (2 ^ (tableOf g.m).k)
        (homeOf (tableOf g.m) (keyHash (bImm1 g.m % 2 ^ 32) (keyBytes u (bTypeA g.m) (bSrcA g.m) i))) cache r.st h
      split
      · exact hs
      · split
        · exact ih _ _ hs
        · split
          · exact hs
          · split
            · next e => exact ih _ _ ((condWrite_keeps _ _ _ _ _ _ _ hs).2 _ e)
            · exact (condWrite_keeps _ _ _ _ _ _ _ hs).1

theorem buildBody_keeps {z0 : State} (env : OpEnv) (g : Stage) (s : State) (h_ : Keeps z0 s) : Keeps z0 (buildBody env g s) := by
  unfold buildBody
  repeat' first
    | with_reducible assumption
    | exact Eq.refl _
    | with_reducible apply Keeps.ite
    | with_reducible apply readColumn_keeps
    | with_reducible apply buildAll_keeps
    | with_reducible apply modPart_keeps
    | with_reducible apply stagePoison_keeps
    | with_reducible apply stageStop_keeps
    | with_reducible apply writeList_keeps
    | with_reducible apply writeKeepBits_keeps
    | with_reducible apply listEnd_keeps
    | split
    | dsimp only

theorem probeAll_keeps {z0 : State} (env : OpEnv) (g : Stage) (u : Units) (l : List Nat) : ∀ r : Probed, Keeps z0 r.st →
    Keeps z0 (probeAll env g u l r).st := by
  induction l with
  | nil => exact fun _ h => h
  | cons i l ih =>
    intro r h
    unfold probeAll
    dsimp only
    split
    · exact h
    · split
      · exact search_keeps _ _ _ _ _ _ _ _ _ h
      · exact ih _ (search_keeps _ _ _ _ _ _ _ _ _ h)

theorem probeBody_keeps {z0 : State} (env : OpEnv) (g : Stage) (s : State) (h_ : Keeps z0 s) : Keeps z0 (probeBody env g s) := by
  unfold probeBody
  repeat' first
    | with_reducible assumption
    | exact Eq.refl _
    | with_reducible apply Keeps.ite
    | with_reducible apply readColumn_keeps
    | with_reducible apply probeAll_keeps
    | with_reducible apply hopperPut_keeps
    | with_reducible apply writeBits_keeps
    | with_reducible apply writeList_keeps
    | with_reducible apply writeKeepBits_keeps
    | with_reducible apply modPart_keeps
    | with_reducible apply stagePoison_keeps
    | with_reducible apply stageDone_keeps
    | with_reducible apply stageStop_keeps
    | split
    | dsimp only

theorem spillTable_keeps {z0 : State} (s : State) (env : OpEnv) (g : Stage) (tb : List Group) (h_ : Keeps z0 s) : Keeps z0 (spillTable s env g tb).2 := by
  unfold spillTable
  repeat' first
    | with_reducible assumption
    | exact Eq.refl _
    | with_reducible apply Keeps.ite
    | with_reducible apply writeList_keeps
    | with_reducible apply modPart_keeps
    | split
    | dsimp only

theorem aggAll_keeps {z0 : State} (env : OpEnv) (g : Stage) (u : Units) (a0_ : List Nat) : ∀ (a1_ : List Group) (a2_ : Nat) (a3_ : State), Keeps z0 a3_ → Keeps z0 (aggAll env g u a0_ a1_ a2_ a3_).2.2 := by
  induction a0_ with
  | nil =>
    intro a1_ a2_ a3_ h_
    unfold aggAll
    repeat' first
      | with_reducible assumption
      | exact Eq.refl _
      | with_reducible apply Keeps.ite
      | with_reducible apply spillTable_keeps
      | with_reducible apply modDesc_keeps
      | split
      | dsimp only
  | cons x_ l_ ih_ =>
    intro a1_ a2_ a3_ h_
    unfold aggAll
    repeat' first
      | with_reducible assumption
      | with_reducible apply ih_
      | exact Eq.refl _
      | with_reducible apply Keeps.ite
      | with_reducible apply spillTable_keeps
      | with_reducible apply modDesc_keeps
      | split
      | dsimp only

theorem aggFinish_keeps {z0 : State} (env : OpEnv) (g : Stage) (tb : List Group) (s : State) (h_ : Keeps z0 s) : Keeps z0 (aggFinish env g tb s).2 := by
  unfold aggFinish
  repeat' first
    | with_reducible assumption
    | with_reducible apply Keeps.ite
    | with_reducible apply writeList_keeps
    | with_reducible apply spillTable_keeps
    | split
    | dsimp only

theorem aggBody_keeps {z0 : State} (env : OpEnv) (g : Stage) (s : State) (h_ : Keeps z0 s) : Keeps z0 (aggBody env g s) := by
  unfold aggBody
  repeat' first
    | with_reducible assumption
    | exact Eq.refl _
    | with_reducible apply Keeps.ite
    | with_reducible apply readColumn_keeps
    | with_reducible apply aggAll_keeps
    | with_reducible apply modPart_keeps
    | with_reducible apply stagePoison_keeps
    | with_reducible apply stageStop_keeps
    | with_reducible apply aggFinish_keeps
    | with_reducible apply hopperBytes_keeps
    | with_reducible apply writeList_keeps
    | with_reducible apply writeKeepBits_keeps
    | with_reducible apply listEnd_keeps
    | split
    | dsimp only

theorem bitmapBody_keeps {z0 : State} (env : OpEnv) (g : Stage) (s : State) (h_ : Keeps z0 s) : Keeps z0 (bitmapBody env g s) := by
  unfold bitmapBody
  repeat' first
    | with_reducible assumption
    | exact Eq.refl _
    | with_reducible apply stageRead_keeps
    | with_reducible apply writeBits_keeps
    | with_reducible apply stageDone_keeps
    | with_reducible apply modPart_keeps
    | with_reducible apply stagePoison_keeps
    | split
    | dsimp only

theorem checksumBody_keeps {z0 : State} (env : OpEnv) (g : Stage) (s : State) (h_ : Keeps z0 s) : Keeps z0 (checksumBody env g s) := by
  unfold checksumBody
  repeat' first
    | with_reducible assumption
    | exact Eq.refl _
    | with_reducible apply stageRead_keeps
    | with_reducible apply stagePoison_keeps
    | with_reducible apply stageDone_keeps
    | with_reducible apply modDesc_keeps
    | split
    | dsimp only

theorem compareBody_keeps {z0 : State} (env : OpEnv) (g : Stage) (s : State) (h_ : Keeps z0 s) : Keeps z0 (compareBody env g s) := by
  unfold compareBody
  repeat' first
    | with_reducible assumption
    | exact Eq.refl _
    | with_reducible apply stageRead_keeps
    | with_reducible apply stagePoison_keeps
    | with_reducible apply stageDone_keeps
    | split
    | dsimp only

theorem mergePasses_keeps {z0 : State} (env : OpEnv) (g : Stage) (p : Nat) (recs : List Group) (a0_ : Nat) : ∀ (a1_ : Nat) (a2_ : Nat) (a3_ : State), Keeps z0 a3_ → Keeps z0 (mergePasses env g p recs a0_ a1_ a2_ a3_).2.2 := by
  induction a0_ with
  | zero =>
    intro a1_ a2_ a3_ h_
    unfold mergePasses
    repeat' first
      | with_reducible assumption
      | exact Eq.refl _
      | with_reducible apply Keeps.ite
      | with_reducible apply writeList_keeps
      | split
      | dsimp only
  | succ k_ ih_ =>
    intro a1_ a2_ a3_ h_
    unfold mergePasses
    repeat' first
      | with_reducible assumption
      | with_reducible apply ih_
      | exact Eq.refl _
      | with_reducible apply Keeps.ite
      | with_reducible apply writeList_keeps
      | split
      | dsimp only

theorem mergeTries_keeps {z0 : State} (env : OpEnv) (g : Stage) (recs : List Group) (a0_ : Nat) : ∀ (a1_ : Nat) (a2_ : State), Keeps z0 a2_ → Keeps z0 (mergeTries env g recs a0_ a1_ a2_).2.2 := by
  induction a0_ with
  | zero =>
    intro a1_ a2_ h_
    unfold mergeTries
    repeat' first
      | with_reducible assumption
      | exact Eq.refl _
      | with_reducible apply Keeps.ite
      | with_reducible apply modDesc_keeps
      | with_reducible apply mergePasses_keeps
      | split
      | dsimp only
  | succ k_ ih_ =>
    intro a1_ a2_ h_
    unfold mergeTries
    repeat' first
      | with_reducible assumption
      | with_reducible apply ih_
      | exact Eq.refl _
      | with_reducible apply Keeps.ite
      | with_reducible apply modDesc_keeps
      | with_reducible apply mergePasses_keeps
      | split
      | dsimp only

theorem mergeBody_keeps {z0 : State} (env : OpEnv) (g : Stage) (s : State) (h_ : Keeps z0 s) : Keeps z0 (mergeBody env g s) := by
  unfold mergeBody
  repeat' first
    | with_reducible assumption
    | exact Eq.refl _
    | with_reducible apply Keeps.ite
    | with_reducible apply stageRead_keeps
    | with_reducible apply stagePoison_keeps
    | with_reducible apply mergeTries_keeps
    | with_reducible apply modPart_keeps
    | with_reducible apply stageStop_keeps
    | split
    | dsimp only

/-! The meanings: on elements that exist, each answers a next state. -/

theorem execFill_runs (m : Nat) (env : OpEnv) (s : State) (w_ : (Instr.fill m env).wf = true) : Runs s (execFill m env s) := by
  unfold execFill
  repeat' first
    | with_reducible assumption
    | with_reducible exact Keeps.refl _
    | with_reducible apply Runs.next
    | with_reducible apply Runs.ite
    | (with_reducible apply Runs.onElement; (first | assumption | simp_all [Instr.wf]))
    | (with_reducible apply runStage_runs; (first | assumption | simp_all [Instr.wf]))
    | intro _
    | with_reducible apply Keeps.ite
    | with_reducible apply fillBody_keeps
    | split
    | dsimp only

theorem execCopy_runs (m : Nat) (env : OpEnv) (s : State) (w_ : (Instr.copy m env).wf = true) : Runs s (execCopy m env s) := by
  unfold execCopy
  repeat' first
    | with_reducible assumption
    | with_reducible exact Keeps.refl _
    | with_reducible apply Runs.next
    | with_reducible apply Runs.ite
    | (with_reducible apply Runs.onElement; (first | assumption | simp_all [Instr.wf]))
    | (with_reducible apply runStage_runs; (first | assumption | simp_all [Instr.wf]))
    | intro _
    | with_reducible apply Keeps.ite
    | with_reducible apply copyBody_keeps
    | split
    | dsimp only

theorem execScan_runs (m : Nat) (env : OpEnv) (s : State) (w_ : (Instr.scan m env).wf = true) : Runs s (execScan m env s) := by
  unfold execScan
  repeat' first
    | with_reducible assumption
    | with_reducible exact Keeps.refl _
    | with_reducible apply Runs.next
    | with_reducible apply Runs.ite
    | (with_reducible apply Runs.onElement; (first | assumption | simp_all [Instr.wf]))
    | (with_reducible apply runStage_runs; (first | assumption | simp_all [Instr.wf]))
    | intro _
    | with_reducible apply Keeps.ite
    | with_reducible apply scanBody_keeps
    | split
    | dsimp only

theorem execCompact_runs (m : Nat) (env : OpEnv) (s : State) (w_ : (Instr.compact m env).wf = true) : Runs s (execCompact m env s) := by
  unfold execCompact
  repeat' first
    | with_reducible assumption
    | with_reducible exact Keeps.refl _
    | with_reducible apply Runs.next
    | with_reducible apply Runs.ite
    | (with_reducible apply Runs.onElement; (first | assumption | simp_all [Instr.wf]))
    | (with_reducible apply runStage_runs; (first | assumption | simp_all [Instr.wf]))
    | intro _
    | with_reducible apply Keeps.ite
    | with_reducible apply compactBody_keeps
    | split
    | dsimp only

theorem execGather_runs (m : Nat) (env : OpEnv) (s : State) (w_ : (Instr.gather m env).wf = true) : Runs s (execGather m env s) := by
  unfold execGather
  repeat' first
    | with_reducible assumption
    | with_reducible exact Keeps.refl _
    | with_reducible apply Runs.next
    | with_reducible apply Runs.ite
    | (with_reducible apply Runs.onElement; (first | assumption | simp_all [Instr.wf]))
    | (with_reducible apply runStage_runs; (first | assumption | simp_all [Instr.wf]))
    | intro _
    | with_reducible apply Keeps.ite
    | with_reducible apply gatherBody_keeps
    | split
    | dsimp only

theorem execHashBuild_runs (m : Nat) (env : OpEnv) (s : State) (w_ : (Instr.hashBuild m env).wf = true) : Runs s (execHashBuild m env s) := by
  unfold execHashBuild
  repeat' first
    | with_reducible assumption
    | with_reducible exact Keeps.refl _
    | with_reducible apply Runs.next
    | with_reducible apply Runs.ite
    | (with_reducible apply Runs.onElement; (first | assumption | simp_all [Instr.wf]))
    | (with_reducible apply runStage_runs; (first | assumption | simp_all [Instr.wf]))
    | intro _
    | with_reducible apply Keeps.ite
    | with_reducible apply buildBody_keeps
    | split
    | dsimp only

theorem execHashProbe_runs (m : Nat) (env : OpEnv) (s : State) (w_ : (Instr.hashProbe m env).wf = true) : Runs s (execHashProbe m env s) := by
  unfold execHashProbe
  repeat' first
    | with_reducible assumption
    | with_reducible exact Keeps.refl _
    | with_reducible apply Runs.next
    | with_reducible apply Runs.ite
    | (with_reducible apply Runs.onElement; (first | assumption | simp_all [Instr.wf]))
    | (with_reducible apply runStage_runs; (first | assumption | simp_all [Instr.wf]))
    | intro _
    | with_reducible apply Keeps.ite
    | with_reducible apply probeBody_keeps
    | split
    | dsimp only

theorem execAggregate_runs (m : Nat) (env : OpEnv) (s : State) (w_ : (Instr.aggregate m env).wf = true) : Runs s (execAggregate m env s) := by
  unfold execAggregate
  repeat' first
    | with_reducible assumption
    | with_reducible exact Keeps.refl _
    | with_reducible apply Runs.next
    | with_reducible apply Runs.ite
    | (with_reducible apply Runs.onElement; (first | assumption | simp_all [Instr.wf]))
    | (with_reducible apply runStage_runs; (first | assumption | simp_all [Instr.wf]))
    | intro _
    | with_reducible apply Keeps.ite
    | with_reducible apply aggBody_keeps
    | split
    | dsimp only

theorem execBitmap_runs (m : Nat) (env : OpEnv) (s : State) (w_ : (Instr.bitmap m env).wf = true) : Runs s (execBitmap m env s) := by
  unfold execBitmap
  repeat' first
    | with_reducible assumption
    | with_reducible exact Keeps.refl _
    | with_reducible apply Runs.next
    | with_reducible apply Runs.ite
    | (with_reducible apply Runs.onElement; (first | assumption | simp_all [Instr.wf]))
    | (with_reducible apply runStage_runs; (first | assumption | simp_all [Instr.wf]))
    | intro _
    | with_reducible apply Keeps.ite
    | with_reducible apply bitmapBody_keeps
    | split
    | dsimp only

theorem execChecksum_runs (m : Nat) (env : OpEnv) (s : State) (w_ : (Instr.checksum m env).wf = true) : Runs s (execChecksum m env s) := by
  unfold execChecksum
  repeat' first
    | with_reducible assumption
    | with_reducible exact Keeps.refl _
    | with_reducible apply Runs.next
    | with_reducible apply Runs.ite
    | (with_reducible apply Runs.onElement; (first | assumption | simp_all [Instr.wf]))
    | (with_reducible apply runStage_runs; (first | assumption | simp_all [Instr.wf]))
    | intro _
    | with_reducible apply Keeps.ite
    | with_reducible apply checksumBody_keeps
    | split
    | dsimp only

theorem execCompare_runs (m : Nat) (env : OpEnv) (s : State) (w_ : (Instr.compare m env).wf = true) : Runs s (execCompare m env s) := by
  unfold execCompare
  repeat' first
    | with_reducible assumption
    | with_reducible exact Keeps.refl _
    | with_reducible apply Runs.next
    | with_reducible apply Runs.ite
    | (with_reducible apply Runs.onElement; (first | assumption | simp_all [Instr.wf]))
    | (with_reducible apply runStage_runs; (first | assumption | simp_all [Instr.wf]))
    | intro _
    | with_reducible apply Keeps.ite
    | with_reducible apply compareBody_keeps
    | split
    | dsimp only

theorem execMergePart_runs (did : Nat) (env : OpEnv) (s : State) : Runs s (execMergePart did env s) := by
  unfold execMergePart
  repeat' first
    | with_reducible assumption
    | with_reducible exact Keeps.refl _
    | with_reducible apply Runs.next
    | with_reducible apply Runs.ite
    | with_reducible apply whenOpen_runs
    | intro _
    | exact Eq.refl _
    | with_reducible apply Keeps.ite
    | with_reducible apply mergeBody_keeps
    | with_reducible apply lookups_keeps
    | split
    | dsimp only

end Sys2Proof.Machine
end

