-- ==== Sys2Proof/Laws/KeepsFuse.lean ====
section
/-! SUPPORT. What the operations of Machine/Fuse.lean keep. -/

set_option Elab.async false

namespace Sys2Proof.Machine

theorem regionFaults_keeps {z0 : State} (s : State) (h_ : Keeps z0 s) : Keeps z0 (regionFaults s) := by
  unfold regionFaults
  repeat' first
    | with_reducible assumption
    | intro _
    | with_reducible apply Keeps.ite
    | with_reducible apply raise_keeps
    | with_reducible apply forAll_keeps
    | split
    | dsimp only

theorem fuseLoad_keeps {z0 : State} (s : State) (h : Keeps z0 s) : Keeps z0 (fuseLoad s) := by
  unfold fuseLoad
  exact regionFaults_keeps _ (setFuses_keeps h (checkRegions_keeps _ (takeShadow_keeps _ (.refl _))) rfl)

theorem fuseStatus_keeps {z0 : State} (s : State) (ops : Nat) (reason : Nat) (result : Nat) (h_ : Keeps z0 s) : Keeps z0 (fuseStatus s ops reason result) := by
  unfold fuseStatus
  repeat' first
    | with_reducible assumption
    | with_reducible apply scEvent_keeps
    | dsimp only

theorem lifeCycleVerified_keeps {z0 : State} (s : State) (h_ : Keeps z0 s) : Keeps z0 (lifeCycleVerified s) := by
  unfold lifeCycleVerified
  repeat' first
    | with_reducible assumption
    | exact Eq.refl _
    | dsimp only
    | with_reducible apply Keeps.raw

theorem startReread_keeps {z0 : State} (s : State) (h_ : Keeps z0 s) : Keeps z0 (startReread s) := by
  unfold startReread
  repeat' first
    | with_reducible assumption
    | exact Eq.refl _
    | with_reducible apply Keeps.ite
    | with_reducible apply scEvent_keeps
    | split
    | dsimp only
    | with_reducible apply Keeps.raw

theorem endSession_keeps {z0 : State} (s : State) (did : Nat) (ops : Nat) (reason : Nat) (spares : Nat) (lifeCycle : Bool) (h_ : Keeps z0 s) : Keeps z0 (endSession s did ops reason spares lifeCycle) := by
  unfold endSession
  repeat' first
    | with_reducible assumption
    | exact Eq.refl _
    | with_reducible apply Keeps.ite
    | with_reducible apply fuseStatus_keeps
    | with_reducible apply finishDesc_keeps
    | with_reducible apply lifeCycleVerified_keeps
    | with_reducible apply startReread_keeps
    | split
    | dsimp only
    | with_reducible apply Keeps.raw

theorem cutOp_keeps {z0 : State} (s : State) (env : FuseEnv) (ops : List FuseOp) (i : Nat) (h : Keeps z0 s) :
    Keeps z0 (cutOp s env ops i) := by
  unfold cutOp
  split
  · next n o _ _ =>
    exact setFuses_keeps h ((runFuseOp_keeps env ⟨s.fuses, s.freeCtr, 0, some n⟩ o (.refl _)).same rfl rfl rfl) rfl
  · exact h

theorem runSession_keeps {z0 : State} (s : State) (did : Nat) (env : FuseEnv) (d : Desc) (l : List Byte) (h : Keeps z0 s) :
    Keeps z0 (runSession s did env d l) := by
  unfold runSession
  dsimp only
  have hs := fun ops n => setFuses_keeps (n := (runFuseOps env ops ⟨s.fuses, s.freeCtr, natAt d.prog 1, none⟩ n).1.ctr) h
    (runFuseOps_keeps env ops ⟨s.fuses, s.freeCtr, natAt d.prog 1, none⟩ n (.refl _)) rfl
  split
  · exact modDesc_keeps (cutOp_keeps _ _ _ _ (hs _ _))
  · exact endSession_keeps _ _ _ _ _ _ (hs _ _)

theorem completeIntent_keeps {z0 : State} (s : State) (env : FuseEnv) (h : Keeps z0 s) : Keeps z0 (completeIntent s env) := by
  unfold completeIntent
  split
  · next l _ =>
    have hf := runFuseOps_keeps env (fuseOps l) (healEntries ⟨s.fuses, s.freeCtr, 0, none⟩) 0 (healEntries_keeps _ (.refl s.fuses))
    have hs := setFuses_keeps (n := (runFuseOps env (fuseOps l) (healEntries ⟨s.fuses, s.freeCtr, 0, none⟩) 0).1.ctr)
      (t := { s.tally with intent := none }) h (hf.same (v := { (runFuseOps env (fuseOps l) (healEntries ⟨s.fuses, s.freeCtr, 0, none⟩) 0).1.u with intentDone := true }) rfl rfl rfl) rfl
    dsimp only
    split
    · exact fuseStatus_keeps _ _ _ _ hs
    · exact raise_keeps _ _ _ _ _ _ (fuseStatus_keeps _ _ _ _ hs)
  · exact setFuses_keeps h ((FuseKeeps.refl s.fuses).same rfl rfl rfl) rfl

theorem takeFusCmd_keeps {z0 : State} (s : State) (v : Nat) (h_ : Keeps z0 s) : Keeps z0 (takeFusCmd s v) := by
  unfold takeFusCmd
  repeat' first
    | with_reducible assumption
    | with_reducible apply Keeps.ite
    | with_reducible apply startReread_keeps
    | split
    | dsimp only

/-! The meanings: on elements that exist, each answers a next state. -/

theorem execFuseSession_runs (did : Nat) (env : OpEnv) (fuse : FuseEnv) (s : State) : Runs s (execFuseSession did env fuse s) := by
  unfold execFuseSession
  repeat' first
    | with_reducible assumption
    | with_reducible exact Keeps.refl _
    | with_reducible apply Runs.next
    | with_reducible apply Runs.ite
    | exact Eq.refl _
    | with_reducible apply Keeps.ite
    | with_reducible apply runSession_keeps
    | with_reducible apply finishDesc_keeps
    | with_reducible apply fuseStatus_keeps
    | with_reducible apply tallyFail_keeps
    | with_reducible apply modDesc_keeps
    | split
    | dsimp only
    | with_reducible apply Keeps.raw

theorem execFuseReread_runs (path : Nat) (s : State) (w_ : (Instr.fuseReread path).wf = true) : Runs s (execFuseReread path s) := by
  unfold execFuseReread
  repeat' first
    | with_reducible assumption
    | with_reducible exact Keeps.refl _
    | with_reducible apply Runs.next
    | with_reducible apply Runs.ite
    | (with_reducible apply Runs.onElement; (first | assumption | simp_all [Instr.wf, okPath]))
    | intro _
    | with_reducible apply Keeps.ite
    | with_reducible apply writeNow_keeps
    | with_reducible apply takeFusCmd_keeps
    | split
    | dsimp only

theorem execFuseRereadDone_runs (s : State) : Runs s (execFuseRereadDone s) := by
  unfold execFuseRereadDone
  repeat' first
    | with_reducible assumption
    | with_reducible exact Keeps.refl _
    | with_reducible apply Runs.next
    | with_reducible apply Runs.ite
    | intro _
    | exact Eq.refl _
    | with_reducible apply Keeps.ite
    | with_reducible apply scEvent_keeps
    | with_reducible apply raise_keeps
    | with_reducible apply Keeps.foldl
    | with_reducible apply Keeps.foldl_snd
    | split
    | dsimp only
    | with_reducible apply Keeps.raw

end Sys2Proof.Machine
end

