-- ==== Sys2Proof/Laws/KeepsTraining.lean ====
section
/-! SUPPORT. What the operations of Machine/Training.lean keep. -/

set_option Elab.async false

namespace Sys2Proof.Machine

theorem writeCal_keeps {z0 : State} (s : State) (f : Nat) (t : Nat) (scs : List Nat) (h_ : Keeps z0 s) : Keeps z0 (writeCal s f t scs) := by
  unfold writeCal
  repeat' first
    | with_reducible assumption
    | intro _
    | exact Eq.refl _
    | with_reducible apply Keeps.foldl
    | with_reducible apply Keeps.foldl_snd2
    | with_reducible apply Keeps.foldl_snd
    | with_reducible apply Keeps.foldl_fst
    | dsimp only
    | with_reducible apply Keeps.raw

theorem writeRecords_keeps {z0 : State} (s : State) (f : Nat) (h_ : Keeps z0 s) : Keeps z0 (writeRecords s f) := by
  unfold writeRecords
  repeat' first
    | with_reducible assumption
    | intro _
    | exact Eq.refl _
    | with_reducible apply Keeps.ite
    | with_reducible apply writeCal_keeps
    | with_reducible apply tallyFail_keeps
    | with_reducible apply modBay_keeps
    | with_reducible apply forAll_keeps
    | split
    | dsimp only

theorem trnNotice_keeps {z0 : State} (s : State) (f : Nat) (sc : Nat) (t : Nat) (h_ : Keeps z0 s) : Keeps z0 (trnNotice s f sc t) := by
  unfold trnNotice
  repeat' first
    | with_reducible assumption
    | with_reducible apply event_keeps
    | dsimp only

theorem noteApply_keeps {z0 : State} (s : State) (f : Nat) (sc : Nat) (t : Nat) (kind : Nat) (r : Option (Nat × Nat)) (h_ : Keeps z0 s) : Keeps z0 (noteApply s f sc t kind r) := by
  unfold noteApply
  repeat' first
    | with_reducible assumption
    | exact Eq.refl _
    | with_reducible apply scEvent_keeps
    | with_reducible apply trnNotice_keeps
    | split
    | dsimp only

theorem noteEscalated_keeps {z0 : State} (s : State) (f : Nat) (h_ : Keeps z0 s) : Keeps z0 (noteEscalated s f) := by
  unfold noteEscalated
  repeat' first
    | with_reducible assumption
    | with_reducible apply scEvent_keeps
    | dsimp only

theorem fillBuffer_keeps {z0 : State} (s : State) (f : Nat) (sc : Nat) (t : Nat) (h_ : Keeps z0 s) : Keeps z0 (fillBuffer s f sc t) := by
  unfold fillBuffer
  repeat' first
    | with_reducible assumption
    | intro _
    | exact Eq.refl _
    | with_reducible apply bumpFree_keeps
    | with_reducible apply modBay_keeps
    | with_reducible apply Keeps.foldl
    | with_reducible apply Keeps.foldl_snd2
    | with_reducible apply Keeps.foldl_snd
    | with_reducible apply Keeps.foldl_fst
    | dsimp only

theorem passAtOnce_keeps {z0 : State} (s : State) (f : Nat) (sc : Nat) (t : Nat) (kind : Nat) (tuned : Bool) (h_ : Keeps z0 s) : Keeps z0 (passAtOnce s f sc t kind tuned) := by
  unfold passAtOnce
  repeat' first
    | with_reducible assumption
    | exact Eq.refl _
    | with_reducible apply modFlume_keeps
    | dsimp only

theorem passOver_keeps {z0 : State} (s : State) (f : Nat) (sc : Nat) (t : Nat) (h_ : Keeps z0 s) : Keeps z0 (passOver s f sc t) := by
  unfold passOver
  repeat' first
    | with_reducible assumption
    | exact Eq.refl _
    | with_reducible apply modFlume_keeps
    | dsimp only

theorem commitPass_keeps {z0 : State} (s : State) (f : Nat) (sc : Nat) (t : Nat) (kind : Nat) (tuned : Bool) (minEye : Nat) (tallyOk : Bool) (h_ : Keeps z0 s) : Keeps z0 (commitPass s f sc t kind tuned minEye tallyOk) := by
  unfold commitPass
  repeat' first
    | with_reducible assumption
    | exact Eq.refl _
    | with_reducible apply Keeps.ite
    | with_reducible apply modBay_keeps
    | with_reducible apply modSub_keeps
    | split
    | dsimp only

theorem passRefused_keeps {z0 : State} (s : State) (f : Nat) (sc : Nat) (t : Nat) (kind : Nat) (tuned : Bool) (live : Bool) (h_ : Keeps z0 s) : Keeps z0 (passRefused s f sc t kind tuned live) := by
  unfold passRefused
  repeat' first
    | with_reducible assumption
    | exact Eq.refl _
    | with_reducible apply Keeps.ite
    | with_reducible apply passOver_keeps
    | with_reducible apply modBay_keeps
    | with_reducible apply passAtOnce_keeps
    | with_reducible apply trnNotice_keeps
    | with_reducible apply noteEscalated_keeps
    | with_reducible apply redirectBay_keeps
    | split
    | dsimp only

theorem clockLoss_keeps {z0 : State} (s : State) (f : Nat) (sc : Nat) (res : PassRes) (h_ : Keeps z0 s) : Keeps z0 (clockLoss s f sc res) := by
  unfold clockLoss
  repeat' first
    | with_reducible assumption
    | with_reducible apply Keeps.ite
    | with_reducible apply loseCopy_keeps
    | split
    | dsimp only

theorem endPass_keeps {z0 : State} (s : State) (f : Nat) (sc : Nat) (t : Nat) (kind : Nat) (tuned : Bool) (live : Bool) (res : PassRes) (h_ : Keeps z0 s) : Keeps z0 (endPass s f sc t kind tuned live res) := by
  unfold endPass
  repeat' first
    | with_reducible assumption
    | exact Eq.refl _
    | with_reducible apply Keeps.ite
    | with_reducible apply fillBuffer_keeps
    | with_reducible apply clockLoss_keeps
    | with_reducible apply modBay_keeps
    | with_reducible apply trnNotice_keeps
    | with_reducible apply passOver_keeps
    | with_reducible apply commitPass_keeps
    | with_reducible apply noteApply_keeps
    | with_reducible apply passRefused_keeps
    | split
    | dsimp only

theorem unstop_keeps {z0 : State} (s : State) (f : Nat) (sc : Nat) (h_ : Keeps z0 s) : Keeps z0 (unstop s f sc) := by
  unfold unstop
  repeat' first
    | with_reducible assumption
    | with_reducible apply Keeps.ite
    | with_reducible apply resume_keeps
    | split
    | dsimp only

theorem duePass_keeps {z0 : State} (s : State) (f : Nat) (sc : Nat) (t : Nat) (kind : Nat) (tuned : Bool) (h_ : Keeps z0 s) : Keeps z0 (duePass s f sc t kind tuned) := by
  unfold duePass
  repeat' first
    | with_reducible assumption
    | with_reducible apply startPass_keeps
    | with_reducible apply queuePasses_keeps
    | dsimp only

theorem retuneBay_keeps {z0 : State} (s : State) (f : Nat) (sc : Nat) (t : Nat) (h_ : Keeps z0 s) : Keeps z0 (retuneBay s f sc t) := by
  unfold retuneBay
  repeat' first
    | with_reducible assumption
    | with_reducible apply Keeps.ite
    | with_reducible apply duePass_keeps
    | split
    | dsimp only

theorem driftRetune_keeps {z0 : State} (s : State) (f : Nat) (sc : Nat) (t : Nat) (h_ : Keeps z0 s) : Keeps z0 (driftRetune s f sc t) := by
  unfold driftRetune
  repeat' first
    | with_reducible assumption
    | with_reducible apply Keeps.ite
    | with_reducible apply duePass_keeps
    | split
    | dsimp only

theorem commandPasses_keeps {z0 : State} (s : State) (f : Nat) (sc : Nat) (kind : Nat) (tuned : Bool) (tiers : List Nat) (h_ : Keeps z0 s) : Keeps z0 (commandPasses s f sc kind tuned tiers) := by
  unfold commandPasses
  repeat' first
    | with_reducible assumption
    | exact Eq.refl _
    | with_reducible apply queuePasses_keeps
    | with_reducible apply startPass_keeps
    | with_reducible apply modFlume_keeps
    | dsimp only

theorem trainFlume_keeps {z0 : State} (s : State) (f : Nat) (tuned : Bool) (h_ : Keeps z0 s) : Keeps z0 (trainFlume s f tuned) := by
  unfold trainFlume
  repeat' first
    | with_reducible assumption
    | intro _
    | exact Eq.refl _
    | with_reducible apply modFlume_keeps
    | with_reducible apply commandPasses_keeps
    | with_reducible apply forAll_keeps
    | dsimp only

theorem takeTrnCtl_keeps {z0 : State} (s : State) (path : Nat) (f : Nat) (v : Nat) (h_ : Keeps z0 s) : Keeps z0 (takeTrnCtl s path f v) := by
  unfold takeTrnCtl
  repeat' first
    | with_reducible assumption
    | with_reducible apply Keeps.ite
    | with_reducible apply regSet_keeps
    | with_reducible apply trainFlume_keeps
    | with_reducible apply regPut_keeps
    | with_reducible apply accessFault_keeps
    | split
    | dsimp only

theorem fullBay_keeps {z0 : State} (s : State) (f : Nat) (sc : Nat) (t : Nat) (h_ : Keeps z0 s) : Keeps z0 (fullBay s f sc t) := by
  unfold fullBay
  repeat' first
    | with_reducible assumption
    | with_reducible apply Keeps.ite
    | with_reducible apply commandPasses_keeps
    | split
    | dsimp only

theorem fullSub_keeps {z0 : State} (s : State) (f : Nat) (sc : Nat) (h_ : Keeps z0 s) : Keeps z0 (fullSub s f sc) := by
  unfold fullSub
  repeat' first
    | with_reducible assumption
    | with_reducible apply Keeps.ite
    | with_reducible apply commandPasses_keeps
    | split
    | dsimp only

theorem retuneCmd_keeps {z0 : State} (s : State) (f : Nat) (sc : Nat) (t : Nat) (h_ : Keeps z0 s) : Keeps z0 (retuneCmd s f sc t) := by
  unfold retuneCmd
  repeat' first
    | with_reducible assumption
    | with_reducible apply Keeps.ite
    | with_reducible apply commandPasses_keeps
    | split
    | dsimp only

theorem applyCmd_keeps {z0 : State} (s : State) (f : Nat) (sc : Nat) (t : Nat) (h_ : Keeps z0 s) : Keeps z0 (applyCmd s f sc t) := by
  unfold applyCmd
  repeat' first
    | with_reducible assumption
    | exact Eq.refl _
    | with_reducible apply Keeps.ite
    | with_reducible apply noteApply_keeps
    | with_reducible apply modBay_keeps
    | split
    | dsimp only

theorem loopCmd_keeps {z0 : State} (s : State) (f : Nat) (sc : Nat) (loop : LoopRes) (h_ : Keeps z0 s) : Keeps z0 (loopCmd s f sc loop) := by
  unfold loopCmd
  repeat' first
    | with_reducible assumption
    | exact Eq.refl _
    | with_reducible apply loopTest_keeps
    | with_reducible apply scEvent_keeps
    | split
    | dsimp only

theorem takeTrnCmd_keeps {z0 : State} (s : State) (f : Nat) (v : Nat) (loop : LoopRes) (h_ : Keeps z0 s) : Keeps z0 (takeTrnCmd s f v loop) := by
  unfold takeTrnCmd
  repeat' first
    | with_reducible assumption
    | exact Eq.refl _
    | with_reducible apply fullBay_keeps
    | with_reducible apply fullSub_keeps
    | with_reducible apply retuneCmd_keeps
    | with_reducible apply applyCmd_keeps
    | with_reducible apply loopCmd_keeps
    | split
    | dsimp only

theorem trnCommand_keeps {z0 : State} (path : Nat) (f : Nat) (v : Nat) (loop : LoopRes) (s : State) (h_ : Keeps z0 s) : Keeps z0 (trnCommand path f v loop s) := by
  unfold trnCommand
  repeat' first
    | with_reducible assumption
    | intro _
    | with_reducible apply writeNow_keeps
    | with_reducible apply takeTrnCmd_keeps
    | dsimp only

theorem rescaleFlume_keeps {z0 : State} (s : State) (f : Nat) (a : Nat) (b : Nat) (h_ : Keeps z0 s) : Keeps z0 (rescaleFlume s f a b) := by
  unfold rescaleFlume
  repeat' first
    | with_reducible assumption
    | intro _
    | exact Eq.refl _
    | with_reducible apply modBay_keeps
    | with_reducible apply queuePasses_keeps
    | with_reducible apply startPass_keeps
    | with_reducible apply forAll_keeps
    | with_reducible apply Keeps.foldl
    | with_reducible apply Keeps.foldl_snd2
    | with_reducible apply Keeps.foldl_snd
    | with_reducible apply Keeps.foldl_fst
    | dsimp only

/-! The meanings: on elements that exist, each answers a next state. -/

theorem execTrainingPassEnd_runs (f : Nat) (sc : Nat) (res : PassRes) (s : State) (w_ : (Instr.trainingPassEnd f sc res).wf = true) : Runs s (execTrainingPassEnd f sc res s) := by
  unfold execTrainingPassEnd
  repeat' first
    | with_reducible assumption
    | with_reducible exact Keeps.refl _
    | with_reducible apply Runs.next
    | with_reducible apply Runs.ite
    | (with_reducible apply Runs.onElement; (first | assumption | simp_all [Instr.wf, okSub]))
    | exact Eq.refl _
    | with_reducible apply Keeps.ite
    | with_reducible apply modFlume_keeps
    | with_reducible apply writeRecords_keeps
    | with_reducible apply endPass_keeps
    | with_reducible apply unstop_keeps
    | with_reducible apply startPass_keeps
    | split
    | dsimp only

theorem execRetunePeriodExpiry_runs (f : Nat) (sc : Nat) (tier : Nat) (s : State) (w_ : (Instr.retunePeriodExpiry f sc tier).wf = true) : Runs s (execRetunePeriodExpiry f sc tier s) := by
  unfold execRetunePeriodExpiry
  repeat' first
    | with_reducible assumption
    | with_reducible exact Keeps.refl _
    | with_reducible apply Runs.next
    | with_reducible apply Runs.ite
    | (with_reducible apply Runs.onElement; (first | assumption | simp_all [Instr.wf, okBay, okSub]))
    | with_reducible apply Keeps.ite
    | with_reducible apply retuneBay_keeps
    | split
    | dsimp only

theorem execRetuneRetry_runs (f : Nat) (sc : Nat) (tier : Nat) (s : State) (w_ : (Instr.retuneRetry f sc tier).wf = true) : Runs s (execRetuneRetry f sc tier s) := by
  unfold execRetuneRetry
  repeat' first
    | with_reducible assumption
    | with_reducible exact Keeps.refl _
    | with_reducible apply Runs.next
    | with_reducible apply Runs.ite
    | (with_reducible apply Runs.onElement; (first | assumption | simp_all [Instr.wf, okBay, okSub]))
    | with_reducible apply Keeps.ite
    | with_reducible apply duePass_keeps
    | split
    | dsimp only

theorem execModeChange_runs (path : Nat) (f : Nat) (v : Word) (s : State) (w_ : (Instr.modeChange path f v).wf = true) : Runs s (execModeChange path f v s) := by
  unfold execModeChange
  repeat' first
    | with_reducible assumption
    | with_reducible exact Keeps.refl _
    | with_reducible apply Runs.next
    | with_reducible apply Runs.ite
    | (with_reducible apply Runs.onElement; (first | assumption | simp_all [Instr.wf, okPath, okF]))
    | intro _
    | with_reducible apply Keeps.ite
    | with_reducible apply writeNow_keeps
    | with_reducible apply takeTrnCtl_keeps
    | split
    | dsimp only

theorem execFullPassBay_runs (path : Nat) (f : Nat) (sc : Nat) (tier : Nat) (s : State) (w_ : (Instr.fullPassBay path f sc tier).wf = true) : Runs s (execFullPassBay path f sc tier s) := by
  unfold execFullPassBay
  repeat' first
    | with_reducible assumption
    | with_reducible exact Keeps.refl _
    | with_reducible apply Runs.next
    | with_reducible apply Runs.ite
    | (with_reducible apply Runs.onElement; (first | assumption | simp_all [Instr.wf, okPath, okBay, okSub]))
    | with_reducible apply Keeps.ite
    | with_reducible apply trnCommand_keeps
    | split
    | dsimp only

theorem execFullPassSubchannel_runs (path : Nat) (f : Nat) (sc : Nat) (s : State) (w_ : (Instr.fullPassSubchannel path f sc).wf = true) : Runs s (execFullPassSubchannel path f sc s) := by
  unfold execFullPassSubchannel
  repeat' first
    | with_reducible assumption
    | with_reducible exact Keeps.refl _
    | with_reducible apply Runs.next
    | with_reducible apply Runs.ite
    | (with_reducible apply Runs.onElement; (first | assumption | simp_all [Instr.wf, okPath, okSub]))
    | with_reducible apply Keeps.ite
    | with_reducible apply trnCommand_keeps
    | split
    | dsimp only

theorem execRetunePassBay_runs (path : Nat) (f : Nat) (sc : Nat) (tier : Nat) (s : State) (w_ : (Instr.retunePassBay path f sc tier).wf = true) : Runs s (execRetunePassBay path f sc tier s) := by
  unfold execRetunePassBay
  repeat' first
    | with_reducible assumption
    | with_reducible exact Keeps.refl _
    | with_reducible apply Runs.next
    | with_reducible apply Runs.ite
    | (with_reducible apply Runs.onElement; (first | assumption | simp_all [Instr.wf, okPath, okBay, okSub]))
    | with_reducible apply Keeps.ite
    | with_reducible apply trnCommand_keeps
    | split
    | dsimp only

theorem execApplyStaged_runs (path : Nat) (f : Nat) (sc : Nat) (tier : Nat) (s : State) (w_ : (Instr.applyStaged path f sc tier).wf = true) : Runs s (execApplyStaged path f sc tier s) := by
  unfold execApplyStaged
  repeat' first
    | with_reducible assumption
    | with_reducible exact Keeps.refl _
    | with_reducible apply Runs.next
    | with_reducible apply Runs.ite
    | (with_reducible apply Runs.onElement; (first | assumption | simp_all [Instr.wf, okPath, okBay, okSub]))
    | with_reducible apply Keeps.ite
    | with_reducible apply trnCommand_keeps
    | split
    | dsimp only

theorem execLoopTest_runs (path : Nat) (f : Nat) (sc : Nat) (loop : LoopRes) (s : State) (w_ : (Instr.loopTest path f sc loop).wf = true) : Runs s (execLoopTest path f sc loop s) := by
  unfold execLoopTest
  repeat' first
    | with_reducible assumption
    | with_reducible exact Keeps.refl _
    | with_reducible apply Runs.next
    | with_reducible apply Runs.ite
    | (with_reducible apply Runs.onElement; (first | assumption | simp_all [Instr.wf, okPath, okSub]))
    | with_reducible apply Keeps.ite
    | with_reducible apply trnCommand_keeps
    | split
    | dsimp only

end Sys2Proof.Machine
end

