-- ==== Sys2Proof/Laws/KeepsMills.lean ====
section
/-! SUPPORT. What the operations of Machine/Mills.lean keep. -/

set_option Elab.async false

namespace Sys2Proof.Machine

theorem takeMilCtl_keeps {z0 : State} (s : State) (m : Nat) (v : Nat) (h_ : Keeps z0 s) : Keeps z0 (takeMilCtl s m v) := by
  unfold takeMilCtl
  repeat' first
    | with_reducible assumption
    | with_reducible apply Keeps.ite
    | with_reducible apply regSet_keeps
    | with_reducible apply refillMills_keeps
    | with_reducible apply leaveDispatch_keeps
    | split
    | dsimp only

theorem failMill_keeps {z0 : State} (s : State) (m : Nat) (h_ : Keeps z0 s) : Keeps z0 (failMill s m) := by
  unfold failMill
  repeat' first
    | with_reducible assumption
    | exact Eq.refl _
    | with_reducible apply leaveDispatch_keeps
    | with_reducible apply modMill_keeps
    | dsimp only

theorem swapsEnd_keeps {z0 : State} (s : State) (did : Nat) (h_ : Keeps z0 s) : Keeps z0 (swapsEnd s did) := by
  unfold swapsEnd
  repeat' first
    | with_reducible assumption
    | exact Eq.refl _
    | with_reducible apply Keeps.ite
    | with_reducible apply finishDesc_keeps
    | split
    | dsimp only

theorem refuseUcode_keeps {z0 : State} (s : State) (did : Nat) (mask : Nat) (reason : Nat) (h_ : Keeps z0 s) : Keeps z0 (refuseUcode s did mask reason) := by
  unfold refuseUcode
  repeat' first
    | with_reducible assumption
    | intro _
    | with_reducible apply finishDesc_keeps
    | with_reducible apply raise_keeps
    | with_reducible apply Keeps.foldl
    | with_reducible apply Keeps.foldl_snd2
    | with_reducible apply Keeps.foldl_snd
    | with_reducible apply Keeps.foldl_fst
    | dsimp only

theorem persistUcode_keeps {z0 : State} (s : State) (l : List Byte) (ok : Bool) (h_ : Keeps z0 s) : Keeps z0 (persistUcode s l ok) := by
  unfold persistUcode
  repeat' first
    | with_reducible assumption
    | exact Eq.refl _
    | with_reducible apply Keeps.ite
    | with_reducible apply tallyFail_keeps
    | split
    | dsimp only
    | with_reducible apply Keeps.raw

theorem startUcode_keeps {z0 : State} (s : State) (h_ : Keeps z0 s) : Keeps z0 (startUcode s) := by
  unfold startUcode
  repeat' first
    | with_reducible assumption
    | intro _
    | exact Eq.refl _
    | with_reducible apply Keeps.ite
    | with_reducible apply modMill_keeps
    | with_reducible apply raise_keeps
    | with_reducible apply forAll_keeps
    | split
    | dsimp only

theorem endRunning_keeps {z0 : State} (s : State) (m : Nat) (status : Nat) (kind : Nat) (h_ : Keeps z0 s) : Keeps z0 (endRunning s m status kind) := by
  unfold endRunning
  repeat' first
    | with_reducible assumption
    | exact Eq.refl _
    | with_reducible apply Keeps.ite
    | with_reducible apply endPart_keeps
    | with_reducible apply modPart_keeps
    | split
    | dsimp only

theorem faultMill_keeps {z0 : State} (s : State) (m : Nat) (status : Nat) (kind : Nat) (h_ : Keeps z0 s) : Keeps z0 (faultMill s m status kind) := by
  unfold faultMill
  repeat' first
    | with_reducible assumption
    | exact Eq.refl _
    | with_reducible apply scEvent_keeps
    | with_reducible apply modMill_keeps
    | with_reducible apply leaveDispatch_keeps
    | with_reducible apply raise_keeps
    | with_reducible apply endRunning_keeps
    | dsimp only

theorem setVlogic_keeps {z0 : State} (s : State) (h_ : Keeps z0 s) : Keeps z0 (setVlogic s) := by
  unfold setVlogic
  repeat' first
    | with_reducible assumption
    | exact Eq.refl _
    | dsimp only
    | with_reducible apply Keeps.raw

/-! The meanings: on elements that exist, each answers a next state. -/

theorem execMilDispatchDisable_runs (path : Nat) (m : Nat) (v : Word) (s : State) (w_ : (Instr.milDispatchDisable path m v).wf = true) : Runs s (execMilDispatchDisable path m v s) := by
  unfold execMilDispatchDisable
  repeat' first
    | with_reducible assumption
    | with_reducible exact Keeps.refl _
    | with_reducible apply Runs.next
    | with_reducible apply Runs.ite
    | (with_reducible apply Runs.onElement; (first | assumption | simp_all [Instr.wf, okPath, okF]))
    | intro _
    | with_reducible apply Keeps.ite
    | with_reducible apply writeNow_keeps
    | with_reducible apply takeMilCtl_keeps
    | split
    | dsimp only

theorem execMillLogicSliceStart_runs (m : Nat) (s : State) (w_ : (Instr.millLogicSliceStart m).wf = true) : Runs s (execMillLogicSliceStart m s) := by
  unfold execMillLogicSliceStart
  repeat' first
    | with_reducible assumption
    | with_reducible exact Keeps.refl _
    | with_reducible apply Runs.next
    | with_reducible apply Runs.ite
    | (with_reducible apply Runs.onElement; (first | assumption | simp_all [Instr.wf, okF]))
    | exact Eq.refl _
    | with_reducible apply Keeps.ite
    | with_reducible apply modMill_keeps
    | split
    | dsimp only

theorem execMillSliceWaitExpiry_runs (m : Nat) (s : State) (w_ : (Instr.millSliceWaitExpiry m).wf = true) : Runs s (execMillSliceWaitExpiry m s) := by
  unfold execMillSliceWaitExpiry
  repeat' first
    | with_reducible assumption
    | with_reducible exact Keeps.refl _
    | with_reducible apply Runs.next
    | with_reducible apply Runs.ite
    | (with_reducible apply Runs.onElement; (first | assumption | simp_all [Instr.wf, okF]))
    | exact Eq.refl _
    | with_reducible apply Keeps.ite
    | with_reducible apply startNextPart_keeps
    | with_reducible apply modMill_keeps
    | split
    | dsimp only

theorem execMillLogicSliceEnd_runs (m : Nat) (pass : Bool) (s : State) (w_ : (Instr.millLogicSliceEnd m pass).wf = true) : Runs s (execMillLogicSliceEnd m pass s) := by
  unfold execMillLogicSliceEnd
  repeat' first
    | with_reducible assumption
    | with_reducible exact Keeps.refl _
    | with_reducible apply Runs.next
    | with_reducible apply Runs.ite
    | (with_reducible apply Runs.onElement; (first | assumption | simp_all [Instr.wf, okF]))
    | exact Eq.refl _
    | with_reducible apply Keeps.ite
    | with_reducible apply sliceRan_keeps
    | with_reducible apply modMill_keeps
    | with_reducible apply refillMills_keeps
    | with_reducible apply failMill_keeps
    | with_reducible apply noteFail_keeps
    | split
    | dsimp only

theorem execUcodeLoad_runs (did : Nat) (env : OpEnv) (tallyOk : Bool) (s : State) : Runs s (execUcodeLoad did env tallyOk s) := by
  unfold execUcodeLoad
  repeat' first
    | with_reducible assumption
    | with_reducible exact Keeps.refl _
    | with_reducible apply Runs.next
    | with_reducible apply Runs.ite
    | (with_reducible apply Runs.onElement; (first | assumption | simp_all [Instr.wf]))
    | (with_reducible apply ask_runs; (first | assumption | simp_all [Instr.wf]))
    | intro _
    | exact Eq.refl _
    | with_reducible apply Keeps.ite
    | with_reducible apply finishDesc_keeps
    | with_reducible apply refuseUcode_keeps
    | with_reducible apply persistUcode_keeps
    | with_reducible apply modMill_keeps
    | with_reducible apply modDesc_keeps
    | with_reducible apply swapsEnd_keeps
    | with_reducible apply Keeps.foldl
    | with_reducible apply Keeps.foldl_snd
    | split
    | dsimp only

theorem execMicrocodeSwap_runs (m : Nat) (s : State) (w_ : (Instr.microcodeSwap m).wf = true) : Runs s (execMicrocodeSwap m s) := by
  unfold execMicrocodeSwap
  repeat' first
    | with_reducible assumption
    | with_reducible exact Keeps.refl _
    | with_reducible apply Runs.next
    | with_reducible apply Runs.ite
    | (with_reducible apply Runs.onElement; (first | assumption | simp_all [Instr.wf, okF]))
    | exact Eq.refl _
    | with_reducible apply Keeps.ite
    | with_reducible apply leaveDispatch_keeps
    | with_reducible apply modMill_keeps
    | split
    | dsimp only

theorem execSwapBankExchange_runs (m : Nat) (s : State) (w_ : (Instr.swapBankExchange m).wf = true) : Runs s (execSwapBankExchange m s) := by
  unfold execSwapBankExchange
  repeat' first
    | with_reducible assumption
    | with_reducible exact Keeps.refl _
    | with_reducible apply Runs.next
    | with_reducible apply Runs.ite
    | (with_reducible apply Runs.onElement; (first | assumption | simp_all [Instr.wf, okF]))
    | exact Eq.refl _
    | with_reducible apply Keeps.ite
    | with_reducible apply modDesc_keeps
    | with_reducible apply modMill_keeps
    | with_reducible apply refillMills_keeps
    | with_reducible apply swapsEnd_keeps
    | split
    | dsimp only

theorem execMillFault_runs (m : Nat) (kind : Nat) (s : State) (w_ : (Instr.millFault m kind).wf = true) : Runs s (execMillFault m kind s) := by
  unfold execMillFault
  repeat' first
    | with_reducible assumption
    | with_reducible exact Keeps.refl _
    | with_reducible apply Runs.next
    | with_reducible apply Runs.ite
    | (with_reducible apply Runs.onElement; (first | assumption | simp_all [Instr.wf, okF]))
    | with_reducible apply Keeps.ite
    | with_reducible apply raise_keeps
    | with_reducible apply scEvent_keeps
    | with_reducible apply faultMill_keeps
    | split
    | dsimp only

theorem execMillWatchdog_runs (m : Nat) (s : State) (w_ : (Instr.millWatchdog m).wf = true) : Runs s (execMillWatchdog m s) := by
  unfold execMillWatchdog
  repeat' first
    | with_reducible assumption
    | with_reducible exact Keeps.refl _
    | with_reducible apply Runs.next
    | with_reducible apply Runs.ite
    | (with_reducible apply Runs.onElement; (first | assumption | simp_all [Instr.wf, okF]))
    | exact Eq.refl _
    | with_reducible apply Keeps.ite
    | with_reducible apply faultMill_keeps
    | split
    | dsimp only

theorem execMillRecoveryDone_runs (m : Nat) (s : State) (w_ : (Instr.millRecoveryDone m).wf = true) : Runs s (execMillRecoveryDone m s) := by
  unfold execMillRecoveryDone
  repeat' first
    | with_reducible assumption
    | with_reducible exact Keeps.refl _
    | with_reducible apply Runs.next
    | with_reducible apply Runs.ite
    | (with_reducible apply Runs.onElement; (first | assumption | simp_all [Instr.wf, okF]))
    | exact Eq.refl _
    | with_reducible apply Keeps.ite
    | with_reducible apply modMill_keeps
    | with_reducible apply refillMills_keeps
    | with_reducible apply raise_keeps
    | split
    | dsimp only

theorem execMillOppChange_runs (m : Nat) (s : State) (w_ : (Instr.millOppChange m).wf = true) : Runs s (execMillOppChange m s) := by
  unfold execMillOppChange
  repeat' first
    | with_reducible assumption
    | with_reducible exact Keeps.refl _
    | with_reducible apply Runs.next
    | with_reducible apply Runs.ite
    | (with_reducible apply Runs.onElement; (first | assumption | simp_all [Instr.wf, okF]))
    | exact Eq.refl _
    | with_reducible apply Keeps.ite
    | with_reducible apply setVlogic_keeps
    | with_reducible apply modMill_keeps
    | split
    | dsimp only

theorem execFlumeOppChange_runs (f : Nat) (s : State) (w_ : (Instr.flumeOppChange f).wf = true) : Runs s (execFlumeOppChange f s) := by
  unfold execFlumeOppChange
  repeat' first
    | with_reducible assumption
    | with_reducible exact Keeps.refl _
    | with_reducible apply Runs.next
    | with_reducible apply Runs.ite
    | (with_reducible apply Runs.onElement; (first | assumption | simp_all [Instr.wf, okF]))
    | exact Eq.refl _
    | with_reducible apply Keeps.ite
    | with_reducible apply setVlogic_keeps
    | with_reducible apply rescaleFlume_keeps
    | with_reducible apply modFlume_keeps
    | split
    | dsimp only

theorem execMonitorWarning_runs (m : Nat) (s : State) (w_ : (Instr.monitorWarning m).wf = true) : Runs s (execMonitorWarning m s) := by
  unfold execMonitorWarning
  repeat' first
    | with_reducible assumption
    | with_reducible exact Keeps.refl _
    | with_reducible apply Runs.next
    | with_reducible apply Runs.ite
    | (with_reducible apply Runs.onElement; (first | assumption | simp_all [Instr.wf, okF]))
    | exact Eq.refl _
    | with_reducible apply Keeps.ite
    | with_reducible apply modMill_keeps
    | with_reducible apply setVlogic_keeps
    | with_reducible apply raise_keeps
    | split
    | dsimp only

theorem execDroopTrip_runs (f : Nat) (ctl : Bool) (s : State) (w_ : (Instr.droopTrip f ctl).wf = true) : Runs s (execDroopTrip f ctl s) := by
  unfold execDroopTrip
  repeat' first
    | with_reducible assumption
    | with_reducible exact Keeps.refl _
    | with_reducible apply Runs.next
    | with_reducible apply Runs.ite
    | (with_reducible apply Runs.onElement; (first | assumption | simp_all [Instr.wf, okF]))
    | exact Eq.refl _
    | with_reducible apply Keeps.ite
    | with_reducible apply scEvent_keeps
    | with_reducible apply raise_keeps
    | with_reducible apply modFlume_keeps
    | with_reducible apply modMill_keeps
    | split
    | dsimp only

theorem execDroopRecover_runs (f : Nat) (ctl : Bool) (s : State) (w_ : (Instr.droopRecover f ctl).wf = true) : Runs s (execDroopRecover f ctl s) := by
  unfold execDroopRecover
  repeat' first
    | with_reducible assumption
    | with_reducible exact Keeps.refl _
    | with_reducible apply Runs.next
    | with_reducible apply Runs.ite
    | (with_reducible apply Runs.onElement; (first | assumption | simp_all [Instr.wf, okF]))
    | exact Eq.refl _
    | with_reducible apply Keeps.ite
    | with_reducible apply modFlume_keeps
    | with_reducible apply modMill_keeps
    | split
    | dsimp only

theorem execDroopHoldExpiry_runs (m : Nat) (s : State) (w_ : (Instr.droopHoldExpiry m).wf = true) : Runs s (execDroopHoldExpiry m s) := by
  unfold execDroopHoldExpiry
  repeat' first
    | with_reducible assumption
    | with_reducible exact Keeps.refl _
    | with_reducible apply Runs.next
    | with_reducible apply Runs.ite
    | (with_reducible apply Runs.onElement; (first | assumption | simp_all [Instr.wf, okF]))
    | exact Eq.refl _
    | with_reducible apply Keeps.ite
    | with_reducible apply modMill_keeps
    | split
    | dsimp only

end Sys2Proof.Machine
end

