-- ==== Sys2Proof/Laws/KeepsPower.lean ====
section
/-! SUPPORT. What the operations of Machine/Power.lean keep. -/

set_option Elab.async false

namespace Sys2Proof.Machine

theorem noteRefusal_keeps {z0 : State} (s : State) (st : Nat) (r : Nat × Nat) (h_ : Keeps z0 s) : Keeps z0 (noteRefusal s st r) := by
  unfold noteRefusal
  repeat' first
    | with_reducible assumption
    | with_reducible apply scEvent_keeps
    | dsimp only

theorem bestCopy_mem {α : Type} {c : Copies α} {v : α} (e : bestCopy c = some v) : v = c.a.val ∨ v = c.b.val := by
  unfold bestCopy bestOf at e
  split at e
  · exact .inl (Option.some.inj e).symm
  · split at e
    · exact .inr (Option.some.inj e).symm
    · cases e

theorem putCopy_all {α : Type} (p : α → Prop) (old : Option (Copies α)) (v : α) (hv : p v)
    (ho : ∀ c, old = some c → p c.a.val ∧ p c.b.val) : p (putCopy old v).a.val ∧ p (putCopy old v).b.val := by
  cases old with
  | none => exact ⟨hv, hv⟩
  | some c =>
    have h := ho c rfl
    unfold putCopy
    dsimp only
    split
    · exact ⟨hv, h.2⟩
    · split
      · exact ⟨h.1, hv⟩
      · split
        · exact ⟨hv, h.2⟩
        · exact ⟨h.1, hv⟩

theorem brakeSave_keeps {z0 : State} (s : State) (h : Keeps z0 s) : Keeps z0 (brakeSave s) :=
  h.upd rfl rfl (List.prefix_refl _) rfl fun w => { w with
    brake := fun c e => by
      have hc := putCopy_all (fun b : BrakeSave => tabWf (0 : BitVec 128) b.regions) s.tally.brake
        ⟨s.regions, s.leat.dirty, s.leat.whole, s.leat.page⟩ w.regions w.brake
      rw [← Option.some.inj e]; exact hc }

theorem evalFlume_keeps {z0 : State} (s : State) (f : Nat) (h_ : Keeps z0 s) : Keeps z0 (evalFlume s f) := by
  unfold evalFlume
  repeat' first
    | with_reducible assumption
    | exact Eq.refl _
    | with_reducible apply Keeps.ite
    | with_reducible apply wakeFlume_keeps
    | with_reducible apply noteRefusal_keeps
    | with_reducible apply modFlume_keeps
    | split
    | dsimp only

theorem evalDevice_keeps {z0 : State} (s : State) (tallyOk : Bool) (h_ : Keeps z0 s) : Keeps z0 (evalDevice s tallyOk) := by
  unfold evalDevice
  repeat' first
    | with_reducible assumption
    | exact Eq.refl _
    | with_reducible apply Keeps.ite
    | with_reducible apply wakeDevice_keeps
    | with_reducible apply noteRefusal_keeps
    | with_reducible apply raise_keeps
    | with_reducible apply tallyFail_keeps
    | with_reducible apply brakeSave_keeps
    | split
    | refine Keeps.snd (by assumption) ?_
    | dsimp only
    | with_reducible apply Keeps.raw

theorem loseCodes_keeps {z0 : State} (s : State) (f : Nat) (h_ : Keeps z0 s) : Keeps z0 (loseCodes s f) := by
  unfold loseCodes
  repeat' first
    | with_reducible assumption
    | intro _
    | exact Eq.refl _
    | with_reducible apply modBay_keeps
    | with_reducible apply forAll_keeps
    | dsimp only

theorem enterFlume_keeps {z0 : State} (s : State) (f : Nat) (st : Nat) (h_ : Keeps z0 s) : Keeps z0 (enterFlume s f st) := by
  unfold enterFlume
  repeat' first
    | with_reducible assumption
    | exact Eq.refl _
    | with_reducible apply Keeps.ite
    | with_reducible apply modFlume_keeps
    | with_reducible apply payAll_keeps
    | with_reducible apply loseCodes_keeps
    | with_reducible apply modMill_keeps
    | split
    | dsimp only

theorem restartModel_keeps {z0 : State} (s : State) (h_ : Keeps z0 s) : Keeps z0 (restartModel s) := by
  unfold restartModel
  repeat' first
    | with_reducible assumption
    | exact Eq.refl _
    | dsimp only
    | with_reducible apply Keeps.raw

theorem enterDevice_keeps {z0 : State} (s : State) (st : Nat) (h : Keeps z0 s) : Keeps z0 (enterDevice s st) := by
  unfold enterDevice
  dsimp only
  split
  · have h0 : Keeps z0 { restartModel { s with pwr := { s.pwr with dstate := st, entering := none } } with regions := [], badRegions := [] } :=
      h.upd rfl rfl (List.prefix_refl _) rfl fun w => { w with regions := tabWf_nil _ }
    exact modLeat_keeps h0 fun _ => rfl
  · exact h.raw rfl rfl rfl rfl rfl rfl rfl rfl

theorem leaveSelfRefresh_keeps {z0 : State} (s : State) (f : Nat) (h_ : Keeps z0 s) : Keeps z0 (leaveSelfRefresh s f) := by
  unfold leaveSelfRefresh
  repeat' first
    | with_reducible assumption
    | intro _
    | exact Eq.refl _
    | with_reducible apply modBank_keeps
    | with_reducible apply forAll_keeps
    | dsimp only

theorem failOnWake_keeps {z0 : State} (s : State) (f : Nat) (t : Nat) (k : Nat × Nat) (h_ : Keeps z0 s) : Keeps z0 (failOnWake s f t k) := by
  unfold failOnWake
  repeat' first
    | with_reducible assumption
    | exact Eq.refl _
    | with_reducible apply event_keeps
    | with_reducible apply scEvent_keeps
    | with_reducible apply modBank_keeps
    | dsimp only

theorem wakeCheck_keeps {z0 : State} (s : State) (f : Nat) (env : OpEnv) (h_ : Keeps z0 s) : Keeps z0 (wakeCheck s f env) := by
  unfold wakeCheck
  repeat' first
    | with_reducible assumption
    | intro _
    | with_reducible apply lookups_keeps
    | with_reducible apply canaryTier_keeps
    | with_reducible apply failOnWake_keeps
    | with_reducible apply gradeTier_keeps
    | with_reducible apply forAll_keeps
    | with_reducible apply Keeps.foldl
    | with_reducible apply Keeps.foldl_snd2
    | with_reducible apply Keeps.foldl_snd
    | with_reducible apply Keeps.foldl_fst
    | dsimp only

theorem flumeRuns_keeps {z0 : State} (s : State) (f : Nat) (h_ : Keeps z0 s) : Keeps z0 (flumeRuns s f) := by
  unfold flumeRuns
  repeat' first
    | with_reducible assumption
    | exact Eq.refl _
    | with_reducible apply modFlume_keeps
    | dsimp only

theorem wakePasses_keeps {z0 : State} (s : State) (f : Nat) (ps : List PassRes) (h_ : Keeps z0 s) : Keeps z0 (wakePasses s f ps) := by
  unfold wakePasses
  repeat' first
    | with_reducible assumption
    | intro _
    | with_reducible apply Keeps.ite
    | with_reducible apply writeRecords_keeps
    | with_reducible apply startPass_keeps
    | with_reducible apply endPass_keeps
    | with_reducible apply forAll_keeps
    | split
    | dsimp only

theorem wakeFlumeNow_keeps {z0 : State} (s : State) (f : Nat) (ps : List PassRes) (env : OpEnv) (h_ : Keeps z0 s) : Keeps z0 (wakeFlumeNow s f ps env) := by
  unfold wakeFlumeNow
  repeat' first
    | with_reducible assumption
    | with_reducible apply Keeps.ite
    | with_reducible apply wakePasses_keeps
    | with_reducible apply flumeRuns_keeps
    | with_reducible apply wakeCheck_keeps
    | with_reducible apply leaveSelfRefresh_keeps
    | split
    | dsimp only

theorem deviceRuns_keeps {z0 : State} (s : State) (h_ : Keeps z0 s) : Keeps z0 (deviceRuns s) := by
  unfold deviceRuns
  repeat' first
    | with_reducible assumption
    | exact Eq.refl _
    | dsimp only
    | with_reducible apply Keeps.raw

theorem brakeRestore_keeps {z0 : State} (s : State) (ok : Bool) (h : Keeps z0 s) : Keeps z0 (brakeRestore s ok) := by
  have h1 := checkCopies_keeps 5 s s.tally.brake h
  unfold brakeRestore
  generalize checkCopies 5 s s.tally.brake = s1 at h1 ⊢
  dsimp only
  split
  · next b e =>
    refine modLeat_keeps (setRegions_keeps h1 fun w => ?_) fun _ => rfl
    split at e
    · rw [Option.bind_eq_some_iff] at e
      obtain ⟨c, e1, e2⟩ := e
      rcases bestCopy_mem e2 with rfl | rfl
      · exact (w.brake c e1).1
      · exact (w.brake c e1).2
    · cases e
  · exact raise_keeps _ _ _ _ _ _ h1

theorem takeRunReq_keeps {z0 : State} (s : State) (v : Nat) (h_ : Keeps z0 s) : Keeps z0 (takeRunReq s v) := by
  unfold takeRunReq
  repeat' first
    | with_reducible assumption
    | intro _
    | with_reducible apply regSet_keeps
    | with_reducible apply wakeFlume_keeps
    | with_reducible apply forAll_keeps
    | dsimp only

theorem loseArray_keeps {z0 : State} (s : State) (h : Keeps z0 s) : Keeps z0 (loseArray s) :=
  h.upd rfl rfl (List.prefix_refl _) rfl fun w => { w with mem := tabWf_nil _ }

theorem railBack_keeps {z0 : State} (s : State) (r : Nat) (h_ : Keeps z0 s) : Keeps z0 (railBack s r) := by
  unfold railBack
  repeat' first
    | with_reducible assumption
    | exact Eq.refl _
    | with_reducible apply Keeps.ite
    | with_reducible apply setLine_keeps
    | split
    | dsimp only
    | with_reducible apply Keeps.raw

theorem resetKeep_keeps {z0 : State} (s : State) (h : Keeps z0 s) : Keeps z0 (resetKeep s) :=
  h.trans ⟨rfl, rfl, List.prefix_refl _, fun w =>
    ⟨⟨⟨.nil, fun _ e => by cases e⟩, w.mem, tabWf_nil _, tabWf_nil _, tabWf_nil _, tabWf_nil _, tabWf_nil _, tabWf_nil _, tabWf_nil _, tabWf_nil _,
      tabWf_nil _, tabWf_nil _, tabWf_nil _, tabWf_nil _, tabWf_nil _, tabWf_nil _, tabWf_nil _, tabWf_nil _, w.normal, w.high, w.low, w.brake⟩,
     ⟨(FuseGrow.refl s.fuses).normal, (FuseGrow.refl s.fuses).high, (FuseGrow.refl s.fuses).low⟩⟩⟩

theorem haltSequence_keeps {z0 : State} (s : State) (h_ : Keeps z0 s) : Keeps z0 (haltSequence s) := by
  unfold haltSequence
  repeat' first
    | with_reducible assumption
    | exact Eq.refl _
    | with_reducible apply emit_keeps
    | dsimp only
    | with_reducible apply Keeps.raw

/-! The meanings: on elements that exist, each answers a next state. -/

theorem execSequencerEvaluation_runs (target : Option Nat) (tallyOk : Bool) (s : State) (w_ : (Instr.sequencerEvaluation target tallyOk).wf = true) : Runs s (execSequencerEvaluation target tallyOk s) := by
  unfold execSequencerEvaluation
  repeat' first
    | with_reducible assumption
    | with_reducible exact Keeps.refl _
    | with_reducible apply Runs.next
    | with_reducible apply Runs.ite
    | (with_reducible apply Runs.onElement; (first | assumption | simp_all [Instr.wf, okTarget, okF]))
    | exact Eq.refl _
    | with_reducible apply Keeps.ite
    | with_reducible apply evalDevice_keeps
    | with_reducible apply evalFlume_keeps
    | split
    | dsimp only

theorem execHoldoffExpiry_runs (target : Option Nat) (s : State) (w_ : (Instr.holdoffExpiry target).wf = true) : Runs s (execHoldoffExpiry target s) := by
  unfold execHoldoffExpiry
  repeat' first
    | with_reducible assumption
    | with_reducible exact Keeps.refl _
    | with_reducible apply Runs.next
    | with_reducible apply Runs.ite
    | (with_reducible apply Runs.onElement; (first | assumption | simp_all [Instr.wf, okTarget, okF]))
    | exact Eq.refl _
    | with_reducible apply Keeps.ite
    | with_reducible apply modFlume_keeps
    | split
    | refine Keeps.snd (by assumption) ?_
    | dsimp only
    | with_reducible apply Keeps.raw

theorem execPowerEntryComplete_runs (target : Option Nat) (s : State) (w_ : (Instr.powerEntryComplete target).wf = true) : Runs s (execPowerEntryComplete target s) := by
  unfold execPowerEntryComplete
  repeat' first
    | with_reducible assumption
    | with_reducible exact Keeps.refl _
    | with_reducible apply Runs.next
    | with_reducible apply Runs.ite
    | (with_reducible apply Runs.onElement; (first | assumption | simp_all [Instr.wf, okTarget, okF]))
    | exact Eq.refl _
    | with_reducible apply Keeps.ite
    | with_reducible apply enterDevice_keeps
    | with_reducible apply enterFlume_keeps
    | split
    | dsimp only

theorem execFlumeWake_runs (f : Nat) (passes : List PassRes) (env : OpEnv) (s : State) (w_ : (Instr.flumeWake f passes env).wf = true) : Runs s (execFlumeWake f passes env s) := by
  unfold execFlumeWake
  repeat' first
    | with_reducible assumption
    | with_reducible exact Keeps.refl _
    | with_reducible apply Runs.next
    | with_reducible apply Runs.ite
    | (with_reducible apply Runs.onElement; (first | assumption | simp_all [Instr.wf, okF]))
    | with_reducible apply Keeps.ite
    | with_reducible apply wakeFlumeNow_keeps
    | split
    | dsimp only

theorem execDeviceWake_runs (restoreOk : Bool) (s : State) : Runs s (execDeviceWake restoreOk s) := by
  unfold execDeviceWake
  repeat' first
    | with_reducible assumption
    | with_reducible exact Keeps.refl _
    | with_reducible apply Runs.next
    | with_reducible apply Runs.ite
    | with_reducible apply Keeps.ite
    | with_reducible apply brakeRestore_keeps
    | with_reducible apply restartModel_keeps
    | with_reducible apply deviceRuns_keeps
    | split
    | dsimp only

theorem execRunReqWrite_runs (path : Nat) (v : Word) (s : State) (w_ : (Instr.runReqWrite path v).wf = true) : Runs s (execRunReqWrite path v s) := by
  unfold execRunReqWrite
  repeat' first
    | with_reducible assumption
    | with_reducible exact Keeps.refl _
    | with_reducible apply Runs.next
    | with_reducible apply Runs.ite
    | (with_reducible apply Runs.onElement; (first | assumption | simp_all [Instr.wf, okPath]))
    | intro _
    | with_reducible apply Keeps.ite
    | with_reducible apply writeNow_keeps
    | with_reducible apply takeRunReq_keeps
    | split
    | dsimp only

theorem execRailOutOfWindow_runs (r : Nat) (s : State) (w_ : (Instr.railOutOfWindow r).wf = true) : Runs s (execRailOutOfWindow r s) := by
  unfold execRailOutOfWindow
  repeat' first
    | with_reducible assumption
    | with_reducible exact Keeps.refl _
    | with_reducible apply Runs.next
    | with_reducible apply Runs.ite
    | (with_reducible apply Runs.onElement; (first | assumption | simp_all [Instr.wf]))
    | exact Eq.refl _
    | with_reducible apply Keeps.ite
    | with_reducible apply loseArray_keeps
    | with_reducible apply scEvent_keeps
    | with_reducible apply raise_keeps
    | with_reducible apply setLine_keeps
    | split
    | dsimp only
    | with_reducible apply Keeps.raw

theorem execAuxBrownout_runs (s : State) : Runs s (execAuxBrownout s) := by
  unfold execAuxBrownout
  repeat' first
    | with_reducible assumption
    | with_reducible exact Keeps.refl _
    | with_reducible apply Runs.next
    | with_reducible apply Runs.ite
    | exact Eq.refl _
    | with_reducible apply Keeps.ite
    | with_reducible apply raise_keeps
    | with_reducible apply setLine_keeps
    | with_reducible apply scEvent_keeps
    | split
    | dsimp only
    | with_reducible apply Keeps.raw

theorem execAuxUndervoltage_runs (s : State) : Runs s (execAuxUndervoltage s) := by
  unfold execAuxUndervoltage
  repeat' first
    | with_reducible assumption
    | with_reducible exact Keeps.refl _
    | with_reducible apply Runs.next
    | with_reducible apply Runs.ite
    | exact Eq.refl _
    | with_reducible apply Keeps.ite
    | with_reducible apply resetKeep_keeps
    | with_reducible apply emit_keeps
    | split
    | dsimp only
    | with_reducible apply Keeps.raw

theorem execSequenceError_runs (r : Nat) (s : State) (w_ : (Instr.sequenceError r).wf = true) : Runs s (execSequenceError r s) := by
  unfold execSequenceError
  repeat' first
    | with_reducible assumption
    | with_reducible exact Keeps.refl _
    | with_reducible apply Runs.next
    | with_reducible apply Runs.ite
    | (with_reducible apply Runs.onElement; (first | assumption | simp_all [Instr.wf]))
    | with_reducible apply Keeps.ite
    | with_reducible apply haltSequence_keeps
    | split
    | dsimp only

theorem execEarlyReleaseTimeout_runs (s : State) : Runs s (execEarlyReleaseTimeout s) := by
  unfold execEarlyReleaseTimeout
  repeat' first
    | with_reducible assumption
    | with_reducible exact Keeps.refl _
    | with_reducible apply Runs.next
    | with_reducible apply Runs.ite
    | exact Eq.refl _
    | with_reducible apply Keeps.ite
    | with_reducible apply haltSequence_keeps
    | split
    | dsimp only

end Sys2Proof.Machine
end

