-- ==== Sys2Proof/Laws/KeepsAdmin.lean ====
section
/-! SUPPORT. What the operations of Machine/Admin.lean keep. -/

set_option Elab.async false

namespace Sys2Proof.Machine

theorem refuseDesc_keeps {z0 : State} (s : State) (did : Nat) (reason : Nat) (h_ : Keeps z0 s) : Keeps z0 (refuseDesc s did reason) := by
  unfold refuseDesc
  repeat' first
    | with_reducible assumption
    | with_reducible apply finishDesc_keeps
    | dsimp only

theorem finishKeep_keeps {z0 : State} (s : State) (did : Nat) (r : Result) (work : Nat) (prog : List Nat) (h_ : Keeps z0 s) : Keeps z0 (finishKeep s did r work prog) := by
  unfold finishKeep
  repeat' first
    | with_reducible assumption
    | exact Eq.refl _
    | with_reducible apply modDesc_keeps
    | dsimp only

theorem tellState_keeps {z0 : State} (s : State) (kind : Nat) (line : Nat) (data : List Byte) (reply : PartnerReply) (h_ : Keeps z0 s) : Keeps z0 (tellState s kind line data reply) := by
  unfold tellState
  repeat' first
    | with_reducible assumption
    | intro _
    | exact Eq.refl _
    | with_reducible apply sendState_keeps
    | with_reducible apply modLeat_keeps
    | split
    | dsimp only

theorem setEntry_keeps {z0 : State} (s : State) (i e : Nat) (h : Keeps z0 s) : Keeps z0 (setEntry s i e) :=
  modLeat_keeps (setRegions_keeps h fun w => tabWf_tabSet _ _ _ _ w.regions) fun _ => rfl

theorem regionOutcome_keeps {z0 : State} (s : State) (i : Nat) (e : Nat) (reply : PartnerReply) (h_ : Keeps z0 s) : Keeps z0 (regionOutcome s i e reply).2 := by
  unfold regionOutcome
  repeat' first
    | with_reducible assumption
    | with_reducible apply Keeps.ite
    | with_reducible apply tellState_keeps
    | split
    | dsimp only

theorem scrubLine_keeps {z0 : State} (env : OpEnv) (a : ScrubSum × State) (dpa : Nat) (h_ : Keeps z0 a.2) : Keeps z0 (scrubLine env a dpa).2 := by
  unfold scrubLine
  repeat' first
    | with_reducible assumption
    | exact Eq.refl _
    | with_reducible apply Keeps.ite
    | with_reducible apply flushLine_keeps
    | with_reducible apply countRead_keeps
    | with_reducible apply storeBack_keeps
    | with_reducible apply refill_keeps
    | with_reducible apply mirrorNotice_keeps
    | with_reducible apply bumpTotal_keeps
    | split
    | refine Keeps.snd (by assumption) ?_
    | dsimp only

theorem scrubPass_keeps {z0 : State} (s0 : State) (did : Nat) (d : Desc) (m : List Byte) (env : OpEnv) (h_ : Keeps z0 s0) : Keeps z0 (scrubPass s0 did d m env) := by
  unfold scrubPass
  repeat' first
    | with_reducible assumption
    | intro _
    | exact Eq.refl _
    | with_reducible apply lookups_keeps
    | with_reducible apply modDesc_keeps
    | with_reducible apply scrubLine_keeps
    | with_reducible apply Keeps.foldl
    | with_reducible apply Keeps.foldl_snd2
    | with_reducible apply Keeps.foldl_snd
    | with_reducible apply Keeps.foldl_fst
    | dsimp only

theorem applyPosted_keeps {z0 : State} (s : State) (d : Desc) (h_ : Keeps z0 s) : Keeps z0 (applyPosted s d) := by
  unfold applyPosted
  repeat' first
    | with_reducible assumption
    | exact Eq.refl _
    | with_reducible apply Keeps.ite
    | with_reducible apply setEntry_keeps
    | with_reducible apply modHead_keeps
    | split
    | dsimp only

theorem notePosted_keeps {z0 : State} (s : State) (n : Nat) (d : Desc) (r : Result) (h_ : Keeps z0 s) : Keeps z0 (notePosted s n d r) := by
  unfold notePosted
  repeat' first
    | with_reducible assumption
    | exact Eq.refl _
    | with_reducible apply Keeps.ite
    | with_reducible apply signalPair_keeps
    | with_reducible apply modPair_keeps
    | split
    | dsimp only

theorem postDesc_keeps {z0 : State} (s : State) (n : Nat) (did : Nat) (d : Desc) (r : Result) (h_ : Keeps z0 s) : Keeps z0 (postDesc s n did d r) := by
  unfold postDesc
  repeat' first
    | with_reducible assumption
    | exact Eq.refl _
    | with_reducible apply Keeps.ite
    | with_reducible apply setPosted_keeps
    | with_reducible apply emit_keeps
    | with_reducible apply applyPosted_keeps
    | with_reducible apply modPair_keeps
    | with_reducible apply dropDesc_keeps
    | with_reducible apply notePosted_keeps
    | split
    | dsimp only

theorem discardDesc_keeps {z0 : State} (s : State) (k : Nat) (h_ : Keeps z0 s) : Keeps z0 (discardDesc s k) := by
  unfold discardDesc
  repeat' first
    | with_reducible assumption
    | exact Eq.refl _
    | with_reducible apply dropDesc_keeps
    | with_reducible apply applyPosted_keeps
    | split
    | dsimp only

theorem keepRegs_keeps {z0 s : State} {p : Nat → Bool} (h : Keeps z0 s) : Keeps z0 { s with regs := tabKeep s.regs p } :=
  h.upd rfl rfl (List.prefix_refl _) rfl fun w => { w with
    regs := ⟨w.regs.1.filter _, fun e he => w.regs.2 e (List.mem_filter.1 he).1⟩ }

theorem returnRings_keeps {z0 : State} (s : State) (h : Nat) (h_ : Keeps z0 s) : Keeps z0 (returnRings s h) := by
  unfold returnRings
  dsimp only
  split
  · exact guardAdjust_keeps _ _ (forAll_keeps (keepRegs_keeps h_) fun t k ht => modPair_keeps ht)
  · exact h_

/-! The meanings: on elements that exist, each answers a next state. -/

theorem execRegionWrite_runs (did : Nat) (reply : PartnerReply) (s : State) : Runs s (execRegionWrite did reply s) := by
  unfold execRegionWrite
  repeat' first
    | with_reducible assumption
    | with_reducible exact Keeps.refl _
    | with_reducible apply Runs.next
    | with_reducible apply Runs.ite
    | exact Eq.refl _
    | with_reducible apply Keeps.ite
    | with_reducible apply regionOutcome_keeps
    | with_reducible apply finishKeep_keeps
    | with_reducible apply refuseDesc_keeps
    | split
    | dsimp only

theorem execRegionRead_runs (did : Nat) (ecc : EccCheck) (s : State) : Runs s (execRegionRead did ecc s) := by
  unfold execRegionRead
  repeat' first
    | with_reducible assumption
    | with_reducible exact Keeps.refl _
    | with_reducible apply Runs.next
    | with_reducible apply Runs.ite
    | exact Eq.refl _
    | with_reducible apply Keeps.ite
    | with_reducible apply regionCheck_keeps
    | with_reducible apply finishDesc_keeps
    | split
    | dsimp only

theorem execPowerHint_runs (did : Nat) (s : State) : Runs s (execPowerHint did s) := by
  unfold execPowerHint
  repeat' first
    | with_reducible assumption
    | with_reducible exact Keeps.refl _
    | with_reducible apply Runs.next
    | with_reducible apply Runs.ite
    | exact Eq.refl _
    | with_reducible apply Keeps.ite
    | with_reducible apply finishKeep_keeps
    | split
    | dsimp only

theorem execHintExpiry_runs (h : Nat) (s : State) (w_ : (Instr.hintExpiry h).wf = true) : Runs s (execHintExpiry h s) := by
  unfold execHintExpiry
  repeat' first
    | with_reducible assumption
    | with_reducible exact Keeps.refl _
    | with_reducible apply Runs.next
    | with_reducible apply Runs.ite
    | (with_reducible apply Runs.onElement; (first | assumption | simp_all [Instr.wf, okHead]))
    | exact Eq.refl _
    | with_reducible apply Keeps.ite
    | with_reducible apply lapseHint_keeps
    | split
    | dsimp only

theorem execScrub_runs (did : Nat) (env : OpEnv) (s : State) : Runs s (execScrub did env s) := by
  unfold execScrub
  repeat' first
    | with_reducible assumption
    | with_reducible exact Keeps.refl _
    | with_reducible apply Runs.next
    | with_reducible apply Runs.ite
    | with_reducible apply whenOpen_runs
    | intro _
    | exact Eq.refl _
    | with_reducible apply Keeps.ite
    | with_reducible apply finishDesc_keeps
    | with_reducible apply scrubPass_keeps
    | split
    | dsimp only

theorem execScrubComplete_runs (did : Nat) (s : State) : Runs s (execScrubComplete did s) := by
  unfold execScrubComplete
  repeat' first
    | with_reducible assumption
    | with_reducible exact Keeps.refl _
    | with_reducible apply Runs.next
    | with_reducible apply Runs.ite
    | exact Eq.refl _
    | with_reducible apply Keeps.ite
    | with_reducible apply emit_keeps
    | with_reducible apply finishDesc_keeps
    | split
    | dsimp only

theorem execMirrorPromote_runs (did : Nat) (s : State) : Runs s (execMirrorPromote did s) := by
  unfold execMirrorPromote
  repeat' first
    | with_reducible assumption
    | with_reducible exact Keeps.refl _
    | with_reducible apply Runs.next
    | with_reducible apply Runs.ite
    | (with_reducible apply Runs.onElement; (first | assumption | simp_all [Instr.wf]))
    | (with_reducible apply ask_runs; (first | assumption | simp_all [Instr.wf]))
    | intro _
    | exact Eq.refl _
    | with_reducible apply Keeps.ite
    | with_reducible apply refuseDesc_keeps
    | with_reducible apply modDesc_keeps
    | with_reducible apply sendState_keeps
    | with_reducible apply finishDesc_keeps
    | with_reducible apply setRole_keeps
    | split
    | dsimp only

theorem execResilver_runs (did : Nat) (s : State) : Runs s (execResilver did s) := by
  unfold execResilver
  repeat' first
    | with_reducible assumption
    | with_reducible exact Keeps.refl _
    | with_reducible apply Runs.next
    | with_reducible apply Runs.ite
    | (with_reducible apply Runs.onElement; (first | assumption | simp_all [Instr.wf]))
    | (with_reducible apply ask_runs; (first | assumption | simp_all [Instr.wf]))
    | intro _
    | exact Eq.refl _
    | with_reducible apply Keeps.ite
    | with_reducible apply refuseDesc_keeps
    | with_reducible apply setWhole_keeps
    | with_reducible apply modDesc_keeps
    | with_reducible apply forAll_keeps
    | split
    | dsimp only

theorem execResilverComplete_runs (did : Nat) (s : State) : Runs s (execResilverComplete did s) := by
  unfold execResilverComplete
  repeat' first
    | with_reducible assumption
    | with_reducible exact Keeps.refl _
    | with_reducible apply Runs.next
    | with_reducible apply Runs.ite
    | exact Eq.refl _
    | with_reducible apply Keeps.ite
    | with_reducible apply finishDesc_keeps
    | split
    | dsimp only

theorem execCompletionPost_runs (n : Nat) (s : State) (w_ : (Instr.completionPost n).wf = true) : Runs s (execCompletionPost n s) := by
  unfold execCompletionPost
  repeat' first
    | with_reducible assumption
    | with_reducible exact Keeps.refl _
    | with_reducible apply Runs.next
    | with_reducible apply Runs.ite
    | (with_reducible apply Runs.onElement; (first | assumption | simp_all [Instr.wf, okPair]))
    | exact Eq.refl _
    | with_reducible apply Keeps.ite
    | with_reducible apply postDesc_keeps
    | split
    | dsimp only

theorem execRingResetDone_runs (n : Nat) (s : State) (w_ : (Instr.ringResetDone n).wf = true) : Runs s (execRingResetDone n s) := by
  unfold execRingResetDone
  repeat' first
    | with_reducible assumption
    | with_reducible exact Keeps.refl _
    | with_reducible apply Runs.next
    | with_reducible apply Runs.ite
    | (with_reducible apply Runs.onElement; (first | assumption | simp_all [Instr.wf, okPair]))
    | intro _
    | with_reducible apply Keeps.ite
    | with_reducible apply returnRings_keeps
    | with_reducible apply zeroPair_keeps
    | with_reducible apply discardDesc_keeps
    | with_reducible apply forAll_keeps
    | split
    | dsimp only

end Sys2Proof.Machine
end

