-- ==== Sys2Proof/Laws/KeepsBist.lean ====
section
/-! SUPPORT. What the operations of Machine/Bist.lean keep. -/

set_option Elab.async false

namespace Sys2Proof.Machine

theorem bistEnd_keeps {z0 : State} (s : State) (did : Nat) (d : Desc) (m : List Byte) (rs : List TestRec) (full : Bool) (duration : Nat) (h_ : Keeps z0 s) : Keeps z0 (bistEnd s did d m rs full duration) := by
  unfold bistEnd
  repeat' first
    | with_reducible assumption
    | with_reducible apply dmaOut_keeps
    | with_reducible apply finishDesc_keeps
    | dsimp only

theorem bistRun_keeps {z0 : State} (s : State) (did : Nat) (ok : Nat → Bool) (n : Nat) (run : Desc → List Byte → Nat → State) (h_ : Keeps z0 s) (hf_ : ∀ a0 a1 a2, Keeps z0 (run a0 a1 a2)) : Keeps z0 (bistRun s did ok n run) := by
  unfold bistRun
  repeat' first
    | with_reducible assumption
    | intro _
    | exact Eq.refl _
    | with_reducible apply hf_
    | with_reducible apply Keeps.ite
    | with_reducible apply finishDesc_keeps
    | split
    | dsimp only

theorem oneRecord_keeps {z0 : State} (s : State) (did : Nat) (d : Desc) (m : List Byte) (r : TestRec) (h_ : Keeps z0 s) : Keeps z0 (oneRecord s did d m r) := by
  unfold oneRecord
  repeat' first
    | with_reducible assumption
    | with_reducible apply Keeps.ite
    | with_reducible apply bistEnd_keeps
    | with_reducible apply noteFail_keeps
    | split
    | dsimp only

theorem dropPasses_keeps {z0 : State} (s : State) (f : Nat) (sc : Nat) (t : Nat) (h_ : Keeps z0 s) : Keeps z0 (dropPasses s f sc t) := by
  unfold dropPasses
  repeat' first
    | with_reducible assumption
    | exact Eq.refl _
    | with_reducible apply modFlume_keeps
    | dsimp only

theorem restoreTrain_keeps {z0 : State} (s : State) (f : Nat) (sc : Nat) (t : Nat) (res : PassRes) (h_ : Keeps z0 s) : Keeps z0 (restoreTrain s f sc t res) := by
  unfold restoreTrain
  repeat' first
    | with_reducible assumption
    | with_reducible apply Keeps.ite
    | with_reducible apply dropPasses_keeps
    | with_reducible apply endPass_keeps
    | with_reducible apply writeRecords_keeps
    | split
    | dsimp only

theorem poisonBay_keeps {z0 : State} (s : State) (f : Nat) (sc : Nat) (t : Nat) (h_ : Keeps z0 s) : Keeps z0 (poisonBay s f sc t) := by
  unfold poisonBay
  repeat' first
    | with_reducible assumption
    | intro _
    | with_reducible apply bumpFree_keeps
    | with_reducible apply setStored_keeps
    | with_reducible apply forAll_keeps
    | dsimp only

theorem sendDirty_keeps {z0 : State} (s : State) (gs : List Nat) (h_ : Keeps z0 s) : Keeps z0 (sendDirty s gs) := by
  unfold sendDirty
  repeat' first
    | with_reducible assumption
    | intro _
    | with_reducible apply sendState_keeps
    | with_reducible apply forAll_keeps
    | with_reducible apply Keeps.foldl
    | with_reducible apply Keeps.foldl_snd2
    | with_reducible apply Keeps.foldl_snd
    | with_reducible apply Keeps.foldl_fst
    | dsimp only

theorem restartRefresh_keeps {z0 : State} (s : State) (f : Nat) (sc : Nat) (t : Nat) (h_ : Keeps z0 s) : Keeps z0 (restartRefresh s f sc t) := by
  unfold restartRefresh
  repeat' first
    | with_reducible assumption
    | intro _
    | exact Eq.refl _
    | with_reducible apply modBank_keeps
    | with_reducible apply forAll_keeps
    | dsimp only

theorem restoreBay_keeps {z0 : State} (s : State) (f : Nat) (sc : Nat) (t : Nat) (h_ : Keeps z0 s) : Keeps z0 (restoreBay s f sc t) := by
  unfold restoreBay
  repeat' first
    | with_reducible assumption
    | intro _
    | exact Eq.refl _
    | with_reducible apply Keeps.ite
    | with_reducible apply modBay_keeps
    | with_reducible apply modSub_keeps
    | with_reducible apply poisonBay_keeps
    | with_reducible apply restartRefresh_keeps
    | with_reducible apply setWhole_keeps
    | with_reducible apply sendDirty_keeps
    | with_reducible apply forAll_keeps
    | split
    | dsimp only

/-! The meanings: on elements that exist, each answers a next state. -/

theorem execBistCopyRecords_runs (did : Nat) (s : State) : Runs s (execBistCopyRecords did s) := by
  unfold execBistCopyRecords
  repeat' first
    | with_reducible assumption
    | with_reducible exact Keeps.refl _
    | with_reducible apply Runs.next
    | with_reducible apply Runs.ite
    | intro _
    | with_reducible apply Keeps.ite
    | with_reducible apply bistRun_keeps
    | with_reducible apply bistEnd_keeps
    | split
    | dsimp only

theorem execBistDramBay_runs (did : Nat) (fails : List CellFail) (short : Option Nat) (s : State) : Runs s (execBistDramBay did fails short s) := by
  unfold execBistDramBay
  repeat' first
    | with_reducible assumption
    | with_reducible exact Keeps.refl _
    | with_reducible apply Runs.next
    | with_reducible apply Runs.ite
    | intro _
    | with_reducible apply Keeps.ite
    | with_reducible apply bistRun_keeps
    | with_reducible apply oneRecord_keeps
    | with_reducible apply repairCells_keeps
    | with_reducible apply wakeFlume_keeps
    | split
    | dsimp only

theorem execBistMill_runs (did : Nat) (s : State) : Runs s (execBistMill did s) := by
  unfold execBistMill
  repeat' first
    | with_reducible assumption
    | with_reducible exact Keeps.refl _
    | with_reducible apply Runs.next
    | with_reducible apply Runs.ite
    | intro _
    | exact Eq.refl _
    | with_reducible apply Keeps.ite
    | with_reducible apply bistRun_keeps
    | with_reducible apply modDesc_keeps
    | with_reducible apply leaveDispatch_keeps
    | with_reducible apply modMill_keeps
    | split
    | dsimp only

theorem execBistEngine_runs (did : Nat) (pass : Bool) (short : Option Nat) (s : State) : Runs s (execBistEngine did pass short s) := by
  unfold execBistEngine
  repeat' first
    | with_reducible assumption
    | with_reducible exact Keeps.refl _
    | with_reducible apply Runs.next
    | with_reducible apply Runs.ite
    | intro _
    | exact Eq.refl _
    | with_reducible apply Keeps.ite
    | with_reducible apply bistRun_keeps
    | with_reducible apply oneRecord_keeps
    | with_reducible apply withdrawSub_keeps
    | with_reducible apply bumpFree_keeps
    | with_reducible apply wakeFlume_keeps
    | split
    | dsimp only

theorem execBistLoopTest_runs (did : Nat) (loop : LoopRes) (short : Option Nat) (s : State) : Runs s (execBistLoopTest did loop short s) := by
  unfold execBistLoopTest
  repeat' first
    | with_reducible assumption
    | with_reducible exact Keeps.refl _
    | with_reducible apply Runs.next
    | with_reducible apply Runs.ite
    | intro _
    | with_reducible apply Keeps.ite
    | with_reducible apply bistRun_keeps
    | with_reducible apply oneRecord_keeps
    | with_reducible apply loopTest_keeps
    | split
    | dsimp only

theorem execBistRestore_runs (did : Nat) (res : PassRes) (s : State) : Runs s (execBistRestore did res s) := by
  unfold execBistRestore
  repeat' first
    | with_reducible assumption
    | with_reducible exact Keeps.refl _
    | with_reducible apply Runs.next
    | with_reducible apply Runs.ite
    | intro _
    | exact Eq.refl _
    | with_reducible apply Keeps.ite
    | with_reducible apply bistRun_keeps
    | with_reducible apply restoreTrain_keeps
    | with_reducible apply modDesc_keeps
    | with_reducible apply oneRecord_keeps
    | split
    | dsimp only

theorem execAdminBistTestEnd_runs (did : Nat) (pass : Bool) (fails : List CellFail) (short : Option Nat) (s : State) : Runs s (execAdminBistTestEnd did pass fails short s) := by
  unfold execAdminBistTestEnd
  repeat' first
    | with_reducible assumption
    | with_reducible exact Keeps.refl _
    | with_reducible apply Runs.next
    | with_reducible apply Runs.ite
    | exact Eq.refl _
    | with_reducible apply Keeps.ite
    | with_reducible apply modMill_keeps
    | with_reducible apply oneRecord_keeps
    | with_reducible apply refillMills_keeps
    | with_reducible apply failMill_keeps
    | with_reducible apply bumpFree_keeps
    | with_reducible apply restoreBay_keeps
    | with_reducible apply bayOffline_keeps
    | split
    | dsimp only

end Sys2Proof.Machine
end

