-- ==== Sys2Proof/Laws/KeepsStart.lean ====
section
/-! SUPPORT. What the operations of Machine/Start.lean keep. -/

set_option Elab.async false

namespace Sys2Proof.Machine

theorem loadCal_keeps {z0 : State} (s : State) (h_ : Keeps z0 s) : Keeps z0 (loadCal s) := by
  unfold loadCal
  repeat' first
    | with_reducible assumption
    | intro _
    | with_reducible apply Keeps.ite
    | with_reducible apply checkCopies_keeps
    | with_reducible apply event_keeps
    | with_reducible apply forAll_keeps
    | split
    | dsimp only

theorem loadEntry_keeps {z0 : State} (s : State) (e : Nat) (h_ : Keeps z0 s) : Keeps z0 (loadEntry s e) := by
  unfold loadEntry
  repeat' first
    | with_reducible assumption
    | intro _
    | exact Eq.refl _
    | with_reducible apply Keeps.ite
    | with_reducible apply modBank_keeps
    | with_reducible apply event_keeps
    | with_reducible apply bayOffline_keeps
    | with_reducible apply modSub_keeps
    | with_reducible apply modBay_keeps
    | with_reducible apply steer_keeps
    | with_reducible apply Keeps.foldl
    | with_reducible apply Keeps.foldl_snd2
    | with_reducible apply Keeps.foldl_snd
    | with_reducible apply Keeps.foldl_fst
    | split
    | dsimp only

theorem loadSoft_keeps {z0 : State} (fuse : List Nat) (s : State) (f : Nat) (h_ : Keeps z0 s) : Keeps z0 (loadSoft fuse s f) := by
  unfold loadSoft
  repeat' first
    | with_reducible assumption
    | intro _
    | exact Eq.refl _
    | with_reducible apply Keeps.ite
    | with_reducible apply checkCopies_keeps
    | with_reducible apply loadEntry_keeps
    | with_reducible apply modSub_keeps
    | with_reducible apply Keeps.foldl
    | with_reducible apply Keeps.foldl_snd2
    | with_reducible apply Keeps.foldl_snd
    | with_reducible apply Keeps.foldl_fst
    | split
    | dsimp only
    | with_reducible apply Keeps.raw

theorem loadRemap_keeps {z0 : State} (s : State) (f : Nat) (h_ : Keeps z0 s) : Keeps z0 (loadRemap s f) := by
  unfold loadRemap
  repeat' first
    | with_reducible assumption
    | exact Eq.refl _
    | with_reducible apply checkCopies_keeps
    | with_reducible apply modFlume_keeps
    | with_reducible apply releaseRemap_keeps
    | split
    | dsimp only

theorem countStart_keeps {z0 s : State} {v : LifeRec} {c : BitVec 32} {i : Bool} (h : Keeps z0 s) : Keeps z0 (bumpFree { putLife s v with
    leat := { s.leat with nonce := c }, boot := { s.boot with identity := i } }) :=
  bumpFree_keeps (h.raw rfl rfl rfl rfl rfl rfl rfl rfl)

theorem tallyLoad_keeps {z0 : State} (s : State) (h : Keeps z0 s) : Keeps z0 (tallyLoad s) := by
  have h1 := checkCopies_keeps 7 _ s.tally.life (checkCopies_keeps 2 (loadCal s) s.tally.ucode (loadCal_keeps s h))
  unfold tallyLoad
  generalize checkCopies 7 (checkCopies 2 (loadCal s) s.tally.ucode) s.tally.life = s1 at h1 ⊢
  have h2 := forAll_keeps (ks := upFrom 0 32) (Keeps.foldl (fuseEntries s1) h1 fun t x k => loadEntry_keeps t x k)
    fun t k ht => loadSoft_keeps (fuseEntries s1) t k ht
  have h3 := forAll_keeps (ks := upFrom 0 32) h2 fun t k ht => loadRemap_keeps t k ht
  exact countStart_keeps h3

theorem canaryLoad_keeps {z0 : State} (s : State) (h_ : Keeps z0 s) : Keeps z0 (canaryLoad s) := by
  unfold canaryLoad
  repeat' first
    | with_reducible assumption
    | intro _
    | exact Eq.refl _
    | with_reducible apply Keeps.ite
    | with_reducible apply event_keeps
    | with_reducible apply forAll_keeps
    | split
    | dsimp only
    | with_reducible apply Keeps.raw

theorem clockStart_keeps {z0 : State} (s : State) (searches : List (Nat × Nat × Nat)) (h_ : Keeps z0 s) : Keeps z0 (clockStart s searches) := by
  unfold clockStart
  repeat' first
    | with_reducible assumption
    | intro _
    | exact Eq.refl _
    | with_reducible apply Keeps.ite
    | with_reducible apply modMill_keeps
    | with_reducible apply setVlogic_keeps
    | with_reducible apply modFlume_keeps
    | with_reducible apply forAll_keeps
    | with_reducible apply Keeps.foldl
    | with_reducible apply Keeps.foldl_snd2
    | with_reducible apply Keeps.foldl_snd
    | with_reducible apply Keeps.foldl_fst
    | split
    | dsimp only
    | with_reducible apply Keeps.raw

theorem trainAll_keeps {z0 : State} (s : State) (env : StartEnv) (h_ : Keeps z0 s) : Keeps z0 (trainAll s env) := by
  unfold trainAll
  repeat' first
    | with_reducible assumption
    | intro _
    | with_reducible apply Keeps.ite
    | with_reducible apply loopTest_keeps
    | with_reducible apply endPass_keeps
    | with_reducible apply writeRecords_keeps
    | with_reducible apply forAll_keeps
    | split
    | dsimp only

theorem frontFail_keeps {z0 : State} (s : State) (f : Nat) (h_ : Keeps z0 s) : Keeps z0 (frontFail s f) := by
  unfold frontFail
  repeat' first
    | with_reducible assumption
    | intro _
    | exact Eq.refl _
    | with_reducible apply Keeps.ite
    | with_reducible apply noteFail_keeps
    | with_reducible apply modFlume_keeps
    | with_reducible apply withdrawSub_keeps
    | with_reducible apply forAll_keeps
    | split
    | dsimp only

theorem endMoves_keeps {z0 : State} (s : State) (h_ : Keeps z0 s) : Keeps z0 (endMoves s) := by
  unfold endMoves
  repeat' first
    | with_reducible assumption
    | intro _
    | exact Eq.refl _
    | with_reducible apply modFlume_keeps
    | with_reducible apply releaseRemap_keeps
    | with_reducible apply modBank_keeps
    | with_reducible apply forAll_keeps
    | split
    | dsimp only

theorem bistAll_keeps {z0 : State} (s : State) (env : StartEnv) (h_ : Keeps z0 s) : Keeps z0 (bistAll s env) := by
  unfold bistAll
  repeat' first
    | with_reducible assumption
    | intro _
    | exact Eq.refl _
    | with_reducible apply Keeps.ite
    | with_reducible apply noteFail_keeps
    | with_reducible apply bumpFree_keeps
    | with_reducible apply frontFail_keeps
    | with_reducible apply withdrawSub_keeps
    | with_reducible apply modMill_keeps
    | with_reducible apply repairMarch_keeps
    | with_reducible apply endMoves_keeps
    | with_reducible apply raise_keeps
    | with_reducible apply forAll_keeps
    | split
    | dsimp only
    | with_reducible apply Keeps.raw

theorem setRef_keeps {z0 s : State} {r l : Nat} (h : Keeps z0 s) : Keeps z0 { s with acc := { s.acc with ref := r, last := l } } :=
  h.raw rfl rfl rfl rfl rfl rfl rfl rfl

theorem wipe_keeps {z0 s : State} (h : Keeps z0 s) : Keeps z0 { s with mem := [], lost := 0 } :=
  h.upd rfl rfl (List.prefix_refl _) rfl fun w => { w with mem := tabWf_nil _ }

theorem wipeAndLoad_keeps {z0 : State} (s : State) (h : Keeps z0 s) : Keeps z0 (wipeAndLoad s) := by
  have h1 := forAll_keeps (ks := upFrom 0 32) (wipe_keeps h) fun t k ht => leaveSelfRefresh_keeps t k ht
  unfold wipeAndLoad
  generalize forAll { s with mem := [], lost := 0 } (upFrom 0 32) leaveSelfRefresh = t at h1 ⊢
  exact setRef_keeps (Keeps.ite h1 (startUcode_keeps _ h1))

theorem raiseLinkEn_keeps {z0 : State} (s : State) (h_ : Keeps z0 s) : Keeps z0 (raiseLinkEn s) := by
  unfold raiseLinkEn
  repeat' first
    | with_reducible assumption
    | exact Eq.refl _
    | with_reducible apply emit_keeps
    | dsimp only
    | with_reducible apply Keeps.raw

theorem startStep_keeps {z0 : State} (k : Nat) (g : State → State) (s : State) (h_ : Keeps z0 s) (hf_ : ∀ a0, Keeps z0 a0 → Keeps z0 (g a0)) : Keeps z0 (startStep k g s) := by
  unfold startStep
  repeat' first
    | with_reducible assumption
    | intro _
    | exact Eq.refl _
    | with_reducible apply hf_
    | with_reducible apply Keeps.ite
    | split
    | dsimp only
    | with_reducible apply Keeps.raw

theorem startSteps_keeps {z0 : State} (s : State) (env : StartEnv) (h_ : Keeps z0 s) : Keeps z0 (startSteps s env) := by
  unfold startSteps
  repeat' first
    | with_reducible assumption
    | intro _
    | with_reducible apply Keeps.ite
    | with_reducible apply startStep_keeps
    | with_reducible apply raise_keeps
    | with_reducible apply fuseLoad_keeps
    | with_reducible apply completeIntent_keeps
    | with_reducible apply canaryLoad_keeps
    | with_reducible apply tallyLoad_keeps
    | with_reducible apply clockStart_keeps
    | with_reducible apply trainAll_keeps
    | with_reducible apply bistAll_keeps
    | with_reducible apply wipeAndLoad_keeps
    | with_reducible apply raiseLinkEn_keeps
    | split
    | dsimp only

theorem deviceReset_keeps {z0 : State} (s : State) (cause : Nat) (env : StartEnv) (h_ : Keeps z0 s) : Keeps z0 (deviceReset s cause env) := by
  unfold deviceReset
  repeat' first
    | with_reducible assumption
    | intro _
    | exact Eq.refl _
    | with_reducible apply Keeps.ite
    | with_reducible apply resetKeep_keeps
    | with_reducible apply emit_keeps
    | with_reducible apply startSteps_keeps
    | split
    | dsimp only
    | with_reducible apply Keeps.raw

theorem takeReset_keeps {z0 : State} (s : State) (path : Nat) (v : Nat) (env : StartEnv) (h_ : Keeps z0 s) : Keeps z0 (takeReset s path v env) := by
  unfold takeReset
  repeat' first
    | with_reducible assumption
    | with_reducible apply Keeps.ite
    | with_reducible apply accessFault_keeps
    | with_reducible apply deviceReset_keeps
    | split
    | dsimp only

theorem clearSecrets_keeps {z0 : State} (s : State) (h : Keeps z0 s) : Keeps z0 (clearSecrets s) := by
  have h0 : Keeps z0 { s with boot := { s.boot with blocked := true, identity := false }, regions := [], badRegions := [] } :=
    h.upd rfl rfl (List.prefix_refl _) rfl fun w => { w with regions := tabWf_nil _ }
  unfold clearSecrets
  exact forAll_keeps (forAll_keeps (forAll_keeps (modLeat_keeps h0 fun _ => rfl) fun t k ht => modMill_keeps ht) fun t k ht =>
    modSub_keeps ht) fun t k ht => modFlume_keeps ht

theorem bypassPort_keeps {z0 : State} (s : State) (h_ : Keeps z0 s) : Keeps z0 (bypassPort s) := by
  unfold bypassPort
  repeat' first
    | with_reducible assumption
    | with_reducible apply emit_keeps
    | dsimp only

/-! The meanings: on elements that exist, each answers a next state. -/

theorem execRailWindowReturn_runs (r : Nat) (env : StartEnv) (s : State) (w_ : (Instr.railWindowReturn r env).wf = true) : Runs s (execRailWindowReturn r env s) := by
  unfold execRailWindowReturn
  repeat' first
    | with_reducible assumption
    | with_reducible exact Keeps.refl _
    | with_reducible apply Runs.next
    | with_reducible apply Runs.ite
    | (with_reducible apply Runs.onElement; (first | assumption | simp_all [Instr.wf]))
    | intro _
    | exact Eq.refl _
    | with_reducible apply Keeps.ite
    | with_reducible apply railBack_keeps
    | with_reducible apply startSteps_keeps
    | split
    | dsimp only
    | with_reducible apply Keeps.raw

theorem execPowerOnReset_runs (env : StartEnv) (s : State) : Runs s (execPowerOnReset env s) := by
  unfold execPowerOnReset
  repeat' first
    | with_reducible assumption
    | with_reducible exact Keeps.refl _
    | with_reducible apply Runs.next
    | with_reducible apply Runs.ite
    | exact Eq.refl _
    | with_reducible apply Keeps.ite
    | with_reducible apply deviceReset_keeps
    | split
    | dsimp only
    | with_reducible apply Keeps.raw

theorem execPinReset_runs (env : StartEnv) (s : State) : Runs s (execPinReset env s) := by
  unfold execPinReset
  repeat' first
    | with_reducible assumption
    | with_reducible exact Keeps.refl _
    | with_reducible apply Runs.next
    | with_reducible apply Runs.ite
    | with_reducible apply Keeps.ite
    | with_reducible apply deviceReset_keeps
    | split
    | dsimp only

theorem execSoftwareReset_runs (path : Nat) (v : Word) (env : StartEnv) (s : State) (w_ : (Instr.softwareReset path v env).wf = true) : Runs s (execSoftwareReset path v env s) := by
  unfold execSoftwareReset
  repeat' first
    | with_reducible assumption
    | with_reducible exact Keeps.refl _
    | with_reducible apply Runs.next
    | with_reducible apply Runs.ite
    | (with_reducible apply Runs.onElement; (first | assumption | simp_all [Instr.wf, okPath]))
    | with_reducible apply Keeps.ite
    | with_reducible apply takeReset_keeps
    | split
    | dsimp only

theorem execLifeCycleReset_runs (env : StartEnv) (s : State) : Runs s (execLifeCycleReset env s) := by
  unfold execLifeCycleReset
  repeat' first
    | with_reducible assumption
    | with_reducible exact Keeps.refl _
    | with_reducible apply Runs.next
    | with_reducible apply Runs.ite
    | with_reducible apply Keeps.ite
    | with_reducible apply deviceReset_keeps
    | split
    | dsimp only

theorem execScanDebugExitReset_runs (env : StartEnv) (s : State) : Runs s (execScanDebugExitReset env s) := by
  unfold execScanDebugExitReset
  repeat' first
    | with_reducible assumption
    | with_reducible exact Keeps.refl _
    | with_reducible apply Runs.next
    | with_reducible apply Runs.ite
    | with_reducible apply Keeps.ite
    | with_reducible apply deviceReset_keeps
    | split
    | dsimp only

theorem execScanEntry_runs (s : State) : Runs s (execScanEntry s) := by
  unfold execScanEntry
  repeat' first
    | with_reducible assumption
    | with_reducible exact Keeps.refl _
    | with_reducible apply Runs.next
    | with_reducible apply Runs.ite
    | exact Eq.refl _
    | with_reducible apply Keeps.ite
    | with_reducible apply clearSecrets_keeps
    | with_reducible apply bypassPort_keeps
    | split
    | dsimp only
    | with_reducible apply Keeps.raw

theorem execDebugEntry_runs (s : State) : Runs s (execDebugEntry s) := by
  unfold execDebugEntry
  repeat' first
    | with_reducible assumption
    | with_reducible exact Keeps.refl _
    | with_reducible apply Runs.next
    | with_reducible apply Runs.ite
    | exact Eq.refl _
    | with_reducible apply Keeps.ite
    | with_reducible apply clearSecrets_keeps
    | with_reducible apply bypassPort_keeps
    | split
    | dsimp only
    | with_reducible apply Keeps.raw

theorem execBypass_runs (s : State) : Runs s (execBypass s) := by
  unfold execBypass
  repeat' first
    | with_reducible assumption
    | with_reducible exact Keeps.refl _
    | with_reducible apply Runs.next
    | with_reducible apply Runs.ite
    | with_reducible apply Keeps.ite
    | with_reducible apply bypassPort_keeps
    | split
    | dsimp only

theorem execIdcode_runs (s : State) : Runs s (execIdcode s) := by
  unfold execIdcode
  repeat' first
    | with_reducible assumption
    | with_reducible exact Keeps.refl _
    | with_reducible apply Runs.next
    | with_reducible apply Runs.ite
    | with_reducible apply Keeps.ite
    | with_reducible apply emit_keeps
    | split
    | dsimp only

theorem execSamplePreload_runs (s : State) : Runs s (execSamplePreload s) := by
  unfold execSamplePreload
  repeat' first
    | with_reducible assumption
    | with_reducible exact Keeps.refl _
    | with_reducible apply Runs.next
    | with_reducible apply Runs.ite
    | with_reducible apply Keeps.ite
    | with_reducible apply emit_keeps
    | split
    | dsimp only

theorem execExtest_runs (s : State) : Runs s (execExtest s) := by
  unfold execExtest
  repeat' first
    | with_reducible assumption
    | with_reducible exact Keeps.refl _
    | with_reducible apply Runs.next
    | with_reducible apply Runs.ite
    | with_reducible apply Keeps.ite
    | with_reducible apply bypassPort_keeps
    | with_reducible apply emit_keeps
    | split
    | dsimp only

end Sys2Proof.Machine
end

