-- ==== Sys2Proof/Laws/KeepsHeads.lean ====
section
/-! SUPPORT. What the operations of Machine/Heads.lean keep. -/

set_option Elab.async false

namespace Sys2Proof.Machine

theorem modLanes_keeps {z0 : State} (s : State) (n : Nat) (g : Nat → Lane → Lane) (h_ : Keeps z0 s) : Keeps z0 (modLanes s n g) := by
  unfold modLanes
  repeat' first
    | with_reducible assumption
    | intro _
    | with_reducible apply modLane_keeps
    | with_reducible apply forAll_keeps
    | dsimp only

theorem abortScan_keeps {z0 : State} (s : State) (l : Nat) (h_ : Keeps z0 s) : Keeps z0 (abortScan s l) := by
  unfold abortScan
  repeat' first
    | with_reducible assumption
    | exact Eq.refl _
    | with_reducible apply Keeps.ite
    | with_reducible apply scEvent_keeps
    | with_reducible apply modLane_keeps
    | split
    | dsimp only

theorem abortScans_keeps {z0 : State} (s : State) (n : Nat) (h_ : Keeps z0 s) : Keeps z0 (abortScans s n) := by
  unfold abortScans
  repeat' first
    | with_reducible assumption
    | intro _
    | with_reducible apply abortScan_keeps
    | with_reducible apply forAll_keeps
    | dsimp only

theorem holdTaps_keeps {z0 : State} (s : State) (l : Nat) (h_ : Keeps z0 s) : Keeps z0 (holdTaps s l) := by
  unfold holdTaps
  repeat' first
    | with_reducible assumption
    | exact Eq.refl _
    | with_reducible apply Keeps.ite
    | with_reducible apply modLane_keeps
    | split
    | dsimp only

theorem resumeLink_keeps {z0 : State} (s : State) (n : Nat) (h_ : Keeps z0 s) : Keeps z0 (resumeLink s n) := by
  unfold resumeLink
  repeat' first
    | with_reducible assumption
    | exact Eq.refl _
    | with_reducible apply modLanes_keeps
    | dsimp only

theorem holdLink_keeps {z0 : State} (s : State) (n : Nat) (h_ : Keeps z0 s) : Keeps z0 (holdLink s n) := by
  unfold holdLink
  repeat' first
    | with_reducible assumption
    | intro _
    | with_reducible apply holdTaps_keeps
    | with_reducible apply forAll_keeps
    | dsimp only

theorem lockPlls_keeps {z0 : State} (s : State) (qs : List Nat) (h_ : Keeps z0 s) : Keeps z0 (lockPlls s qs) := by
  unfold lockPlls
  repeat' first
    | with_reducible assumption
    | intro _
    | exact Eq.refl _
    | with_reducible apply Keeps.foldl
    | with_reducible apply Keeps.foldl_snd2
    | with_reducible apply Keeps.foldl_snd
    | with_reducible apply Keeps.foldl_fst
    | dsimp only
    | with_reducible apply Keeps.raw

theorem trainLanes_keeps {z0 : State} (s : State) (n : Nat) (bad : List Nat) (h_ : Keeps z0 s) : Keeps z0 (trainLanes s n bad) := by
  unfold trainLanes
  repeat' first
    | with_reducible assumption
    | exact Eq.refl _
    | with_reducible apply modLanes_keeps
    | with_reducible apply lockPlls_keeps
    | dsimp only

theorem idleLanes_keeps {z0 : State} (s : State) (n : Nat) (h_ : Keeps z0 s) : Keeps z0 (idleLanes s n) := by
  unfold idleLanes
  repeat' first
    | with_reducible assumption
    | exact Eq.refl _
    | with_reducible apply modLanes_keeps
    | with_reducible apply abortScans_keeps
    | with_reducible apply holdLink_keeps
    | dsimp only

theorem linkEvent_keeps {z0 : State} (s : State) (h : Nat) (sev : Nat) (lane : Nat) (h_ : Keeps z0 s) : Keeps z0 (linkEvent s h sev lane) := by
  unfold linkEvent
  repeat' first
    | with_reducible assumption
    | with_reducible apply event_keeps
    | dsimp only

theorem trainFailed_keeps {z0 : State} (s : State) (h : Nat) (h_ : Keeps z0 s) : Keeps z0 (trainFailed s h) := by
  unfold trainFailed
  repeat' first
    | with_reducible assumption
    | exact Eq.refl _
    | with_reducible apply modHead_keeps
    | with_reducible apply linkEvent_keeps
    | with_reducible apply scEvent_keeps
    | dsimp only

theorem enterService_keeps {z0 : State} (s : State) (h : Nat) (cxl : Bool) (h_ : Keeps z0 s) : Keeps z0 (enterService s h cxl) := by
  unfold enterService
  repeat' first
    | with_reducible assumption
    | exact Eq.refl _
    | with_reducible apply Keeps.ite
    | with_reducible apply linkEvent_keeps
    | with_reducible apply scEvent_keeps
    | split
    | dsimp only
    | with_reducible apply Keeps.raw

theorem headUp_keeps {z0 : State} (s : State) (h : Nat) (cxl : Bool) (rate : Nat) (bad : List Nat) (ndr : Option Nat) (drs : Option Nat) (h_ : Keeps z0 s) : Keeps z0 (headUp s h cxl rate bad ndr drs) := by
  unfold headUp
  repeat' first
    | with_reducible assumption
    | exact Eq.refl _
    | with_reducible apply Keeps.ite
    | with_reducible apply trainFailed_keeps
    | with_reducible apply modHead_keeps
    | with_reducible apply trainLanes_keeps
    | with_reducible apply enterService_keeps
    | with_reducible apply returnCredits_keeps
    | split
    | dsimp only
    | with_reducible apply Keeps.raw

theorem dropHeadWork_keeps {z0 : State} (s : State) (h : Nat) (h_ : Keeps z0 s) : Keeps z0 (dropHeadWork s h) := by
  unfold dropHeadWork
  repeat' first
    | with_reducible assumption
    | intro _
    | exact Eq.refl _
    | with_reducible apply modHead_keeps
    | with_reducible apply modFlume_keeps
    | with_reducible apply modLeat_keeps
    | with_reducible apply forAll_keeps
    | dsimp only

theorem resetHead_keeps {z0 : State} (s : State) (h : Nat) (h_ : Keeps z0 s) : Keeps z0 (resetHead s h) := by
  unfold resetHead
  repeat' first
    | with_reducible assumption
    | exact Eq.refl _
    | with_reducible apply modHead_keeps
    | with_reducible apply idleLanes_keeps
    | with_reducible apply resetHeadPairs_keeps
    | with_reducible apply dropHeadWork_keeps
    | dsimp only

theorem headDown_keeps {z0 : State} (s : State) (h : Nat) (h_ : Keeps z0 s) : Keeps z0 (headDown s h) := by
  unfold headDown
  repeat' first
    | with_reducible assumption
    | with_reducible apply scEvent_keeps
    | with_reducible apply resetHead_keeps
    | dsimp only

/-! The meanings: on elements that exist, each answers a next state. -/

theorem execHeadLinkUp_runs (h : Nat) (cxl : Bool) (rate : Nat) (bad : List Nat) (ndr : Option Nat) (drs : Option Nat) (s : State) (w_ : (Instr.headLinkUp h cxl rate bad ndr drs).wf = true) : Runs s (execHeadLinkUp h cxl rate bad ndr drs s) := by
  unfold execHeadLinkUp
  repeat' first
    | with_reducible assumption
    | with_reducible exact Keeps.refl _
    | with_reducible apply Runs.next
    | with_reducible apply Runs.ite
    | (with_reducible apply Runs.onElement; (first | assumption | simp_all [Instr.wf, okHead]))
    | with_reducible apply Keeps.ite
    | with_reducible apply headUp_keeps
    | split
    | dsimp only

theorem execHeadTrainRetry_runs (h : Nat) (s : State) (w_ : (Instr.headTrainRetry h).wf = true) : Runs s (execHeadTrainRetry h s) := by
  unfold execHeadTrainRetry
  repeat' first
    | with_reducible assumption
    | with_reducible exact Keeps.refl _
    | with_reducible apply Runs.next
    | with_reducible apply Runs.ite
    | (with_reducible apply Runs.onElement; (first | assumption | simp_all [Instr.wf, okHead]))
    | exact Eq.refl _
    | with_reducible apply Keeps.ite
    | with_reducible apply modHead_keeps
    | split
    | dsimp only

theorem execHeadConventionalReset_runs (h : Nat) (s : State) (w_ : (Instr.headConventionalReset h).wf = true) : Runs s (execHeadConventionalReset h s) := by
  unfold execHeadConventionalReset
  repeat' first
    | with_reducible assumption
    | with_reducible exact Keeps.refl _
    | with_reducible apply Runs.next
    | with_reducible apply Runs.ite
    | (with_reducible apply Runs.onElement; (first | assumption | simp_all [Instr.wf, okHead]))
    | exact Eq.refl _
    | with_reducible apply Keeps.ite
    | with_reducible apply resetHead_keeps
    | split
    | dsimp only
    | with_reducible apply Keeps.raw

theorem execHeadHotReset_runs (h : Nat) (s : State) (w_ : (Instr.headHotReset h).wf = true) : Runs s (execHeadHotReset h s) := by
  unfold execHeadHotReset
  repeat' first
    | with_reducible assumption
    | with_reducible exact Keeps.refl _
    | with_reducible apply Runs.next
    | with_reducible apply Runs.ite
    | (with_reducible apply Runs.onElement; (first | assumption | simp_all [Instr.wf, okHead]))
    | with_reducible apply Keeps.ite
    | with_reducible apply resetHead_keeps
    | split
    | dsimp only

theorem execHeadLinkDown_runs (h : Nat) (s : State) (w_ : (Instr.headLinkDown h).wf = true) : Runs s (execHeadLinkDown h s) := by
  unfold execHeadLinkDown
  repeat' first
    | with_reducible assumption
    | with_reducible exact Keeps.refl _
    | with_reducible apply Runs.next
    | with_reducible apply Runs.ite
    | (with_reducible apply Runs.onElement; (first | assumption | simp_all [Instr.wf, okHead]))
    | with_reducible apply Keeps.ite
    | with_reducible apply headDown_keeps
    | split
    | dsimp only

theorem execFunctionLevelReset_runs (h : Nat) (s : State) (w_ : (Instr.functionLevelReset h).wf = true) : Runs s (execFunctionLevelReset h s) := by
  unfold execFunctionLevelReset
  repeat' first
    | with_reducible assumption
    | with_reducible exact Keeps.refl _
    | with_reducible apply Runs.next
    | with_reducible apply Runs.ite
    | (with_reducible apply Runs.onElement; (first | assumption | simp_all [Instr.wf, okHead]))
    | with_reducible apply Keeps.ite
    | with_reducible apply resetHeadPairs_keeps
    | with_reducible apply modHead_keeps
    | split
    | dsimp only

theorem execD3hotEntry_runs (h : Nat) (s : State) (w_ : (Instr.d3hotEntry h).wf = true) : Runs s (execD3hotEntry h s) := by
  unfold execD3hotEntry
  repeat' first
    | with_reducible assumption
    | with_reducible exact Keeps.refl _
    | with_reducible apply Runs.next
    | with_reducible apply Runs.ite
    | (with_reducible apply Runs.onElement; (first | assumption | simp_all [Instr.wf, okHead]))
    | exact Eq.refl _
    | with_reducible apply Keeps.ite
    | with_reducible apply resetHeadPairs_keeps
    | with_reducible apply modHead_keeps
    | split
    | dsimp only

theorem execD0Entry_runs (h : Nat) (s : State) (w_ : (Instr.d0Entry h).wf = true) : Runs s (execD0Entry h s) := by
  unfold execD0Entry
  repeat' first
    | with_reducible assumption
    | with_reducible exact Keeps.refl _
    | with_reducible apply Runs.next
    | with_reducible apply Runs.ite
    | (with_reducible apply Runs.onElement; (first | assumption | simp_all [Instr.wf, okHead]))
    | exact Eq.refl _
    | with_reducible apply Keeps.ite
    | with_reducible apply wakeDevice_keeps
    | with_reducible apply modHead_keeps
    | with_reducible apply resumeLink_keeps
    | split
    | dsimp only

theorem execL1Entry_runs (h : Nat) (s : State) (w_ : (Instr.l1Entry h).wf = true) : Runs s (execL1Entry h s) := by
  unfold execL1Entry
  repeat' first
    | with_reducible assumption
    | with_reducible exact Keeps.refl _
    | with_reducible apply Runs.next
    | with_reducible apply Runs.ite
    | (with_reducible apply Runs.onElement; (first | assumption | simp_all [Instr.wf, okHead]))
    | exact Eq.refl _
    | with_reducible apply Keeps.ite
    | with_reducible apply modHead_keeps
    | with_reducible apply abortScans_keeps
    | with_reducible apply holdLink_keeps
    | split
    | dsimp only

theorem execL1Exit_runs (h : Nat) (s : State) (w_ : (Instr.l1Exit h).wf = true) : Runs s (execL1Exit h s) := by
  unfold execL1Exit
  repeat' first
    | with_reducible assumption
    | with_reducible exact Keeps.refl _
    | with_reducible apply Runs.next
    | with_reducible apply Runs.ite
    | (with_reducible apply Runs.onElement; (first | assumption | simp_all [Instr.wf, okHead]))
    | exact Eq.refl _
    | with_reducible apply Keeps.ite
    | with_reducible apply wakeDevice_keeps
    | with_reducible apply modHead_keeps
    | with_reducible apply resumeLink_keeps
    | split
    | dsimp only

theorem execS2mStarvation_runs (h : Nat) (s : State) (w_ : (Instr.s2mStarvation h).wf = true) : Runs s (execS2mStarvation h s) := by
  unfold execS2mStarvation
  repeat' first
    | with_reducible assumption
    | with_reducible exact Keeps.refl _
    | with_reducible apply Runs.next
    | with_reducible apply Runs.ite
    | (with_reducible apply Runs.onElement; (first | assumption | simp_all [Instr.wf, okHead]))
    | exact Eq.refl _
    | with_reducible apply Keeps.ite
    | with_reducible apply linkEvent_keeps
    | with_reducible apply scEvent_keeps
    | with_reducible apply modHead_keeps
    | split
    | dsimp only

theorem execS2mCreditReturn_runs (h : Nat) (ndr : Nat) (drs : Nat) (s : State) (w_ : (Instr.s2mCreditReturn h ndr drs).wf = true) : Runs s (execS2mCreditReturn h ndr drs s) := by
  unfold execS2mCreditReturn
  repeat' first
    | with_reducible assumption
    | with_reducible exact Keeps.refl _
    | with_reducible apply Runs.next
    | with_reducible apply Runs.ite
    | (with_reducible apply Runs.onElement; (first | assumption | simp_all [Instr.wf, okHead]))
    | exact Eq.refl _
    | with_reducible apply Keeps.ite
    | with_reducible apply modHead_keeps
    | with_reducible apply drainResponses_keeps
    | split
    | dsimp only

theorem execPcieConfigWrite_runs (h : Nat) (cfg : ConfigWrite) (s : State) (w_ : (Instr.pcieConfigWrite h cfg).wf = true) : Runs s (execPcieConfigWrite h cfg s) := by
  unfold execPcieConfigWrite
  repeat' first
    | with_reducible assumption
    | with_reducible exact Keeps.refl _
    | with_reducible apply Runs.next
    | with_reducible apply Runs.ite
    | (with_reducible apply Runs.onElement; (first | assumption | simp_all [Instr.wf, okHead]))
    | with_reducible apply Keeps.ite
    | with_reducible apply modHead_keeps
    | split
    | dsimp only

end Sys2Proof.Machine
end

