-- ==== Sys2Proof/Laws/KeepsLeat.lean ====
section
/-! SUPPORT. What the operations of Machine/Leat.lean keep. -/

set_option Elab.async false

namespace Sys2Proof.Machine

theorem portEvent_keeps {z0 : State} (s : State) (k : Nat) (sev : Nat) (h_ : Keeps z0 s) : Keeps z0 (portEvent s k sev) := by
  unfold portEvent
  repeat' first
    | with_reducible assumption
    | with_reducible apply event_keeps
    | dsimp only

theorem portUp_keeps {z0 : State} (s : State) (k : Nat) (rate : Nat) (width : Nat) (bad : List Nat) (h_ : Keeps z0 s) : Keeps z0 (portUp s k rate width bad) := by
  unfold portUp
  repeat' first
    | with_reducible assumption
    | intro _
    | exact Eq.refl _
    | with_reducible apply Keeps.ite
    | with_reducible apply modLeat_keeps
    | with_reducible apply modPort_keeps
    | with_reducible apply trainLanes_keeps
    | split
    | dsimp only

theorem portTrainFailed_keeps {z0 : State} (s : State) (k : Nat) (h_ : Keeps z0 s) : Keeps z0 (portTrainFailed s k) := by
  unfold portTrainFailed
  repeat' first
    | with_reducible assumption
    | exact Eq.refl _
    | with_reducible apply modPort_keeps
    | with_reducible apply portEvent_keeps
    | with_reducible apply scEvent_keeps
    | dsimp only

theorem portDown_keeps {z0 : State} (s : State) (k : Nat) (h_ : Keeps z0 s) : Keeps z0 (portDown s k) := by
  unfold portDown
  repeat' first
    | with_reducible assumption
    | intro _
    | exact Eq.refl _
    | with_reducible apply Keeps.ite
    | with_reducible apply modPort_keeps
    | with_reducible apply idleLanes_keeps
    | with_reducible apply portEvent_keeps
    | with_reducible apply scEvent_keeps
    | with_reducible apply modLeat_keeps
    | with_reducible apply partnerLost_keeps
    | split
    | dsimp only

theorem replay_keeps {z0 : State} (s : State) (k : Nat) (h_ : Keeps z0 s) : Keeps z0 (replay s k) := by
  unfold replay
  repeat' first
    | with_reducible assumption
    | intro _
    | exact Eq.refl _
    | with_reducible apply Keeps.ite
    | with_reducible apply emit_keeps
    | with_reducible apply modPort_keeps
    | with_reducible apply portEvent_keeps
    | with_reducible apply scEvent_keeps
    | with_reducible apply abortScans_keeps
    | with_reducible apply holdLink_keeps
    | with_reducible apply Keeps.foldl
    | with_reducible apply Keeps.foldl_snd2
    | with_reducible apply Keeps.foldl_snd
    | with_reducible apply Keeps.foldl_fst
    | split
    | dsimp only

theorem settlePort_keeps {z0 : State} (s : State) (j : Nat) (last : Nat) (h_ : Keeps z0 s) : Keeps z0 (settlePort s j last) := by
  unfold settlePort
  repeat' first
    | with_reducible assumption
    | intro _
    | exact Eq.refl _
    | with_reducible apply Keeps.ite
    | with_reducible apply leatFlush_keeps
    | with_reducible apply modLeat_keeps
    | with_reducible apply modPort_keeps
    | split
    | dsimp only

theorem unmatch_keeps {z0 : State} (s : State) (i : Nat) (h_ : Keeps z0 s) : Keeps z0 (unmatch s i) := by
  unfold unmatch
  repeat' first
    | with_reducible assumption
    | intro _
    | exact Eq.refl _
    | with_reducible apply mirrorNotice_keeps
    | with_reducible apply scEvent_keeps
    | with_reducible apply modLeat_keeps
    | split
    | dsimp only

theorem dualPrimary_keeps {z0 : State} (s : State) (i : Nat) (h_ : Keeps z0 s) : Keeps z0 (dualPrimary s i) := by
  unfold dualPrimary
  repeat' first
    | with_reducible assumption
    | intro _
    | exact Eq.refl _
    | with_reducible apply event_keeps
    | with_reducible apply scEvent_keeps
    | with_reducible apply modLeat_keeps
    | dsimp only

theorem joinEntry_keeps {z0 : State} (s : State) (r : RegionIn) (h_ : Keeps z0 s) : Keeps z0 (joinEntry s r) := by
  unfold joinEntry
  repeat' first
    | with_reducible assumption
    | intro _
    | with_reducible apply Keeps.ite
    | with_reducible apply unmatch_keeps
    | with_reducible apply setEntry_keeps
    | with_reducible apply setGranule_keeps
    | with_reducible apply dualPrimary_keeps
    | with_reducible apply forAll_keeps
    | split
    | dsimp only

theorem wipedPartner_keeps {z0 : State} (s : State) (h_ : Keeps z0 s) : Keeps z0 (wipedPartner s) := by
  unfold wipedPartner
  repeat' first
    | with_reducible assumption
    | intro _
    | with_reducible apply Keeps.ite
    | with_reducible apply setWhole_keeps
    | with_reducible apply forAll_keeps
    | split
    | dsimp only

theorem sendPageHalf_keeps {z0 : State} (s : State) (a : Nat) (pages : Nat) (h_ : Keeps z0 s) : Keeps z0 (sendPageHalf s a pages) := by
  unfold sendPageHalf
  repeat' first
    | with_reducible assumption
    | with_reducible apply sendState_keeps
    | dsimp only

theorem sendEntries_keeps {z0 : State} (s : State) (h_ : Keeps z0 s) : Keeps z0 (sendEntries s) := by
  unfold sendEntries
  repeat' first
    | with_reducible assumption
    | intro _
    | with_reducible apply sendState_keeps
    | with_reducible apply forAll_keeps
    | dsimp only

theorem sendJoin_keeps {z0 : State} (s : State) (h_ : Keeps z0 s) : Keeps z0 (sendJoin s) := by
  unfold sendJoin
  repeat' first
    | with_reducible assumption
    | with_reducible apply sendDirty_keeps
    | with_reducible apply sendPageHalf_keeps
    | dsimp only

theorem joinDirty_keeps {z0 : State} (s : State) (gs : List Nat) (h_ : Keeps z0 s) : Keeps z0 (joinDirty s gs) := by
  unfold joinDirty
  repeat' first
    | with_reducible assumption
    | intro _
    | with_reducible apply Keeps.ite
    | with_reducible apply setWhole_keeps
    | with_reducible apply forAll_keeps
    | split
    | dsimp only

theorem ackUpdate_keeps {z0 : State} (s : State) (k : Nat) (tag : Nat) (slots : Nat) (stored : Bool) (h_ : Keeps z0 s) : Keeps z0 (ackUpdate s k tag slots stored) := by
  unfold ackUpdate
  repeat' first
    | with_reducible assumption
    | with_reducible apply returnSlots_keeps
    | with_reducible apply sendAck_keeps
    | dsimp only

theorem joinUpdate_keeps {z0 : State} (k : Nat) (s : State) (r : RegionIn) (h_ : Keeps z0 s) : Keeps z0 (joinUpdate k s r) := by
  unfold joinUpdate
  repeat' first
    | with_reducible assumption
    | with_reducible apply joinEntry_keeps
    | with_reducible apply ackUpdate_keeps
    | split
    | dsimp only

theorem joinChunk_keeps {z0 : State} (k : Nat) (s : State) (c : DirtyIn) (h_ : Keeps z0 s) : Keeps z0 (joinChunk k s c) := by
  unfold joinChunk
  repeat' first
    | with_reducible assumption
    | with_reducible apply ackUpdate_keeps
    | with_reducible apply joinDirty_keeps
    | dsimp only

theorem applyLine_keeps {z0 : State} (s : State) (k : Nat) (line : Nat) (data : Line) (md : BitVec 2) (poison : Bool) (cls : Nat) (tag : Nat) (h_ : Keeps z0 s) : Keeps z0 (applyLine s k line data md poison cls tag) := by
  unfold applyLine
  repeat' first
    | with_reducible assumption
    | exact Eq.refl _
    | with_reducible apply Keeps.ite
    | with_reducible apply returnSlots_keeps
    | with_reducible apply sendAck_keeps
    | with_reducible apply ingress_keeps
    | with_reducible apply wakeDevice_keeps
    | split
    | dsimp only

theorem countNotStored_keeps {z0 : State} (s : State) (h_ : Keeps z0 s) : Keeps z0 (countNotStored s) := by
  unfold countNotStored
  repeat' first
    | with_reducible assumption
    | with_reducible apply mirrorNotice_keeps
    | with_reducible apply scEvent_keeps
    | dsimp only

theorem ackSync_keeps {z0 : State} (s : State) (first : Nat) (count : Nat) (stored : Bool) (h_ : Keeps z0 s) : Keeps z0 (ackSync s first count stored) := by
  unfold ackSync
  repeat' first
    | with_reducible assumption
    | intro _
    | exact Eq.refl _
    | with_reducible apply Keeps.ite
    | with_reducible apply modLeat_keeps
    | with_reducible apply finishWrite_keeps
    | with_reducible apply notStored_keeps
    | with_reducible apply countNotStored_keeps
    | with_reducible apply Keeps.foldl
    | with_reducible apply Keeps.foldl_snd2
    | with_reducible apply Keeps.foldl_snd
    | with_reducible apply Keeps.foldl_fst
    | split
    | dsimp only

theorem ackPond_keeps {z0 : State} (s : State) (first : Nat) (count : Nat) (stored : Bool) (h_ : Keeps z0 s) : Keeps z0 (ackPond s first count stored) := by
  unfold ackPond
  repeat' first
    | with_reducible assumption
    | intro _
    | exact Eq.refl _
    | with_reducible apply Keeps.ite
    | with_reducible apply modLeat_keeps
    | with_reducible apply notStored_keeps
    | with_reducible apply countNotStored_keeps
    | with_reducible apply Keeps.foldl
    | with_reducible apply Keeps.foldl_snd2
    | with_reducible apply Keeps.foldl_snd
    | with_reducible apply Keeps.foldl_fst
    | split
    | dsimp only

theorem ackState_keeps {z0 : State} (s : State) (first : Nat) (count : Nat) (stored : Bool) (h_ : Keeps z0 s) : Keeps z0 (ackState s first count stored) := by
  unfold ackState
  repeat' first
    | with_reducible assumption
    | intro _
    | exact Eq.refl _
    | with_reducible apply Keeps.ite
    | with_reducible apply modLeat_keeps
    | with_reducible apply countNotStored_keeps
    | with_reducible apply unmatch_keeps
    | with_reducible apply Keeps.foldl
    | with_reducible apply Keeps.foldl_snd2
    | with_reducible apply Keeps.foldl_snd
    | with_reducible apply Keeps.foldl_fst
    | split
    | dsimp only

theorem settleGranules_keeps {z0 : State} (s : State) (did : Nat) (h_ : Keeps z0 s) : Keeps z0 (settleGranules s did) := by
  unfold settleGranules
  repeat' first
    | with_reducible assumption
    | exact Eq.refl _
    | with_reducible apply Keeps.ite
    | with_reducible apply sendState_keeps
    | with_reducible apply clearGranules_keeps
    | with_reducible apply modDesc_keeps
    | split
    | dsimp only

theorem endPush_keeps {z0 : State} (stored : Bool) (s : State) (w : PushWait) (h_ : Keeps z0 s) : Keeps z0 (endPush stored s w) := by
  unfold endPush
  repeat' first
    | with_reducible assumption
    | intro _
    | exact Eq.refl _
    | with_reducible apply Keeps.ite
    | with_reducible apply modLeat_keeps
    | with_reducible apply settleGranules_keeps
    | with_reducible apply modDesc_keeps
    | with_reducible apply unpush_keeps
    | with_reducible apply countNotStored_keeps
    | split
    | dsimp only

theorem installEntry_keeps {z0 : State} (s : State) (i : Nat) (e : Nat) (h_ : Keeps z0 s) : Keeps z0 (installEntry s i e).2 := by
  unfold installEntry
  repeat' first
    | with_reducible assumption
    | with_reducible apply Keeps.ite
    | with_reducible apply setEntry_keeps
    | split
    | dsimp only

theorem refuseWaiting_keeps {z0 : State} (s : State) (r : Req) (h_ : Keeps z0 s) : Keeps z0 (refuseWaiting s r) := by
  unfold refuseWaiting
  repeat' first
    | with_reducible assumption
    | exact Eq.refl _
    | with_reducible apply finishWrite_keeps
    | with_reducible apply event_keeps
    | split
    | dsimp only

theorem refuseIn_keeps {z0 : State} (rs : List Nat) (s : State) (f : Nat) (h_ : Keeps z0 s) : Keeps z0 (refuseIn rs s f) := by
  unfold refuseIn
  repeat' first
    | with_reducible assumption
    | intro _
    | exact Eq.refl _
    | with_reducible apply Keeps.ite
    | with_reducible apply modFlume_keeps
    | with_reducible apply leaveIngress_keeps
    | with_reducible apply modLeat_keeps
    | with_reducible apply refuseWaiting_keeps
    | with_reducible apply noteIdle_keeps
    | with_reducible apply updateWeir_keeps
    | with_reducible apply Keeps.foldl
    | with_reducible apply Keeps.foldl_snd2
    | with_reducible apply Keeps.foldl_snd
    | with_reducible apply Keeps.foldl_fst
    | split
    | dsimp only

theorem endSwitchover_keeps {z0 : State} (s : State) (d : Nat) (h_ : Keeps z0 s) : Keeps z0 (endSwitchover s d) := by
  unfold endSwitchover
  repeat' first
    | with_reducible assumption
    | exact Eq.refl _
    | with_reducible apply Keeps.ite
    | with_reducible apply finishDesc_keeps
    | split
    | dsimp only

theorem copyOut_keeps {z0 : State} (env : OpEnv) (a : Option (List CopyLine) × State) (line : Nat) (h_ : Keeps z0 a.2) : Keeps z0 (copyOut env a line).2 := by
  unfold copyOut
  repeat' first
    | with_reducible assumption
    | exact Eq.refl _
    | with_reducible apply Keeps.ite
    | with_reducible apply readLine_keeps
    | split
    | dsimp only

theorem answerCopy_keeps {z0 : State} (k : Nat) (line : Nat) (n : Nat) (tag : Nat) (env : OpEnv) (s : State) (h_ : Keeps z0 s) : Keeps z0 (answerCopy k line n tag env s) := by
  unfold answerCopy
  repeat' first
    | with_reducible assumption
    | intro _
    | with_reducible apply copyOut_keeps
    | with_reducible apply returnSlots_keeps
    | with_reducible apply lookups_keeps
    | with_reducible apply leatSend_keeps
    | with_reducible apply Keeps.foldl
    | with_reducible apply Keeps.foldl_snd2
    | with_reducible apply Keeps.foldl_snd
    | with_reducible apply Keeps.foldl_fst
    | dsimp only

theorem pushedLine_keeps {z0 : State} (i : Nat) (tag : Nat) (k : Nat) (s : State) (e : CopyLine × Nat) (h_ : Keeps z0 s) : Keeps z0 (pushedLine i tag k s e) := by
  unfold pushedLine
  repeat' first
    | with_reducible assumption
    | exact Eq.refl _
    | with_reducible apply ingress_keeps
    | dsimp only

theorem takePush_keeps {z0 : State} (s : State) (k : Nat) (line : Nat) (tag : Nat) (ls : List CopyLine) (h_ : Keeps z0 s) : Keeps z0 (takePush s k line tag ls) := by
  unfold takePush
  repeat' first
    | with_reducible assumption
    | intro _
    | exact Eq.refl _
    | with_reducible apply returnSlots_keeps
    | with_reducible apply sendAck_keeps
    | with_reducible apply modLeat_keeps
    | with_reducible apply pushedLine_keeps
    | with_reducible apply wakeDevice_keeps
    | with_reducible apply Keeps.foldl
    | with_reducible apply Keeps.foldl_snd2
    | with_reducible apply Keeps.foldl_snd
    | with_reducible apply Keeps.foldl_fst
    | split
    | dsimp only

theorem releasePages_keeps {z0 : State} (a0_ : List (Nat × Nat × Word)) : ∀ (a1_ : State), Keeps z0 a1_ → Keeps z0 (releasePages a0_ a1_) := by
  induction a0_ with
  | nil =>
    intro a1_ h_
    unfold releasePages
    repeat' first
      | with_reducible assumption
      | intro _
      | exact Eq.refl _
      | with_reducible apply Keeps.ite
      | with_reducible apply sendState_keeps
      | with_reducible apply modLeat_keeps
      | split
      | dsimp only
  | cons x_ l_ ih_ =>
    intro a1_ h_
    unfold releasePages
    repeat' first
      | with_reducible assumption
      | with_reducible apply ih_
      | intro _
      | exact Eq.refl _
      | with_reducible apply Keeps.ite
      | with_reducible apply sendState_keeps
      | with_reducible apply modLeat_keeps
      | split
      | dsimp only

theorem takePage_keeps {z0 : State} (s : State) (path : Nat) (w : Nat) (v : Word) (h_ : Keeps z0 s) : Keeps z0 (takePage s path w v) := by
  unfold takePage
  repeat' first
    | with_reducible assumption
    | intro _
    | exact Eq.refl _
    | with_reducible apply Keeps.ite
    | with_reducible apply accessFault_keeps
    | with_reducible apply modLeat_keeps
    | with_reducible apply releasePages_keeps
    | split
    | dsimp only

theorem resilverStored_keeps {z0 : State} (s : State) (i : Nat) (f : Nat) (l : Nat) (line : Nat) (p : Place) (env : OpEnv) (h_ : Keeps z0 s) : Keeps z0 (resilverStored s i f l line p env).2 := by
  unfold resilverStored
  repeat' first
    | with_reducible assumption
    | with_reducible apply Keeps.ite
    | with_reducible apply countRead_keeps
    | with_reducible apply storeBack_keeps
    | with_reducible apply bumpTotal_keeps
    | with_reducible apply markClean_keeps
    | split
    | dsimp only

theorem resilverLine_keeps {z0 : State} (i : Nat) (env : OpEnv) (a : List (Nat × CopyLine) × State) (line : Nat) (h_ : Keeps z0 a.2) : Keeps z0 (resilverLine i env a line).2 := by
  unfold resilverLine
  repeat' first
    | with_reducible assumption
    | exact Eq.refl _
    | with_reducible apply Keeps.ite
    | with_reducible apply flushLine_keeps
    | with_reducible apply bumpFree_keeps
    | with_reducible apply resilverStored_keeps
    | split
    | dsimp only

theorem pushRun_keeps {z0 : State} (i : Nat) (did : Nat) (s : State) (run : List (Nat × CopyLine)) (h_ : Keeps z0 s) : Keeps z0 (pushRun i did s run) := by
  unfold pushRun
  repeat' first
    | with_reducible assumption
    | intro _
    | exact Eq.refl _
    | with_reducible apply leatSend_keeps
    | with_reducible apply modLeat_keeps
    | dsimp only

theorem resilverBatch_keeps {z0 : State} (did : Nat) (i : Nat) (a : Nat) (d : Desc) (env : OpEnv) (s : State) (h_ : Keeps z0 s) : Keeps z0 (resilverBatch did i a d env s) := by
  unfold resilverBatch
  repeat' first
    | with_reducible assumption
    | intro _
    | exact Eq.refl _
    | with_reducible apply Keeps.ite
    | with_reducible apply resilverLine_keeps
    | with_reducible apply lookups_keeps
    | with_reducible apply pushRun_keeps
    | with_reducible apply settleGranules_keeps
    | with_reducible apply modDesc_keeps
    | with_reducible apply Keeps.foldl
    | with_reducible apply Keeps.foldl_snd2
    | with_reducible apply Keeps.foldl_snd
    | with_reducible apply Keeps.foldl_fst
    | split
    | dsimp only

/-! The meanings: on elements that exist, each answers a next state. -/

theorem execLeatPortTrain_runs (k : Nat) (rate : Nat) (bad : List Nat) (s : State) (w_ : (Instr.leatPortTrain k rate bad).wf = true) : Runs s (execLeatPortTrain k rate bad s) := by
  unfold execLeatPortTrain
  repeat' first
    | with_reducible assumption
    | with_reducible exact Keeps.refl _
    | with_reducible apply Runs.next
    | with_reducible apply Runs.ite
    | (with_reducible apply Runs.onElement; (first | assumption | simp_all [Instr.wf, okPort]))
    | exact Eq.refl _
    | with_reducible apply Keeps.ite
    | with_reducible apply portTrainFailed_keeps
    | with_reducible apply portUp_keeps
    | split
    | dsimp only

theorem execLeatPortDown_runs (k : Nat) (s : State) (w_ : (Instr.leatPortDown k).wf = true) : Runs s (execLeatPortDown k s) := by
  unfold execLeatPortDown
  repeat' first
    | with_reducible assumption
    | with_reducible exact Keeps.refl _
    | with_reducible apply Runs.next
    | with_reducible apply Runs.ite
    | (with_reducible apply Runs.onElement; (first | assumption | simp_all [Instr.wf, okPort]))
    | with_reducible apply Keeps.ite
    | with_reducible apply portDown_keeps
    | split
    | dsimp only

theorem execLeatPortReturn_runs (k : Nat) (s : State) (w_ : (Instr.leatPortReturn k).wf = true) : Runs s (execLeatPortReturn k s) := by
  unfold execLeatPortReturn
  repeat' first
    | with_reducible assumption
    | with_reducible exact Keeps.refl _
    | with_reducible apply Runs.next
    | with_reducible apply Runs.ite
    | (with_reducible apply Runs.onElement; (first | assumption | simp_all [Instr.wf, okPort]))
    | intro _
    | exact Eq.refl _
    | with_reducible apply Keeps.ite
    | with_reducible apply leatFlush_keeps
    | with_reducible apply modLeat_keeps
    | split
    | dsimp only

theorem execFlitReceive_runs (k : Nat) (seq : Nat) (crcOk : Bool) (s : State) (w_ : (Instr.flitReceive k seq crcOk).wf = true) : Runs s (execFlitReceive k seq crcOk s) := by
  unfold execFlitReceive
  repeat' first
    | with_reducible assumption
    | with_reducible exact Keeps.refl _
    | with_reducible apply Runs.next
    | with_reducible apply Runs.ite
    | (with_reducible apply Runs.onElement; (first | assumption | simp_all [Instr.wf, okPort]))
    | exact Eq.refl _
    | with_reducible apply Keeps.ite
    | with_reducible apply modPort_keeps
    | with_reducible apply sendLink_keeps
    | split
    | dsimp only

theorem execLeatReplayTimeout_runs (k : Nat) (s : State) (w_ : (Instr.leatReplayTimeout k).wf = true) : Runs s (execLeatReplayTimeout k s) := by
  unfold execLeatReplayTimeout
  repeat' first
    | with_reducible assumption
    | with_reducible exact Keeps.refl _
    | with_reducible apply Runs.next
    | with_reducible apply Runs.ite
    | (with_reducible apply Runs.onElement; (first | assumption | simp_all [Instr.wf, okPort]))
    | with_reducible apply Keeps.ite
    | with_reducible apply replay_keeps
    | split
    | dsimp only

theorem execIdle_runs (k : Nat) (s : State) (w_ : (Instr.idle k).wf = true) : Runs s (execIdle k s) := by
  unfold execIdle
  repeat' first
    | with_reducible assumption
    | with_reducible exact Keeps.refl _
    | with_reducible apply Runs.next
    | with_reducible apply Runs.ite
    | (with_reducible apply Runs.onElement; (first | assumption | simp_all [Instr.wf, okPort]))
    | with_reducible apply Keeps.ite
    | split
    | dsimp only

theorem execLink_runs (k : Nat) (lastGood : Nat) (nak : Bool) (reqSlots : Nat) (rspSlots : Nat) (s : State) (w_ : (Instr.link k lastGood nak reqSlots rspSlots).wf = true) : Runs s (execLink k lastGood nak reqSlots rspSlots s) := by
  unfold execLink
  repeat' first
    | with_reducible assumption
    | with_reducible exact Keeps.refl _
    | with_reducible apply Runs.next
    | with_reducible apply Runs.ite
    | (with_reducible apply Runs.onElement; (first | assumption | simp_all [Instr.wf, okPort]))
    | exact Eq.refl _
    | with_reducible apply Keeps.ite
    | with_reducible apply modPort_keeps
    | with_reducible apply leatFlush_keeps
    | with_reducible apply replay_keeps
    | split
    | dsimp only

theorem execHeartbeatSend_runs (k : Nat) (s : State) (w_ : (Instr.heartbeatSend k).wf = true) : Runs s (execHeartbeatSend k s) := by
  unfold execHeartbeatSend
  repeat' first
    | with_reducible assumption
    | with_reducible exact Keeps.refl _
    | with_reducible apply Runs.next
    | with_reducible apply Runs.ite
    | (with_reducible apply Runs.onElement; (first | assumption | simp_all [Instr.wf, okPort]))
    | exact Eq.refl _
    | with_reducible apply Keeps.ite
    | with_reducible apply leatOwn_keeps
    | with_reducible apply modPort_keeps
    | split
    | dsimp only

theorem execHeartbeat_runs (k : Nat) (hb : HeartbeatMsg) (s : State) (w_ : (Instr.heartbeat k hb).wf = true) : Runs s (execHeartbeat k hb s) := by
  unfold execHeartbeat
  repeat' first
    | with_reducible assumption
    | with_reducible exact Keeps.refl _
    | with_reducible apply Runs.next
    | with_reducible apply Runs.ite
    | (with_reducible apply Runs.onElement; (first | assumption | simp_all [Instr.wf, okPort]))
    | intro _
    | exact Eq.refl _
    | with_reducible apply Keeps.ite
    | with_reducible apply modPort_keeps
    | with_reducible apply modLeat_keeps
    | with_reducible apply portEvent_keeps
    | with_reducible apply settlePort_keeps
    | with_reducible apply forAll_keeps
    | split
    | dsimp only

theorem execPairJoin_runs (k : Nat) (entries : List RegionIn) (dirty : List DirtyIn) (s : State) (w_ : (Instr.pairJoin k entries dirty).wf = true) : Runs s (execPairJoin k entries dirty s) := by
  unfold execPairJoin
  repeat' first
    | with_reducible assumption
    | with_reducible exact Keeps.refl _
    | with_reducible apply Runs.next
    | with_reducible apply Runs.ite
    | (with_reducible apply Runs.onElement; (first | assumption | simp_all [Instr.wf, okPort]))
    | intro _
    | exact Eq.refl _
    | with_reducible apply Keeps.ite
    | with_reducible apply sendEntries_keeps
    | with_reducible apply wipedPartner_keeps
    | with_reducible apply modLeat_keeps
    | with_reducible apply sendJoin_keeps
    | with_reducible apply joinUpdate_keeps
    | with_reducible apply mirrorAll_keeps
    | with_reducible apply joinChunk_keeps
    | with_reducible apply Keeps.foldl
    | with_reducible apply Keeps.foldl_snd
    | split
    | dsimp only

theorem execMirrorWrite_runs (k : Nat) (line : Nat) (data : Line) (md : BitVec 2) (cls : Nat) (tag : Nat) (s : State) (w_ : (Instr.mirrorWrite k line data md cls tag).wf = true) : Runs s (execMirrorWrite k line data md cls tag s) := by
  unfold execMirrorWrite
  repeat' first
    | with_reducible assumption
    | with_reducible exact Keeps.refl _
    | with_reducible apply Runs.next
    | with_reducible apply Runs.ite
    | (with_reducible apply Runs.onElement; (first | assumption | simp_all [Instr.wf, okPort]))
    | with_reducible apply Keeps.ite
    | with_reducible apply applyLine_keeps
    | split
    | dsimp only

theorem execPoisonNotice_runs (k : Nat) (line : Nat) (cls : Nat) (tag : Nat) (s : State) (w_ : (Instr.poisonNotice k line cls tag).wf = true) : Runs s (execPoisonNotice k line cls tag s) := by
  unfold execPoisonNotice
  repeat' first
    | with_reducible assumption
    | with_reducible exact Keeps.refl _
    | with_reducible apply Runs.next
    | with_reducible apply Runs.ite
    | (with_reducible apply Runs.onElement; (first | assumption | simp_all [Instr.wf, okPort]))
    | with_reducible apply Keeps.ite
    | with_reducible apply applyLine_keeps
    | split
    | dsimp only

theorem execAck_runs (k : Nat) (cls : Nat) (first : Nat) (count : Nat) (stored : Bool) (s : State) (w_ : (Instr.ack k cls first count stored).wf = true) : Runs s (execAck k cls first count stored s) := by
  unfold execAck
  repeat' first
    | with_reducible assumption
    | with_reducible exact Keeps.refl _
    | with_reducible apply Runs.next
    | with_reducible apply Runs.ite
    | (with_reducible apply Runs.onElement; (first | assumption | simp_all [Instr.wf, okPort]))
    | intro _
    | with_reducible apply Keeps.ite
    | with_reducible apply sendLink_keeps
    | with_reducible apply ackSync_keeps
    | with_reducible apply ackPond_keeps
    | with_reducible apply ackState_keeps
    | with_reducible apply endPush_keeps
    | with_reducible apply mirrorAll_keeps
    | with_reducible apply Keeps.foldl
    | with_reducible apply Keeps.foldl_snd
    | split
    | dsimp only

theorem execRegionEntryUpdate_runs (k : Nat) (idx : Nat) (entry : BitVec 128) (tag : Nat) (s : State) (w_ : (Instr.regionEntryUpdate k idx entry tag).wf = true) : Runs s (execRegionEntryUpdate k idx entry tag s) := by
  unfold execRegionEntryUpdate
  repeat' first
    | with_reducible assumption
    | with_reducible exact Keeps.refl _
    | with_reducible apply Runs.next
    | with_reducible apply Runs.ite
    | (with_reducible apply Runs.onElement; (first | assumption | simp_all [Instr.wf, okPort]))
    | with_reducible apply Keeps.ite
    | with_reducible apply installEntry_keeps
    | with_reducible apply ackUpdate_keeps
    | split
    | dsimp only

theorem execRegionClearUpdate_runs (k : Nat) (idx : Nat) (tag : Nat) (s : State) (w_ : (Instr.regionClearUpdate k idx tag).wf = true) : Runs s (execRegionClearUpdate k idx tag s) := by
  unfold execRegionClearUpdate
  repeat' first
    | with_reducible assumption
    | with_reducible exact Keeps.refl _
    | with_reducible apply Runs.next
    | with_reducible apply Runs.ite
    | (with_reducible apply Runs.onElement; (first | assumption | simp_all [Instr.wf, okPort]))
    | with_reducible apply Keeps.ite
    | with_reducible apply ackUpdate_keeps
    | with_reducible apply setEntry_keeps
    | split
    | dsimp only

theorem execRoleChangeUpdate_runs (k : Nat) (mask : Nat) (tag : Nat) (s : State) (w_ : (Instr.roleChangeUpdate k mask tag).wf = true) : Runs s (execRoleChangeUpdate k mask tag s) := by
  unfold execRoleChangeUpdate
  repeat' first
    | with_reducible assumption
    | with_reducible exact Keeps.refl _
    | with_reducible apply Runs.next
    | with_reducible apply Runs.ite
    | (with_reducible apply Runs.onElement; (first | assumption | simp_all [Instr.wf, okPort]))
    | (with_reducible apply ask_runs; (first | assumption | simp_all [Instr.wf, okPort]))
    | intro _
    | with_reducible apply Keeps.ite
    | with_reducible apply setRole_keeps
    | with_reducible apply ackUpdate_keeps
    | with_reducible apply forAll_keeps
    | split
    | dsimp only

theorem execSharedPageUpdate_runs (k : Nat) (words : List (Nat × Word)) (tag : Nat) (s : State) (w_ : (Instr.sharedPageUpdate k words tag).wf = true) : Runs s (execSharedPageUpdate k words tag s) := by
  unfold execSharedPageUpdate
  repeat' first
    | with_reducible assumption
    | with_reducible exact Keeps.refl _
    | with_reducible apply Runs.next
    | with_reducible apply Runs.ite
    | (with_reducible apply Runs.onElement; (first | assumption | simp_all [Instr.wf, okPort]))
    | intro _
    | exact Eq.refl _
    | with_reducible apply Keeps.ite
    | with_reducible apply modLeat_keeps
    | with_reducible apply returnSlots_keeps
    | with_reducible apply ackUpdate_keeps
    | with_reducible apply Keeps.foldl
    | with_reducible apply Keeps.foldl_snd
    | split
    | refine Keeps.snd (by assumption) ?_
    | dsimp only

theorem execDirtyBitmapChunk_runs (k : Nat) (granules : List Nat) (tag : Nat) (s : State) (w_ : (Instr.dirtyBitmapChunk k granules tag).wf = true) : Runs s (execDirtyBitmapChunk k granules tag s) := by
  unfold execDirtyBitmapChunk
  repeat' first
    | with_reducible assumption
    | with_reducible exact Keeps.refl _
    | with_reducible apply Runs.next
    | with_reducible apply Runs.ite
    | (with_reducible apply Runs.onElement; (first | assumption | simp_all [Instr.wf, okPort]))
    | with_reducible apply Keeps.ite
    | with_reducible apply ackUpdate_keeps
    | with_reducible apply joinDirty_keeps
    | split
    | dsimp only

theorem execGranulesClean_runs (k : Nat) (granules : List Nat) (tag : Nat) (s : State) (w_ : (Instr.granulesClean k granules tag).wf = true) : Runs s (execGranulesClean k granules tag s) := by
  unfold execGranulesClean
  repeat' first
    | with_reducible assumption
    | with_reducible exact Keeps.refl _
    | with_reducible apply Runs.next
    | with_reducible apply Runs.ite
    | (with_reducible apply Runs.onElement; (first | assumption | simp_all [Instr.wf, okPort]))
    | with_reducible apply Keeps.ite
    | with_reducible apply ackUpdate_keeps
    | with_reducible apply clearGranules_keeps
    | split
    | dsimp only

theorem execSwitchoverRequest_runs (k : Nat) (mask : Nat) (tag : Nat) (s : State) (w_ : (Instr.switchoverRequest k mask tag).wf = true) : Runs s (execSwitchoverRequest k mask tag s) := by
  unfold execSwitchoverRequest
  repeat' first
    | with_reducible assumption
    | with_reducible exact Keeps.refl _
    | with_reducible apply Runs.next
    | with_reducible apply Runs.ite
    | (with_reducible apply Runs.onElement; (first | assumption | simp_all [Instr.wf, okPort]))
    | intro _
    | exact Eq.refl _
    | with_reducible apply Keeps.ite
    | with_reducible apply modLeat_keeps
    | with_reducible apply ackUpdate_keeps
    | with_reducible apply Keeps.foldl
    | with_reducible apply Keeps.foldl_snd
    | split
    | dsimp only

theorem execSwitchoverQuiesced_runs (s : State) : Runs s (execSwitchoverQuiesced s) := by
  unfold execSwitchoverQuiesced
  repeat' first
    | with_reducible assumption
    | with_reducible exact Keeps.refl _
    | with_reducible apply Runs.next
    | with_reducible apply Runs.ite
    | (with_reducible apply Runs.onElement; (first | assumption | simp_all [Instr.wf]))
    | intro _
    | exact Eq.refl _
    | with_reducible apply Keeps.ite
    | with_reducible apply setRole_keeps
    | with_reducible apply modLeat_keeps
    | with_reducible apply sendState_keeps
    | with_reducible apply refuseIn_keeps
    | with_reducible apply forAll_keeps
    | split
    | dsimp only

theorem execSwitchoverDone_runs (k : Nat) (mask : Nat) (tag : Nat) (s : State) (w_ : (Instr.switchoverDone k mask tag).wf = true) : Runs s (execSwitchoverDone k mask tag s) := by
  unfold execSwitchoverDone
  repeat' first
    | with_reducible assumption
    | with_reducible exact Keeps.refl _
    | with_reducible apply Runs.next
    | with_reducible apply Runs.ite
    | (with_reducible apply Runs.onElement; (first | assumption | simp_all [Instr.wf, okPort]))
    | (with_reducible apply ask_runs; (first | assumption | simp_all [Instr.wf, okPort]))
    | intro _
    | with_reducible apply Keeps.ite
    | with_reducible apply setRole_keeps
    | with_reducible apply ackUpdate_keeps
    | with_reducible apply endSwitchover_keeps
    | with_reducible apply forAll_keeps
    | split
    | dsimp only

theorem execCopyRequest_runs (k : Nat) (line : Nat) (lines : Nat) (_refetch : Bool) (tag : Nat) (env : OpEnv) (s : State) (w_ : (Instr.copyRequest k line lines _refetch tag env).wf = true) : Runs s (execCopyRequest k line lines _refetch tag env s) := by
  unfold execCopyRequest
  repeat' first
    | with_reducible assumption
    | with_reducible exact Keeps.refl _
    | with_reducible apply Runs.next
    | with_reducible apply Runs.ite
    | (with_reducible apply Runs.onElement; (first | assumption | simp_all [Instr.wf, okPort]))
    | with_reducible apply whenOpen_runs
    | intro _
    | with_reducible apply Keeps.ite
    | with_reducible apply wakeDevice_keeps
    | with_reducible apply answerCopy_keeps
    | split
    | dsimp only

theorem execCopyData_runs (k : Nat) (line : Nat) (push : Bool) (data : List CopyLine) (tag : Nat) (s : State) (w_ : (Instr.copyData k line push data tag).wf = true) : Runs s (execCopyData k line push data tag s) := by
  unfold execCopyData
  repeat' first
    | with_reducible assumption
    | with_reducible exact Keeps.refl _
    | with_reducible apply Runs.next
    | with_reducible apply Runs.ite
    | (with_reducible apply Runs.onElement; (first | assumption | simp_all [Instr.wf, okPort]))
    | exact Eq.refl _
    | with_reducible apply Keeps.ite
    | with_reducible apply takePush_keeps
    | with_reducible apply sendLink_keeps
    | with_reducible apply dropCopy_keeps
    | with_reducible apply copyFailed_keeps
    | with_reducible apply copyArrived_keeps
    | split
    | dsimp only

theorem execPondSend_runs (s : State) : Runs s (execPondSend s) := by
  unfold execPondSend
  repeat' first
    | with_reducible assumption
    | with_reducible exact Keeps.refl _
    | with_reducible apply Runs.next
    | with_reducible apply Runs.ite
    | intro _
    | exact Eq.refl _
    | with_reducible apply Keeps.ite
    | with_reducible apply modLeat_keeps
    | with_reducible apply sendMirror_keeps
    | with_reducible apply releasePages_keeps
    | split
    | dsimp only

theorem execSharedPageWrite_runs (path : Nat) (off : Nat) (v : Word) (s : State) (w_ : (Instr.sharedPageWrite path off v).wf = true) : Runs s (execSharedPageWrite path off v s) := by
  unfold execSharedPageWrite
  repeat' first
    | with_reducible assumption
    | with_reducible exact Keeps.refl _
    | with_reducible apply Runs.next
    | with_reducible apply Runs.ite
    | (with_reducible apply Runs.onElement; (first | assumption | simp_all [Instr.wf, okPath]))
    | intro _
    | with_reducible apply Keeps.ite
    | with_reducible apply accessFault_keeps
    | with_reducible apply writeNow_keeps
    | with_reducible apply takePage_keeps
    | split
    | dsimp only

theorem execResilverSend_runs (did : Nat) (env : OpEnv) (s : State) : Runs s (execResilverSend did env s) := by
  unfold execResilverSend
  repeat' first
    | with_reducible assumption
    | with_reducible exact Keeps.refl _
    | with_reducible apply Runs.next
    | with_reducible apply Runs.ite
    | with_reducible apply whenOpen_runs
    | intro _
    | exact Eq.refl _
    | with_reducible apply Keeps.ite
    | with_reducible apply resilverBatch_keeps
    | split
    | dsimp only

theorem execFlitTimeout_runs (s : State) : Runs s (execFlitTimeout s) := by
  unfold execFlitTimeout
  repeat' first
    | with_reducible assumption
    | with_reducible exact Keeps.refl _
    | with_reducible apply Runs.next
    | with_reducible apply Runs.ite
    | with_reducible apply Keeps.ite
    | with_reducible apply partnerLost_keeps
    | split
    | dsimp only

theorem execAckLimitExpiry_runs (s : State) : Runs s (execAckLimitExpiry s) := by
  unfold execAckLimitExpiry
  repeat' first
    | with_reducible assumption
    | with_reducible exact Keeps.refl _
    | with_reducible apply Runs.next
    | with_reducible apply Runs.ite
    | intro _
    | exact Eq.refl _
    | with_reducible apply Keeps.ite
    | with_reducible apply portDown_keeps
    | with_reducible apply partnerLost_keeps
    | with_reducible apply modPort_keeps
    | with_reducible apply forAll_keeps
    | split
    | dsimp only

end Sys2Proof.Machine
end

