-- ==== Sys2Proof/Laws/KeepsLanes.lean ====
section
/-! SUPPORT. What the operations of Machine/Lanes.lean keep. -/

set_option Elab.async false

namespace Sys2Proof.Machine

theorem laneEvent_keeps {z0 : State} (s : State) (n : Nat) (sev : Nat) (h_ : Keeps z0 s) : Keeps z0 (laneEvent s n sev) := by
  unfold laneEvent
  repeat' first
    | with_reducible assumption
    | with_reducible apply Keeps.ite
    | with_reducible apply linkEvent_keeps
    | with_reducible apply portEvent_keeps
    | split
    | dsimp only

theorem clearFreeze_keeps {z0 : State} (s : State) (n : Nat) (h_ : Keeps z0 s) : Keeps z0 (clearFreeze s n) := by
  unfold clearFreeze
  repeat' first
    | with_reducible assumption
    | intro _
    | with_reducible apply Keeps.ite
    | with_reducible apply regPut_keeps
    | with_reducible apply forAll_keeps
    | split
    | dsimp only

theorem linkFails_keeps {z0 : State} (s : State) (n : Nat) (h_ : Keeps z0 s) : Keeps z0 (linkFails s n) := by
  unfold linkFails
  repeat' first
    | with_reducible assumption
    | with_reducible apply Keeps.ite
    | with_reducible apply laneEvent_keeps
    | with_reducible apply headDown_keeps
    | with_reducible apply portDown_keeps
    | split
    | dsimp only

theorem widthChanged_keeps {z0 : State} (s : State) (n : Nat) (h_ : Keeps z0 s) : Keeps z0 (widthChanged s n) := by
  unfold widthChanged
  repeat' first
    | with_reducible assumption
    | with_reducible apply Keeps.ite
    | with_reducible apply laneEvent_keeps
    | with_reducible apply scEvent_keeps
    | split
    | dsimp only

theorem lanesForm_keeps {z0 : State} (s : State) (n : Nat) (bad : List Nat) (eq : Bool) (h_ : Keeps z0 s) : Keeps z0 (lanesForm s n bad eq) := by
  unfold lanesForm
  repeat' first
    | with_reducible assumption
    | exact Eq.refl _
    | with_reducible apply Keeps.ite
    | with_reducible apply modLanes_keeps
    | split
    | dsimp only

theorem linkForms_keeps {z0 : State} (s0 : State) (n : Nat) (w : Nat) (rev : Bool) (bad : List Nat) (eq : Bool) (h_ : Keeps z0 s0) : Keeps z0 (linkForms s0 n w rev bad eq) := by
  unfold linkForms
  repeat' first
    | with_reducible assumption
    | exact Eq.refl _
    | with_reducible apply Keeps.ite
    | with_reducible apply lanesForm_keeps
    | with_reducible apply modHead_keeps
    | with_reducible apply modPort_keeps
    | split
    | dsimp only

theorem failLanes_keeps {z0 : State} (s : State) (n : Nat) (failing : List Nat) (h_ : Keeps z0 s) : Keeps z0 (failLanes s n failing) := by
  unfold failLanes
  repeat' first
    | with_reducible assumption
    | intro _
    | exact Eq.refl _
    | with_reducible apply modLane_keeps
    | with_reducible apply forAll_keeps
    | dsimp only

theorem recover_keeps {z0 : State} (s : State) (n : Nat) (failing : List Nat) (eq : Bool) (h_ : Keeps z0 s) : Keeps z0 (recover s n failing eq) := by
  unfold recover
  repeat' first
    | with_reducible assumption
    | exact Eq.refl _
    | with_reducible apply Keeps.ite
    | with_reducible apply failLanes_keeps
    | with_reducible apply clearFreeze_keeps
    | with_reducible apply holdLink_keeps
    | with_reducible apply abortScans_keeps
    | with_reducible apply linkFails_keeps
    | with_reducible apply widthChanged_keeps
    | with_reducible apply linkForms_keeps
    | split
    | dsimp only

theorem readmitLane_keeps {z0 : State} (s : State) (l : Nat) (h_ : Keeps z0 s) : Keeps z0 (readmitLane s l) := by
  unfold readmitLane
  repeat' first
    | with_reducible assumption
    | exact Eq.refl _
    | with_reducible apply Keeps.ite
    | with_reducible apply modLane_keeps
    | with_reducible apply lockPlls_keeps
    | with_reducible apply modHead_keeps
    | with_reducible apply modPort_keeps
    | split
    | dsimp only

theorem scanStatus_keeps {z0 : State} (s : State) (l : Nat) (st : Nat) (n : Nat) (h_ : Keeps z0 s) : Keeps z0 (scanStatus s l st n) := by
  unfold scanStatus
  repeat' first
    | with_reducible assumption
    | with_reducible apply scEvent_keeps
    | dsimp only

theorem startScan_keeps {z0 : State} (s : State) (l : Nat) (h_ : Keeps z0 s) : Keeps z0 (startScan s l) := by
  unfold startScan
  repeat' first
    | with_reducible assumption
    | exact Eq.refl _
    | with_reducible apply Keeps.ite
    | with_reducible apply scEvent_keeps
    | with_reducible apply scanStatus_keeps
    | with_reducible apply modLane_keeps
    | split
    | dsimp only

theorem takeScanCmd_keeps {z0 : State} (s : State) (l : Nat) (v : Nat) (h_ : Keeps z0 s) : Keeps z0 (takeScanCmd s l v) := by
  unfold takeScanCmd
  repeat' first
    | with_reducible assumption
    | with_reducible apply Keeps.ite
    | with_reducible apply regSet_keeps
    | with_reducible apply startScan_keeps
    | split
    | dsimp only

theorem genStep_keeps {z0 : State} (s : State) (l : Nat) (h_ : Keeps z0 s) : Keeps z0 (genStep s l) := by
  unfold genStep
  repeat' first
    | with_reducible assumption
    | exact Eq.refl _
    | with_reducible apply modLane_keeps
    | dsimp only

theorem seedBit_keeps {z0 : State} (s : State) (l : Nat) (b : Bool) (h_ : Keeps z0 s) : Keeps z0 (seedBit s l b) := by
  unfold seedBit
  repeat' first
    | with_reducible assumption
    | exact Eq.refl _
    | with_reducible apply Keeps.ite
    | with_reducible apply modLane_keeps
    | with_reducible apply bumpFree_keeps
    | split
    | dsimp only

theorem cleanBit_keeps {z0 : State} (s : State) (l : Nat) (next : Prbs) (h_ : Keeps z0 s) : Keeps z0 (cleanBit s l next) := by
  unfold cleanBit
  repeat' first
    | with_reducible assumption
    | exact Eq.refl _
    | with_reducible apply modLane_keeps
    | dsimp only

theorem reseed_keeps {z0 : State} (s : State) (l : Nat) (h_ : Keeps z0 s) : Keeps z0 (reseed s l) := by
  unfold reseed
  repeat' first
    | with_reducible assumption
    | exact Eq.refl _
    | with_reducible apply modLane_keeps
    | dsimp only

theorem countBit_keeps {z0 : State} (s : State) (l : Nat) (b : Bool) (e : Bool) (inj : Bool) (next : Prbs) (h_ : Keeps z0 s) : Keeps z0 (countBit s l b e inj next) := by
  unfold countBit
  repeat' first
    | with_reducible assumption
    | exact Eq.refl _
    | with_reducible apply Keeps.ite
    | with_reducible apply modLane_keeps
    | with_reducible apply scEvent_keeps
    | with_reducible apply reseed_keeps
    | split
    | dsimp only

theorem takeBit_keeps {z0 : State} (s : State) (l : Nat) (b : Bool) (h_ : Keeps z0 s) : Keeps z0 (takeBit s l b) := by
  unfold takeBit
  repeat' first
    | with_reducible assumption
    | with_reducible apply Keeps.ite
    | with_reducible apply seedBit_keeps
    | with_reducible apply countBit_keeps
    | with_reducible apply cleanBit_keeps
    | with_reducible apply reseed_keeps
    | split
    | dsimp only

theorem checkBit_keeps {z0 : State} (l : Nat) (s : State) (r : Bool) (h_ : Keeps z0 s) : Keeps z0 (checkBit l s r) := by
  unfold checkBit
  repeat' first
    | with_reducible assumption
    | with_reducible apply Keeps.ite
    | with_reducible apply takeBit_keeps
    | with_reducible apply genStep_keeps
    | split
    | dsimp only

theorem startGen_keeps {z0 : State} (s : State) (l : Nat) (h_ : Keeps z0 s) : Keeps z0 (startGen s l) := by
  unfold startGen
  repeat' first
    | with_reducible assumption
    | exact Eq.refl _
    | with_reducible apply modLane_keeps
    | with_reducible apply bumpFree_keeps
    | dsimp only

theorem takePrbsCtl_keeps {z0 : State} (s0 : State) (l : Nat) (v : Nat) (h_ : Keeps z0 s0) : Keeps z0 (takePrbsCtl s0 l v) := by
  unfold takePrbsCtl
  repeat' first
    | with_reducible assumption
    | exact Eq.refl _
    | with_reducible apply Keeps.ite
    | with_reducible apply regSet_keeps
    | with_reducible apply startGen_keeps
    | with_reducible apply reseed_keeps
    | with_reducible apply modLane_keeps
    | split
    | dsimp only

theorem loseClock_keeps {z0 : State} (s : State) (h_ : Keeps z0 s) : Keeps z0 (loseClock s) := by
  unfold loseClock
  repeat' first
    | with_reducible assumption
    | exact Eq.refl _
    | with_reducible apply raise_keeps
    | dsimp only
    | with_reducible apply Keeps.raw

theorem loseLanes_keeps {z0 : State} (s0 : State) (h_ : Keeps z0 s0) : Keeps z0 (loseLanes s0) := by
  unfold loseLanes
  repeat' first
    | with_reducible assumption
    | intro _
    | exact Eq.refl _
    | with_reducible apply modLane_keeps
    | with_reducible apply abortScan_keeps
    | with_reducible apply holdTaps_keeps
    | with_reducible apply forAll_keeps
    | dsimp only
    | with_reducible apply Keeps.raw

/-! The meanings: on elements that exist, each answers a next state. -/

theorem execLaneLossOfLock_runs (l : Nat) (pll : Bool) (eq : Bool) (s : State) (w_ : (Instr.laneLossOfLock l pll eq).wf = true) : Runs s (execLaneLossOfLock l pll eq s) := by
  unfold execLaneLossOfLock
  repeat' first
    | with_reducible assumption
    | with_reducible exact Keeps.refl _
    | with_reducible apply Runs.next
    | with_reducible apply Runs.ite
    | (with_reducible apply Runs.onElement; (first | assumption | simp_all [Instr.wf, okLane]))
    | intro _
    | exact Eq.refl _
    | with_reducible apply Keeps.ite
    | with_reducible apply modLane_keeps
    | with_reducible apply abortScan_keeps
    | with_reducible apply holdTaps_keeps
    | with_reducible apply scEvent_keeps
    | with_reducible apply recover_keeps
    | with_reducible apply Keeps.foldl
    | with_reducible apply Keeps.foldl_snd
    | split
    | dsimp only
    | with_reducible apply Keeps.raw

theorem execLaneRetest_runs (l : Nat) (s : State) (w_ : (Instr.laneRetest l).wf = true) : Runs s (execLaneRetest l s) := by
  unfold execLaneRetest
  repeat' first
    | with_reducible assumption
    | with_reducible exact Keeps.refl _
    | with_reducible apply Runs.next
    | with_reducible apply Runs.ite
    | (with_reducible apply Runs.onElement; (first | assumption | simp_all [Instr.wf, okLane]))
    | exact Eq.refl _
    | with_reducible apply Keeps.ite
    | with_reducible apply modLane_keeps
    | split
    | dsimp only

theorem execLaneRetestDone_runs (l : Nat) (errors : Nat) (lock : Bool) (s : State) (w_ : (Instr.laneRetestDone l errors lock).wf = true) : Runs s (execLaneRetestDone l errors lock s) := by
  unfold execLaneRetestDone
  repeat' first
    | with_reducible assumption
    | with_reducible exact Keeps.refl _
    | with_reducible apply Runs.next
    | with_reducible apply Runs.ite
    | (with_reducible apply Runs.onElement; (first | assumption | simp_all [Instr.wf, okLane]))
    | exact Eq.refl _
    | with_reducible apply Keeps.ite
    | with_reducible apply modLane_keeps
    | with_reducible apply readmitLane_keeps
    | split
    | dsimp only

theorem execAutoWidenRecovery_runs (ln : Nat) (failing : List Nat) (eq : Bool) (s : State) (w_ : (Instr.autoWidenRecovery ln failing eq).wf = true) : Runs s (execAutoWidenRecovery ln failing eq s) := by
  unfold execAutoWidenRecovery
  repeat' first
    | with_reducible assumption
    | with_reducible exact Keeps.refl _
    | with_reducible apply Runs.next
    | with_reducible apply Runs.ite
    | (with_reducible apply Runs.onElement; (first | assumption | simp_all [Instr.wf]))
    | with_reducible apply Keeps.ite
    | with_reducible apply recover_keeps
    | split
    | dsimp only

theorem execLinkRecovery_runs (ln : Nat) (failing : List Nat) (eq : Bool) (s : State) (w_ : (Instr.linkRecovery ln failing eq).wf = true) : Runs s (execLinkRecovery ln failing eq s) := by
  unfold execLinkRecovery
  repeat' first
    | with_reducible assumption
    | with_reducible exact Keeps.refl _
    | with_reducible apply Runs.next
    | with_reducible apply Runs.ite
    | (with_reducible apply Runs.onElement; (first | assumption | simp_all [Instr.wf]))
    | with_reducible apply Keeps.ite
    | with_reducible apply recover_keeps
    | split
    | dsimp only

theorem execEyeScanStart_runs (path : Nat) (l : Nat) (v : Word) (s : State) (w_ : (Instr.eyeScanStart path l v).wf = true) : Runs s (execEyeScanStart path l v s) := by
  unfold execEyeScanStart
  repeat' first
    | with_reducible assumption
    | with_reducible exact Keeps.refl _
    | with_reducible apply Runs.next
    | with_reducible apply Runs.ite
    | (with_reducible apply Runs.onElement; (first | assumption | simp_all [Instr.wf, okPath, okLane]))
    | intro _
    | with_reducible apply Keeps.ite
    | with_reducible apply writeNow_keeps
    | with_reducible apply takeScanCmd_keeps
    | split
    | dsimp only

theorem execEyeScanPoint_runs (l : Nat) (errors : Nat) (s : State) (w_ : (Instr.eyeScanPoint l errors).wf = true) : Runs s (execEyeScanPoint l errors s) := by
  unfold execEyeScanPoint
  repeat' first
    | with_reducible assumption
    | with_reducible exact Keeps.refl _
    | with_reducible apply Runs.next
    | with_reducible apply Runs.ite
    | (with_reducible apply Runs.onElement; (first | assumption | simp_all [Instr.wf, okLane]))
    | exact Eq.refl _
    | with_reducible apply Keeps.ite
    | with_reducible apply modLane_keeps
    | with_reducible apply scanStatus_keeps
    | split
    | dsimp only

theorem execPrbsLock_runs (l : Nat) (rx : List Bool) (s : State) (w_ : (Instr.prbsLock l rx).wf = true) : Runs s (execPrbsLock l rx s) := by
  unfold execPrbsLock
  repeat' first
    | with_reducible assumption
    | with_reducible exact Keeps.refl _
    | with_reducible apply Runs.next
    | with_reducible apply Runs.ite
    | (with_reducible apply Runs.onElement; (first | assumption | simp_all [Instr.wf, okLane]))
    | intro _
    | with_reducible apply Keeps.ite
    | with_reducible apply checkBit_keeps
    | with_reducible apply Keeps.foldl
    | with_reducible apply Keeps.foldl_snd
    | split
    | dsimp only

theorem execPrbsSyncLoss_runs (l : Nat) (rx : List Bool) (s : State) (w_ : (Instr.prbsSyncLoss l rx).wf = true) : Runs s (execPrbsSyncLoss l rx s) := by
  unfold execPrbsSyncLoss
  repeat' first
    | with_reducible assumption
    | with_reducible exact Keeps.refl _
    | with_reducible apply Runs.next
    | with_reducible apply Runs.ite
    | (with_reducible apply Runs.onElement; (first | assumption | simp_all [Instr.wf, okLane]))
    | intro _
    | with_reducible apply Keeps.ite
    | with_reducible apply checkBit_keeps
    | with_reducible apply Keeps.foldl
    | with_reducible apply Keeps.foldl_snd
    | split
    | dsimp only

theorem execReferenceLoss_runs (s : State) : Runs s (execReferenceLoss s) := by
  unfold execReferenceLoss
  repeat' first
    | with_reducible assumption
    | with_reducible exact Keeps.refl _
    | with_reducible apply Runs.next
    | with_reducible apply Runs.ite
    | exact Eq.refl _
    | with_reducible apply Keeps.ite
    | with_reducible apply loseLanes_keeps
    | with_reducible apply loseClock_keeps
    | with_reducible apply setLine_keeps
    | split
    | dsimp only
    | with_reducible apply Keeps.raw

theorem execCorePllLoss_runs (s : State) : Runs s (execCorePllLoss s) := by
  unfold execCorePllLoss
  repeat' first
    | with_reducible assumption
    | with_reducible exact Keeps.refl _
    | with_reducible apply Runs.next
    | with_reducible apply Runs.ite
    | with_reducible apply Keeps.ite
    | with_reducible apply loseClock_keeps
    | split
    | dsimp only

end Sys2Proof.Machine
end

