-- ==== Sys2Proof/Laws/KeepsThermal.lean ====
section
/-! SUPPORT. What the operations of Machine/Thermal.lean keep. -/

set_option Elab.async false

namespace Sys2Proof.Machine

theorem modThm_keeps {z0 : State} (s : State) (g : Thermal → Thermal) (h_ : Keeps z0 s) : Keeps z0 (modThm s g) := by
  unfold modThm
  repeat' first
    | with_reducible assumption
    | exact Eq.refl _
    | dsimp only
    | with_reducible apply Keeps.raw

theorem takeReading_keeps {z0 : State} (old : State) (s : State) (e : Int × Nat) (h_ : Keeps z0 s) : Keeps z0 (takeReading old s e) := by
  unfold takeReading
  repeat' first
    | with_reducible assumption
    | exact Eq.refl _
    | with_reducible apply Keeps.ite
    | with_reducible apply modThm_keeps
    | with_reducible apply event_keeps
    | split
    | dsimp only

theorem takeReadings_keeps {z0 : State} (s : State) (rs : List Int) (h_ : Keeps z0 s) : Keeps z0 (takeReadings s rs) := by
  unfold takeReadings
  repeat' first
    | with_reducible assumption
    | intro _
    | exact Eq.refl _
    | with_reducible apply modThm_keeps
    | with_reducible apply takeReading_keeps
    | with_reducible apply Keeps.foldl
    | with_reducible apply Keeps.foldl_snd2
    | with_reducible apply Keeps.foldl_snd
    | with_reducible apply Keeps.foldl_fst
    | dsimp only

theorem runModel_keeps {z0 : State} (old : State) (s : State) (h_ : Keeps z0 s) : Keeps z0 (runModel old s) := by
  unfold runModel
  repeat' first
    | with_reducible assumption
    | intro _
    | exact Eq.refl _
    | with_reducible apply Keeps.ite
    | with_reducible apply modThm_keeps
    | with_reducible apply forAll_keeps
    | split
    | dsimp only

theorem judgeTier_keeps {z0 : State} (s : State) (t : Nat) (h_ : Keeps z0 s) : Keeps z0 (judgeTier s t) := by
  unfold judgeTier
  repeat' first
    | with_reducible assumption
    | exact Eq.refl _
    | with_reducible apply Keeps.ite
    | with_reducible apply modThm_keeps
    | with_reducible apply event_keeps
    | with_reducible apply scEvent_keeps
    | split
    | dsimp only

theorem setBands_keeps {z0 : State} (s : State) (h_ : Keeps z0 s) : Keeps z0 (setBands s) := by
  unfold setBands
  repeat' first
    | with_reducible assumption
    | intro _
    | exact Eq.refl _
    | with_reducible apply Keeps.ite
    | with_reducible apply changeBand_keeps
    | with_reducible apply forAll_keeps
    | split
    | dsimp only

theorem noteStep_keeps {z0 : State} (s : State) (f : Nat) (h_ : Keeps z0 s) : Keeps z0 (noteStep s f) := by
  unfold noteStep
  repeat' first
    | with_reducible assumption
    | with_reducible apply event_keeps
    | with_reducible apply scEvent_keeps
    | dsimp only

theorem floorFlume_keeps {z0 : State} (s : State) (f : Nat) (h_ : Keeps z0 s) : Keeps z0 (floorFlume s f) := by
  unfold floorFlume
  repeat' first
    | with_reducible assumption
    | exact Eq.refl _
    | with_reducible apply Keeps.ite
    | with_reducible apply noteStep_keeps
    | with_reducible apply modFlume_keeps
    | split
    | dsimp only

theorem floorMill_keeps {z0 : State} (s : State) (m : Nat) (h_ : Keeps z0 s) : Keeps z0 (floorMill s m) := by
  unfold floorMill
  repeat' first
    | with_reducible assumption
    | exact Eq.refl _
    | with_reducible apply Keeps.ite
    | with_reducible apply noteStep_keeps
    | with_reducible apply modMill_keeps
    | split
    | dsimp only

theorem checkTrip_keeps {z0 : State} (s : State) (h_ : Keeps z0 s) : Keeps z0 (checkTrip s) := by
  unfold checkTrip
  repeat' first
    | with_reducible assumption
    | with_reducible apply Keeps.ite
    | with_reducible apply setLine_keeps
    | with_reducible apply raise_keeps
    | split
    | dsimp only

theorem noteHottest_keeps {z0 : State} (s : State) (h_ : Keeps z0 s) : Keeps z0 (noteHottest s) := by
  unfold noteHottest
  repeat' first
    | with_reducible assumption
    | exact Eq.refl _
    | with_reducible apply Keeps.ite
    | with_reducible apply modThm_keeps
    | with_reducible apply scEvent_keeps
    | split
    | dsimp only

theorem coolRaise_keeps {z0 : State} (s : State) (k : Nat) (h_ : Keeps z0 s) : Keeps z0 (coolRaise s k) := by
  unfold coolRaise
  repeat' first
    | with_reducible assumption
    | exact Eq.refl _
    | with_reducible apply Keeps.ite
    | with_reducible apply modThm_keeps
    | with_reducible apply scEvent_keeps
    | with_reducible apply setLine_keeps
    | with_reducible apply raise_keeps
    | split
    | dsimp only

theorem coolEnd_keeps {z0 : State} (s : State) (found : List Nat) (good : Nat) (h_ : Keeps z0 s) : Keeps z0 (coolEnd s found good) := by
  unfold coolEnd
  repeat' first
    | with_reducible assumption
    | exact Eq.refl _
    | with_reducible apply Keeps.ite
    | with_reducible apply modThm_keeps
    | with_reducible apply setLine_keeps
    | split
    | dsimp only

theorem coolSuspended_keeps {z0 : State} (s : State) (h_ : Keeps z0 s) : Keeps z0 (coolSuspended s) := by
  unfold coolSuspended
  repeat' first
    | with_reducible assumption
    | exact Eq.refl _
    | with_reducible apply Keeps.ite
    | with_reducible apply event_keeps
    | with_reducible apply modThm_keeps
    | split
    | dsimp only

/-! The meanings: on elements that exist, each answers a next state. -/

theorem execThrottleStepDown_runs (f : Nat) (mill : Bool) (s : State) (w_ : (Instr.throttleStepDown f mill).wf = true) : Runs s (execThrottleStepDown f mill s) := by
  unfold execThrottleStepDown
  repeat' first
    | with_reducible assumption
    | with_reducible exact Keeps.refl _
    | with_reducible apply Runs.next
    | with_reducible apply Runs.ite
    | (with_reducible apply Runs.onElement; (first | assumption | simp_all [Instr.wf, okF]))
    | exact Eq.refl _
    | with_reducible apply Keeps.ite
    | with_reducible apply modMill_keeps
    | with_reducible apply modFlume_keeps
    | split
    | dsimp only

theorem execThermalTrip_runs (src : Nat) (s : State) (w_ : (Instr.thermalTrip src).wf = true) : Runs s (execThermalTrip src s) := by
  unfold execThermalTrip
  repeat' first
    | with_reducible assumption
    | with_reducible exact Keeps.refl _
    | with_reducible apply Runs.next
    | with_reducible apply Runs.ite
    | (with_reducible apply Runs.onElement; (first | assumption | simp_all [Instr.wf]))
    | with_reducible apply Keeps.ite
    | with_reducible apply raise_keeps
    | split
    | dsimp only

theorem execThermalEvaluation_runs (readings : List Int) (s : State) (w_ : (Instr.thermalEvaluation readings).wf = true) : Runs s (execThermalEvaluation readings s) := by
  unfold execThermalEvaluation
  repeat' first
    | with_reducible assumption
    | with_reducible exact Keeps.refl _
    | with_reducible apply Runs.next
    | with_reducible apply Runs.ite
    | (with_reducible apply Runs.onElement; (first | assumption | simp_all [Instr.wf]))
    | intro _
    | with_reducible apply Keeps.ite
    | with_reducible apply takeReadings_keeps
    | with_reducible apply checkTrip_keeps
    | with_reducible apply runModel_keeps
    | with_reducible apply judgeTier_keeps
    | with_reducible apply setBands_keeps
    | with_reducible apply floorFlume_keeps
    | with_reducible apply floorMill_keeps
    | with_reducible apply noteHottest_keeps
    | with_reducible apply forAll_keeps
    | split
    | dsimp only

theorem execCoolantCheck_runs (power : Nat) (tin : Int) (tout : Int) (s : State) : Runs s (execCoolantCheck power tin tout s) := by
  unfold execCoolantCheck
  repeat' first
    | with_reducible assumption
    | with_reducible exact Keeps.refl _
    | with_reducible apply Runs.next
    | with_reducible apply Runs.ite
    | intro _
    | exact Eq.refl _
    | with_reducible apply Keeps.ite
    | with_reducible apply modThm_keeps
    | with_reducible apply coolSuspended_keeps
    | with_reducible apply coolRaise_keeps
    | with_reducible apply coolEnd_keeps
    | with_reducible apply event_keeps
    | with_reducible apply Keeps.foldl
    | with_reducible apply Keeps.foldl_snd
    | split
    | dsimp only

end Sys2Proof.Machine
end

