-- ==== Sys2Proof/Laws/KeepsFaults.lean ====
section
/-! SUPPORT. What the operations of Machine/Faults.lean keep. -/

set_option Elab.async false

namespace Sys2Proof.Machine

theorem endCondition_keeps {z0 : State} (s : State) (g : Nat) (i : Nat) (h_ : Keeps z0 s) : Keeps z0 (endCondition s g i) := by
  unfold endCondition
  repeat' first
    | with_reducible assumption
    | exact Eq.refl _
    | with_reducible apply Keeps.ite
    | with_reducible apply setLine_keeps
    | split
    | dsimp only
    | with_reducible apply Keeps.raw

theorem raiseLine_keeps {z0 : State} (s : State) (g : Nat) (i : Nat) (sev : Nat) (unit : Nat) (detail : Nat) (h_ : Keeps z0 s) : Keeps z0 (raiseLine s g i sev unit detail) := by
  unfold raiseLine
  repeat' first
    | with_reducible assumption
    | with_reducible apply Keeps.ite
    | with_reducible apply raise_keeps
    | with_reducible apply leaveDispatch_keeps
    | split
    | dsimp only

theorem reloadSource_keeps {z0 : State} (s : State) (k : Nat) (h_ : Keeps z0 s) : Keeps z0 (reloadSource s k) := by
  unfold reloadSource
  repeat' first
    | with_reducible assumption
    | exact Eq.refl _
    | with_reducible apply modSource_keeps
    | dsimp only

theorem wakeFromFurl_keeps {z0 : State} (s : State) (f : Nat) (h_ : Keeps z0 s) : Keeps z0 (wakeFromFurl s f) := by
  unfold wakeFromFurl
  repeat' first
    | with_reducible assumption
    | exact Eq.refl _
    | with_reducible apply modFlume_keeps
    | dsimp only

theorem endHalted_keeps {z0 : State} (s : State) (m : Nat) (h_ : Keeps z0 s) : Keeps z0 (endHalted s m) := by
  unfold endHalted
  repeat' first
    | with_reducible assumption
    | with_reducible apply endRunning_keeps
    | dsimp only

theorem enablePort_keeps {z0 : State} (s : State) (k : Nat) (h_ : Keeps z0 s) : Keeps z0 (enablePort s k) := by
  unfold enablePort
  repeat' first
    | with_reducible assumption
    | exact Eq.refl _
    | with_reducible apply modPort_keeps
    | dsimp only

theorem safeExit_keeps {z0 : State} (s : State) (h_ : Keeps z0 s) : Keeps z0 (safeExit s) := by
  unfold safeExit
  repeat' first
    | with_reducible assumption
    | intro _
    | exact Eq.refl _
    | with_reducible apply emit_keeps
    | with_reducible apply wakeFromFurl_keeps
    | with_reducible apply endHalted_keeps
    | with_reducible apply refillMills_keeps
    | with_reducible apply returnCredits_keeps
    | with_reducible apply enablePort_keeps
    | with_reducible apply forAll_keeps
    | dsimp only
    | with_reducible apply Keeps.raw

theorem clearLatch_keeps {z0 : State} (s : State) (k : Nat) (h_ : Keeps z0 s) : Keeps z0 (clearLatch s k) := by
  unfold clearLatch
  repeat' first
    | with_reducible assumption
    | exact Eq.refl _
    | with_reducible apply Keeps.ite
    | with_reducible apply modSource_keeps
    | with_reducible apply safeExit_keeps
    | split
    | dsimp only
    | with_reducible apply Keeps.raw

theorem clearResult_keeps {z0 : State} (s : State) (r : Nat) (h_ : Keeps z0 s) : Keeps z0 (clearResult s r) := by
  unfold clearResult
  repeat' first
    | with_reducible assumption
    | with_reducible apply scEvent_keeps
    | dsimp only

theorem takeFltClear_keeps {z0 : State} (s : State) (v : Nat) (h_ : Keeps z0 s) : Keeps z0 (takeFltClear s v) := by
  unfold takeFltClear
  repeat' first
    | with_reducible assumption
    | with_reducible apply Keeps.ite
    | with_reducible apply clearResult_keeps
    | with_reducible apply clearLatch_keeps
    | split
    | dsimp only

/-! The meanings: on elements that exist, each answers a next state. -/

theorem execErrorLineEvent_runs (g : Nat) (i : Nat) (sev : Nat) (unit : Nat) (detail : Nat) (line : LineChange) (tlp : Option TlpError) (s : State) (w_ : (Instr.errorLineEvent g i sev unit detail line tlp).wf = true) : Runs s (execErrorLineEvent g i sev unit detail line tlp s) := by
  unfold execErrorLineEvent
  repeat' first
    | with_reducible assumption
    | with_reducible exact Keeps.refl _
    | with_reducible apply Runs.next
    | with_reducible apply Runs.ite
    | (with_reducible apply Runs.onElement; (first | assumption | simp_all [Instr.wf, okSource]))
    | exact Eq.refl _
    | with_reducible apply Keeps.ite
    | with_reducible apply tlpFault_keeps
    | with_reducible apply raiseLine_keeps
    | with_reducible apply setLine_keeps
    | with_reducible apply endCondition_keeps
    | split
    | dsimp only

theorem execWindowClose_runs (g : Nat) (i : Nat) (s : State) (w_ : (Instr.windowClose g i).wf = true) : Runs s (execWindowClose g i s) := by
  unfold execWindowClose
  repeat' first
    | with_reducible assumption
    | with_reducible exact Keeps.refl _
    | with_reducible apply Runs.next
    | with_reducible apply Runs.ite
    | (with_reducible apply Runs.onElement; (first | assumption | simp_all [Instr.wf, okSource]))
    | exact Eq.refl _
    | with_reducible apply Keeps.ite
    | with_reducible apply modSource_keeps
    | split
    | dsimp only

theorem execCollectorParitySweep_runs (bad : List Nat) (s : State) : Runs s (execCollectorParitySweep bad s) := by
  unfold execCollectorParitySweep
  repeat' first
    | with_reducible assumption
    | with_reducible exact Keeps.refl _
    | with_reducible apply Runs.next
    | with_reducible apply Runs.ite
    | intro _
    | with_reducible apply Keeps.ite
    | with_reducible apply raise_keeps
    | with_reducible apply reloadSource_keeps
    | with_reducible apply forAll_keeps
    | split
    | dsimp only

theorem execFltClear_runs (path : Nat) (v : Word) (s : State) (w_ : (Instr.fltClear path v).wf = true) : Runs s (execFltClear path v s) := by
  unfold execFltClear
  repeat' first
    | with_reducible assumption
    | with_reducible exact Keeps.refl _
    | with_reducible apply Runs.next
    | with_reducible apply Runs.ite
    | (with_reducible apply Runs.onElement; (first | assumption | simp_all [Instr.wf, okPath]))
    | with_reducible apply Keeps.ite
    | with_reducible apply takeFltClear_keeps
    | split
    | dsimp only

end Sys2Proof.Machine
end

