-- ==== Sys2Proof/Laws/KeepsRegAccess.lean ====
section
/-! SUPPORT. What the operations of Machine/RegAccess.lean keep. -/

set_option Elab.async false

namespace Sys2Proof.Machine

theorem takeHold_keeps {z0 : State} (s : State) (path : Nat) (v : Nat) (h_ : Keeps z0 s) : Keeps z0 (takeHold s path v) := by
  unfold takeHold
  repeat' first
    | with_reducible assumption
    | exact Eq.refl _
    | with_reducible apply Keeps.ite
    | split
    | dsimp only
    | with_reducible apply Keeps.raw

theorem takeCommit_keeps {z0 : State} (s : State) (path : Nat) (h_ : Keeps z0 s) : Keeps z0 (takeCommit s path) := by
  unfold takeCommit
  repeat' first
    | with_reducible assumption
    | exact Eq.refl _
    | with_reducible apply Keeps.ite
    | with_reducible apply accessFault_keeps
    | split
    | dsimp only
    | with_reducible apply Keeps.raw

theorem guardCompare_keeps {z0 : State} (s : State) (crc : Nat) (h_ : Keeps z0 s) : Keeps z0 (guardCompare s crc) := by
  unfold guardCompare
  repeat' first
    | with_reducible assumption
    | exact Eq.refl _
    | with_reducible apply Keeps.ite
    | with_reducible apply setLine_keeps
    | with_reducible apply scEvent_keeps
    | with_reducible apply event_keeps
    | split
    | dsimp only
    | with_reducible apply Keeps.raw

theorem setMailbox_keeps {z0 : State} (s : State) (path : Nat) (m : Mailbox) (h : Keeps z0 s) : Keeps z0 (setMailbox s path m) :=
  h.upd rfl rfl (List.prefix_refl _) rfl fun w => { w with mailboxes := tabWf_tabSet _ _ _ _ w.mailboxes }

theorem takeSelect_keeps {z0 : State} (s : State) (path : Nat) (v : Word) (h_ : Keeps z0 s) : Keeps z0 (takeSelect s path v) := by
  unfold takeSelect
  repeat' first
    | with_reducible assumption
    | with_reducible apply setMailbox_keeps
    | dsimp only

theorem classWrite_keeps {z0 : State} (s : State) (b : Blk) (i : Nat) (off : Nat) (v : Word) (h_ : Keeps z0 s) : Keeps z0 (classWrite s b i off v).1 := by
  unfold classWrite
  repeat' first
    | with_reducible assumption
    | exact Eq.refl _
    | with_reducible apply Keeps.ite
    | with_reducible apply Keeps.ite_fst
    | with_reducible apply scClear_keeps
    | with_reducible apply regSet_keeps
    | split
    | dsimp only

theorem takeSrcCfg_keeps {z0 : State} (s : State) (path : Nat) (v : Nat) (h_ : Keeps z0 s) : Keeps z0 (takeSrcCfg s path v) := by
  unfold takeSrcCfg
  repeat' first
    | with_reducible assumption
    | exact Eq.refl _
    | with_reducible apply Keeps.ite
    | with_reducible apply accessFault_keeps
    | with_reducible apply modSource_keeps
    | split
    | refine Keeps.snd (by assumption) ?_
    | dsimp only

theorem takeStaged_keeps {z0 : State} (s : State) (f : Nat) (k : Nat) (v : Word) (h_ : Keeps z0 s) : Keeps z0 (takeStaged s f k v).1 := by
  unfold takeStaged
  repeat' first
    | with_reducible assumption
    | exact Eq.refl _
    | with_reducible apply Keeps.ite
    | with_reducible apply Keeps.ite_fst
    | with_reducible apply modBay_keeps
    | split
    | dsimp only

theorem followSequencer_keeps {z0 : State} (s : State) (h_ : Keeps z0 s) : Keeps z0 (followSequencer s) := by
  unfold followSequencer
  repeat' first
    | with_reducible assumption
    | intro _
    | with_reducible apply Keeps.ite
    | with_reducible apply wakeDevice_keeps
    | with_reducible apply wakeFlume_keeps
    | with_reducible apply forAll_keeps
    | split
    | dsimp only

theorem takeLanCtl_keeps {z0 : State} (s : State) (l : Nat) (v : Nat) (h_ : Keeps z0 s) : Keeps z0 (takeLanCtl s l v) := by
  unfold takeLanCtl
  repeat' first
    | with_reducible assumption
    | exact Eq.refl _
    | with_reducible apply Keeps.ite
    | with_reducible apply holdTaps_keeps
    | with_reducible apply modLane_keeps
    | with_reducible apply regSet_keeps
    | split
    | dsimp only

theorem takeLetCtl_keeps {z0 : State} (s : State) (k : Nat) (v : Nat) (h_ : Keeps z0 s) : Keeps z0 (takeLetCtl s k v) := by
  unfold takeLetCtl
  repeat' first
    | with_reducible assumption
    | with_reducible apply Keeps.ite
    | with_reducible apply regSet_keeps
    | with_reducible apply portDown_keeps
    | split
    | dsimp only

theorem takeWord_keeps {z0 : State} (s : State) (path : Nat) (off : Nat) (v : Word) (loop : LoopRes) (h_ : Keeps z0 s) : Keeps z0 (takeWord s path off v loop).1 := by
  unfold takeWord
  repeat' first
    | with_reducible assumption
    | intro _
    | exact Eq.refl _
    | with_reducible apply Keeps.ite
    | with_reducible apply Keeps.ite_fst
    | with_reducible apply classWrite_keeps
    | with_reducible apply takeFltClear_keeps
    | with_reducible apply takeSrcCfg_keeps
    | with_reducible apply takeHold_keeps
    | with_reducible apply takeCommit_keeps
    | with_reducible apply takeSelect_keeps
    | with_reducible apply doorbell_keeps
    | with_reducible apply takeTail_keeps
    | with_reducible apply takeHead_keeps
    | with_reducible apply takeRunReq_keeps
    | with_reducible apply followSequencer_keeps
    | with_reducible apply takeFusCmd_keeps
    | with_reducible apply takeFlmCtl_keeps
    | with_reducible apply modFlume_keeps
    | with_reducible apply updateWeir_keeps
    | with_reducible apply takeMapApply_keeps
    | with_reducible apply takeTrnCtl_keeps
    | with_reducible apply takeTrnCmd_keeps
    | with_reducible apply takeStaged_keeps
    | with_reducible apply takeMilCtl_keeps
    | with_reducible apply takeRngCmd_keeps
    | with_reducible apply takeLetCtl_keeps
    | with_reducible apply takePage_keeps
    | with_reducible apply takeLanCtl_keeps
    | with_reducible apply takePrbsCtl_keeps
    | with_reducible apply takeScanCmd_keeps
    | split
    | dsimp only

theorem takeWords_keeps {z0 : State} (s : State) (path : Nat) (off : Nat) (ws : List Word) (loop : LoopRes) (h_ : Keeps z0 s) : Keeps z0 (takeWords s path off ws loop) := by
  unfold takeWords
  repeat' first
    | with_reducible assumption
    | intro _
    | with_reducible apply Keeps.ite
    | with_reducible apply takeWord_keeps
    | with_reducible apply accessFault_keeps
    | with_reducible apply Keeps.foldl
    | with_reducible apply Keeps.foldl_snd2
    | with_reducible apply Keeps.foldl_snd
    | with_reducible apply Keeps.foldl_fst
    | split
    | refine Keeps.snd (by assumption) ?_
    | dsimp only

theorem arriveWrite_keeps {z0 : State} (s : State) (path : Nat) (off : Nat) (ws : List Word) (env : StartEnv) (h_ : Keeps z0 s) : Keeps z0 (arriveWrite s path off ws env) := by
  unfold arriveWrite
  repeat' first
    | with_reducible assumption
    | intro _
    | exact Eq.refl _
    | with_reducible apply Keeps.ite
    | with_reducible apply setPosted_keeps
    | with_reducible apply takeReset_keeps
    | with_reducible apply takeWords_keeps
    | with_reducible apply accessFault_keeps
    | with_reducible apply wakePort_keeps
    | with_reducible apply Keeps.foldl
    | with_reducible apply Keeps.foldl_snd2
    | with_reducible apply Keeps.foldl_snd
    | with_reducible apply Keeps.foldl_fst
    | split
    | dsimp only
    | with_reducible apply Keeps.raw

theorem writeAccess_keeps {z0 : State} (s : State) (path : Nat) (off : Nat) (data : List Byte) (env : StartEnv) (h_ : Keeps z0 s) : Keeps z0 (writeAccess s path off data env) := by
  unfold writeAccess
  repeat' first
    | with_reducible assumption
    | exact Eq.refl _
    | with_reducible apply Keeps.ite
    | with_reducible apply accessFault_keeps
    | with_reducible apply arriveWrite_keeps
    | split
    | dsimp only

theorem readAccess_keeps {z0 : State} (s : State) (path : Nat) (off : Nat) (n : Nat) (h_ : Keeps z0 s) : Keeps z0 (readAccess s path off n).1 := by
  unfold readAccess
  repeat' first
    | with_reducible assumption
    | with_reducible apply Keeps.ite
    | with_reducible apply Keeps.ite_fst
    | with_reducible apply accessFault_keeps
    | split
    | dsimp only

/-! The meanings: on elements that exist, each answers a next state. -/

theorem execGuardHold_runs (path : Nat) (v : Word) (s : State) (w_ : (Instr.guardHold path v).wf = true) : Runs s (execGuardHold path v s) := by
  unfold execGuardHold
  repeat' first
    | with_reducible assumption
    | with_reducible exact Keeps.refl _
    | with_reducible apply Runs.next
    | with_reducible apply Runs.ite
    | (with_reducible apply Runs.onElement; (first | assumption | simp_all [Instr.wf, okPath]))
    | with_reducible apply Keeps.ite
    | with_reducible apply takeHold_keeps
    | split
    | dsimp only

theorem execGuardCommit_runs (path : Nat) (s : State) (w_ : (Instr.guardCommit path).wf = true) : Runs s (execGuardCommit path s) := by
  unfold execGuardCommit
  repeat' first
    | with_reducible assumption
    | with_reducible exact Keeps.refl _
    | with_reducible apply Runs.next
    | with_reducible apply Runs.ite
    | (with_reducible apply Runs.onElement; (first | assumption | simp_all [Instr.wf, okPath]))
    | with_reducible apply Keeps.ite
    | with_reducible apply takeCommit_keeps
    | split
    | dsimp only

theorem execGuardCommitDone_runs (s : State) : Runs s (execGuardCommitDone s) := by
  unfold execGuardCommitDone
  repeat' first
    | with_reducible assumption
    | with_reducible exact Keeps.refl _
    | with_reducible apply Runs.next
    | with_reducible apply Runs.ite
    | exact Eq.refl _
    | with_reducible apply Keeps.ite
    | split
    | dsimp only
    | with_reducible apply Keeps.raw

theorem execGuardSweep_runs (s : State) : Runs s (execGuardSweep s) := by
  unfold execGuardSweep
  repeat' first
    | with_reducible assumption
    | with_reducible exact Keeps.refl _
    | with_reducible apply Runs.next
    | with_reducible apply Runs.ite
    | exact Eq.refl _
    | with_reducible apply Keeps.ite
    | with_reducible apply guardCompare_keeps
    | split
    | dsimp only
    | with_reducible apply Keeps.raw

theorem execGuardHoldExpiry_runs (s : State) : Runs s (execGuardHoldExpiry s) := by
  unfold execGuardHoldExpiry
  repeat' first
    | with_reducible assumption
    | with_reducible exact Keeps.refl _
    | with_reducible apply Runs.next
    | with_reducible apply Runs.ite
    | exact Eq.refl _
    | with_reducible apply Keeps.ite
    | with_reducible apply event_keeps
    | with_reducible apply scEvent_keeps
    | split
    | dsimp only
    | with_reducible apply Keeps.raw

theorem execMailboxSelect_runs (path : Nat) (v : Word) (s : State) (w_ : (Instr.mailboxSelect path v).wf = true) : Runs s (execMailboxSelect path v s) := by
  unfold execMailboxSelect
  repeat' first
    | with_reducible assumption
    | with_reducible exact Keeps.refl _
    | with_reducible apply Runs.next
    | with_reducible apply Runs.ite
    | (with_reducible apply Runs.onElement; (first | assumption | simp_all [Instr.wf, okPath]))
    | with_reducible apply Keeps.ite
    | with_reducible apply takeSelect_keeps
    | split
    | dsimp only

theorem execMailboxCaptureDone_runs (path : Nat) (tallyOk : Bool) (s : State) (w_ : (Instr.mailboxCaptureDone path tallyOk).wf = true) : Runs s (execMailboxCaptureDone path tallyOk s) := by
  unfold execMailboxCaptureDone
  repeat' first
    | with_reducible assumption
    | with_reducible exact Keeps.refl _
    | with_reducible apply Runs.next
    | with_reducible apply Runs.ite
    | (with_reducible apply Runs.onElement; (first | assumption | simp_all [Instr.wf, okPath]))
    | exact Eq.refl _
    | with_reducible apply Keeps.ite
    | with_reducible apply setMailbox_keeps
    | with_reducible apply checkFail_keeps
    | split
    | dsimp only

theorem execRegisterWrite_runs (path : Nat) (off : Nat) (data : List Byte) (env : StartEnv) (s : State) (w_ : (Instr.registerWrite path off data env).wf = true) : Runs s (execRegisterWrite path off data env s) := by
  unfold execRegisterWrite
  repeat' first
    | with_reducible assumption
    | with_reducible exact Keeps.refl _
    | with_reducible apply Runs.next
    | with_reducible apply Runs.ite
    | (with_reducible apply Runs.onElement; (first | assumption | simp_all [Instr.wf, okPath]))
    | with_reducible apply Keeps.ite
    | with_reducible apply writeAccess_keeps
    | split
    | dsimp only

theorem execPostedWriteTaken_runs (block : Nat) (loop : LoopRes) (s : State) (w_ : (Instr.postedWriteTaken block loop).wf = true) : Runs s (execPostedWriteTaken block loop s) := by
  unfold execPostedWriteTaken
  repeat' first
    | with_reducible assumption
    | with_reducible exact Keeps.refl _
    | with_reducible apply Runs.next
    | with_reducible apply Runs.ite
    | (with_reducible apply Runs.onElement; (first | assumption | simp_all [Instr.wf]))
    | exact Eq.refl _
    | with_reducible apply Keeps.ite
    | with_reducible apply setPosted_keeps
    | with_reducible apply takeWords_keeps
    | split
    | dsimp only
    | with_reducible apply Keeps.raw

theorem execRegisterReadTimeout_runs (path : Nat) (off : Nat) (s : State) (w_ : (Instr.registerReadTimeout path off).wf = true) : Runs s (execRegisterReadTimeout path off s) := by
  unfold execRegisterReadTimeout
  repeat' first
    | with_reducible assumption
    | with_reducible exact Keeps.refl _
    | with_reducible apply Runs.next
    | with_reducible apply Runs.ite
    | (with_reducible apply Runs.onElement; (first | assumption | simp_all [Instr.wf, okPath]))
    | exact Eq.refl _
    | with_reducible apply Keeps.ite
    | with_reducible apply accessFault_keeps
    | with_reducible apply emit_keeps
    | split
    | dsimp only

theorem execSequenceWriteBack_runs (path : Nat) (off : Nat) (v : Word) (s : State) (w_ : (Instr.sequenceWriteBack path off v).wf = true) : Runs s (execSequenceWriteBack path off v s) := by
  unfold execSequenceWriteBack
  repeat' first
    | with_reducible assumption
    | with_reducible exact Keeps.refl _
    | with_reducible apply Runs.next
    | with_reducible apply Runs.ite
    | (with_reducible apply Runs.onElement; (first | assumption | simp_all [Instr.wf, okPath]))
    | intro _
    | exact Eq.refl _
    | with_reducible apply Keeps.ite
    | with_reducible apply scClear_keeps
    | with_reducible apply writeNow_keeps
    | split
    | dsimp only

end Sys2Proof.Machine
end

