-- ==== Sys2Proof/Laws/KeepsSideband.lean ====
section
/-! SUPPORT. What the operations of Machine/Sideband.lean keep. -/

set_option Elab.async false

namespace Sys2Proof.Machine

theorem framingError_keeps {z0 : State} (s : State) (h_ : Keeps z0 s) : Keeps z0 (framingError s) := by
  unfold framingError
  repeat' first
    | with_reducible assumption
    | with_reducible apply accessFault_keeps
    | dsimp only

theorem setUpRead_keeps {z0 : State} (s : State) (off : Nat) (words : Nat) (h_ : Keeps z0 s) : Keeps z0 (setUpRead s off words) := by
  unfold setUpRead
  repeat' first
    | with_reducible assumption
    | exact Eq.refl _
    | with_reducible apply readAccess_keeps
    | dsimp only
    | with_reducible apply Keeps.raw

theorem privateWrite_keeps {z0 : State} (s : State) (data : List Byte) (write : Nat → State) (h_ : Keeps z0 s) (hf_ : ∀ a0, Keeps z0 (write a0)) : Keeps z0 (privateWrite s data write) := by
  unfold privateWrite
  repeat' first
    | with_reducible assumption
    | intro _
    | exact Eq.refl _
    | with_reducible apply hf_
    | with_reducible apply Keeps.ite
    | with_reducible apply framingError_keeps
    | with_reducible apply setUpRead_keeps
    | split
    | dsimp only

/-! The meanings: on elements that exist, each answers a next state. -/

theorem execEntdaa_runs (target : Nat) (addr : Nat) (s : State) (w_ : (Instr.entdaa target addr).wf = true) : Runs s (execEntdaa target addr s) := by
  unfold execEntdaa
  repeat' first
    | with_reducible assumption
    | with_reducible exact Keeps.refl _
    | with_reducible apply Runs.next
    | with_reducible apply Runs.ite
    | (with_reducible apply Runs.onElement; (first | assumption | simp_all [Instr.wf]))
    | exact Eq.refl _
    | with_reducible apply Keeps.ite
    | with_reducible apply emit_keeps
    | split
    | dsimp only
    | with_reducible apply Keeps.raw

theorem execHotJoin_runs (target : Nat) (s : State) (w_ : (Instr.hotJoin target).wf = true) : Runs s (execHotJoin target s) := by
  unfold execHotJoin
  repeat' first
    | with_reducible assumption
    | with_reducible exact Keeps.refl _
    | with_reducible apply Runs.next
    | with_reducible apply Runs.ite
    | (with_reducible apply Runs.onElement; (first | assumption | simp_all [Instr.wf]))
    | with_reducible apply Keeps.ite
    | with_reducible apply emit_keeps
    | split
    | dsimp only

theorem execTargetResetPattern_runs (s : State) : Runs s (execTargetResetPattern s) := by
  unfold execTargetResetPattern
  repeat' first
    | with_reducible assumption
    | with_reducible exact Keeps.refl _
    | with_reducible apply Runs.next
    | with_reducible apply Runs.ite
    | exact Eq.refl _
    | with_reducible apply Keeps.ite
    | split
    | dsimp only
    | with_reducible apply Keeps.raw

theorem execSidebandWrite_runs (data : List Byte) (env : StartEnv) (s : State) : Runs s (execSidebandWrite data env s) := by
  unfold execSidebandWrite
  repeat' first
    | with_reducible assumption
    | with_reducible exact Keeps.refl _
    | with_reducible apply Runs.next
    | with_reducible apply Runs.ite
    | intro _
    | with_reducible apply Keeps.ite
    | with_reducible apply privateWrite_keeps
    | with_reducible apply writeAccess_keeps
    | split
    | dsimp only

theorem execSidebandReadSetup_runs (data : List Byte) (s : State) : Runs s (execSidebandReadSetup data s) := by
  unfold execSidebandReadSetup
  repeat' first
    | with_reducible assumption
    | with_reducible exact Keeps.refl _
    | with_reducible apply Runs.next
    | with_reducible apply Runs.ite
    | intro _
    | with_reducible apply Keeps.ite
    | with_reducible apply privateWrite_keeps
    | split
    | dsimp only

theorem execSidebandRead_runs (words : Nat) (s : State) : Runs s (execSidebandRead words s) := by
  unfold execSidebandRead
  repeat' first
    | with_reducible assumption
    | with_reducible exact Keeps.refl _
    | with_reducible apply Runs.next
    | with_reducible apply Runs.ite
    | exact Eq.refl _
    | with_reducible apply Keeps.ite
    | with_reducible apply emit_keeps
    | split
    | dsimp only
    | with_reducible apply Keeps.raw

theorem execLifetimeCounterUpdate_runs (ok : Bool) (s : State) : Runs s (execLifetimeCounterUpdate ok s) := by
  unfold execLifetimeCounterUpdate
  repeat' first
    | with_reducible assumption
    | with_reducible exact Keeps.refl _
    | with_reducible apply Runs.next
    | with_reducible apply Runs.ite
    | intro _
    | exact Eq.refl _
    | with_reducible apply Keeps.ite
    | with_reducible apply tallyFail_keeps
    | with_reducible apply putLife_keeps
    | with_reducible apply Keeps.foldl
    | with_reducible apply Keeps.foldl_snd
    | split
    | dsimp only
    | with_reducible apply Keeps.raw

end Sys2Proof.Machine
end

