-- ==== Sys2Proof/Laws/KeepsResponder.lean ====
section
/-! SUPPORT. What the operations of Machine/Responder.lean keep. -/

set_option Elab.async false

namespace Sys2Proof.Machine

theorem answer_keeps {z0 : State} (s : State) (r : Nat) (code : Nat) (data : List Byte) (h_ : Keeps z0 s) : Keeps z0 (answer s r code data) := by
  unfold answer
  repeat' first
    | with_reducible assumption
    | exact Eq.refl _
    | with_reducible apply Keeps.ite
    | with_reducible apply emit_keeps
    | with_reducible apply modHead_keeps
    | split
    | dsimp only

theorem spdmError_keeps {z0 : State} (s : State) (r : Nat) (code : Nat) (h_ : Keeps z0 s) : Keeps z0 (spdmError s r code) := by
  unfold spdmError
  repeat' first
    | with_reducible assumption
    | with_reducible apply answer_keeps
    | dsimp only

theorem sayVersion_keeps {z0 : State} (s : State) (r : Nat) (h_ : Keeps z0 s) : Keeps z0 (sayVersion s r) := by
  unfold sayVersion
  repeat' first
    | with_reducible assumption
    | with_reducible apply answer_keeps
    | dsimp only

theorem sayCapabilities_keeps {z0 : State} (s : State) (r : Nat) (h_ : Keeps z0 s) : Keeps z0 (sayCapabilities s r) := by
  unfold sayCapabilities
  repeat' first
    | with_reducible assumption
    | with_reducible apply answer_keeps
    | dsimp only

theorem sayAlgorithms_keeps {z0 : State} (s : State) (r : Nat) (offers : Bool) (h_ : Keeps z0 s) : Keeps z0 (sayAlgorithms s r offers) := by
  unfold sayAlgorithms
  repeat' first
    | with_reducible assumption
    | with_reducible apply Keeps.ite
    | with_reducible apply answer_keeps
    | split
    | dsimp only

theorem sayDigests_keeps {z0 : State} (s : State) (r : Nat) (h_ : Keeps z0 s) : Keeps z0 (sayDigests s r) := by
  unfold sayDigests
  repeat' first
    | with_reducible assumption
    | with_reducible apply Keeps.ite
    | with_reducible apply answer_keeps
    | with_reducible apply spdmError_keeps
    | split
    | dsimp only

theorem sayCertificate_keeps {z0 : State} (s : State) (r : Nat) (slot : Nat) (off : Nat) (len : Nat) (h_ : Keeps z0 s) : Keeps z0 (sayCertificate s r slot off len) := by
  unfold sayCertificate
  repeat' first
    | with_reducible assumption
    | with_reducible apply Keeps.ite
    | with_reducible apply spdmError_keeps
    | with_reducible apply answer_keeps
    | split
    | dsimp only

theorem sayChallenge_keeps {z0 : State} (s : State) (r : Nat) (slot : Nat) (h_ : Keeps z0 s) : Keeps z0 (sayChallenge s r slot) := by
  unfold sayChallenge
  repeat' first
    | with_reducible assumption
    | with_reducible apply Keeps.ite
    | with_reducible apply spdmError_keeps
    | with_reducible apply bumpFree_keeps
    | with_reducible apply answer_keeps
    | split
    | dsimp only

theorem sayMeasurements_keeps {z0 : State} (s : State) (r : Nat) (op : Nat) (sign : Bool) (h_ : Keeps z0 s) : Keeps z0 (sayMeasurements s r op sign) := by
  unfold sayMeasurements
  repeat' first
    | with_reducible assumption
    | with_reducible apply Keeps.ite
    | with_reducible apply spdmError_keeps
    | with_reducible apply bumpFree_keeps
    | with_reducible apply answer_keeps
    | split
    | dsimp only

theorem refuseSession_keeps {z0 : State} (s : State) (r : Nat) (h_ : Keeps z0 s) : Keeps z0 (refuseSession s r) := by
  unfold refuseSession
  repeat' first
    | with_reducible assumption
    | with_reducible apply spdmError_keeps
    | dsimp only

theorem doeAnswer_keeps {z0 : State} (s : State) (h : Nat) (type : Nat) (data : List Nat) (h_ : Keeps z0 s) : Keeps z0 (doeAnswer s h type data) := by
  unfold doeAnswer
  repeat' first
    | with_reducible assumption
    | exact Eq.refl _
    | with_reducible apply Keeps.ite
    | with_reducible apply emit_keeps
    | with_reducible apply modHead_keeps
    | split
    | dsimp only

theorem mailAnswer_keeps {z0 : State} (s : State) (h : Nat) (code : Nat) (data : List Nat) (h_ : Keeps z0 s) : Keeps z0 (mailAnswer s h code data) := by
  unfold mailAnswer
  repeat' first
    | with_reducible assumption
    | with_reducible apply Keeps.ite
    | with_reducible apply emit_keeps
    | split
    | dsimp only

theorem mailChange_keeps {z0 : State} (s : State) (h : Nat) (g : Head → Head) (h_ : Keeps z0 s) : Keeps z0 (mailChange s h g) := by
  unfold mailChange
  repeat' first
    | with_reducible assumption
    | with_reducible apply Keeps.ite
    | with_reducible apply mailAnswer_keeps
    | with_reducible apply modHead_keeps
    | split
    | dsimp only

/-! The meanings: on elements that exist, each answers a next state. -/

theorem ask_runs (s : State) (r : Nat) (say : State → State) (w_ : r < 5) (hf_ : ∀ t, Keeps s t → Keeps s (say t)) :
    Runs s (ask s r say) := by
  unfold ask
  exact Runs.onElement (by simpa using w_) (.next (Keeps.ite (hf_ s (.refl s)) (.refl s)))

theorem execGetVersion_runs (rsp : Nat) (s : State) (w_ : (Instr.getVersion rsp).wf = true) : Runs s (execGetVersion rsp s) := by
  unfold execGetVersion
  repeat' first
    | with_reducible assumption
    | with_reducible exact Keeps.refl _
    | with_reducible apply Runs.next
    | with_reducible apply Runs.ite
    | (with_reducible apply Runs.onElement; (first | assumption | simp_all [Instr.wf]))
    | (with_reducible apply ask_runs; (first | assumption | simp_all [Instr.wf]))
    | intro _
    | with_reducible apply Keeps.ite
    | with_reducible apply sayVersion_keeps
    | split
    | dsimp only

theorem execGetCapabilities_runs (rsp : Nat) (s : State) (w_ : (Instr.getCapabilities rsp).wf = true) : Runs s (execGetCapabilities rsp s) := by
  unfold execGetCapabilities
  repeat' first
    | with_reducible assumption
    | with_reducible exact Keeps.refl _
    | with_reducible apply Runs.next
    | with_reducible apply Runs.ite
    | (with_reducible apply Runs.onElement; (first | assumption | simp_all [Instr.wf]))
    | (with_reducible apply ask_runs; (first | assumption | simp_all [Instr.wf]))
    | intro _
    | with_reducible apply Keeps.ite
    | with_reducible apply sayCapabilities_keeps
    | split
    | dsimp only

theorem execNegotiateAlgorithms_runs (rsp : Nat) (offers : Bool) (s : State) (w_ : (Instr.negotiateAlgorithms rsp offers).wf = true) : Runs s (execNegotiateAlgorithms rsp offers s) := by
  unfold execNegotiateAlgorithms
  repeat' first
    | with_reducible assumption
    | with_reducible exact Keeps.refl _
    | with_reducible apply Runs.next
    | with_reducible apply Runs.ite
    | (with_reducible apply Runs.onElement; (first | assumption | simp_all [Instr.wf]))
    | (with_reducible apply ask_runs; (first | assumption | simp_all [Instr.wf]))
    | intro _
    | with_reducible apply Keeps.ite
    | with_reducible apply sayAlgorithms_keeps
    | split
    | dsimp only

theorem execGetDigests_runs (rsp : Nat) (s : State) (w_ : (Instr.getDigests rsp).wf = true) : Runs s (execGetDigests rsp s) := by
  unfold execGetDigests
  repeat' first
    | with_reducible assumption
    | with_reducible exact Keeps.refl _
    | with_reducible apply Runs.next
    | with_reducible apply Runs.ite
    | (with_reducible apply Runs.onElement; (first | assumption | simp_all [Instr.wf]))
    | (with_reducible apply ask_runs; (first | assumption | simp_all [Instr.wf]))
    | intro _
    | with_reducible apply Keeps.ite
    | with_reducible apply sayDigests_keeps
    | split
    | dsimp only

theorem execGetCertificate_runs (rsp : Nat) (slot : Nat) (off : Nat) (len : Nat) (s : State) (w_ : (Instr.getCertificate rsp slot off len).wf = true) : Runs s (execGetCertificate rsp slot off len s) := by
  unfold execGetCertificate
  repeat' first
    | with_reducible assumption
    | with_reducible exact Keeps.refl _
    | with_reducible apply Runs.next
    | with_reducible apply Runs.ite
    | (with_reducible apply Runs.onElement; (first | assumption | simp_all [Instr.wf]))
    | (with_reducible apply ask_runs; (first | assumption | simp_all [Instr.wf]))
    | intro _
    | with_reducible apply Keeps.ite
    | with_reducible apply sayCertificate_keeps
    | split
    | dsimp only

theorem execChallenge_runs (rsp : Nat) (slot : Nat) (_nonce : BitVec 256) (s : State) (w_ : (Instr.challenge rsp slot _nonce).wf = true) : Runs s (execChallenge rsp slot _nonce s) := by
  unfold execChallenge
  repeat' first
    | with_reducible assumption
    | with_reducible exact Keeps.refl _
    | with_reducible apply Runs.next
    | with_reducible apply Runs.ite
    | (with_reducible apply Runs.onElement; (first | assumption | simp_all [Instr.wf]))
    | (with_reducible apply ask_runs; (first | assumption | simp_all [Instr.wf]))
    | intro _
    | with_reducible apply Keeps.ite
    | with_reducible apply sayChallenge_keeps
    | split
    | dsimp only

theorem execGetMeasurements_runs (rsp : Nat) (op : Nat) (signed : Bool) (_nonce : BitVec 256) (s : State) (w_ : (Instr.getMeasurements rsp op signed _nonce).wf = true) : Runs s (execGetMeasurements rsp op signed _nonce s) := by
  unfold execGetMeasurements
  repeat' first
    | with_reducible assumption
    | with_reducible exact Keeps.refl _
    | with_reducible apply Runs.next
    | with_reducible apply Runs.ite
    | (with_reducible apply Runs.onElement; (first | assumption | simp_all [Instr.wf]))
    | (with_reducible apply ask_runs; (first | assumption | simp_all [Instr.wf]))
    | intro _
    | with_reducible apply Keeps.ite
    | with_reducible apply sayMeasurements_keeps
    | split
    | dsimp only

theorem execKeyExchange_runs (rsp : Nat) (s : State) (w_ : (Instr.keyExchange rsp).wf = true) : Runs s (execKeyExchange rsp s) := by
  unfold execKeyExchange
  repeat' first
    | with_reducible assumption
    | with_reducible exact Keeps.refl _
    | with_reducible apply Runs.next
    | with_reducible apply Runs.ite
    | (with_reducible apply Runs.onElement; (first | assumption | simp_all [Instr.wf]))
    | (with_reducible apply ask_runs; (first | assumption | simp_all [Instr.wf]))
    | intro _
    | with_reducible apply Keeps.ite
    | with_reducible apply refuseSession_keeps
    | split
    | dsimp only

theorem execMctpMessage_runs (msg : SpdmReq) (s : State) : Runs s (execMctpMessage msg s) := by
  unfold execMctpMessage
  repeat' first
    | with_reducible assumption
    | with_reducible exact Keeps.refl _
    | with_reducible apply Runs.next
    | with_reducible apply Runs.ite
    | (with_reducible apply Runs.onElement; (first | assumption | simp_all [Instr.wf]))
    | (with_reducible apply ask_runs; (first | assumption | simp_all [Instr.wf]))
    | intro _
    | exact Eq.refl _
    | with_reducible apply Keeps.ite
    | with_reducible apply sayVersion_keeps
    | with_reducible apply sayCapabilities_keeps
    | with_reducible apply sayAlgorithms_keeps
    | with_reducible apply sayDigests_keeps
    | with_reducible apply sayCertificate_keeps
    | with_reducible apply sayChallenge_keeps
    | with_reducible apply sayMeasurements_keeps
    | with_reducible apply refuseSession_keeps
    | split
    | dsimp only

theorem execDoeAbort_runs (h : Nat) (s : State) (w_ : (Instr.doeAbort h).wf = true) : Runs s (execDoeAbort h s) := by
  unfold execDoeAbort
  repeat' first
    | with_reducible assumption
    | with_reducible exact Keeps.refl _
    | with_reducible apply Runs.next
    | with_reducible apply Runs.ite
    | (with_reducible apply Runs.onElement; (first | assumption | simp_all [Instr.wf, okHead]))
    | exact Eq.refl _
    | with_reducible apply Keeps.ite
    | with_reducible apply modHead_keeps
    | split
    | dsimp only

theorem execDoeDiscovery_runs (h : Nat) (index : Nat) (s : State) (w_ : (Instr.doeDiscovery h index).wf = true) : Runs s (execDoeDiscovery h index s) := by
  unfold execDoeDiscovery
  repeat' first
    | with_reducible assumption
    | with_reducible exact Keeps.refl _
    | with_reducible apply Runs.next
    | with_reducible apply Runs.ite
    | (with_reducible apply Runs.onElement; (first | assumption | simp_all [Instr.wf, okHead]))
    | exact Eq.refl _
    | with_reducible apply Keeps.ite
    | with_reducible apply doeAnswer_keeps
    | split
    | dsimp only

theorem execCdatRead_runs (h : Nat) (entry : Nat) (s : State) (w_ : (Instr.cdatRead h entry).wf = true) : Runs s (execCdatRead h entry s) := by
  unfold execCdatRead
  repeat' first
    | with_reducible assumption
    | with_reducible exact Keeps.refl _
    | with_reducible apply Runs.next
    | with_reducible apply Runs.ite
    | (with_reducible apply Runs.onElement; (first | assumption | simp_all [Instr.wf, okHead]))
    | with_reducible apply Keeps.ite
    | with_reducible apply doeAnswer_keeps
    | split
    | dsimp only

theorem execIdentify_runs (h : Nat) (s : State) (w_ : (Instr.identify h).wf = true) : Runs s (execIdentify h s) := by
  unfold execIdentify
  repeat' first
    | with_reducible assumption
    | with_reducible exact Keeps.refl _
    | with_reducible apply Runs.next
    | with_reducible apply Runs.ite
    | (with_reducible apply Runs.onElement; (first | assumption | simp_all [Instr.wf, okHead]))
    | with_reducible apply Keeps.ite
    | with_reducible apply mailAnswer_keeps
    | split
    | dsimp only

theorem execGetSupportedLogs_runs (h : Nat) (s : State) (w_ : (Instr.getSupportedLogs h).wf = true) : Runs s (execGetSupportedLogs h s) := by
  unfold execGetSupportedLogs
  repeat' first
    | with_reducible assumption
    | with_reducible exact Keeps.refl _
    | with_reducible apply Runs.next
    | with_reducible apply Runs.ite
    | (with_reducible apply Runs.onElement; (first | assumption | simp_all [Instr.wf, okHead]))
    | with_reducible apply Keeps.ite
    | with_reducible apply mailAnswer_keeps
    | split
    | dsimp only

theorem execGetLog_runs (h : Nat) (off : Nat) (len : Nat) (s : State) (w_ : (Instr.getLog h off len).wf = true) : Runs s (execGetLog h off len s) := by
  unfold execGetLog
  repeat' first
    | with_reducible assumption
    | with_reducible exact Keeps.refl _
    | with_reducible apply Runs.next
    | with_reducible apply Runs.ite
    | (with_reducible apply Runs.onElement; (first | assumption | simp_all [Instr.wf, okHead]))
    | with_reducible apply Keeps.ite
    | with_reducible apply mailAnswer_keeps
    | split
    | dsimp only

theorem execGetEventRecords_runs (h : Nat) (log : Nat) (s : State) (w_ : (Instr.getEventRecords h log).wf = true) : Runs s (execGetEventRecords h log s) := by
  unfold execGetEventRecords
  repeat' first
    | with_reducible assumption
    | with_reducible exact Keeps.refl _
    | with_reducible apply Runs.next
    | with_reducible apply Runs.ite
    | (with_reducible apply Runs.onElement; (first | assumption | simp_all [Instr.wf, okHead]))
    | with_reducible apply Keeps.ite
    | with_reducible apply mailAnswer_keeps
    | split
    | dsimp only

theorem execClearEventRecords_runs (h : Nat) (log : Nat) (handles : List Nat) (s : State) (w_ : (Instr.clearEventRecords h log handles).wf = true) : Runs s (execClearEventRecords h log handles s) := by
  unfold execClearEventRecords
  repeat' first
    | with_reducible assumption
    | with_reducible exact Keeps.refl _
    | with_reducible apply Runs.next
    | with_reducible apply Runs.ite
    | (with_reducible apply Runs.onElement; (first | assumption | simp_all [Instr.wf, okHead]))
    | exact Eq.refl _
    | with_reducible apply Keeps.ite
    | with_reducible apply mailAnswer_keeps
    | with_reducible apply modHead_keeps
    | split
    | dsimp only

theorem execGetEventInterruptPolicy_runs (h : Nat) (s : State) (w_ : (Instr.getEventInterruptPolicy h).wf = true) : Runs s (execGetEventInterruptPolicy h s) := by
  unfold execGetEventInterruptPolicy
  repeat' first
    | with_reducible assumption
    | with_reducible exact Keeps.refl _
    | with_reducible apply Runs.next
    | with_reducible apply Runs.ite
    | (with_reducible apply Runs.onElement; (first | assumption | simp_all [Instr.wf, okHead]))
    | with_reducible apply Keeps.ite
    | with_reducible apply mailAnswer_keeps
    | split
    | dsimp only

theorem execSetEventInterruptPolicy_runs (h : Nat) (pol : Word) (s : State) (w_ : (Instr.setEventInterruptPolicy h pol).wf = true) : Runs s (execSetEventInterruptPolicy h pol s) := by
  unfold execSetEventInterruptPolicy
  repeat' first
    | with_reducible assumption
    | with_reducible exact Keeps.refl _
    | with_reducible apply Runs.next
    | with_reducible apply Runs.ite
    | (with_reducible apply Runs.onElement; (first | assumption | simp_all [Instr.wf, okHead]))
    | exact Eq.refl _
    | with_reducible apply Keeps.ite
    | with_reducible apply mailChange_keeps
    | split
    | dsimp only

theorem execGetHealthInfo_runs (h : Nat) (s : State) (w_ : (Instr.getHealthInfo h).wf = true) : Runs s (execGetHealthInfo h s) := by
  unfold execGetHealthInfo
  repeat' first
    | with_reducible assumption
    | with_reducible exact Keeps.refl _
    | with_reducible apply Runs.next
    | with_reducible apply Runs.ite
    | (with_reducible apply Runs.onElement; (first | assumption | simp_all [Instr.wf, okHead]))
    | with_reducible apply Keeps.ite
    | with_reducible apply mailAnswer_keeps
    | split
    | dsimp only

theorem execIdentifyMemoryDevice_runs (h : Nat) (s : State) (w_ : (Instr.identifyMemoryDevice h).wf = true) : Runs s (execIdentifyMemoryDevice h s) := by
  unfold execIdentifyMemoryDevice
  repeat' first
    | with_reducible assumption
    | with_reducible exact Keeps.refl _
    | with_reducible apply Runs.next
    | with_reducible apply Runs.ite
    | (with_reducible apply Runs.onElement; (first | assumption | simp_all [Instr.wf, okHead]))
    | with_reducible apply Keeps.ite
    | with_reducible apply mailAnswer_keeps
    | split
    | dsimp only

theorem execGetMultiHeadedInfo_runs (h : Nat) (s : State) (w_ : (Instr.getMultiHeadedInfo h).wf = true) : Runs s (execGetMultiHeadedInfo h s) := by
  unfold execGetMultiHeadedInfo
  repeat' first
    | with_reducible assumption
    | with_reducible exact Keeps.refl _
    | with_reducible apply Runs.next
    | with_reducible apply Runs.ite
    | (with_reducible apply Runs.onElement; (first | assumption | simp_all [Instr.wf, okHead]))
    | with_reducible apply Keeps.ite
    | with_reducible apply mailAnswer_keeps
    | split
    | dsimp only

theorem execGetTimestamp_runs (h : Nat) (s : State) (w_ : (Instr.getTimestamp h).wf = true) : Runs s (execGetTimestamp h s) := by
  unfold execGetTimestamp
  repeat' first
    | with_reducible assumption
    | with_reducible exact Keeps.refl _
    | with_reducible apply Runs.next
    | with_reducible apply Runs.ite
    | (with_reducible apply Runs.onElement; (first | assumption | simp_all [Instr.wf, okHead]))
    | with_reducible apply Keeps.ite
    | with_reducible apply mailAnswer_keeps
    | split
    | dsimp only

theorem execSetTimestamp_runs (h : Nat) (ts : BitVec 64) (s : State) (w_ : (Instr.setTimestamp h ts).wf = true) : Runs s (execSetTimestamp h ts s) := by
  unfold execSetTimestamp
  repeat' first
    | with_reducible assumption
    | with_reducible exact Keeps.refl _
    | with_reducible apply Runs.next
    | with_reducible apply Runs.ite
    | (with_reducible apply Runs.onElement; (first | assumption | simp_all [Instr.wf, okHead]))
    | exact Eq.refl _
    | with_reducible apply Keeps.ite
    | with_reducible apply mailChange_keeps
    | split
    | dsimp only

theorem execUnsupportedMailboxCommand_runs (h : Nat) (_opcode : Nat) (s : State) (w_ : (Instr.unsupportedMailboxCommand h _opcode).wf = true) : Runs s (execUnsupportedMailboxCommand h _opcode s) := by
  unfold execUnsupportedMailboxCommand
  repeat' first
    | with_reducible assumption
    | with_reducible exact Keeps.refl _
    | with_reducible apply Runs.next
    | with_reducible apply Runs.ite
    | (with_reducible apply Runs.onElement; (first | assumption | simp_all [Instr.wf, okHead]))
    | with_reducible apply Keeps.ite
    | with_reducible apply mailAnswer_keeps
    | split
    | dsimp only

end Sys2Proof.Machine
end

