-- ==== Sys2Proof/Laws/Registers.lean ====
section
/-! SUPPORT. What a write of one register word does to the register table. -/

set_option Elab.async false

namespace Sys2Proof.Machine

theorem regGet_regSet_self (s : State) (off : Nat) (v : Word) (w : regsWf s.regs) : regGet (regSet s off v) off = v :=
  tabGet_tabSet_pairwise (regReset off) s.regs off v w.1

theorem regGet_regSet_ne (s : State) {off o : Nat} (h : o ≠ off) (v : Word) : regGet (regSet s off v) o = regGet s o := by
  unfold regSet regGet tabSet
  dsimp only
  split
  · exact tabGet_tabDel_ne (regReset o) s.regs h
  · exact tabGet_tabPut_ne (regReset o) s.regs v h

/-- A status register's event leaves everything but its own word as it was. -/
theorem scEvent_frame (s : State) (off : Nat) (f : Nat → Nat) : ∃ t, scEvent s off f = { s with regs := t } := ⟨_, rfl⟩

end Sys2Proof.Machine
end

