-- ==== Sys2Proof/Laws/Within.lean ====
section
/-! SUPPORT. Which parts of the state an operation can change: its others are as before. -/

namespace Sys2Proof.Machine

/-- What every part outside a set, given by the bits of `w`, is left as: it was. -/
structure Within (w : Nat) (s t : State) : Prop where
  now : t.now = s.now
  pending : t.pending = s.pending
  out : w.testBit 0 = false → t.out = s.out
  freeCtr : w.testBit 1 = false → t.freeCtr = s.freeCtr
  regs : w.testBit 2 = false → t.regs = s.regs
  mem : w.testBit 3 = false → t.mem = s.mem
  lost : w.testBit 4 = false → t.lost = s.lost
  flumes : w.testBit 5 = false → t.flumes = s.flumes
  subs : w.testBit 6 = false → t.subs = s.subs
  bays : w.testBit 7 = false → t.bays = s.bays
  banks : w.testBit 8 = false → t.banks = s.banks
  regions : w.testBit 9 = false → t.regions = s.regions
  badRegions : w.testBit 10 = false → t.badRegions = s.badRegions
  heads : w.testBit 11 = false → t.heads = s.heads
  pairs : w.testBit 12 = false → t.pairs = s.pairs
  descs : w.testBit 13 = false → t.descs = s.descs
  nextDesc : w.testBit 14 = false → t.nextDesc = s.nextDesc
  parts : w.testBit 15 = false → t.parts = s.parts
  nextPart : w.testBit 16 = false → t.nextPart = s.nextPart
  partStore : w.testBit 17 = false → t.partStore = s.partStore
  rr : w.testBit 18 = false → t.rr = s.rr
  grants : w.testBit 19 = false → t.grants = s.grants
  mills : w.testBit 20 = false → t.mills = s.mills
  lanes : w.testBit 21 = false → t.lanes = s.lanes
  leat : w.testBit 22 = false → t.leat = s.leat
  tally : w.testBit 23 = false → t.tally = s.tally
  fuses : w.testBit 24 = false → t.fuses = s.fuses
  flt : w.testBit 25 = false → t.flt = s.flt
  acc : w.testBit 26 = false → t.acc = s.acc
  thm : w.testBit 27 = false → t.thm = s.thm
  pwr : w.testBit 28 = false → t.pwr = s.pwr
  bist : w.testBit 29 = false → t.bist = s.bist
  boot : w.testBit 30 = false → t.boot = s.boot
  side : w.testBit 31 = false → t.side = s.side

theorem Within.refl (w : Nat) (s : State) : Within w s s := by
  constructor <;> intros <;> rfl

theorem subIn {a b w : Nat} (h : a ||| b = b) (k : b ||| w = w) : a ||| w = w := by
  rw [← k, ← Nat.or_assoc, h]

theorem bitIn {a w i : Nat} (h : a ||| w = w) (k : a.testBit i = true) : w.testBit i = true := by
  rw [← h, Nat.testBit_or, k, Bool.true_or]

variable {w : Nat} {u s : State}

theorem eqOf {α : Type} {b : Bool} {x y z : α} (e : b = true ∨ x = y) (h : b = false → y = z) (k : b = false) : x = z := by
  rcases e with e | e
  · rw [k] at e; cases e
  · exact e.trans (h k)

/-- An update of the state: each part changed is in the set. -/
theorem Within.raw {x0 : List Out} {x1 : Nat} {x2 : Tab Word} {x3 : List Host.Cell} {x4 : Nat} {x5 : Tab Flume} {x6 : Tab SubChan} {x7 : Tab Bay} {x8 : Tab Bank} {x9 : Tab (BitVec 128)} {x10 : List Nat} {x11 : Tab Head} {x12 : Tab Pair} {x13 : Tab (Option Desc)} {x14 : Nat} {x15 : Tab (Option Part)} {x16 : Nat} {x17 : List Nat} {x18 : Nat} {x19 : Tab Nat} {x20 : Tab Mill} {x21 : Tab Lane} {x22 : Leat} {x23 : Tally} {x24 : Fuses} {x25 : Collector} {x26 : Access} {x27 : Thermal} {x28 : Power} {x29 : Bist} {x30 : Boot} {x31 : Sideband}
    (h : Within w u s) (e0 : w.testBit 0 = true ∨ x0 = s.out) (e1 : w.testBit 1 = true ∨ x1 = s.freeCtr) (e2 : w.testBit 2 = true ∨ x2 = s.regs) (e3 : w.testBit 3 = true ∨ x3 = s.mem) (e4 : w.testBit 4 = true ∨ x4 = s.lost) (e5 : w.testBit 5 = true ∨ x5 = s.flumes) (e6 : w.testBit 6 = true ∨ x6 = s.subs) (e7 : w.testBit 7 = true ∨ x7 = s.bays) (e8 : w.testBit 8 = true ∨ x8 = s.banks) (e9 : w.testBit 9 = true ∨ x9 = s.regions) (e10 : w.testBit 10 = true ∨ x10 = s.badRegions) (e11 : w.testBit 11 = true ∨ x11 = s.heads) (e12 : w.testBit 12 = true ∨ x12 = s.pairs) (e13 : w.testBit 13 = true ∨ x13 = s.descs) (e14 : w.testBit 14 = true ∨ x14 = s.nextDesc) (e15 : w.testBit 15 = true ∨ x15 = s.parts) (e16 : w.testBit 16 = true ∨ x16 = s.nextPart) (e17 : w.testBit 17 = true ∨ x17 = s.partStore) (e18 : w.testBit 18 = true ∨ x18 = s.rr) (e19 : w.testBit 19 = true ∨ x19 = s.grants) (e20 : w.testBit 20 = true ∨ x20 = s.mills) (e21 : w.testBit 21 = true ∨ x21 = s.lanes) (e22 : w.testBit 22 = true ∨ x22 = s.leat) (e23 : w.testBit 23 = true ∨ x23 = s.tally) (e24 : w.testBit 24 = true ∨ x24 = s.fuses) (e25 : w.testBit 25 = true ∨ x25 = s.flt) (e26 : w.testBit 26 = true ∨ x26 = s.acc) (e27 : w.testBit 27 = true ∨ x27 = s.thm) (e28 : w.testBit 28 = true ∨ x28 = s.pwr) (e29 : w.testBit 29 = true ∨ x29 = s.bist) (e30 : w.testBit 30 = true ∨ x30 = s.boot) (e31 : w.testBit 31 = true ∨ x31 = s.side) :
    Within w u ⟨s.now, s.pending, x0, x1, x2, x3, x4, x5, x6, x7, x8, x9, x10, x11, x12, x13, x14, x15, x16, x17, x18, x19, x20, x21, x22, x23, x24, x25, x26, x27, x28, x29, x30, x31⟩ where
  now := h.now
  pending := h.pending
  out := eqOf e0 h.out
  freeCtr := eqOf e1 h.freeCtr
  regs := eqOf e2 h.regs
  mem := eqOf e3 h.mem
  lost := eqOf e4 h.lost
  flumes := eqOf e5 h.flumes
  subs := eqOf e6 h.subs
  bays := eqOf e7 h.bays
  banks := eqOf e8 h.banks
  regions := eqOf e9 h.regions
  badRegions := eqOf e10 h.badRegions
  heads := eqOf e11 h.heads
  pairs := eqOf e12 h.pairs
  descs := eqOf e13 h.descs
  nextDesc := eqOf e14 h.nextDesc
  parts := eqOf e15 h.parts
  nextPart := eqOf e16 h.nextPart
  partStore := eqOf e17 h.partStore
  rr := eqOf e18 h.rr
  grants := eqOf e19 h.grants
  mills := eqOf e20 h.mills
  lanes := eqOf e21 h.lanes
  leat := eqOf e22 h.leat
  tally := eqOf e23 h.tally
  fuses := eqOf e24 h.fuses
  flt := eqOf e25 h.flt
  acc := eqOf e26 h.acc
  thm := eqOf e27 h.thm
  pwr := eqOf e28 h.pwr
  bist := eqOf e29 h.bist
  boot := eqOf e30 h.boot
  side := eqOf e31 h.side

theorem Within.ite {c : Prop} [Decidable c] {a b : State} (ha : Within w u a) (hb : Within w u b) : Within w u (if c then a else b) := by
  split
  · exact ha
  · exact hb

theorem Within.foldl {α : Type} {f : State → α → State} (l : List α) : ∀ {s : State}, Within w u s →
    (∀ t x, Within w u t → Within w u (f t x)) → Within w u (l.foldl f s) := by
  induction l with
  | nil => exact fun h _ => h
  | cons x l ih => exact fun h hf => ih (hf _ x h) hf

theorem forAll_within {ks : List Nat} {g : State → Nat → State} (h : Within w u s) (hg : ∀ t k, Within w u t → Within w u (g t k)) :
    Within w u (forAll s ks g) := Within.foldl ks h hg

theorem Within.foldl_snd {α β : Type} {f : β × State → α → β × State} (l : List α) : ∀ {a : β × State}, Within w u a.2 →
    (∀ t x, Within w u t.2 → Within w u (f t x).2) → Within w u (l.foldl f a).2 := by
  induction l with
  | nil => exact fun h _ => h
  | cons x l ih => exact fun h hf => ih (hf _ x h) hf

theorem Within.foldl_snd2 {α β γ : Type} {f : β × γ × State → α → β × γ × State} (l : List α) : ∀ {a : β × γ × State},
    Within w u a.2.2 → (∀ t x, Within w u t.2.2 → Within w u (f t x).2.2) → Within w u (l.foldl f a).2.2 := by
  induction l with
  | nil => exact fun h _ => h
  | cons x l ih => exact fun h hf => ih (hf _ x h) hf

theorem Within.foldl_fst {α β : Type} {f : State × β → α → State × β} (l : List α) : ∀ {a : State × β}, Within w u a.1 →
    (∀ t x, Within w u t.1 → Within w u (f t x).1) → Within w u (l.foldl f a).1 := by
  induction l with
  | nil => exact fun h _ => h
  | cons x l ih => exact fun h hf => ih (hf _ x h) hf

theorem Within.ite_fst {β : Type} {c : Prop} [Decidable c] {a b : State × β} (ha : Within w u a.1) (hb : Within w u b.1) :
    Within w u (if c then a else b).1 := by
  split
  · exact ha
  · exact hb

theorem Within.snd {α : Type} {p : α × State} {a : α} {t : State} (e : p = (a, t)) (h : Within w u p.2) : Within w u t := by
  subst e; exact h

/-- Every next state that a meaning answers has changed only parts of the set. -/
def Touches (w : Nat) (s : State) (a : Answer) : Prop := ∀ t, a = .next t → Within w s t

theorem Touches.next {t : State} (h : Within w s t) : Touches w s (.next t) := fun _ e => by cases e; exact h

theorem Touches.onElement {ok : Bool} {k : Answer} (h : Touches w s k) : Touches w s (onElement ok k) := by
  cases ok
  · intro t e; cases e
  · exact h

theorem Touches.ite {c : Prop} [Decidable c] {a b : Answer} (ha : Touches w s a) (hb : Touches w s b) :
    Touches w s (if c then a else b) := by
  split
  · exact ha
  · exact hb

/-! The updates of the arrays. -/

theorem modFlume_within {f : Nat} {g : Flume → Flume} (m_ : 32 ||| w = w) (h : Within w u s) : Within w u (modFlume s f g) :=
  Within.raw (s := s) h (.inr rfl) (.inr rfl) (.inr rfl) (.inr rfl) (.inr rfl) (.inl (bitIn m_ rfl)) (.inr rfl) (.inr rfl) (.inr rfl) (.inr rfl) (.inr rfl) (.inr rfl) (.inr rfl) (.inr rfl) (.inr rfl) (.inr rfl) (.inr rfl) (.inr rfl) (.inr rfl) (.inr rfl) (.inr rfl) (.inr rfl) (.inr rfl) (.inr rfl) (.inr rfl) (.inr rfl) (.inr rfl) (.inr rfl) (.inr rfl) (.inr rfl) (.inr rfl) (.inr rfl)

theorem modSub_within {k : Nat} {g : SubChan → SubChan} (m_ : 64 ||| w = w) (h : Within w u s) : Within w u (modSub s k g) :=
  Within.raw (s := s) h (.inr rfl) (.inr rfl) (.inr rfl) (.inr rfl) (.inr rfl) (.inr rfl) (.inl (bitIn m_ rfl)) (.inr rfl) (.inr rfl) (.inr rfl) (.inr rfl) (.inr rfl) (.inr rfl) (.inr rfl) (.inr rfl) (.inr rfl) (.inr rfl) (.inr rfl) (.inr rfl) (.inr rfl) (.inr rfl) (.inr rfl) (.inr rfl) (.inr rfl) (.inr rfl) (.inr rfl) (.inr rfl) (.inr rfl) (.inr rfl) (.inr rfl) (.inr rfl) (.inr rfl)

theorem modBay_within {k : Nat} {g : Bay → Bay} (m_ : 128 ||| w = w) (h : Within w u s) : Within w u (modBay s k g) :=
  Within.raw (s := s) h (.inr rfl) (.inr rfl) (.inr rfl) (.inr rfl) (.inr rfl) (.inr rfl) (.inr rfl) (.inl (bitIn m_ rfl)) (.inr rfl) (.inr rfl) (.inr rfl) (.inr rfl) (.inr rfl) (.inr rfl) (.inr rfl) (.inr rfl) (.inr rfl) (.inr rfl) (.inr rfl) (.inr rfl) (.inr rfl) (.inr rfl) (.inr rfl) (.inr rfl) (.inr rfl) (.inr rfl) (.inr rfl) (.inr rfl) (.inr rfl) (.inr rfl) (.inr rfl) (.inr rfl)

theorem modBank_within {k : Nat} {g : Bank → Bank} (m_ : 256 ||| w = w) (h : Within w u s) : Within w u (modBank s k g) :=
  Within.raw (s := s) h (.inr rfl) (.inr rfl) (.inr rfl) (.inr rfl) (.inr rfl) (.inr rfl) (.inr rfl) (.inr rfl) (.inl (bitIn m_ rfl)) (.inr rfl) (.inr rfl) (.inr rfl) (.inr rfl) (.inr rfl) (.inr rfl) (.inr rfl) (.inr rfl) (.inr rfl) (.inr rfl) (.inr rfl) (.inr rfl) (.inr rfl) (.inr rfl) (.inr rfl) (.inr rfl) (.inr rfl) (.inr rfl) (.inr rfl) (.inr rfl) (.inr rfl) (.inr rfl) (.inr rfl)

theorem modHead_within {k : Nat} {g : Head → Head} (m_ : 2048 ||| w = w) (h : Within w u s) : Within w u (modHead s k g) :=
  Within.raw (s := s) h (.inr rfl) (.inr rfl) (.inr rfl) (.inr rfl) (.inr rfl) (.inr rfl) (.inr rfl) (.inr rfl) (.inr rfl) (.inr rfl) (.inr rfl) (.inl (bitIn m_ rfl)) (.inr rfl) (.inr rfl) (.inr rfl) (.inr rfl) (.inr rfl) (.inr rfl) (.inr rfl) (.inr rfl) (.inr rfl) (.inr rfl) (.inr rfl) (.inr rfl) (.inr rfl) (.inr rfl) (.inr rfl) (.inr rfl) (.inr rfl) (.inr rfl) (.inr rfl) (.inr rfl)

theorem modPair_within {k : Nat} {g : Pair → Pair} (m_ : 4096 ||| w = w) (h : Within w u s) : Within w u (modPair s k g) :=
  Within.raw (s := s) h (.inr rfl) (.inr rfl) (.inr rfl) (.inr rfl) (.inr rfl) (.inr rfl) (.inr rfl) (.inr rfl) (.inr rfl) (.inr rfl) (.inr rfl) (.inr rfl) (.inl (bitIn m_ rfl)) (.inr rfl) (.inr rfl) (.inr rfl) (.inr rfl) (.inr rfl) (.inr rfl) (.inr rfl) (.inr rfl) (.inr rfl) (.inr rfl) (.inr rfl) (.inr rfl) (.inr rfl) (.inr rfl) (.inr rfl) (.inr rfl) (.inr rfl) (.inr rfl) (.inr rfl)

theorem putDesc_within {d : Nat} {x : Option Desc} (m_ : 8192 ||| w = w) (h : Within w u s) : Within w u (putDesc s d x) :=
  Within.raw (s := s) h (.inr rfl) (.inr rfl) (.inr rfl) (.inr rfl) (.inr rfl) (.inr rfl) (.inr rfl) (.inr rfl) (.inr rfl) (.inr rfl) (.inr rfl) (.inr rfl) (.inr rfl) (.inl (bitIn m_ rfl)) (.inr rfl) (.inr rfl) (.inr rfl) (.inr rfl) (.inr rfl) (.inr rfl) (.inr rfl) (.inr rfl) (.inr rfl) (.inr rfl) (.inr rfl) (.inr rfl) (.inr rfl) (.inr rfl) (.inr rfl) (.inr rfl) (.inr rfl) (.inr rfl)

theorem modDesc_within {d : Nat} {g : Desc → Desc} (m_ : 8192 ||| w = w) (h : Within w u s) : Within w u (modDesc s d g) :=
  Within.raw (s := s) h (.inr rfl) (.inr rfl) (.inr rfl) (.inr rfl) (.inr rfl) (.inr rfl) (.inr rfl) (.inr rfl) (.inr rfl) (.inr rfl) (.inr rfl) (.inr rfl) (.inr rfl) (.inl (bitIn m_ rfl)) (.inr rfl) (.inr rfl) (.inr rfl) (.inr rfl) (.inr rfl) (.inr rfl) (.inr rfl) (.inr rfl) (.inr rfl) (.inr rfl) (.inr rfl) (.inr rfl) (.inr rfl) (.inr rfl) (.inr rfl) (.inr rfl) (.inr rfl) (.inr rfl)

theorem putPart_within {p : Nat} {x : Option Part} (m_ : 32768 ||| w = w) (h : Within w u s) : Within w u (putPart s p x) :=
  Within.raw (s := s) h (.inr rfl) (.inr rfl) (.inr rfl) (.inr rfl) (.inr rfl) (.inr rfl) (.inr rfl) (.inr rfl) (.inr rfl) (.inr rfl) (.inr rfl) (.inr rfl) (.inr rfl) (.inr rfl) (.inr rfl) (.inl (bitIn m_ rfl)) (.inr rfl) (.inr rfl) (.inr rfl) (.inr rfl) (.inr rfl) (.inr rfl) (.inr rfl) (.inr rfl) (.inr rfl) (.inr rfl) (.inr rfl) (.inr rfl) (.inr rfl) (.inr rfl) (.inr rfl) (.inr rfl)

theorem modPart_within {p : Nat} {g : Part → Part} (m_ : 32768 ||| w = w) (h : Within w u s) : Within w u (modPart s p g) :=
  Within.raw (s := s) h (.inr rfl) (.inr rfl) (.inr rfl) (.inr rfl) (.inr rfl) (.inr rfl) (.inr rfl) (.inr rfl) (.inr rfl) (.inr rfl) (.inr rfl) (.inr rfl) (.inr rfl) (.inr rfl) (.inr rfl) (.inl (bitIn m_ rfl)) (.inr rfl) (.inr rfl) (.inr rfl) (.inr rfl) (.inr rfl) (.inr rfl) (.inr rfl) (.inr rfl) (.inr rfl) (.inr rfl) (.inr rfl) (.inr rfl) (.inr rfl) (.inr rfl) (.inr rfl) (.inr rfl)

theorem modMill_within {k : Nat} {g : Mill → Mill} (m_ : 1048576 ||| w = w) (h : Within w u s) : Within w u (modMill s k g) :=
  Within.raw (s := s) h (.inr rfl) (.inr rfl) (.inr rfl) (.inr rfl) (.inr rfl) (.inr rfl) (.inr rfl) (.inr rfl) (.inr rfl) (.inr rfl) (.inr rfl) (.inr rfl) (.inr rfl) (.inr rfl) (.inr rfl) (.inr rfl) (.inr rfl) (.inr rfl) (.inr rfl) (.inr rfl) (.inl (bitIn m_ rfl)) (.inr rfl) (.inr rfl) (.inr rfl) (.inr rfl) (.inr rfl) (.inr rfl) (.inr rfl) (.inr rfl) (.inr rfl) (.inr rfl) (.inr rfl)

theorem modLane_within {k : Nat} {g : Lane → Lane} (m_ : 2097152 ||| w = w) (h : Within w u s) : Within w u (modLane s k g) :=
  Within.raw (s := s) h (.inr rfl) (.inr rfl) (.inr rfl) (.inr rfl) (.inr rfl) (.inr rfl) (.inr rfl) (.inr rfl) (.inr rfl) (.inr rfl) (.inr rfl) (.inr rfl) (.inr rfl) (.inr rfl) (.inr rfl) (.inr rfl) (.inr rfl) (.inr rfl) (.inr rfl) (.inr rfl) (.inr rfl) (.inl (bitIn m_ rfl)) (.inr rfl) (.inr rfl) (.inr rfl) (.inr rfl) (.inr rfl) (.inr rfl) (.inr rfl) (.inr rfl) (.inr rfl) (.inr rfl)

theorem modLeat_within {g : Leat → Leat} (m_ : 4194304 ||| w = w) (h : Within w u s) : Within w u (modLeat s g) :=
  Within.raw (s := s) h (.inr rfl) (.inr rfl) (.inr rfl) (.inr rfl) (.inr rfl) (.inr rfl) (.inr rfl) (.inr rfl) (.inr rfl) (.inr rfl) (.inr rfl) (.inr rfl) (.inr rfl) (.inr rfl) (.inr rfl) (.inr rfl) (.inr rfl) (.inr rfl) (.inr rfl) (.inr rfl) (.inr rfl) (.inr rfl) (.inl (bitIn m_ rfl)) (.inr rfl) (.inr rfl) (.inr rfl) (.inr rfl) (.inr rfl) (.inr rfl) (.inr rfl) (.inr rfl) (.inr rfl)

theorem modPort_within {k : Nat} {g : Port → Port} (m_ : 4194304 ||| w = w) (h : Within w u s) : Within w u (modPort s k g) :=
  Within.raw (s := s) h (.inr rfl) (.inr rfl) (.inr rfl) (.inr rfl) (.inr rfl) (.inr rfl) (.inr rfl) (.inr rfl) (.inr rfl) (.inr rfl) (.inr rfl) (.inr rfl) (.inr rfl) (.inr rfl) (.inr rfl) (.inr rfl) (.inr rfl) (.inr rfl) (.inr rfl) (.inr rfl) (.inr rfl) (.inr rfl) (.inl (bitIn m_ rfl)) (.inr rfl) (.inr rfl) (.inr rfl) (.inr rfl) (.inr rfl) (.inr rfl) (.inr rfl) (.inr rfl) (.inr rfl)

theorem modSource_within {k : Nat} {g : Source → Source} (m_ : 33554432 ||| w = w) (h : Within w u s) : Within w u (modSource s k g) :=
  Within.raw (s := s) h (.inr rfl) (.inr rfl) (.inr rfl) (.inr rfl) (.inr rfl) (.inr rfl) (.inr rfl) (.inr rfl) (.inr rfl) (.inr rfl) (.inr rfl) (.inr rfl) (.inr rfl) (.inr rfl) (.inr rfl) (.inr rfl) (.inr rfl) (.inr rfl) (.inr rfl) (.inr rfl) (.inr rfl) (.inr rfl) (.inr rfl) (.inr rfl) (.inr rfl) (.inl (bitIn m_ rfl)) (.inr rfl) (.inr rfl) (.inr rfl) (.inr rfl) (.inr rfl) (.inr rfl)

theorem emit_within {o : Out} (m_ : 1 ||| w = w) (h : Within w u s) : Within w u (emit s o) :=
  Within.raw (s := s) h (.inl (bitIn m_ rfl)) (.inr rfl) (.inr rfl) (.inr rfl) (.inr rfl) (.inr rfl) (.inr rfl) (.inr rfl) (.inr rfl) (.inr rfl) (.inr rfl) (.inr rfl) (.inr rfl) (.inr rfl) (.inr rfl) (.inr rfl) (.inr rfl) (.inr rfl) (.inr rfl) (.inr rfl) (.inr rfl) (.inr rfl) (.inr rfl) (.inr rfl) (.inr rfl) (.inr rfl) (.inr rfl) (.inr rfl) (.inr rfl) (.inr rfl) (.inr rfl) (.inr rfl)

theorem bumpFree_within (m_ : 2 ||| w = w) (h : Within w u s) : Within w u (bumpFree s) :=
  Within.raw (s := s) h (.inr rfl) (.inl (bitIn m_ rfl)) (.inr rfl) (.inr rfl) (.inr rfl) (.inr rfl) (.inr rfl) (.inr rfl) (.inr rfl) (.inr rfl) (.inr rfl) (.inr rfl) (.inr rfl) (.inr rfl) (.inr rfl) (.inr rfl) (.inr rfl) (.inr rfl) (.inr rfl) (.inr rfl) (.inr rfl) (.inr rfl) (.inr rfl) (.inr rfl) (.inr rfl) (.inr rfl) (.inr rfl) (.inr rfl) (.inr rfl) (.inr rfl) (.inr rfl) (.inr rfl)

theorem setCells_within {k v : Nat} (m_ : 8 ||| w = w) (h : Within w u s) : Within w u (setCells s k v) :=
  Within.raw (s := s) h (.inr rfl) (.inr rfl) (.inr rfl) (.inl (bitIn m_ rfl)) (.inr rfl) (.inr rfl) (.inr rfl) (.inr rfl) (.inr rfl) (.inr rfl) (.inr rfl) (.inr rfl) (.inr rfl) (.inr rfl) (.inr rfl) (.inr rfl) (.inr rfl) (.inr rfl) (.inr rfl) (.inr rfl) (.inr rfl) (.inr rfl) (.inr rfl) (.inr rfl) (.inr rfl) (.inr rfl) (.inr rfl) (.inr rfl) (.inr rfl) (.inr rfl) (.inr rfl) (.inr rfl)

theorem regSet_within {off : Nat} {v : Word} (m_ : 4 ||| w = w) (h : Within w u s) : Within w u (regSet s off v) :=
  Within.raw (s := s) h (.inr rfl) (.inr rfl) (.inl (bitIn m_ rfl)) (.inr rfl) (.inr rfl) (.inr rfl) (.inr rfl) (.inr rfl) (.inr rfl) (.inr rfl) (.inr rfl) (.inr rfl) (.inr rfl) (.inr rfl) (.inr rfl) (.inr rfl) (.inr rfl) (.inr rfl) (.inr rfl) (.inr rfl) (.inr rfl) (.inr rfl) (.inr rfl) (.inr rfl) (.inr rfl) (.inr rfl) (.inr rfl) (.inr rfl) (.inr rfl) (.inr rfl) (.inr rfl) (.inr rfl)

/-! The parts by name. -/

/-- The bit of a part. -/
def Field.num : Field → Nat
  | .out => 0
  | .freeCtr => 1
  | .regs => 2
  | .mem => 3
  | .lost => 4
  | .flumes => 5
  | .subs => 6
  | .bays => 7
  | .banks => 8
  | .regions => 9
  | .badRegions => 10
  | .heads => 11
  | .pairs => 12
  | .descs => 13
  | .nextDesc => 14
  | .parts => 15
  | .nextPart => 16
  | .partStore => 17
  | .rr => 18
  | .grants => 19
  | .mills => 20
  | .lanes => 21
  | .leat => 22
  | .tally => 23
  | .fuses => 24
  | .flt => 25
  | .acc => 26
  | .thm => 27
  | .pwr => 28
  | .bist => 29
  | .boot => 30
  | .side => 31

theorem Field.num_inj {j k : Field} (h : j.num = k.num) : j = k := by
  cases j <;> cases k <;> first | rfl | (simp [Field.num] at h)

/-- The set of a list of parts. -/
def fieldBits : List Field → Nat
  | [] => 0
  | k :: l => 2 ^ k.num ||| fieldBits l

theorem testBit_fieldBits {k : Field} : ∀ {l : List Field}, k ∉ l → (fieldBits l).testBit k.num = false
  | [], _ => by simp [fieldBits]
  | j :: l, h => by
    rw [List.mem_cons, not_or] at h
    have hn : j.num ≠ k.num := fun e => h.1 (Field.num_inj e).symm
    rw [fieldBits, Nat.testBit_or, testBit_fieldBits h.2, Nat.testBit_two_pow, Bool.or_false, decide_eq_false hn]

/-- A part outside the set is as it was. -/
theorem Within.same {t : State} (h : Within w s t) (k : Field) (hk : w.testBit k.num = false) : k.same s t := by
  cases k
  · exact h.out hk
  · exact h.freeCtr hk
  · exact h.regs hk
  · exact h.mem hk
  · exact h.lost hk
  · exact h.flumes hk
  · exact h.subs hk
  · exact h.bays hk
  · exact h.banks hk
  · exact h.regions hk
  · exact h.badRegions hk
  · exact h.heads hk
  · exact h.pairs hk
  · exact h.descs hk
  · exact h.nextDesc hk
  · exact h.parts hk
  · exact h.nextPart hk
  · exact h.partStore hk
  · exact h.rr hk
  · exact h.grants hk
  · exact h.mills hk
  · exact h.lanes hk
  · exact h.leat hk
  · exact h.tally hk
  · exact h.fuses hk
  · exact h.flt hk
  · exact h.acc hk
  · exact h.thm hk
  · exact h.pwr hk
  · exact h.bist hk
  · exact h.boot hk
  · exact h.side hk

end Sys2Proof.Machine
end

