-- ==== Sys2Proof/Laws/WithinRegs.lean ====
section
/-! SUPPORT. Which parts of the state the operations of Machine/Regs.lean can change. -/

set_option Elab.async false

namespace Sys2Proof.Machine

theorem regPut_within {w_ : Nat} (m_ : 4 ||| w_ = w_) {z0 : State} (s : State) (off : Nat) (hi : Nat) (lo : Nat) (v : Nat) (h_ : Within w_ z0 s) : Within w_ z0 (regPut s off hi lo v) := by
  unfold regPut
  repeat' first
    | with_reducible assumption
    | with_reducible apply regSet_within (subIn (by decide) m_)
    | dsimp only

theorem scEvent_within {w_ : Nat} (m_ : 4 ||| w_ = w_) {z0 : State} (s : State) (off : Nat) (f : Nat → Nat) (h_ : Within w_ z0 s) : Within w_ z0 (scEvent s off f) := by
  unfold scEvent
  repeat' first
    | with_reducible assumption
    | with_reducible apply regSet_within (subIn (by decide) m_)
    | dsimp only

theorem scClear_within {w_ : Nat} (m_ : 4 ||| w_ = w_) {z0 : State} (s : State) (off : Nat) (clr : Nat) (v : Word) (h_ : Within w_ z0 s) : Within w_ z0 (scClear s off clr v) := by
  unfold scClear
  repeat' first
    | with_reducible assumption
    | with_reducible apply Within.ite
    | with_reducible apply regSet_within (subIn (by decide) m_)
    | split
    | dsimp only

end Sys2Proof.Machine
end

