-- ==== Sys2Proof/Laws/WithinMap.lean ====
section
/-! SUPPORT. Which parts of the state the operations of Machine/Map.lean can change. -/

set_option Elab.async false

namespace Sys2Proof.Machine

theorem overtake_within {w_ : Nat} (m_ : 64 ||| w_ = w_) {z0 : State} (s : State) (sub : Nat) (k : Nat) (h_ : Within w_ z0 s) : Within w_ z0 (overtake s sub k) := by
  unfold overtake
  repeat' first
    | with_reducible assumption
    | exact Eq.refl _
    | with_reducible apply Within.ite
    | with_reducible apply modSub_within (subIn (by decide) m_)
    | split
    | dsimp only

theorem setStored_within {w_ : Nat} (m_ : 104 ||| w_ = w_) {z0 : State} (s : State) (p : Place) (v : Nat) (h_ : Within w_ z0 s) : Within w_ z0 (setStored s p v) := by
  unfold setStored
  repeat' first
    | with_reducible assumption
    | exact Eq.refl _
    | with_reducible apply modFlume_within (subIn (by decide) m_)
    | with_reducible apply setCells_within (subIn (by decide) m_)
    | with_reducible apply overtake_within (subIn (by decide) m_)
    | split
    | dsimp only

theorem writePlace_within {w_ : Nat} (m_ : 104 ||| w_ = w_) {z0 : State} (s : State) (p : Place) (data : Nat) (md : Nat) (h_ : Within w_ z0 s) : Within w_ z0 (writePlace s p data md) := by
  unfold writePlace
  repeat' first
    | with_reducible assumption
    | with_reducible apply setStored_within (subIn (by decide) m_)
    | dsimp only

end Sys2Proof.Machine
end

