-- ==== Sys2Proof/Laws/WithinFlags.lean ====
section
/-! SUPPORT. Which parts of the state the operations of Machine/Flags.lean can change. -/

set_option Elab.async false

namespace Sys2Proof.Machine

theorem sendMsix_within {w_ : Nat} (m_ : 2049 ||| w_ = w_) {z0 : State} (s : State) (h : Nat) (v : Nat) (h_ : Within w_ z0 s) : Within w_ z0 (sendMsix s h v) := by
  unfold sendMsix
  repeat' first
    | with_reducible assumption
    | exact Eq.refl _
    | with_reducible apply Within.ite
    | with_reducible apply emit_within (subIn (by decide) m_)
    | with_reducible apply modHead_within (subIn (by decide) m_)
    | split
    | dsimp only

theorem addEvents_within {w_ : Nat} (m_ : 2048 ||| w_ = w_) {z0 : State} (s : State) (g : Nat) (i : Nat) (sev : Nat) (h_ : Within w_ z0 s) : Within w_ z0 (addEvents s g i sev) := by
  unfold addEvents
  repeat' first
    | with_reducible assumption
    | with_reducible intro _
    | exact Eq.refl _
    | with_reducible apply Within.ite
    | with_reducible apply modHead_within (subIn (by decide) m_)
    | with_reducible apply forAll_within
    | split
    | dsimp only

theorem latchMessages_within {w_ : Nat} (m_ : 2049 ||| w_ = w_) {z0 : State} (s : State) (sev : Nat) (h_ : Within w_ z0 s) : Within w_ z0 (latchMessages s sev) := by
  unfold latchMessages
  repeat' first
    | with_reducible assumption
    | with_reducible intro _
    | with_reducible apply Within.ite
    | with_reducible apply sendMsix_within (subIn (by decide) m_)
    | with_reducible apply emit_within (subIn (by decide) m_)
    | with_reducible apply forAll_within
    | split
    | dsimp only

theorem latchSource_within {w_ : Nat} (m_ : 33556481 ||| w_ = w_) {z0 : State} (s : State) (g : Nat) (i : Nat) (sev : Nat) (unit : Nat) (detail : Nat) (h_ : Within w_ z0 s) : Within w_ z0 (latchSource s g i sev unit detail) := by
  unfold latchSource
  repeat' first
    | with_reducible assumption
    | exact Eq.refl _
    | with_reducible apply Within.ite
    | with_reducible apply modSource_within (subIn (by decide) m_)
    | with_reducible apply latchMessages_within (subIn (by decide) m_)
    | with_reducible apply addEvents_within (subIn (by decide) m_)
    | split
    | dsimp only
    | with_reducible apply Within.raw
    | exact .inl (bitIn m_ (by decide))
    | exact .inr (Eq.refl _)

theorem countSource_within {w_ : Nat} (m_ : 33554432 ||| w_ = w_) {z0 : State} (s : State) (g : Nat) (i : Nat) (h_ : Within w_ z0 s) : Within w_ z0 (countSource s g i) := by
  unfold countSource
  repeat' first
    | with_reducible assumption
    | exact Eq.refl _
    | with_reducible apply Within.ite
    | with_reducible apply modSource_within (subIn (by decide) m_)
    | split
    | dsimp only

theorem event_within {w_ : Nat} (m_ : 33556481 ||| w_ = w_) {z0 : State} (s : State) (g : Nat) (i : Nat) (sev : Nat) (unit : Nat) (detail : Nat) (h_ : Within w_ z0 s) : Within w_ z0 (event s g i sev unit detail) := by
  unfold event
  repeat' first
    | with_reducible assumption
    | with_reducible apply Within.ite
    | with_reducible apply countSource_within (subIn (by decide) m_)
    | with_reducible apply latchSource_within (subIn (by decide) m_)
    | split
    | dsimp only

theorem setLine_within {w_ : Nat} (m_ : 33554432 ||| w_ = w_) {z0 : State} (s : State) (g : Nat) (i : Nat) (on : Bool) (h_ : Within w_ z0 s) : Within w_ z0 (setLine s g i on) := by
  unfold setLine
  repeat' first
    | with_reducible assumption
    | exact Eq.refl _
    | with_reducible apply Within.ite
    | with_reducible apply modSource_within (subIn (by decide) m_)
    | split
    | dsimp only

theorem accessFault_within {w_ : Nat} (m_ : 100665349 ||| w_ = w_) {z0 : State} (s : State) (path : Nat) (kind : Nat) (off : Nat) (h_ : Within w_ z0 s) : Within w_ z0 (accessFault s path kind off) := by
  unfold accessFault
  repeat' first
    | with_reducible assumption
    | exact Eq.refl _
    | with_reducible apply scEvent_within (subIn (by decide) m_)
    | with_reducible apply event_within (subIn (by decide) m_)
    | dsimp only
    | with_reducible apply Within.raw
    | exact .inl (bitIn m_ (by decide))
    | exact .inr (Eq.refl _)

theorem dmaOut_within {w_ : Nat} (m_ : 1 ||| w_ = w_) {z0 : State} (a0_ : Nat) : ∀ (a1_ : State) (a2_ : Nat) (a3_ : Nat) (a4_ : List Byte) (a5_ : Bool), Within w_ z0 a1_ → Within w_ z0 (dmaOut a0_ a1_ a2_ a3_ a4_ a5_) := by
  induction a0_ with
  | zero =>
    intro a1_ a2_ a3_ a4_ a5_ h_
    unfold dmaOut
    repeat' first
      | with_reducible assumption
      | with_reducible apply Within.ite
      | with_reducible apply emit_within (subIn (by decide) m_)
      | split
      | dsimp only
  | succ k_ ih_ =>
    intro a1_ a2_ a3_ a4_ a5_ h_
    unfold dmaOut
    repeat' first
      | with_reducible assumption
      | with_reducible apply ih_
      | with_reducible apply Within.ite
      | with_reducible apply emit_within (subIn (by decide) m_)
      | split
      | dsimp only

theorem aerLog_within {w_ : Nat} (m_ : 2049 ||| w_ = w_) {z0 : State} (s : State) (h : Nat) (b : Nat) (fatal : Bool) (h_ : Within w_ z0 s) : Within w_ z0 (aerLog s h b fatal) := by
  unfold aerLog
  repeat' first
    | with_reducible assumption
    | exact Eq.refl _
    | with_reducible apply Within.ite
    | with_reducible apply modHead_within (subIn (by decide) m_)
    | with_reducible apply emit_within (subIn (by decide) m_)
    | split
    | dsimp only

theorem tlpFault_within {w_ : Nat} (m_ : 33556481 ||| w_ = w_) {z0 : State} (s : State) (h : Nat) (e : TlpError) (h_ : Within w_ z0 s) : Within w_ z0 (tlpFault s h e) := by
  unfold tlpFault
  repeat' first
    | with_reducible assumption
    | exact Eq.refl _
    | with_reducible apply aerLog_within (subIn (by decide) m_)
    | with_reducible apply event_within (subIn (by decide) m_)
    | split
    | dsimp only

theorem returnCredits_within {w_ : Nat} (m_ : 2048 ||| w_ = w_) {z0 : State} (s : State) (h : Nat) (h_ : Within w_ z0 s) : Within w_ z0 (returnCredits s h) := by
  unfold returnCredits
  repeat' first
    | with_reducible assumption
    | exact Eq.refl _
    | with_reducible apply Within.ite
    | with_reducible apply modHead_within (subIn (by decide) m_)
    | split
    | dsimp only

theorem freeCredit_within {w_ : Nat} (m_ : 2048 ||| w_ = w_) {z0 : State} (s : State) (h : Nat) (write : Bool) (h_ : Within w_ z0 s) : Within w_ z0 (freeCredit s h write) := by
  unfold freeCredit
  repeat' first
    | with_reducible assumption
    | exact Eq.refl _
    | with_reducible apply Within.ite
    | with_reducible apply returnCredits_within (subIn (by decide) m_)
    | with_reducible apply modHead_within (subIn (by decide) m_)
    | split
    | dsimp only

theorem takeCredit_within {w_ : Nat} (m_ : 2048 ||| w_ = w_) {z0 : State} (s : State) (h : Nat) (write : Bool) (h_ : Within w_ z0 s) : Within w_ z0 (takeCredit s h write) := by
  unfold takeCredit
  repeat' first
    | with_reducible assumption
    | exact Eq.refl _
    | with_reducible apply Within.ite
    | with_reducible apply modHead_within (subIn (by decide) m_)
    | split
    | dsimp only

theorem sendS2m_within {w_ : Nat} (m_ : 2049 ||| w_ = w_) {z0 : State} (s : State) (h : Nat) (m : S2M) (h_ : Within w_ z0 s) : Within w_ z0 (sendS2m s h m) := by
  unfold sendS2m
  repeat' first
    | with_reducible assumption
    | exact Eq.refl _
    | with_reducible apply emit_within (subIn (by decide) m_)
    | with_reducible apply modHead_within (subIn (by decide) m_)
    | dsimp only

theorem holdS2m_within {w_ : Nat} (m_ : 2048 ||| w_ = w_) {z0 : State} (s : State) (h : Nat) (m : S2M) (h_ : Within w_ z0 s) : Within w_ z0 (holdS2m s h m) := by
  unfold holdS2m
  repeat' first
    | with_reducible assumption
    | exact Eq.refl _
    | with_reducible apply Within.ite
    | with_reducible apply modHead_within (subIn (by decide) m_)
    | split
    | dsimp only

theorem respond_within {w_ : Nat} (m_ : 2049 ||| w_ = w_) {z0 : State} (s : State) (h : Nat) (m : S2M) (h_ : Within w_ z0 s) : Within w_ z0 (respond s h m) := by
  unfold respond
  repeat' first
    | with_reducible assumption
    | with_reducible apply Within.ite
    | with_reducible apply sendS2m_within (subIn (by decide) m_)
    | with_reducible apply holdS2m_within (subIn (by decide) m_)
    | split
    | dsimp only

theorem drainResponses_within {w_ : Nat} (m_ : 2049 ||| w_ = w_) {z0 : State} (ms : List S2M) (s : State) (h : Nat) (h_ : Within w_ z0 s) : Within w_ z0 (drainResponses ms s h) := by
  unfold drainResponses
  repeat' first
    | with_reducible assumption
    | with_reducible intro _
    | with_reducible apply respond_within (subIn (by decide) m_)
    | with_reducible apply Within.foldl
    | with_reducible apply Within.foldl_snd2
    | with_reducible apply Within.foldl_snd
    | with_reducible apply Within.foldl_fst
    | dsimp only

theorem answerRead_within {w_ : Nat} (m_ : 2049 ||| w_ = w_) {z0 : State} (s : State) (h : Nat) (tag : Nat) (data : Nat) (poison : Bool) (md : Option Nat) (h_ : Within w_ z0 s) : Within w_ z0 (answerRead s h tag data poison md) := by
  unfold answerRead
  repeat' first
    | with_reducible assumption
    | with_reducible apply respond_within (subIn (by decide) m_)
    | dsimp only

theorem answerWrite_within {w_ : Nat} (m_ : 2049 ||| w_ = w_) {z0 : State} (s : State) (h : Nat) (tag : Nat) (h_ : Within w_ z0 s) : Within w_ z0 (answerWrite s h tag) := by
  unfold answerWrite
  repeat' first
    | with_reducible assumption
    | with_reducible apply respond_within (subIn (by decide) m_)
    | dsimp only

theorem bumpTotal_within {w_ : Nat} (m_ : 32 ||| w_ = w_) {z0 : State} (s : State) (f : Nat) (i : Nat) (h_ : Within w_ z0 s) : Within w_ z0 (bumpTotal s f i) := by
  unfold bumpTotal
  repeat' first
    | with_reducible assumption
    | exact Eq.refl _
    | with_reducible apply modFlume_within (subIn (by decide) m_)
    | dsimp only

theorem addTotal_within {w_ : Nat} (m_ : 32 ||| w_ = w_) {z0 : State} (s : State) (f : Nat) (i : Nat) (n : Nat) (h_ : Within w_ z0 s) : Within w_ z0 (addTotal s f i n) := by
  unfold addTotal
  repeat' first
    | with_reducible assumption
    | exact Eq.refl _
    | with_reducible apply modFlume_within (subIn (by decide) m_)
    | dsimp only

end Sys2Proof.Machine
end

