-- ==== Sys2Proof/Laws/WithinSweep.lean ====
section
/-! SUPPORT. Which parts of the state the operations of Machine/Sweep.lean can change. -/

set_option Elab.async false

namespace Sys2Proof.Machine



end Sys2Proof.Machine
end

