-- ==== Sys2Proof/Laws/WithinTally.lean ====
section
/-! SUPPORT. Which parts of the state the operations of Machine/Tally.lean can change. -/

set_option Elab.async false

namespace Sys2Proof.Machine

theorem tallyFail_within {w_ : Nat} (m_ : 33556485 ||| w_ = w_) {z0 : State} (s : State) (area : Nat) (h_ : Within w_ z0 s) : Within w_ z0 (tallyFail s area) := by
  unfold tallyFail
  repeat' first
    | with_reducible assumption
    | with_reducible apply event_within (subIn (by decide) m_)
    | with_reducible apply scEvent_within (subIn (by decide) m_)
    | dsimp only

theorem checkFail_within {w_ : Nat} (m_ : 33556485 ||| w_ = w_) {z0 : State} (s : State) (area : Nat) (h_ : Within w_ z0 s) : Within w_ z0 (checkFail s area) := by
  unfold checkFail
  repeat' first
    | with_reducible assumption
    | with_reducible apply event_within (subIn (by decide) m_)
    | with_reducible apply scEvent_within (subIn (by decide) m_)
    | dsimp only

theorem checkCopies_within {w_ : Nat} (m_ : 33556485 ||| w_ = w_) {z0 : State} {α : Type} (area : Nat) (s : State) (c : Option (Copies α)) (h_ : Within w_ z0 s) : Within w_ z0 (checkCopies area s c) := by
  unfold checkCopies
  repeat' first
    | with_reducible assumption
    | with_reducible intro _
    | exact Eq.refl _
    | with_reducible apply Within.ite
    | with_reducible apply checkFail_within (subIn (by decide) m_)
    | with_reducible apply forAll_within
    | split
    | dsimp only

theorem putLife_within {w_ : Nat} (m_ : 8388608 ||| w_ = w_) {z0 : State} (s : State) (l : LifeRec) (h_ : Within w_ z0 s) : Within w_ z0 (putLife s l) := by
  unfold putLife
  repeat' first
    | with_reducible assumption
    | exact Eq.refl _
    | dsimp only
    | with_reducible apply Within.raw
    | exact .inl (bitIn m_ (by decide))
    | exact .inr (Eq.refl _)

end Sys2Proof.Machine
end

