-- ==== Sys2Proof/Laws/WithinServe.lean ====
section
/-! SUPPORT. Which parts of the state the operations of Machine/Serve.lean can change. -/

set_option Elab.async false

namespace Sys2Proof.Machine

theorem finishDesc_within {w_ : Nat} (m_ : 8192 ||| w_ = w_) {z0 : State} (s : State) (d : Nat) (r : Result) (h_ : Within w_ z0 s) : Within w_ z0 (finishDesc s d r) := by
  unfold finishDesc
  repeat' first
    | with_reducible assumption
    | exact Eq.refl _
    | with_reducible apply modDesc_within (subIn (by decide) m_)
    | dsimp only

theorem finishWrite_within {w_ : Nat} (m_ : 2049 ||| w_ = w_) {z0 : State} (s : State) (dest : ReqFor) (h_ : Within w_ z0 s) : Within w_ z0 (finishWrite s dest) := by
  unfold finishWrite
  repeat' first
    | with_reducible assumption
    | exact Eq.refl _
    | with_reducible apply answerWrite_within (subIn (by decide) m_)
    | split
    | dsimp only

theorem completeRead_within {w_ : Nat} (m_ : 2081 ||| w_ = w_) {z0 : State} (s : State) (r : Req) (f : Nat) (data : Nat) (md : Nat) (poison : Bool) (h_ : Within w_ z0 s) : Within w_ z0 (completeRead s r f data md poison) := by
  unfold completeRead
  repeat' first
    | with_reducible assumption
    | exact Eq.refl _
    | with_reducible apply Within.ite
    | with_reducible apply bumpTotal_within (subIn (by decide) m_)
    | with_reducible apply answerRead_within (subIn (by decide) m_)
    | split
    | dsimp only

theorem grantTo_within {w_ : Nat} (m_ : 524288 ||| w_ = w_) {z0 : State} (s : State) (f : Nat) (m : Nat) (h_ : Within w_ z0 s) : Within w_ z0 (grantTo s f m) := by
  unfold grantTo
  repeat' first
    | with_reducible assumption
    | exact Eq.refl _
    | with_reducible apply Within.ite
    | split
    | dsimp only
    | with_reducible apply Within.raw
    | exact .inl (bitIn m_ (by decide))
    | exact .inr (Eq.refl _)

theorem regionCheck_within {w_ : Nat} (m_ : 33557505 ||| w_ = w_) {z0 : State} (s : State) (i : Nat) (ecc : EccCheck) (h_ : Within w_ z0 s) : Within w_ z0 (regionCheck s i ecc) := by
  unfold regionCheck
  repeat' first
    | with_reducible assumption
    | exact Eq.refl _
    | with_reducible apply event_within (subIn (by decide) m_)
    | split
    | dsimp only
    | with_reducible apply Within.raw
    | exact .inl (bitIn m_ (by decide))
    | exact .inr (Eq.refl _)

theorem lookups_within {w_ : Nat} (m_ : 33557505 ||| w_ = w_) {z0 : State} (s : State) (env : OpEnv) (h_ : Within w_ z0 s) : Within w_ z0 (lookups s env) := by
  unfold lookups
  repeat' first
    | with_reducible assumption
    | with_reducible intro _
    | with_reducible apply Within.ite
    | with_reducible apply regionCheck_within (subIn (by decide) m_)
    | with_reducible apply Within.foldl
    | with_reducible apply Within.foldl_snd2
    | with_reducible apply Within.foldl_snd
    | with_reducible apply Within.foldl_fst
    | split
    | dsimp only

theorem episodes_within {w_ : Nat} (m_ : 32 ||| w_ = w_) {z0 : State} (s : State) (f : Nat) (h_ : Within w_ z0 s) : Within w_ z0 (episodes s f) := by
  unfold episodes
  repeat' first
    | with_reducible assumption
    | with_reducible intro _
    | exact Eq.refl _
    | with_reducible apply Within.ite
    | with_reducible apply modFlume_within (subIn (by decide) m_)
    | with_reducible apply forAll_within
    | split
    | dsimp only

theorem updateWeir_within {w_ : Nat} (m_ : 2080 ||| w_ = w_) {z0 : State} (s : State) (f : Nat) (h_ : Within w_ z0 s) : Within w_ z0 (updateWeir s f) := by
  unfold updateWeir
  repeat' first
    | with_reducible assumption
    | with_reducible intro _
    | with_reducible apply episodes_within (subIn (by decide) m_)
    | with_reducible apply returnCredits_within (subIn (by decide) m_)
    | with_reducible apply forAll_within
    | dsimp only

theorem noteIdle_within {w_ : Nat} (m_ : 32 ||| w_ = w_) {z0 : State} (s : State) (f : Nat) (h_ : Within w_ z0 s) : Within w_ z0 (noteIdle s f) := by
  unfold noteIdle
  repeat' first
    | with_reducible assumption
    | exact Eq.refl _
    | with_reducible apply Within.ite
    | with_reducible apply modFlume_within (subIn (by decide) m_)
    | split
    | dsimp only

theorem dropReq_within {w_ : Nat} (m_ : 2080 ||| w_ = w_) {z0 : State} (s : State) (f : Nat) (id : Nat) (h_ : Within w_ z0 s) : Within w_ z0 (dropReq s f id) := by
  unfold dropReq
  repeat' first
    | with_reducible assumption
    | exact Eq.refl _
    | with_reducible apply modFlume_within (subIn (by decide) m_)
    | with_reducible apply noteIdle_within (subIn (by decide) m_)
    | with_reducible apply updateWeir_within (subIn (by decide) m_)
    | dsimp only

theorem bumpId_within {w_ : Nat} (m_ : 32 ||| w_ = w_) {z0 : State} (s : State) (f : Nat) (h_ : Within w_ z0 s) : Within w_ z0 (bumpId s f) := by
  unfold bumpId
  repeat' first
    | with_reducible assumption
    | exact Eq.refl _
    | with_reducible apply modFlume_within (subIn (by decide) m_)
    | dsimp only

theorem putQueue_within {w_ : Nat} (m_ : 2080 ||| w_ = w_) {z0 : State} (s : State) (f : Nat) (r : Req) (h_ : Within w_ z0 s) : Within w_ z0 (putQueue s f r) := by
  unfold putQueue
  repeat' first
    | with_reducible assumption
    | exact Eq.refl _
    | with_reducible apply updateWeir_within (subIn (by decide) m_)
    | with_reducible apply modFlume_within (subIn (by decide) m_)
    | dsimp only

theorem enqueue_within {w_ : Nat} (m_ : 2080 ||| w_ = w_) {z0 : State} (s : State) (f : Nat) (r : Req) (h_ : Within w_ z0 s) : Within w_ z0 (enqueue s f r) := by
  unfold enqueue
  repeat' first
    | with_reducible assumption
    | with_reducible apply putQueue_within (subIn (by decide) m_)
    | with_reducible apply bumpId_within (subIn (by decide) m_)
    | dsimp only

theorem park_within {w_ : Nat} (m_ : 2080 ||| w_ = w_) {z0 : State} (s : State) (f : Nat) (r : Req) (h_ : Within w_ z0 s) : Within w_ z0 (park s f r) := by
  unfold park
  repeat' first
    | with_reducible assumption
    | exact Eq.refl _
    | with_reducible apply updateWeir_within (subIn (by decide) m_)
    | with_reducible apply modFlume_within (subIn (by decide) m_)
    | dsimp only

theorem voidWriteBacks_within {w_ : Nat} (m_ : 32 ||| w_ = w_) {z0 : State} (s : State) (f : Nat) (line : Nat) (h_ : Within w_ z0 s) : Within w_ z0 (voidWriteBacks s f line) := by
  unfold voidWriteBacks
  repeat' first
    | with_reducible assumption
    | exact Eq.refl _
    | with_reducible apply Within.ite
    | with_reducible apply addTotal_within (subIn (by decide) m_)
    | with_reducible apply modFlume_within (subIn (by decide) m_)
    | split
    | dsimp only

theorem queueWriteBack_within {w_ : Nat} (m_ : 2080 ||| w_ = w_) {z0 : State} (s : State) (f : Nat) (line : Nat) (data : Nat) (md : Nat) (dpaLine : Nat) (region : Nat) (h_ : Within w_ z0 s) : Within w_ z0 (queueWriteBack s f line data md dpaLine region) := by
  unfold queueWriteBack
  repeat' first
    | with_reducible assumption
    | exact Eq.refl _
    | with_reducible apply Within.ite
    | with_reducible apply bumpTotal_within (subIn (by decide) m_)
    | with_reducible apply enqueue_within (subIn (by decide) m_)
    | with_reducible apply modFlume_within (subIn (by decide) m_)
    | split
    | dsimp only

theorem noRefetch_within {w_ : Nat} (m_ : 32 ||| w_ = w_) {z0 : State} (s : State) (f : Nat) (line : Nat) (h_ : Within w_ z0 s) : Within w_ z0 (noRefetch s f line) := by
  unfold noRefetch
  repeat' first
    | with_reducible assumption
    | exact Eq.refl _
    | with_reducible apply Within.ite
    | with_reducible apply modFlume_within (subIn (by decide) m_)
    | split
    | dsimp only

theorem storeLine_within {w_ : Nat} (m_ : 104 ||| w_ = w_) {z0 : State} (s : State) (f : Nat) (line : Nat) (data : Nat) (md : Option (BitVec 2)) (dirty : Bool) (poison : Bool) (inj : List Nat) (h_ : Within w_ z0 s) : Within w_ z0 (storeLine s f line data md dirty poison inj) := by
  unfold storeLine
  repeat' first
    | with_reducible assumption
    | exact Eq.refl _
    | with_reducible apply setStored_within (subIn (by decide) m_)
    | with_reducible apply noRefetch_within (subIn (by decide) m_)
    | split
    | dsimp only

theorem disarm_within {w_ : Nat} (m_ : 4 ||| w_ = w_) {z0 : State} (s : State) (f : Nat) (r : Req) (h_ : Within w_ z0 s) : Within w_ z0 (disarm s f r) := by
  unfold disarm
  repeat' first
    | with_reducible assumption
    | with_reducible apply Within.ite
    | with_reducible apply regPut_within (subIn (by decide) m_)
    | split
    | dsimp only

end Sys2Proof.Machine
end

