-- ==== Sys2Proof/Laws/WithinMirror.lean ====
section
/-! SUPPORT. Which parts of the state the operations of Machine/Mirror.lean can change. -/

set_option Elab.async false

namespace Sys2Proof.Machine

theorem putFlits_within {w_ : Nat} (m_ : 4194305 ||| w_ = w_) {z0 : State} (s : State) (k : Nat) (m : LeatMsg) (h_ : Within w_ z0 s) : Within w_ z0 (putFlits s k m) := by
  unfold putFlits
  repeat' first
    | with_reducible assumption
    | exact Eq.refl _
    | with_reducible apply Within.ite
    | with_reducible apply modPort_within (subIn (by decide) m_)
    | with_reducible apply emit_within (subIn (by decide) m_)
    | split
    | dsimp only

theorem leatSend_within {w_ : Nat} (m_ : 4194305 ||| w_ = w_) {z0 : State} (s : State) (m : LeatMsg) (h_ : Within w_ z0 s) : Within w_ z0 (leatSend s m) := by
  unfold leatSend
  repeat' first
    | with_reducible assumption
    | with_reducible intro _
    | exact Eq.refl _
    | with_reducible apply Within.ite
    | with_reducible apply putFlits_within (subIn (by decide) m_)
    | with_reducible apply modLeat_within (subIn (by decide) m_)
    | split
    | dsimp only

theorem leatFlush_within {w_ : Nat} (m_ : 4194305 ||| w_ = w_) {z0 : State} (s : State) (h_ : Within w_ z0 s) : Within w_ z0 (leatFlush s) := by
  unfold leatFlush
  repeat' first
    | with_reducible assumption
    | with_reducible intro _
    | exact Eq.refl _
    | with_reducible apply leatSend_within (subIn (by decide) m_)
    | with_reducible apply modLeat_within (subIn (by decide) m_)
    | with_reducible apply Within.foldl
    | with_reducible apply Within.foldl_snd2
    | with_reducible apply Within.foldl_snd
    | with_reducible apply Within.foldl_fst
    | dsimp only

theorem leatOwn_within {w_ : Nat} (m_ : 4194305 ||| w_ = w_) {z0 : State} (s : State) (k : Nat) (type : Nat) (slots : Nat) (pmask : Nat) (md : Nat) (data : List Byte) (h_ : Within w_ z0 s) : Within w_ z0 (leatOwn s k type slots pmask md data) := by
  unfold leatOwn
  repeat' first
    | with_reducible assumption
    | with_reducible apply Within.ite
    | with_reducible apply leatSend_within (subIn (by decide) m_)
    | split
    | dsimp only

theorem sendLink_within {w_ : Nat} (m_ : 4194305 ||| w_ = w_) {z0 : State} (s : State) (k : Nat) (nak : Bool) (req : Nat) (rsp : Nat) (h_ : Within w_ z0 s) : Within w_ z0 (sendLink s k nak req rsp) := by
  unfold sendLink
  repeat' first
    | with_reducible assumption
    | with_reducible apply Within.ite
    | with_reducible apply leatOwn_within (subIn (by decide) m_)
    | split
    | dsimp only

theorem returnSlots_within {w_ : Nat} (m_ : 4194305 ||| w_ = w_) {z0 : State} (s : State) (k : Nat) (n : Nat) (h_ : Within w_ z0 s) : Within w_ z0 (returnSlots s k n) := by
  unfold returnSlots
  repeat' first
    | with_reducible assumption
    | with_reducible apply sendLink_within (subIn (by decide) m_)
    | dsimp only

theorem sendAck_within {w_ : Nat} (m_ : 4194305 ||| w_ = w_) {z0 : State} (s : State) (via : Nat) (cls : Nat) (tag : Nat) (stored : Bool) (h_ : Within w_ z0 s) : Within w_ z0 (sendAck s via cls tag stored) := by
  unfold sendAck
  repeat' first
    | with_reducible assumption
    | with_reducible apply leatSend_within (subIn (by decide) m_)
    | dsimp only

theorem sendState_within {w_ : Nat} (m_ : 4194305 ||| w_ = w_) {z0 : State} (s : State) (kind : Nat) (line : Nat) (data : List Byte) (pages : Nat) (h_ : Within w_ z0 s) : Within w_ z0 (sendState s kind line data pages) := by
  unfold sendState
  repeat' first
    | with_reducible assumption
    | with_reducible intro _
    | exact Eq.refl _
    | with_reducible apply Within.ite
    | with_reducible apply leatSend_within (subIn (by decide) m_)
    | with_reducible apply modLeat_within (subIn (by decide) m_)
    | split
    | dsimp only

theorem sendMirror_within {w_ : Nat} (m_ : 4194305 ||| w_ = w_) {z0 : State} (s : State) (via : Nat) (cls : Nat) (tag : Nat) (line : Nat) (data : Nat) (cxl : Nat) (poison : Bool) (h_ : Within w_ z0 s) : Within w_ z0 (sendMirror s via cls tag line data cxl poison) := by
  unfold sendMirror
  repeat' first
    | with_reducible assumption
    | with_reducible apply Within.ite
    | with_reducible apply leatSend_within (subIn (by decide) m_)
    | split
    | dsimp only

theorem rewind_within {w_ : Nat} (m_ : 8192 ||| w_ = w_) {z0 : State} (s : State) (g : Nat) (h_ : Within w_ z0 s) : Within w_ z0 (rewind s g) := by
  unfold rewind
  repeat' first
    | with_reducible assumption
    | with_reducible intro _
    | exact Eq.refl _
    | with_reducible apply Within.ite
    | with_reducible apply modDesc_within (subIn (by decide) m_)
    | with_reducible apply forAll_within
    | split
    | dsimp only

theorem setGranule_within {w_ : Nat} (m_ : 4202496 ||| w_ = w_) {z0 : State} (s : State) (g : Nat) (h_ : Within w_ z0 s) : Within w_ z0 (setGranule s g) := by
  unfold setGranule
  repeat' first
    | with_reducible assumption
    | with_reducible intro _
    | exact Eq.refl _
    | with_reducible apply rewind_within (subIn (by decide) m_)
    | with_reducible apply modLeat_within (subIn (by decide) m_)
    | dsimp only

theorem setWhole_within {w_ : Nat} (m_ : 4202496 ||| w_ = w_) {z0 : State} (s : State) (g : Nat) (h_ : Within w_ z0 s) : Within w_ z0 (setWhole s g) := by
  unfold setWhole
  repeat' first
    | with_reducible assumption
    | with_reducible intro _
    | exact Eq.refl _
    | with_reducible apply rewind_within (subIn (by decide) m_)
    | with_reducible apply modLeat_within (subIn (by decide) m_)
    | dsimp only

theorem clearGranules_within {w_ : Nat} (m_ : 4194304 ||| w_ = w_) {z0 : State} (s : State) (gs : List Nat) (h_ : Within w_ z0 s) : Within w_ z0 (clearGranules s gs) := by
  unfold clearGranules
  repeat' first
    | with_reducible assumption
    | with_reducible intro _
    | exact Eq.refl _
    | with_reducible apply modLeat_within (subIn (by decide) m_)
    | dsimp only

theorem mirrorNotice_within {w_ : Nat} (m_ : 33556481 ||| w_ = w_) {z0 : State} (s : State) (h_ : Within w_ z0 s) : Within w_ z0 (mirrorNotice s) := by
  unfold mirrorNotice
  repeat' first
    | with_reducible assumption
    | with_reducible apply event_within (subIn (by decide) m_)
    | dsimp only

theorem markDirty_within {w_ : Nat} (m_ : 104 ||| w_ = w_) {z0 : State} (s : State) (line : Nat) (h_ : Within w_ z0 s) : Within w_ z0 (markDirty s line) := by
  unfold markDirty
  repeat' first
    | with_reducible assumption
    | exact Eq.refl _
    | with_reducible apply Within.ite
    | with_reducible apply modFlume_within (subIn (by decide) m_)
    | with_reducible apply writePlace_within (subIn (by decide) m_)
    | split
    | dsimp only

theorem notStored_within {w_ : Nat} (m_ : 4202600 ||| w_ = w_) {z0 : State} (s : State) (line : Nat) (h_ : Within w_ z0 s) : Within w_ z0 (notStored s line) := by
  unfold notStored
  repeat' first
    | with_reducible assumption
    | with_reducible apply markDirty_within (subIn (by decide) m_)
    | with_reducible apply setGranule_within (subIn (by decide) m_)
    | dsimp only

theorem mirrorDone_within {w_ : Nat} (m_ : 32 ||| w_ = w_) {z0 : State} (s : State) (f : Nat) (id : Nat) (h_ : Within w_ z0 s) : Within w_ z0 (mirrorDone s f id) := by
  unfold mirrorDone
  repeat' first
    | with_reducible assumption
    | exact Eq.refl _
    | with_reducible apply modFlume_within (subIn (by decide) m_)
    | dsimp only

theorem makePond_within {w_ : Nat} (m_ : 4194304 ||| w_ = w_) {z0 : State} (s : State) (region : Nat) (line : Nat) (data : Nat) (md : BitVec 2) (poison : Bool) (h_ : Within w_ z0 s) : Within w_ z0 (makePond s region line data md poison) := by
  unfold makePond
  repeat' first
    | with_reducible assumption
    | with_reducible intro _
    | exact Eq.refl _
    | with_reducible apply modLeat_within (subIn (by decide) m_)
    | dsimp only

theorem mirrorLine_within {w_ : Nat} (m_ : 4204649 ||| w_ = w_) {z0 : State} (s : State) (region : Nat) (f : Nat) (line : Nat) (data : Nat) (md : BitVec 2) (poison : Bool) (dest : ReqFor) (h_ : Within w_ z0 s) : Within w_ z0 (mirrorLine s region f line data md poison dest) := by
  unfold mirrorLine
  repeat' first
    | with_reducible assumption
    | with_reducible intro _
    | exact Eq.refl _
    | with_reducible apply Within.ite
    | with_reducible apply finishWrite_within (subIn (by decide) m_)
    | with_reducible apply notStored_within (subIn (by decide) m_)
    | with_reducible apply sendMirror_within (subIn (by decide) m_)
    | with_reducible apply modLeat_within (subIn (by decide) m_)
    | with_reducible apply makePond_within (subIn (by decide) m_)
    | split
    | dsimp only

theorem tryMirror_within {w_ : Nat} (m_ : 4204649 ||| w_ = w_) {z0 : State} (f : Nat) (s : State) (id : Nat) (h_ : Within w_ z0 s) : Within w_ z0 (tryMirror f s id) := by
  unfold tryMirror
  repeat' first
    | with_reducible assumption
    | exact Eq.refl _
    | with_reducible apply Within.ite
    | with_reducible apply mirrorDone_within (subIn (by decide) m_)
    | with_reducible apply mirrorLine_within (subIn (by decide) m_)
    | split
    | dsimp only

theorem mirrorStep_within {w_ : Nat} (m_ : 4204649 ||| w_ = w_) {z0 : State} (s : State) (f : Nat) (h_ : Within w_ z0 s) : Within w_ z0 (mirrorStep s f) := by
  unfold mirrorStep
  repeat' first
    | with_reducible assumption
    | with_reducible intro _
    | with_reducible apply tryMirror_within (subIn (by decide) m_)
    | with_reducible apply forAll_within
    | dsimp only

theorem mirrorAll_within {w_ : Nat} (m_ : 4204649 ||| w_ = w_) {z0 : State} (s : State) (h_ : Within w_ z0 s) : Within w_ z0 (mirrorAll s) := by
  unfold mirrorAll
  repeat' first
    | with_reducible assumption
    | with_reducible intro _
    | with_reducible apply mirrorStep_within (subIn (by decide) m_)
    | with_reducible apply forAll_within
    | dsimp only

theorem askPartner_within {w_ : Nat} (m_ : 4194305 ||| w_ = w_) {z0 : State} (s : State) (f : Nat) (r : Req) (refetch : Bool) (store : Bool) (asRead : Nat) (mdRead : Nat) (h_ : Within w_ z0 s) : Within w_ z0 (askPartner s f r refetch store asRead mdRead) := by
  unfold askPartner
  repeat' first
    | with_reducible assumption
    | with_reducible intro _
    | exact Eq.refl _
    | with_reducible apply leatSend_within (subIn (by decide) m_)
    | with_reducible apply modLeat_within (subIn (by decide) m_)
    | dsimp only

theorem requestCopy_within {w_ : Nat} (m_ : 4196385 ||| w_ = w_) {z0 : State} (s : State) (f : Nat) (r : Req) (store : Bool) (asRead : Nat) (mdRead : Nat) (h_ : Within w_ z0 s) : Within w_ z0 (requestCopy s f r store asRead mdRead) := by
  unfold requestCopy
  repeat' first
    | with_reducible assumption
    | with_reducible apply askPartner_within (subIn (by decide) m_)
    | with_reducible apply park_within (subIn (by decide) m_)
    | dsimp only

theorem putMerged_within {w_ : Nat} (m_ : 4204649 ||| w_ = w_) {z0 : State} (s : State) (f : Nat) (r : Req) (data : Nat) (poison : Bool) (h_ : Within w_ z0 s) : Within w_ z0 (putMerged s f r data poison) := by
  unfold putMerged
  repeat' first
    | with_reducible assumption
    | exact Eq.refl _
    | with_reducible apply dropReq_within (subIn (by decide) m_)
    | with_reducible apply mirrorStep_within (subIn (by decide) m_)
    | with_reducible apply updateWeir_within (subIn (by decide) m_)
    | with_reducible apply modFlume_within (subIn (by decide) m_)
    | dsimp only

theorem serveLost_within {w_ : Nat} (m_ : 4204651 ||| w_ = w_) {z0 : State} (s0 : State) (f : Nat) (r : Req) (h_ : Within w_ z0 s0) : Within w_ z0 (serveLost s0 f r) := by
  unfold serveLost
  repeat' first
    | with_reducible assumption
    | exact Eq.refl _
    | with_reducible apply Within.ite
    | with_reducible apply dropReq_within (subIn (by decide) m_)
    | with_reducible apply completeRead_within (subIn (by decide) m_)
    | with_reducible apply bumpFree_within (subIn (by decide) m_)
    | with_reducible apply mirrorLine_within (subIn (by decide) m_)
    | split
    | dsimp only

theorem serveAway_within {w_ : Nat} (m_ : 4204651 ||| w_ = w_) {z0 : State} (s : State) (f : Nat) (r : Req) (h_ : Within w_ z0 s) : Within w_ z0 (serveAway s f r) := by
  unfold serveAway
  repeat' first
    | with_reducible assumption
    | exact Eq.refl _
    | with_reducible apply Within.ite
    | with_reducible apply completeRead_within (subIn (by decide) m_)
    | with_reducible apply dropReq_within (subIn (by decide) m_)
    | with_reducible apply requestCopy_within (subIn (by decide) m_)
    | with_reducible apply serveLost_within (subIn (by decide) m_)
    | split
    | dsimp only

theorem copyFailed_within {w_ : Nat} (m_ : 37759083 ||| w_ = w_) {z0 : State} (s : State) (c : CopyWait) (h_ : Within w_ z0 s) : Within w_ z0 (copyFailed s c) := by
  unfold copyFailed
  repeat' first
    | with_reducible assumption
    | exact Eq.refl _
    | with_reducible apply Within.ite
    | with_reducible apply mirrorNotice_within (subIn (by decide) m_)
    | with_reducible apply modFlume_within (subIn (by decide) m_)
    | with_reducible apply dropReq_within (subIn (by decide) m_)
    | with_reducible apply bumpTotal_within (subIn (by decide) m_)
    | with_reducible apply completeRead_within (subIn (by decide) m_)
    | with_reducible apply queueWriteBack_within (subIn (by decide) m_)
    | with_reducible apply putMerged_within (subIn (by decide) m_)
    | with_reducible apply serveLost_within (subIn (by decide) m_)
    | split
    | dsimp only

theorem refill_within {w_ : Nat} (m_ : 104 ||| w_ = w_) {z0 : State} (s : State) (f : Nat) (line : Nat) (c : CopyLine) (h_ : Within w_ z0 s) : Within w_ z0 (refill s f line c) := by
  unfold refill
  repeat' first
    | with_reducible assumption
    | with_reducible apply storeLine_within (subIn (by decide) m_)
    | dsimp only

theorem copyArrived_within {w_ : Nat} (m_ : 4204649 ||| w_ = w_) {z0 : State} (s : State) (c : CopyWait) (d : CopyLine) (h_ : Within w_ z0 s) : Within w_ z0 (copyArrived s c d) := by
  unfold copyArrived
  repeat' first
    | with_reducible assumption
    | exact Eq.refl _
    | with_reducible apply Within.ite
    | with_reducible apply refill_within (subIn (by decide) m_)
    | with_reducible apply modFlume_within (subIn (by decide) m_)
    | with_reducible apply completeRead_within (subIn (by decide) m_)
    | with_reducible apply dropReq_within (subIn (by decide) m_)
    | with_reducible apply putMerged_within (subIn (by decide) m_)
    | split
    | dsimp only

theorem markClean_within {w_ : Nat} (m_ : 104 ||| w_ = w_) {z0 : State} (s0 : State) (f : Nat) (line : Nat) (h_ : Within w_ z0 s0) : Within w_ z0 (markClean s0 f line) := by
  unfold markClean
  repeat' first
    | with_reducible assumption
    | exact Eq.refl _
    | with_reducible apply Within.ite
    | with_reducible apply modFlume_within (subIn (by decide) m_)
    | with_reducible apply writePlace_within (subIn (by decide) m_)
    | split
    | dsimp only

theorem unpush_within {w_ : Nat} (m_ : 104 ||| w_ = w_) {z0 : State} (s : State) (w : PushWait) (h_ : Within w_ z0 s) : Within w_ z0 (unpush s w) := by
  unfold unpush
  repeat' first
    | with_reducible assumption
    | with_reducible intro _
    | with_reducible apply markDirty_within (subIn (by decide) m_)
    | with_reducible apply forAll_within
    | dsimp only

theorem dropLeatWork_within {w_ : Nat} (m_ : 37759083 ||| w_ = w_) {z0 : State} (s0 : State) (h_ : Within w_ z0 s0) : Within w_ z0 (dropLeatWork s0) := by
  unfold dropLeatWork
  repeat' first
    | with_reducible assumption
    | with_reducible intro _
    | exact Eq.refl _
    | with_reducible apply Within.ite
    | with_reducible apply unpush_within (subIn (by decide) m_)
    | with_reducible apply modLeat_within (subIn (by decide) m_)
    | with_reducible apply copyFailed_within (subIn (by decide) m_)
    | with_reducible apply Within.foldl
    | with_reducible apply Within.foldl_snd2
    | with_reducible apply Within.foldl_snd
    | with_reducible apply Within.foldl_fst
    | split
    | dsimp only

theorem dropMirrorWork_within {w_ : Nat} (m_ : 4204649 ||| w_ = w_) {z0 : State} (s : State) (h_ : Within w_ z0 s) : Within w_ z0 (dropMirrorWork s) := by
  unfold dropMirrorWork
  repeat' first
    | with_reducible assumption
    | with_reducible intro _
    | exact Eq.refl _
    | with_reducible apply modLeat_within (subIn (by decide) m_)
    | with_reducible apply finishWrite_within (subIn (by decide) m_)
    | with_reducible apply notStored_within (subIn (by decide) m_)
    | with_reducible apply Within.foldl
    | with_reducible apply Within.foldl_snd2
    | with_reducible apply Within.foldl_snd
    | with_reducible apply Within.foldl_fst
    | dsimp only

theorem setRole_within {w_ : Nat} (m_ : 512 ||| w_ = w_) {z0 : State} (s : State) (mask : Nat) (secondary : Bool) (h_ : Within w_ z0 s) : Within w_ z0 (setRole s mask secondary) := by
  unfold setRole
  repeat' first
    | with_reducible assumption
    | with_reducible intro _
    | exact Eq.refl _
    | with_reducible apply Within.ite
    | with_reducible apply forAll_within
    | split
    | dsimp only
    | with_reducible apply Within.raw
    | exact .inl (bitIn m_ (by decide))
    | exact .inr (Eq.refl _)

theorem endLeatDesc_within {w_ : Nat} (m_ : 8704 ||| w_ = w_) {z0 : State} (s : State) (d : Nat) (h_ : Within w_ z0 s) : Within w_ z0 (endLeatDesc s d) := by
  unfold endLeatDesc
  repeat' first
    | with_reducible assumption
    | exact Eq.refl _
    | with_reducible apply Within.ite
    | with_reducible apply finishDesc_within (subIn (by decide) m_)
    | with_reducible apply setRole_within (subIn (by decide) m_)
    | split
    | dsimp only

theorem partnerLost_within {w_ : Nat} (m_ : 37759599 ||| w_ = w_) {z0 : State} (s : State) (h_ : Within w_ z0 s) : Within w_ z0 (partnerLost s) := by
  unfold partnerLost
  repeat' first
    | with_reducible assumption
    | with_reducible intro _
    | exact Eq.refl _
    | with_reducible apply Within.ite
    | with_reducible apply event_within (subIn (by decide) m_)
    | with_reducible apply scEvent_within (subIn (by decide) m_)
    | with_reducible apply modLeat_within (subIn (by decide) m_)
    | with_reducible apply dropLeatWork_within (subIn (by decide) m_)
    | with_reducible apply dropMirrorWork_within (subIn (by decide) m_)
    | with_reducible apply endLeatDesc_within (subIn (by decide) m_)
    | with_reducible apply mirrorAll_within (subIn (by decide) m_)
    | with_reducible apply forAll_within
    | split
    | dsimp only

end Sys2Proof.Machine
end

