-- ==== Sys2Proof/Laws/WithinRepair.lean ====
section
/-! SUPPORT. Which parts of the state the operations of Machine/Repair.lean can change. -/

set_option Elab.async false

namespace Sys2Proof.Machine

theorem noteRepair_within {w_ : Nat} (m_ : 536870948 ||| w_ = w_) {z0 : State} (s : State) (f : Nat) (e : Nat) (h_ : Within w_ z0 s) : Within w_ z0 (noteRepair s f e) := by
  unfold noteRepair
  repeat' first
    | with_reducible assumption
    | exact Eq.refl _
    | with_reducible apply modFlume_within (subIn (by decide) m_)
    | with_reducible apply scEvent_within (subIn (by decide) m_)
    | dsimp only
    | with_reducible apply Within.raw
    | exact .inl (bitIn m_ (by decide))
    | exact .inr (Eq.refl _)

theorem setRemap_within {w_ : Nat} (m_ : 32 ||| w_ = w_) {z0 : State} (s : State) (f : Nat) (i : Nat) (e : Nat) (h_ : Within w_ z0 s) : Within w_ z0 (setRemap s f i e) := by
  unfold setRemap
  repeat' first
    | with_reducible assumption
    | exact Eq.refl _
    | with_reducible apply modFlume_within (subIn (by decide) m_)
    | dsimp only

theorem releaseRemap_within {w_ : Nat} (m_ : 32 ||| w_ = w_) {z0 : State} (s : State) (f : Nat) (p : Nat → Bool) (h_ : Within w_ z0 s) : Within w_ z0 (releaseRemap s f p) := by
  unfold releaseRemap
  repeat' first
    | with_reducible assumption
    | with_reducible intro _
    | with_reducible apply Within.ite
    | with_reducible apply setRemap_within (subIn (by decide) m_)
    | with_reducible apply forAll_within
    | split
    | dsimp only

theorem noteRemap_within {w_ : Nat} (m_ : 570427429 ||| w_ = w_) {z0 : State} (s : State) (f : Nat) (h_ : Within w_ z0 s) : Within w_ z0 (noteRemap s f) := by
  unfold noteRemap
  repeat' first
    | with_reducible assumption
    | exact Eq.refl _
    | with_reducible apply scEvent_within (subIn (by decide) m_)
    | with_reducible apply bumpTotal_within (subIn (by decide) m_)
    | with_reducible apply event_within (subIn (by decide) m_)
    | dsimp only
    | with_reducible apply Within.raw
    | exact .inl (bitIn m_ (by decide))
    | exact .inr (Eq.refl _)

theorem withdrawPool_within {w_ : Nat} (m_ : 256 ||| w_ = w_) {z0 : State} (s : State) (b : Nat) (p : Nat) (h_ : Within w_ z0 s) : Within w_ z0 (withdrawPool s b p) := by
  unfold withdrawPool
  repeat' first
    | with_reducible assumption
    | exact Eq.refl _
    | with_reducible apply modBank_within (subIn (by decide) m_)
    | dsimp only

theorem remapLine_within {w : Nat} (m_ : 570427757 ||| w = w) {u : State} (s : State) (f : Nat) (c : Coord) (stored : Nat) (h : Within w u s) :
    ∀ t, remapLine s f c stored = some t → Within w u t := by
  intro t e
  unfold remapLine at e
  dsimp only at e
  split at e
  · cases e
  · split at e
    · cases e
      exact setStored_within (subIn (by decide) m_) _ _ _ (noteRemap_within (subIn (by decide) m_) _ _
        (setRemap_within (subIn (by decide) m_) _ _ _ _ (withdrawPool_within (subIn (by decide) m_) _ _ _ h)))
    · rw [Option.map_eq_some_iff] at e
      obtain ⟨i, _, rfl⟩ := e
      exact setStored_within (subIn (by decide) m_) _ _ _ (noteRemap_within (subIn (by decide) m_) _ _
        (setRemap_within (subIn (by decide) m_) _ _ _ _ h))

theorem bayOffline_within {w_ : Nat} (m_ : 128 ||| w_ = w_) {z0 : State} (s : State) (f : Nat) (sc : Nat) (t : Nat) (h_ : Within w_ z0 s) : Within w_ z0 (bayOffline s f sc t) := by
  unfold bayOffline
  repeat' first
    | with_reducible assumption
    | exact Eq.refl _
    | with_reducible apply modBay_within (subIn (by decide) m_)
    | dsimp only

theorem spareUnusable_within {w_ : Nat} (m_ : 224 ||| w_ = w_) {z0 : State} (s : State) (f : Nat) (sc : Nat) (h_ : Within w_ z0 s) : Within w_ z0 (spareUnusable s f sc) := by
  unfold spareUnusable
  repeat' first
    | with_reducible assumption
    | with_reducible intro _
    | exact Eq.refl _
    | with_reducible apply Within.ite
    | with_reducible apply modSub_within (subIn (by decide) m_)
    | with_reducible apply bayOffline_within (subIn (by decide) m_)
    | with_reducible apply modFlume_within (subIn (by decide) m_)
    | with_reducible apply modBay_within (subIn (by decide) m_)
    | with_reducible apply forAll_within
    | split
    | dsimp only

theorem endColMoves_within {w_ : Nat} (m_ : 256 ||| w_ = w_) {z0 : State} (s : State) (f : Nat) (sc : Nat) (t : Nat) (h_ : Within w_ z0 s) : Within w_ z0 (endColMoves s f sc t) := by
  unfold endColMoves
  repeat' first
    | with_reducible assumption
    | with_reducible intro _
    | exact Eq.refl _
    | with_reducible apply modBank_within (subIn (by decide) m_)
    | with_reducible apply forAll_within
    | dsimp only

theorem redirectBay_within {w_ : Nat} (m_ : 570427877 ||| w_ = w_) {z0 : State} (s : State) (f : Nat) (sc : Nat) (t : Nat) (g : Nat) (i : Nat) (copying : Bool) (h_ : Within w_ z0 s) : Within w_ z0 (redirectBay s f sc t g i copying) := by
  unfold redirectBay
  repeat' first
    | with_reducible assumption
    | exact Eq.refl _
    | with_reducible apply Within.ite
    | with_reducible apply event_within (subIn (by decide) m_)
    | with_reducible apply spareUnusable_within (subIn (by decide) m_)
    | with_reducible apply bayOffline_within (subIn (by decide) m_)
    | with_reducible apply modSub_within (subIn (by decide) m_)
    | with_reducible apply modBay_within (subIn (by decide) m_)
    | with_reducible apply endColMoves_within (subIn (by decide) m_)
    | with_reducible apply modFlume_within (subIn (by decide) m_)
    | with_reducible apply releaseRemap_within (subIn (by decide) m_)
    | with_reducible apply noteRepair_within (subIn (by decide) m_)
    | split
    | dsimp only

theorem withdrawSub_within {w_ : Nat} (m_ : 33556545 ||| w_ = w_) {z0 : State} (s : State) (f : Nat) (sc : Nat) (h_ : Within w_ z0 s) : Within w_ z0 (withdrawSub s f sc) := by
  unfold withdrawSub
  repeat' first
    | with_reducible assumption
    | exact Eq.refl _
    | with_reducible apply modSub_within (subIn (by decide) m_)
    | with_reducible apply event_within (subIn (by decide) m_)
    | with_reducible apply setLine_within (subIn (by decide) m_)
    | dsimp only

theorem putRow_within {w_ : Nat} (m_ : 72 ||| w_ = w_) {z0 : State} (s : State) (b : Nat) (row : Nat) (copy : List Stored) (h_ : Within w_ z0 s) : Within w_ z0 (putRow s b row copy) := by
  unfold putRow
  repeat' first
    | with_reducible assumption
    | with_reducible intro _
    | with_reducible apply setCells_within (subIn (by decide) m_)
    | with_reducible apply overtake_within (subIn (by decide) m_)
    | with_reducible apply forAll_within
    | dsimp only

theorem rowRepair_within {w_ : Nat} (m_ : 570427757 ||| w_ = w_) {z0 : State} (s : State) (b : Nat) (row : Nat) (i : Nat) (copy : List Stored) (h_ : Within w_ z0 s) : Within w_ z0 (rowRepair s b row i copy) := by
  unfold rowRepair
  repeat' first
    | with_reducible assumption
    | exact Eq.refl _
    | with_reducible apply putRow_within (subIn (by decide) m_)
    | with_reducible apply modBank_within (subIn (by decide) m_)
    | with_reducible apply releaseRemap_within (subIn (by decide) m_)
    | with_reducible apply event_within (subIn (by decide) m_)
    | with_reducible apply noteRepair_within (subIn (by decide) m_)
    | dsimp only

theorem markRows_within {w_ : Nat} (m_ : 256 ||| w_ = w_) {z0 : State} (s : State) (b : Nat) (bad : List Nat) (h_ : Within w_ z0 s) : Within w_ z0 (markRows s b bad) := by
  unfold markRows
  repeat' first
    | with_reducible assumption
    | with_reducible intro _
    | exact Eq.refl _
    | with_reducible apply Within.ite
    | with_reducible apply modBank_within (subIn (by decide) m_)
    | with_reducible apply Within.foldl
    | with_reducible apply Within.foldl_snd2
    | with_reducible apply Within.foldl_snd
    | with_reducible apply Within.foldl_fst
    | split
    | dsimp only

theorem remapRow_within {w : Nat} (m_ : 570427757 ||| w = w) {u : State} (l : List Nat) : ∀ (s : State) (b row : Nat), Within w u s →
    ∀ t, remapRow l s b row = some t → Within w u t := by
  induction l with
  | nil => intro s b row h t e; cases e; exact h
  | cons k l ih =>
    intro s b row h t e
    unfold remapRow at e
    dsimp only at e
    split at e
    · next s1 e1 => exact ih s1 b row (remapLine_within (subIn (by decide) m_) _ _ _ _ h s1 e1) t e
    · cases e

theorem repairRow_within {w_ : Nat} (m_ : 570427885 ||| w_ = w_) {z0 : State} (s : State) (b : Nat) (row : Nat) (cols : List Nat) (bad : List Nat) (copy : List Stored) (h_ : Within w_ z0 s) : Within w_ z0 (repairRow s b row cols bad copy) := by
  unfold repairRow
  repeat' first
    | with_reducible assumption
    | exact Eq.refl _
    | refine remapRow_within (subIn (by decide) m_) _ _ _ _ ?_ _ (someIte (by assumption))
    | refine remapRow_within (subIn (by decide) m_) _ _ _ _ ?_ _ (by assumption)
    | with_reducible apply Within.ite
    | with_reducible apply markRows_within (subIn (by decide) m_)
    | with_reducible apply rowRepair_within (subIn (by decide) m_)
    | with_reducible apply event_within (subIn (by decide) m_)
    | with_reducible apply redirectBay_within (subIn (by decide) m_)
    | split
    | dsimp only

theorem colRepair_within {w_ : Nat} (m_ : 570427685 ||| w_ = w_) {z0 : State} (s : State) (b : Nat) (cg : Nat) (i : Nat) (h_ : Within w_ z0 s) : Within w_ z0 (colRepair s b cg i) := by
  unfold colRepair
  repeat' first
    | with_reducible assumption
    | exact Eq.refl _
    | with_reducible apply modBank_within (subIn (by decide) m_)
    | with_reducible apply event_within (subIn (by decide) m_)
    | with_reducible apply noteRepair_within (subIn (by decide) m_)
    | dsimp only

theorem poolRowBad_within {w_ : Nat} (m_ : 360 ||| w_ = w_) {z0 : State} (s : State) (b : Nat) (i : Nat) (cols : List Nat) (h_ : Within w_ z0 s) : Within w_ z0 (poolRowBad s b i cols) := by
  unfold poolRowBad
  repeat' first
    | with_reducible assumption
    | with_reducible intro _
    | exact Eq.refl _
    | with_reducible apply withdrawPool_within (subIn (by decide) m_)
    | with_reducible apply setStored_within (subIn (by decide) m_)
    | with_reducible apply setRemap_within (subIn (by decide) m_)
    | with_reducible apply forAll_within
    | split
    | dsimp only

theorem colFail_within {w_ : Nat} (m_ : 570427877 ||| w_ = w_) {z0 : State} (s : State) (b : Nat) (g : Nat) (h_ : Within w_ z0 s) : Within w_ z0 (colFail s b g) := by
  unfold colFail
  repeat' first
    | with_reducible assumption
    | exact Eq.refl _
    | with_reducible apply Within.ite
    | with_reducible apply colRepair_within (subIn (by decide) m_)
    | with_reducible apply redirectBay_within (subIn (by decide) m_)
    | split
    | dsimp only

theorem spareColBad_within {w_ : Nat} (m_ : 570427877 ||| w_ = w_) {z0 : State} (s : State) (b : Nat) (i : Nat) (h_ : Within w_ z0 s) : Within w_ z0 (spareColBad s b i) := by
  unfold spareColBad
  repeat' first
    | with_reducible assumption
    | exact Eq.refl _
    | with_reducible apply modBank_within (subIn (by decide) m_)
    | with_reducible apply colFail_within (subIn (by decide) m_)
    | split
    | dsimp only

theorem spareRowBad_within {w_ : Nat} (m_ : 570427885 ||| w_ = w_) {z0 : State} (s : State) (b : Nat) (i : Nat) (cols : List Nat) (bad : List Nat) (h_ : Within w_ z0 s) : Within w_ z0 (spareRowBad s b i cols bad) := by
  unfold spareRowBad
  repeat' first
    | with_reducible assumption
    | exact Eq.refl _
    | with_reducible apply markRows_within (subIn (by decide) m_)
    | with_reducible apply repairRow_within (subIn (by decide) m_)
    | with_reducible apply modBank_within (subIn (by decide) m_)
    | split
    | dsimp only

theorem noteGroups_within {w_ : Nat} (m_ : 256 ||| w_ = w_) {z0 : State} (s : State) (b : Nat) (row : Nat) (cgs : List Nat) (h_ : Within w_ z0 s) : Within w_ z0 (noteGroups s b row cgs) := by
  unfold noteGroups
  repeat' first
    | with_reducible assumption
    | with_reducible intro _
    | exact Eq.refl _
    | with_reducible apply Within.ite
    | with_reducible apply modBank_within (subIn (by decide) m_)
    | with_reducible apply Within.foldl
    | with_reducible apply Within.foldl_snd2
    | with_reducible apply Within.foldl_snd
    | with_reducible apply Within.foldl_fst
    | split
    | dsimp only

theorem repairService_within {w_ : Nat} (m_ : 570427885 ||| w_ = w_) {z0 : State} (s : State) (b : Nat) (row : Nat) (cgs : List Nat) (cols : List Nat) (bad : List Nat) (h_ : Within w_ z0 s) : Within w_ z0 (repairService s b row cgs cols bad) := by
  unfold repairService
  repeat' first
    | with_reducible assumption
    | with_reducible intro _
    | with_reducible apply Within.ite
    | with_reducible apply noteGroups_within (subIn (by decide) m_)
    | with_reducible apply colFail_within (subIn (by decide) m_)
    | with_reducible apply repairRow_within (subIn (by decide) m_)
    | with_reducible apply Within.foldl
    | with_reducible apply Within.foldl_snd2
    | with_reducible apply Within.foldl_snd
    | with_reducible apply Within.foldl_fst
    | split
    | dsimp only

theorem repairFailure_within {w_ : Nat} (m_ : 570427885 ||| w_ = w_) {z0 : State} (s : State) (b : Nat) (row : Nat) (cgs : List Nat) (cols : List Nat) (bad : List Nat) (h_ : Within w_ z0 s) : Within w_ z0 (repairFailure s b row cgs cols bad) := by
  unfold repairFailure
  repeat' first
    | with_reducible assumption
    | with_reducible intro _
    | with_reducible apply Within.ite
    | with_reducible apply redirectBay_within (subIn (by decide) m_)
    | with_reducible apply poolRowBad_within (subIn (by decide) m_)
    | with_reducible apply spareRowBad_within (subIn (by decide) m_)
    | with_reducible apply repairService_within (subIn (by decide) m_)
    | with_reducible apply spareColBad_within (subIn (by decide) m_)
    | with_reducible apply Within.foldl
    | with_reducible apply Within.foldl_snd2
    | with_reducible apply Within.foldl_snd
    | with_reducible apply Within.foldl_fst
    | split
    | dsimp only

theorem repairCells_within {w_ : Nat} (m_ : 570427885 ||| w_ = w_) {z0 : State} (s : State) (cs : List CellFail) (h_ : Within w_ z0 s) : Within w_ z0 (repairCells s cs) := by
  unfold repairCells
  repeat' first
    | with_reducible assumption
    | with_reducible intro _
    | with_reducible apply repairFailure_within (subIn (by decide) m_)
    | with_reducible apply Within.foldl
    | with_reducible apply Within.foldl_snd2
    | with_reducible apply Within.foldl_snd
    | with_reducible apply Within.foldl_fst
    | dsimp only

theorem repairMarch_within {w_ : Nat} (m_ : 570427885 ||| w_ = w_) {z0 : State} (s : State) (cs : List CellFail) (h_ : Within w_ z0 s) : Within w_ z0 (repairMarch s cs) := by
  unfold repairMarch
  repeat' first
    | with_reducible assumption
    | with_reducible intro _
    | with_reducible apply repairCells_within (subIn (by decide) m_)
    | with_reducible apply noteGroups_within (subIn (by decide) m_)
    | with_reducible apply Within.foldl
    | with_reducible apply Within.foldl_snd2
    | with_reducible apply Within.foldl_snd
    | with_reducible apply Within.foldl_fst
    | dsimp only

theorem addErasure_within {w_ : Nat} (m_ : 33556545 ||| w_ = w_) {z0 : State} (s : State) (f : Nat) (sc : Nat) (w : Nat) (h_ : Within w_ z0 s) : Within w_ z0 (addErasure s f sc w) := by
  unfold addErasure
  repeat' first
    | with_reducible assumption
    | exact Eq.refl _
    | with_reducible apply Within.ite
    | with_reducible apply withdrawSub_within (subIn (by decide) m_)
    | with_reducible apply modSub_within (subIn (by decide) m_)
    | with_reducible apply event_within (subIn (by decide) m_)
    | split
    | dsimp only

theorem setSpareWord_within {w_ : Nat} (m_ : 128 ||| w_ = w_) {z0 : State} (i : Nat) (w : Nat) (trains : List (Nat × List Sweep)) (f : Nat) (sc : Nat) (s : State) (t : Nat) (h_ : Within w_ z0 s) : Within w_ z0 (setSpareWord i w trains f sc s t) := by
  unfold setSpareWord
  repeat' first
    | with_reducible assumption
    | exact Eq.refl _
    | with_reducible apply Within.ite
    | with_reducible apply modBay_within (subIn (by decide) m_)
    | split
    | dsimp only

theorem steer_within {w_ : Nat} (m_ : 536871140 ||| w_ = w_) {z0 : State} (s : State) (f : Nat) (sc : Nat) (w : Nat) (i : Nat) (trains : List (Nat × List Sweep)) (h_ : Within w_ z0 s) : Within w_ z0 (steer s f sc w i trains) := by
  unfold steer
  repeat' first
    | with_reducible assumption
    | with_reducible intro _
    | exact Eq.refl _
    | with_reducible apply noteRepair_within (subIn (by decide) m_)
    | with_reducible apply modSub_within (subIn (by decide) m_)
    | with_reducible apply setSpareWord_within (subIn (by decide) m_)
    | with_reducible apply forAll_within
    | dsimp only

theorem markSpares_within {w_ : Nat} (m_ : 64 ||| w_ = w_) {z0 : State} (s : State) (k : Nat) (bad : List Nat) (h_ : Within w_ z0 s) : Within w_ z0 (markSpares s k bad) := by
  unfold markSpares
  repeat' first
    | with_reducible assumption
    | with_reducible intro _
    | exact Eq.refl _
    | with_reducible apply modSub_within (subIn (by decide) m_)
    | with_reducible apply Within.foldl
    | with_reducible apply Within.foldl_snd2
    | with_reducible apply Within.foldl_snd
    | with_reducible apply Within.foldl_fst
    | dsimp only

theorem pickSpare_within {w_ : Nat} (m_ : 570427621 ||| w_ = w_) {z0 : State} (f : Nat) (sc : Nat) (w : Nat) (trains : List (Nat × List Sweep)) (a0_ : List Nat) : ∀ (a1_ : State), Within w_ z0 a1_ → Within w_ z0 (pickSpare f sc w trains a0_ a1_).2 := by
  induction a0_ with
  | nil =>
    intro a1_ h_
    unfold pickSpare
    repeat' first
      | with_reducible assumption
      | exact Eq.refl _
      | with_reducible apply Within.ite
      | with_reducible apply steer_within (subIn (by decide) m_)
      | with_reducible apply modSub_within (subIn (by decide) m_)
      | with_reducible apply markSpares_within (subIn (by decide) m_)
      | with_reducible apply addErasure_within (subIn (by decide) m_)
      | split
      | dsimp only
  | cons x_ l_ ih_ =>
    intro a1_ h_
    unfold pickSpare
    repeat' first
      | with_reducible assumption
      | with_reducible apply ih_
      | exact Eq.refl _
      | with_reducible apply Within.ite
      | with_reducible apply steer_within (subIn (by decide) m_)
      | with_reducible apply modSub_within (subIn (by decide) m_)
      | with_reducible apply markSpares_within (subIn (by decide) m_)
      | with_reducible apply addErasure_within (subIn (by decide) m_)
      | split
      | dsimp only

theorem steerOut_within {w_ : Nat} (m_ : 570427621 ||| w_ = w_) {z0 : State} (s : State) (f : Nat) (sc : Nat) (w : Nat) (trains : List (Nat × List Sweep)) (h_ : Within w_ z0 s) : Within w_ z0 (steerOut s f sc w trains) := by
  unfold steerOut
  repeat' first
    | with_reducible assumption
    | exact Eq.refl _
    | with_reducible apply Within.ite
    | with_reducible apply steer_within (subIn (by decide) m_)
    | with_reducible apply pickSpare_within (subIn (by decide) m_)
    | with_reducible apply addErasure_within (subIn (by decide) m_)
    | with_reducible apply withdrawSub_within (subIn (by decide) m_)
    | split
    | refine Within.snd (by assumption) ?_
    | dsimp only

theorem loseCopy_within {w_ : Nat} (m_ : 33556545 ||| w_ = w_) {z0 : State} (s : State) (f : Nat) (sc : Nat) (ck : Bool) (i : Nat) (h_ : Within w_ z0 s) : Within w_ z0 (loseCopy s f sc ck i) := by
  unfold loseCopy
  repeat' first
    | with_reducible assumption
    | exact Eq.refl _
    | with_reducible apply Within.ite
    | with_reducible apply modSub_within (subIn (by decide) m_)
    | with_reducible apply withdrawSub_within (subIn (by decide) m_)
    | with_reducible apply event_within (subIn (by decide) m_)
    | split
    | dsimp only

theorem wireFail_within {w_ : Nat} (m_ : 570427621 ||| w_ = w_) {z0 : State} (s : State) (f : Nat) (sc : Nat) (w : Nat) (trains : List (Nat × List Sweep)) (h_ : Within w_ z0 s) : Within w_ z0 (wireFail s f sc w trains) := by
  unfold wireFail
  repeat' first
    | with_reducible assumption
    | exact Eq.refl _
    | with_reducible apply Within.ite
    | with_reducible apply steer_within (subIn (by decide) m_)
    | with_reducible apply steerOut_within (subIn (by decide) m_)
    | with_reducible apply modSub_within (subIn (by decide) m_)
    | with_reducible apply markSpares_within (subIn (by decide) m_)
    | with_reducible apply loseCopy_within (subIn (by decide) m_)
    | split
    | dsimp only

theorem applySteering_within {w_ : Nat} (m_ : 536871140 ||| w_ = w_) {z0 : State} (old : State) (s : State) (f : Nat) (sc : Nat) (h_ : Within w_ z0 s) : Within w_ z0 (applySteering old s f sc) := by
  unfold applySteering
  repeat' first
    | with_reducible assumption
    | exact Eq.refl _
    | with_reducible apply Within.ite
    | with_reducible apply steer_within (subIn (by decide) m_)
    | with_reducible apply scEvent_within (subIn (by decide) m_)
    | with_reducible apply modSub_within (subIn (by decide) m_)
    | split
    | dsimp only

theorem loopTest_within {w_ : Nat} (m_ : 570427621 ||| w_ = w_) {z0 : State} (s : State) (f : Nat) (sc : Nat) (r : LoopRes) (h_ : Within w_ z0 s) : Within w_ z0 (loopTest s f sc r) := by
  unfold loopTest
  repeat' first
    | with_reducible assumption
    | with_reducible intro _
    | with_reducible apply applySteering_within (subIn (by decide) m_)
    | with_reducible apply wireFail_within (subIn (by decide) m_)
    | with_reducible apply Within.foldl
    | with_reducible apply Within.foldl_snd2
    | with_reducible apply Within.foldl_snd
    | with_reducible apply Within.foldl_fst
    | dsimp only

end Sys2Proof.Machine
end

