-- ==== Sys2Proof/Laws/WithinRead.lean ====
section
/-! SUPPORT. Which parts of the state the operations of Machine/Read.lean can change. -/

set_option Elab.async false

namespace Sys2Proof.Machine

theorem trackNew_within {w_ : Nat} (m_ : 33556513 ||| w_ = w_) {z0 : State} (s : State) (f : Nat) (key : Nat) (h_ : Within w_ z0 s) : Within w_ z0 (trackNew s f key) := by
  unfold trackNew
  repeat' first
    | with_reducible assumption
    | exact Eq.refl _
    | with_reducible apply Within.ite
    | with_reducible apply modFlume_within (subIn (by decide) m_)
    | with_reducible apply event_within (subIn (by decide) m_)
    | with_reducible apply bumpTotal_within (subIn (by decide) m_)
    | split
    | dsimp only

theorem trackFree_within {w_ : Nat} (m_ : 32 ||| w_ = w_) {z0 : State} (s : State) (f : Nat) (key : Nat) (h_ : Within w_ z0 s) : Within w_ z0 (trackFree s f key) := by
  unfold trackFree
  repeat' first
    | with_reducible assumption
    | exact Eq.refl _
    | with_reducible apply modFlume_within (subIn (by decide) m_)
    | dsimp only

theorem offerRow_within {w_ : Nat} (m_ : 570427885 ||| w_ = w_) {z0 : State} (s : State) (f : Nat) (c : Coord) (stored : Nat) (h_ : Within w_ z0 s) : Within w_ z0 (offerRow s f c stored) := by
  unfold offerRow
  repeat' first
    | with_reducible assumption
    | exact Eq.refl _
    | with_reducible apply Within.ite
    | with_reducible apply redirectBay_within (subIn (by decide) m_)
    | with_reducible apply modBank_within (subIn (by decide) m_)
    | with_reducible apply markRows_within (subIn (by decide) m_)
    | with_reducible apply repairRow_within (subIn (by decide) m_)
    | split
    | dsimp only

theorem hardFault_within {w_ : Nat} (m_ : 570427885 ||| w_ = w_) {z0 : State} (s : State) (f : Nat) (c : Coord) (stored : Nat) (h_ : Within w_ z0 s) : Within w_ z0 (hardFault s f c stored) := by
  unfold hardFault
  repeat' first
    | with_reducible assumption
    | exact Eq.refl _
    | refine remapLine_within (subIn (by decide) m_) _ _ _ _ ?_ _ (someIte (by assumption))
    | refine remapLine_within (subIn (by decide) m_) _ _ _ _ ?_ _ (by assumption)
    | with_reducible apply Within.ite
    | with_reducible apply trackFree_within (subIn (by decide) m_)
    | with_reducible apply offerRow_within (subIn (by decide) m_)
    | with_reducible apply event_within (subIn (by decide) m_)
    | split
    | dsimp only

theorem storeBack_within {w_ : Nat} (m_ : 108 ||| w_ = w_) {z0 : State} (s : State) (f : Nat) (p : Place) (data : Nat) (md : Nat) (h_ : Within w_ z0 s) : Within w_ z0 (storeBack s f p data md) := by
  unfold storeBack
  repeat' first
    | with_reducible assumption
    | exact Eq.refl _
    | with_reducible apply disarm_within (subIn (by decide) m_)
    | with_reducible apply setStored_within (subIn (by decide) m_)
    | dsimp only

theorem track_within {w_ : Nat} (m_ : 570427885 ||| w_ = w_) {z0 : State} (s : State) (f : Nat) (c : Coord) (line : Option Nat) (d : Decoded) (dpaLine : Nat) (region : Nat) (h_ : Within w_ z0 s) : Within w_ z0 (track s f c line d dpaLine region) := by
  unfold track
  repeat' first
    | with_reducible assumption
    | exact Eq.refl _
    | with_reducible apply Within.ite
    | with_reducible apply trackNew_within (subIn (by decide) m_)
    | with_reducible apply trackFree_within (subIn (by decide) m_)
    | with_reducible apply hardFault_within (subIn (by decide) m_)
    | with_reducible apply modFlume_within (subIn (by decide) m_)
    | with_reducible apply queueWriteBack_within (subIn (by decide) m_)
    | with_reducible apply storeBack_within (subIn (by decide) m_)
    | split
    | dsimp only

theorem countAt_within {w_ : Nat} (m_ : 570427885 ||| w_ = w_) {z0 : State} (s : State) (f : Nat) (c : Coord) (line : Option Nat) (d : Decoded) (retried : Bool) (dpaLine : Nat) (region : Nat) (h_ : Within w_ z0 s) : Within w_ z0 (countAt s f c line d retried dpaLine region) := by
  unfold countAt
  repeat' first
    | with_reducible assumption
    | with_reducible apply Within.ite
    | with_reducible apply event_within (subIn (by decide) m_)
    | with_reducible apply scEvent_within (subIn (by decide) m_)
    | with_reducible apply bumpTotal_within (subIn (by decide) m_)
    | with_reducible apply addTotal_within (subIn (by decide) m_)
    | with_reducible apply track_within (subIn (by decide) m_)
    | split
    | dsimp only

theorem countRead_within {w_ : Nat} (m_ : 570427885 ||| w_ = w_) {z0 : State} (s : State) (f : Nat) (line : Nat) (d : Decoded) (retried : Bool) (dpaLine : Nat) (region : Nat) (h_ : Within w_ z0 s) : Within w_ z0 (countRead s f line d retried dpaLine region) := by
  unfold countRead
  repeat' first
    | with_reducible assumption
    | with_reducible apply countAt_within (subIn (by decide) m_)
    | dsimp only

theorem settlePoison_within {w_ : Nat} (m_ : 2080 ||| w_ = w_) {z0 : State} (s : State) (f : Nat) (line : Nat) (d : Decoded) (dpaLine : Nat) (region : Nat) (h_ : Within w_ z0 s) : Within w_ z0 (settlePoison s f line d dpaLine region) := by
  unfold settlePoison
  repeat' first
    | with_reducible assumption
    | with_reducible apply Within.ite
    | with_reducible apply queueWriteBack_within (subIn (by decide) m_)
    | with_reducible apply bumpTotal_within (subIn (by decide) m_)
    | split
    | dsimp only

theorem dropCopy_within {w_ : Nat} (m_ : 4194304 ||| w_ = w_) {z0 : State} (s : State) (c : CopyWait) (h_ : Within w_ z0 s) : Within w_ z0 (dropCopy s c) := by
  unfold dropCopy
  repeat' first
    | with_reducible assumption
    | with_reducible intro _
    | exact Eq.refl _
    | with_reducible apply modLeat_within (subIn (by decide) m_)
    | dsimp only

theorem rescueNotice_within {w_ : Nat} (m_ : 33556481 ||| w_ = w_) {z0 : State} (s : State) (r : Req) (h_ : Within w_ z0 s) : Within w_ z0 (rescueNotice s r) := by
  unfold rescueNotice
  repeat' first
    | with_reducible assumption
    | with_reducible apply Within.ite
    | with_reducible apply mirrorNotice_within (subIn (by decide) m_)
    | split
    | dsimp only

theorem readNow_within {w_ : Nat} (m_ : 574630381 ||| w_ = w_) {z0 : State} (s : State) (f : Nat) (r : Req) (p : Place) (env : OpEnv) (h_ : Within w_ z0 s) : Within w_ z0 (readNow s f r p env) := by
  unfold readNow
  repeat' first
    | with_reducible assumption
    | exact Eq.refl _
    | with_reducible apply Within.ite
    | with_reducible apply countRead_within (subIn (by decide) m_)
    | with_reducible apply storeBack_within (subIn (by decide) m_)
    | with_reducible apply bumpTotal_within (subIn (by decide) m_)
    | with_reducible apply completeRead_within (subIn (by decide) m_)
    | with_reducible apply dropReq_within (subIn (by decide) m_)
    | with_reducible apply putMerged_within (subIn (by decide) m_)
    | with_reducible apply refill_within (subIn (by decide) m_)
    | with_reducible apply rescueNotice_within (subIn (by decide) m_)
    | split
    | dsimp only

theorem awayNow_within {w_ : Nat} (m_ : 4204651 ||| w_ = w_) {z0 : State} (s : State) (f : Nat) (r : Req) (env : OpEnv) (h_ : Within w_ z0 s) : Within w_ z0 (awayNow s f r env) := by
  unfold awayNow
  repeat' first
    | with_reducible assumption
    | exact Eq.refl _
    | with_reducible apply Within.ite
    | with_reducible apply completeRead_within (subIn (by decide) m_)
    | with_reducible apply dropReq_within (subIn (by decide) m_)
    | with_reducible apply putMerged_within (subIn (by decide) m_)
    | with_reducible apply serveLost_within (subIn (by decide) m_)
    | split
    | dsimp only

theorem writeQueued_within {w_ : Nat} (m_ : 4204653 ||| w_ = w_) {z0 : State} (s : State) (f : Nat) (r : Req) (h_ : Within w_ z0 s) : Within w_ z0 (writeQueued s f r) := by
  unfold writeQueued
  repeat' first
    | with_reducible assumption
    | with_reducible apply Within.ite
    | with_reducible apply dropReq_within (subIn (by decide) m_)
    | with_reducible apply mirrorLine_within (subIn (by decide) m_)
    | with_reducible apply disarm_within (subIn (by decide) m_)
    | with_reducible apply storeLine_within (subIn (by decide) m_)
    | split
    | dsimp only

theorem execNow_within {w_ : Nat} (m_ : 574630383 ||| w_ = w_) {z0 : State} (f : Nat) (env : OpEnv) (s : State) (r : Req) (h_ : Within w_ z0 s) : Within w_ z0 (execNow f env s r) := by
  unfold execNow
  repeat' first
    | with_reducible assumption
    | exact Eq.refl _
    | with_reducible apply copyArrived_within (subIn (by decide) m_)
    | with_reducible apply dropCopy_within (subIn (by decide) m_)
    | with_reducible apply copyFailed_within (subIn (by decide) m_)
    | with_reducible apply awayNow_within (subIn (by decide) m_)
    | with_reducible apply readNow_within (subIn (by decide) m_)
    | with_reducible apply writeQueued_within (subIn (by decide) m_)
    | split
    | dsimp only

theorem flushLine_within {w_ : Nat} (m_ : 574630383 ||| w_ = w_) {z0 : State} (s : State) (f : Nat) (line : Nat) (env : OpEnv) (h_ : Within w_ z0 s) : Within w_ z0 (flushLine s f line env) := by
  unfold flushLine
  repeat' first
    | with_reducible assumption
    | with_reducible intro _
    | with_reducible apply execNow_within (subIn (by decide) m_)
    | with_reducible apply Within.foldl
    | with_reducible apply Within.foldl_snd2
    | with_reducible apply Within.foldl_snd
    | with_reducible apply Within.foldl_fst
    | dsimp only

theorem readLine_within {w_ : Nat} (m_ : 574630383 ||| w_ = w_) {z0 : State} (s0 : State) (f : Nat) (line : Nat) (dpaLine : Nat) (region : Nat) (env : OpEnv) (heal : Bool) (h_ : Within w_ z0 s0) : Within w_ z0 (readLine s0 f line dpaLine region env heal).2 := by
  unfold readLine
  repeat' first
    | with_reducible assumption
    | exact Eq.refl _
    | with_reducible apply Within.ite
    | with_reducible apply flushLine_within (subIn (by decide) m_)
    | with_reducible apply bumpTotal_within (subIn (by decide) m_)
    | with_reducible apply bumpFree_within (subIn (by decide) m_)
    | with_reducible apply mirrorNotice_within (subIn (by decide) m_)
    | with_reducible apply settlePoison_within (subIn (by decide) m_)
    | with_reducible apply countRead_within (subIn (by decide) m_)
    | with_reducible apply refill_within (subIn (by decide) m_)
    | with_reducible apply storeBack_within (subIn (by decide) m_)
    | split
    | dsimp only

theorem writeLine_within {w_ : Nat} (m_ : 574630383 ||| w_ = w_) {z0 : State} (s0 : State) (f : Nat) (line : Nat) (dpaLine : Nat) (region : Nat) (data : Nat) (md : Option (BitVec 2)) (poison : Bool) (port : Nat) (dest : ReqFor) (env : OpEnv) (h_ : Within w_ z0 s0) : Within w_ z0 (writeLine s0 f line dpaLine region data md poison port dest env) := by
  unfold writeLine
  repeat' first
    | with_reducible assumption
    | exact Eq.refl _
    | with_reducible apply Within.ite
    | with_reducible apply voidWriteBacks_within (subIn (by decide) m_)
    | with_reducible apply flushLine_within (subIn (by decide) m_)
    | with_reducible apply mirrorLine_within (subIn (by decide) m_)
    | with_reducible apply disarm_within (subIn (by decide) m_)
    | with_reducible apply storeLine_within (subIn (by decide) m_)
    | split
    | dsimp only

end Sys2Proof.Machine
end

