-- ==== Sys2Proof/Laws/WithinSafe.lean ====
section
/-! SUPPORT. Which parts of the state the operations of Machine/Safe.lean can change. -/

set_option Elab.async false

namespace Sys2Proof.Machine

theorem answerSafe_within {w_ : Nat} (m_ : 2051 ||| w_ = w_) {z0 : State} (s : State) (r : Req) (h_ : Within w_ z0 s) : Within w_ z0 (answerSafe s r) := by
  unfold answerSafe
  repeat' first
    | with_reducible assumption
    | exact Eq.refl _
    | with_reducible apply Within.ite
    | with_reducible apply answerRead_within (subIn (by decide) m_)
    | with_reducible apply bumpFree_within (subIn (by decide) m_)
    | with_reducible apply finishWrite_within (subIn (by decide) m_)
    | split
    | dsimp only

theorem flushIngress_within {w_ : Nat} (m_ : 2083 ||| w_ = w_) {z0 : State} (s : State) (h_ : Within w_ z0 s) : Within w_ z0 (flushIngress s) := by
  unfold flushIngress
  repeat' first
    | with_reducible assumption
    | with_reducible intro _
    | exact Eq.refl _
    | with_reducible apply modFlume_within (subIn (by decide) m_)
    | with_reducible apply answerSafe_within (subIn (by decide) m_)
    | with_reducible apply freeCredit_within (subIn (by decide) m_)
    | with_reducible apply forAll_within
    | with_reducible apply Within.foldl
    | with_reducible apply Within.foldl_snd2
    | with_reducible apply Within.foldl_snd
    | with_reducible apply Within.foldl_fst
    | dsimp only

theorem payAll_within {w_ : Nat} (m_ : 256 ||| w_ = w_) {z0 : State} (s : State) (p : Nat → Bool) (h_ : Within w_ z0 s) : Within w_ z0 (payAll s p) := by
  unfold payAll
  repeat' first
    | with_reducible assumption
    | with_reducible intro _
    | with_reducible apply Within.ite
    | with_reducible apply modBank_within (subIn (by decide) m_)
    | with_reducible apply forAll_within
    | split
    | dsimp only

theorem disablePorts_within {w_ : Nat} (m_ : 4194304 ||| w_ = w_) {z0 : State} (s : State) (h_ : Within w_ z0 s) : Within w_ z0 (disablePorts s) := by
  unfold disablePorts
  repeat' first
    | with_reducible assumption
    | with_reducible intro _
    | exact Eq.refl _
    | with_reducible apply modPort_within (subIn (by decide) m_)
    | with_reducible apply forAll_within
    | dsimp only

theorem internalError_within {w_ : Nat} (m_ : 2049 ||| w_ = w_) {z0 : State} (s : State) (h : Nat) (h_ : Within w_ z0 s) : Within w_ z0 (internalError s h) := by
  unfold internalError
  repeat' first
    | with_reducible assumption
    | exact Eq.refl _
    | with_reducible apply modHead_within (subIn (by decide) m_)
    | with_reducible apply aerLog_within (subIn (by decide) m_)
    | dsimp only

theorem safeEntry_within {w_ : Nat} (m_ : 1111501679 ||| w_ = w_) {z0 : State} (s : State) (h_ : Within w_ z0 s) : Within w_ z0 (safeEntry s) := by
  unfold safeEntry
  repeat' first
    | with_reducible assumption
    | with_reducible intro _
    | exact Eq.refl _
    | with_reducible apply Within.ite
    | with_reducible apply emit_within (subIn (by decide) m_)
    | with_reducible apply flushIngress_within (subIn (by decide) m_)
    | with_reducible apply internalError_within (subIn (by decide) m_)
    | with_reducible apply partnerLost_within (subIn (by decide) m_)
    | with_reducible apply disablePorts_within (subIn (by decide) m_)
    | with_reducible apply payAll_within (subIn (by decide) m_)
    | with_reducible apply modBank_within (subIn (by decide) m_)
    | with_reducible apply forAll_within
    | split
    | dsimp only
    | with_reducible apply Within.raw
    | exact .inl (bitIn m_ (by decide))
    | exact .inr (Eq.refl _)

theorem raise_within {w_ : Nat} (m_ : 1112550255 ||| w_ = w_) {z0 : State} (s : State) (g : Nat) (i : Nat) (sev : Nat) (unit : Nat) (detail : Nat) (h_ : Within w_ z0 s) : Within w_ z0 (raise s g i sev unit detail) := by
  unfold raise
  repeat' first
    | with_reducible assumption
    | exact Eq.refl _
    | with_reducible apply Within.ite
    | with_reducible apply countSource_within (subIn (by decide) m_)
    | with_reducible apply event_within (subIn (by decide) m_)
    | with_reducible apply modMill_within (subIn (by decide) m_)
    | with_reducible apply safeEntry_within (subIn (by decide) m_)
    | split
    | dsimp only

end Sys2Proof.Machine
end

