-- ==== Sys2Proof/Laws/WithinMem.lean ====
section
/-! SUPPORT. Which parts of the state the operations of Machine/Mem.lean can change. -/

set_option Elab.async false

namespace Sys2Proof.Machine

theorem wakeDevice_within {w_ : Nat} (m_ : 268435456 ||| w_ = w_) {z0 : State} (s : State) (h_ : Within w_ z0 s) : Within w_ z0 (wakeDevice s) := by
  unfold wakeDevice
  repeat' first
    | with_reducible assumption
    | exact Eq.refl _
    | with_reducible apply Within.ite
    | split
    | dsimp only
    | with_reducible apply Within.raw
    | exact .inl (bitIn m_ (by decide))
    | exact .inr (Eq.refl _)

theorem wakeFlume_within {w_ : Nat} (m_ : 268435488 ||| w_ = w_) {z0 : State} (s : State) (f : Nat) (h_ : Within w_ z0 s) : Within w_ z0 (wakeFlume s f) := by
  unfold wakeFlume
  repeat' first
    | with_reducible assumption
    | exact Eq.refl _
    | with_reducible apply Within.ite
    | with_reducible apply modFlume_within (subIn (by decide) m_)
    | with_reducible apply wakeDevice_within (subIn (by decide) m_)
    | split
    | dsimp only

theorem lapseHint_within {w_ : Nat} (m_ : 2048 ||| w_ = w_) {z0 : State} (s : State) (h : Nat) (h_ : Within w_ z0 s) : Within w_ z0 (lapseHint s h) := by
  unfold lapseHint
  repeat' first
    | with_reducible assumption
    | exact Eq.refl _
    | with_reducible apply modHead_within (subIn (by decide) m_)
    | dsimp only

theorem route_within {w_ : Nat} (m_ : 33557505 ||| w_ = w_) {z0 : State} (s : State) (h : Nat) (hpa : Nat) (write : Bool) (ecc : EccCheck) (h_ : Within w_ z0 s) : Within w_ z0 (route s h hpa write ecc).2 := by
  unfold route
  repeat' first
    | with_reducible assumption
    | exact Eq.refl _
    | with_reducible apply Within.ite
    | with_reducible apply regionCheck_within (subIn (by decide) m_)
    | split
    | dsimp only

theorem ingress_within {w_ : Nat} (m_ : 268435488 ||| w_ = w_) {z0 : State} (s : State) (f : Nat) (r : Req) (h_ : Within w_ z0 s) : Within w_ z0 (ingress s f r) := by
  unfold ingress
  repeat' first
    | with_reducible assumption
    | exact Eq.refl _
    | with_reducible apply wakeFlume_within (subIn (by decide) m_)
    | with_reducible apply modFlume_within (subIn (by decide) m_)
    | dsimp only

theorem memArrives_within {w_ : Nat} (m_ : 268437504 ||| w_ = w_) {z0 : State} (s : State) (h : Nat) (h_ : Within w_ z0 s) : Within w_ z0 (memArrives s h) := by
  unfold memArrives
  repeat' first
    | with_reducible assumption
    | with_reducible apply wakeDevice_within (subIn (by decide) m_)
    | with_reducible apply lapseHint_within (subIn (by decide) m_)
    | dsimp only

theorem passThrough_within {w_ : Nat} (m_ : 2048 ||| w_ = w_) {z0 : State} (s : State) (h : Nat) (write : Bool) (h_ : Within w_ z0 s) : Within w_ z0 (passThrough s h write) := by
  unfold passThrough
  repeat' first
    | with_reducible assumption
    | with_reducible apply freeCredit_within (subIn (by decide) m_)
    | with_reducible apply takeCredit_within (subIn (by decide) m_)
    | dsimp only

theorem notePoison_within {w_ : Nat} (m_ : 2048 ||| w_ = w_) {z0 : State} (s : State) (h : Nat) (poison : Bool) (h_ : Within w_ z0 s) : Within w_ z0 (notePoison s h poison) := by
  unfold notePoison
  repeat' first
    | with_reducible assumption
    | exact Eq.refl _
    | with_reducible apply Within.ite
    | with_reducible apply modHead_within (subIn (by decide) m_)
    | split
    | dsimp only

theorem hostRead_within {w_ : Nat} (m_ : 301992995 ||| w_ = w_) {z0 : State} (s0 : State) (h : Nat) (tag : Nat) (hpa : Nat) (meta0 : Bool) (ecc : EccCheck) (h_ : Within w_ z0 s0) : Within w_ z0 (hostRead s0 h tag hpa meta0 ecc) := by
  unfold hostRead
  repeat' first
    | with_reducible assumption
    | exact Eq.refl _
    | with_reducible apply Within.ite
    | with_reducible apply memArrives_within (subIn (by decide) m_)
    | with_reducible apply answerSafe_within (subIn (by decide) m_)
    | with_reducible apply passThrough_within (subIn (by decide) m_)
    | with_reducible apply route_within (subIn (by decide) m_)
    | with_reducible apply event_within (subIn (by decide) m_)
    | with_reducible apply ingress_within (subIn (by decide) m_)
    | with_reducible apply takeCredit_within (subIn (by decide) m_)
    | split
    | refine Within.snd (by assumption) ?_
    | dsimp only

theorem hostWrite_within {w_ : Nat} (m_ : 301992993 ||| w_ = w_) {z0 : State} (s0 : State) (h : Nat) (tag : Nat) (hpa : Nat) (data : Line) (mask : BitVec 64) (poison : Bool) (md : Option (BitVec 2)) (ecc : EccCheck) (h_ : Within w_ z0 s0) : Within w_ z0 (hostWrite s0 h tag hpa data mask poison md ecc) := by
  unfold hostWrite
  repeat' first
    | with_reducible assumption
    | exact Eq.refl _
    | with_reducible apply Within.ite
    | with_reducible apply notePoison_within (subIn (by decide) m_)
    | with_reducible apply memArrives_within (subIn (by decide) m_)
    | with_reducible apply answerWrite_within (subIn (by decide) m_)
    | with_reducible apply passThrough_within (subIn (by decide) m_)
    | with_reducible apply route_within (subIn (by decide) m_)
    | with_reducible apply event_within (subIn (by decide) m_)
    | with_reducible apply ingress_within (subIn (by decide) m_)
    | with_reducible apply takeCredit_within (subIn (by decide) m_)
    | split
    | refine Within.snd (by assumption) ?_
    | dsimp only

theorem ackPush_within {w_ : Nat} (m_ : 4194305 ||| w_ = w_) {z0 : State} (s : State) (f : Nat) (tag : Nat) (k : Nat) (stored : Bool) (h_ : Within w_ z0 s) : Within w_ z0 (ackPush s f tag k stored) := by
  unfold ackPush
  repeat' first
    | with_reducible assumption
    | with_reducible intro _
    | exact Eq.refl _
    | with_reducible apply Within.ite
    | with_reducible apply returnSlots_within (subIn (by decide) m_)
    | with_reducible apply sendAck_within (subIn (by decide) m_)
    | with_reducible apply modLeat_within (subIn (by decide) m_)
    | split
    | dsimp only

theorem dropApplied_within {w_ : Nat} (m_ : 4194337 ||| w_ = w_) {z0 : State} (s : State) (h_ : Within w_ z0 s) : Within w_ z0 (dropApplied s) := by
  unfold dropApplied
  repeat' first
    | with_reducible assumption
    | with_reducible intro _
    | exact Eq.refl _
    | with_reducible apply Within.ite
    | with_reducible apply returnSlots_within (subIn (by decide) m_)
    | with_reducible apply sendAck_within (subIn (by decide) m_)
    | with_reducible apply modFlume_within (subIn (by decide) m_)
    | with_reducible apply forAll_within
    | with_reducible apply Within.foldl
    | with_reducible apply Within.foldl_snd2
    | with_reducible apply Within.foldl_snd
    | with_reducible apply Within.foldl_fst
    | split
    | dsimp only

theorem ackApply_within {w_ : Nat} (m_ : 4194337 ||| w_ = w_) {z0 : State} (s : State) (f : Nat) (d : ReqFor) (poison : Bool) (stored : Bool) (h_ : Within w_ z0 s) : Within w_ z0 (ackApply s f d poison stored) := by
  unfold ackApply
  repeat' first
    | with_reducible assumption
    | with_reducible intro _
    | exact Eq.refl _
    | with_reducible apply Within.ite
    | with_reducible apply ackPush_within (subIn (by decide) m_)
    | with_reducible apply returnSlots_within (subIn (by decide) m_)
    | with_reducible apply sendAck_within (subIn (by decide) m_)
    | with_reducible apply dropApplied_within (subIn (by decide) m_)
    | with_reducible apply modLeat_within (subIn (by decide) m_)
    | with_reducible apply Within.foldl
    | with_reducible apply Within.foldl_snd2
    | with_reducible apply Within.foldl_snd
    | with_reducible apply Within.foldl_fst
    | split
    | dsimp only

theorem admitRead_within {w_ : Nat} (m_ : 37759083 ||| w_ = w_) {z0 : State} (s0 : State) (f : Nat) (r0 : Req) (h_ : Within w_ z0 s0) : Within w_ z0 (admitRead s0 f r0) := by
  unfold admitRead
  repeat' first
    | with_reducible assumption
    | with_reducible apply Within.ite
    | with_reducible apply bumpId_within (subIn (by decide) m_)
    | with_reducible apply requestCopy_within (subIn (by decide) m_)
    | with_reducible apply serveLost_within (subIn (by decide) m_)
    | with_reducible apply mirrorNotice_within (subIn (by decide) m_)
    | with_reducible apply serveAway_within (subIn (by decide) m_)
    | with_reducible apply putQueue_within (subIn (by decide) m_)
    | split
    | dsimp only

theorem admitWrite_within {w_ : Nat} (m_ : 4204651 ||| w_ = w_) {z0 : State} (s0 : State) (f : Nat) (r0 : Req) (h_ : Within w_ z0 s0) : Within w_ z0 (admitWrite s0 f r0) := by
  unfold admitWrite
  repeat' first
    | with_reducible assumption
    | exact Eq.refl _
    | with_reducible apply Within.ite
    | with_reducible apply voidWriteBacks_within (subIn (by decide) m_)
    | with_reducible apply bumpId_within (subIn (by decide) m_)
    | with_reducible apply finishWrite_within (subIn (by decide) m_)
    | with_reducible apply putQueue_within (subIn (by decide) m_)
    | with_reducible apply serveAway_within (subIn (by decide) m_)
    | with_reducible apply mirrorStep_within (subIn (by decide) m_)
    | with_reducible apply ackApply_within (subIn (by decide) m_)
    | split
    | dsimp only

theorem leaveIngress_within {w_ : Nat} (m_ : 2048 ||| w_ = w_) {z0 : State} (s : State) (r : Req) (h_ : Within w_ z0 s) : Within w_ z0 (leaveIngress s r) := by
  unfold leaveIngress
  repeat' first
    | with_reducible assumption
    | with_reducible apply Within.ite
    | with_reducible apply freeCredit_within (subIn (by decide) m_)
    | split
    | dsimp only

/-! The meanings: which parts of the state each can change. -/

theorem execHdmDecoderCommit_within {w_ : Nat} (m_ : 2048 ||| w_ = w_) (h : Nat) (i : Nat) (base : Nat) (size : Nat) (ways : Nat) (gran : Nat) (skip : Nat) (lock : Bool) (commit : Bool) (s : State) : Touches w_ s (execHdmDecoderCommit h i base size ways gran skip lock commit s) := by
  unfold execHdmDecoderCommit
  repeat' first
    | with_reducible assumption
    | with_reducible exact Within.refl _ _
    | with_reducible apply Touches.next
    | with_reducible apply Touches.ite
    | with_reducible apply Touches.onElement
    | exact Eq.refl _
    | with_reducible apply Within.ite
    | with_reducible apply modHead_within (subIn (by decide) m_)
    | split
    | dsimp only

theorem execMemRd_within {w_ : Nat} (m_ : 301992995 ||| w_ = w_) (h : Nat) (tag : Nat) (hpa : Nat) (meta0 : Bool) (ecc : EccCheck) (s : State) : Touches w_ s (execMemRd h tag hpa meta0 ecc s) := by
  unfold execMemRd
  repeat' first
    | with_reducible assumption
    | with_reducible exact Within.refl _ _
    | with_reducible apply Touches.next
    | with_reducible apply Touches.ite
    | with_reducible apply Touches.onElement
    | with_reducible apply Within.ite
    | with_reducible apply hostRead_within (subIn (by decide) m_)
    | split
    | dsimp only

theorem execMemRdFwd_within {w_ : Nat} (m_ : 301992995 ||| w_ = w_) (h : Nat) (tag : Nat) (hpa : Nat) (meta0 : Bool) (ecc : EccCheck) (s : State) : Touches w_ s (execMemRdFwd h tag hpa meta0 ecc s) := by
  unfold execMemRdFwd
  repeat' first
    | with_reducible assumption
    | with_reducible exact Within.refl _ _
    | with_reducible apply Touches.next
    | with_reducible apply Touches.ite
    | with_reducible apply Touches.onElement
    | with_reducible apply Within.ite
    | with_reducible apply hostRead_within (subIn (by decide) m_)
    | split
    | dsimp only

theorem execMemSpecRd_within {w_ : Nat} (m_ : 268437504 ||| w_ = w_) (h : Nat) (_hpa : Nat) (s : State) : Touches w_ s (execMemSpecRd h _hpa s) := by
  unfold execMemSpecRd
  repeat' first
    | with_reducible assumption
    | with_reducible exact Within.refl _ _
    | with_reducible apply Touches.next
    | with_reducible apply Touches.ite
    | with_reducible apply Touches.onElement
    | with_reducible apply Within.ite
    | with_reducible apply passThrough_within (subIn (by decide) m_)
    | with_reducible apply memArrives_within (subIn (by decide) m_)
    | split
    | dsimp only

theorem execMemInv_within {w_ : Nat} (m_ : 268437505 ||| w_ = w_) (h : Nat) (tag : Nat) (_hpa : Nat) (s : State) : Touches w_ s (execMemInv h tag _hpa s) := by
  unfold execMemInv
  repeat' first
    | with_reducible assumption
    | with_reducible exact Within.refl _ _
    | with_reducible apply Touches.next
    | with_reducible apply Touches.ite
    | with_reducible apply Touches.onElement
    | with_reducible apply Within.ite
    | with_reducible apply answerWrite_within (subIn (by decide) m_)
    | with_reducible apply passThrough_within (subIn (by decide) m_)
    | with_reducible apply memArrives_within (subIn (by decide) m_)
    | split
    | dsimp only

theorem execMemWr_within {w_ : Nat} (m_ : 301992993 ||| w_ = w_) (h : Nat) (tag : Nat) (hpa : Nat) (data : Line) (poison : Bool) (md : Option (BitVec 2)) (ecc : EccCheck) (s : State) : Touches w_ s (execMemWr h tag hpa data poison md ecc s) := by
  unfold execMemWr
  repeat' first
    | with_reducible assumption
    | with_reducible exact Within.refl _ _
    | with_reducible apply Touches.next
    | with_reducible apply Touches.ite
    | with_reducible apply Touches.onElement
    | with_reducible apply Within.ite
    | with_reducible apply hostWrite_within (subIn (by decide) m_)
    | split
    | dsimp only

theorem execMemWrFwd_within {w_ : Nat} (m_ : 301992993 ||| w_ = w_) (h : Nat) (tag : Nat) (hpa : Nat) (data : Line) (poison : Bool) (md : Option (BitVec 2)) (ecc : EccCheck) (s : State) : Touches w_ s (execMemWrFwd h tag hpa data poison md ecc s) := by
  unfold execMemWrFwd
  repeat' first
    | with_reducible assumption
    | with_reducible exact Within.refl _ _
    | with_reducible apply Touches.next
    | with_reducible apply Touches.ite
    | with_reducible apply Touches.onElement
    | with_reducible apply Within.ite
    | with_reducible apply hostWrite_within (subIn (by decide) m_)
    | split
    | dsimp only

theorem execMemWrPtl_within {w_ : Nat} (m_ : 301992993 ||| w_ = w_) (h : Nat) (tag : Nat) (hpa : Nat) (data : Line) (mask : BitVec 64) (poison : Bool) (md : Option (BitVec 2)) (ecc : EccCheck) (s : State) : Touches w_ s (execMemWrPtl h tag hpa data mask poison md ecc s) := by
  unfold execMemWrPtl
  repeat' first
    | with_reducible assumption
    | with_reducible exact Within.refl _ _
    | with_reducible apply Touches.next
    | with_reducible apply Touches.ite
    | with_reducible apply Touches.onElement
    | with_reducible apply ask_within
    | with_reducible intro _
    | with_reducible apply Within.ite
    | with_reducible apply hostWrite_within (subIn (by decide) m_)
    | split
    | dsimp only

theorem execRequestAccept_within {w_ : Nat} (m_ : 38283371 ||| w_ = w_) (f : Nat) (port : Nat) (s : State) : Touches w_ s (execRequestAccept f port s) := by
  unfold execRequestAccept
  repeat' first
    | with_reducible assumption
    | with_reducible exact Within.refl _ _
    | with_reducible apply Touches.next
    | with_reducible apply Touches.ite
    | with_reducible apply Touches.onElement
    | exact Eq.refl _
    | with_reducible apply Within.ite
    | with_reducible apply grantTo_within (subIn (by decide) m_)
    | with_reducible apply leaveIngress_within (subIn (by decide) m_)
    | with_reducible apply modFlume_within (subIn (by decide) m_)
    | with_reducible apply admitRead_within (subIn (by decide) m_)
    | with_reducible apply admitWrite_within (subIn (by decide) m_)
    | split
    | dsimp only

end Sys2Proof.Machine
end

