-- ==== Sys2Proof/Laws/WithinFlume.lean ====
section
/-! SUPPORT. Which parts of the state the operations of Machine/Flume.lean can change. -/

set_option Elab.async false

namespace Sys2Proof.Machine

theorem waitUntil_within {w_ : Nat} (m_ : 64 ||| w_ = w_) {z0 : State} (s : State) (sub : Nat) (c : Nat) (h_ : Within w_ z0 s) : Within w_ z0 (waitUntil s sub c) := by
  unfold waitUntil
  repeat' first
    | with_reducible assumption
    | exact Eq.refl _
    | with_reducible apply modSub_within (subIn (by decide) m_)
    | dsimp only

theorem takeEffect_within {w_ : Nat} (m_ : 8 ||| w_ = w_) {z0 : State} (s : State) (e : Issued) (h_ : Within w_ z0 s) : Within w_ z0 (takeEffect s e) := by
  unfold takeEffect
  repeat' first
    | with_reducible assumption
    | exact Eq.refl _
    | with_reducible apply setCells_within (subIn (by decide) m_)
    | split
    | dsimp only

theorem closeWindows_within {w_ : Nat} (m_ : 72 ||| w_ = w_) {z0 : State} (s : State) (sub : Nat) (h_ : Within w_ z0 s) : Within w_ z0 (closeWindows s sub) := by
  unfold closeWindows
  repeat' first
    | with_reducible assumption
    | with_reducible intro _
    | exact Eq.refl _
    | with_reducible apply takeEffect_within (subIn (by decide) m_)
    | with_reducible apply modSub_within (subIn (by decide) m_)
    | with_reducible apply Within.foldl
    | with_reducible apply Within.foldl_snd2
    | with_reducible apply Within.foldl_snd
    | with_reducible apply Within.foldl_fst
    | dsimp only

theorem drainWindows_within {w_ : Nat} (m_ : 72 ||| w_ = w_) {z0 : State} (s : State) (sub : Nat) (h_ : Within w_ z0 s) : Within w_ z0 (drainWindows s sub) := by
  unfold drainWindows
  repeat' first
    | with_reducible assumption
    | with_reducible intro _
    | with_reducible apply closeWindows_within (subIn (by decide) m_)
    | with_reducible apply waitUntil_within (subIn (by decide) m_)
    | with_reducible apply Within.foldl
    | with_reducible apply Within.foldl_snd2
    | with_reducible apply Within.foldl_snd
    | with_reducible apply Within.foldl_fst
    | dsimp only

theorem noteCmd_within {w_ : Nat} (m_ : 64 ||| w_ = w_) {z0 : State} (s : State) (sub : Nat) (c : DramCmd) (h_ : Within w_ z0 s) : Within w_ z0 (noteCmd s sub c) := by
  unfold noteCmd
  repeat' first
    | with_reducible assumption
    | exact Eq.refl _
    | with_reducible apply modSub_within (subIn (by decide) m_)
    | dsimp only

theorem timeAct_within {w_ : Nat} (m_ : 320 ||| w_ = w_) {z0 : State} (s : State) (f : Nat) (sub : Nat) (b : Nat) (row : Nat) (h_ : Within w_ z0 s) : Within w_ z0 (timeAct s f sub b row) := by
  unfold timeAct
  repeat' first
    | with_reducible assumption
    | exact Eq.refl _
    | with_reducible apply modBank_within (subIn (by decide) m_)
    | with_reducible apply modSub_within (subIn (by decide) m_)
    | dsimp only

theorem timePre_within {w_ : Nat} (m_ : 256 ||| w_ = w_) {z0 : State} (s : State) (f : Nat) (sub : Nat) (b : Nat) (h_ : Within w_ z0 s) : Within w_ z0 (timePre s f sub b) := by
  unfold timePre
  repeat' first
    | with_reducible assumption
    | exact Eq.refl _
    | with_reducible apply modBank_within (subIn (by decide) m_)
    | dsimp only

theorem autoClose_within {w_ : Nat} (m_ : 256 ||| w_ = w_) {z0 : State} (s : State) (f : Nat) (b : Nat) (h_ : Within w_ z0 s) : Within w_ z0 (autoClose s f b) := by
  unfold autoClose
  repeat' first
    | with_reducible assumption
    | exact Eq.refl _
    | with_reducible apply Within.ite
    | with_reducible apply modBank_within (subIn (by decide) m_)
    | split
    | dsimp only

theorem timeRead_within {w_ : Nat} (m_ : 320 ||| w_ = w_) {z0 : State} (s : State) (f : Nat) (sub : Nat) (b : Nat) (h_ : Within w_ z0 s) : Within w_ z0 (timeRead s f sub b) := by
  unfold timeRead
  repeat' first
    | with_reducible assumption
    | exact Eq.refl _
    | with_reducible apply modBank_within (subIn (by decide) m_)
    | with_reducible apply autoClose_within (subIn (by decide) m_)
    | with_reducible apply modSub_within (subIn (by decide) m_)
    | dsimp only

theorem timeWrite_within {w_ : Nat} (m_ : 320 ||| w_ = w_) {z0 : State} (s : State) (f : Nat) (sub : Nat) (b : Nat) (h_ : Within w_ z0 s) : Within w_ z0 (timeWrite s f sub b) := by
  unfold timeWrite
  repeat' first
    | with_reducible assumption
    | with_reducible intro _
    | exact Eq.refl _
    | with_reducible apply modBank_within (subIn (by decide) m_)
    | with_reducible apply autoClose_within (subIn (by decide) m_)
    | with_reducible apply modSub_within (subIn (by decide) m_)
    | with_reducible apply forAll_within
    | dsimp only

theorem timeBusy_within {w_ : Nat} (m_ : 256 ||| w_ = w_) {z0 : State} (s : State) (f : Nat) (sub : Nat) (b : Nat) (tenths : Nat) (h_ : Within w_ z0 s) : Within w_ z0 (timeBusy s f sub b tenths) := by
  unfold timeBusy
  repeat' first
    | with_reducible assumption
    | exact Eq.refl _
    | with_reducible apply modBank_within (subIn (by decide) m_)
    | dsimp only

theorem noteThermal_within {w_ : Nat} (m_ : 134217728 ||| w_ = w_) {z0 : State} (s : State) (b : Nat) (kind : Nat) (h_ : Within w_ z0 s) : Within w_ z0 (noteThermal s b kind) := by
  unfold noteThermal
  repeat' first
    | with_reducible assumption
    | exact Eq.refl _
    | dsimp only
    | with_reducible apply Within.raw
    | exact .inl (bitIn m_ (by decide))
    | exact .inr (Eq.refl _)

theorem issueAct_within {w_ : Nat} (m_ : 134218048 ||| w_ = w_) {z0 : State} (s : State) (f : Nat) (sub : Nat) (b : Nat) (row : Nat) (h_ : Within w_ z0 s) : Within w_ z0 (issueAct s f sub b row) := by
  unfold issueAct
  repeat' first
    | with_reducible assumption
    | with_reducible apply noteThermal_within (subIn (by decide) m_)
    | with_reducible apply noteCmd_within (subIn (by decide) m_)
    | with_reducible apply timeAct_within (subIn (by decide) m_)
    | dsimp only

theorem issuePre_within {w_ : Nat} (m_ : 320 ||| w_ = w_) {z0 : State} (s : State) (f : Nat) (sub : Nat) (b : Nat) (h_ : Within w_ z0 s) : Within w_ z0 (issuePre s f sub b) := by
  unfold issuePre
  repeat' first
    | with_reducible assumption
    | with_reducible apply noteCmd_within (subIn (by decide) m_)
    | with_reducible apply timePre_within (subIn (by decide) m_)
    | dsimp only

theorem countHit_within {w_ : Nat} (m_ : 256 ||| w_ = w_) {z0 : State} (s : State) (b : Nat) (h_ : Within w_ z0 s) : Within w_ z0 (countHit s b) := by
  unfold countHit
  repeat' first
    | with_reducible assumption
    | exact Eq.refl _
    | with_reducible apply modBank_within (subIn (by decide) m_)
    | dsimp only

theorem issueRead_within {w_ : Nat} (m_ : 134218048 ||| w_ = w_) {z0 : State} (s : State) (f : Nat) (sub : Nat) (b : Nat) (rid : Nat) (h_ : Within w_ z0 s) : Within w_ z0 (issueRead s f sub b rid) := by
  unfold issueRead
  repeat' first
    | with_reducible assumption
    | with_reducible apply noteThermal_within (subIn (by decide) m_)
    | with_reducible apply noteCmd_within (subIn (by decide) m_)
    | with_reducible apply timeRead_within (subIn (by decide) m_)
    | with_reducible apply countHit_within (subIn (by decide) m_)
    | dsimp only

theorem issueWrite_within {w_ : Nat} (m_ : 134218048 ||| w_ = w_) {z0 : State} (s : State) (f : Nat) (sub : Nat) (b : Nat) (store : Option (Nat × Stored)) (h_ : Within w_ z0 s) : Within w_ z0 (issueWrite s f sub b store) := by
  unfold issueWrite
  repeat' first
    | with_reducible assumption
    | with_reducible apply noteThermal_within (subIn (by decide) m_)
    | with_reducible apply noteCmd_within (subIn (by decide) m_)
    | with_reducible apply timeWrite_within (subIn (by decide) m_)
    | with_reducible apply countHit_within (subIn (by decide) m_)
    | dsimp only

theorem refreshed_within {w_ : Nat} (m_ : 256 ||| w_ = w_) {z0 : State} (s : State) (b : Nat) (owed : Bool) (h_ : Within w_ z0 s) : Within w_ z0 (refreshed s b owed) := by
  unfold refreshed
  repeat' first
    | with_reducible assumption
    | exact Eq.refl _
    | with_reducible apply modBank_within (subIn (by decide) m_)
    | dsimp only

theorem unrefreshed_within {w_ : Nat} (m_ : 256 ||| w_ = w_) {z0 : State} (s : State) (b : Nat) (owed : Bool) (h_ : Within w_ z0 s) : Within w_ z0 (unrefreshed s b owed) := by
  unfold unrefreshed
  repeat' first
    | with_reducible assumption
    | exact Eq.refl _
    | with_reducible apply modBank_within (subIn (by decide) m_)
    | dsimp only

theorem issueRef_within {w_ : Nat} (m_ : 134218048 ||| w_ = w_) {z0 : State} (s : State) (f : Nat) (sub : Nat) (b : Nat) (h_ : Within w_ z0 s) : Within w_ z0 (issueRef s f sub b) := by
  unfold issueRef
  repeat' first
    | with_reducible assumption
    | with_reducible apply noteThermal_within (subIn (by decide) m_)
    | with_reducible apply noteCmd_within (subIn (by decide) m_)
    | with_reducible apply refreshed_within (subIn (by decide) m_)
    | with_reducible apply timeBusy_within (subIn (by decide) m_)
    | dsimp only

theorem issueElement_within {w_ : Nat} (m_ : 352 ||| w_ = w_) {z0 : State} (s : State) (f : Nat) (sub : Nat) (b : Nat) (h_ : Within w_ z0 s) : Within w_ z0 (issueElement s f sub b) := by
  unfold issueElement
  repeat' first
    | with_reducible assumption
    | exact Eq.refl _
    | with_reducible apply modFlume_within (subIn (by decide) m_)
    | with_reducible apply noteCmd_within (subIn (by decide) m_)
    | with_reducible apply timeBusy_within (subIn (by decide) m_)
    | dsimp only

theorem issueTrain_within {w_ : Nat} (m_ : 96 ||| w_ = w_) {z0 : State} (s : State) (f : Nat) (sc : Nat) (p : Pass) (h_ : Within w_ z0 s) : Within w_ z0 (issueTrain s f sc p) := by
  unfold issueTrain
  repeat' first
    | with_reducible assumption
    | exact Eq.refl _
    | with_reducible apply modFlume_within (subIn (by decide) m_)
    | with_reducible apply noteCmd_within (subIn (by decide) m_)
    | dsimp only

theorem serveHeld_within {w_ : Nat} (m_ : 2156 ||| w_ = w_) {z0 : State} (s : State) (f : Nat) (r : Req) (h_ : Within w_ z0 s) : Within w_ z0 (serveHeld s f r) := by
  unfold serveHeld
  repeat' first
    | with_reducible assumption
    | exact Eq.refl _
    | with_reducible apply Within.ite
    | with_reducible apply dropReq_within (subIn (by decide) m_)
    | with_reducible apply disarm_within (subIn (by decide) m_)
    | with_reducible apply storeLine_within (subIn (by decide) m_)
    | with_reducible apply modFlume_within (subIn (by decide) m_)
    | split
    | dsimp only

theorem writeOut_within {w_ : Nat} (m_ : 134220132 ||| w_ = w_) {z0 : State} (s : State) (f : Nat) (sub : Nat) (r : Req) (p : Place) (h_ : Within w_ z0 s) : Within w_ z0 (writeOut s f sub r p) := by
  unfold writeOut
  repeat' first
    | with_reducible assumption
    | with_reducible apply dropReq_within (subIn (by decide) m_)
    | with_reducible apply disarm_within (subIn (by decide) m_)
    | with_reducible apply issueWrite_within (subIn (by decide) m_)
    | with_reducible apply noRefetch_within (subIn (by decide) m_)
    | dsimp only

theorem issueCand_within {w_ : Nat} (m_ : 138422639 ||| w_ = w_) {z0 : State} (s0 : State) (f : Nat) (sc : Nat) (x : Cand) (h_ : Within w_ z0 s0) : Within w_ z0 (issueCand s0 f sc x) := by
  unfold issueCand
  repeat' first
    | with_reducible assumption
    | exact Eq.refl _
    | with_reducible apply Within.ite
    | with_reducible apply modSub_within (subIn (by decide) m_)
    | with_reducible apply serveAway_within (subIn (by decide) m_)
    | with_reducible apply serveHeld_within (subIn (by decide) m_)
    | with_reducible apply issueAct_within (subIn (by decide) m_)
    | with_reducible apply modBank_within (subIn (by decide) m_)
    | with_reducible apply issuePre_within (subIn (by decide) m_)
    | with_reducible apply writeOut_within (subIn (by decide) m_)
    | with_reducible apply modFlume_within (subIn (by decide) m_)
    | with_reducible apply issueRead_within (subIn (by decide) m_)
    | split
    | dsimp only

theorem issueAny_within {w_ : Nat} (m_ : 138422639 ||| w_ = w_) {z0 : State} (s : State) (f : Nat) (sc : Nat) (x : Option Cand) (h_ : Within w_ z0 s) : Within w_ z0 (issueAny s f sc x) := by
  unfold issueAny
  repeat' first
    | with_reducible assumption
    | exact Eq.refl _
    | with_reducible apply issueCand_within (subIn (by decide) m_)
    | split
    | dsimp only

theorem issueBest_within {w_ : Nat} (m_ : 138422639 ||| w_ = w_) {z0 : State} (s : State) (f : Nat) (sc : Nat) (h_ : Within w_ z0 s) : Within w_ z0 (issueBest s f sc) := by
  unfold issueBest
  repeat' first
    | with_reducible assumption
    | exact Eq.refl _
    | with_reducible apply Within.ite
    | with_reducible apply issueTrain_within (subIn (by decide) m_)
    | with_reducible apply issueAny_within (subIn (by decide) m_)
    | split
    | dsimp only

theorem issueNext_within {w_ : Nat} (m_ : 138422639 ||| w_ = w_) {z0 : State} (s : State) (f : Nat) (sc : Nat) (h_ : Within w_ z0 s) : Within w_ z0 (issueNext s f sc) := by
  unfold issueNext
  repeat' first
    | with_reducible assumption
    | exact Eq.refl _
    | with_reducible apply Within.ite
    | with_reducible apply issuePre_within (subIn (by decide) m_)
    | with_reducible apply issueRef_within (subIn (by decide) m_)
    | with_reducible apply issueElement_within (subIn (by decide) m_)
    | with_reducible apply issueBest_within (subIn (by decide) m_)
    | split
    | dsimp only

theorem passCycles_within {w_ : Nat} (m_ : 72 ||| w_ = w_) {z0 : State} (s : State) (sub : Nat) (gap : Nat) (h_ : Within w_ z0 s) : Within w_ z0 (passCycles s sub gap) := by
  unfold passCycles
  repeat' first
    | with_reducible assumption
    | exact Eq.refl _
    | with_reducible apply closeWindows_within (subIn (by decide) m_)
    | with_reducible apply modSub_within (subIn (by decide) m_)
    | dsimp only

theorem abandonSlice_within {w_ : Nat} (m_ : 64 ||| w_ = w_) {z0 : State} (s : State) (sub : Nat) (h_ : Within w_ z0 s) : Within w_ z0 (abandonSlice s sub) := by
  unfold abandonSlice
  repeat' first
    | with_reducible assumption
    | exact Eq.refl _
    | with_reducible apply Within.ite
    | with_reducible apply modSub_within (subIn (by decide) m_)
    | split
    | dsimp only

theorem followHold_within {w_ : Nat} (m_ : 96 ||| w_ = w_) {z0 : State} (s : State) (f : Nat) (h_ : Within w_ z0 s) : Within w_ z0 (followHold s f) := by
  unfold followHold
  repeat' first
    | with_reducible assumption
    | with_reducible intro _
    | exact Eq.refl _
    | with_reducible apply Within.ite
    | with_reducible apply modFlume_within (subIn (by decide) m_)
    | with_reducible apply abandonSlice_within (subIn (by decide) m_)
    | with_reducible apply forAll_within
    | split
    | dsimp only

theorem takeFlmCtl_within {w_ : Nat} (m_ : 100 ||| w_ = w_) {z0 : State} (s : State) (f : Nat) (v : Nat) (h_ : Within w_ z0 s) : Within w_ z0 (takeFlmCtl s f v) := by
  unfold takeFlmCtl
  repeat' first
    | with_reducible assumption
    | with_reducible apply followHold_within (subIn (by decide) m_)
    | with_reducible apply regSet_within (subIn (by decide) m_)
    | dsimp only

theorem wakePort_within {w_ : Nat} (m_ : 268435488 ||| w_ = w_) {z0 : State} (s : State) (port : Nat) (h_ : Within w_ z0 s) : Within w_ z0 (wakePort s port) := by
  unfold wakePort
  repeat' first
    | with_reducible assumption
    | with_reducible apply Within.ite
    | with_reducible apply wakeFlume_within (subIn (by decide) m_)
    | with_reducible apply wakeDevice_within (subIn (by decide) m_)
    | split
    | dsimp only

theorem writeNow_within {w_ : Nat} (m_ : 369100837 ||| w_ = w_) {z0 : State} (s : State) (path : Nat) (off : Nat) (port : Nat) (v : Nat) (take : State → State) (h_ : Within w_ z0 s) (hf_ : ∀ a0, Within w_ z0 a0 → Within w_ z0 (take a0)) : Within w_ z0 (writeNow s path off port v take) := by
  unfold writeNow
  repeat' first
    | with_reducible assumption
    | with_reducible intro _
    | exact Eq.refl _
    | with_reducible apply hf_
    | with_reducible apply Within.ite
    | with_reducible apply accessFault_within (subIn (by decide) m_)
    | with_reducible apply wakePort_within (subIn (by decide) m_)
    | split
    | dsimp only
    | with_reducible apply Within.raw
    | exact .inl (bitIn m_ (by decide))
    | exact .inr (Eq.refl _)

theorem queuePasses_within {w_ : Nat} (m_ : 32 ||| w_ = w_) {z0 : State} (s : State) (f : Nat) (sc : Nat) (kind : Nat) (tuned : Bool) (tiers : List Nat) (h_ : Within w_ z0 s) : Within w_ z0 (queuePasses s f sc kind tuned tiers) := by
  unfold queuePasses
  repeat' first
    | with_reducible assumption
    | with_reducible intro _
    | exact Eq.refl _
    | with_reducible apply modFlume_within (subIn (by decide) m_)
    | with_reducible apply Within.foldl
    | with_reducible apply Within.foldl_snd2
    | with_reducible apply Within.foldl_snd
    | with_reducible apply Within.foldl_fst
    | dsimp only

theorem startPass_within {w_ : Nat} (m_ : 32 ||| w_ = w_) {z0 : State} (s : State) (f : Nat) (sc : Nat) (h_ : Within w_ z0 s) : Within w_ z0 (startPass s f sc) := by
  unfold startPass
  repeat' first
    | with_reducible assumption
    | exact Eq.refl _
    | with_reducible apply modFlume_within (subIn (by decide) m_)
    | split
    | dsimp only

theorem timeCmd_within {w_ : Nat} (m_ : 320 ||| w_ = w_) {z0 : State} (s : State) (f : Nat) (sub : Nat) (c : DramCmd) (h_ : Within w_ z0 s) : Within w_ z0 (timeCmd s f sub c) := by
  unfold timeCmd
  repeat' first
    | with_reducible assumption
    | exact Eq.refl _
    | with_reducible apply timeAct_within (subIn (by decide) m_)
    | with_reducible apply timePre_within (subIn (by decide) m_)
    | with_reducible apply timeRead_within (subIn (by decide) m_)
    | with_reducible apply timeWrite_within (subIn (by decide) m_)
    | with_reducible apply timeBusy_within (subIn (by decide) m_)
    | split
    | dsimp only

theorem undoCmd_within {w_ : Nat} (m_ : 256 ||| w_ = w_) {z0 : State} (s : State) (e : Issued) (h_ : Within w_ z0 s) : Within w_ z0 (undoCmd s e) := by
  unfold undoCmd
  repeat' first
    | with_reducible assumption
    | exact Eq.refl _
    | with_reducible apply unrefreshed_within (subIn (by decide) m_)
    | split
    | dsimp only

theorem redoCmd_within {w_ : Nat} (m_ : 256 ||| w_ = w_) {z0 : State} (s : State) (c : DramCmd) (h_ : Within w_ z0 s) : Within w_ z0 (redoCmd s c) := by
  unfold redoCmd
  repeat' first
    | with_reducible assumption
    | exact Eq.refl _
    | with_reducible apply refreshed_within (subIn (by decide) m_)
    | split
    | dsimp only

theorem reissueAll_within {w_ : Nat} (m_ : 320 ||| w_ = w_) {z0 : State} (f : Nat) (sub : Nat) (base : Nat) (first : Nat) (a0_ : List Issued) : ∀ (a1_ : State), Within w_ z0 a1_ → Within w_ z0 (reissueAll f sub base first a0_ a1_) := by
  induction a0_ with
  | nil =>
    intro a1_ h_
    unfold reissueAll
    repeat' first
      | with_reducible assumption
      | exact Eq.refl _
      | with_reducible apply waitUntil_within (subIn (by decide) m_)
      | with_reducible apply redoCmd_within (subIn (by decide) m_)
      | with_reducible apply timeCmd_within (subIn (by decide) m_)
      | with_reducible apply modSub_within (subIn (by decide) m_)
      | split
      | dsimp only
  | cons x_ l_ ih_ =>
    intro a1_ h_
    unfold reissueAll
    repeat' first
      | with_reducible assumption
      | with_reducible apply ih_
      | exact Eq.refl _
      | with_reducible apply waitUntil_within (subIn (by decide) m_)
      | with_reducible apply redoCmd_within (subIn (by decide) m_)
      | with_reducible apply timeCmd_within (subIn (by decide) m_)
      | with_reducible apply modSub_within (subIn (by decide) m_)
      | split
      | dsimp only

theorem reissue_within {w_ : Nat} (m_ : 320 ||| w_ = w_) {z0 : State} (s : State) (f : Nat) (sub : Nat) (base : Nat) (es : List Issued) (h_ : Within w_ z0 s) : Within w_ z0 (reissue s f sub base es) := by
  unfold reissue
  repeat' first
    | with_reducible assumption
    | exact Eq.refl _
    | with_reducible apply reissueAll_within (subIn (by decide) m_)
    | with_reducible apply modSub_within (subIn (by decide) m_)
    | dsimp only

theorem resume_within {w_ : Nat} (m_ : 320 ||| w_ = w_) {z0 : State} (s : State) (f : Nat) (sc : Nat) (h_ : Within w_ z0 s) : Within w_ z0 (resume s f sc) := by
  unfold resume
  repeat' first
    | with_reducible assumption
    | exact Eq.refl _
    | with_reducible apply Within.ite
    | with_reducible apply modSub_within (subIn (by decide) m_)
    | with_reducible apply reissue_within (subIn (by decide) m_)
    | split
    | dsimp only

theorem escalate_within {w_ : Nat} (m_ : 570427877 ||| w_ = w_) {z0 : State} (s0 : State) (f : Nat) (sc : Nat) (tier : Nat) (n : Nat) (es : List Issued) (loop : LoopRes) (h_ : Within w_ z0 s0) : Within w_ z0 (escalate s0 f sc tier n es loop) := by
  unfold escalate
  repeat' first
    | with_reducible assumption
    | with_reducible intro _
    | exact Eq.refl _
    | with_reducible apply Within.ite
    | with_reducible apply undoCmd_within (subIn (by decide) m_)
    | with_reducible apply scEvent_within (subIn (by decide) m_)
    | with_reducible apply event_within (subIn (by decide) m_)
    | with_reducible apply modSub_within (subIn (by decide) m_)
    | with_reducible apply startPass_within (subIn (by decide) m_)
    | with_reducible apply queuePasses_within (subIn (by decide) m_)
    | with_reducible apply resume_within (subIn (by decide) m_)
    | with_reducible apply loopTest_within (subIn (by decide) m_)
    | with_reducible apply Within.foldl
    | with_reducible apply Within.foldl_snd2
    | with_reducible apply Within.foldl_snd
    | with_reducible apply Within.foldl_fst
    | split
    | dsimp only

theorem readDone_within {w_ : Nat} (m_ : 4204649 ||| w_ = w_) {z0 : State} (s : State) (f : Nat) (r : Req) (d : Decoded) (h_ : Within w_ z0 s) : Within w_ z0 (readDone s f r d) := by
  unfold readDone
  repeat' first
    | with_reducible assumption
    | exact Eq.refl _
    | with_reducible apply completeRead_within (subIn (by decide) m_)
    | with_reducible apply dropReq_within (subIn (by decide) m_)
    | with_reducible apply putMerged_within (subIn (by decide) m_)
    | split
    | dsimp only

theorem readBad_within {w_ : Nat} (m_ : 37759081 ||| w_ = w_) {z0 : State} (s : State) (f : Nat) (r : Req) (d : Decoded) (h_ : Within w_ z0 s) : Within w_ z0 (readBad s f r d) := by
  unfold readBad
  repeat' first
    | with_reducible assumption
    | exact Eq.refl _
    | with_reducible apply Within.ite
    | with_reducible apply requestCopy_within (subIn (by decide) m_)
    | with_reducible apply bumpTotal_within (subIn (by decide) m_)
    | with_reducible apply mirrorNotice_within (subIn (by decide) m_)
    | with_reducible apply completeRead_within (subIn (by decide) m_)
    | with_reducible apply queueWriteBack_within (subIn (by decide) m_)
    | with_reducible apply dropReq_within (subIn (by decide) m_)
    | with_reducible apply putMerged_within (subIn (by decide) m_)
    | split
    | dsimp only

theorem dataBack_within {w_ : Nat} (m_ : 72 ||| w_ = w_) {z0 : State} (s : State) (f : Nat) (sub : Nat) (rid : Nat) (h_ : Within w_ z0 s) : Within w_ z0 (dataBack s f sub rid) := by
  unfold dataBack
  repeat' first
    | with_reducible assumption
    | exact Eq.refl _
    | with_reducible apply closeWindows_within (subIn (by decide) m_)
    | with_reducible apply waitUntil_within (subIn (by decide) m_)
    | split
    | dsimp only

theorem readAgain_within {w_ : Nat} (m_ : 134218056 ||| w_ = w_) {z0 : State} (s : State) (f : Nat) (sub : Nat) (rid : Nat) (p : Place) (h_ : Within w_ z0 s) : Within w_ z0 (readAgain s f sub rid p) := by
  unfold readAgain
  repeat' first
    | with_reducible assumption
    | exact Eq.refl _
    | with_reducible apply Within.ite
    | with_reducible apply issuePre_within (subIn (by decide) m_)
    | with_reducible apply waitUntil_within (subIn (by decide) m_)
    | with_reducible apply issueAct_within (subIn (by decide) m_)
    | with_reducible apply dataBack_within (subIn (by decide) m_)
    | with_reducible apply issueRead_within (subIn (by decide) m_)
    | split
    | dsimp only

/-! The meanings: which parts of the state each can change. -/

theorem execScheduleCommand_within {w_ : Nat} (m_ : 138422639 ||| w_ = w_) (f : Nat) (sc : Nat) (gap : Nat) (s : State) : Touches w_ s (execScheduleCommand f sc gap s) := by
  unfold execScheduleCommand
  repeat' first
    | with_reducible assumption
    | with_reducible exact Within.refl _ _
    | with_reducible apply Touches.next
    | with_reducible apply Touches.ite
    | with_reducible apply Touches.onElement
    | with_reducible apply Within.ite
    | with_reducible apply passCycles_within (subIn (by decide) m_)
    | with_reducible apply issueNext_within (subIn (by decide) m_)
    | split
    | dsimp only

theorem execAgePromotion_within {w_ : Nat} (m_ : 96 ||| w_ = w_) (f : Nat) (rid : Nat) (s : State) : Touches w_ s (execAgePromotion f rid s) := by
  unfold execAgePromotion
  repeat' first
    | with_reducible assumption
    | with_reducible exact Within.refl _ _
    | with_reducible apply Touches.next
    | with_reducible apply Touches.ite
    | with_reducible apply Touches.onElement
    | exact Eq.refl _
    | with_reducible apply Within.ite
    | with_reducible apply modFlume_within (subIn (by decide) m_)
    | with_reducible apply abandonSlice_within (subIn (by decide) m_)
    | split
    | dsimp only

theorem execUrgencyRise_within {w_ : Nat} (m_ : 96 ||| w_ = w_) (f : Nat) (rid : Nat) (s : State) : Touches w_ s (execUrgencyRise f rid s) := by
  unfold execUrgencyRise
  repeat' first
    | with_reducible assumption
    | with_reducible exact Within.refl _ _
    | with_reducible apply Touches.next
    | with_reducible apply Touches.ite
    | with_reducible apply Touches.onElement
    | exact Eq.refl _
    | with_reducible apply Within.ite
    | with_reducible apply modFlume_within (subIn (by decide) m_)
    | with_reducible apply abandonSlice_within (subIn (by decide) m_)
    | split
    | dsimp only

theorem execRowIdleClose_within {w_ : Nat} (m_ : 328 ||| w_ = w_) (f : Nat) (sc : Nat) (tier : Nat) (bank : Nat) (s : State) : Touches w_ s (execRowIdleClose f sc tier bank s) := by
  unfold execRowIdleClose
  repeat' first
    | with_reducible assumption
    | with_reducible exact Within.refl _ _
    | with_reducible apply Touches.next
    | with_reducible apply Touches.ite
    | with_reducible apply Touches.onElement
    | exact Eq.refl _
    | with_reducible apply Within.ite
    | with_reducible apply passCycles_within (subIn (by decide) m_)
    | with_reducible apply issuePre_within (subIn (by decide) m_)
    | split
    | dsimp only

theorem execSustainedOverload_within {w_ : Nat} (m_ : 33556517 ||| w_ = w_) (f : Nat) (h : Nat) (s : State) : Touches w_ s (execSustainedOverload f h s) := by
  unfold execSustainedOverload
  repeat' first
    | with_reducible assumption
    | with_reducible exact Within.refl _ _
    | with_reducible apply Touches.next
    | with_reducible apply Touches.ite
    | with_reducible apply Touches.onElement
    | exact Eq.refl _
    | with_reducible apply Within.ite
    | with_reducible apply modFlume_within (subIn (by decide) m_)
    | with_reducible apply scEvent_within (subIn (by decide) m_)
    | with_reducible apply event_within (subIn (by decide) m_)
    | split
    | dsimp only

theorem execHoldFlume_within {w_ : Nat} (m_ : 369100901 ||| w_ = w_) (path : Nat) (f : Nat) (v : Word) (s : State) : Touches w_ s (execHoldFlume path f v s) := by
  unfold execHoldFlume
  repeat' first
    | with_reducible assumption
    | with_reducible exact Within.refl _ _
    | with_reducible apply Touches.next
    | with_reducible apply Touches.ite
    | with_reducible apply Touches.onElement
    | with_reducible intro _
    | with_reducible apply Within.ite
    | with_reducible apply writeNow_within (subIn (by decide) m_)
    | with_reducible apply takeFlmCtl_within (subIn (by decide) m_)
    | split
    | dsimp only

theorem execFlumeHeld_within {w_ : Nat} (m_ : 104 ||| w_ = w_) (f : Nat) (s : State) : Touches w_ s (execFlumeHeld f s) := by
  unfold execFlumeHeld
  repeat' first
    | with_reducible assumption
    | with_reducible exact Within.refl _ _
    | with_reducible apply Touches.next
    | with_reducible apply Touches.ite
    | with_reducible apply Touches.onElement
    | with_reducible intro _
    | exact Eq.refl _
    | with_reducible apply Within.ite
    | with_reducible apply modFlume_within (subIn (by decide) m_)
    | with_reducible apply drainWindows_within (subIn (by decide) m_)
    | with_reducible apply forAll_within
    | split
    | dsimp only

theorem execReleaseFlume_within {w_ : Nat} (m_ : 369100901 ||| w_ = w_) (path : Nat) (f : Nat) (v : Word) (s : State) : Touches w_ s (execReleaseFlume path f v s) := by
  unfold execReleaseFlume
  repeat' first
    | with_reducible assumption
    | with_reducible exact Within.refl _ _
    | with_reducible apply Touches.next
    | with_reducible apply Touches.ite
    | with_reducible apply Touches.onElement
    | with_reducible intro _
    | with_reducible apply Within.ite
    | with_reducible apply writeNow_within (subIn (by decide) m_)
    | with_reducible apply takeFlmCtl_within (subIn (by decide) m_)
    | split
    | dsimp only

theorem execCaparError_within {w_ : Nat} (m_ : 570427885 ||| w_ = w_) (f : Nat) (sc : Nat) (tier : Nat) (n : Nat) (loop : LoopRes) (s : State) : Touches w_ s (execCaparError f sc tier n loop s) := by
  unfold execCaparError
  repeat' first
    | with_reducible assumption
    | with_reducible exact Within.refl _ _
    | with_reducible apply Touches.next
    | with_reducible apply Touches.ite
    | with_reducible apply Touches.onElement
    | with_reducible intro _
    | exact Eq.refl _
    | with_reducible apply Within.ite
    | with_reducible apply takeEffect_within (subIn (by decide) m_)
    | with_reducible apply modSub_within (subIn (by decide) m_)
    | with_reducible apply escalate_within (subIn (by decide) m_)
    | with_reducible apply reissue_within (subIn (by decide) m_)
    | with_reducible apply undoCmd_within (subIn (by decide) m_)
    | with_reducible apply scEvent_within (subIn (by decide) m_)
    | with_reducible apply event_within (subIn (by decide) m_)
    | with_reducible apply Within.foldl
    | with_reducible apply Within.foldl_snd
    | split
    | dsimp only

theorem execReadDataReturn_within {w_ : Nat} (m_ : 708848111 ||| w_ = w_) (f : Nat) (rid : Nat) (flips1 : List Nat) (flips2 : List Nat) (s : State) : Touches w_ s (execReadDataReturn f rid flips1 flips2 s) := by
  unfold execReadDataReturn
  repeat' first
    | with_reducible assumption
    | with_reducible exact Within.refl _ _
    | with_reducible apply Touches.next
    | with_reducible apply Touches.ite
    | with_reducible apply Touches.onElement
    | exact Eq.refl _
    | with_reducible apply Within.ite
    | with_reducible apply dataBack_within (subIn (by decide) m_)
    | with_reducible apply serveAway_within (subIn (by decide) m_)
    | with_reducible apply readAgain_within (subIn (by decide) m_)
    | with_reducible apply settlePoison_within (subIn (by decide) m_)
    | with_reducible apply countRead_within (subIn (by decide) m_)
    | with_reducible apply readBad_within (subIn (by decide) m_)
    | with_reducible apply readDone_within (subIn (by decide) m_)
    | split
    | dsimp only

theorem execTrackerEntryExpiry_within {w_ : Nat} (m_ : 32 ||| w_ = w_) (f : Nat) (key : Nat) (s : State) : Touches w_ s (execTrackerEntryExpiry f key s) := by
  unfold execTrackerEntryExpiry
  repeat' first
    | with_reducible assumption
    | with_reducible exact Within.refl _ _
    | with_reducible apply Touches.next
    | with_reducible apply Touches.ite
    | with_reducible apply Touches.onElement
    | exact Eq.refl _
    | with_reducible apply Within.ite
    | with_reducible apply modFlume_within (subIn (by decide) m_)
    | split
    | dsimp only

theorem execTrackerWaitExpiry_within {w_ : Nat} (m_ : 32 ||| w_ = w_) (f : Nat) (key : Nat) (s : State) : Touches w_ s (execTrackerWaitExpiry f key s) := by
  unfold execTrackerWaitExpiry
  repeat' first
    | with_reducible assumption
    | with_reducible exact Within.refl _ _
    | with_reducible apply Touches.next
    | with_reducible apply Touches.ite
    | with_reducible apply Touches.onElement
    | exact Eq.refl _
    | with_reducible apply Within.ite
    | with_reducible apply modFlume_within (subIn (by decide) m_)
    | split
    | dsimp only

end Sys2Proof.Machine
end

