-- ==== Sys2Proof/Laws/WithinRefresh.lean ====
section
/-! SUPPORT. Which parts of the state the operations of Machine/Refresh.lean can change. -/

set_option Elab.async false

namespace Sys2Proof.Machine

theorem respread_within {w_ : Nat} (m_ : 256 ||| w_ = w_) {z0 : State} (s : State) (f : Nat) (t : Nat) (iv : Nat) (h_ : Within w_ z0 s) : Within w_ z0 (respread s f t iv) := by
  unfold respread
  repeat' first
    | with_reducible assumption
    | with_reducible intro _
    | exact Eq.refl _
    | with_reducible apply modBank_within (subIn (by decide) m_)
    | with_reducible apply forAll_within
    | dsimp only

theorem changeBand_within {w_ : Nat} (m_ : 288 ||| w_ = w_) {z0 : State} (s : State) (f : Nat) (t : Nat) (g : Flume → Flume) (h_ : Within w_ z0 s) : Within w_ z0 (changeBand s f t g) := by
  unfold changeBand
  repeat' first
    | with_reducible assumption
    | with_reducible apply Within.ite
    | with_reducible apply modFlume_within (subIn (by decide) m_)
    | with_reducible apply respread_within (subIn (by decide) m_)
    | split
    | dsimp only

theorem postpone_within {w_ : Nat} (m_ : 260 ||| w_ = w_) {z0 : State} (s : State) (f : Nat) (b : Nat) (h_ : Within w_ z0 s) : Within w_ z0 (postpone s f b) := by
  unfold postpone
  repeat' first
    | with_reducible assumption
    | exact Eq.refl _
    | with_reducible apply Within.ite
    | with_reducible apply modBank_within (subIn (by decide) m_)
    | with_reducible apply scEvent_within (subIn (by decide) m_)
    | split
    | dsimp only

theorem brakeStep_within {w_ : Nat} (m_ : 288 ||| w_ = w_) {z0 : State} (s : State) (f : Nat) (t : Nat) (h_ : Within w_ z0 s) : Within w_ z0 (brakeStep s f t) := by
  unfold brakeStep
  repeat' first
    | with_reducible assumption
    | exact Eq.refl _
    | with_reducible apply Within.ite
    | with_reducible apply respread_within (subIn (by decide) m_)
    | with_reducible apply modFlume_within (subIn (by decide) m_)
    | split
    | dsimp only

theorem scrubBad_within {w_ : Nat} (m_ : 33556589 ||| w_ = w_) {z0 : State} (s : State) (f : Nat) (p : Place) (d : Decoded) (line : Option Nat) (dl : Nat) (i : Nat) (env : OpEnv) (later : Bool) (h_ : Within w_ z0 s) : Within w_ z0 (scrubBad s f p d line dl i env later) := by
  unfold scrubBad
  repeat' first
    | with_reducible assumption
    | exact Eq.refl _
    | with_reducible apply Within.ite
    | with_reducible apply refill_within (subIn (by decide) m_)
    | with_reducible apply mirrorNotice_within (subIn (by decide) m_)
    | with_reducible apply storeBack_within (subIn (by decide) m_)
    | with_reducible apply bumpTotal_within (subIn (by decide) m_)
    | split
    | dsimp only

theorem scrubCoord_within {w_ : Nat} (m_ : 574630383 ||| w_ = w_) {z0 : State} (s0 : State) (f : Nat) (c : Coord) (env : OpEnv) (later : Bool) (h_ : Within w_ z0 s0) : Within w_ z0 (scrubCoord s0 f c env later).2 := by
  unfold scrubCoord
  repeat' first
    | with_reducible assumption
    | exact Eq.refl _
    | with_reducible apply Within.ite
    | with_reducible apply flushLine_within (subIn (by decide) m_)
    | with_reducible apply countAt_within (subIn (by decide) m_)
    | with_reducible apply bumpTotal_within (subIn (by decide) m_)
    | with_reducible apply scrubBad_within (subIn (by decide) m_)
    | with_reducible apply storeBack_within (subIn (by decide) m_)
    | split
    | dsimp only

theorem scrubRows_within {w_ : Nat} (m_ : 574630383 ||| w_ = w_) {z0 : State} (s : State) (f : Nat) (sc : Nat) (t : Nat) (b : Nat) (rows : List Nat) (env : OpEnv) (later : Bool) (h_ : Within w_ z0 s) : Within w_ z0 (scrubRows s f sc t b rows env later) := by
  unfold scrubRows
  repeat' first
    | with_reducible assumption
    | with_reducible intro _
    | with_reducible apply scrubCoord_within (subIn (by decide) m_)
    | with_reducible apply forAll_within
    | dsimp only

theorem scrubSpare_within {w_ : Nat} (m_ : 104 ||| w_ = w_) {z0 : State} (s : State) (b : Nat) (row : Nat) (flips : List Flip) (h_ : Within w_ z0 s) : Within w_ z0 (scrubSpare s b row flips) := by
  unfold scrubSpare
  repeat' first
    | with_reducible assumption
    | with_reducible intro _
    | with_reducible apply Within.ite
    | with_reducible apply setStored_within (subIn (by decide) m_)
    | with_reducible apply forAll_within
    | split
    | dsimp only

theorem canaryBank_within {w_ : Nat} (m_ : 574630383 ||| w_ = w_) {z0 : State} (s : State) (f : Nat) (sc : Nat) (t : Nat) (b : Nat) (env : OpEnv) (later : Bool) (h_ : Within w_ z0 s) : Within w_ z0 (canaryBank s f sc t b env later).2 := by
  unfold canaryBank
  repeat' first
    | with_reducible assumption
    | with_reducible intro _
    | with_reducible apply scrubCoord_within (subIn (by decide) m_)
    | with_reducible apply Within.foldl
    | with_reducible apply Within.foldl_snd2
    | with_reducible apply Within.foldl_snd
    | with_reducible apply Within.foldl_fst
    | dsimp only

theorem canaryTier_within {w_ : Nat} (m_ : 574630383 ||| w_ = w_) {z0 : State} (s : State) (f : Nat) (t : Nat) (env : OpEnv) (later : Bool) (h_ : Within w_ z0 s) : Within w_ z0 (canaryTier s f t env later).2.2 := by
  unfold canaryTier
  repeat' first
    | with_reducible assumption
    | with_reducible intro _
    | with_reducible apply Within.ite
    | with_reducible apply canaryBank_within (subIn (by decide) m_)
    | with_reducible apply Within.foldl
    | with_reducible apply Within.foldl_snd2
    | with_reducible apply Within.foldl_snd
    | with_reducible apply Within.foldl_fst
    | split
    | dsimp only

theorem gradeTier_within {w_ : Nat} (m_ : 33556773 ||| w_ = w_) {z0 : State} (s : State) (f : Nat) (t : Nat) (weak : Nat) (failing : List (Nat × Nat)) (sweep : Bool) (h_ : Within w_ z0 s) : Within w_ z0 (gradeTier s f t weak failing sweep) := by
  unfold gradeTier
  repeat' first
    | with_reducible assumption
    | exact Eq.refl _
    | with_reducible apply Within.ite
    | with_reducible apply scEvent_within (subIn (by decide) m_)
    | with_reducible apply event_within (subIn (by decide) m_)
    | with_reducible apply changeBand_within (subIn (by decide) m_)
    | split
    | dsimp only

theorem failInRun_within {w_ : Nat} (m_ : 574630383 ||| w_ = w_) {z0 : State} (s : State) (f : Nat) (t : Nat) (env : OpEnv) (k : Nat × Nat) (h_ : Within w_ z0 s) : Within w_ z0 (failInRun s f t env k) := by
  unfold failInRun
  repeat' first
    | with_reducible assumption
    | with_reducible apply scrubRows_within (subIn (by decide) m_)
    | with_reducible apply event_within (subIn (by decide) m_)
    | dsimp only

theorem refetchLine_within {w_ : Nat} (m_ : 4194337 ||| w_ = w_) {z0 : State} (s : State) (f : Nat) (line : Nat) (h_ : Within w_ z0 s) : Within w_ z0 (refetchLine s f line) := by
  unfold refetchLine
  repeat' first
    | with_reducible assumption
    | exact Eq.refl _
    | with_reducible apply Within.ite
    | with_reducible apply modFlume_within (subIn (by decide) m_)
    | with_reducible apply askPartner_within (subIn (by decide) m_)
    | split
    | dsimp only

/-! The meanings: which parts of the state each can change. -/

theorem execRefreshDue_within {w_ : Nat} (m_ : 324 ||| w_ = w_) (f : Nat) (sc : Nat) (tier : Nat) (bank : Nat) (s : State) : Touches w_ s (execRefreshDue f sc tier bank s) := by
  unfold execRefreshDue
  repeat' first
    | with_reducible assumption
    | with_reducible exact Within.refl _ _
    | with_reducible apply Touches.next
    | with_reducible apply Touches.ite
    | with_reducible apply Touches.onElement
    | exact Eq.refl _
    | with_reducible apply Within.ite
    | with_reducible apply modBank_within (subIn (by decide) m_)
    | with_reducible apply postpone_within (subIn (by decide) m_)
    | with_reducible apply abandonSlice_within (subIn (by decide) m_)
    | split
    | dsimp only

theorem execOwedRefresh_within {w_ : Nat} (m_ : 256 ||| w_ = w_) (f : Nat) (sc : Nat) (tier : Nat) (bank : Nat) (s : State) : Touches w_ s (execOwedRefresh f sc tier bank s) := by
  unfold execOwedRefresh
  repeat' first
    | with_reducible assumption
    | with_reducible exact Within.refl _ _
    | with_reducible apply Touches.next
    | with_reducible apply Touches.ite
    | with_reducible apply Touches.onElement
    | exact Eq.refl _
    | with_reducible apply Within.ite
    | with_reducible apply modBank_within (subIn (by decide) m_)
    | split
    | dsimp only

theorem execSelfRefreshDue_within {w_ : Nat} (m_ : 288 ||| w_ = w_) (f : Nat) (sc : Nat) (tier : Nat) (bank : Nat) (s : State) : Touches w_ s (execSelfRefreshDue f sc tier bank s) := by
  unfold execSelfRefreshDue
  repeat' first
    | with_reducible assumption
    | with_reducible exact Within.refl _ _
    | with_reducible apply Touches.next
    | with_reducible apply Touches.ite
    | with_reducible apply Touches.onElement
    | exact Eq.refl _
    | with_reducible apply Within.ite
    | with_reducible apply brakeStep_within (subIn (by decide) m_)
    | with_reducible apply modBank_within (subIn (by decide) m_)
    | split
    | dsimp only

theorem execCanarySweep_within {w_ : Nat} (m_ : 574631407 ||| w_ = w_) (f : Nat) (env : OpEnv) (s : State) : Touches w_ s (execCanarySweep f env s) := by
  unfold execCanarySweep
  repeat' first
    | with_reducible assumption
    | with_reducible exact Within.refl _ _
    | with_reducible apply Touches.next
    | with_reducible apply Touches.ite
    | with_reducible apply Touches.onElement
    | with_reducible intro _
    | exact Eq.refl _
    | with_reducible apply Within.ite
    | with_reducible apply modFlume_within (subIn (by decide) m_)
    | with_reducible apply lookups_within (subIn (by decide) m_)
    | with_reducible apply canaryTier_within (subIn (by decide) m_)
    | with_reducible apply failInRun_within (subIn (by decide) m_)
    | with_reducible apply gradeTier_within (subIn (by decide) m_)
    | with_reducible apply forAll_within
    | with_reducible apply Within.foldl
    | with_reducible apply Within.foldl_snd
    | split
    | dsimp only

theorem execRetentionScrubDone_within {w_ : Nat} (m_ : 574631407 ||| w_ = w_) (f : Nat) (sc : Nat) (tier : Nat) (bank : Nat) (env : OpEnv) (s : State) : Touches w_ s (execRetentionScrubDone f sc tier bank env s) := by
  unfold execRetentionScrubDone
  repeat' first
    | with_reducible assumption
    | with_reducible exact Within.refl _ _
    | with_reducible apply Touches.next
    | with_reducible apply Touches.ite
    | with_reducible apply Touches.onElement
    | with_reducible intro _
    | exact Eq.refl _
    | with_reducible apply Within.ite
    | with_reducible apply scrubRows_within (subIn (by decide) m_)
    | with_reducible apply lookups_within (subIn (by decide) m_)
    | with_reducible apply scrubSpare_within (subIn (by decide) m_)
    | with_reducible apply modBank_within (subIn (by decide) m_)
    | with_reducible apply refetchLine_within (subIn (by decide) m_)
    | with_reducible apply mirrorNotice_within (subIn (by decide) m_)
    | with_reducible apply forAll_within
    | with_reducible apply Within.foldl
    | with_reducible apply Within.foldl_snd
    | split
    | dsimp only

end Sys2Proof.Machine
end

