-- ==== Sys2Proof/Laws/WithinSelfTest.lean ====
section
/-! SUPPORT. Which parts of the state the operations of Machine/SelfTest.lean can change. -/

set_option Elab.async false

namespace Sys2Proof.Machine

theorem noteFail_within {w_ : Nat} (m_ : 33556485 ||| w_ = w_) {z0 : State} (s : State) (h_ : Within w_ z0 s) : Within w_ z0 (noteFail s) := by
  unfold noteFail
  repeat' first
    | with_reducible assumption
    | with_reducible apply event_within (subIn (by decide) m_)
    | with_reducible apply scEvent_within (subIn (by decide) m_)
    | dsimp only

theorem sliceRan_within {w_ : Nat} (m_ : 536870912 ||| w_ = w_) {z0 : State} (s : State) (h_ : Within w_ z0 s) : Within w_ z0 (sliceRan s) := by
  unfold sliceRan
  repeat' first
    | with_reducible assumption
    | exact Eq.refl _
    | with_reducible apply Within.ite
    | split
    | dsimp only
    | with_reducible apply Within.raw
    | exact .inl (bitIn m_ (by decide))
    | exact .inr (Eq.refl _)

theorem moveRefetch_within {w_ : Nat} (m_ : 37750817 ||| w_ = w_) {z0 : State} (s : State) (f : Nat) (line : Option Nat) (h_ : Within w_ z0 s) : Within w_ z0 (moveRefetch s f line) := by
  unfold moveRefetch
  repeat' first
    | with_reducible assumption
    | exact Eq.refl _
    | with_reducible apply Within.ite
    | with_reducible apply mirrorNotice_within (subIn (by decide) m_)
    | with_reducible apply refetchLine_within (subIn (by decide) m_)
    | split
    | dsimp only

theorem moveCount_within {w_ : Nat} (m_ : 570427885 ||| w_ = w_) {z0 : State} (s : State) (f : Nat) (line : Option Nat) (d : Decoded) (retried : Bool) (tracked : Bool) (h_ : Within w_ z0 s) : Within w_ z0 (moveCount s f line d retried tracked) := by
  unfold moveCount
  repeat' first
    | with_reducible assumption
    | exact Eq.refl _
    | with_reducible apply Within.ite
    | with_reducible apply countRead_within (subIn (by decide) m_)
    | split
    | dsimp only

theorem moveLine_within {w_ : Nat} (m_ : 574622189 ||| w_ = w_) {z0 : State} (s : State) (f : Nat) (from_ : Place) (to_ : Place) (line : Option Nat) (tracked : Bool) (env : OpEnv) (h_ : Within w_ z0 s) : Within w_ z0 (moveLine s f from_ to_ line tracked env) := by
  unfold moveLine
  repeat' first
    | with_reducible assumption
    | exact Eq.refl _
    | with_reducible apply Within.ite
    | with_reducible apply moveCount_within (subIn (by decide) m_)
    | with_reducible apply bumpTotal_within (subIn (by decide) m_)
    | with_reducible apply storeBack_within (subIn (by decide) m_)
    | with_reducible apply moveRefetch_within (subIn (by decide) m_)
    | split
    | dsimp only

theorem mapApply_within {w_ : Nat} (m_ : 33556517 ||| w_ = w_) {z0 : State} (s : State) (f : Nat) (h_ : Within w_ z0 s) : Within w_ z0 (mapApply s f) := by
  unfold mapApply
  repeat' first
    | with_reducible assumption
    | with_reducible intro _
    | exact Eq.refl _
    | with_reducible apply Within.ite
    | with_reducible apply modFlume_within (subIn (by decide) m_)
    | with_reducible apply scEvent_within (subIn (by decide) m_)
    | with_reducible apply event_within (subIn (by decide) m_)
    | with_reducible apply Within.foldl
    | with_reducible apply Within.foldl_snd2
    | with_reducible apply Within.foldl_snd
    | with_reducible apply Within.foldl_fst
    | split
    | dsimp only

theorem takeMapApply_within {w_ : Nat} (m_ : 100665381 ||| w_ = w_) {z0 : State} (s : State) (path : Nat) (f : Nat) (v : Nat) (h_ : Within w_ z0 s) : Within w_ z0 (takeMapApply s path f v) := by
  unfold takeMapApply
  repeat' first
    | with_reducible assumption
    | with_reducible apply Within.ite
    | with_reducible apply accessFault_within (subIn (by decide) m_)
    | with_reducible apply mapApply_within (subIn (by decide) m_)
    | split
    | dsimp only

/-! The meanings: which parts of the state each can change. -/

theorem execRemapTallyWrite_within {w_ : Nat} (m_ : 41945125 ||| w_ = w_) (f : Nat) (ok : Bool) (s : State) : Touches w_ s (execRemapTallyWrite f ok s) := by
  unfold execRemapTallyWrite
  repeat' first
    | with_reducible assumption
    | with_reducible exact Within.refl _ _
    | with_reducible apply Touches.next
    | with_reducible apply Touches.ite
    | with_reducible apply Touches.onElement
    | exact Eq.refl _
    | with_reducible apply Within.ite
    | with_reducible apply modFlume_within (subIn (by decide) m_)
    | with_reducible apply tallyFail_within (subIn (by decide) m_)
    | split
    | dsimp only
    | with_reducible apply Within.raw
    | exact .inl (bitIn m_ (by decide))
    | exact .inr (Eq.refl _)

theorem execRepairTallyWrite_within {w_ : Nat} (m_ : 41945125 ||| w_ = w_) (f : Nat) (ok : Bool) (s : State) : Touches w_ s (execRepairTallyWrite f ok s) := by
  unfold execRepairTallyWrite
  repeat' first
    | with_reducible assumption
    | with_reducible exact Within.refl _ _
    | with_reducible apply Touches.next
    | with_reducible apply Touches.ite
    | with_reducible apply Touches.onElement
    | exact Eq.refl _
    | with_reducible apply Within.ite
    | with_reducible apply modFlume_within (subIn (by decide) m_)
    | with_reducible apply tallyFail_within (subIn (by decide) m_)
    | with_reducible apply event_within (subIn (by decide) m_)
    | split
    | dsimp only
    | with_reducible apply Within.raw
    | exact .inl (bitIn m_ (by decide))
    | exact .inr (Eq.refl _)

theorem execDramSliceStart_within {w_ : Nat} (m_ : 288 ||| w_ = w_) (f : Nat) (sc : Nat) (tier : Nat) (bank : Nat) (row : Nat) (s : State) : Touches w_ s (execDramSliceStart f sc tier bank row s) := by
  unfold execDramSliceStart
  repeat' first
    | with_reducible assumption
    | with_reducible exact Within.refl _ _
    | with_reducible apply Touches.next
    | with_reducible apply Touches.ite
    | with_reducible apply Touches.onElement
    | exact Eq.refl _
    | with_reducible apply Within.ite
    | with_reducible apply modFlume_within (subIn (by decide) m_)
    | with_reducible apply modBank_within (subIn (by decide) m_)
    | split
    | dsimp only

theorem execDramSliceEnd_within {w_ : Nat} (m_ : 570427885 ||| w_ = w_) (f : Nat) (sc : Nat) (fails : List (Nat × Nat)) (badSpares : List Nat) (s : State) : Touches w_ s (execDramSliceEnd f sc fails badSpares s) := by
  unfold execDramSliceEnd
  repeat' first
    | with_reducible assumption
    | with_reducible exact Within.refl _ _
    | with_reducible apply Touches.next
    | with_reducible apply Touches.ite
    | with_reducible apply Touches.onElement
    | exact Eq.refl _
    | with_reducible apply Within.ite
    | with_reducible apply modFlume_within (subIn (by decide) m_)
    | with_reducible apply putRow_within (subIn (by decide) m_)
    | with_reducible apply sliceRan_within (subIn (by decide) m_)
    | with_reducible apply repairFailure_within (subIn (by decide) m_)
    | with_reducible apply noteFail_within (subIn (by decide) m_)
    | split
    | dsimp only

theorem execLogicSliceStart_within {w_ : Nat} (m_ : 64 ||| w_ = w_) (f : Nat) (sc : Nat) (s : State) : Touches w_ s (execLogicSliceStart f sc s) := by
  unfold execLogicSliceStart
  repeat' first
    | with_reducible assumption
    | with_reducible exact Within.refl _ _
    | with_reducible apply Touches.next
    | with_reducible apply Touches.ite
    | with_reducible apply Touches.onElement
    | exact Eq.refl _
    | with_reducible apply Within.ite
    | with_reducible apply modSub_within (subIn (by decide) m_)
    | split
    | dsimp only

theorem execLogicSliceEnd_within {w_ : Nat} (m_ : 570427461 ||| w_ = w_) (f : Nat) (sc : Nat) (pass : Bool) (s : State) : Touches w_ s (execLogicSliceEnd f sc pass s) := by
  unfold execLogicSliceEnd
  repeat' first
    | with_reducible assumption
    | with_reducible exact Within.refl _ _
    | with_reducible apply Touches.next
    | with_reducible apply Touches.ite
    | with_reducible apply Touches.onElement
    | exact Eq.refl _
    | with_reducible apply Within.ite
    | with_reducible apply sliceRan_within (subIn (by decide) m_)
    | with_reducible apply modSub_within (subIn (by decide) m_)
    | with_reducible apply withdrawSub_within (subIn (by decide) m_)
    | with_reducible apply noteFail_within (subIn (by decide) m_)
    | split
    | dsimp only

theorem execInServicePass_within {w_ : Nat} (m_ : 536870916 ||| w_ = w_) (s : State) : Touches w_ s (execInServicePass s) := by
  unfold execInServicePass
  repeat' first
    | with_reducible assumption
    | with_reducible exact Within.refl _ _
    | with_reducible apply Touches.next
    | with_reducible apply Touches.ite
    | exact Eq.refl _
    | with_reducible apply Within.ite
    | with_reducible apply scEvent_within (subIn (by decide) m_)
    | split
    | dsimp only
    | with_reducible apply Within.raw
    | exact .inl (bitIn m_ (by decide))
    | exact .inr (Eq.refl _)

theorem execMigrationRow_within {w_ : Nat} (m_ : 574623213 ||| w_ = w_) (f : Nat) (sc : Nat) (env : OpEnv) (s : State) : Touches w_ s (execMigrationRow f sc env s) := by
  unfold execMigrationRow
  repeat' first
    | with_reducible assumption
    | with_reducible exact Within.refl _ _
    | with_reducible apply Touches.next
    | with_reducible apply Touches.ite
    | with_reducible apply Touches.onElement
    | with_reducible intro _
    | exact Eq.refl _
    | with_reducible apply Within.ite
    | with_reducible apply lookups_within (subIn (by decide) m_)
    | with_reducible apply moveLine_within (subIn (by decide) m_)
    | with_reducible apply modFlume_within (subIn (by decide) m_)
    | with_reducible apply releaseRemap_within (subIn (by decide) m_)
    | with_reducible apply forAll_within
    | split
    | dsimp only

theorem execColumnGroupMoveRow_within {w_ : Nat} (m_ : 574623213 ||| w_ = w_) (f : Nat) (sc : Nat) (tier : Nat) (bank : Nat) (env : OpEnv) (s : State) : Touches w_ s (execColumnGroupMoveRow f sc tier bank env s) := by
  unfold execColumnGroupMoveRow
  repeat' first
    | with_reducible assumption
    | with_reducible exact Within.refl _ _
    | with_reducible apply Touches.next
    | with_reducible apply Touches.ite
    | with_reducible apply Touches.onElement
    | with_reducible intro _
    | exact Eq.refl _
    | with_reducible apply Within.ite
    | with_reducible apply lookups_within (subIn (by decide) m_)
    | with_reducible apply moveLine_within (subIn (by decide) m_)
    | with_reducible apply modBank_within (subIn (by decide) m_)
    | with_reducible apply forAll_within
    | split
    | dsimp only

theorem execFlmMapApply_within {w_ : Nat} (m_ : 369100837 ||| w_ = w_) (path : Nat) (f : Nat) (s : State) : Touches w_ s (execFlmMapApply path f s) := by
  unfold execFlmMapApply
  repeat' first
    | with_reducible assumption
    | with_reducible exact Within.refl _ _
    | with_reducible apply Touches.next
    | with_reducible apply Touches.ite
    | with_reducible apply Touches.onElement
    | with_reducible intro _
    | with_reducible apply Within.ite
    | with_reducible apply writeNow_within (subIn (by decide) m_)
    | with_reducible apply takeMapApply_within (subIn (by decide) m_)
    | split
    | dsimp only

end Sys2Proof.Machine
end

