-- ==== Sys2Proof/Laws/WithinGuard.lean ====
section
/-! SUPPORT. Which parts of the state the operations of Machine/Guard.lean can change. -/

set_option Elab.async false

namespace Sys2Proof.Machine

theorem guardAdjust_within {w_ : Nat} (m_ : 67108864 ||| w_ = w_) {z0 : State} (old : State) (new : State) (h_ : Within w_ z0 new) : Within w_ z0 (guardAdjust old new) := by
  unfold guardAdjust
  repeat' first
    | with_reducible assumption
    | exact Eq.refl _
    | with_reducible apply Within.ite
    | split
    | dsimp only
    | with_reducible apply Within.raw
    | exact .inl (bitIn m_ (by decide))
    | exact .inr (Eq.refl _)

end Sys2Proof.Machine
end

