-- ==== Sys2Proof/Laws/WithinRings.lean ====
section
/-! SUPPORT. Which parts of the state the operations of Machine/Rings.lean can change. -/

set_option Elab.async false

namespace Sys2Proof.Machine

theorem ringNotice_within {w_ : Nat} (m_ : 33556481 ||| w_ = w_) {z0 : State} (s : State) (n : Nat) (h_ : Within w_ z0 s) : Within w_ z0 (ringNotice s n) := by
  unfold ringNotice
  repeat' first
    | with_reducible assumption
    | with_reducible apply event_within (subIn (by decide) m_)
    | dsimp only

theorem newDesc_within {w_ : Nat} (m_ : 28672 ||| w_ = w_) {z0 : State} (s : State) (n : Nat) (members : List (List Byte)) (h_ : Within w_ z0 s) : Within w_ z0 (newDesc s n members).2 := by
  unfold newDesc
  repeat' first
    | with_reducible assumption
    | exact Eq.refl _
    | with_reducible apply modPair_within (subIn (by decide) m_)
    | with_reducible apply putDesc_within (subIn (by decide) m_)
    | dsimp only
    | with_reducible apply Within.raw
    | exact .inl (bitIn m_ (by decide))
    | exact .inr (Eq.refl _)

theorem dropDesc_within {w_ : Nat} (m_ : 45056 ||| w_ = w_) {z0 : State} (s : State) (d : Nat) (h_ : Within w_ z0 s) : Within w_ z0 (dropDesc s d) := by
  unfold dropDesc
  repeat' first
    | with_reducible assumption
    | with_reducible intro _
    | exact Eq.refl _
    | with_reducible apply putPart_within (subIn (by decide) m_)
    | with_reducible apply modPair_within (subIn (by decide) m_)
    | with_reducible apply putDesc_within (subIn (by decide) m_)
    | with_reducible apply forAll_within
    | split
    | dsimp only

theorem stopPart_within {w_ : Nat} (m_ : 1212416 ||| w_ = w_) {z0 : State} (s : State) (p : Nat) (h_ : Within w_ z0 s) : Within w_ z0 (stopPart s p) := by
  unfold stopPart
  repeat' first
    | with_reducible assumption
    | exact Eq.refl _
    | with_reducible apply Within.ite
    | with_reducible apply modPart_within (subIn (by decide) m_)
    | with_reducible apply modMill_within (subIn (by decide) m_)
    | split
    | dsimp only
    | with_reducible apply Within.raw
    | exact .inl (bitIn m_ (by decide))
    | exact .inr (Eq.refl _)

theorem stopParts_within {w_ : Nat} (m_ : 1212416 ||| w_ = w_) {z0 : State} (s : State) (d : Nat) (h_ : Within w_ z0 s) : Within w_ z0 (stopParts s d) := by
  unfold stopParts
  repeat' first
    | with_reducible assumption
    | with_reducible intro _
    | exact Eq.refl _
    | with_reducible apply stopPart_within (subIn (by decide) m_)
    | with_reducible apply forAll_within
    | split
    | dsimp only

theorem stopPair_within {w_ : Nat} (m_ : 33560581 ||| w_ = w_) {z0 : State} (s : State) (n : Nat) (err : Nat) (slot : Nat) (h_ : Within w_ z0 s) : Within w_ z0 (stopPair s n err slot) := by
  unfold stopPair
  repeat' first
    | with_reducible assumption
    | exact Eq.refl _
    | with_reducible apply modPair_within (subIn (by decide) m_)
    | with_reducible apply ringNotice_within (subIn (by decide) m_)
    | with_reducible apply scEvent_within (subIn (by decide) m_)
    | dsimp only

theorem enablePair_within {w_ : Nat} (m_ : 33560577 ||| w_ = w_) {z0 : State} (s : State) (n : Nat) (h_ : Within w_ z0 s) : Within w_ z0 (enablePair s n) := by
  unfold enablePair
  repeat' first
    | with_reducible assumption
    | exact Eq.refl _
    | with_reducible apply Within.ite
    | with_reducible apply modPair_within (subIn (by decide) m_)
    | with_reducible apply ringNotice_within (subIn (by decide) m_)
    | split
    | dsimp only

theorem drainPair_within {w_ : Nat} (m_ : 4096 ||| w_ = w_) {z0 : State} (s : State) (n : Nat) (h_ : Within w_ z0 s) : Within w_ z0 (drainPair s n) := by
  unfold drainPair
  repeat' first
    | with_reducible assumption
    | exact Eq.refl _
    | with_reducible apply Within.ite
    | with_reducible apply modPair_within (subIn (by decide) m_)
    | split
    | dsimp only

theorem resetPair_within {w_ : Nat} (m_ : 1224704 ||| w_ = w_) {z0 : State} (s : State) (n : Nat) (clear : Bool) (h_ : Within w_ z0 s) : Within w_ z0 (resetPair s n clear) := by
  unfold resetPair
  repeat' first
    | with_reducible assumption
    | with_reducible intro _
    | exact Eq.refl _
    | with_reducible apply modPair_within (subIn (by decide) m_)
    | with_reducible apply modDesc_within (subIn (by decide) m_)
    | with_reducible apply stopParts_within (subIn (by decide) m_)
    | with_reducible apply forAll_within
    | dsimp only

theorem resetHeadPairs_within {w_ : Nat} (m_ : 1224704 ||| w_ = w_) {z0 : State} (s : State) (h : Nat) (h_ : Within w_ z0 s) : Within w_ z0 (resetHeadPairs s h) := by
  unfold resetHeadPairs
  repeat' first
    | with_reducible assumption
    | with_reducible intro _
    | with_reducible apply resetPair_within (subIn (by decide) m_)
    | with_reducible apply forAll_within
    | dsimp only

theorem zeroPair_within {w_ : Nat} (m_ : 4100 ||| w_ = w_) {z0 : State} (s : State) (n : Nat) (h_ : Within w_ z0 s) : Within w_ z0 (zeroPair s n) := by
  unfold zeroPair
  repeat' first
    | with_reducible assumption
    | exact Eq.refl _
    | with_reducible apply regPut_within (subIn (by decide) m_)
    | with_reducible apply modPair_within (subIn (by decide) m_)
    | dsimp only

theorem drainedPair_within {w_ : Nat} (m_ : 4096 ||| w_ = w_) {z0 : State} (s : State) (n : Nat) (h_ : Within w_ z0 s) : Within w_ z0 (drainedPair s n) := by
  unfold drainedPair
  repeat' first
    | with_reducible assumption
    | exact Eq.refl _
    | with_reducible apply modPair_within (subIn (by decide) m_)
    | dsimp only

theorem takeRngCmd_within {w_ : Nat} (m_ : 34781189 ||| w_ = w_) {z0 : State} (s : State) (n : Nat) (v : Nat) (h_ : Within w_ z0 s) : Within w_ z0 (takeRngCmd s n v) := by
  unfold takeRngCmd
  repeat' first
    | with_reducible assumption
    | with_reducible apply Within.ite
    | with_reducible apply regPut_within (subIn (by decide) m_)
    | with_reducible apply resetPair_within (subIn (by decide) m_)
    | with_reducible apply enablePair_within (subIn (by decide) m_)
    | with_reducible apply drainPair_within (subIn (by decide) m_)
    | split
    | dsimp only

theorem dropDoorbell_within {w_ : Nat} (m_ : 4 ||| w_ = w_) {z0 : State} (s : State) (n : Nat) (h_ : Within w_ z0 s) : Within w_ z0 (dropDoorbell s n) := by
  unfold dropDoorbell
  repeat' first
    | with_reducible assumption
    | with_reducible apply scEvent_within (subIn (by decide) m_)
    | dsimp only

theorem doorbellArrives_within {w_ : Nat} (m_ : 268437504 ||| w_ = w_) {z0 : State} (s : State) (path : Nat) (h_ : Within w_ z0 s) : Within w_ z0 (doorbellArrives s path) := by
  unfold doorbellArrives
  repeat' first
    | with_reducible assumption
    | with_reducible apply Within.ite
    | with_reducible apply wakeDevice_within (subIn (by decide) m_)
    | with_reducible apply lapseHint_within (subIn (by decide) m_)
    | split
    | dsimp only

theorem doorbell_within {w_ : Nat} (m_ : 268437508 ||| w_ = w_) {z0 : State} (s : State) (path : Nat) (n : Nat) (act : State → State) (h_ : Within w_ z0 s) (hf_ : ∀ a0, Within w_ z0 a0 → Within w_ z0 (act a0)) : Within w_ z0 (doorbell s path n act) := by
  unfold doorbell
  repeat' first
    | with_reducible assumption
    | with_reducible intro _
    | with_reducible apply hf_
    | with_reducible apply Within.ite
    | with_reducible apply doorbellArrives_within (subIn (by decide) m_)
    | with_reducible apply dropDoorbell_within (subIn (by decide) m_)
    | split
    | dsimp only

theorem takeTail_within {w_ : Nat} (m_ : 33560581 ||| w_ = w_) {z0 : State} (s : State) (n : Nat) (tail : Nat) (h_ : Within w_ z0 s) : Within w_ z0 (takeTail s n tail) := by
  unfold takeTail
  repeat' first
    | with_reducible assumption
    | exact Eq.refl _
    | with_reducible apply Within.ite
    | with_reducible apply stopPair_within (subIn (by decide) m_)
    | with_reducible apply modPair_within (subIn (by decide) m_)
    | split
    | dsimp only

theorem takeHead_within {w_ : Nat} (m_ : 33560581 ||| w_ = w_) {z0 : State} (s : State) (n : Nat) (head : Nat) (h_ : Within w_ z0 s) : Within w_ z0 (takeHead s n head) := by
  unfold takeHead
  repeat' first
    | with_reducible assumption
    | exact Eq.refl _
    | with_reducible apply Within.ite
    | with_reducible apply stopPair_within (subIn (by decide) m_)
    | with_reducible apply modPair_within (subIn (by decide) m_)
    | split
    | dsimp only

theorem fetchFailure_within {w_ : Nat} (m_ : 33585157 ||| w_ = w_) {z0 : State} (s : State) (n : Nat) (slot : Nat) (h_ : Within w_ z0 s) : Within w_ z0 (fetchFailure s n slot) := by
  unfold fetchFailure
  repeat' first
    | with_reducible assumption
    | with_reducible apply newDesc_within (subIn (by decide) m_)
    | with_reducible apply stopPair_within (subIn (by decide) m_)
    | with_reducible apply finishDesc_within (subIn (by decide) m_)
    | dsimp only

theorem fetchSlots_within {w_ : Nat} (m_ : 33585157 ||| w_ = w_) {z0 : State} (n : Nat) (host : List Host.Cell) (a0_ : Nat) : ∀ (a1_ : State), Within w_ z0 a1_ → Within w_ z0 (fetchSlots n host a0_ a1_) := by
  induction a0_ with
  | zero =>
    intro a1_ h_
    unfold fetchSlots
    repeat' first
      | with_reducible assumption
      | exact Eq.refl _
      | with_reducible apply Within.ite
      | with_reducible apply fetchFailure_within (subIn (by decide) m_)
      | with_reducible apply modPair_within (subIn (by decide) m_)
      | split
      | dsimp only
  | succ k_ ih_ =>
    intro a1_ h_
    unfold fetchSlots
    repeat' first
      | with_reducible assumption
      | with_reducible apply ih_
      | exact Eq.refl _
      | with_reducible apply Within.ite
      | with_reducible apply fetchFailure_within (subIn (by decide) m_)
      | with_reducible apply modPair_within (subIn (by decide) m_)
      | split
      | dsimp only

theorem signalPair_within {w_ : Nat} (m_ : 6145 ||| w_ = w_) {z0 : State} (s : State) (n : Nat) (h_ : Within w_ z0 s) : Within w_ z0 (signalPair s n) := by
  unfold signalPair
  repeat' first
    | with_reducible assumption
    | exact Eq.refl _
    | with_reducible apply sendMsix_within (subIn (by decide) m_)
    | with_reducible apply modPair_within (subIn (by decide) m_)
    | dsimp only

/-! The meanings: which parts of the state each can change. -/

theorem execRingEnable_within {w_ : Nat} (m_ : 370325541 ||| w_ = w_) (path : Nat) (n : Nat) (s : State) : Touches w_ s (execRingEnable path n s) := by
  unfold execRingEnable
  repeat' first
    | with_reducible assumption
    | with_reducible exact Within.refl _ _
    | with_reducible apply Touches.next
    | with_reducible apply Touches.ite
    | with_reducible apply Touches.onElement
    | with_reducible intro _
    | with_reducible apply Within.ite
    | with_reducible apply writeNow_within (subIn (by decide) m_)
    | with_reducible apply takeRngCmd_within (subIn (by decide) m_)
    | split
    | dsimp only

theorem execRingDrain_within {w_ : Nat} (m_ : 370325541 ||| w_ = w_) (path : Nat) (n : Nat) (s : State) : Touches w_ s (execRingDrain path n s) := by
  unfold execRingDrain
  repeat' first
    | with_reducible assumption
    | with_reducible exact Within.refl _ _
    | with_reducible apply Touches.next
    | with_reducible apply Touches.ite
    | with_reducible apply Touches.onElement
    | with_reducible intro _
    | with_reducible apply Within.ite
    | with_reducible apply writeNow_within (subIn (by decide) m_)
    | with_reducible apply takeRngCmd_within (subIn (by decide) m_)
    | split
    | dsimp only

theorem execRingReset_within {w_ : Nat} (m_ : 370325541 ||| w_ = w_) (path : Nat) (n : Nat) (s : State) : Touches w_ s (execRingReset path n s) := by
  unfold execRingReset
  repeat' first
    | with_reducible assumption
    | with_reducible exact Within.refl _ _
    | with_reducible apply Touches.next
    | with_reducible apply Touches.ite
    | with_reducible apply Touches.onElement
    | with_reducible intro _
    | with_reducible apply Within.ite
    | with_reducible apply writeNow_within (subIn (by decide) m_)
    | with_reducible apply takeRngCmd_within (subIn (by decide) m_)
    | split
    | dsimp only

theorem execRingDrainDone_within {w_ : Nat} (m_ : 4096 ||| w_ = w_) (n : Nat) (s : State) : Touches w_ s (execRingDrainDone n s) := by
  unfold execRingDrainDone
  repeat' first
    | with_reducible assumption
    | with_reducible exact Within.refl _ _
    | with_reducible apply Touches.next
    | with_reducible apply Touches.ite
    | with_reducible apply Touches.onElement
    | with_reducible apply Within.ite
    | with_reducible apply drainedPair_within (subIn (by decide) m_)
    | split
    | dsimp only

theorem execSqTail_within {w_ : Nat} (m_ : 301996037 ||| w_ = w_) (path : Nat) (n : Nat) (v : Word) (s : State) : Touches w_ s (execSqTail path n v s) := by
  unfold execSqTail
  repeat' first
    | with_reducible assumption
    | with_reducible exact Within.refl _ _
    | with_reducible apply Touches.next
    | with_reducible apply Touches.ite
    | with_reducible apply Touches.onElement
    | with_reducible intro _
    | with_reducible apply Within.ite
    | with_reducible apply doorbell_within (subIn (by decide) m_)
    | with_reducible apply takeTail_within (subIn (by decide) m_)
    | split
    | dsimp only

theorem execCqHead_within {w_ : Nat} (m_ : 301996037 ||| w_ = w_) (path : Nat) (n : Nat) (v : Word) (s : State) : Touches w_ s (execCqHead path n v s) := by
  unfold execCqHead
  repeat' first
    | with_reducible assumption
    | with_reducible exact Within.refl _ _
    | with_reducible apply Touches.next
    | with_reducible apply Touches.ite
    | with_reducible apply Touches.onElement
    | with_reducible intro _
    | with_reducible apply Within.ite
    | with_reducible apply doorbell_within (subIn (by decide) m_)
    | with_reducible apply takeHead_within (subIn (by decide) m_)
    | split
    | dsimp only

theorem execDescriptorFetch_within {w_ : Nat} (m_ : 302020613 ||| w_ = w_) (n : Nat) (k : Nat) (host : List Host.Cell) (s : State) : Touches w_ s (execDescriptorFetch n k host s) := by
  unfold execDescriptorFetch
  repeat' first
    | with_reducible assumption
    | with_reducible exact Within.refl _ _
    | with_reducible apply Touches.next
    | with_reducible apply Touches.ite
    | with_reducible apply Touches.onElement
    | with_reducible apply Within.ite
    | with_reducible apply wakeDevice_within (subIn (by decide) m_)
    | with_reducible apply fetchSlots_within (subIn (by decide) m_)
    | split
    | dsimp only

theorem execCoalesceTimer_within {w_ : Nat} (m_ : 6145 ||| w_ = w_) (n : Nat) (s : State) : Touches w_ s (execCoalesceTimer n s) := by
  unfold execCoalesceTimer
  repeat' first
    | with_reducible assumption
    | with_reducible exact Within.refl _ _
    | with_reducible apply Touches.next
    | with_reducible apply Touches.ite
    | with_reducible apply Touches.onElement
    | exact Eq.refl _
    | with_reducible apply Within.ite
    | with_reducible apply signalPair_within (subIn (by decide) m_)
    | split
    | dsimp only

theorem execMsixPendingSend_within {w_ : Nat} (m_ : 2049 ||| w_ = w_) (h : Nat) (vec : Nat) (s : State) : Touches w_ s (execMsixPendingSend h vec s) := by
  unfold execMsixPendingSend
  repeat' first
    | with_reducible assumption
    | with_reducible exact Within.refl _ _
    | with_reducible apply Touches.next
    | with_reducible apply Touches.ite
    | with_reducible apply Touches.onElement
    | exact Eq.refl _
    | with_reducible apply Within.ite
    | with_reducible apply sendMsix_within (subIn (by decide) m_)
    | with_reducible apply modHead_within (subIn (by decide) m_)
    | split
    | dsimp only

end Sys2Proof.Machine
end

