-- ==== Sys2Proof/Laws/WithinDispatcher.lean ====
section
/-! SUPPORT. Which parts of the state the operations of Machine/Dispatcher.lean can change. -/

set_option Elab.async false

namespace Sys2Proof.Machine

theorem storePart_within {w_ : Nat} (m_ : 131072 ||| w_ = w_) {z0 : State} (s : State) (p : Nat) (h_ : Within w_ z0 s) : Within w_ z0 (storePart s p) := by
  unfold storePart
  repeat' first
    | with_reducible assumption
    | exact Eq.refl _
    | dsimp only
    | with_reducible apply Within.raw
    | exact .inl (bitIn m_ (by decide))
    | exact .inr (Eq.refl _)

theorem queuePart_within {w_ : Nat} (m_ : 1212416 ||| w_ = w_) {z0 : State} (s : State) (p : Nat) (m : Nat) (h_ : Within w_ z0 s) : Within w_ z0 (queuePart s p m) := by
  unfold queuePart
  repeat' first
    | with_reducible assumption
    | exact Eq.refl _
    | with_reducible apply Within.ite
    | with_reducible apply modPart_within (subIn (by decide) m_)
    | with_reducible apply modMill_within (subIn (by decide) m_)
    | with_reducible apply storePart_within (subIn (by decide) m_)
    | split
    | dsimp only

theorem failPart_within {w_ : Nat} (m_ : 1212416 ||| w_ = w_) {z0 : State} (s : State) (p : Nat) (status : Nat) (h_ : Within w_ z0 s) : Within w_ z0 (failPart s p status) := by
  unfold failPart
  repeat' first
    | with_reducible assumption
    | with_reducible intro _
    | exact Eq.refl _
    | with_reducible apply modPart_within (subIn (by decide) m_)
    | with_reducible apply stopPart_within (subIn (by decide) m_)
    | with_reducible apply forAll_within
    | split
    | dsimp only

theorem placePart_within {w_ : Nat} (m_ : 1212416 ||| w_ = w_) {z0 : State} (s : State) (p : Nat) (h_ : Within w_ z0 s) : Within w_ z0 (placePart s p) := by
  unfold placePart
  repeat' first
    | with_reducible assumption
    | exact Eq.refl _
    | with_reducible apply Within.ite
    | with_reducible apply queuePart_within (subIn (by decide) m_)
    | with_reducible apply failPart_within (subIn (by decide) m_)
    | with_reducible apply storePart_within (subIn (by decide) m_)
    | split
    | dsimp only

theorem refillMills_within {w_ : Nat} (m_ : 1212416 ||| w_ = w_) {z0 : State} (s : State) (h_ : Within w_ z0 s) : Within w_ z0 (refillMills s) := by
  unfold refillMills
  repeat' first
    | with_reducible assumption
    | with_reducible intro _
    | exact Eq.refl _
    | with_reducible apply placePart_within (subIn (by decide) m_)
    | with_reducible apply Within.foldl
    | with_reducible apply Within.foldl_snd2
    | with_reducible apply Within.foldl_snd
    | with_reducible apply Within.foldl_fst
    | dsimp only
    | with_reducible apply Within.raw
    | exact .inl (bitIn m_ (by decide))
    | exact .inr (Eq.refl _)

theorem leaveDispatch_within {w_ : Nat} (m_ : 1212416 ||| w_ = w_) {z0 : State} (s : State) (m : Nat) (h_ : Within w_ z0 s) : Within w_ z0 (leaveDispatch s m) := by
  unfold leaveDispatch
  repeat' first
    | with_reducible assumption
    | with_reducible intro _
    | exact Eq.refl _
    | with_reducible apply modMill_within (subIn (by decide) m_)
    | with_reducible apply refillMills_within (subIn (by decide) m_)
    | with_reducible apply placePart_within (subIn (by decide) m_)
    | with_reducible apply Within.foldl
    | with_reducible apply Within.foldl_snd2
    | with_reducible apply Within.foldl_snd
    | with_reducible apply Within.foldl_fst
    | dsimp only

theorem readUnit_within {w_ : Nat} (m_ : 574630383 ||| w_ = w_) {z0 : State} (s : State) (env : OpEnv) (k : Nat) (h_ : Within w_ z0 s) : Within w_ z0 (readUnit s env k).2 := by
  unfold readUnit
  repeat' first
    | with_reducible assumption
    | exact Eq.refl _
    | with_reducible apply Within.ite
    | with_reducible apply bumpFree_within (subIn (by decide) m_)
    | with_reducible apply readLine_within (subIn (by decide) m_)
    | split
    | dsimp only

theorem readUnits_within {w_ : Nat} (m_ : 574630383 ||| w_ = w_) {z0 : State} (s : State) (env : OpEnv) (ks : List Nat) (h_ : Within w_ z0 s) : Within w_ z0 (readUnits s env ks).2 := by
  unfold readUnits
  repeat' first
    | with_reducible assumption
    | with_reducible intro _
    | with_reducible apply readUnit_within (subIn (by decide) m_)
    | with_reducible apply Within.foldl
    | with_reducible apply Within.foldl_snd2
    | with_reducible apply Within.foldl_snd
    | with_reducible apply Within.foldl_fst
    | dsimp only

theorem sieveStep_within {w_ : Nat} (m_ : 574630383 ||| w_ = w_) {z0 : State} (s : State) (h : Nat) (env : OpEnv) (m : List Byte) (h_ : Within w_ z0 s) : Within w_ z0 (sieveStep s h env m).2 := by
  unfold sieveStep
  repeat' first
    | with_reducible assumption
    | exact Eq.refl _
    | with_reducible apply Within.ite
    | with_reducible apply readUnits_within (subIn (by decide) m_)
    | split
    | dsimp only

theorem checkChain_within {w_ : Nat} (m_ : 574630383 ||| w_ = w_) {z0 : State} (s : State) (h : Nat) (env : OpEnv) (ms : List (List Byte)) (h_ : Within w_ z0 s) : Within w_ z0 (checkChain s h env ms).2 := by
  unfold checkChain
  repeat' first
    | with_reducible assumption
    | exact Eq.refl _
    | with_reducible apply sieveStep_within (subIn (by decide) m_)
    | split
    | dsimp only

theorem createPart_within {w_ : Nat} (m_ : 1286144 ||| w_ = w_) {z0 : State} (did : Nat) (merge : Bool) (s : State) (e : Option Nat × List (Nat × Nat)) (h_ : Within w_ z0 s) : Within w_ z0 (createPart did merge s e) := by
  unfold createPart
  repeat' first
    | with_reducible assumption
    | exact Eq.refl _
    | with_reducible apply putPart_within (subIn (by decide) m_)
    | with_reducible apply placePart_within (subIn (by decide) m_)
    | with_reducible apply modDesc_within (subIn (by decide) m_)
    | split
    | dsimp only
    | with_reducible apply Within.raw
    | exact .inl (bitIn m_ (by decide))
    | exact .inr (Eq.refl _)

theorem noteVisit_within {w_ : Nat} (m_ : 266240 ||| w_ = w_) {z0 : State} (s : State) (n : Nat) (h_ : Within w_ z0 s) : Within w_ z0 (noteVisit s n) := by
  unfold noteVisit
  repeat' first
    | with_reducible assumption
    | exact Eq.refl _
    | with_reducible apply Within.ite
    | with_reducible apply modPair_within (subIn (by decide) m_)
    | split
    | dsimp only
    | with_reducible apply Within.raw
    | exact .inl (bitIn m_ (by decide))
    | exact .inr (Eq.refl _)

theorem startUnit_within {w_ : Nat} (m_ : 576190959 ||| w_ = w_) {z0 : State} (s : State) (n : Nat) (env : OpEnv) (ts : List Slot) (h_ : Within w_ z0 s) : Within w_ z0 (startUnit s n env ts) := by
  unfold startUnit
  repeat' first
    | with_reducible assumption
    | with_reducible intro _
    | exact Eq.refl _
    | with_reducible apply Within.ite
    | with_reducible apply noteVisit_within (subIn (by decide) m_)
    | with_reducible apply modPair_within (subIn (by decide) m_)
    | with_reducible apply newDesc_within (subIn (by decide) m_)
    | with_reducible apply stopPair_within (subIn (by decide) m_)
    | with_reducible apply finishDesc_within (subIn (by decide) m_)
    | with_reducible apply checkChain_within (subIn (by decide) m_)
    | with_reducible apply modDesc_within (subIn (by decide) m_)
    | with_reducible apply createPart_within (subIn (by decide) m_)
    | with_reducible apply Within.foldl
    | with_reducible apply Within.foldl_snd2
    | with_reducible apply Within.foldl_snd
    | with_reducible apply Within.foldl_fst
    | split
    | dsimp only

theorem hopperPut_within {w_ : Nat} (m_ : 1048576 ||| w_ = w_) {z0 : State} (s : State) (mill : Nat) (at_ : Nat) (size : Nat) (us : List (Line × Bool)) (h_ : Within w_ z0 s) : Within w_ z0 (hopperPut s mill at_ size us) := by
  unfold hopperPut
  repeat' first
    | with_reducible assumption
    | with_reducible intro _
    | exact Eq.refl _
    | with_reducible apply Within.ite
    | with_reducible apply modMill_within (subIn (by decide) m_)
    | with_reducible apply Within.foldl
    | with_reducible apply Within.foldl_snd2
    | with_reducible apply Within.foldl_snd
    | with_reducible apply Within.foldl_fst
    | split
    | dsimp only

theorem hopperBytes_within {w_ : Nat} (m_ : 1048576 ||| w_ = w_) {z0 : State} (s : State) (mill : Nat) (at_ : Nat) (size : Nat) (bs : List Byte) (h_ : Within w_ z0 s) : Within w_ z0 (hopperBytes s mill at_ size bs) := by
  unfold hopperBytes
  repeat' first
    | with_reducible assumption
    | with_reducible apply hopperPut_within (subIn (by decide) m_)
    | dsimp only

theorem clearHopper_within {w_ : Nat} (m_ : 1048576 ||| w_ = w_) {z0 : State} (s : State) (m : Nat) (h_ : Within w_ z0 s) : Within w_ z0 (clearHopper s m) := by
  unfold clearHopper
  repeat' first
    | with_reducible assumption
    | exact Eq.refl _
    | with_reducible apply modMill_within (subIn (by decide) m_)
    | dsimp only

theorem startNextPart_within {w_ : Nat} (m_ : 269647904 ||| w_ = w_) {z0 : State} (s : State) (m : Nat) (h_ : Within w_ z0 s) : Within w_ z0 (startNextPart s m) := by
  unfold startNextPart
  repeat' first
    | with_reducible assumption
    | exact Eq.refl _
    | with_reducible apply Within.ite
    | with_reducible apply clearHopper_within (subIn (by decide) m_)
    | with_reducible apply modMill_within (subIn (by decide) m_)
    | with_reducible apply refillMills_within (subIn (by decide) m_)
    | with_reducible apply modPart_within (subIn (by decide) m_)
    | with_reducible apply hopperBytes_within (subIn (by decide) m_)
    | with_reducible apply wakeFlume_within (subIn (by decide) m_)
    | split
    | dsimp only

theorem createMerge_within {w_ : Nat} (m_ : 1286144 ||| w_ = w_) {z0 : State} (s : State) (did : Nat) (h_ : Within w_ z0 s) : Within w_ z0 (createMerge s did) := by
  unfold createMerge
  repeat' first
    | with_reducible assumption
    | exact Eq.refl _
    | with_reducible apply Within.ite
    | with_reducible apply createPart_within (subIn (by decide) m_)
    | split
    | dsimp only

theorem endPart_within {w_ : Nat} (m_ : 1286144 ||| w_ = w_) {z0 : State} (s : State) (m : Nat) (p : Nat) (h_ : Within w_ z0 s) : Within w_ z0 (endPart s m p) := by
  unfold endPart
  repeat' first
    | with_reducible assumption
    | with_reducible intro _
    | exact Eq.refl _
    | with_reducible apply Within.ite
    | with_reducible apply modMill_within (subIn (by decide) m_)
    | with_reducible apply modPart_within (subIn (by decide) m_)
    | with_reducible apply stopPart_within (subIn (by decide) m_)
    | with_reducible apply refillMills_within (subIn (by decide) m_)
    | with_reducible apply createMerge_within (subIn (by decide) m_)
    | with_reducible apply forAll_within
    | split
    | dsimp only

/-! The meanings: which parts of the state each can change. -/

theorem whenOpen_within {w_ : Nat} (m_ : 268435488 ||| w_ = w_) {z0 : State} (s : State) (rs : List Range) (act : State → State)
    (h_ : Within w_ z0 s) (hf_ : ∀ t, Within w_ z0 t → Within w_ z0 (act t)) : Touches w_ z0 (whenOpen s rs act) := by
  unfold whenOpen
  exact Touches.ite (.next (forAll_within h_ fun t k ht => wakeFlume_within (subIn (by decide) m_) t k ht)) (Touches.ite (.next h_) (.next (hf_ s h_)))

theorem execDescriptorStart_within {w_ : Nat} (m_ : 844627439 ||| w_ = w_) (n : Nat) (env : OpEnv) (s : State) : Touches w_ s (execDescriptorStart n env s) := by
  unfold execDescriptorStart
  repeat' first
    | with_reducible assumption
    | with_reducible exact Within.refl _ _
    | with_reducible apply Touches.next
    | with_reducible apply Touches.ite
    | with_reducible apply Touches.onElement
    | with_reducible apply whenOpen_within (subIn (by decide) m_)
    | with_reducible intro _
    | exact Eq.refl _
    | with_reducible apply Within.ite
    | with_reducible apply startUnit_within (subIn (by decide) m_)
    | with_reducible apply lookups_within (subIn (by decide) m_)
    | split
    | dsimp only

theorem execPartStart_within {w_ : Nat} (m_ : 269647904 ||| w_ = w_) (m : Nat) (s : State) : Touches w_ s (execPartStart m s) := by
  unfold execPartStart
  repeat' first
    | with_reducible assumption
    | with_reducible exact Within.refl _ _
    | with_reducible apply Touches.next
    | with_reducible apply Touches.ite
    | with_reducible apply Touches.onElement
    | with_reducible apply Within.ite
    | with_reducible apply startNextPart_within (subIn (by decide) m_)
    | split
    | dsimp only

theorem execPartEnd_within {w_ : Nat} (m_ : 1286144 ||| w_ = w_) (m : Nat) (s : State) : Touches w_ s (execPartEnd m s) := by
  unfold execPartEnd
  repeat' first
    | with_reducible assumption
    | with_reducible exact Within.refl _ _
    | with_reducible apply Touches.next
    | with_reducible apply Touches.ite
    | with_reducible apply Touches.onElement
    | exact Eq.refl _
    | with_reducible apply Within.ite
    | with_reducible apply endPart_within (subIn (by decide) m_)
    | split
    | dsimp only

theorem execDescriptorComplete_within {w_ : Nat} (m_ : 8192 ||| w_ = w_) (did : Nat) (s : State) : Touches w_ s (execDescriptorComplete did s) := by
  unfold execDescriptorComplete
  repeat' first
    | with_reducible assumption
    | with_reducible exact Within.refl _ _
    | with_reducible apply Touches.next
    | with_reducible apply Touches.ite
    | exact Eq.refl _
    | with_reducible apply Within.ite
    | with_reducible apply finishDesc_within (subIn (by decide) m_)
    | split
    | dsimp only

end Sys2Proof.Machine
end

