-- ==== Sys2Proof/Laws/WithinOperate.lean ====
section
/-! SUPPORT. Which parts of the state the operations of Machine/Operate.lean can change. -/

set_option Elab.async false

namespace Sys2Proof.Machine

theorem stageDone_within {w_ : Nat} (m_ : 1081344 ||| w_ = w_) {z0 : State} (s : State) (g : Stage) (inter : Inter) (resA : Nat) (resB : Nat) (h_ : Within w_ z0 s) : Within w_ z0 (stageDone s g inter resA resB) := by
  unfold stageDone
  repeat' first
    | with_reducible assumption
    | exact Eq.refl _
    | with_reducible apply Within.ite
    | with_reducible apply modPart_within (subIn (by decide) m_)
    | with_reducible apply hopperBytes_within (subIn (by decide) m_)
    | split
    | dsimp only

theorem stageStop_within {w_ : Nat} (m_ : 32768 ||| w_ = w_) {z0 : State} (s : State) (g : Stage) (status : Nat) (resA : Nat) (resB : Nat) (h_ : Within w_ z0 s) : Within w_ z0 (stageStop s g status resA resB) := by
  unfold stageStop
  repeat' first
    | with_reducible assumption
    | exact Eq.refl _
    | with_reducible apply modPart_within (subIn (by decide) m_)
    | dsimp only

theorem stagePoison_within {w_ : Nat} (m_ : 32768 ||| w_ = w_) {z0 : State} (s : State) (g : Stage) (k : Nat) (h_ : Within w_ z0 s) : Within w_ z0 (stagePoison s g k) := by
  unfold stagePoison
  repeat' first
    | with_reducible assumption
    | exact Eq.refl _
    | with_reducible apply Within.ite
    | with_reducible apply modPart_within (subIn (by decide) m_)
    | split
    | dsimp only

theorem grantUnit_within {w_ : Nat} (m_ : 524288 ||| w_ = w_) {z0 : State} (m : Nat) (s : State) (k : Nat) (h_ : Within w_ z0 s) : Within w_ z0 (grantUnit m s k) := by
  unfold grantUnit
  repeat' first
    | with_reducible assumption
    | exact Eq.refl _
    | with_reducible apply Within.ite
    | with_reducible apply grantTo_within (subIn (by decide) m_)
    | split
    | dsimp only

theorem stageRead_within {w_ : Nat} (m_ : 576203247 ||| w_ = w_) {z0 : State} (g : Stage) (env : OpEnv) (s : State) (ks : List Nat) (h_ : Within w_ z0 s) : Within w_ z0 (stageRead g env s ks).2 := by
  unfold stageRead
  repeat' first
    | with_reducible assumption
    | with_reducible intro _
    | with_reducible apply readUnits_within (subIn (by decide) m_)
    | with_reducible apply grantUnit_within (subIn (by decide) m_)
    | with_reducible apply hopperPut_within (subIn (by decide) m_)
    | with_reducible apply Within.foldl
    | with_reducible apply Within.foldl_snd2
    | with_reducible apply Within.foldl_snd
    | with_reducible apply Within.foldl_fst
    | dsimp only

theorem readColumn_within {w_ : Nat} (m_ : 576203247 ||| w_ = w_) {z0 : State} (g : Stage) (env : OpEnv) (s : State) (t : Nat) (a : Nat) (is : List Nat) (h_ : Within w_ z0 s) : Within w_ z0 (readColumn g env s t a is).2 := by
  unfold readColumn
  repeat' first
    | with_reducible assumption
    | with_reducible apply stageRead_within (subIn (by decide) m_)
    | dsimp only

theorem deviceWrite_within {w_ : Nat} (m_ : 575154671 ||| w_ = w_) {z0 : State} (s0 : State) (env : OpEnv) (did : Nat) (mill : Nat) (k : Nat) (data : Nat) (mask : Nat) (poison : Bool) (h_ : Within w_ z0 s0) : Within w_ z0 (deviceWrite s0 env did mill k data mask poison) := by
  unfold deviceWrite
  repeat' first
    | with_reducible assumption
    | exact Eq.refl _
    | with_reducible apply Within.ite
    | with_reducible apply grantTo_within (subIn (by decide) m_)
    | with_reducible apply modFlume_within (subIn (by decide) m_)
    | with_reducible apply writeLine_within (subIn (by decide) m_)
    | with_reducible apply readLine_within (subIn (by decide) m_)
    | with_reducible apply bumpTotal_within (subIn (by decide) m_)
    | split
    | dsimp only

theorem writeMarked_within {w_ : Nat} (m_ : 575154671 ||| w_ = w_) {z0 : State} (s : State) (env : OpEnv) (g : Stage) (a : Nat) (bs : Marked) (h_ : Within w_ z0 s) : Within w_ z0 (writeMarked s env g a bs) := by
  unfold writeMarked
  repeat' first
    | with_reducible assumption
    | with_reducible intro _
    | with_reducible apply Within.ite
    | with_reducible apply emit_within (subIn (by decide) m_)
    | with_reducible apply deviceWrite_within (subIn (by decide) m_)
    | with_reducible apply forAll_within
    | split
    | dsimp only

theorem writeBits_within {w_ : Nat} (m_ : 575154671 ||| w_ = w_) {z0 : State} (s : State) (env : OpEnv) (g : Stage) (a : Nat) (n : Nat) (own : List Nat) (set : List Nat) (h_ : Within w_ z0 s) : Within w_ z0 (writeBits s env g a n own set) := by
  unfold writeBits
  repeat' first
    | with_reducible assumption
    | with_reducible intro _
    | with_reducible apply Within.ite
    | with_reducible apply emit_within (subIn (by decide) m_)
    | with_reducible apply deviceWrite_within (subIn (by decide) m_)
    | with_reducible apply forAll_within
    | with_reducible apply Within.foldl
    | with_reducible apply Within.foldl_snd2
    | with_reducible apply Within.foldl_snd
    | with_reducible apply Within.foldl_fst
    | split
    | dsimp only

theorem stageOut_within {w_ : Nat} (m_ : 1048576 ||| w_ = w_) {z0 : State} (s : State) (g : Stage) (bs : Marked) (h_ : Within w_ z0 s) : Within w_ z0 (stageOut s g bs) := by
  unfold stageOut
  repeat' first
    | with_reducible assumption
    | with_reducible apply hopperPut_within (subIn (by decide) m_)
    | dsimp only

theorem flushUnits_within {w_ : Nat} (m_ : 576203247 ||| w_ = w_) {z0 : State} (env : OpEnv) (g : Stage) (area : Area) (keep : Option (Nat × Nat)) (a0_ : List Entries) : ∀ (a1_ : State), Within w_ z0 a1_ → Within w_ z0 (flushUnits env g area keep a0_ a1_).2 := by
  induction a0_ with
  | nil =>
    intro a1_ h_
    unfold flushUnits
    repeat' first
      | with_reducible assumption
      | exact Eq.refl _
      | with_reducible apply Within.ite
      | with_reducible apply modDesc_within (subIn (by decide) m_)
      | with_reducible apply writeMarked_within (subIn (by decide) m_)
      | with_reducible apply stageOut_within (subIn (by decide) m_)
      | split
      | dsimp only
  | cons x_ l_ ih_ =>
    intro a1_ h_
    unfold flushUnits
    repeat' first
      | with_reducible assumption
      | with_reducible apply ih_
      | exact Eq.refl _
      | with_reducible apply Within.ite
      | with_reducible apply modDesc_within (subIn (by decide) m_)
      | with_reducible apply writeMarked_within (subIn (by decide) m_)
      | with_reducible apply stageOut_within (subIn (by decide) m_)
      | split
      | dsimp only

theorem writeList_within {w_ : Nat} (m_ : 576203247 ||| w_ = w_) {z0 : State} (s : State) (env : OpEnv) (g : Stage) (area : Area) (keep : Option (Nat × Nat)) (es : Entries) (h_ : Within w_ z0 s) : Within w_ z0 (writeList s env g area keep es).2 := by
  unfold writeList
  repeat' first
    | with_reducible assumption
    | with_reducible apply flushUnits_within (subIn (by decide) m_)
    | dsimp only

theorem writeKeepBits_within {w_ : Nat} (m_ : 575154671 ||| w_ = w_) {z0 : State} (s : State) (env : OpEnv) (g : Stage) (h_ : Within w_ z0 s) : Within w_ z0 (writeKeepBits s env g) := by
  unfold writeKeepBits
  repeat' first
    | with_reducible assumption
    | with_reducible apply Within.ite
    | with_reducible apply writeBits_within (subIn (by decide) m_)
    | split
    | dsimp only

theorem listEnd_within {w_ : Nat} (m_ : 1081344 ||| w_ = w_) {z0 : State} (g : Stage) (ok : Bool) (s : State) (resA : Nat) (resB : Nat) (h_ : Within w_ z0 s) : Within w_ z0 (listEnd g ok s resA resB) := by
  unfold listEnd
  repeat' first
    | with_reducible assumption
    | with_reducible apply Within.ite
    | with_reducible apply stageDone_within (subIn (by decide) m_)
    | with_reducible apply stageStop_within (subIn (by decide) m_)
    | split
    | dsimp only

/-! The meanings: which parts of the state each can change. -/

theorem runStage_within {w_ : Nat} (m_ : 301992993 ||| w_ = w_) (mill op : Nat) (env : OpEnv) (s : State) (body : Stage → State → State)
    (hf_ : ∀ g t, Within w_ s t → Within w_ s (body g t)) : Touches w_ s (runStage mill op env s body) := by
  unfold runStage
  refine Touches.onElement ?_
  split
  · exact .next (.refl _ s)
  · next g _ =>
    refine Touches.ite (.next (.refl _ s)) (Touches.ite (.next (.refl _ s)) ?_)
    exact whenOpen_within (subIn (by decide) m_) s _ _ (.refl _ s) fun t ht => hf_ g _ (lookups_within (subIn (by decide) m_) t env ht)

end Sys2Proof.Machine
end

