-- ==== Sys2Proof/Laws/WithinOperators.lean ====
section
/-! SUPPORT. Which parts of the state the operations of Machine/Operators.lean can change. -/

set_option Elab.async false

namespace Sys2Proof.Machine

theorem fillBody_within {w_ : Nat} (m_ : 576236015 ||| w_ = w_) {z0 : State} (env : OpEnv) (g : Stage) (s : State) (h_ : Within w_ z0 s) : Within w_ z0 (fillBody env g s) := by
  unfold fillBody
  repeat' first
    | with_reducible assumption
    | with_reducible intro _
    | with_reducible apply writeMarked_within (subIn (by decide) m_)
    | with_reducible apply stageDone_within (subIn (by decide) m_)
    | with_reducible apply forAll_within
    | dsimp only

theorem copyBody_within {w_ : Nat} (m_ : 576236015 ||| w_ = w_) {z0 : State} (env : OpEnv) (g : Stage) (s : State) (h_ : Within w_ z0 s) : Within w_ z0 (copyBody env g s) := by
  unfold copyBody
  repeat' first
    | with_reducible assumption
    | with_reducible intro _
    | with_reducible apply stageRead_within (subIn (by decide) m_)
    | with_reducible apply writeMarked_within (subIn (by decide) m_)
    | with_reducible apply stageDone_within (subIn (by decide) m_)
    | with_reducible apply forAll_within
    | dsimp only

theorem scanBody_within {w_ : Nat} (m_ : 576236015 ||| w_ = w_) {z0 : State} (env : OpEnv) (g : Stage) (s : State) (h_ : Within w_ z0 s) : Within w_ z0 (scanBody env g s) := by
  unfold scanBody
  repeat' first
    | with_reducible assumption
    | exact Eq.refl _
    | with_reducible apply Within.ite
    | with_reducible apply readColumn_within (subIn (by decide) m_)
    | with_reducible apply modMill_within (subIn (by decide) m_)
    | with_reducible apply writeBits_within (subIn (by decide) m_)
    | with_reducible apply writeList_within (subIn (by decide) m_)
    | with_reducible apply stagePoison_within (subIn (by decide) m_)
    | with_reducible apply stageStop_within (subIn (by decide) m_)
    | with_reducible apply stageDone_within (subIn (by decide) m_)
    | split
    | dsimp only

theorem compactBody_within {w_ : Nat} (m_ : 576236015 ||| w_ = w_) {z0 : State} (env : OpEnv) (g : Stage) (s : State) (h_ : Within w_ z0 s) : Within w_ z0 (compactBody env g s) := by
  unfold compactBody
  repeat' first
    | with_reducible assumption
    | exact Eq.refl _
    | with_reducible apply Within.ite
    | with_reducible apply stageRead_within (subIn (by decide) m_)
    | with_reducible apply readColumn_within (subIn (by decide) m_)
    | with_reducible apply writeList_within (subIn (by decide) m_)
    | with_reducible apply writeKeepBits_within (subIn (by decide) m_)
    | with_reducible apply stagePoison_within (subIn (by decide) m_)
    | with_reducible apply stageStop_within (subIn (by decide) m_)
    | with_reducible apply listEnd_within (subIn (by decide) m_)
    | split
    | dsimp only

theorem gatherBody_within {w_ : Nat} (m_ : 576236015 ||| w_ = w_) {z0 : State} (env : OpEnv) (g : Stage) (s : State) (h_ : Within w_ z0 s) : Within w_ z0 (gatherBody env g s) := by
  unfold gatherBody
  repeat' first
    | with_reducible assumption
    | with_reducible intro _
    | exact Eq.refl _
    | with_reducible apply Within.ite
    | with_reducible apply stageRead_within (subIn (by decide) m_)
    | with_reducible apply hopperBytes_within (subIn (by decide) m_)
    | with_reducible apply readColumn_within (subIn (by decide) m_)
    | with_reducible apply writeMarked_within (subIn (by decide) m_)
    | with_reducible apply modPart_within (subIn (by decide) m_)
    | with_reducible apply stagePoison_within (subIn (by decide) m_)
    | with_reducible apply stageDone_within (subIn (by decide) m_)
    | with_reducible apply writeList_within (subIn (by decide) m_)
    | with_reducible apply listEnd_within (subIn (by decide) m_)
    | with_reducible apply writeKeepBits_within (subIn (by decide) m_)
    | with_reducible apply Within.foldl
    | with_reducible apply Within.foldl_snd2
    | with_reducible apply Within.foldl_snd
    | with_reducible apply Within.foldl_fst
    | split
    | dsimp only

theorem search_within {w_ : Nat} (m_ : 576203247 ||| w_ = w_) {z0 : State} (env : OpEnv) (g : Stage) (t : Table) (tag : Nat) (key : List Byte) (a0_ : Nat) : ∀ (a1_ : Nat) (a2_ : Units) (a3_ : State), Within w_ z0 a3_ → Within w_ z0 (search env g t tag key a0_ a1_ a2_ a3_).st := by
  induction a0_ with
  | zero =>
    intro a1_ a2_ a3_ h_
    unfold search
    repeat' first
      | with_reducible assumption
      | exact Eq.refl _
      | with_reducible apply Within.ite
      | with_reducible apply stageRead_within (subIn (by decide) m_)
      | split
      | dsimp only
  | succ k_ ih_ =>
    intro a1_ a2_ a3_ h_
    unfold search
    repeat' first
      | with_reducible assumption
      | with_reducible apply ih_
      | exact Eq.refl _
      | with_reducible apply Within.ite
      | with_reducible apply stageRead_within (subIn (by decide) m_)
      | split
      | dsimp only

theorem condWrite_within {w : Nat} (m_ : 576203247 ||| w = w) {z0 : State} (env : OpEnv) (g : Stage) (k old data : Nat) (bad : Bool)
    (s : State) (h : Within w z0 s) : Within w z0 (condWrite env g k old data bad s).2 ∧
      ∀ t, (condWrite env g k old data bad s).1 = some t → Within w z0 t := by
  have hr := stageRead_within (subIn (by decide) m_) g env s [k] h
  unfold condWrite
  dsimp only
  split
  · exact ⟨h, fun t e => by cases e; exact writeMarked_within (subIn (by decide) m_) _ _ _ _ _ h⟩
  · split
    · exact ⟨hr, fun t e => by cases e; exact writeMarked_within (subIn (by decide) m_) _ _ _ _ _ hr⟩
    · exact ⟨hr, fun t e => by cases e⟩

theorem buildAll_within {w : Nat} (m_ : 576203247 ||| w = w) {z0 : State} (env : OpEnv) (g : Stage) (u : Units) (l : List Nat) :
    ∀ (cache : Units) (r : Built), Within w z0 r.st → Within w z0 (buildAll env g u l cache r).st := by
  induction l with
  | nil => exact fun _ _ h => h
  | cons i l ih =>
    intro cache r h
    unfold buildAll
    dsimp only
    split
    · exact h
    · have hs := search_within (subIn (by decide) m_) env g (tableOf g.m)
        (tagOf (keyHash (bImm1 g.m % 2 ^ 32) (keyBytes u (bTypeA g.m) (bSrcA g.m) i)))
        (keyBytes u (bTypeA g.m) (bSrcA g.m) i) (2 ^ (tableOf g.m).k)
        (homeOf (tableOf g.m) (keyHash (bImm1 g.m % 2 ^ 32) (keyBytes u (bTypeA g.m) (bSrcA g.m) i))) cache r.st h
      split
      · exact hs
      · split
        · exact ih _ _ hs
        · split
          · exact hs
          · split
            · next e => exact ih _ _ ((condWrite_within (subIn (by decide) m_) _ _ _ _ _ _ _ hs).2 _ e)
            · exact (condWrite_within (subIn (by decide) m_) _ _ _ _ _ _ _ hs).1

theorem buildBody_within {w_ : Nat} (m_ : 576236015 ||| w_ = w_) {z0 : State} (env : OpEnv) (g : Stage) (s : State) (h_ : Within w_ z0 s) : Within w_ z0 (buildBody env g s) := by
  unfold buildBody
  repeat' first
    | with_reducible assumption
    | exact Eq.refl _
    | with_reducible apply Within.ite
    | with_reducible apply readColumn_within (subIn (by decide) m_)
    | with_reducible apply buildAll_within (subIn (by decide) m_)
    | with_reducible apply modPart_within (subIn (by decide) m_)
    | with_reducible apply stagePoison_within (subIn (by decide) m_)
    | with_reducible apply stageStop_within (subIn (by decide) m_)
    | with_reducible apply writeList_within (subIn (by decide) m_)
    | with_reducible apply writeKeepBits_within (subIn (by decide) m_)
    | with_reducible apply listEnd_within (subIn (by decide) m_)
    | split
    | dsimp only

theorem probeAll_within {w : Nat} (m_ : 576203247 ||| w = w) {z0 : State} (env : OpEnv) (g : Stage) (u : Units) (l : List Nat) :
    ∀ r : Probed, Within w z0 r.st → Within w z0 (probeAll env g u l r).st := by
  induction l with
  | nil => exact fun _ h => h
  | cons i l ih =>
    intro r h
    unfold probeAll
    dsimp only
    split
    · exact h
    · split
      · exact search_within (subIn (by decide) m_) _ _ _ _ _ _ _ _ _ h
      · exact ih _ (search_within (subIn (by decide) m_) _ _ _ _ _ _ _ _ _ h)

theorem probeBody_within {w_ : Nat} (m_ : 576236015 ||| w_ = w_) {z0 : State} (env : OpEnv) (g : Stage) (s : State) (h_ : Within w_ z0 s) : Within w_ z0 (probeBody env g s) := by
  unfold probeBody
  repeat' first
    | with_reducible assumption
    | exact Eq.refl _
    | with_reducible apply Within.ite
    | with_reducible apply readColumn_within (subIn (by decide) m_)
    | with_reducible apply probeAll_within (subIn (by decide) m_)
    | with_reducible apply hopperPut_within (subIn (by decide) m_)
    | with_reducible apply writeBits_within (subIn (by decide) m_)
    | with_reducible apply writeList_within (subIn (by decide) m_)
    | with_reducible apply writeKeepBits_within (subIn (by decide) m_)
    | with_reducible apply modPart_within (subIn (by decide) m_)
    | with_reducible apply stagePoison_within (subIn (by decide) m_)
    | with_reducible apply stageDone_within (subIn (by decide) m_)
    | with_reducible apply stageStop_within (subIn (by decide) m_)
    | split
    | dsimp only

theorem spillTable_within {w_ : Nat} (m_ : 576236015 ||| w_ = w_) {z0 : State} (s : State) (env : OpEnv) (g : Stage) (tb : List Group) (h_ : Within w_ z0 s) : Within w_ z0 (spillTable s env g tb).2 := by
  unfold spillTable
  repeat' first
    | with_reducible assumption
    | exact Eq.refl _
    | with_reducible apply Within.ite
    | with_reducible apply writeList_within (subIn (by decide) m_)
    | with_reducible apply modPart_within (subIn (by decide) m_)
    | split
    | dsimp only

theorem aggAll_within {w_ : Nat} (m_ : 576236015 ||| w_ = w_) {z0 : State} (env : OpEnv) (g : Stage) (u : Units) (a0_ : List Nat) : ∀ (a1_ : List Group) (a2_ : Nat) (a3_ : State), Within w_ z0 a3_ → Within w_ z0 (aggAll env g u a0_ a1_ a2_ a3_).2.2 := by
  induction a0_ with
  | nil =>
    intro a1_ a2_ a3_ h_
    unfold aggAll
    repeat' first
      | with_reducible assumption
      | exact Eq.refl _
      | with_reducible apply Within.ite
      | with_reducible apply spillTable_within (subIn (by decide) m_)
      | with_reducible apply modDesc_within (subIn (by decide) m_)
      | split
      | dsimp only
  | cons x_ l_ ih_ =>
    intro a1_ a2_ a3_ h_
    unfold aggAll
    repeat' first
      | with_reducible assumption
      | with_reducible apply ih_
      | exact Eq.refl _
      | with_reducible apply Within.ite
      | with_reducible apply spillTable_within (subIn (by decide) m_)
      | with_reducible apply modDesc_within (subIn (by decide) m_)
      | split
      | dsimp only

theorem aggFinish_within {w_ : Nat} (m_ : 576236015 ||| w_ = w_) {z0 : State} (env : OpEnv) (g : Stage) (tb : List Group) (s : State) (h_ : Within w_ z0 s) : Within w_ z0 (aggFinish env g tb s).2 := by
  unfold aggFinish
  repeat' first
    | with_reducible assumption
    | with_reducible apply Within.ite
    | with_reducible apply writeList_within (subIn (by decide) m_)
    | with_reducible apply spillTable_within (subIn (by decide) m_)
    | split
    | dsimp only

theorem aggBody_within {w_ : Nat} (m_ : 576236015 ||| w_ = w_) {z0 : State} (env : OpEnv) (g : Stage) (s : State) (h_ : Within w_ z0 s) : Within w_ z0 (aggBody env g s) := by
  unfold aggBody
  repeat' first
    | with_reducible assumption
    | exact Eq.refl _
    | with_reducible apply Within.ite
    | with_reducible apply readColumn_within (subIn (by decide) m_)
    | with_reducible apply aggAll_within (subIn (by decide) m_)
    | with_reducible apply modPart_within (subIn (by decide) m_)
    | with_reducible apply stagePoison_within (subIn (by decide) m_)
    | with_reducible apply stageStop_within (subIn (by decide) m_)
    | with_reducible apply aggFinish_within (subIn (by decide) m_)
    | with_reducible apply hopperBytes_within (subIn (by decide) m_)
    | with_reducible apply writeList_within (subIn (by decide) m_)
    | with_reducible apply writeKeepBits_within (subIn (by decide) m_)
    | with_reducible apply listEnd_within (subIn (by decide) m_)
    | split
    | dsimp only

theorem bitmapBody_within {w_ : Nat} (m_ : 576236015 ||| w_ = w_) {z0 : State} (env : OpEnv) (g : Stage) (s : State) (h_ : Within w_ z0 s) : Within w_ z0 (bitmapBody env g s) := by
  unfold bitmapBody
  repeat' first
    | with_reducible assumption
    | exact Eq.refl _
    | with_reducible apply stageRead_within (subIn (by decide) m_)
    | with_reducible apply writeBits_within (subIn (by decide) m_)
    | with_reducible apply stageDone_within (subIn (by decide) m_)
    | with_reducible apply modPart_within (subIn (by decide) m_)
    | with_reducible apply stagePoison_within (subIn (by decide) m_)
    | split
    | dsimp only

theorem checksumBody_within {w_ : Nat} (m_ : 576236015 ||| w_ = w_) {z0 : State} (env : OpEnv) (g : Stage) (s : State) (h_ : Within w_ z0 s) : Within w_ z0 (checksumBody env g s) := by
  unfold checksumBody
  repeat' first
    | with_reducible assumption
    | exact Eq.refl _
    | with_reducible apply stageRead_within (subIn (by decide) m_)
    | with_reducible apply stagePoison_within (subIn (by decide) m_)
    | with_reducible apply stageDone_within (subIn (by decide) m_)
    | with_reducible apply modDesc_within (subIn (by decide) m_)
    | split
    | dsimp only

theorem compareBody_within {w_ : Nat} (m_ : 576236015 ||| w_ = w_) {z0 : State} (env : OpEnv) (g : Stage) (s : State) (h_ : Within w_ z0 s) : Within w_ z0 (compareBody env g s) := by
  unfold compareBody
  repeat' first
    | with_reducible assumption
    | exact Eq.refl _
    | with_reducible apply stageRead_within (subIn (by decide) m_)
    | with_reducible apply stagePoison_within (subIn (by decide) m_)
    | with_reducible apply stageDone_within (subIn (by decide) m_)
    | split
    | dsimp only

theorem mergePasses_within {w_ : Nat} (m_ : 576203247 ||| w_ = w_) {z0 : State} (env : OpEnv) (g : Stage) (p : Nat) (recs : List Group) (a0_ : Nat) : ∀ (a1_ : Nat) (a2_ : Nat) (a3_ : State), Within w_ z0 a3_ → Within w_ z0 (mergePasses env g p recs a0_ a1_ a2_ a3_).2.2 := by
  induction a0_ with
  | zero =>
    intro a1_ a2_ a3_ h_
    unfold mergePasses
    repeat' first
      | with_reducible assumption
      | exact Eq.refl _
      | with_reducible apply Within.ite
      | with_reducible apply writeList_within (subIn (by decide) m_)
      | split
      | dsimp only
  | succ k_ ih_ =>
    intro a1_ a2_ a3_ h_
    unfold mergePasses
    repeat' first
      | with_reducible assumption
      | with_reducible apply ih_
      | exact Eq.refl _
      | with_reducible apply Within.ite
      | with_reducible apply writeList_within (subIn (by decide) m_)
      | split
      | dsimp only

theorem mergeTries_within {w_ : Nat} (m_ : 576203247 ||| w_ = w_) {z0 : State} (env : OpEnv) (g : Stage) (recs : List Group) (a0_ : Nat) : ∀ (a1_ : Nat) (a2_ : State), Within w_ z0 a2_ → Within w_ z0 (mergeTries env g recs a0_ a1_ a2_).2.2 := by
  induction a0_ with
  | zero =>
    intro a1_ a2_ h_
    unfold mergeTries
    repeat' first
      | with_reducible assumption
      | exact Eq.refl _
      | with_reducible apply Within.ite
      | with_reducible apply modDesc_within (subIn (by decide) m_)
      | with_reducible apply mergePasses_within (subIn (by decide) m_)
      | split
      | dsimp only
  | succ k_ ih_ =>
    intro a1_ a2_ h_
    unfold mergeTries
    repeat' first
      | with_reducible assumption
      | with_reducible apply ih_
      | exact Eq.refl _
      | with_reducible apply Within.ite
      | with_reducible apply modDesc_within (subIn (by decide) m_)
      | with_reducible apply mergePasses_within (subIn (by decide) m_)
      | split
      | dsimp only

theorem mergeBody_within {w_ : Nat} (m_ : 576236015 ||| w_ = w_) {z0 : State} (env : OpEnv) (g : Stage) (s : State) (h_ : Within w_ z0 s) : Within w_ z0 (mergeBody env g s) := by
  unfold mergeBody
  repeat' first
    | with_reducible assumption
    | exact Eq.refl _
    | with_reducible apply Within.ite
    | with_reducible apply stageRead_within (subIn (by decide) m_)
    | with_reducible apply stagePoison_within (subIn (by decide) m_)
    | with_reducible apply mergeTries_within (subIn (by decide) m_)
    | with_reducible apply modPart_within (subIn (by decide) m_)
    | with_reducible apply stageStop_within (subIn (by decide) m_)
    | split
    | dsimp only

/-! The meanings: which parts of the state each can change. -/

theorem execFill_within {w_ : Nat} (m_ : 844672495 ||| w_ = w_) (m : Nat) (env : OpEnv) (s : State) : Touches w_ s (execFill m env s) := by
  unfold execFill
  repeat' first
    | with_reducible assumption
    | with_reducible exact Within.refl _ _
    | with_reducible apply Touches.next
    | with_reducible apply Touches.ite
    | with_reducible apply Touches.onElement
    | with_reducible apply runStage_within (subIn (by decide) m_)
    | with_reducible intro _
    | with_reducible apply Within.ite
    | with_reducible apply fillBody_within (subIn (by decide) m_)
    | split
    | dsimp only

theorem execCopy_within {w_ : Nat} (m_ : 844672495 ||| w_ = w_) (m : Nat) (env : OpEnv) (s : State) : Touches w_ s (execCopy m env s) := by
  unfold execCopy
  repeat' first
    | with_reducible assumption
    | with_reducible exact Within.refl _ _
    | with_reducible apply Touches.next
    | with_reducible apply Touches.ite
    | with_reducible apply Touches.onElement
    | with_reducible apply runStage_within (subIn (by decide) m_)
    | with_reducible intro _
    | with_reducible apply Within.ite
    | with_reducible apply copyBody_within (subIn (by decide) m_)
    | split
    | dsimp only

theorem execScan_within {w_ : Nat} (m_ : 844672495 ||| w_ = w_) (m : Nat) (env : OpEnv) (s : State) : Touches w_ s (execScan m env s) := by
  unfold execScan
  repeat' first
    | with_reducible assumption
    | with_reducible exact Within.refl _ _
    | with_reducible apply Touches.next
    | with_reducible apply Touches.ite
    | with_reducible apply Touches.onElement
    | with_reducible apply runStage_within (subIn (by decide) m_)
    | with_reducible intro _
    | with_reducible apply Within.ite
    | with_reducible apply scanBody_within (subIn (by decide) m_)
    | split
    | dsimp only

theorem execCompact_within {w_ : Nat} (m_ : 844672495 ||| w_ = w_) (m : Nat) (env : OpEnv) (s : State) : Touches w_ s (execCompact m env s) := by
  unfold execCompact
  repeat' first
    | with_reducible assumption
    | with_reducible exact Within.refl _ _
    | with_reducible apply Touches.next
    | with_reducible apply Touches.ite
    | with_reducible apply Touches.onElement
    | with_reducible apply runStage_within (subIn (by decide) m_)
    | with_reducible intro _
    | with_reducible apply Within.ite
    | with_reducible apply compactBody_within (subIn (by decide) m_)
    | split
    | dsimp only

theorem execGather_within {w_ : Nat} (m_ : 844672495 ||| w_ = w_) (m : Nat) (env : OpEnv) (s : State) : Touches w_ s (execGather m env s) := by
  unfold execGather
  repeat' first
    | with_reducible assumption
    | with_reducible exact Within.refl _ _
    | with_reducible apply Touches.next
    | with_reducible apply Touches.ite
    | with_reducible apply Touches.onElement
    | with_reducible apply runStage_within (subIn (by decide) m_)
    | with_reducible intro _
    | with_reducible apply Within.ite
    | with_reducible apply gatherBody_within (subIn (by decide) m_)
    | split
    | dsimp only

theorem execHashBuild_within {w_ : Nat} (m_ : 844672495 ||| w_ = w_) (m : Nat) (env : OpEnv) (s : State) : Touches w_ s (execHashBuild m env s) := by
  unfold execHashBuild
  repeat' first
    | with_reducible assumption
    | with_reducible exact Within.refl _ _
    | with_reducible apply Touches.next
    | with_reducible apply Touches.ite
    | with_reducible apply Touches.onElement
    | with_reducible apply runStage_within (subIn (by decide) m_)
    | with_reducible intro _
    | with_reducible apply Within.ite
    | with_reducible apply buildBody_within (subIn (by decide) m_)
    | split
    | dsimp only

theorem execHashProbe_within {w_ : Nat} (m_ : 844672495 ||| w_ = w_) (m : Nat) (env : OpEnv) (s : State) : Touches w_ s (execHashProbe m env s) := by
  unfold execHashProbe
  repeat' first
    | with_reducible assumption
    | with_reducible exact Within.refl _ _
    | with_reducible apply Touches.next
    | with_reducible apply Touches.ite
    | with_reducible apply Touches.onElement
    | with_reducible apply runStage_within (subIn (by decide) m_)
    | with_reducible intro _
    | with_reducible apply Within.ite
    | with_reducible apply probeBody_within (subIn (by decide) m_)
    | split
    | dsimp only

theorem execAggregate_within {w_ : Nat} (m_ : 844672495 ||| w_ = w_) (m : Nat) (env : OpEnv) (s : State) : Touches w_ s (execAggregate m env s) := by
  unfold execAggregate
  repeat' first
    | with_reducible assumption
    | with_reducible exact Within.refl _ _
    | with_reducible apply Touches.next
    | with_reducible apply Touches.ite
    | with_reducible apply Touches.onElement
    | with_reducible apply runStage_within (subIn (by decide) m_)
    | with_reducible intro _
    | with_reducible apply Within.ite
    | with_reducible apply aggBody_within (subIn (by decide) m_)
    | split
    | dsimp only

theorem execBitmap_within {w_ : Nat} (m_ : 844672495 ||| w_ = w_) (m : Nat) (env : OpEnv) (s : State) : Touches w_ s (execBitmap m env s) := by
  unfold execBitmap
  repeat' first
    | with_reducible assumption
    | with_reducible exact Within.refl _ _
    | with_reducible apply Touches.next
    | with_reducible apply Touches.ite
    | with_reducible apply Touches.onElement
    | with_reducible apply runStage_within (subIn (by decide) m_)
    | with_reducible intro _
    | with_reducible apply Within.ite
    | with_reducible apply bitmapBody_within (subIn (by decide) m_)
    | split
    | dsimp only

theorem execChecksum_within {w_ : Nat} (m_ : 844672495 ||| w_ = w_) (m : Nat) (env : OpEnv) (s : State) : Touches w_ s (execChecksum m env s) := by
  unfold execChecksum
  repeat' first
    | with_reducible assumption
    | with_reducible exact Within.refl _ _
    | with_reducible apply Touches.next
    | with_reducible apply Touches.ite
    | with_reducible apply Touches.onElement
    | with_reducible apply runStage_within (subIn (by decide) m_)
    | with_reducible intro _
    | with_reducible apply Within.ite
    | with_reducible apply checksumBody_within (subIn (by decide) m_)
    | split
    | dsimp only

theorem execCompare_within {w_ : Nat} (m_ : 844672495 ||| w_ = w_) (m : Nat) (env : OpEnv) (s : State) : Touches w_ s (execCompare m env s) := by
  unfold execCompare
  repeat' first
    | with_reducible assumption
    | with_reducible exact Within.refl _ _
    | with_reducible apply Touches.next
    | with_reducible apply Touches.ite
    | with_reducible apply Touches.onElement
    | with_reducible apply runStage_within (subIn (by decide) m_)
    | with_reducible intro _
    | with_reducible apply Within.ite
    | with_reducible apply compareBody_within (subIn (by decide) m_)
    | split
    | dsimp only

theorem execMergePart_within {w_ : Nat} (m_ : 844672495 ||| w_ = w_) (did : Nat) (env : OpEnv) (s : State) : Touches w_ s (execMergePart did env s) := by
  unfold execMergePart
  repeat' first
    | with_reducible assumption
    | with_reducible exact Within.refl _ _
    | with_reducible apply Touches.next
    | with_reducible apply Touches.ite
    | with_reducible apply whenOpen_within (subIn (by decide) m_)
    | with_reducible intro _
    | exact Eq.refl _
    | with_reducible apply Within.ite
    | with_reducible apply mergeBody_within (subIn (by decide) m_)
    | with_reducible apply lookups_within (subIn (by decide) m_)
    | split
    | dsimp only

end Sys2Proof.Machine
end

