-- ==== Sys2Proof/Laws/WithinFuse.lean ====
section
/-! SUPPORT. Which parts of the state the operations of Machine/Fuse.lean can change. -/

set_option Elab.async false

namespace Sys2Proof.Machine

theorem regionFaults_within {w_ : Nat} (m_ : 1112550255 ||| w_ = w_) {z0 : State} (s : State) (h_ : Within w_ z0 s) : Within w_ z0 (regionFaults s) := by
  unfold regionFaults
  repeat' first
    | with_reducible assumption
    | with_reducible intro _
    | with_reducible apply Within.ite
    | with_reducible apply raise_within (subIn (by decide) m_)
    | with_reducible apply forAll_within
    | split
    | dsimp only

theorem fuseLoad_within {w_ : Nat} (m_ : 1129327471 ||| w_ = w_) {z0 : State} (s : State) (h_ : Within w_ z0 s) : Within w_ z0 (fuseLoad s) := by
  unfold fuseLoad
  repeat' first
    | with_reducible assumption
    | exact Eq.refl _
    | with_reducible apply regionFaults_within (subIn (by decide) m_)
    | dsimp only
    | with_reducible apply Within.raw
    | exact .inl (bitIn m_ (by decide))
    | exact .inr (Eq.refl _)

theorem fuseStatus_within {w_ : Nat} (m_ : 4 ||| w_ = w_) {z0 : State} (s : State) (ops : Nat) (reason : Nat) (result : Nat) (h_ : Within w_ z0 s) : Within w_ z0 (fuseStatus s ops reason result) := by
  unfold fuseStatus
  repeat' first
    | with_reducible assumption
    | with_reducible apply scEvent_within (subIn (by decide) m_)
    | dsimp only

theorem lifeCycleVerified_within {w_ : Nat} (m_ : 1073741824 ||| w_ = w_) {z0 : State} (s : State) (h_ : Within w_ z0 s) : Within w_ z0 (lifeCycleVerified s) := by
  unfold lifeCycleVerified
  repeat' first
    | with_reducible assumption
    | exact Eq.refl _
    | dsimp only
    | with_reducible apply Within.raw
    | exact .inl (bitIn m_ (by decide))
    | exact .inr (Eq.refl _)

theorem startReread_within {w_ : Nat} (m_ : 16777220 ||| w_ = w_) {z0 : State} (s : State) (h_ : Within w_ z0 s) : Within w_ z0 (startReread s) := by
  unfold startReread
  repeat' first
    | with_reducible assumption
    | exact Eq.refl _
    | with_reducible apply Within.ite
    | with_reducible apply scEvent_within (subIn (by decide) m_)
    | split
    | dsimp only
    | with_reducible apply Within.raw
    | exact .inl (bitIn m_ (by decide))
    | exact .inr (Eq.refl _)

theorem endSession_within {w_ : Nat} (m_ : 1098915844 ||| w_ = w_) {z0 : State} (s : State) (did : Nat) (ops : Nat) (reason : Nat) (spares : Nat) (lifeCycle : Bool) (h_ : Within w_ z0 s) : Within w_ z0 (endSession s did ops reason spares lifeCycle) := by
  unfold endSession
  repeat' first
    | with_reducible assumption
    | exact Eq.refl _
    | with_reducible apply Within.ite
    | with_reducible apply fuseStatus_within (subIn (by decide) m_)
    | with_reducible apply finishDesc_within (subIn (by decide) m_)
    | with_reducible apply lifeCycleVerified_within (subIn (by decide) m_)
    | with_reducible apply startReread_within (subIn (by decide) m_)
    | split
    | dsimp only
    | with_reducible apply Within.raw
    | exact .inl (bitIn m_ (by decide))
    | exact .inr (Eq.refl _)

theorem cutOp_within {w_ : Nat} (m_ : 16777218 ||| w_ = w_) {z0 : State} (s : State) (env : FuseEnv) (ops : List FuseOp) (i : Nat) (h_ : Within w_ z0 s) : Within w_ z0 (cutOp s env ops i) := by
  unfold cutOp
  repeat' first
    | with_reducible assumption
    | exact Eq.refl _
    | split
    | dsimp only
    | with_reducible apply Within.raw
    | exact .inl (bitIn m_ (by decide))
    | exact .inr (Eq.refl _)

theorem runSession_within {w_ : Nat} (m_ : 1098915846 ||| w_ = w_) {z0 : State} (s : State) (did : Nat) (env : FuseEnv) (d : Desc) (l : List Byte) (h_ : Within w_ z0 s) : Within w_ z0 (runSession s did env d l) := by
  unfold runSession
  repeat' first
    | with_reducible assumption
    | exact Eq.refl _
    | with_reducible apply Within.ite
    | with_reducible apply modDesc_within (subIn (by decide) m_)
    | with_reducible apply cutOp_within (subIn (by decide) m_)
    | with_reducible apply endSession_within (subIn (by decide) m_)
    | split
    | dsimp only
    | with_reducible apply Within.raw
    | exact .inl (bitIn m_ (by decide))
    | exact .inr (Eq.refl _)

theorem completeIntent_within {w_ : Nat} (m_ : 1137716079 ||| w_ = w_) {z0 : State} (s : State) (env : FuseEnv) (h_ : Within w_ z0 s) : Within w_ z0 (completeIntent s env) := by
  unfold completeIntent
  repeat' first
    | with_reducible assumption
    | exact Eq.refl _
    | with_reducible apply Within.ite
    | with_reducible apply fuseStatus_within (subIn (by decide) m_)
    | with_reducible apply raise_within (subIn (by decide) m_)
    | split
    | dsimp only
    | with_reducible apply Within.raw
    | exact .inl (bitIn m_ (by decide))
    | exact .inr (Eq.refl _)

theorem takeFusCmd_within {w_ : Nat} (m_ : 16777220 ||| w_ = w_) {z0 : State} (s : State) (v : Nat) (h_ : Within w_ z0 s) : Within w_ z0 (takeFusCmd s v) := by
  unfold takeFusCmd
  repeat' first
    | with_reducible assumption
    | with_reducible apply Within.ite
    | with_reducible apply startReread_within (subIn (by decide) m_)
    | split
    | dsimp only

/-! The meanings: which parts of the state each can change. -/

theorem execFuseSession_within {w_ : Nat} (m_ : 1132472327 ||| w_ = w_) (did : Nat) (env : OpEnv) (fuse : FuseEnv) (s : State) : Touches w_ s (execFuseSession did env fuse s) := by
  unfold execFuseSession
  repeat' first
    | with_reducible assumption
    | with_reducible exact Within.refl _ _
    | with_reducible apply Touches.next
    | with_reducible apply Touches.ite
    | exact Eq.refl _
    | with_reducible apply Within.ite
    | with_reducible apply runSession_within (subIn (by decide) m_)
    | with_reducible apply finishDesc_within (subIn (by decide) m_)
    | with_reducible apply fuseStatus_within (subIn (by decide) m_)
    | with_reducible apply tallyFail_within (subIn (by decide) m_)
    | with_reducible apply modDesc_within (subIn (by decide) m_)
    | split
    | dsimp only
    | with_reducible apply Within.raw
    | exact .inl (bitIn m_ (by decide))
    | exact .inr (Eq.refl _)

theorem execFuseReread_within {w_ : Nat} (m_ : 385878053 ||| w_ = w_) (path : Nat) (s : State) : Touches w_ s (execFuseReread path s) := by
  unfold execFuseReread
  repeat' first
    | with_reducible assumption
    | with_reducible exact Within.refl _ _
    | with_reducible apply Touches.next
    | with_reducible apply Touches.ite
    | with_reducible apply Touches.onElement
    | with_reducible intro _
    | with_reducible apply Within.ite
    | with_reducible apply writeNow_within (subIn (by decide) m_)
    | with_reducible apply takeFusCmd_within (subIn (by decide) m_)
    | split
    | dsimp only

theorem execFuseRereadDone_within {w_ : Nat} (m_ : 1129327471 ||| w_ = w_) (s : State) : Touches w_ s (execFuseRereadDone s) := by
  unfold execFuseRereadDone
  repeat' first
    | with_reducible assumption
    | with_reducible exact Within.refl _ _
    | with_reducible apply Touches.next
    | with_reducible apply Touches.ite
    | with_reducible intro _
    | exact Eq.refl _
    | with_reducible apply Within.ite
    | with_reducible apply scEvent_within (subIn (by decide) m_)
    | with_reducible apply raise_within (subIn (by decide) m_)
    | with_reducible apply Within.foldl
    | with_reducible apply Within.foldl_snd
    | split
    | dsimp only
    | with_reducible apply Within.raw
    | exact .inl (bitIn m_ (by decide))
    | exact .inr (Eq.refl _)

end Sys2Proof.Machine
end

