-- ==== Sys2Proof/Laws/WithinTraining.lean ====
section
/-! SUPPORT. Which parts of the state the operations of Machine/Training.lean can change. -/

set_option Elab.async false

namespace Sys2Proof.Machine

theorem writeCal_within {w_ : Nat} (m_ : 8388608 ||| w_ = w_) {z0 : State} (s : State) (f : Nat) (t : Nat) (scs : List Nat) (h_ : Within w_ z0 s) : Within w_ z0 (writeCal s f t scs) := by
  unfold writeCal
  repeat' first
    | with_reducible assumption
    | with_reducible intro _
    | exact Eq.refl _
    | with_reducible apply Within.foldl
    | with_reducible apply Within.foldl_snd2
    | with_reducible apply Within.foldl_snd
    | with_reducible apply Within.foldl_fst
    | dsimp only
    | with_reducible apply Within.raw
    | exact .inl (bitIn m_ (by decide))
    | exact .inr (Eq.refl _)

theorem writeRecords_within {w_ : Nat} (m_ : 41945221 ||| w_ = w_) {z0 : State} (s : State) (f : Nat) (h_ : Within w_ z0 s) : Within w_ z0 (writeRecords s f) := by
  unfold writeRecords
  repeat' first
    | with_reducible assumption
    | with_reducible intro _
    | exact Eq.refl _
    | with_reducible apply Within.ite
    | with_reducible apply writeCal_within (subIn (by decide) m_)
    | with_reducible apply tallyFail_within (subIn (by decide) m_)
    | with_reducible apply modBay_within (subIn (by decide) m_)
    | with_reducible apply forAll_within
    | split
    | dsimp only

theorem trnNotice_within {w_ : Nat} (m_ : 33556481 ||| w_ = w_) {z0 : State} (s : State) (f : Nat) (sc : Nat) (t : Nat) (h_ : Within w_ z0 s) : Within w_ z0 (trnNotice s f sc t) := by
  unfold trnNotice
  repeat' first
    | with_reducible assumption
    | with_reducible apply event_within (subIn (by decide) m_)
    | dsimp only

theorem noteApply_within {w_ : Nat} (m_ : 33556485 ||| w_ = w_) {z0 : State} (s : State) (f : Nat) (sc : Nat) (t : Nat) (kind : Nat) (r : Option (Nat × Nat)) (h_ : Within w_ z0 s) : Within w_ z0 (noteApply s f sc t kind r) := by
  unfold noteApply
  repeat' first
    | with_reducible assumption
    | exact Eq.refl _
    | with_reducible apply scEvent_within (subIn (by decide) m_)
    | with_reducible apply trnNotice_within (subIn (by decide) m_)
    | split
    | dsimp only

theorem noteEscalated_within {w_ : Nat} (m_ : 4 ||| w_ = w_) {z0 : State} (s : State) (f : Nat) (h_ : Within w_ z0 s) : Within w_ z0 (noteEscalated s f) := by
  unfold noteEscalated
  repeat' first
    | with_reducible assumption
    | with_reducible apply scEvent_within (subIn (by decide) m_)
    | dsimp only

theorem fillBuffer_within {w_ : Nat} (m_ : 130 ||| w_ = w_) {z0 : State} (s : State) (f : Nat) (sc : Nat) (t : Nat) (h_ : Within w_ z0 s) : Within w_ z0 (fillBuffer s f sc t) := by
  unfold fillBuffer
  repeat' first
    | with_reducible assumption
    | with_reducible intro _
    | exact Eq.refl _
    | with_reducible apply bumpFree_within (subIn (by decide) m_)
    | with_reducible apply modBay_within (subIn (by decide) m_)
    | with_reducible apply Within.foldl
    | with_reducible apply Within.foldl_snd2
    | with_reducible apply Within.foldl_snd
    | with_reducible apply Within.foldl_fst
    | dsimp only

theorem passAtOnce_within {w_ : Nat} (m_ : 32 ||| w_ = w_) {z0 : State} (s : State) (f : Nat) (sc : Nat) (t : Nat) (kind : Nat) (tuned : Bool) (h_ : Within w_ z0 s) : Within w_ z0 (passAtOnce s f sc t kind tuned) := by
  unfold passAtOnce
  repeat' first
    | with_reducible assumption
    | exact Eq.refl _
    | with_reducible apply modFlume_within (subIn (by decide) m_)
    | dsimp only

theorem passOver_within {w_ : Nat} (m_ : 32 ||| w_ = w_) {z0 : State} (s : State) (f : Nat) (sc : Nat) (t : Nat) (h_ : Within w_ z0 s) : Within w_ z0 (passOver s f sc t) := by
  unfold passOver
  repeat' first
    | with_reducible assumption
    | exact Eq.refl _
    | with_reducible apply modFlume_within (subIn (by decide) m_)
    | dsimp only

theorem commitPass_within {w_ : Nat} (m_ : 192 ||| w_ = w_) {z0 : State} (s : State) (f : Nat) (sc : Nat) (t : Nat) (kind : Nat) (tuned : Bool) (minEye : Nat) (tallyOk : Bool) (h_ : Within w_ z0 s) : Within w_ z0 (commitPass s f sc t kind tuned minEye tallyOk) := by
  unfold commitPass
  repeat' first
    | with_reducible assumption
    | exact Eq.refl _
    | with_reducible apply Within.ite
    | with_reducible apply modBay_within (subIn (by decide) m_)
    | with_reducible apply modSub_within (subIn (by decide) m_)
    | split
    | dsimp only

theorem passRefused_within {w_ : Nat} (m_ : 570427877 ||| w_ = w_) {z0 : State} (s : State) (f : Nat) (sc : Nat) (t : Nat) (kind : Nat) (tuned : Bool) (live : Bool) (h_ : Within w_ z0 s) : Within w_ z0 (passRefused s f sc t kind tuned live) := by
  unfold passRefused
  repeat' first
    | with_reducible assumption
    | exact Eq.refl _
    | with_reducible apply Within.ite
    | with_reducible apply passOver_within (subIn (by decide) m_)
    | with_reducible apply modBay_within (subIn (by decide) m_)
    | with_reducible apply passAtOnce_within (subIn (by decide) m_)
    | with_reducible apply trnNotice_within (subIn (by decide) m_)
    | with_reducible apply noteEscalated_within (subIn (by decide) m_)
    | with_reducible apply redirectBay_within (subIn (by decide) m_)
    | split
    | dsimp only

theorem clockLoss_within {w_ : Nat} (m_ : 33556545 ||| w_ = w_) {z0 : State} (s : State) (f : Nat) (sc : Nat) (res : PassRes) (h_ : Within w_ z0 s) : Within w_ z0 (clockLoss s f sc res) := by
  unfold clockLoss
  repeat' first
    | with_reducible assumption
    | with_reducible apply Within.ite
    | with_reducible apply loseCopy_within (subIn (by decide) m_)
    | split
    | dsimp only

theorem endPass_within {w_ : Nat} (m_ : 570427879 ||| w_ = w_) {z0 : State} (s : State) (f : Nat) (sc : Nat) (t : Nat) (kind : Nat) (tuned : Bool) (live : Bool) (res : PassRes) (h_ : Within w_ z0 s) : Within w_ z0 (endPass s f sc t kind tuned live res) := by
  unfold endPass
  repeat' first
    | with_reducible assumption
    | exact Eq.refl _
    | with_reducible apply Within.ite
    | with_reducible apply fillBuffer_within (subIn (by decide) m_)
    | with_reducible apply clockLoss_within (subIn (by decide) m_)
    | with_reducible apply modBay_within (subIn (by decide) m_)
    | with_reducible apply trnNotice_within (subIn (by decide) m_)
    | with_reducible apply passOver_within (subIn (by decide) m_)
    | with_reducible apply commitPass_within (subIn (by decide) m_)
    | with_reducible apply noteApply_within (subIn (by decide) m_)
    | with_reducible apply passRefused_within (subIn (by decide) m_)
    | split
    | dsimp only

theorem unstop_within {w_ : Nat} (m_ : 320 ||| w_ = w_) {z0 : State} (s : State) (f : Nat) (sc : Nat) (h_ : Within w_ z0 s) : Within w_ z0 (unstop s f sc) := by
  unfold unstop
  repeat' first
    | with_reducible assumption
    | with_reducible apply Within.ite
    | with_reducible apply resume_within (subIn (by decide) m_)
    | split
    | dsimp only

theorem duePass_within {w_ : Nat} (m_ : 32 ||| w_ = w_) {z0 : State} (s : State) (f : Nat) (sc : Nat) (t : Nat) (kind : Nat) (tuned : Bool) (h_ : Within w_ z0 s) : Within w_ z0 (duePass s f sc t kind tuned) := by
  unfold duePass
  repeat' first
    | with_reducible assumption
    | with_reducible apply startPass_within (subIn (by decide) m_)
    | with_reducible apply queuePasses_within (subIn (by decide) m_)
    | dsimp only

theorem retuneBay_within {w_ : Nat} (m_ : 32 ||| w_ = w_) {z0 : State} (s : State) (f : Nat) (sc : Nat) (t : Nat) (h_ : Within w_ z0 s) : Within w_ z0 (retuneBay s f sc t) := by
  unfold retuneBay
  repeat' first
    | with_reducible assumption
    | with_reducible apply Within.ite
    | with_reducible apply duePass_within (subIn (by decide) m_)
    | split
    | dsimp only

theorem driftRetune_within {w_ : Nat} (m_ : 32 ||| w_ = w_) {z0 : State} (s : State) (f : Nat) (sc : Nat) (t : Nat) (h_ : Within w_ z0 s) : Within w_ z0 (driftRetune s f sc t) := by
  unfold driftRetune
  repeat' first
    | with_reducible assumption
    | with_reducible apply Within.ite
    | with_reducible apply duePass_within (subIn (by decide) m_)
    | split
    | dsimp only

theorem commandPasses_within {w_ : Nat} (m_ : 32 ||| w_ = w_) {z0 : State} (s : State) (f : Nat) (sc : Nat) (kind : Nat) (tuned : Bool) (tiers : List Nat) (h_ : Within w_ z0 s) : Within w_ z0 (commandPasses s f sc kind tuned tiers) := by
  unfold commandPasses
  repeat' first
    | with_reducible assumption
    | exact Eq.refl _
    | with_reducible apply queuePasses_within (subIn (by decide) m_)
    | with_reducible apply startPass_within (subIn (by decide) m_)
    | with_reducible apply modFlume_within (subIn (by decide) m_)
    | dsimp only

theorem trainFlume_within {w_ : Nat} (m_ : 32 ||| w_ = w_) {z0 : State} (s : State) (f : Nat) (tuned : Bool) (h_ : Within w_ z0 s) : Within w_ z0 (trainFlume s f tuned) := by
  unfold trainFlume
  repeat' first
    | with_reducible assumption
    | with_reducible intro _
    | exact Eq.refl _
    | with_reducible apply modFlume_within (subIn (by decide) m_)
    | with_reducible apply commandPasses_within (subIn (by decide) m_)
    | with_reducible apply forAll_within
    | dsimp only

theorem takeTrnCtl_within {w_ : Nat} (m_ : 100665381 ||| w_ = w_) {z0 : State} (s : State) (path : Nat) (f : Nat) (v : Nat) (h_ : Within w_ z0 s) : Within w_ z0 (takeTrnCtl s path f v) := by
  unfold takeTrnCtl
  repeat' first
    | with_reducible assumption
    | with_reducible apply Within.ite
    | with_reducible apply regSet_within (subIn (by decide) m_)
    | with_reducible apply trainFlume_within (subIn (by decide) m_)
    | with_reducible apply regPut_within (subIn (by decide) m_)
    | with_reducible apply accessFault_within (subIn (by decide) m_)
    | split
    | dsimp only

theorem fullBay_within {w_ : Nat} (m_ : 32 ||| w_ = w_) {z0 : State} (s : State) (f : Nat) (sc : Nat) (t : Nat) (h_ : Within w_ z0 s) : Within w_ z0 (fullBay s f sc t) := by
  unfold fullBay
  repeat' first
    | with_reducible assumption
    | with_reducible apply Within.ite
    | with_reducible apply commandPasses_within (subIn (by decide) m_)
    | split
    | dsimp only

theorem fullSub_within {w_ : Nat} (m_ : 32 ||| w_ = w_) {z0 : State} (s : State) (f : Nat) (sc : Nat) (h_ : Within w_ z0 s) : Within w_ z0 (fullSub s f sc) := by
  unfold fullSub
  repeat' first
    | with_reducible assumption
    | with_reducible apply Within.ite
    | with_reducible apply commandPasses_within (subIn (by decide) m_)
    | split
    | dsimp only

theorem retuneCmd_within {w_ : Nat} (m_ : 32 ||| w_ = w_) {z0 : State} (s : State) (f : Nat) (sc : Nat) (t : Nat) (h_ : Within w_ z0 s) : Within w_ z0 (retuneCmd s f sc t) := by
  unfold retuneCmd
  repeat' first
    | with_reducible assumption
    | with_reducible apply Within.ite
    | with_reducible apply commandPasses_within (subIn (by decide) m_)
    | split
    | dsimp only

theorem applyCmd_within {w_ : Nat} (m_ : 33556613 ||| w_ = w_) {z0 : State} (s : State) (f : Nat) (sc : Nat) (t : Nat) (h_ : Within w_ z0 s) : Within w_ z0 (applyCmd s f sc t) := by
  unfold applyCmd
  repeat' first
    | with_reducible assumption
    | exact Eq.refl _
    | with_reducible apply Within.ite
    | with_reducible apply noteApply_within (subIn (by decide) m_)
    | with_reducible apply modBay_within (subIn (by decide) m_)
    | split
    | dsimp only

theorem loopCmd_within {w_ : Nat} (m_ : 570427621 ||| w_ = w_) {z0 : State} (s : State) (f : Nat) (sc : Nat) (loop : LoopRes) (h_ : Within w_ z0 s) : Within w_ z0 (loopCmd s f sc loop) := by
  unfold loopCmd
  repeat' first
    | with_reducible assumption
    | exact Eq.refl _
    | with_reducible apply loopTest_within (subIn (by decide) m_)
    | with_reducible apply scEvent_within (subIn (by decide) m_)
    | split
    | dsimp only

theorem takeTrnCmd_within {w_ : Nat} (m_ : 570427621 ||| w_ = w_) {z0 : State} (s : State) (f : Nat) (v : Nat) (loop : LoopRes) (h_ : Within w_ z0 s) : Within w_ z0 (takeTrnCmd s f v loop) := by
  unfold takeTrnCmd
  repeat' first
    | with_reducible assumption
    | exact Eq.refl _
    | with_reducible apply fullBay_within (subIn (by decide) m_)
    | with_reducible apply fullSub_within (subIn (by decide) m_)
    | with_reducible apply retuneCmd_within (subIn (by decide) m_)
    | with_reducible apply applyCmd_within (subIn (by decide) m_)
    | with_reducible apply loopCmd_within (subIn (by decide) m_)
    | split
    | dsimp only

theorem trnCommand_within {w_ : Nat} (m_ : 905971941 ||| w_ = w_) {z0 : State} (path : Nat) (f : Nat) (v : Nat) (loop : LoopRes) (s : State) (h_ : Within w_ z0 s) : Within w_ z0 (trnCommand path f v loop s) := by
  unfold trnCommand
  repeat' first
    | with_reducible assumption
    | with_reducible intro _
    | with_reducible apply writeNow_within (subIn (by decide) m_)
    | with_reducible apply takeTrnCmd_within (subIn (by decide) m_)
    | dsimp only

theorem rescaleFlume_within {w_ : Nat} (m_ : 160 ||| w_ = w_) {z0 : State} (s : State) (f : Nat) (a : Nat) (b : Nat) (h_ : Within w_ z0 s) : Within w_ z0 (rescaleFlume s f a b) := by
  unfold rescaleFlume
  repeat' first
    | with_reducible assumption
    | with_reducible intro _
    | exact Eq.refl _
    | with_reducible apply modBay_within (subIn (by decide) m_)
    | with_reducible apply queuePasses_within (subIn (by decide) m_)
    | with_reducible apply startPass_within (subIn (by decide) m_)
    | with_reducible apply forAll_within
    | with_reducible apply Within.foldl
    | with_reducible apply Within.foldl_snd2
    | with_reducible apply Within.foldl_snd
    | with_reducible apply Within.foldl_fst
    | dsimp only

/-! The meanings: which parts of the state each can change. -/

theorem execTrainingPassEnd_within {w_ : Nat} (m_ : 578816487 ||| w_ = w_) (f : Nat) (sc : Nat) (res : PassRes) (s : State) : Touches w_ s (execTrainingPassEnd f sc res s) := by
  unfold execTrainingPassEnd
  repeat' first
    | with_reducible assumption
    | with_reducible exact Within.refl _ _
    | with_reducible apply Touches.next
    | with_reducible apply Touches.ite
    | with_reducible apply Touches.onElement
    | exact Eq.refl _
    | with_reducible apply Within.ite
    | with_reducible apply modFlume_within (subIn (by decide) m_)
    | with_reducible apply writeRecords_within (subIn (by decide) m_)
    | with_reducible apply endPass_within (subIn (by decide) m_)
    | with_reducible apply unstop_within (subIn (by decide) m_)
    | with_reducible apply startPass_within (subIn (by decide) m_)
    | split
    | dsimp only

theorem execRetunePeriodExpiry_within {w_ : Nat} (m_ : 32 ||| w_ = w_) (f : Nat) (sc : Nat) (tier : Nat) (s : State) : Touches w_ s (execRetunePeriodExpiry f sc tier s) := by
  unfold execRetunePeriodExpiry
  repeat' first
    | with_reducible assumption
    | with_reducible exact Within.refl _ _
    | with_reducible apply Touches.next
    | with_reducible apply Touches.ite
    | with_reducible apply Touches.onElement
    | with_reducible apply Within.ite
    | with_reducible apply retuneBay_within (subIn (by decide) m_)
    | split
    | dsimp only

theorem execRetuneRetry_within {w_ : Nat} (m_ : 32 ||| w_ = w_) (f : Nat) (sc : Nat) (tier : Nat) (s : State) : Touches w_ s (execRetuneRetry f sc tier s) := by
  unfold execRetuneRetry
  repeat' first
    | with_reducible assumption
    | with_reducible exact Within.refl _ _
    | with_reducible apply Touches.next
    | with_reducible apply Touches.ite
    | with_reducible apply Touches.onElement
    | with_reducible apply Within.ite
    | with_reducible apply duePass_within (subIn (by decide) m_)
    | split
    | dsimp only

theorem execModeChange_within {w_ : Nat} (m_ : 369100837 ||| w_ = w_) (path : Nat) (f : Nat) (v : Word) (s : State) : Touches w_ s (execModeChange path f v s) := by
  unfold execModeChange
  repeat' first
    | with_reducible assumption
    | with_reducible exact Within.refl _ _
    | with_reducible apply Touches.next
    | with_reducible apply Touches.ite
    | with_reducible apply Touches.onElement
    | with_reducible intro _
    | with_reducible apply Within.ite
    | with_reducible apply writeNow_within (subIn (by decide) m_)
    | with_reducible apply takeTrnCtl_within (subIn (by decide) m_)
    | split
    | dsimp only

theorem execFullPassBay_within {w_ : Nat} (m_ : 905971941 ||| w_ = w_) (path : Nat) (f : Nat) (sc : Nat) (tier : Nat) (s : State) : Touches w_ s (execFullPassBay path f sc tier s) := by
  unfold execFullPassBay
  repeat' first
    | with_reducible assumption
    | with_reducible exact Within.refl _ _
    | with_reducible apply Touches.next
    | with_reducible apply Touches.ite
    | with_reducible apply Touches.onElement
    | with_reducible apply Within.ite
    | with_reducible apply trnCommand_within (subIn (by decide) m_)
    | split
    | dsimp only

theorem execFullPassSubchannel_within {w_ : Nat} (m_ : 905971941 ||| w_ = w_) (path : Nat) (f : Nat) (sc : Nat) (s : State) : Touches w_ s (execFullPassSubchannel path f sc s) := by
  unfold execFullPassSubchannel
  repeat' first
    | with_reducible assumption
    | with_reducible exact Within.refl _ _
    | with_reducible apply Touches.next
    | with_reducible apply Touches.ite
    | with_reducible apply Touches.onElement
    | with_reducible apply Within.ite
    | with_reducible apply trnCommand_within (subIn (by decide) m_)
    | split
    | dsimp only

theorem execRetunePassBay_within {w_ : Nat} (m_ : 905971941 ||| w_ = w_) (path : Nat) (f : Nat) (sc : Nat) (tier : Nat) (s : State) : Touches w_ s (execRetunePassBay path f sc tier s) := by
  unfold execRetunePassBay
  repeat' first
    | with_reducible assumption
    | with_reducible exact Within.refl _ _
    | with_reducible apply Touches.next
    | with_reducible apply Touches.ite
    | with_reducible apply Touches.onElement
    | with_reducible apply Within.ite
    | with_reducible apply trnCommand_within (subIn (by decide) m_)
    | split
    | dsimp only

theorem execApplyStaged_within {w_ : Nat} (m_ : 905971941 ||| w_ = w_) (path : Nat) (f : Nat) (sc : Nat) (tier : Nat) (s : State) : Touches w_ s (execApplyStaged path f sc tier s) := by
  unfold execApplyStaged
  repeat' first
    | with_reducible assumption
    | with_reducible exact Within.refl _ _
    | with_reducible apply Touches.next
    | with_reducible apply Touches.ite
    | with_reducible apply Touches.onElement
    | with_reducible apply Within.ite
    | with_reducible apply trnCommand_within (subIn (by decide) m_)
    | split
    | dsimp only

theorem execLoopTest_within {w_ : Nat} (m_ : 905971941 ||| w_ = w_) (path : Nat) (f : Nat) (sc : Nat) (loop : LoopRes) (s : State) : Touches w_ s (execLoopTest path f sc loop s) := by
  unfold execLoopTest
  repeat' first
    | with_reducible assumption
    | with_reducible exact Within.refl _ _
    | with_reducible apply Touches.next
    | with_reducible apply Touches.ite
    | with_reducible apply Touches.onElement
    | with_reducible apply Within.ite
    | with_reducible apply trnCommand_within (subIn (by decide) m_)
    | split
    | dsimp only

end Sys2Proof.Machine
end

