-- ==== Sys2Proof/Laws/WithinMills.lean ====
section
/-! SUPPORT. Which parts of the state the operations of Machine/Mills.lean can change. -/

set_option Elab.async false

namespace Sys2Proof.Machine

theorem takeMilCtl_within {w_ : Nat} (m_ : 1212420 ||| w_ = w_) {z0 : State} (s : State) (m : Nat) (v : Nat) (h_ : Within w_ z0 s) : Within w_ z0 (takeMilCtl s m v) := by
  unfold takeMilCtl
  repeat' first
    | with_reducible assumption
    | with_reducible apply Within.ite
    | with_reducible apply regSet_within (subIn (by decide) m_)
    | with_reducible apply refillMills_within (subIn (by decide) m_)
    | with_reducible apply leaveDispatch_within (subIn (by decide) m_)
    | split
    | dsimp only

theorem failMill_within {w_ : Nat} (m_ : 1212416 ||| w_ = w_) {z0 : State} (s : State) (m : Nat) (h_ : Within w_ z0 s) : Within w_ z0 (failMill s m) := by
  unfold failMill
  repeat' first
    | with_reducible assumption
    | exact Eq.refl _
    | with_reducible apply leaveDispatch_within (subIn (by decide) m_)
    | with_reducible apply modMill_within (subIn (by decide) m_)
    | dsimp only

theorem swapsEnd_within {w_ : Nat} (m_ : 8192 ||| w_ = w_) {z0 : State} (s : State) (did : Nat) (h_ : Within w_ z0 s) : Within w_ z0 (swapsEnd s did) := by
  unfold swapsEnd
  repeat' first
    | with_reducible assumption
    | exact Eq.refl _
    | with_reducible apply Within.ite
    | with_reducible apply finishDesc_within (subIn (by decide) m_)
    | split
    | dsimp only

theorem refuseUcode_within {w_ : Nat} (m_ : 1112550255 ||| w_ = w_) {z0 : State} (s : State) (did : Nat) (mask : Nat) (reason : Nat) (h_ : Within w_ z0 s) : Within w_ z0 (refuseUcode s did mask reason) := by
  unfold refuseUcode
  repeat' first
    | with_reducible assumption
    | with_reducible intro _
    | with_reducible apply finishDesc_within (subIn (by decide) m_)
    | with_reducible apply raise_within (subIn (by decide) m_)
    | with_reducible apply Within.foldl
    | with_reducible apply Within.foldl_snd2
    | with_reducible apply Within.foldl_snd
    | with_reducible apply Within.foldl_fst
    | dsimp only

theorem persistUcode_within {w_ : Nat} (m_ : 41945093 ||| w_ = w_) {z0 : State} (s : State) (l : List Byte) (ok : Bool) (h_ : Within w_ z0 s) : Within w_ z0 (persistUcode s l ok) := by
  unfold persistUcode
  repeat' first
    | with_reducible assumption
    | exact Eq.refl _
    | with_reducible apply Within.ite
    | with_reducible apply tallyFail_within (subIn (by decide) m_)
    | split
    | dsimp only
    | with_reducible apply Within.raw
    | exact .inl (bitIn m_ (by decide))
    | exact .inr (Eq.refl _)

theorem startUcode_within {w_ : Nat} (m_ : 1112550255 ||| w_ = w_) {z0 : State} (s : State) (h_ : Within w_ z0 s) : Within w_ z0 (startUcode s) := by
  unfold startUcode
  repeat' first
    | with_reducible assumption
    | with_reducible intro _
    | exact Eq.refl _
    | with_reducible apply Within.ite
    | with_reducible apply modMill_within (subIn (by decide) m_)
    | with_reducible apply raise_within (subIn (by decide) m_)
    | with_reducible apply forAll_within
    | split
    | dsimp only

theorem endRunning_within {w_ : Nat} (m_ : 1286144 ||| w_ = w_) {z0 : State} (s : State) (m : Nat) (status : Nat) (kind : Nat) (h_ : Within w_ z0 s) : Within w_ z0 (endRunning s m status kind) := by
  unfold endRunning
  repeat' first
    | with_reducible assumption
    | exact Eq.refl _
    | with_reducible apply Within.ite
    | with_reducible apply endPart_within (subIn (by decide) m_)
    | with_reducible apply modPart_within (subIn (by decide) m_)
    | split
    | dsimp only

theorem faultMill_within {w_ : Nat} (m_ : 1112779631 ||| w_ = w_) {z0 : State} (s : State) (m : Nat) (status : Nat) (kind : Nat) (h_ : Within w_ z0 s) : Within w_ z0 (faultMill s m status kind) := by
  unfold faultMill
  repeat' first
    | with_reducible assumption
    | exact Eq.refl _
    | with_reducible apply scEvent_within (subIn (by decide) m_)
    | with_reducible apply modMill_within (subIn (by decide) m_)
    | with_reducible apply leaveDispatch_within (subIn (by decide) m_)
    | with_reducible apply raise_within (subIn (by decide) m_)
    | with_reducible apply endRunning_within (subIn (by decide) m_)
    | dsimp only

theorem setVlogic_within {w_ : Nat} (m_ : 268435456 ||| w_ = w_) {z0 : State} (s : State) (h_ : Within w_ z0 s) : Within w_ z0 (setVlogic s) := by
  unfold setVlogic
  repeat' first
    | with_reducible assumption
    | exact Eq.refl _
    | dsimp only
    | with_reducible apply Within.raw
    | exact .inl (bitIn m_ (by decide))
    | exact .inr (Eq.refl _)

/-! The meanings: which parts of the state each can change. -/

theorem execMilDispatchDisable_within {w_ : Nat} (m_ : 370313253 ||| w_ = w_) (path : Nat) (m : Nat) (v : Word) (s : State) : Touches w_ s (execMilDispatchDisable path m v s) := by
  unfold execMilDispatchDisable
  repeat' first
    | with_reducible assumption
    | with_reducible exact Within.refl _ _
    | with_reducible apply Touches.next
    | with_reducible apply Touches.ite
    | with_reducible apply Touches.onElement
    | with_reducible intro _
    | with_reducible apply Within.ite
    | with_reducible apply writeNow_within (subIn (by decide) m_)
    | with_reducible apply takeMilCtl_within (subIn (by decide) m_)
    | split
    | dsimp only

theorem execMillLogicSliceStart_within {w_ : Nat} (m_ : 1048576 ||| w_ = w_) (m : Nat) (s : State) : Touches w_ s (execMillLogicSliceStart m s) := by
  unfold execMillLogicSliceStart
  repeat' first
    | with_reducible assumption
    | with_reducible exact Within.refl _ _
    | with_reducible apply Touches.next
    | with_reducible apply Touches.ite
    | with_reducible apply Touches.onElement
    | exact Eq.refl _
    | with_reducible apply Within.ite
    | with_reducible apply modMill_within (subIn (by decide) m_)
    | split
    | dsimp only

theorem execMillSliceWaitExpiry_within {w_ : Nat} (m_ : 269647904 ||| w_ = w_) (m : Nat) (s : State) : Touches w_ s (execMillSliceWaitExpiry m s) := by
  unfold execMillSliceWaitExpiry
  repeat' first
    | with_reducible assumption
    | with_reducible exact Within.refl _ _
    | with_reducible apply Touches.next
    | with_reducible apply Touches.ite
    | with_reducible apply Touches.onElement
    | exact Eq.refl _
    | with_reducible apply Within.ite
    | with_reducible apply startNextPart_within (subIn (by decide) m_)
    | with_reducible apply modMill_within (subIn (by decide) m_)
    | split
    | dsimp only

theorem execMillLogicSliceEnd_within {w_ : Nat} (m_ : 571639813 ||| w_ = w_) (m : Nat) (pass : Bool) (s : State) : Touches w_ s (execMillLogicSliceEnd m pass s) := by
  unfold execMillLogicSliceEnd
  repeat' first
    | with_reducible assumption
    | with_reducible exact Within.refl _ _
    | with_reducible apply Touches.next
    | with_reducible apply Touches.ite
    | with_reducible apply Touches.onElement
    | exact Eq.refl _
    | with_reducible apply Within.ite
    | with_reducible apply sliceRan_within (subIn (by decide) m_)
    | with_reducible apply modMill_within (subIn (by decide) m_)
    | with_reducible apply refillMills_within (subIn (by decide) m_)
    | with_reducible apply failMill_within (subIn (by decide) m_)
    | with_reducible apply noteFail_within (subIn (by decide) m_)
    | split
    | dsimp only

theorem execUcodeLoad_within {w_ : Nat} (m_ : 1120938863 ||| w_ = w_) (did : Nat) (env : OpEnv) (tallyOk : Bool) (s : State) : Touches w_ s (execUcodeLoad did env tallyOk s) := by
  unfold execUcodeLoad
  repeat' first
    | with_reducible assumption
    | with_reducible exact Within.refl _ _
    | with_reducible apply Touches.next
    | with_reducible apply Touches.ite
    | with_reducible apply Touches.onElement
    | with_reducible apply ask_within
    | with_reducible intro _
    | exact Eq.refl _
    | with_reducible apply Within.ite
    | with_reducible apply finishDesc_within (subIn (by decide) m_)
    | with_reducible apply refuseUcode_within (subIn (by decide) m_)
    | with_reducible apply persistUcode_within (subIn (by decide) m_)
    | with_reducible apply modMill_within (subIn (by decide) m_)
    | with_reducible apply modDesc_within (subIn (by decide) m_)
    | with_reducible apply swapsEnd_within (subIn (by decide) m_)
    | with_reducible apply Within.foldl
    | with_reducible apply Within.foldl_snd
    | split
    | dsimp only

theorem execMicrocodeSwap_within {w_ : Nat} (m_ : 1212416 ||| w_ = w_) (m : Nat) (s : State) : Touches w_ s (execMicrocodeSwap m s) := by
  unfold execMicrocodeSwap
  repeat' first
    | with_reducible assumption
    | with_reducible exact Within.refl _ _
    | with_reducible apply Touches.next
    | with_reducible apply Touches.ite
    | with_reducible apply Touches.onElement
    | exact Eq.refl _
    | with_reducible apply Within.ite
    | with_reducible apply leaveDispatch_within (subIn (by decide) m_)
    | with_reducible apply modMill_within (subIn (by decide) m_)
    | split
    | dsimp only

theorem execSwapBankExchange_within {w_ : Nat} (m_ : 1220608 ||| w_ = w_) (m : Nat) (s : State) : Touches w_ s (execSwapBankExchange m s) := by
  unfold execSwapBankExchange
  repeat' first
    | with_reducible assumption
    | with_reducible exact Within.refl _ _
    | with_reducible apply Touches.next
    | with_reducible apply Touches.ite
    | with_reducible apply Touches.onElement
    | exact Eq.refl _
    | with_reducible apply Within.ite
    | with_reducible apply modDesc_within (subIn (by decide) m_)
    | with_reducible apply modMill_within (subIn (by decide) m_)
    | with_reducible apply refillMills_within (subIn (by decide) m_)
    | with_reducible apply swapsEnd_within (subIn (by decide) m_)
    | split
    | dsimp only

theorem execMillFault_within {w_ : Nat} (m_ : 1112779631 ||| w_ = w_) (m : Nat) (kind : Nat) (s : State) : Touches w_ s (execMillFault m kind s) := by
  unfold execMillFault
  repeat' first
    | with_reducible assumption
    | with_reducible exact Within.refl _ _
    | with_reducible apply Touches.next
    | with_reducible apply Touches.ite
    | with_reducible apply Touches.onElement
    | with_reducible apply Within.ite
    | with_reducible apply raise_within (subIn (by decide) m_)
    | with_reducible apply scEvent_within (subIn (by decide) m_)
    | with_reducible apply faultMill_within (subIn (by decide) m_)
    | split
    | dsimp only

theorem execMillWatchdog_within {w_ : Nat} (m_ : 1112779631 ||| w_ = w_) (m : Nat) (s : State) : Touches w_ s (execMillWatchdog m s) := by
  unfold execMillWatchdog
  repeat' first
    | with_reducible assumption
    | with_reducible exact Within.refl _ _
    | with_reducible apply Touches.next
    | with_reducible apply Touches.ite
    | with_reducible apply Touches.onElement
    | exact Eq.refl _
    | with_reducible apply Within.ite
    | with_reducible apply faultMill_within (subIn (by decide) m_)
    | split
    | dsimp only

theorem execMillRecoveryDone_within {w_ : Nat} (m_ : 1112714095 ||| w_ = w_) (m : Nat) (s : State) : Touches w_ s (execMillRecoveryDone m s) := by
  unfold execMillRecoveryDone
  repeat' first
    | with_reducible assumption
    | with_reducible exact Within.refl _ _
    | with_reducible apply Touches.next
    | with_reducible apply Touches.ite
    | with_reducible apply Touches.onElement
    | exact Eq.refl _
    | with_reducible apply Within.ite
    | with_reducible apply modMill_within (subIn (by decide) m_)
    | with_reducible apply refillMills_within (subIn (by decide) m_)
    | with_reducible apply raise_within (subIn (by decide) m_)
    | split
    | dsimp only

theorem execMillOppChange_within {w_ : Nat} (m_ : 269484032 ||| w_ = w_) (m : Nat) (s : State) : Touches w_ s (execMillOppChange m s) := by
  unfold execMillOppChange
  repeat' first
    | with_reducible assumption
    | with_reducible exact Within.refl _ _
    | with_reducible apply Touches.next
    | with_reducible apply Touches.ite
    | with_reducible apply Touches.onElement
    | exact Eq.refl _
    | with_reducible apply Within.ite
    | with_reducible apply setVlogic_within (subIn (by decide) m_)
    | with_reducible apply modMill_within (subIn (by decide) m_)
    | split
    | dsimp only

theorem execFlumeOppChange_within {w_ : Nat} (m_ : 268435616 ||| w_ = w_) (f : Nat) (s : State) : Touches w_ s (execFlumeOppChange f s) := by
  unfold execFlumeOppChange
  repeat' first
    | with_reducible assumption
    | with_reducible exact Within.refl _ _
    | with_reducible apply Touches.next
    | with_reducible apply Touches.ite
    | with_reducible apply Touches.onElement
    | exact Eq.refl _
    | with_reducible apply Within.ite
    | with_reducible apply setVlogic_within (subIn (by decide) m_)
    | with_reducible apply rescaleFlume_within (subIn (by decide) m_)
    | with_reducible apply modFlume_within (subIn (by decide) m_)
    | split
    | dsimp only

theorem execMonitorWarning_within {w_ : Nat} (m_ : 1380985711 ||| w_ = w_) (m : Nat) (s : State) : Touches w_ s (execMonitorWarning m s) := by
  unfold execMonitorWarning
  repeat' first
    | with_reducible assumption
    | with_reducible exact Within.refl _ _
    | with_reducible apply Touches.next
    | with_reducible apply Touches.ite
    | with_reducible apply Touches.onElement
    | exact Eq.refl _
    | with_reducible apply Within.ite
    | with_reducible apply modMill_within (subIn (by decide) m_)
    | with_reducible apply setVlogic_within (subIn (by decide) m_)
    | with_reducible apply raise_within (subIn (by decide) m_)
    | split
    | dsimp only

theorem execDroopTrip_within {w_ : Nat} (m_ : 1112550255 ||| w_ = w_) (f : Nat) (ctl : Bool) (s : State) : Touches w_ s (execDroopTrip f ctl s) := by
  unfold execDroopTrip
  repeat' first
    | with_reducible assumption
    | with_reducible exact Within.refl _ _
    | with_reducible apply Touches.next
    | with_reducible apply Touches.ite
    | with_reducible apply Touches.onElement
    | exact Eq.refl _
    | with_reducible apply Within.ite
    | with_reducible apply scEvent_within (subIn (by decide) m_)
    | with_reducible apply raise_within (subIn (by decide) m_)
    | with_reducible apply modFlume_within (subIn (by decide) m_)
    | with_reducible apply modMill_within (subIn (by decide) m_)
    | split
    | dsimp only

theorem execDroopRecover_within {w_ : Nat} (m_ : 1048608 ||| w_ = w_) (f : Nat) (ctl : Bool) (s : State) : Touches w_ s (execDroopRecover f ctl s) := by
  unfold execDroopRecover
  repeat' first
    | with_reducible assumption
    | with_reducible exact Within.refl _ _
    | with_reducible apply Touches.next
    | with_reducible apply Touches.ite
    | with_reducible apply Touches.onElement
    | exact Eq.refl _
    | with_reducible apply Within.ite
    | with_reducible apply modFlume_within (subIn (by decide) m_)
    | with_reducible apply modMill_within (subIn (by decide) m_)
    | split
    | dsimp only

theorem execDroopHoldExpiry_within {w_ : Nat} (m_ : 1048576 ||| w_ = w_) (m : Nat) (s : State) : Touches w_ s (execDroopHoldExpiry m s) := by
  unfold execDroopHoldExpiry
  repeat' first
    | with_reducible assumption
    | with_reducible exact Within.refl _ _
    | with_reducible apply Touches.next
    | with_reducible apply Touches.ite
    | with_reducible apply Touches.onElement
    | exact Eq.refl _
    | with_reducible apply Within.ite
    | with_reducible apply modMill_within (subIn (by decide) m_)
    | split
    | dsimp only

end Sys2Proof.Machine
end

