-- ==== Sys2Proof/Laws/WithinPower.lean ====
section
/-! SUPPORT. Which parts of the state the operations of Machine/Power.lean can change. -/

set_option Elab.async false

namespace Sys2Proof.Machine

theorem noteRefusal_within {w_ : Nat} (m_ : 4 ||| w_ = w_) {z0 : State} (s : State) (st : Nat) (r : Nat × Nat) (h_ : Within w_ z0 s) : Within w_ z0 (noteRefusal s st r) := by
  unfold noteRefusal
  repeat' first
    | with_reducible assumption
    | with_reducible apply scEvent_within (subIn (by decide) m_)
    | dsimp only

theorem brakeSave_within {w_ : Nat} (m_ : 8388608 ||| w_ = w_) {z0 : State} (s : State) (h_ : Within w_ z0 s) : Within w_ z0 (brakeSave s) := by
  unfold brakeSave
  repeat' first
    | with_reducible assumption
    | exact Eq.refl _
    | dsimp only
    | with_reducible apply Within.raw
    | exact .inl (bitIn m_ (by decide))
    | exact .inr (Eq.refl _)

theorem evalFlume_within {w_ : Nat} (m_ : 268435492 ||| w_ = w_) {z0 : State} (s : State) (f : Nat) (h_ : Within w_ z0 s) : Within w_ z0 (evalFlume s f) := by
  unfold evalFlume
  repeat' first
    | with_reducible assumption
    | exact Eq.refl _
    | with_reducible apply Within.ite
    | with_reducible apply wakeFlume_within (subIn (by decide) m_)
    | with_reducible apply noteRefusal_within (subIn (by decide) m_)
    | with_reducible apply modFlume_within (subIn (by decide) m_)
    | split
    | dsimp only

theorem evalDevice_within {w_ : Nat} (m_ : 1389374319 ||| w_ = w_) {z0 : State} (s : State) (tallyOk : Bool) (h_ : Within w_ z0 s) : Within w_ z0 (evalDevice s tallyOk) := by
  unfold evalDevice
  repeat' first
    | with_reducible assumption
    | exact Eq.refl _
    | with_reducible apply Within.ite
    | with_reducible apply wakeDevice_within (subIn (by decide) m_)
    | with_reducible apply noteRefusal_within (subIn (by decide) m_)
    | with_reducible apply raise_within (subIn (by decide) m_)
    | with_reducible apply tallyFail_within (subIn (by decide) m_)
    | with_reducible apply brakeSave_within (subIn (by decide) m_)
    | split
    | refine Within.snd (by assumption) ?_
    | dsimp only
    | with_reducible apply Within.raw
    | exact .inl (bitIn m_ (by decide))
    | exact .inr (Eq.refl _)

theorem loseCodes_within {w_ : Nat} (m_ : 128 ||| w_ = w_) {z0 : State} (s : State) (f : Nat) (h_ : Within w_ z0 s) : Within w_ z0 (loseCodes s f) := by
  unfold loseCodes
  repeat' first
    | with_reducible assumption
    | with_reducible intro _
    | exact Eq.refl _
    | with_reducible apply modBay_within (subIn (by decide) m_)
    | with_reducible apply forAll_within
    | dsimp only

theorem enterFlume_within {w_ : Nat} (m_ : 1048992 ||| w_ = w_) {z0 : State} (s : State) (f : Nat) (st : Nat) (h_ : Within w_ z0 s) : Within w_ z0 (enterFlume s f st) := by
  unfold enterFlume
  repeat' first
    | with_reducible assumption
    | exact Eq.refl _
    | with_reducible apply Within.ite
    | with_reducible apply modFlume_within (subIn (by decide) m_)
    | with_reducible apply payAll_within (subIn (by decide) m_)
    | with_reducible apply loseCodes_within (subIn (by decide) m_)
    | with_reducible apply modMill_within (subIn (by decide) m_)
    | split
    | dsimp only

theorem restartModel_within {w_ : Nat} (m_ : 134217728 ||| w_ = w_) {z0 : State} (s : State) (h_ : Within w_ z0 s) : Within w_ z0 (restartModel s) := by
  unfold restartModel
  repeat' first
    | with_reducible assumption
    | exact Eq.refl _
    | dsimp only
    | with_reducible apply Within.raw
    | exact .inl (bitIn m_ (by decide))
    | exact .inr (Eq.refl _)

theorem enterDevice_within {w_ : Nat} (m_ : 406849024 ||| w_ = w_) {z0 : State} (s : State) (st : Nat) (h_ : Within w_ z0 s) : Within w_ z0 (enterDevice s st) := by
  unfold enterDevice
  repeat' first
    | with_reducible assumption
    | with_reducible intro _
    | exact Eq.refl _
    | with_reducible apply Within.ite
    | with_reducible apply modLeat_within (subIn (by decide) m_)
    | with_reducible apply restartModel_within (subIn (by decide) m_)
    | split
    | dsimp only
    | with_reducible apply Within.raw
    | exact .inl (bitIn m_ (by decide))
    | exact .inr (Eq.refl _)

theorem leaveSelfRefresh_within {w_ : Nat} (m_ : 256 ||| w_ = w_) {z0 : State} (s : State) (f : Nat) (h_ : Within w_ z0 s) : Within w_ z0 (leaveSelfRefresh s f) := by
  unfold leaveSelfRefresh
  repeat' first
    | with_reducible assumption
    | with_reducible intro _
    | exact Eq.refl _
    | with_reducible apply modBank_within (subIn (by decide) m_)
    | with_reducible apply forAll_within
    | dsimp only

theorem failOnWake_within {w_ : Nat} (m_ : 33556741 ||| w_ = w_) {z0 : State} (s : State) (f : Nat) (t : Nat) (k : Nat × Nat) (h_ : Within w_ z0 s) : Within w_ z0 (failOnWake s f t k) := by
  unfold failOnWake
  repeat' first
    | with_reducible assumption
    | exact Eq.refl _
    | with_reducible apply event_within (subIn (by decide) m_)
    | with_reducible apply scEvent_within (subIn (by decide) m_)
    | with_reducible apply modBank_within (subIn (by decide) m_)
    | dsimp only

theorem wakeCheck_within {w_ : Nat} (m_ : 574631407 ||| w_ = w_) {z0 : State} (s : State) (f : Nat) (env : OpEnv) (h_ : Within w_ z0 s) : Within w_ z0 (wakeCheck s f env) := by
  unfold wakeCheck
  repeat' first
    | with_reducible assumption
    | with_reducible intro _
    | with_reducible apply lookups_within (subIn (by decide) m_)
    | with_reducible apply canaryTier_within (subIn (by decide) m_)
    | with_reducible apply failOnWake_within (subIn (by decide) m_)
    | with_reducible apply gradeTier_within (subIn (by decide) m_)
    | with_reducible apply forAll_within
    | with_reducible apply Within.foldl
    | with_reducible apply Within.foldl_snd2
    | with_reducible apply Within.foldl_snd
    | with_reducible apply Within.foldl_fst
    | dsimp only

theorem flumeRuns_within {w_ : Nat} (m_ : 32 ||| w_ = w_) {z0 : State} (s : State) (f : Nat) (h_ : Within w_ z0 s) : Within w_ z0 (flumeRuns s f) := by
  unfold flumeRuns
  repeat' first
    | with_reducible assumption
    | exact Eq.refl _
    | with_reducible apply modFlume_within (subIn (by decide) m_)
    | dsimp only

theorem wakePasses_within {w_ : Nat} (m_ : 578816487 ||| w_ = w_) {z0 : State} (s : State) (f : Nat) (ps : List PassRes) (h_ : Within w_ z0 s) : Within w_ z0 (wakePasses s f ps) := by
  unfold wakePasses
  repeat' first
    | with_reducible assumption
    | with_reducible intro _
    | with_reducible apply Within.ite
    | with_reducible apply writeRecords_within (subIn (by decide) m_)
    | with_reducible apply startPass_within (subIn (by decide) m_)
    | with_reducible apply endPass_within (subIn (by decide) m_)
    | with_reducible apply forAll_within
    | split
    | dsimp only

theorem wakeFlumeNow_within {w_ : Nat} (m_ : 583020015 ||| w_ = w_) {z0 : State} (s : State) (f : Nat) (ps : List PassRes) (env : OpEnv) (h_ : Within w_ z0 s) : Within w_ z0 (wakeFlumeNow s f ps env) := by
  unfold wakeFlumeNow
  repeat' first
    | with_reducible assumption
    | with_reducible apply Within.ite
    | with_reducible apply wakePasses_within (subIn (by decide) m_)
    | with_reducible apply flumeRuns_within (subIn (by decide) m_)
    | with_reducible apply wakeCheck_within (subIn (by decide) m_)
    | with_reducible apply leaveSelfRefresh_within (subIn (by decide) m_)
    | split
    | dsimp only

theorem deviceRuns_within {w_ : Nat} (m_ : 268435456 ||| w_ = w_) {z0 : State} (s : State) (h_ : Within w_ z0 s) : Within w_ z0 (deviceRuns s) := by
  unfold deviceRuns
  repeat' first
    | with_reducible assumption
    | exact Eq.refl _
    | dsimp only
    | with_reducible apply Within.raw
    | exact .inl (bitIn m_ (by decide))
    | exact .inr (Eq.refl _)

theorem brakeRestore_within {w_ : Nat} (m_ : 1112550255 ||| w_ = w_) {z0 : State} (s0 : State) (ok : Bool) (h_ : Within w_ z0 s0) : Within w_ z0 (brakeRestore s0 ok) := by
  unfold brakeRestore
  repeat' first
    | with_reducible assumption
    | with_reducible intro _
    | exact Eq.refl _
    | with_reducible apply Within.ite
    | with_reducible apply checkCopies_within (subIn (by decide) m_)
    | with_reducible apply modLeat_within (subIn (by decide) m_)
    | with_reducible apply raise_within (subIn (by decide) m_)
    | split
    | dsimp only
    | with_reducible apply Within.raw
    | exact .inl (bitIn m_ (by decide))
    | exact .inr (Eq.refl _)

theorem takeRunReq_within {w_ : Nat} (m_ : 268435492 ||| w_ = w_) {z0 : State} (s : State) (v : Nat) (h_ : Within w_ z0 s) : Within w_ z0 (takeRunReq s v) := by
  unfold takeRunReq
  repeat' first
    | with_reducible assumption
    | with_reducible intro _
    | with_reducible apply regSet_within (subIn (by decide) m_)
    | with_reducible apply wakeFlume_within (subIn (by decide) m_)
    | with_reducible apply forAll_within
    | dsimp only

theorem loseArray_within {w_ : Nat} (m_ : 26 ||| w_ = w_) {z0 : State} (s : State) (h_ : Within w_ z0 s) : Within w_ z0 (loseArray s) := by
  unfold loseArray
  repeat' first
    | with_reducible assumption
    | exact Eq.refl _
    | dsimp only
    | with_reducible apply Within.raw
    | exact .inl (bitIn m_ (by decide))
    | exact .inr (Eq.refl _)

theorem railBack_within {w_ : Nat} (m_ : 301989888 ||| w_ = w_) {z0 : State} (s : State) (r : Nat) (h_ : Within w_ z0 s) : Within w_ z0 (railBack s r) := by
  unfold railBack
  repeat' first
    | with_reducible assumption
    | exact Eq.refl _
    | with_reducible apply Within.ite
    | with_reducible apply setLine_within (subIn (by decide) m_)
    | split
    | dsimp only
    | with_reducible apply Within.raw
    | exact .inl (bitIn m_ (by decide))
    | exact .inr (Eq.refl _)

theorem resetKeep_within {w_ : Nat} (m_ : 4286578660 ||| w_ = w_) {z0 : State} (s : State) (h_ : Within w_ z0 s) : Within w_ z0 (resetKeep s) := by
  unfold resetKeep
  repeat' first
    | with_reducible assumption
    | exact Eq.refl _
    | dsimp only
    | with_reducible apply Within.raw
    | exact .inl (bitIn m_ (by decide))
    | exact .inr (Eq.refl _)

theorem haltSequence_within {w_ : Nat} (m_ : 1073741825 ||| w_ = w_) {z0 : State} (s : State) (h_ : Within w_ z0 s) : Within w_ z0 (haltSequence s) := by
  unfold haltSequence
  repeat' first
    | with_reducible assumption
    | exact Eq.refl _
    | with_reducible apply emit_within (subIn (by decide) m_)
    | dsimp only
    | with_reducible apply Within.raw
    | exact .inl (bitIn m_ (by decide))
    | exact .inr (Eq.refl _)

/-! The meanings: which parts of the state each can change. -/

theorem execSequencerEvaluation_within {w_ : Nat} (m_ : 1389374319 ||| w_ = w_) (target : Option Nat) (tallyOk : Bool) (s : State) : Touches w_ s (execSequencerEvaluation target tallyOk s) := by
  unfold execSequencerEvaluation
  repeat' first
    | with_reducible assumption
    | with_reducible exact Within.refl _ _
    | with_reducible apply Touches.next
    | with_reducible apply Touches.ite
    | with_reducible apply Touches.onElement
    | exact Eq.refl _
    | with_reducible apply Within.ite
    | with_reducible apply evalDevice_within (subIn (by decide) m_)
    | with_reducible apply evalFlume_within (subIn (by decide) m_)
    | split
    | dsimp only

theorem execHoldoffExpiry_within {w_ : Nat} (m_ : 268435488 ||| w_ = w_) (target : Option Nat) (s : State) : Touches w_ s (execHoldoffExpiry target s) := by
  unfold execHoldoffExpiry
  repeat' first
    | with_reducible assumption
    | with_reducible exact Within.refl _ _
    | with_reducible apply Touches.next
    | with_reducible apply Touches.ite
    | with_reducible apply Touches.onElement
    | exact Eq.refl _
    | with_reducible apply Within.ite
    | with_reducible apply modFlume_within (subIn (by decide) m_)
    | split
    | refine Within.snd (by assumption) ?_
    | dsimp only
    | with_reducible apply Within.raw
    | exact .inl (bitIn m_ (by decide))
    | exact .inr (Eq.refl _)

theorem execPowerEntryComplete_within {w_ : Nat} (m_ : 407898016 ||| w_ = w_) (target : Option Nat) (s : State) : Touches w_ s (execPowerEntryComplete target s) := by
  unfold execPowerEntryComplete
  repeat' first
    | with_reducible assumption
    | with_reducible exact Within.refl _ _
    | with_reducible apply Touches.next
    | with_reducible apply Touches.ite
    | with_reducible apply Touches.onElement
    | exact Eq.refl _
    | with_reducible apply Within.ite
    | with_reducible apply enterDevice_within (subIn (by decide) m_)
    | with_reducible apply enterFlume_within (subIn (by decide) m_)
    | split
    | dsimp only

theorem execFlumeWake_within {w_ : Nat} (m_ : 583020015 ||| w_ = w_) (f : Nat) (passes : List PassRes) (env : OpEnv) (s : State) : Touches w_ s (execFlumeWake f passes env s) := by
  unfold execFlumeWake
  repeat' first
    | with_reducible assumption
    | with_reducible exact Within.refl _ _
    | with_reducible apply Touches.next
    | with_reducible apply Touches.ite
    | with_reducible apply Touches.onElement
    | with_reducible apply Within.ite
    | with_reducible apply wakeFlumeNow_within (subIn (by decide) m_)
    | split
    | dsimp only

theorem execDeviceWake_within {w_ : Nat} (m_ : 1515203439 ||| w_ = w_) (restoreOk : Bool) (s : State) : Touches w_ s (execDeviceWake restoreOk s) := by
  unfold execDeviceWake
  repeat' first
    | with_reducible assumption
    | with_reducible exact Within.refl _ _
    | with_reducible apply Touches.next
    | with_reducible apply Touches.ite
    | with_reducible apply Within.ite
    | with_reducible apply brakeRestore_within (subIn (by decide) m_)
    | with_reducible apply restartModel_within (subIn (by decide) m_)
    | with_reducible apply deviceRuns_within (subIn (by decide) m_)
    | split
    | dsimp only

theorem execRunReqWrite_within {w_ : Nat} (m_ : 369100837 ||| w_ = w_) (path : Nat) (v : Word) (s : State) : Touches w_ s (execRunReqWrite path v s) := by
  unfold execRunReqWrite
  repeat' first
    | with_reducible assumption
    | with_reducible exact Within.refl _ _
    | with_reducible apply Touches.next
    | with_reducible apply Touches.ite
    | with_reducible apply Touches.onElement
    | with_reducible intro _
    | with_reducible apply Within.ite
    | with_reducible apply writeNow_within (subIn (by decide) m_)
    | with_reducible apply takeRunReq_within (subIn (by decide) m_)
    | split
    | dsimp only

theorem execRailOutOfWindow_within {w_ : Nat} (m_ : 1380985727 ||| w_ = w_) (r : Nat) (s : State) : Touches w_ s (execRailOutOfWindow r s) := by
  unfold execRailOutOfWindow
  repeat' first
    | with_reducible assumption
    | with_reducible exact Within.refl _ _
    | with_reducible apply Touches.next
    | with_reducible apply Touches.ite
    | with_reducible apply Touches.onElement
    | exact Eq.refl _
    | with_reducible apply Within.ite
    | with_reducible apply loseArray_within (subIn (by decide) m_)
    | with_reducible apply scEvent_within (subIn (by decide) m_)
    | with_reducible apply raise_within (subIn (by decide) m_)
    | with_reducible apply setLine_within (subIn (by decide) m_)
    | split
    | dsimp only
    | with_reducible apply Within.raw
    | exact .inl (bitIn m_ (by decide))
    | exact .inr (Eq.refl _)

theorem execAuxBrownout_within {w_ : Nat} (m_ : 1380985711 ||| w_ = w_) (s : State) : Touches w_ s (execAuxBrownout s) := by
  unfold execAuxBrownout
  repeat' first
    | with_reducible assumption
    | with_reducible exact Within.refl _ _
    | with_reducible apply Touches.next
    | with_reducible apply Touches.ite
    | exact Eq.refl _
    | with_reducible apply Within.ite
    | with_reducible apply raise_within (subIn (by decide) m_)
    | with_reducible apply setLine_within (subIn (by decide) m_)
    | with_reducible apply scEvent_within (subIn (by decide) m_)
    | split
    | dsimp only
    | with_reducible apply Within.raw
    | exact .inl (bitIn m_ (by decide))
    | exact .inr (Eq.refl _)

theorem execAuxUndervoltage_within {w_ : Nat} (m_ : 4286578661 ||| w_ = w_) (s : State) : Touches w_ s (execAuxUndervoltage s) := by
  unfold execAuxUndervoltage
  repeat' first
    | with_reducible assumption
    | with_reducible exact Within.refl _ _
    | with_reducible apply Touches.next
    | with_reducible apply Touches.ite
    | exact Eq.refl _
    | with_reducible apply Within.ite
    | with_reducible apply resetKeep_within (subIn (by decide) m_)
    | with_reducible apply emit_within (subIn (by decide) m_)
    | split
    | dsimp only
    | with_reducible apply Within.raw
    | exact .inl (bitIn m_ (by decide))
    | exact .inr (Eq.refl _)

theorem execSequenceError_within {w_ : Nat} (m_ : 1073741825 ||| w_ = w_) (r : Nat) (s : State) : Touches w_ s (execSequenceError r s) := by
  unfold execSequenceError
  repeat' first
    | with_reducible assumption
    | with_reducible exact Within.refl _ _
    | with_reducible apply Touches.next
    | with_reducible apply Touches.ite
    | with_reducible apply Touches.onElement
    | with_reducible apply Within.ite
    | with_reducible apply haltSequence_within (subIn (by decide) m_)
    | split
    | dsimp only

theorem execEarlyReleaseTimeout_within {w_ : Nat} (m_ : 1073741825 ||| w_ = w_) (s : State) : Touches w_ s (execEarlyReleaseTimeout s) := by
  unfold execEarlyReleaseTimeout
  repeat' first
    | with_reducible assumption
    | with_reducible exact Within.refl _ _
    | with_reducible apply Touches.next
    | with_reducible apply Touches.ite
    | exact Eq.refl _
    | with_reducible apply Within.ite
    | with_reducible apply haltSequence_within (subIn (by decide) m_)
    | split
    | dsimp only

end Sys2Proof.Machine
end

