-- ==== Sys2Proof/Laws/WithinAdmin.lean ====
section
/-! SUPPORT. Which parts of the state the operations of Machine/Admin.lean can change. -/

set_option Elab.async false

namespace Sys2Proof.Machine

theorem refuseDesc_within {w_ : Nat} (m_ : 8192 ||| w_ = w_) {z0 : State} (s : State) (did : Nat) (reason : Nat) (h_ : Within w_ z0 s) : Within w_ z0 (refuseDesc s did reason) := by
  unfold refuseDesc
  repeat' first
    | with_reducible assumption
    | with_reducible apply finishDesc_within (subIn (by decide) m_)
    | dsimp only

theorem finishKeep_within {w_ : Nat} (m_ : 8192 ||| w_ = w_) {z0 : State} (s : State) (did : Nat) (r : Result) (work : Nat) (prog : List Nat) (h_ : Within w_ z0 s) : Within w_ z0 (finishKeep s did r work prog) := by
  unfold finishKeep
  repeat' first
    | with_reducible assumption
    | exact Eq.refl _
    | with_reducible apply modDesc_within (subIn (by decide) m_)
    | dsimp only

theorem tellState_within {w_ : Nat} (m_ : 4194305 ||| w_ = w_) {z0 : State} (s : State) (kind : Nat) (line : Nat) (data : List Byte) (reply : PartnerReply) (h_ : Within w_ z0 s) : Within w_ z0 (tellState s kind line data reply) := by
  unfold tellState
  repeat' first
    | with_reducible assumption
    | with_reducible intro _
    | exact Eq.refl _
    | with_reducible apply sendState_within (subIn (by decide) m_)
    | with_reducible apply modLeat_within (subIn (by decide) m_)
    | split
    | dsimp only

theorem setEntry_within {w_ : Nat} (m_ : 4195840 ||| w_ = w_) {z0 : State} (s : State) (i : Nat) (e : Nat) (h_ : Within w_ z0 s) : Within w_ z0 (setEntry s i e) := by
  unfold setEntry
  repeat' first
    | with_reducible assumption
    | with_reducible intro _
    | exact Eq.refl _
    | with_reducible apply modLeat_within (subIn (by decide) m_)
    | split
    | dsimp only
    | with_reducible apply Within.raw
    | exact .inl (bitIn m_ (by decide))
    | exact .inr (Eq.refl _)

theorem regionOutcome_within {w_ : Nat} (m_ : 4194305 ||| w_ = w_) {z0 : State} (s : State) (i : Nat) (e : Nat) (reply : PartnerReply) (h_ : Within w_ z0 s) : Within w_ z0 (regionOutcome s i e reply).2 := by
  unfold regionOutcome
  repeat' first
    | with_reducible assumption
    | with_reducible apply Within.ite
    | with_reducible apply tellState_within (subIn (by decide) m_)
    | split
    | dsimp only

theorem scrubLine_within {w_ : Nat} (m_ : 574630383 ||| w_ = w_) {z0 : State} (env : OpEnv) (a : ScrubSum × State) (dpa : Nat) (h_ : Within w_ z0 a.2) : Within w_ z0 (scrubLine env a dpa).2 := by
  unfold scrubLine
  repeat' first
    | with_reducible assumption
    | exact Eq.refl _
    | with_reducible apply Within.ite
    | with_reducible apply flushLine_within (subIn (by decide) m_)
    | with_reducible apply countRead_within (subIn (by decide) m_)
    | with_reducible apply storeBack_within (subIn (by decide) m_)
    | with_reducible apply refill_within (subIn (by decide) m_)
    | with_reducible apply mirrorNotice_within (subIn (by decide) m_)
    | with_reducible apply bumpTotal_within (subIn (by decide) m_)
    | split
    | refine Within.snd (by assumption) ?_
    | dsimp only

theorem scrubPass_within {w_ : Nat} (m_ : 574631407 ||| w_ = w_) {z0 : State} (s0 : State) (did : Nat) (d : Desc) (m : List Byte) (env : OpEnv) (h_ : Within w_ z0 s0) : Within w_ z0 (scrubPass s0 did d m env) := by
  unfold scrubPass
  repeat' first
    | with_reducible assumption
    | with_reducible intro _
    | exact Eq.refl _
    | with_reducible apply lookups_within (subIn (by decide) m_)
    | with_reducible apply modDesc_within (subIn (by decide) m_)
    | with_reducible apply scrubLine_within (subIn (by decide) m_)
    | with_reducible apply Within.foldl
    | with_reducible apply Within.foldl_snd2
    | with_reducible apply Within.foldl_snd
    | with_reducible apply Within.foldl_fst
    | dsimp only

theorem applyPosted_within {w_ : Nat} (m_ : 4197888 ||| w_ = w_) {z0 : State} (s : State) (d : Desc) (h_ : Within w_ z0 s) : Within w_ z0 (applyPosted s d) := by
  unfold applyPosted
  repeat' first
    | with_reducible assumption
    | exact Eq.refl _
    | with_reducible apply Within.ite
    | with_reducible apply setEntry_within (subIn (by decide) m_)
    | with_reducible apply modHead_within (subIn (by decide) m_)
    | split
    | dsimp only

theorem notePosted_within {w_ : Nat} (m_ : 6145 ||| w_ = w_) {z0 : State} (s : State) (n : Nat) (d : Desc) (r : Result) (h_ : Within w_ z0 s) : Within w_ z0 (notePosted s n d r) := by
  unfold notePosted
  repeat' first
    | with_reducible assumption
    | exact Eq.refl _
    | with_reducible apply Within.ite
    | with_reducible apply signalPair_within (subIn (by decide) m_)
    | with_reducible apply modPair_within (subIn (by decide) m_)
    | split
    | dsimp only

theorem postDesc_within {w_ : Nat} (m_ : 4242945 ||| w_ = w_) {z0 : State} (s : State) (n : Nat) (did : Nat) (d : Desc) (r : Result) (h_ : Within w_ z0 s) : Within w_ z0 (postDesc s n did d r) := by
  unfold postDesc
  repeat' first
    | with_reducible assumption
    | exact Eq.refl _
    | with_reducible apply Within.ite
    | with_reducible apply emit_within (subIn (by decide) m_)
    | with_reducible apply applyPosted_within (subIn (by decide) m_)
    | with_reducible apply modPair_within (subIn (by decide) m_)
    | with_reducible apply dropDesc_within (subIn (by decide) m_)
    | with_reducible apply notePosted_within (subIn (by decide) m_)
    | split
    | dsimp only

theorem discardDesc_within {w_ : Nat} (m_ : 4242944 ||| w_ = w_) {z0 : State} (s : State) (k : Nat) (h_ : Within w_ z0 s) : Within w_ z0 (discardDesc s k) := by
  unfold discardDesc
  repeat' first
    | with_reducible assumption
    | exact Eq.refl _
    | with_reducible apply dropDesc_within (subIn (by decide) m_)
    | with_reducible apply applyPosted_within (subIn (by decide) m_)
    | split
    | dsimp only

theorem returnRings_within {w_ : Nat} (m_ : 67112964 ||| w_ = w_) {z0 : State} (s : State) (h : Nat) (h_ : Within w_ z0 s) : Within w_ z0 (returnRings s h) := by
  unfold returnRings
  repeat' first
    | with_reducible assumption
    | with_reducible intro _
    | exact Eq.refl _
    | with_reducible apply Within.ite
    | with_reducible apply guardAdjust_within (subIn (by decide) m_)
    | with_reducible apply modPair_within (subIn (by decide) m_)
    | with_reducible apply forAll_within
    | split
    | dsimp only
    | with_reducible apply Within.raw
    | exact .inl (bitIn m_ (by decide))
    | exact .inr (Eq.refl _)

/-! The meanings: which parts of the state each can change. -/

theorem execRegionWrite_within {w_ : Nat} (m_ : 4202497 ||| w_ = w_) (did : Nat) (reply : PartnerReply) (s : State) : Touches w_ s (execRegionWrite did reply s) := by
  unfold execRegionWrite
  repeat' first
    | with_reducible assumption
    | with_reducible exact Within.refl _ _
    | with_reducible apply Touches.next
    | with_reducible apply Touches.ite
    | exact Eq.refl _
    | with_reducible apply Within.ite
    | with_reducible apply regionOutcome_within (subIn (by decide) m_)
    | with_reducible apply finishKeep_within (subIn (by decide) m_)
    | with_reducible apply refuseDesc_within (subIn (by decide) m_)
    | split
    | dsimp only

theorem execRegionRead_within {w_ : Nat} (m_ : 33565697 ||| w_ = w_) (did : Nat) (ecc : EccCheck) (s : State) : Touches w_ s (execRegionRead did ecc s) := by
  unfold execRegionRead
  repeat' first
    | with_reducible assumption
    | with_reducible exact Within.refl _ _
    | with_reducible apply Touches.next
    | with_reducible apply Touches.ite
    | exact Eq.refl _
    | with_reducible apply Within.ite
    | with_reducible apply regionCheck_within (subIn (by decide) m_)
    | with_reducible apply finishDesc_within (subIn (by decide) m_)
    | split
    | dsimp only

theorem execPowerHint_within {w_ : Nat} (m_ : 8192 ||| w_ = w_) (did : Nat) (s : State) : Touches w_ s (execPowerHint did s) := by
  unfold execPowerHint
  repeat' first
    | with_reducible assumption
    | with_reducible exact Within.refl _ _
    | with_reducible apply Touches.next
    | with_reducible apply Touches.ite
    | exact Eq.refl _
    | with_reducible apply Within.ite
    | with_reducible apply finishKeep_within (subIn (by decide) m_)
    | split
    | dsimp only

theorem execHintExpiry_within {w_ : Nat} (m_ : 2048 ||| w_ = w_) (h : Nat) (s : State) : Touches w_ s (execHintExpiry h s) := by
  unfold execHintExpiry
  repeat' first
    | with_reducible assumption
    | with_reducible exact Within.refl _ _
    | with_reducible apply Touches.next
    | with_reducible apply Touches.ite
    | with_reducible apply Touches.onElement
    | exact Eq.refl _
    | with_reducible apply Within.ite
    | with_reducible apply lapseHint_within (subIn (by decide) m_)
    | split
    | dsimp only

theorem execScrub_within {w_ : Nat} (m_ : 843066863 ||| w_ = w_) (did : Nat) (env : OpEnv) (s : State) : Touches w_ s (execScrub did env s) := by
  unfold execScrub
  repeat' first
    | with_reducible assumption
    | with_reducible exact Within.refl _ _
    | with_reducible apply Touches.next
    | with_reducible apply Touches.ite
    | with_reducible apply whenOpen_within (subIn (by decide) m_)
    | with_reducible intro _
    | exact Eq.refl _
    | with_reducible apply Within.ite
    | with_reducible apply finishDesc_within (subIn (by decide) m_)
    | with_reducible apply scrubPass_within (subIn (by decide) m_)
    | split
    | dsimp only

theorem execScrubComplete_within {w_ : Nat} (m_ : 8193 ||| w_ = w_) (did : Nat) (s : State) : Touches w_ s (execScrubComplete did s) := by
  unfold execScrubComplete
  repeat' first
    | with_reducible assumption
    | with_reducible exact Within.refl _ _
    | with_reducible apply Touches.next
    | with_reducible apply Touches.ite
    | exact Eq.refl _
    | with_reducible apply Within.ite
    | with_reducible apply emit_within (subIn (by decide) m_)
    | with_reducible apply finishDesc_within (subIn (by decide) m_)
    | split
    | dsimp only

theorem execMirrorPromote_within {w_ : Nat} (m_ : 4203009 ||| w_ = w_) (did : Nat) (s : State) : Touches w_ s (execMirrorPromote did s) := by
  unfold execMirrorPromote
  repeat' first
    | with_reducible assumption
    | with_reducible exact Within.refl _ _
    | with_reducible apply Touches.next
    | with_reducible apply Touches.ite
    | with_reducible apply Touches.onElement
    | with_reducible apply ask_within
    | with_reducible intro _
    | exact Eq.refl _
    | with_reducible apply Within.ite
    | with_reducible apply refuseDesc_within (subIn (by decide) m_)
    | with_reducible apply modDesc_within (subIn (by decide) m_)
    | with_reducible apply sendState_within (subIn (by decide) m_)
    | with_reducible apply finishDesc_within (subIn (by decide) m_)
    | with_reducible apply setRole_within (subIn (by decide) m_)
    | split
    | dsimp only

theorem execResilver_within {w_ : Nat} (m_ : 4202496 ||| w_ = w_) (did : Nat) (s : State) : Touches w_ s (execResilver did s) := by
  unfold execResilver
  repeat' first
    | with_reducible assumption
    | with_reducible exact Within.refl _ _
    | with_reducible apply Touches.next
    | with_reducible apply Touches.ite
    | with_reducible apply Touches.onElement
    | with_reducible apply ask_within
    | with_reducible intro _
    | exact Eq.refl _
    | with_reducible apply Within.ite
    | with_reducible apply refuseDesc_within (subIn (by decide) m_)
    | with_reducible apply setWhole_within (subIn (by decide) m_)
    | with_reducible apply modDesc_within (subIn (by decide) m_)
    | with_reducible apply forAll_within
    | split
    | dsimp only

theorem execResilverComplete_within {w_ : Nat} (m_ : 8192 ||| w_ = w_) (did : Nat) (s : State) : Touches w_ s (execResilverComplete did s) := by
  unfold execResilverComplete
  repeat' first
    | with_reducible assumption
    | with_reducible exact Within.refl _ _
    | with_reducible apply Touches.next
    | with_reducible apply Touches.ite
    | exact Eq.refl _
    | with_reducible apply Within.ite
    | with_reducible apply finishDesc_within (subIn (by decide) m_)
    | split
    | dsimp only

theorem execCompletionPost_within {w_ : Nat} (m_ : 4242945 ||| w_ = w_) (n : Nat) (s : State) : Touches w_ s (execCompletionPost n s) := by
  unfold execCompletionPost
  repeat' first
    | with_reducible assumption
    | with_reducible exact Within.refl _ _
    | with_reducible apply Touches.next
    | with_reducible apply Touches.ite
    | with_reducible apply Touches.onElement
    | exact Eq.refl _
    | with_reducible apply Within.ite
    | with_reducible apply postDesc_within (subIn (by decide) m_)
    | split
    | dsimp only

theorem execRingResetDone_within {w_ : Nat} (m_ : 71351812 ||| w_ = w_) (n : Nat) (s : State) : Touches w_ s (execRingResetDone n s) := by
  unfold execRingResetDone
  repeat' first
    | with_reducible assumption
    | with_reducible exact Within.refl _ _
    | with_reducible apply Touches.next
    | with_reducible apply Touches.ite
    | with_reducible apply Touches.onElement
    | with_reducible intro _
    | with_reducible apply Within.ite
    | with_reducible apply returnRings_within (subIn (by decide) m_)
    | with_reducible apply zeroPair_within (subIn (by decide) m_)
    | with_reducible apply discardDesc_within (subIn (by decide) m_)
    | with_reducible apply forAll_within
    | split
    | dsimp only

end Sys2Proof.Machine
end

