-- ==== Sys2Proof/Laws/WithinBist.lean ====
section
/-! SUPPORT. Which parts of the state the operations of Machine/Bist.lean can change. -/

set_option Elab.async false

namespace Sys2Proof.Machine

theorem bistEnd_within {w_ : Nat} (m_ : 8193 ||| w_ = w_) {z0 : State} (s : State) (did : Nat) (d : Desc) (m : List Byte) (rs : List TestRec) (full : Bool) (duration : Nat) (h_ : Within w_ z0 s) : Within w_ z0 (bistEnd s did d m rs full duration) := by
  unfold bistEnd
  repeat' first
    | with_reducible assumption
    | with_reducible apply dmaOut_within (subIn (by decide) m_)
    | with_reducible apply finishDesc_within (subIn (by decide) m_)
    | dsimp only

theorem bistRun_within {w_ : Nat} (m_ : 8192 ||| w_ = w_) {z0 : State} (s : State) (did : Nat) (ok : Nat → Bool) (n : Nat) (run : Desc → List Byte → Nat → State) (h_ : Within w_ z0 s) (hf_ : ∀ a0 a1 a2, Within w_ z0 (run a0 a1 a2)) : Within w_ z0 (bistRun s did ok n run) := by
  unfold bistRun
  repeat' first
    | with_reducible assumption
    | with_reducible intro _
    | exact Eq.refl _
    | with_reducible apply hf_
    | with_reducible apply Within.ite
    | with_reducible apply finishDesc_within (subIn (by decide) m_)
    | split
    | dsimp only

theorem oneRecord_within {w_ : Nat} (m_ : 33564677 ||| w_ = w_) {z0 : State} (s : State) (did : Nat) (d : Desc) (m : List Byte) (r : TestRec) (h_ : Within w_ z0 s) : Within w_ z0 (oneRecord s did d m r) := by
  unfold oneRecord
  repeat' first
    | with_reducible assumption
    | with_reducible apply Within.ite
    | with_reducible apply bistEnd_within (subIn (by decide) m_)
    | with_reducible apply noteFail_within (subIn (by decide) m_)
    | split
    | dsimp only

theorem dropPasses_within {w_ : Nat} (m_ : 32 ||| w_ = w_) {z0 : State} (s : State) (f : Nat) (sc : Nat) (t : Nat) (h_ : Within w_ z0 s) : Within w_ z0 (dropPasses s f sc t) := by
  unfold dropPasses
  repeat' first
    | with_reducible assumption
    | exact Eq.refl _
    | with_reducible apply modFlume_within (subIn (by decide) m_)
    | dsimp only

theorem restoreTrain_within {w_ : Nat} (m_ : 578816487 ||| w_ = w_) {z0 : State} (s : State) (f : Nat) (sc : Nat) (t : Nat) (res : PassRes) (h_ : Within w_ z0 s) : Within w_ z0 (restoreTrain s f sc t res) := by
  unfold restoreTrain
  repeat' first
    | with_reducible assumption
    | with_reducible apply Within.ite
    | with_reducible apply dropPasses_within (subIn (by decide) m_)
    | with_reducible apply endPass_within (subIn (by decide) m_)
    | with_reducible apply writeRecords_within (subIn (by decide) m_)
    | split
    | dsimp only

theorem poisonBay_within {w_ : Nat} (m_ : 106 ||| w_ = w_) {z0 : State} (s : State) (f : Nat) (sc : Nat) (t : Nat) (h_ : Within w_ z0 s) : Within w_ z0 (poisonBay s f sc t) := by
  unfold poisonBay
  repeat' first
    | with_reducible assumption
    | with_reducible intro _
    | with_reducible apply bumpFree_within (subIn (by decide) m_)
    | with_reducible apply setStored_within (subIn (by decide) m_)
    | with_reducible apply forAll_within
    | dsimp only

theorem sendDirty_within {w_ : Nat} (m_ : 4194305 ||| w_ = w_) {z0 : State} (s : State) (gs : List Nat) (h_ : Within w_ z0 s) : Within w_ z0 (sendDirty s gs) := by
  unfold sendDirty
  repeat' first
    | with_reducible assumption
    | with_reducible intro _
    | with_reducible apply sendState_within (subIn (by decide) m_)
    | with_reducible apply forAll_within
    | with_reducible apply Within.foldl
    | with_reducible apply Within.foldl_snd2
    | with_reducible apply Within.foldl_snd
    | with_reducible apply Within.foldl_fst
    | dsimp only

theorem restartRefresh_within {w_ : Nat} (m_ : 256 ||| w_ = w_) {z0 : State} (s : State) (f : Nat) (sc : Nat) (t : Nat) (h_ : Within w_ z0 s) : Within w_ z0 (restartRefresh s f sc t) := by
  unfold restartRefresh
  repeat' first
    | with_reducible assumption
    | with_reducible intro _
    | exact Eq.refl _
    | with_reducible apply modBank_within (subIn (by decide) m_)
    | with_reducible apply forAll_within
    | dsimp only

theorem restoreBay_within {w_ : Nat} (m_ : 4202987 ||| w_ = w_) {z0 : State} (s : State) (f : Nat) (sc : Nat) (t : Nat) (h_ : Within w_ z0 s) : Within w_ z0 (restoreBay s f sc t) := by
  unfold restoreBay
  repeat' first
    | with_reducible assumption
    | with_reducible intro _
    | exact Eq.refl _
    | with_reducible apply Within.ite
    | with_reducible apply modBay_within (subIn (by decide) m_)
    | with_reducible apply modSub_within (subIn (by decide) m_)
    | with_reducible apply poisonBay_within (subIn (by decide) m_)
    | with_reducible apply restartRefresh_within (subIn (by decide) m_)
    | with_reducible apply setWhole_within (subIn (by decide) m_)
    | with_reducible apply sendDirty_within (subIn (by decide) m_)
    | with_reducible apply forAll_within
    | split
    | dsimp only

/-! The meanings: which parts of the state each can change. -/

theorem execBistCopyRecords_within {w_ : Nat} (m_ : 8193 ||| w_ = w_) (did : Nat) (s : State) : Touches w_ s (execBistCopyRecords did s) := by
  unfold execBistCopyRecords
  repeat' first
    | with_reducible assumption
    | with_reducible exact Within.refl _ _
    | with_reducible apply Touches.next
    | with_reducible apply Touches.ite
    | with_reducible intro _
    | with_reducible apply Within.ite
    | with_reducible apply bistRun_within (subIn (by decide) m_)
    | with_reducible apply bistEnd_within (subIn (by decide) m_)
    | split
    | dsimp only

theorem execBistDramBay_within {w_ : Nat} (m_ : 838871533 ||| w_ = w_) (did : Nat) (fails : List CellFail) (short : Option Nat) (s : State) : Touches w_ s (execBistDramBay did fails short s) := by
  unfold execBistDramBay
  repeat' first
    | with_reducible assumption
    | with_reducible exact Within.refl _ _
    | with_reducible apply Touches.next
    | with_reducible apply Touches.ite
    | with_reducible intro _
    | with_reducible apply Within.ite
    | with_reducible apply bistRun_within (subIn (by decide) m_)
    | with_reducible apply oneRecord_within (subIn (by decide) m_)
    | with_reducible apply repairCells_within (subIn (by decide) m_)
    | with_reducible apply wakeFlume_within (subIn (by decide) m_)
    | split
    | dsimp only

theorem execBistMill_within {w_ : Nat} (m_ : 1220608 ||| w_ = w_) (did : Nat) (s : State) : Touches w_ s (execBistMill did s) := by
  unfold execBistMill
  repeat' first
    | with_reducible assumption
    | with_reducible exact Within.refl _ _
    | with_reducible apply Touches.next
    | with_reducible apply Touches.ite
    | with_reducible intro _
    | exact Eq.refl _
    | with_reducible apply Within.ite
    | with_reducible apply bistRun_within (subIn (by decide) m_)
    | with_reducible apply modDesc_within (subIn (by decide) m_)
    | with_reducible apply leaveDispatch_within (subIn (by decide) m_)
    | with_reducible apply modMill_within (subIn (by decide) m_)
    | split
    | dsimp only

theorem execBistEngine_within {w_ : Nat} (m_ : 302000231 ||| w_ = w_) (did : Nat) (pass : Bool) (short : Option Nat) (s : State) : Touches w_ s (execBistEngine did pass short s) := by
  unfold execBistEngine
  repeat' first
    | with_reducible assumption
    | with_reducible exact Within.refl _ _
    | with_reducible apply Touches.next
    | with_reducible apply Touches.ite
    | with_reducible intro _
    | exact Eq.refl _
    | with_reducible apply Within.ite
    | with_reducible apply bistRun_within (subIn (by decide) m_)
    | with_reducible apply oneRecord_within (subIn (by decide) m_)
    | with_reducible apply withdrawSub_within (subIn (by decide) m_)
    | with_reducible apply bumpFree_within (subIn (by decide) m_)
    | with_reducible apply wakeFlume_within (subIn (by decide) m_)
    | split
    | dsimp only

theorem execBistLoopTest_within {w_ : Nat} (m_ : 570435813 ||| w_ = w_) (did : Nat) (loop : LoopRes) (short : Option Nat) (s : State) : Touches w_ s (execBistLoopTest did loop short s) := by
  unfold execBistLoopTest
  repeat' first
    | with_reducible assumption
    | with_reducible exact Within.refl _ _
    | with_reducible apply Touches.next
    | with_reducible apply Touches.ite
    | with_reducible intro _
    | with_reducible apply Within.ite
    | with_reducible apply bistRun_within (subIn (by decide) m_)
    | with_reducible apply oneRecord_within (subIn (by decide) m_)
    | with_reducible apply loopTest_within (subIn (by decide) m_)
    | split
    | dsimp only

theorem execBistRestore_within {w_ : Nat} (m_ : 578824679 ||| w_ = w_) (did : Nat) (res : PassRes) (s : State) : Touches w_ s (execBistRestore did res s) := by
  unfold execBistRestore
  repeat' first
    | with_reducible assumption
    | with_reducible exact Within.refl _ _
    | with_reducible apply Touches.next
    | with_reducible apply Touches.ite
    | with_reducible intro _
    | exact Eq.refl _
    | with_reducible apply Within.ite
    | with_reducible apply bistRun_within (subIn (by decide) m_)
    | with_reducible apply restoreTrain_within (subIn (by decide) m_)
    | with_reducible apply modDesc_within (subIn (by decide) m_)
    | with_reducible apply oneRecord_within (subIn (by decide) m_)
    | split
    | dsimp only

theorem execAdminBistTestEnd_within {w_ : Nat} (m_ : 38971887 ||| w_ = w_) (did : Nat) (pass : Bool) (fails : List CellFail) (short : Option Nat) (s : State) : Touches w_ s (execAdminBistTestEnd did pass fails short s) := by
  unfold execAdminBistTestEnd
  repeat' first
    | with_reducible assumption
    | with_reducible exact Within.refl _ _
    | with_reducible apply Touches.next
    | with_reducible apply Touches.ite
    | exact Eq.refl _
    | with_reducible apply Within.ite
    | with_reducible apply modMill_within (subIn (by decide) m_)
    | with_reducible apply oneRecord_within (subIn (by decide) m_)
    | with_reducible apply refillMills_within (subIn (by decide) m_)
    | with_reducible apply failMill_within (subIn (by decide) m_)
    | with_reducible apply bumpFree_within (subIn (by decide) m_)
    | with_reducible apply restoreBay_within (subIn (by decide) m_)
    | with_reducible apply bayOffline_within (subIn (by decide) m_)
    | split
    | dsimp only

end Sys2Proof.Machine
end

