-- ==== Sys2Proof/Laws/WithinStart.lean ====
section
/-! SUPPORT. Which parts of the state the operations of Machine/Start.lean can change. -/

set_option Elab.async false

namespace Sys2Proof.Machine

theorem loadCal_within {w_ : Nat} (m_ : 33556485 ||| w_ = w_) {z0 : State} (s : State) (h_ : Within w_ z0 s) : Within w_ z0 (loadCal s) := by
  unfold loadCal
  repeat' first
    | with_reducible assumption
    | with_reducible intro _
    | with_reducible apply Within.ite
    | with_reducible apply checkCopies_within (subIn (by decide) m_)
    | with_reducible apply event_within (subIn (by decide) m_)
    | with_reducible apply forAll_within
    | split
    | dsimp only

theorem loadEntry_within {w_ : Nat} (m_ : 570427877 ||| w_ = w_) {z0 : State} (s : State) (e : Nat) (h_ : Within w_ z0 s) : Within w_ z0 (loadEntry s e) := by
  unfold loadEntry
  repeat' first
    | with_reducible assumption
    | with_reducible intro _
    | exact Eq.refl _
    | with_reducible apply Within.ite
    | with_reducible apply modBank_within (subIn (by decide) m_)
    | with_reducible apply event_within (subIn (by decide) m_)
    | with_reducible apply bayOffline_within (subIn (by decide) m_)
    | with_reducible apply modSub_within (subIn (by decide) m_)
    | with_reducible apply modBay_within (subIn (by decide) m_)
    | with_reducible apply steer_within (subIn (by decide) m_)
    | with_reducible apply Within.foldl
    | with_reducible apply Within.foldl_snd2
    | with_reducible apply Within.foldl_snd
    | with_reducible apply Within.foldl_fst
    | split
    | dsimp only

theorem loadSoft_within {w_ : Nat} (m_ : 578816485 ||| w_ = w_) {z0 : State} (fuse : List Nat) (s : State) (f : Nat) (h_ : Within w_ z0 s) : Within w_ z0 (loadSoft fuse s f) := by
  unfold loadSoft
  repeat' first
    | with_reducible assumption
    | with_reducible intro _
    | exact Eq.refl _
    | with_reducible apply Within.ite
    | with_reducible apply checkCopies_within (subIn (by decide) m_)
    | with_reducible apply loadEntry_within (subIn (by decide) m_)
    | with_reducible apply modSub_within (subIn (by decide) m_)
    | with_reducible apply Within.foldl
    | with_reducible apply Within.foldl_snd2
    | with_reducible apply Within.foldl_snd
    | with_reducible apply Within.foldl_fst
    | split
    | dsimp only
    | with_reducible apply Within.raw
    | exact .inl (bitIn m_ (by decide))
    | exact .inr (Eq.refl _)

theorem loadRemap_within {w_ : Nat} (m_ : 33556517 ||| w_ = w_) {z0 : State} (s : State) (f : Nat) (h_ : Within w_ z0 s) : Within w_ z0 (loadRemap s f) := by
  unfold loadRemap
  repeat' first
    | with_reducible assumption
    | exact Eq.refl _
    | with_reducible apply checkCopies_within (subIn (by decide) m_)
    | with_reducible apply modFlume_within (subIn (by decide) m_)
    | with_reducible apply releaseRemap_within (subIn (by decide) m_)
    | split
    | dsimp only

theorem countStart_within {w : Nat} (m_ : 1086324738 ||| w = w) {u s : State} {v : LifeRec} {c : BitVec 32} {i : Bool}
    (h : Within w u s) : Within w u (bumpFree { putLife s v with
      leat := { s.leat with nonce := c }, boot := { s.boot with identity := i } }) := by
  apply bumpFree_within (subIn (by decide) m_)
  apply Within.raw h <;> first | exact .inr rfl | exact .inl (bitIn m_ (by decide))

theorem tallyLoad_within {w : Nat} (m_ : 1656752615 ||| w = w) {u : State} (s : State) (h : Within w u s) : Within w u (tallyLoad s) := by
  have h1 := checkCopies_within (subIn (by decide) m_) 7 _ s.tally.life
    (checkCopies_within (subIn (by decide) m_) 2 (loadCal s) s.tally.ucode (loadCal_within (subIn (by decide) m_) s h))
  unfold tallyLoad
  generalize checkCopies 7 (checkCopies 2 (loadCal s) s.tally.ucode) s.tally.life = s1 at h1 ⊢
  have h2 := forAll_within (ks := upFrom 0 32) (Within.foldl (fuseEntries s1) h1 fun t x k => loadEntry_within (subIn (by decide) m_) t x k)
    fun t k ht => loadSoft_within (subIn (by decide) m_) (fuseEntries s1) t k ht
  have h3 := forAll_within (ks := upFrom 0 32) h2 fun t k ht => loadRemap_within (subIn (by decide) m_) t k ht
  exact countStart_within (subIn (by decide) m_) h3

theorem canaryLoad_within {w_ : Nat} (m_ : 41945089 ||| w_ = w_) {z0 : State} (s : State) (h_ : Within w_ z0 s) : Within w_ z0 (canaryLoad s) := by
  unfold canaryLoad
  repeat' first
    | with_reducible assumption
    | with_reducible intro _
    | exact Eq.refl _
    | with_reducible apply Within.ite
    | with_reducible apply event_within (subIn (by decide) m_)
    | with_reducible apply forAll_within
    | split
    | dsimp only
    | with_reducible apply Within.raw
    | exact .inl (bitIn m_ (by decide))
    | exact .inr (Eq.refl _)

theorem clockStart_within {w_ : Nat} (m_ : 269484064 ||| w_ = w_) {z0 : State} (s : State) (searches : List (Nat × Nat × Nat)) (h_ : Within w_ z0 s) : Within w_ z0 (clockStart s searches) := by
  unfold clockStart
  repeat' first
    | with_reducible assumption
    | with_reducible intro _
    | exact Eq.refl _
    | with_reducible apply Within.ite
    | with_reducible apply modMill_within (subIn (by decide) m_)
    | with_reducible apply setVlogic_within (subIn (by decide) m_)
    | with_reducible apply modFlume_within (subIn (by decide) m_)
    | with_reducible apply forAll_within
    | with_reducible apply Within.foldl
    | with_reducible apply Within.foldl_snd2
    | with_reducible apply Within.foldl_snd
    | with_reducible apply Within.foldl_fst
    | split
    | dsimp only
    | with_reducible apply Within.raw
    | exact .inl (bitIn m_ (by decide))
    | exact .inr (Eq.refl _)

theorem trainAll_within {w_ : Nat} (m_ : 578816487 ||| w_ = w_) {z0 : State} (s : State) (env : StartEnv) (h_ : Within w_ z0 s) : Within w_ z0 (trainAll s env) := by
  unfold trainAll
  repeat' first
    | with_reducible assumption
    | with_reducible intro _
    | with_reducible apply Within.ite
    | with_reducible apply loopTest_within (subIn (by decide) m_)
    | with_reducible apply endPass_within (subIn (by decide) m_)
    | with_reducible apply writeRecords_within (subIn (by decide) m_)
    | with_reducible apply forAll_within
    | split
    | dsimp only

theorem frontFail_within {w_ : Nat} (m_ : 33556581 ||| w_ = w_) {z0 : State} (s : State) (f : Nat) (h_ : Within w_ z0 s) : Within w_ z0 (frontFail s f) := by
  unfold frontFail
  repeat' first
    | with_reducible assumption
    | with_reducible intro _
    | exact Eq.refl _
    | with_reducible apply Within.ite
    | with_reducible apply noteFail_within (subIn (by decide) m_)
    | with_reducible apply modFlume_within (subIn (by decide) m_)
    | with_reducible apply withdrawSub_within (subIn (by decide) m_)
    | with_reducible apply forAll_within
    | split
    | dsimp only

theorem endMoves_within {w_ : Nat} (m_ : 288 ||| w_ = w_) {z0 : State} (s : State) (h_ : Within w_ z0 s) : Within w_ z0 (endMoves s) := by
  unfold endMoves
  repeat' first
    | with_reducible assumption
    | with_reducible intro _
    | exact Eq.refl _
    | with_reducible apply modFlume_within (subIn (by decide) m_)
    | with_reducible apply releaseRemap_within (subIn (by decide) m_)
    | with_reducible apply modBank_within (subIn (by decide) m_)
    | with_reducible apply forAll_within
    | split
    | dsimp only

theorem bistAll_within {w_ : Nat} (m_ : 1649421295 ||| w_ = w_) {z0 : State} (s : State) (env : StartEnv) (h_ : Within w_ z0 s) : Within w_ z0 (bistAll s env) := by
  unfold bistAll
  repeat' first
    | with_reducible assumption
    | with_reducible intro _
    | exact Eq.refl _
    | with_reducible apply Within.ite
    | with_reducible apply noteFail_within (subIn (by decide) m_)
    | with_reducible apply bumpFree_within (subIn (by decide) m_)
    | with_reducible apply frontFail_within (subIn (by decide) m_)
    | with_reducible apply withdrawSub_within (subIn (by decide) m_)
    | with_reducible apply modMill_within (subIn (by decide) m_)
    | with_reducible apply repairMarch_within (subIn (by decide) m_)
    | with_reducible apply endMoves_within (subIn (by decide) m_)
    | with_reducible apply raise_within (subIn (by decide) m_)
    | with_reducible apply forAll_within
    | split
    | dsimp only
    | with_reducible apply Within.raw
    | exact .inl (bitIn m_ (by decide))
    | exact .inr (Eq.refl _)

theorem setRef_within {w : Nat} (m_ : 67108864 ||| w = w) {u s : State} {r l : Nat} (h : Within w u s) :
    Within w u { s with acc := { s.acc with ref := r, last := l } } := by
  apply Within.raw h <;> first | exact .inr rfl | exact .inl (bitIn m_ (by decide))

theorem wipe_within {w : Nat} (m_ : 24 ||| w = w) {u s : State} (h : Within w u s) :
    Within w u { s with mem := [], lost := 0 } := by
  apply Within.raw h <;> first | exact .inr rfl | exact .inl (bitIn m_ (by decide))

theorem wipeAndLoad_within {w : Nat} (m_ : 1179659135 ||| w = w) {u : State} (s : State) (h : Within w u s) :
    Within w u (wipeAndLoad s) := by
  have h1 := forAll_within (ks := upFrom 0 32) (wipe_within (subIn (by decide) m_) h)
    fun t k ht => leaveSelfRefresh_within (subIn (by decide) m_) t k ht
  unfold wipeAndLoad
  generalize forAll { s with mem := [], lost := 0 } (upFrom 0 32) leaveSelfRefresh = t at h1 ⊢
  exact setRef_within (subIn (by decide) m_) (Within.ite h1 (startUcode_within (subIn (by decide) m_) _ h1))

theorem raiseLinkEn_within {w_ : Nat} (m_ : 1073741825 ||| w_ = w_) {z0 : State} (s : State) (h_ : Within w_ z0 s) : Within w_ z0 (raiseLinkEn s) := by
  unfold raiseLinkEn
  repeat' first
    | with_reducible assumption
    | exact Eq.refl _
    | with_reducible apply emit_within (subIn (by decide) m_)
    | dsimp only
    | with_reducible apply Within.raw
    | exact .inl (bitIn m_ (by decide))
    | exact .inr (Eq.refl _)

theorem startStep_within {w_ : Nat} (m_ : 1073741824 ||| w_ = w_) {z0 : State} (k : Nat) (g : State → State) (s : State) (h_ : Within w_ z0 s) (hf_ : ∀ a0, Within w_ z0 a0 → Within w_ z0 (g a0)) : Within w_ z0 (startStep k g s) := by
  unfold startStep
  repeat' first
    | with_reducible assumption
    | with_reducible intro _
    | exact Eq.refl _
    | with_reducible apply hf_
    | with_reducible apply Within.ite
    | split
    | dsimp only
    | with_reducible apply Within.raw
    | exact .inl (bitIn m_ (by decide))
    | exact .inr (Eq.refl _)

theorem startSteps_within {w_ : Nat} (m_ : 2010131455 ||| w_ = w_) {z0 : State} (s : State) (env : StartEnv) (h_ : Within w_ z0 s) : Within w_ z0 (startSteps s env) := by
  unfold startSteps
  repeat' first
    | with_reducible assumption
    | with_reducible intro _
    | with_reducible apply Within.ite
    | with_reducible apply startStep_within (subIn (by decide) m_)
    | with_reducible apply raise_within (subIn (by decide) m_)
    | with_reducible apply fuseLoad_within (subIn (by decide) m_)
    | with_reducible apply completeIntent_within (subIn (by decide) m_)
    | with_reducible apply canaryLoad_within (subIn (by decide) m_)
    | with_reducible apply tallyLoad_within (subIn (by decide) m_)
    | with_reducible apply clockStart_within (subIn (by decide) m_)
    | with_reducible apply trainAll_within (subIn (by decide) m_)
    | with_reducible apply bistAll_within (subIn (by decide) m_)
    | with_reducible apply wipeAndLoad_within (subIn (by decide) m_)
    | with_reducible apply raiseLinkEn_within (subIn (by decide) m_)
    | split
    | dsimp only

theorem deviceReset_within {w_ : Nat} (m_ : 4294967295 ||| w_ = w_) {z0 : State} (s : State) (cause : Nat) (env : StartEnv) (h_ : Within w_ z0 s) : Within w_ z0 (deviceReset s cause env) := by
  unfold deviceReset
  repeat' first
    | with_reducible assumption
    | with_reducible intro _
    | exact Eq.refl _
    | with_reducible apply Within.ite
    | with_reducible apply resetKeep_within (subIn (by decide) m_)
    | with_reducible apply emit_within (subIn (by decide) m_)
    | with_reducible apply startSteps_within (subIn (by decide) m_)
    | split
    | dsimp only
    | with_reducible apply Within.raw
    | exact .inl (bitIn m_ (by decide))
    | exact .inr (Eq.refl _)

theorem takeReset_within {w_ : Nat} (m_ : 4294967295 ||| w_ = w_) {z0 : State} (s : State) (path : Nat) (v : Nat) (env : StartEnv) (h_ : Within w_ z0 s) : Within w_ z0 (takeReset s path v env) := by
  unfold takeReset
  repeat' first
    | with_reducible assumption
    | with_reducible apply Within.ite
    | with_reducible apply accessFault_within (subIn (by decide) m_)
    | with_reducible apply deviceReset_within (subIn (by decide) m_)
    | split
    | dsimp only

theorem clearSecrets_within {w_ : Nat} (m_ : 1078986336 ||| w_ = w_) {z0 : State} (s : State) (h_ : Within w_ z0 s) : Within w_ z0 (clearSecrets s) := by
  unfold clearSecrets
  repeat' first
    | with_reducible assumption
    | with_reducible intro _
    | exact Eq.refl _
    | with_reducible apply modLeat_within (subIn (by decide) m_)
    | with_reducible apply modMill_within (subIn (by decide) m_)
    | with_reducible apply modSub_within (subIn (by decide) m_)
    | with_reducible apply modFlume_within (subIn (by decide) m_)
    | with_reducible apply forAll_within
    | dsimp only
    | with_reducible apply Within.raw
    | exact .inl (bitIn m_ (by decide))
    | exact .inr (Eq.refl _)

theorem bypassPort_within {w_ : Nat} (m_ : 1 ||| w_ = w_) {z0 : State} (s : State) (h_ : Within w_ z0 s) : Within w_ z0 (bypassPort s) := by
  unfold bypassPort
  repeat' first
    | with_reducible assumption
    | with_reducible apply emit_within (subIn (by decide) m_)
    | dsimp only

/-! The meanings: which parts of the state each can change. -/

theorem execRailWindowReturn_within {w_ : Nat} (m_ : 2010131455 ||| w_ = w_) (r : Nat) (env : StartEnv) (s : State) : Touches w_ s (execRailWindowReturn r env s) := by
  unfold execRailWindowReturn
  repeat' first
    | with_reducible assumption
    | with_reducible exact Within.refl _ _
    | with_reducible apply Touches.next
    | with_reducible apply Touches.ite
    | with_reducible apply Touches.onElement
    | with_reducible intro _
    | exact Eq.refl _
    | with_reducible apply Within.ite
    | with_reducible apply railBack_within (subIn (by decide) m_)
    | with_reducible apply startSteps_within (subIn (by decide) m_)
    | split
    | dsimp only
    | with_reducible apply Within.raw
    | exact .inl (bitIn m_ (by decide))
    | exact .inr (Eq.refl _)

theorem execPowerOnReset_within {w_ : Nat} (m_ : 4294967295 ||| w_ = w_) (env : StartEnv) (s : State) : Touches w_ s (execPowerOnReset env s) := by
  unfold execPowerOnReset
  repeat' first
    | with_reducible assumption
    | with_reducible exact Within.refl _ _
    | with_reducible apply Touches.next
    | with_reducible apply Touches.ite
    | exact Eq.refl _
    | with_reducible apply Within.ite
    | with_reducible apply deviceReset_within (subIn (by decide) m_)
    | split
    | dsimp only
    | with_reducible apply Within.raw
    | exact .inl (bitIn m_ (by decide))
    | exact .inr (Eq.refl _)

theorem execPinReset_within {w_ : Nat} (m_ : 4294967295 ||| w_ = w_) (env : StartEnv) (s : State) : Touches w_ s (execPinReset env s) := by
  unfold execPinReset
  repeat' first
    | with_reducible assumption
    | with_reducible exact Within.refl _ _
    | with_reducible apply Touches.next
    | with_reducible apply Touches.ite
    | with_reducible apply Within.ite
    | with_reducible apply deviceReset_within (subIn (by decide) m_)
    | split
    | dsimp only

theorem execSoftwareReset_within {w_ : Nat} (m_ : 4294967295 ||| w_ = w_) (path : Nat) (v : Word) (env : StartEnv) (s : State) : Touches w_ s (execSoftwareReset path v env s) := by
  unfold execSoftwareReset
  repeat' first
    | with_reducible assumption
    | with_reducible exact Within.refl _ _
    | with_reducible apply Touches.next
    | with_reducible apply Touches.ite
    | with_reducible apply Touches.onElement
    | with_reducible apply Within.ite
    | with_reducible apply takeReset_within (subIn (by decide) m_)
    | split
    | dsimp only

theorem execLifeCycleReset_within {w_ : Nat} (m_ : 4294967295 ||| w_ = w_) (env : StartEnv) (s : State) : Touches w_ s (execLifeCycleReset env s) := by
  unfold execLifeCycleReset
  repeat' first
    | with_reducible assumption
    | with_reducible exact Within.refl _ _
    | with_reducible apply Touches.next
    | with_reducible apply Touches.ite
    | with_reducible apply Within.ite
    | with_reducible apply deviceReset_within (subIn (by decide) m_)
    | split
    | dsimp only

theorem execScanDebugExitReset_within {w_ : Nat} (m_ : 4294967295 ||| w_ = w_) (env : StartEnv) (s : State) : Touches w_ s (execScanDebugExitReset env s) := by
  unfold execScanDebugExitReset
  repeat' first
    | with_reducible assumption
    | with_reducible exact Within.refl _ _
    | with_reducible apply Touches.next
    | with_reducible apply Touches.ite
    | with_reducible apply Within.ite
    | with_reducible apply deviceReset_within (subIn (by decide) m_)
    | split
    | dsimp only

theorem execScanEntry_within {w_ : Nat} (m_ : 1078986337 ||| w_ = w_) (s : State) : Touches w_ s (execScanEntry s) := by
  unfold execScanEntry
  repeat' first
    | with_reducible assumption
    | with_reducible exact Within.refl _ _
    | with_reducible apply Touches.next
    | with_reducible apply Touches.ite
    | exact Eq.refl _
    | with_reducible apply Within.ite
    | with_reducible apply clearSecrets_within (subIn (by decide) m_)
    | with_reducible apply bypassPort_within (subIn (by decide) m_)
    | split
    | dsimp only
    | with_reducible apply Within.raw
    | exact .inl (bitIn m_ (by decide))
    | exact .inr (Eq.refl _)

theorem execDebugEntry_within {w_ : Nat} (m_ : 1078986337 ||| w_ = w_) (s : State) : Touches w_ s (execDebugEntry s) := by
  unfold execDebugEntry
  repeat' first
    | with_reducible assumption
    | with_reducible exact Within.refl _ _
    | with_reducible apply Touches.next
    | with_reducible apply Touches.ite
    | exact Eq.refl _
    | with_reducible apply Within.ite
    | with_reducible apply clearSecrets_within (subIn (by decide) m_)
    | with_reducible apply bypassPort_within (subIn (by decide) m_)
    | split
    | dsimp only
    | with_reducible apply Within.raw
    | exact .inl (bitIn m_ (by decide))
    | exact .inr (Eq.refl _)

theorem execBypass_within {w_ : Nat} (m_ : 1 ||| w_ = w_) (s : State) : Touches w_ s (execBypass s) := by
  unfold execBypass
  repeat' first
    | with_reducible assumption
    | with_reducible exact Within.refl _ _
    | with_reducible apply Touches.next
    | with_reducible apply Touches.ite
    | with_reducible apply Within.ite
    | with_reducible apply bypassPort_within (subIn (by decide) m_)
    | split
    | dsimp only

theorem execIdcode_within {w_ : Nat} (m_ : 1 ||| w_ = w_) (s : State) : Touches w_ s (execIdcode s) := by
  unfold execIdcode
  repeat' first
    | with_reducible assumption
    | with_reducible exact Within.refl _ _
    | with_reducible apply Touches.next
    | with_reducible apply Touches.ite
    | with_reducible apply Within.ite
    | with_reducible apply emit_within (subIn (by decide) m_)
    | split
    | dsimp only

theorem execSamplePreload_within {w_ : Nat} (m_ : 1 ||| w_ = w_) (s : State) : Touches w_ s (execSamplePreload s) := by
  unfold execSamplePreload
  repeat' first
    | with_reducible assumption
    | with_reducible exact Within.refl _ _
    | with_reducible apply Touches.next
    | with_reducible apply Touches.ite
    | with_reducible apply Within.ite
    | with_reducible apply emit_within (subIn (by decide) m_)
    | split
    | dsimp only

theorem execExtest_within {w_ : Nat} (m_ : 1 ||| w_ = w_) (s : State) : Touches w_ s (execExtest s) := by
  unfold execExtest
  repeat' first
    | with_reducible assumption
    | with_reducible exact Within.refl _ _
    | with_reducible apply Touches.next
    | with_reducible apply Touches.ite
    | with_reducible apply Within.ite
    | with_reducible apply bypassPort_within (subIn (by decide) m_)
    | with_reducible apply emit_within (subIn (by decide) m_)
    | split
    | dsimp only

end Sys2Proof.Machine
end

