-- ==== Sys2Proof/Laws/WithinHeads.lean ====
section
/-! SUPPORT. Which parts of the state the operations of Machine/Heads.lean can change. -/

set_option Elab.async false

namespace Sys2Proof.Machine

theorem modLanes_within {w_ : Nat} (m_ : 2097152 ||| w_ = w_) {z0 : State} (s : State) (n : Nat) (g : Nat → Lane → Lane) (h_ : Within w_ z0 s) : Within w_ z0 (modLanes s n g) := by
  unfold modLanes
  repeat' first
    | with_reducible assumption
    | with_reducible intro _
    | with_reducible apply modLane_within (subIn (by decide) m_)
    | with_reducible apply forAll_within
    | dsimp only

theorem abortScan_within {w_ : Nat} (m_ : 2097156 ||| w_ = w_) {z0 : State} (s : State) (l : Nat) (h_ : Within w_ z0 s) : Within w_ z0 (abortScan s l) := by
  unfold abortScan
  repeat' first
    | with_reducible assumption
    | exact Eq.refl _
    | with_reducible apply Within.ite
    | with_reducible apply scEvent_within (subIn (by decide) m_)
    | with_reducible apply modLane_within (subIn (by decide) m_)
    | split
    | dsimp only

theorem abortScans_within {w_ : Nat} (m_ : 2097156 ||| w_ = w_) {z0 : State} (s : State) (n : Nat) (h_ : Within w_ z0 s) : Within w_ z0 (abortScans s n) := by
  unfold abortScans
  repeat' first
    | with_reducible assumption
    | with_reducible intro _
    | with_reducible apply abortScan_within (subIn (by decide) m_)
    | with_reducible apply forAll_within
    | dsimp only

theorem holdTaps_within {w_ : Nat} (m_ : 2097152 ||| w_ = w_) {z0 : State} (s : State) (l : Nat) (h_ : Within w_ z0 s) : Within w_ z0 (holdTaps s l) := by
  unfold holdTaps
  repeat' first
    | with_reducible assumption
    | exact Eq.refl _
    | with_reducible apply Within.ite
    | with_reducible apply modLane_within (subIn (by decide) m_)
    | split
    | dsimp only

theorem resumeLink_within {w_ : Nat} (m_ : 2097152 ||| w_ = w_) {z0 : State} (s : State) (n : Nat) (h_ : Within w_ z0 s) : Within w_ z0 (resumeLink s n) := by
  unfold resumeLink
  repeat' first
    | with_reducible assumption
    | exact Eq.refl _
    | with_reducible apply modLanes_within (subIn (by decide) m_)
    | dsimp only

theorem holdLink_within {w_ : Nat} (m_ : 2097152 ||| w_ = w_) {z0 : State} (s : State) (n : Nat) (h_ : Within w_ z0 s) : Within w_ z0 (holdLink s n) := by
  unfold holdLink
  repeat' first
    | with_reducible assumption
    | with_reducible intro _
    | with_reducible apply holdTaps_within (subIn (by decide) m_)
    | with_reducible apply forAll_within
    | dsimp only

theorem lockPlls_within {w_ : Nat} (m_ : 268435456 ||| w_ = w_) {z0 : State} (s : State) (qs : List Nat) (h_ : Within w_ z0 s) : Within w_ z0 (lockPlls s qs) := by
  unfold lockPlls
  repeat' first
    | with_reducible assumption
    | with_reducible intro _
    | exact Eq.refl _
    | with_reducible apply Within.foldl
    | with_reducible apply Within.foldl_snd2
    | with_reducible apply Within.foldl_snd
    | with_reducible apply Within.foldl_fst
    | dsimp only
    | with_reducible apply Within.raw
    | exact .inl (bitIn m_ (by decide))
    | exact .inr (Eq.refl _)

theorem trainLanes_within {w_ : Nat} (m_ : 270532608 ||| w_ = w_) {z0 : State} (s : State) (n : Nat) (bad : List Nat) (h_ : Within w_ z0 s) : Within w_ z0 (trainLanes s n bad) := by
  unfold trainLanes
  repeat' first
    | with_reducible assumption
    | exact Eq.refl _
    | with_reducible apply modLanes_within (subIn (by decide) m_)
    | with_reducible apply lockPlls_within (subIn (by decide) m_)
    | dsimp only

theorem idleLanes_within {w_ : Nat} (m_ : 2097156 ||| w_ = w_) {z0 : State} (s : State) (n : Nat) (h_ : Within w_ z0 s) : Within w_ z0 (idleLanes s n) := by
  unfold idleLanes
  repeat' first
    | with_reducible assumption
    | exact Eq.refl _
    | with_reducible apply modLanes_within (subIn (by decide) m_)
    | with_reducible apply abortScans_within (subIn (by decide) m_)
    | with_reducible apply holdLink_within (subIn (by decide) m_)
    | dsimp only

theorem linkEvent_within {w_ : Nat} (m_ : 33556481 ||| w_ = w_) {z0 : State} (s : State) (h : Nat) (sev : Nat) (lane : Nat) (h_ : Within w_ z0 s) : Within w_ z0 (linkEvent s h sev lane) := by
  unfold linkEvent
  repeat' first
    | with_reducible assumption
    | with_reducible apply event_within (subIn (by decide) m_)
    | dsimp only

theorem trainFailed_within {w_ : Nat} (m_ : 33556485 ||| w_ = w_) {z0 : State} (s : State) (h : Nat) (h_ : Within w_ z0 s) : Within w_ z0 (trainFailed s h) := by
  unfold trainFailed
  repeat' first
    | with_reducible assumption
    | exact Eq.refl _
    | with_reducible apply modHead_within (subIn (by decide) m_)
    | with_reducible apply linkEvent_within (subIn (by decide) m_)
    | with_reducible apply scEvent_within (subIn (by decide) m_)
    | dsimp only

theorem enterService_within {w_ : Nat} (m_ : 1107298309 ||| w_ = w_) {z0 : State} (s : State) (h : Nat) (cxl : Bool) (h_ : Within w_ z0 s) : Within w_ z0 (enterService s h cxl) := by
  unfold enterService
  repeat' first
    | with_reducible assumption
    | exact Eq.refl _
    | with_reducible apply Within.ite
    | with_reducible apply linkEvent_within (subIn (by decide) m_)
    | with_reducible apply scEvent_within (subIn (by decide) m_)
    | split
    | dsimp only
    | with_reducible apply Within.raw
    | exact .inl (bitIn m_ (by decide))
    | exact .inr (Eq.refl _)

theorem headUp_within {w_ : Nat} (m_ : 1377830917 ||| w_ = w_) {z0 : State} (s : State) (h : Nat) (cxl : Bool) (rate : Nat) (bad : List Nat) (ndr : Option Nat) (drs : Option Nat) (h_ : Within w_ z0 s) : Within w_ z0 (headUp s h cxl rate bad ndr drs) := by
  unfold headUp
  repeat' first
    | with_reducible assumption
    | exact Eq.refl _
    | with_reducible apply Within.ite
    | with_reducible apply trainFailed_within (subIn (by decide) m_)
    | with_reducible apply modHead_within (subIn (by decide) m_)
    | with_reducible apply trainLanes_within (subIn (by decide) m_)
    | with_reducible apply enterService_within (subIn (by decide) m_)
    | with_reducible apply returnCredits_within (subIn (by decide) m_)
    | split
    | dsimp only
    | with_reducible apply Within.raw
    | exact .inl (bitIn m_ (by decide))
    | exact .inr (Eq.refl _)

theorem dropHeadWork_within {w_ : Nat} (m_ : 4196384 ||| w_ = w_) {z0 : State} (s : State) (h : Nat) (h_ : Within w_ z0 s) : Within w_ z0 (dropHeadWork s h) := by
  unfold dropHeadWork
  repeat' first
    | with_reducible assumption
    | with_reducible intro _
    | exact Eq.refl _
    | with_reducible apply modHead_within (subIn (by decide) m_)
    | with_reducible apply modFlume_within (subIn (by decide) m_)
    | with_reducible apply modLeat_within (subIn (by decide) m_)
    | with_reducible apply forAll_within
    | dsimp only

theorem resetHead_within {w_ : Nat} (m_ : 7518244 ||| w_ = w_) {z0 : State} (s : State) (h : Nat) (h_ : Within w_ z0 s) : Within w_ z0 (resetHead s h) := by
  unfold resetHead
  repeat' first
    | with_reducible assumption
    | exact Eq.refl _
    | with_reducible apply modHead_within (subIn (by decide) m_)
    | with_reducible apply idleLanes_within (subIn (by decide) m_)
    | with_reducible apply resetHeadPairs_within (subIn (by decide) m_)
    | with_reducible apply dropHeadWork_within (subIn (by decide) m_)
    | dsimp only

theorem headDown_within {w_ : Nat} (m_ : 7518244 ||| w_ = w_) {z0 : State} (s : State) (h : Nat) (h_ : Within w_ z0 s) : Within w_ z0 (headDown s h) := by
  unfold headDown
  repeat' first
    | with_reducible assumption
    | with_reducible apply scEvent_within (subIn (by decide) m_)
    | with_reducible apply resetHead_within (subIn (by decide) m_)
    | dsimp only

/-! The meanings: which parts of the state each can change. -/

theorem execHeadLinkUp_within {w_ : Nat} (m_ : 1377830917 ||| w_ = w_) (h : Nat) (cxl : Bool) (rate : Nat) (bad : List Nat) (ndr : Option Nat) (drs : Option Nat) (s : State) : Touches w_ s (execHeadLinkUp h cxl rate bad ndr drs s) := by
  unfold execHeadLinkUp
  repeat' first
    | with_reducible assumption
    | with_reducible exact Within.refl _ _
    | with_reducible apply Touches.next
    | with_reducible apply Touches.ite
    | with_reducible apply Touches.onElement
    | with_reducible apply Within.ite
    | with_reducible apply headUp_within (subIn (by decide) m_)
    | split
    | dsimp only

theorem execHeadTrainRetry_within {w_ : Nat} (m_ : 2048 ||| w_ = w_) (h : Nat) (s : State) : Touches w_ s (execHeadTrainRetry h s) := by
  unfold execHeadTrainRetry
  repeat' first
    | with_reducible assumption
    | with_reducible exact Within.refl _ _
    | with_reducible apply Touches.next
    | with_reducible apply Touches.ite
    | with_reducible apply Touches.onElement
    | exact Eq.refl _
    | with_reducible apply Within.ite
    | with_reducible apply modHead_within (subIn (by decide) m_)
    | split
    | dsimp only

theorem execHeadConventionalReset_within {w_ : Nat} (m_ : 1081260068 ||| w_ = w_) (h : Nat) (s : State) : Touches w_ s (execHeadConventionalReset h s) := by
  unfold execHeadConventionalReset
  repeat' first
    | with_reducible assumption
    | with_reducible exact Within.refl _ _
    | with_reducible apply Touches.next
    | with_reducible apply Touches.ite
    | with_reducible apply Touches.onElement
    | exact Eq.refl _
    | with_reducible apply Within.ite
    | with_reducible apply resetHead_within (subIn (by decide) m_)
    | split
    | dsimp only
    | with_reducible apply Within.raw
    | exact .inl (bitIn m_ (by decide))
    | exact .inr (Eq.refl _)

theorem execHeadHotReset_within {w_ : Nat} (m_ : 7518244 ||| w_ = w_) (h : Nat) (s : State) : Touches w_ s (execHeadHotReset h s) := by
  unfold execHeadHotReset
  repeat' first
    | with_reducible assumption
    | with_reducible exact Within.refl _ _
    | with_reducible apply Touches.next
    | with_reducible apply Touches.ite
    | with_reducible apply Touches.onElement
    | with_reducible apply Within.ite
    | with_reducible apply resetHead_within (subIn (by decide) m_)
    | split
    | dsimp only

theorem execHeadLinkDown_within {w_ : Nat} (m_ : 7518244 ||| w_ = w_) (h : Nat) (s : State) : Touches w_ s (execHeadLinkDown h s) := by
  unfold execHeadLinkDown
  repeat' first
    | with_reducible assumption
    | with_reducible exact Within.refl _ _
    | with_reducible apply Touches.next
    | with_reducible apply Touches.ite
    | with_reducible apply Touches.onElement
    | with_reducible apply Within.ite
    | with_reducible apply headDown_within (subIn (by decide) m_)
    | split
    | dsimp only

theorem execFunctionLevelReset_within {w_ : Nat} (m_ : 1226752 ||| w_ = w_) (h : Nat) (s : State) : Touches w_ s (execFunctionLevelReset h s) := by
  unfold execFunctionLevelReset
  repeat' first
    | with_reducible assumption
    | with_reducible exact Within.refl _ _
    | with_reducible apply Touches.next
    | with_reducible apply Touches.ite
    | with_reducible apply Touches.onElement
    | with_reducible apply Within.ite
    | with_reducible apply resetHeadPairs_within (subIn (by decide) m_)
    | with_reducible apply modHead_within (subIn (by decide) m_)
    | split
    | dsimp only

theorem execD3hotEntry_within {w_ : Nat} (m_ : 1226752 ||| w_ = w_) (h : Nat) (s : State) : Touches w_ s (execD3hotEntry h s) := by
  unfold execD3hotEntry
  repeat' first
    | with_reducible assumption
    | with_reducible exact Within.refl _ _
    | with_reducible apply Touches.next
    | with_reducible apply Touches.ite
    | with_reducible apply Touches.onElement
    | exact Eq.refl _
    | with_reducible apply Within.ite
    | with_reducible apply resetHeadPairs_within (subIn (by decide) m_)
    | with_reducible apply modHead_within (subIn (by decide) m_)
    | split
    | dsimp only

theorem execD0Entry_within {w_ : Nat} (m_ : 270534656 ||| w_ = w_) (h : Nat) (s : State) : Touches w_ s (execD0Entry h s) := by
  unfold execD0Entry
  repeat' first
    | with_reducible assumption
    | with_reducible exact Within.refl _ _
    | with_reducible apply Touches.next
    | with_reducible apply Touches.ite
    | with_reducible apply Touches.onElement
    | exact Eq.refl _
    | with_reducible apply Within.ite
    | with_reducible apply wakeDevice_within (subIn (by decide) m_)
    | with_reducible apply modHead_within (subIn (by decide) m_)
    | with_reducible apply resumeLink_within (subIn (by decide) m_)
    | split
    | dsimp only

theorem execL1Entry_within {w_ : Nat} (m_ : 2099204 ||| w_ = w_) (h : Nat) (s : State) : Touches w_ s (execL1Entry h s) := by
  unfold execL1Entry
  repeat' first
    | with_reducible assumption
    | with_reducible exact Within.refl _ _
    | with_reducible apply Touches.next
    | with_reducible apply Touches.ite
    | with_reducible apply Touches.onElement
    | exact Eq.refl _
    | with_reducible apply Within.ite
    | with_reducible apply modHead_within (subIn (by decide) m_)
    | with_reducible apply abortScans_within (subIn (by decide) m_)
    | with_reducible apply holdLink_within (subIn (by decide) m_)
    | split
    | dsimp only

theorem execL1Exit_within {w_ : Nat} (m_ : 270534656 ||| w_ = w_) (h : Nat) (s : State) : Touches w_ s (execL1Exit h s) := by
  unfold execL1Exit
  repeat' first
    | with_reducible assumption
    | with_reducible exact Within.refl _ _
    | with_reducible apply Touches.next
    | with_reducible apply Touches.ite
    | with_reducible apply Touches.onElement
    | exact Eq.refl _
    | with_reducible apply Within.ite
    | with_reducible apply wakeDevice_within (subIn (by decide) m_)
    | with_reducible apply modHead_within (subIn (by decide) m_)
    | with_reducible apply resumeLink_within (subIn (by decide) m_)
    | split
    | dsimp only

theorem execS2mStarvation_within {w_ : Nat} (m_ : 33556485 ||| w_ = w_) (h : Nat) (s : State) : Touches w_ s (execS2mStarvation h s) := by
  unfold execS2mStarvation
  repeat' first
    | with_reducible assumption
    | with_reducible exact Within.refl _ _
    | with_reducible apply Touches.next
    | with_reducible apply Touches.ite
    | with_reducible apply Touches.onElement
    | exact Eq.refl _
    | with_reducible apply Within.ite
    | with_reducible apply linkEvent_within (subIn (by decide) m_)
    | with_reducible apply scEvent_within (subIn (by decide) m_)
    | with_reducible apply modHead_within (subIn (by decide) m_)
    | split
    | dsimp only

theorem execS2mCreditReturn_within {w_ : Nat} (m_ : 2049 ||| w_ = w_) (h : Nat) (ndr : Nat) (drs : Nat) (s : State) : Touches w_ s (execS2mCreditReturn h ndr drs s) := by
  unfold execS2mCreditReturn
  repeat' first
    | with_reducible assumption
    | with_reducible exact Within.refl _ _
    | with_reducible apply Touches.next
    | with_reducible apply Touches.ite
    | with_reducible apply Touches.onElement
    | exact Eq.refl _
    | with_reducible apply Within.ite
    | with_reducible apply modHead_within (subIn (by decide) m_)
    | with_reducible apply drainResponses_within (subIn (by decide) m_)
    | split
    | dsimp only

theorem execPcieConfigWrite_within {w_ : Nat} (m_ : 2048 ||| w_ = w_) (h : Nat) (cfg : ConfigWrite) (s : State) : Touches w_ s (execPcieConfigWrite h cfg s) := by
  unfold execPcieConfigWrite
  repeat' first
    | with_reducible assumption
    | with_reducible exact Within.refl _ _
    | with_reducible apply Touches.next
    | with_reducible apply Touches.ite
    | with_reducible apply Touches.onElement
    | with_reducible apply Within.ite
    | with_reducible apply modHead_within (subIn (by decide) m_)
    | split
    | dsimp only

end Sys2Proof.Machine
end

