-- ==== Sys2Proof/Laws/WithinLeat.lean ====
section
/-! SUPPORT. Which parts of the state the operations of Machine/Leat.lean can change. -/

set_option Elab.async false

namespace Sys2Proof.Machine

theorem portEvent_within {w_ : Nat} (m_ : 33556481 ||| w_ = w_) {z0 : State} (s : State) (k : Nat) (sev : Nat) (h_ : Within w_ z0 s) : Within w_ z0 (portEvent s k sev) := by
  unfold portEvent
  repeat' first
    | with_reducible assumption
    | with_reducible apply event_within (subIn (by decide) m_)
    | dsimp only

theorem portUp_within {w_ : Nat} (m_ : 274726912 ||| w_ = w_) {z0 : State} (s : State) (k : Nat) (rate : Nat) (width : Nat) (bad : List Nat) (h_ : Within w_ z0 s) : Within w_ z0 (portUp s k rate width bad) := by
  unfold portUp
  repeat' first
    | with_reducible assumption
    | with_reducible intro _
    | exact Eq.refl _
    | with_reducible apply Within.ite
    | with_reducible apply modLeat_within (subIn (by decide) m_)
    | with_reducible apply modPort_within (subIn (by decide) m_)
    | with_reducible apply trainLanes_within (subIn (by decide) m_)
    | split
    | dsimp only

theorem portTrainFailed_within {w_ : Nat} (m_ : 37750789 ||| w_ = w_) {z0 : State} (s : State) (k : Nat) (h_ : Within w_ z0 s) : Within w_ z0 (portTrainFailed s k) := by
  unfold portTrainFailed
  repeat' first
    | with_reducible assumption
    | exact Eq.refl _
    | with_reducible apply modPort_within (subIn (by decide) m_)
    | with_reducible apply portEvent_within (subIn (by decide) m_)
    | with_reducible apply scEvent_within (subIn (by decide) m_)
    | dsimp only

theorem portDown_within {w_ : Nat} (m_ : 39856751 ||| w_ = w_) {z0 : State} (s : State) (k : Nat) (h_ : Within w_ z0 s) : Within w_ z0 (portDown s k) := by
  unfold portDown
  repeat' first
    | with_reducible assumption
    | with_reducible intro _
    | exact Eq.refl _
    | with_reducible apply Within.ite
    | with_reducible apply modPort_within (subIn (by decide) m_)
    | with_reducible apply idleLanes_within (subIn (by decide) m_)
    | with_reducible apply portEvent_within (subIn (by decide) m_)
    | with_reducible apply scEvent_within (subIn (by decide) m_)
    | with_reducible apply modLeat_within (subIn (by decide) m_)
    | with_reducible apply partnerLost_within (subIn (by decide) m_)
    | split
    | dsimp only

theorem replay_within {w_ : Nat} (m_ : 39847941 ||| w_ = w_) {z0 : State} (s : State) (k : Nat) (h_ : Within w_ z0 s) : Within w_ z0 (replay s k) := by
  unfold replay
  repeat' first
    | with_reducible assumption
    | with_reducible intro _
    | exact Eq.refl _
    | with_reducible apply Within.ite
    | with_reducible apply emit_within (subIn (by decide) m_)
    | with_reducible apply modPort_within (subIn (by decide) m_)
    | with_reducible apply portEvent_within (subIn (by decide) m_)
    | with_reducible apply scEvent_within (subIn (by decide) m_)
    | with_reducible apply abortScans_within (subIn (by decide) m_)
    | with_reducible apply holdLink_within (subIn (by decide) m_)
    | with_reducible apply Within.foldl
    | with_reducible apply Within.foldl_snd2
    | with_reducible apply Within.foldl_snd
    | with_reducible apply Within.foldl_fst
    | split
    | dsimp only

theorem settlePort_within {w_ : Nat} (m_ : 4194305 ||| w_ = w_) {z0 : State} (s : State) (j : Nat) (last : Nat) (h_ : Within w_ z0 s) : Within w_ z0 (settlePort s j last) := by
  unfold settlePort
  repeat' first
    | with_reducible assumption
    | with_reducible intro _
    | exact Eq.refl _
    | with_reducible apply Within.ite
    | with_reducible apply leatFlush_within (subIn (by decide) m_)
    | with_reducible apply modLeat_within (subIn (by decide) m_)
    | with_reducible apply modPort_within (subIn (by decide) m_)
    | split
    | dsimp only

theorem unmatch_within {w_ : Nat} (m_ : 37750789 ||| w_ = w_) {z0 : State} (s : State) (i : Nat) (h_ : Within w_ z0 s) : Within w_ z0 (unmatch s i) := by
  unfold unmatch
  repeat' first
    | with_reducible assumption
    | with_reducible intro _
    | exact Eq.refl _
    | with_reducible apply mirrorNotice_within (subIn (by decide) m_)
    | with_reducible apply scEvent_within (subIn (by decide) m_)
    | with_reducible apply modLeat_within (subIn (by decide) m_)
    | split
    | dsimp only

theorem dualPrimary_within {w_ : Nat} (m_ : 37750789 ||| w_ = w_) {z0 : State} (s : State) (i : Nat) (h_ : Within w_ z0 s) : Within w_ z0 (dualPrimary s i) := by
  unfold dualPrimary
  repeat' first
    | with_reducible assumption
    | with_reducible intro _
    | exact Eq.refl _
    | with_reducible apply event_within (subIn (by decide) m_)
    | with_reducible apply scEvent_within (subIn (by decide) m_)
    | with_reducible apply modLeat_within (subIn (by decide) m_)
    | dsimp only

theorem joinEntry_within {w_ : Nat} (m_ : 37760517 ||| w_ = w_) {z0 : State} (s : State) (r : RegionIn) (h_ : Within w_ z0 s) : Within w_ z0 (joinEntry s r) := by
  unfold joinEntry
  repeat' first
    | with_reducible assumption
    | with_reducible intro _
    | with_reducible apply Within.ite
    | with_reducible apply unmatch_within (subIn (by decide) m_)
    | with_reducible apply setEntry_within (subIn (by decide) m_)
    | with_reducible apply setGranule_within (subIn (by decide) m_)
    | with_reducible apply dualPrimary_within (subIn (by decide) m_)
    | with_reducible apply forAll_within
    | split
    | dsimp only

theorem wipedPartner_within {w_ : Nat} (m_ : 4202496 ||| w_ = w_) {z0 : State} (s : State) (h_ : Within w_ z0 s) : Within w_ z0 (wipedPartner s) := by
  unfold wipedPartner
  repeat' first
    | with_reducible assumption
    | with_reducible intro _
    | with_reducible apply Within.ite
    | with_reducible apply setWhole_within (subIn (by decide) m_)
    | with_reducible apply forAll_within
    | split
    | dsimp only

theorem sendPageHalf_within {w_ : Nat} (m_ : 4194305 ||| w_ = w_) {z0 : State} (s : State) (a : Nat) (pages : Nat) (h_ : Within w_ z0 s) : Within w_ z0 (sendPageHalf s a pages) := by
  unfold sendPageHalf
  repeat' first
    | with_reducible assumption
    | with_reducible apply sendState_within (subIn (by decide) m_)
    | dsimp only

theorem sendEntries_within {w_ : Nat} (m_ : 4194305 ||| w_ = w_) {z0 : State} (s : State) (h_ : Within w_ z0 s) : Within w_ z0 (sendEntries s) := by
  unfold sendEntries
  repeat' first
    | with_reducible assumption
    | with_reducible intro _
    | with_reducible apply sendState_within (subIn (by decide) m_)
    | with_reducible apply forAll_within
    | dsimp only

theorem sendJoin_within {w_ : Nat} (m_ : 4194305 ||| w_ = w_) {z0 : State} (s : State) (h_ : Within w_ z0 s) : Within w_ z0 (sendJoin s) := by
  unfold sendJoin
  repeat' first
    | with_reducible assumption
    | with_reducible apply sendDirty_within (subIn (by decide) m_)
    | with_reducible apply sendPageHalf_within (subIn (by decide) m_)
    | dsimp only

theorem joinDirty_within {w_ : Nat} (m_ : 4202496 ||| w_ = w_) {z0 : State} (s : State) (gs : List Nat) (h_ : Within w_ z0 s) : Within w_ z0 (joinDirty s gs) := by
  unfold joinDirty
  repeat' first
    | with_reducible assumption
    | with_reducible intro _
    | with_reducible apply Within.ite
    | with_reducible apply setWhole_within (subIn (by decide) m_)
    | with_reducible apply forAll_within
    | split
    | dsimp only

theorem ackUpdate_within {w_ : Nat} (m_ : 4194305 ||| w_ = w_) {z0 : State} (s : State) (k : Nat) (tag : Nat) (slots : Nat) (stored : Bool) (h_ : Within w_ z0 s) : Within w_ z0 (ackUpdate s k tag slots stored) := by
  unfold ackUpdate
  repeat' first
    | with_reducible assumption
    | with_reducible apply returnSlots_within (subIn (by decide) m_)
    | with_reducible apply sendAck_within (subIn (by decide) m_)
    | dsimp only

theorem joinUpdate_within {w_ : Nat} (m_ : 37760517 ||| w_ = w_) {z0 : State} (k : Nat) (s : State) (r : RegionIn) (h_ : Within w_ z0 s) : Within w_ z0 (joinUpdate k s r) := by
  unfold joinUpdate
  repeat' first
    | with_reducible assumption
    | with_reducible apply joinEntry_within (subIn (by decide) m_)
    | with_reducible apply ackUpdate_within (subIn (by decide) m_)
    | split
    | dsimp only

theorem joinChunk_within {w_ : Nat} (m_ : 4202497 ||| w_ = w_) {z0 : State} (k : Nat) (s : State) (c : DirtyIn) (h_ : Within w_ z0 s) : Within w_ z0 (joinChunk k s c) := by
  unfold joinChunk
  repeat' first
    | with_reducible assumption
    | with_reducible apply ackUpdate_within (subIn (by decide) m_)
    | with_reducible apply joinDirty_within (subIn (by decide) m_)
    | dsimp only

theorem applyLine_within {w_ : Nat} (m_ : 272629793 ||| w_ = w_) {z0 : State} (s : State) (k : Nat) (line : Nat) (data : Line) (md : BitVec 2) (poison : Bool) (cls : Nat) (tag : Nat) (h_ : Within w_ z0 s) : Within w_ z0 (applyLine s k line data md poison cls tag) := by
  unfold applyLine
  repeat' first
    | with_reducible assumption
    | exact Eq.refl _
    | with_reducible apply Within.ite
    | with_reducible apply returnSlots_within (subIn (by decide) m_)
    | with_reducible apply sendAck_within (subIn (by decide) m_)
    | with_reducible apply ingress_within (subIn (by decide) m_)
    | with_reducible apply wakeDevice_within (subIn (by decide) m_)
    | split
    | dsimp only

theorem countNotStored_within {w_ : Nat} (m_ : 33556485 ||| w_ = w_) {z0 : State} (s : State) (h_ : Within w_ z0 s) : Within w_ z0 (countNotStored s) := by
  unfold countNotStored
  repeat' first
    | with_reducible assumption
    | with_reducible apply mirrorNotice_within (subIn (by decide) m_)
    | with_reducible apply scEvent_within (subIn (by decide) m_)
    | dsimp only

theorem ackSync_within {w_ : Nat} (m_ : 37759085 ||| w_ = w_) {z0 : State} (s : State) (first : Nat) (count : Nat) (stored : Bool) (h_ : Within w_ z0 s) : Within w_ z0 (ackSync s first count stored) := by
  unfold ackSync
  repeat' first
    | with_reducible assumption
    | with_reducible intro _
    | exact Eq.refl _
    | with_reducible apply Within.ite
    | with_reducible apply modLeat_within (subIn (by decide) m_)
    | with_reducible apply finishWrite_within (subIn (by decide) m_)
    | with_reducible apply notStored_within (subIn (by decide) m_)
    | with_reducible apply countNotStored_within (subIn (by decide) m_)
    | with_reducible apply Within.foldl
    | with_reducible apply Within.foldl_snd2
    | with_reducible apply Within.foldl_snd
    | with_reducible apply Within.foldl_fst
    | split
    | dsimp only

theorem ackPond_within {w_ : Nat} (m_ : 37759085 ||| w_ = w_) {z0 : State} (s : State) (first : Nat) (count : Nat) (stored : Bool) (h_ : Within w_ z0 s) : Within w_ z0 (ackPond s first count stored) := by
  unfold ackPond
  repeat' first
    | with_reducible assumption
    | with_reducible intro _
    | exact Eq.refl _
    | with_reducible apply Within.ite
    | with_reducible apply modLeat_within (subIn (by decide) m_)
    | with_reducible apply notStored_within (subIn (by decide) m_)
    | with_reducible apply countNotStored_within (subIn (by decide) m_)
    | with_reducible apply Within.foldl
    | with_reducible apply Within.foldl_snd2
    | with_reducible apply Within.foldl_snd
    | with_reducible apply Within.foldl_fst
    | split
    | dsimp only

theorem ackState_within {w_ : Nat} (m_ : 37750789 ||| w_ = w_) {z0 : State} (s : State) (first : Nat) (count : Nat) (stored : Bool) (h_ : Within w_ z0 s) : Within w_ z0 (ackState s first count stored) := by
  unfold ackState
  repeat' first
    | with_reducible assumption
    | with_reducible intro _
    | exact Eq.refl _
    | with_reducible apply Within.ite
    | with_reducible apply modLeat_within (subIn (by decide) m_)
    | with_reducible apply countNotStored_within (subIn (by decide) m_)
    | with_reducible apply unmatch_within (subIn (by decide) m_)
    | with_reducible apply Within.foldl
    | with_reducible apply Within.foldl_snd2
    | with_reducible apply Within.foldl_snd
    | with_reducible apply Within.foldl_fst
    | split
    | dsimp only

theorem settleGranules_within {w_ : Nat} (m_ : 4202497 ||| w_ = w_) {z0 : State} (s : State) (did : Nat) (h_ : Within w_ z0 s) : Within w_ z0 (settleGranules s did) := by
  unfold settleGranules
  repeat' first
    | with_reducible assumption
    | exact Eq.refl _
    | with_reducible apply Within.ite
    | with_reducible apply sendState_within (subIn (by decide) m_)
    | with_reducible apply clearGranules_within (subIn (by decide) m_)
    | with_reducible apply modDesc_within (subIn (by decide) m_)
    | split
    | dsimp only

theorem endPush_within {w_ : Nat} (m_ : 37759085 ||| w_ = w_) {z0 : State} (stored : Bool) (s : State) (w : PushWait) (h_ : Within w_ z0 s) : Within w_ z0 (endPush stored s w) := by
  unfold endPush
  repeat' first
    | with_reducible assumption
    | with_reducible intro _
    | exact Eq.refl _
    | with_reducible apply Within.ite
    | with_reducible apply modLeat_within (subIn (by decide) m_)
    | with_reducible apply settleGranules_within (subIn (by decide) m_)
    | with_reducible apply modDesc_within (subIn (by decide) m_)
    | with_reducible apply unpush_within (subIn (by decide) m_)
    | with_reducible apply countNotStored_within (subIn (by decide) m_)
    | split
    | dsimp only

theorem installEntry_within {w_ : Nat} (m_ : 4195840 ||| w_ = w_) {z0 : State} (s : State) (i : Nat) (e : Nat) (h_ : Within w_ z0 s) : Within w_ z0 (installEntry s i e).2 := by
  unfold installEntry
  repeat' first
    | with_reducible assumption
    | with_reducible apply Within.ite
    | with_reducible apply setEntry_within (subIn (by decide) m_)
    | split
    | dsimp only

theorem refuseWaiting_within {w_ : Nat} (m_ : 33556481 ||| w_ = w_) {z0 : State} (s : State) (r : Req) (h_ : Within w_ z0 s) : Within w_ z0 (refuseWaiting s r) := by
  unfold refuseWaiting
  repeat' first
    | with_reducible assumption
    | exact Eq.refl _
    | with_reducible apply finishWrite_within (subIn (by decide) m_)
    | with_reducible apply event_within (subIn (by decide) m_)
    | split
    | dsimp only

theorem refuseIn_within {w_ : Nat} (m_ : 37750817 ||| w_ = w_) {z0 : State} (rs : List Nat) (s : State) (f : Nat) (h_ : Within w_ z0 s) : Within w_ z0 (refuseIn rs s f) := by
  unfold refuseIn
  repeat' first
    | with_reducible assumption
    | with_reducible intro _
    | exact Eq.refl _
    | with_reducible apply Within.ite
    | with_reducible apply modFlume_within (subIn (by decide) m_)
    | with_reducible apply leaveIngress_within (subIn (by decide) m_)
    | with_reducible apply modLeat_within (subIn (by decide) m_)
    | with_reducible apply refuseWaiting_within (subIn (by decide) m_)
    | with_reducible apply noteIdle_within (subIn (by decide) m_)
    | with_reducible apply updateWeir_within (subIn (by decide) m_)
    | with_reducible apply Within.foldl
    | with_reducible apply Within.foldl_snd2
    | with_reducible apply Within.foldl_snd
    | with_reducible apply Within.foldl_fst
    | split
    | dsimp only

theorem endSwitchover_within {w_ : Nat} (m_ : 8192 ||| w_ = w_) {z0 : State} (s : State) (d : Nat) (h_ : Within w_ z0 s) : Within w_ z0 (endSwitchover s d) := by
  unfold endSwitchover
  repeat' first
    | with_reducible assumption
    | exact Eq.refl _
    | with_reducible apply Within.ite
    | with_reducible apply finishDesc_within (subIn (by decide) m_)
    | split
    | dsimp only

theorem copyOut_within {w_ : Nat} (m_ : 574630383 ||| w_ = w_) {z0 : State} (env : OpEnv) (a : Option (List CopyLine) × State) (line : Nat) (h_ : Within w_ z0 a.2) : Within w_ z0 (copyOut env a line).2 := by
  unfold copyOut
  repeat' first
    | with_reducible assumption
    | exact Eq.refl _
    | with_reducible apply Within.ite
    | with_reducible apply readLine_within (subIn (by decide) m_)
    | split
    | dsimp only

theorem answerCopy_within {w_ : Nat} (m_ : 574631407 ||| w_ = w_) {z0 : State} (k : Nat) (line : Nat) (n : Nat) (tag : Nat) (env : OpEnv) (s : State) (h_ : Within w_ z0 s) : Within w_ z0 (answerCopy k line n tag env s) := by
  unfold answerCopy
  repeat' first
    | with_reducible assumption
    | with_reducible intro _
    | with_reducible apply copyOut_within (subIn (by decide) m_)
    | with_reducible apply returnSlots_within (subIn (by decide) m_)
    | with_reducible apply lookups_within (subIn (by decide) m_)
    | with_reducible apply leatSend_within (subIn (by decide) m_)
    | with_reducible apply Within.foldl
    | with_reducible apply Within.foldl_snd2
    | with_reducible apply Within.foldl_snd
    | with_reducible apply Within.foldl_fst
    | dsimp only

theorem pushedLine_within {w_ : Nat} (m_ : 268435488 ||| w_ = w_) {z0 : State} (i : Nat) (tag : Nat) (k : Nat) (s : State) (e : CopyLine × Nat) (h_ : Within w_ z0 s) : Within w_ z0 (pushedLine i tag k s e) := by
  unfold pushedLine
  repeat' first
    | with_reducible assumption
    | exact Eq.refl _
    | with_reducible apply ingress_within (subIn (by decide) m_)
    | dsimp only

theorem takePush_within {w_ : Nat} (m_ : 272629793 ||| w_ = w_) {z0 : State} (s : State) (k : Nat) (line : Nat) (tag : Nat) (ls : List CopyLine) (h_ : Within w_ z0 s) : Within w_ z0 (takePush s k line tag ls) := by
  unfold takePush
  repeat' first
    | with_reducible assumption
    | with_reducible intro _
    | exact Eq.refl _
    | with_reducible apply returnSlots_within (subIn (by decide) m_)
    | with_reducible apply sendAck_within (subIn (by decide) m_)
    | with_reducible apply modLeat_within (subIn (by decide) m_)
    | with_reducible apply pushedLine_within (subIn (by decide) m_)
    | with_reducible apply wakeDevice_within (subIn (by decide) m_)
    | with_reducible apply Within.foldl
    | with_reducible apply Within.foldl_snd2
    | with_reducible apply Within.foldl_snd
    | with_reducible apply Within.foldl_fst
    | split
    | dsimp only

theorem releasePages_within {w_ : Nat} (m_ : 4194305 ||| w_ = w_) {z0 : State} (a0_ : List (Nat × Nat × Word)) : ∀ (a1_ : State), Within w_ z0 a1_ → Within w_ z0 (releasePages a0_ a1_) := by
  induction a0_ with
  | nil =>
    intro a1_ h_
    unfold releasePages
    repeat' first
      | with_reducible assumption
      | with_reducible intro _
      | exact Eq.refl _
      | with_reducible apply Within.ite
      | with_reducible apply sendState_within (subIn (by decide) m_)
      | with_reducible apply modLeat_within (subIn (by decide) m_)
      | split
      | dsimp only
  | cons x_ l_ ih_ =>
    intro a1_ h_
    unfold releasePages
    repeat' first
      | with_reducible assumption
      | with_reducible apply ih_
      | with_reducible intro _
      | exact Eq.refl _
      | with_reducible apply Within.ite
      | with_reducible apply sendState_within (subIn (by decide) m_)
      | with_reducible apply modLeat_within (subIn (by decide) m_)
      | split
      | dsimp only

theorem takePage_within {w_ : Nat} (m_ : 104859653 ||| w_ = w_) {z0 : State} (s : State) (path : Nat) (w : Nat) (v : Word) (h_ : Within w_ z0 s) : Within w_ z0 (takePage s path w v) := by
  unfold takePage
  repeat' first
    | with_reducible assumption
    | with_reducible intro _
    | exact Eq.refl _
    | with_reducible apply Within.ite
    | with_reducible apply accessFault_within (subIn (by decide) m_)
    | with_reducible apply modLeat_within (subIn (by decide) m_)
    | with_reducible apply releasePages_within (subIn (by decide) m_)
    | split
    | dsimp only

theorem resilverStored_within {w_ : Nat} (m_ : 570427885 ||| w_ = w_) {z0 : State} (s : State) (i : Nat) (f : Nat) (l : Nat) (line : Nat) (p : Place) (env : OpEnv) (h_ : Within w_ z0 s) : Within w_ z0 (resilverStored s i f l line p env).2 := by
  unfold resilverStored
  repeat' first
    | with_reducible assumption
    | with_reducible apply Within.ite
    | with_reducible apply countRead_within (subIn (by decide) m_)
    | with_reducible apply storeBack_within (subIn (by decide) m_)
    | with_reducible apply bumpTotal_within (subIn (by decide) m_)
    | with_reducible apply markClean_within (subIn (by decide) m_)
    | split
    | dsimp only

theorem resilverLine_within {w_ : Nat} (m_ : 574630383 ||| w_ = w_) {z0 : State} (i : Nat) (env : OpEnv) (a : List (Nat × CopyLine) × State) (line : Nat) (h_ : Within w_ z0 a.2) : Within w_ z0 (resilverLine i env a line).2 := by
  unfold resilverLine
  repeat' first
    | with_reducible assumption
    | exact Eq.refl _
    | with_reducible apply Within.ite
    | with_reducible apply flushLine_within (subIn (by decide) m_)
    | with_reducible apply bumpFree_within (subIn (by decide) m_)
    | with_reducible apply resilverStored_within (subIn (by decide) m_)
    | split
    | dsimp only

theorem pushRun_within {w_ : Nat} (m_ : 4194305 ||| w_ = w_) {z0 : State} (i : Nat) (did : Nat) (s : State) (run : List (Nat × CopyLine)) (h_ : Within w_ z0 s) : Within w_ z0 (pushRun i did s run) := by
  unfold pushRun
  repeat' first
    | with_reducible assumption
    | with_reducible intro _
    | exact Eq.refl _
    | with_reducible apply leatSend_within (subIn (by decide) m_)
    | with_reducible apply modLeat_within (subIn (by decide) m_)
    | dsimp only

theorem resilverBatch_within {w_ : Nat} (m_ : 574631407 ||| w_ = w_) {z0 : State} (did : Nat) (i : Nat) (a : Nat) (d : Desc) (env : OpEnv) (s : State) (h_ : Within w_ z0 s) : Within w_ z0 (resilverBatch did i a d env s) := by
  unfold resilverBatch
  repeat' first
    | with_reducible assumption
    | with_reducible intro _
    | exact Eq.refl _
    | with_reducible apply Within.ite
    | with_reducible apply resilverLine_within (subIn (by decide) m_)
    | with_reducible apply lookups_within (subIn (by decide) m_)
    | with_reducible apply pushRun_within (subIn (by decide) m_)
    | with_reducible apply settleGranules_within (subIn (by decide) m_)
    | with_reducible apply modDesc_within (subIn (by decide) m_)
    | with_reducible apply Within.foldl
    | with_reducible apply Within.foldl_snd2
    | with_reducible apply Within.foldl_snd
    | with_reducible apply Within.foldl_fst
    | split
    | dsimp only

/-! The meanings: which parts of the state each can change. -/

theorem execLeatPortTrain_within {w_ : Nat} (m_ : 308283397 ||| w_ = w_) (k : Nat) (rate : Nat) (bad : List Nat) (s : State) : Touches w_ s (execLeatPortTrain k rate bad s) := by
  unfold execLeatPortTrain
  repeat' first
    | with_reducible assumption
    | with_reducible exact Within.refl _ _
    | with_reducible apply Touches.next
    | with_reducible apply Touches.ite
    | with_reducible apply Touches.onElement
    | exact Eq.refl _
    | with_reducible apply Within.ite
    | with_reducible apply portTrainFailed_within (subIn (by decide) m_)
    | with_reducible apply portUp_within (subIn (by decide) m_)
    | split
    | dsimp only

theorem execLeatPortDown_within {w_ : Nat} (m_ : 39856751 ||| w_ = w_) (k : Nat) (s : State) : Touches w_ s (execLeatPortDown k s) := by
  unfold execLeatPortDown
  repeat' first
    | with_reducible assumption
    | with_reducible exact Within.refl _ _
    | with_reducible apply Touches.next
    | with_reducible apply Touches.ite
    | with_reducible apply Touches.onElement
    | with_reducible apply Within.ite
    | with_reducible apply portDown_within (subIn (by decide) m_)
    | split
    | dsimp only

theorem execLeatPortReturn_within {w_ : Nat} (m_ : 4194305 ||| w_ = w_) (k : Nat) (s : State) : Touches w_ s (execLeatPortReturn k s) := by
  unfold execLeatPortReturn
  repeat' first
    | with_reducible assumption
    | with_reducible exact Within.refl _ _
    | with_reducible apply Touches.next
    | with_reducible apply Touches.ite
    | with_reducible apply Touches.onElement
    | with_reducible intro _
    | exact Eq.refl _
    | with_reducible apply Within.ite
    | with_reducible apply leatFlush_within (subIn (by decide) m_)
    | with_reducible apply modLeat_within (subIn (by decide) m_)
    | split
    | dsimp only

theorem execFlitReceive_within {w_ : Nat} (m_ : 4194305 ||| w_ = w_) (k : Nat) (seq : Nat) (crcOk : Bool) (s : State) : Touches w_ s (execFlitReceive k seq crcOk s) := by
  unfold execFlitReceive
  repeat' first
    | with_reducible assumption
    | with_reducible exact Within.refl _ _
    | with_reducible apply Touches.next
    | with_reducible apply Touches.ite
    | with_reducible apply Touches.onElement
    | exact Eq.refl _
    | with_reducible apply Within.ite
    | with_reducible apply modPort_within (subIn (by decide) m_)
    | with_reducible apply sendLink_within (subIn (by decide) m_)
    | split
    | dsimp only

theorem execLeatReplayTimeout_within {w_ : Nat} (m_ : 39847941 ||| w_ = w_) (k : Nat) (s : State) : Touches w_ s (execLeatReplayTimeout k s) := by
  unfold execLeatReplayTimeout
  repeat' first
    | with_reducible assumption
    | with_reducible exact Within.refl _ _
    | with_reducible apply Touches.next
    | with_reducible apply Touches.ite
    | with_reducible apply Touches.onElement
    | with_reducible apply Within.ite
    | with_reducible apply replay_within (subIn (by decide) m_)
    | split
    | dsimp only

theorem execIdle_within {w_ : Nat} (m_ : 0 ||| w_ = w_) (k : Nat) (s : State) : Touches w_ s (execIdle k s) := by
  unfold execIdle
  repeat' first
    | with_reducible assumption
    | with_reducible exact Within.refl _ _
    | with_reducible apply Touches.next
    | with_reducible apply Touches.ite
    | with_reducible apply Touches.onElement
    | with_reducible apply Within.ite
    | split
    | dsimp only

theorem execLink_within {w_ : Nat} (m_ : 39847941 ||| w_ = w_) (k : Nat) (lastGood : Nat) (nak : Bool) (reqSlots : Nat) (rspSlots : Nat) (s : State) : Touches w_ s (execLink k lastGood nak reqSlots rspSlots s) := by
  unfold execLink
  repeat' first
    | with_reducible assumption
    | with_reducible exact Within.refl _ _
    | with_reducible apply Touches.next
    | with_reducible apply Touches.ite
    | with_reducible apply Touches.onElement
    | exact Eq.refl _
    | with_reducible apply Within.ite
    | with_reducible apply modPort_within (subIn (by decide) m_)
    | with_reducible apply leatFlush_within (subIn (by decide) m_)
    | with_reducible apply replay_within (subIn (by decide) m_)
    | split
    | dsimp only

theorem execHeartbeatSend_within {w_ : Nat} (m_ : 4194305 ||| w_ = w_) (k : Nat) (s : State) : Touches w_ s (execHeartbeatSend k s) := by
  unfold execHeartbeatSend
  repeat' first
    | with_reducible assumption
    | with_reducible exact Within.refl _ _
    | with_reducible apply Touches.next
    | with_reducible apply Touches.ite
    | with_reducible apply Touches.onElement
    | exact Eq.refl _
    | with_reducible apply Within.ite
    | with_reducible apply leatOwn_within (subIn (by decide) m_)
    | with_reducible apply modPort_within (subIn (by decide) m_)
    | split
    | dsimp only

theorem execHeartbeat_within {w_ : Nat} (m_ : 37750785 ||| w_ = w_) (k : Nat) (hb : HeartbeatMsg) (s : State) : Touches w_ s (execHeartbeat k hb s) := by
  unfold execHeartbeat
  repeat' first
    | with_reducible assumption
    | with_reducible exact Within.refl _ _
    | with_reducible apply Touches.next
    | with_reducible apply Touches.ite
    | with_reducible apply Touches.onElement
    | with_reducible intro _
    | exact Eq.refl _
    | with_reducible apply Within.ite
    | with_reducible apply modPort_within (subIn (by decide) m_)
    | with_reducible apply modLeat_within (subIn (by decide) m_)
    | with_reducible apply portEvent_within (subIn (by decide) m_)
    | with_reducible apply settlePort_within (subIn (by decide) m_)
    | with_reducible apply forAll_within
    | split
    | dsimp only

theorem execPairJoin_within {w_ : Nat} (m_ : 37760621 ||| w_ = w_) (k : Nat) (entries : List RegionIn) (dirty : List DirtyIn) (s : State) : Touches w_ s (execPairJoin k entries dirty s) := by
  unfold execPairJoin
  repeat' first
    | with_reducible assumption
    | with_reducible exact Within.refl _ _
    | with_reducible apply Touches.next
    | with_reducible apply Touches.ite
    | with_reducible apply Touches.onElement
    | with_reducible intro _
    | exact Eq.refl _
    | with_reducible apply Within.ite
    | with_reducible apply sendEntries_within (subIn (by decide) m_)
    | with_reducible apply wipedPartner_within (subIn (by decide) m_)
    | with_reducible apply modLeat_within (subIn (by decide) m_)
    | with_reducible apply sendJoin_within (subIn (by decide) m_)
    | with_reducible apply joinUpdate_within (subIn (by decide) m_)
    | with_reducible apply mirrorAll_within (subIn (by decide) m_)
    | with_reducible apply joinChunk_within (subIn (by decide) m_)
    | with_reducible apply Within.foldl
    | with_reducible apply Within.foldl_snd
    | split
    | dsimp only

theorem execMirrorWrite_within {w_ : Nat} (m_ : 272629793 ||| w_ = w_) (k : Nat) (line : Nat) (data : Line) (md : BitVec 2) (cls : Nat) (tag : Nat) (s : State) : Touches w_ s (execMirrorWrite k line data md cls tag s) := by
  unfold execMirrorWrite
  repeat' first
    | with_reducible assumption
    | with_reducible exact Within.refl _ _
    | with_reducible apply Touches.next
    | with_reducible apply Touches.ite
    | with_reducible apply Touches.onElement
    | with_reducible apply Within.ite
    | with_reducible apply applyLine_within (subIn (by decide) m_)
    | split
    | dsimp only

theorem execPoisonNotice_within {w_ : Nat} (m_ : 272629793 ||| w_ = w_) (k : Nat) (line : Nat) (cls : Nat) (tag : Nat) (s : State) : Touches w_ s (execPoisonNotice k line cls tag s) := by
  unfold execPoisonNotice
  repeat' first
    | with_reducible assumption
    | with_reducible exact Within.refl _ _
    | with_reducible apply Touches.next
    | with_reducible apply Touches.ite
    | with_reducible apply Touches.onElement
    | with_reducible apply Within.ite
    | with_reducible apply applyLine_within (subIn (by decide) m_)
    | split
    | dsimp only

theorem execAck_within {w_ : Nat} (m_ : 37759085 ||| w_ = w_) (k : Nat) (cls : Nat) (first : Nat) (count : Nat) (stored : Bool) (s : State) : Touches w_ s (execAck k cls first count stored s) := by
  unfold execAck
  repeat' first
    | with_reducible assumption
    | with_reducible exact Within.refl _ _
    | with_reducible apply Touches.next
    | with_reducible apply Touches.ite
    | with_reducible apply Touches.onElement
    | with_reducible intro _
    | with_reducible apply Within.ite
    | with_reducible apply sendLink_within (subIn (by decide) m_)
    | with_reducible apply ackSync_within (subIn (by decide) m_)
    | with_reducible apply ackPond_within (subIn (by decide) m_)
    | with_reducible apply ackState_within (subIn (by decide) m_)
    | with_reducible apply endPush_within (subIn (by decide) m_)
    | with_reducible apply mirrorAll_within (subIn (by decide) m_)
    | with_reducible apply Within.foldl
    | with_reducible apply Within.foldl_snd
    | split
    | dsimp only

theorem execRegionEntryUpdate_within {w_ : Nat} (m_ : 4195841 ||| w_ = w_) (k : Nat) (idx : Nat) (entry : BitVec 128) (tag : Nat) (s : State) : Touches w_ s (execRegionEntryUpdate k idx entry tag s) := by
  unfold execRegionEntryUpdate
  repeat' first
    | with_reducible assumption
    | with_reducible exact Within.refl _ _
    | with_reducible apply Touches.next
    | with_reducible apply Touches.ite
    | with_reducible apply Touches.onElement
    | with_reducible apply Within.ite
    | with_reducible apply installEntry_within (subIn (by decide) m_)
    | with_reducible apply ackUpdate_within (subIn (by decide) m_)
    | split
    | dsimp only

theorem execRegionClearUpdate_within {w_ : Nat} (m_ : 4195841 ||| w_ = w_) (k : Nat) (idx : Nat) (tag : Nat) (s : State) : Touches w_ s (execRegionClearUpdate k idx tag s) := by
  unfold execRegionClearUpdate
  repeat' first
    | with_reducible assumption
    | with_reducible exact Within.refl _ _
    | with_reducible apply Touches.next
    | with_reducible apply Touches.ite
    | with_reducible apply Touches.onElement
    | with_reducible apply Within.ite
    | with_reducible apply ackUpdate_within (subIn (by decide) m_)
    | with_reducible apply setEntry_within (subIn (by decide) m_)
    | split
    | dsimp only

theorem execRoleChangeUpdate_within {w_ : Nat} (m_ : 4194817 ||| w_ = w_) (k : Nat) (mask : Nat) (tag : Nat) (s : State) : Touches w_ s (execRoleChangeUpdate k mask tag s) := by
  unfold execRoleChangeUpdate
  repeat' first
    | with_reducible assumption
    | with_reducible exact Within.refl _ _
    | with_reducible apply Touches.next
    | with_reducible apply Touches.ite
    | with_reducible apply Touches.onElement
    | with_reducible apply ask_within
    | with_reducible intro _
    | with_reducible apply Within.ite
    | with_reducible apply setRole_within (subIn (by decide) m_)
    | with_reducible apply ackUpdate_within (subIn (by decide) m_)
    | with_reducible apply forAll_within
    | split
    | dsimp only

theorem execSharedPageUpdate_within {w_ : Nat} (m_ : 4194305 ||| w_ = w_) (k : Nat) (words : List (Nat × Word)) (tag : Nat) (s : State) : Touches w_ s (execSharedPageUpdate k words tag s) := by
  unfold execSharedPageUpdate
  repeat' first
    | with_reducible assumption
    | with_reducible exact Within.refl _ _
    | with_reducible apply Touches.next
    | with_reducible apply Touches.ite
    | with_reducible apply Touches.onElement
    | with_reducible intro _
    | exact Eq.refl _
    | with_reducible apply Within.ite
    | with_reducible apply modLeat_within (subIn (by decide) m_)
    | with_reducible apply returnSlots_within (subIn (by decide) m_)
    | with_reducible apply ackUpdate_within (subIn (by decide) m_)
    | with_reducible apply Within.foldl
    | with_reducible apply Within.foldl_snd
    | split
    | refine Within.snd (by assumption) ?_
    | dsimp only

theorem execDirtyBitmapChunk_within {w_ : Nat} (m_ : 4202497 ||| w_ = w_) (k : Nat) (granules : List Nat) (tag : Nat) (s : State) : Touches w_ s (execDirtyBitmapChunk k granules tag s) := by
  unfold execDirtyBitmapChunk
  repeat' first
    | with_reducible assumption
    | with_reducible exact Within.refl _ _
    | with_reducible apply Touches.next
    | with_reducible apply Touches.ite
    | with_reducible apply Touches.onElement
    | with_reducible apply Within.ite
    | with_reducible apply ackUpdate_within (subIn (by decide) m_)
    | with_reducible apply joinDirty_within (subIn (by decide) m_)
    | split
    | dsimp only

theorem execGranulesClean_within {w_ : Nat} (m_ : 4194305 ||| w_ = w_) (k : Nat) (granules : List Nat) (tag : Nat) (s : State) : Touches w_ s (execGranulesClean k granules tag s) := by
  unfold execGranulesClean
  repeat' first
    | with_reducible assumption
    | with_reducible exact Within.refl _ _
    | with_reducible apply Touches.next
    | with_reducible apply Touches.ite
    | with_reducible apply Touches.onElement
    | with_reducible apply Within.ite
    | with_reducible apply ackUpdate_within (subIn (by decide) m_)
    | with_reducible apply clearGranules_within (subIn (by decide) m_)
    | split
    | dsimp only

theorem execSwitchoverRequest_within {w_ : Nat} (m_ : 4194305 ||| w_ = w_) (k : Nat) (mask : Nat) (tag : Nat) (s : State) : Touches w_ s (execSwitchoverRequest k mask tag s) := by
  unfold execSwitchoverRequest
  repeat' first
    | with_reducible assumption
    | with_reducible exact Within.refl _ _
    | with_reducible apply Touches.next
    | with_reducible apply Touches.ite
    | with_reducible apply Touches.onElement
    | with_reducible intro _
    | exact Eq.refl _
    | with_reducible apply Within.ite
    | with_reducible apply modLeat_within (subIn (by decide) m_)
    | with_reducible apply ackUpdate_within (subIn (by decide) m_)
    | with_reducible apply Within.foldl
    | with_reducible apply Within.foldl_snd
    | split
    | dsimp only

theorem execSwitchoverQuiesced_within {w_ : Nat} (m_ : 37751329 ||| w_ = w_) (s : State) : Touches w_ s (execSwitchoverQuiesced s) := by
  unfold execSwitchoverQuiesced
  repeat' first
    | with_reducible assumption
    | with_reducible exact Within.refl _ _
    | with_reducible apply Touches.next
    | with_reducible apply Touches.ite
    | with_reducible apply Touches.onElement
    | with_reducible intro _
    | exact Eq.refl _
    | with_reducible apply Within.ite
    | with_reducible apply setRole_within (subIn (by decide) m_)
    | with_reducible apply modLeat_within (subIn (by decide) m_)
    | with_reducible apply sendState_within (subIn (by decide) m_)
    | with_reducible apply refuseIn_within (subIn (by decide) m_)
    | with_reducible apply forAll_within
    | split
    | dsimp only

theorem execSwitchoverDone_within {w_ : Nat} (m_ : 4203009 ||| w_ = w_) (k : Nat) (mask : Nat) (tag : Nat) (s : State) : Touches w_ s (execSwitchoverDone k mask tag s) := by
  unfold execSwitchoverDone
  repeat' first
    | with_reducible assumption
    | with_reducible exact Within.refl _ _
    | with_reducible apply Touches.next
    | with_reducible apply Touches.ite
    | with_reducible apply Touches.onElement
    | with_reducible apply ask_within
    | with_reducible intro _
    | with_reducible apply Within.ite
    | with_reducible apply setRole_within (subIn (by decide) m_)
    | with_reducible apply ackUpdate_within (subIn (by decide) m_)
    | with_reducible apply endSwitchover_within (subIn (by decide) m_)
    | with_reducible apply forAll_within
    | split
    | dsimp only

theorem execCopyRequest_within {w_ : Nat} (m_ : 843066863 ||| w_ = w_) (k : Nat) (line : Nat) (lines : Nat) (_refetch : Bool) (tag : Nat) (env : OpEnv) (s : State) : Touches w_ s (execCopyRequest k line lines _refetch tag env s) := by
  unfold execCopyRequest
  repeat' first
    | with_reducible assumption
    | with_reducible exact Within.refl _ _
    | with_reducible apply Touches.next
    | with_reducible apply Touches.ite
    | with_reducible apply Touches.onElement
    | with_reducible apply whenOpen_within (subIn (by decide) m_)
    | with_reducible intro _
    | with_reducible apply Within.ite
    | with_reducible apply wakeDevice_within (subIn (by decide) m_)
    | with_reducible apply answerCopy_within (subIn (by decide) m_)
    | split
    | dsimp only

theorem execCopyData_within {w_ : Nat} (m_ : 306194539 ||| w_ = w_) (k : Nat) (line : Nat) (push : Bool) (data : List CopyLine) (tag : Nat) (s : State) : Touches w_ s (execCopyData k line push data tag s) := by
  unfold execCopyData
  repeat' first
    | with_reducible assumption
    | with_reducible exact Within.refl _ _
    | with_reducible apply Touches.next
    | with_reducible apply Touches.ite
    | with_reducible apply Touches.onElement
    | exact Eq.refl _
    | with_reducible apply Within.ite
    | with_reducible apply takePush_within (subIn (by decide) m_)
    | with_reducible apply sendLink_within (subIn (by decide) m_)
    | with_reducible apply dropCopy_within (subIn (by decide) m_)
    | with_reducible apply copyFailed_within (subIn (by decide) m_)
    | with_reducible apply copyArrived_within (subIn (by decide) m_)
    | split
    | dsimp only

theorem execPondSend_within {w_ : Nat} (m_ : 4194305 ||| w_ = w_) (s : State) : Touches w_ s (execPondSend s) := by
  unfold execPondSend
  repeat' first
    | with_reducible assumption
    | with_reducible exact Within.refl _ _
    | with_reducible apply Touches.next
    | with_reducible apply Touches.ite
    | with_reducible intro _
    | exact Eq.refl _
    | with_reducible apply Within.ite
    | with_reducible apply modLeat_within (subIn (by decide) m_)
    | with_reducible apply sendMirror_within (subIn (by decide) m_)
    | with_reducible apply releasePages_within (subIn (by decide) m_)
    | split
    | dsimp only

theorem execSharedPageWrite_within {w_ : Nat} (m_ : 373295141 ||| w_ = w_) (path : Nat) (off : Nat) (v : Word) (s : State) : Touches w_ s (execSharedPageWrite path off v s) := by
  unfold execSharedPageWrite
  repeat' first
    | with_reducible assumption
    | with_reducible exact Within.refl _ _
    | with_reducible apply Touches.next
    | with_reducible apply Touches.ite
    | with_reducible apply Touches.onElement
    | with_reducible intro _
    | with_reducible apply Within.ite
    | with_reducible apply accessFault_within (subIn (by decide) m_)
    | with_reducible apply writeNow_within (subIn (by decide) m_)
    | with_reducible apply takePage_within (subIn (by decide) m_)
    | split
    | dsimp only

theorem execResilverSend_within {w_ : Nat} (m_ : 843066863 ||| w_ = w_) (did : Nat) (env : OpEnv) (s : State) : Touches w_ s (execResilverSend did env s) := by
  unfold execResilverSend
  repeat' first
    | with_reducible assumption
    | with_reducible exact Within.refl _ _
    | with_reducible apply Touches.next
    | with_reducible apply Touches.ite
    | with_reducible apply whenOpen_within (subIn (by decide) m_)
    | with_reducible intro _
    | exact Eq.refl _
    | with_reducible apply Within.ite
    | with_reducible apply resilverBatch_within (subIn (by decide) m_)
    | split
    | dsimp only

theorem execFlitTimeout_within {w_ : Nat} (m_ : 37759599 ||| w_ = w_) (s : State) : Touches w_ s (execFlitTimeout s) := by
  unfold execFlitTimeout
  repeat' first
    | with_reducible assumption
    | with_reducible exact Within.refl _ _
    | with_reducible apply Touches.next
    | with_reducible apply Touches.ite
    | with_reducible apply Within.ite
    | with_reducible apply partnerLost_within (subIn (by decide) m_)
    | split
    | dsimp only

theorem execAckLimitExpiry_within {w_ : Nat} (m_ : 39856751 ||| w_ = w_) (s : State) : Touches w_ s (execAckLimitExpiry s) := by
  unfold execAckLimitExpiry
  repeat' first
    | with_reducible assumption
    | with_reducible exact Within.refl _ _
    | with_reducible apply Touches.next
    | with_reducible apply Touches.ite
    | with_reducible intro _
    | exact Eq.refl _
    | with_reducible apply Within.ite
    | with_reducible apply portDown_within (subIn (by decide) m_)
    | with_reducible apply partnerLost_within (subIn (by decide) m_)
    | with_reducible apply modPort_within (subIn (by decide) m_)
    | with_reducible apply forAll_within
    | split
    | dsimp only

end Sys2Proof.Machine
end

