-- ==== Sys2Proof/Laws/WithinLanes.lean ====
section
/-! SUPPORT. Which parts of the state the operations of Machine/Lanes.lean can change. -/

set_option Elab.async false

namespace Sys2Proof.Machine

theorem laneEvent_within {w_ : Nat} (m_ : 33556481 ||| w_ = w_) {z0 : State} (s : State) (n : Nat) (sev : Nat) (h_ : Within w_ z0 s) : Within w_ z0 (laneEvent s n sev) := by
  unfold laneEvent
  repeat' first
    | with_reducible assumption
    | with_reducible apply Within.ite
    | with_reducible apply linkEvent_within (subIn (by decide) m_)
    | with_reducible apply portEvent_within (subIn (by decide) m_)
    | split
    | dsimp only

theorem clearFreeze_within {w_ : Nat} (m_ : 4 ||| w_ = w_) {z0 : State} (s : State) (n : Nat) (h_ : Within w_ z0 s) : Within w_ z0 (clearFreeze s n) := by
  unfold clearFreeze
  repeat' first
    | with_reducible assumption
    | with_reducible intro _
    | with_reducible apply Within.ite
    | with_reducible apply regPut_within (subIn (by decide) m_)
    | with_reducible apply forAll_within
    | split
    | dsimp only

theorem linkFails_within {w_ : Nat} (m_ : 41073263 ||| w_ = w_) {z0 : State} (s : State) (n : Nat) (h_ : Within w_ z0 s) : Within w_ z0 (linkFails s n) := by
  unfold linkFails
  repeat' first
    | with_reducible assumption
    | with_reducible apply Within.ite
    | with_reducible apply laneEvent_within (subIn (by decide) m_)
    | with_reducible apply headDown_within (subIn (by decide) m_)
    | with_reducible apply portDown_within (subIn (by decide) m_)
    | split
    | dsimp only

theorem widthChanged_within {w_ : Nat} (m_ : 33556485 ||| w_ = w_) {z0 : State} (s : State) (n : Nat) (h_ : Within w_ z0 s) : Within w_ z0 (widthChanged s n) := by
  unfold widthChanged
  repeat' first
    | with_reducible assumption
    | with_reducible apply Within.ite
    | with_reducible apply laneEvent_within (subIn (by decide) m_)
    | with_reducible apply scEvent_within (subIn (by decide) m_)
    | split
    | dsimp only

theorem lanesForm_within {w_ : Nat} (m_ : 2097152 ||| w_ = w_) {z0 : State} (s : State) (n : Nat) (bad : List Nat) (eq : Bool) (h_ : Within w_ z0 s) : Within w_ z0 (lanesForm s n bad eq) := by
  unfold lanesForm
  repeat' first
    | with_reducible assumption
    | exact Eq.refl _
    | with_reducible apply Within.ite
    | with_reducible apply modLanes_within (subIn (by decide) m_)
    | split
    | dsimp only

theorem linkForms_within {w_ : Nat} (m_ : 6293504 ||| w_ = w_) {z0 : State} (s0 : State) (n : Nat) (w : Nat) (rev : Bool) (bad : List Nat) (eq : Bool) (h_ : Within w_ z0 s0) : Within w_ z0 (linkForms s0 n w rev bad eq) := by
  unfold linkForms
  repeat' first
    | with_reducible assumption
    | exact Eq.refl _
    | with_reducible apply Within.ite
    | with_reducible apply lanesForm_within (subIn (by decide) m_)
    | with_reducible apply modHead_within (subIn (by decide) m_)
    | with_reducible apply modPort_within (subIn (by decide) m_)
    | split
    | dsimp only

theorem failLanes_within {w_ : Nat} (m_ : 2097152 ||| w_ = w_) {z0 : State} (s : State) (n : Nat) (failing : List Nat) (h_ : Within w_ z0 s) : Within w_ z0 (failLanes s n failing) := by
  unfold failLanes
  repeat' first
    | with_reducible assumption
    | with_reducible intro _
    | exact Eq.refl _
    | with_reducible apply modLane_within (subIn (by decide) m_)
    | with_reducible apply forAll_within
    | dsimp only

theorem recover_within {w_ : Nat} (m_ : 41073263 ||| w_ = w_) {z0 : State} (s : State) (n : Nat) (failing : List Nat) (eq : Bool) (h_ : Within w_ z0 s) : Within w_ z0 (recover s n failing eq) := by
  unfold recover
  repeat' first
    | with_reducible assumption
    | exact Eq.refl _
    | with_reducible apply Within.ite
    | with_reducible apply failLanes_within (subIn (by decide) m_)
    | with_reducible apply clearFreeze_within (subIn (by decide) m_)
    | with_reducible apply holdLink_within (subIn (by decide) m_)
    | with_reducible apply abortScans_within (subIn (by decide) m_)
    | with_reducible apply linkFails_within (subIn (by decide) m_)
    | with_reducible apply widthChanged_within (subIn (by decide) m_)
    | with_reducible apply linkForms_within (subIn (by decide) m_)
    | split
    | dsimp only

theorem readmitLane_within {w_ : Nat} (m_ : 274728960 ||| w_ = w_) {z0 : State} (s : State) (l : Nat) (h_ : Within w_ z0 s) : Within w_ z0 (readmitLane s l) := by
  unfold readmitLane
  repeat' first
    | with_reducible assumption
    | exact Eq.refl _
    | with_reducible apply Within.ite
    | with_reducible apply modLane_within (subIn (by decide) m_)
    | with_reducible apply lockPlls_within (subIn (by decide) m_)
    | with_reducible apply modHead_within (subIn (by decide) m_)
    | with_reducible apply modPort_within (subIn (by decide) m_)
    | split
    | dsimp only

theorem scanStatus_within {w_ : Nat} (m_ : 4 ||| w_ = w_) {z0 : State} (s : State) (l : Nat) (st : Nat) (n : Nat) (h_ : Within w_ z0 s) : Within w_ z0 (scanStatus s l st n) := by
  unfold scanStatus
  repeat' first
    | with_reducible assumption
    | with_reducible apply scEvent_within (subIn (by decide) m_)
    | dsimp only

theorem startScan_within {w_ : Nat} (m_ : 2097156 ||| w_ = w_) {z0 : State} (s : State) (l : Nat) (h_ : Within w_ z0 s) : Within w_ z0 (startScan s l) := by
  unfold startScan
  repeat' first
    | with_reducible assumption
    | exact Eq.refl _
    | with_reducible apply Within.ite
    | with_reducible apply scEvent_within (subIn (by decide) m_)
    | with_reducible apply scanStatus_within (subIn (by decide) m_)
    | with_reducible apply modLane_within (subIn (by decide) m_)
    | split
    | dsimp only

theorem takeScanCmd_within {w_ : Nat} (m_ : 2097156 ||| w_ = w_) {z0 : State} (s : State) (l : Nat) (v : Nat) (h_ : Within w_ z0 s) : Within w_ z0 (takeScanCmd s l v) := by
  unfold takeScanCmd
  repeat' first
    | with_reducible assumption
    | with_reducible apply Within.ite
    | with_reducible apply regSet_within (subIn (by decide) m_)
    | with_reducible apply startScan_within (subIn (by decide) m_)
    | split
    | dsimp only

theorem genStep_within {w_ : Nat} (m_ : 2097152 ||| w_ = w_) {z0 : State} (s : State) (l : Nat) (h_ : Within w_ z0 s) : Within w_ z0 (genStep s l) := by
  unfold genStep
  repeat' first
    | with_reducible assumption
    | exact Eq.refl _
    | with_reducible apply modLane_within (subIn (by decide) m_)
    | dsimp only

theorem seedBit_within {w_ : Nat} (m_ : 2097154 ||| w_ = w_) {z0 : State} (s : State) (l : Nat) (b : Bool) (h_ : Within w_ z0 s) : Within w_ z0 (seedBit s l b) := by
  unfold seedBit
  repeat' first
    | with_reducible assumption
    | exact Eq.refl _
    | with_reducible apply Within.ite
    | with_reducible apply modLane_within (subIn (by decide) m_)
    | with_reducible apply bumpFree_within (subIn (by decide) m_)
    | split
    | dsimp only

theorem cleanBit_within {w_ : Nat} (m_ : 2097152 ||| w_ = w_) {z0 : State} (s : State) (l : Nat) (next : Prbs) (h_ : Within w_ z0 s) : Within w_ z0 (cleanBit s l next) := by
  unfold cleanBit
  repeat' first
    | with_reducible assumption
    | exact Eq.refl _
    | with_reducible apply modLane_within (subIn (by decide) m_)
    | dsimp only

theorem reseed_within {w_ : Nat} (m_ : 2097152 ||| w_ = w_) {z0 : State} (s : State) (l : Nat) (h_ : Within w_ z0 s) : Within w_ z0 (reseed s l) := by
  unfold reseed
  repeat' first
    | with_reducible assumption
    | exact Eq.refl _
    | with_reducible apply modLane_within (subIn (by decide) m_)
    | dsimp only

theorem countBit_within {w_ : Nat} (m_ : 2097156 ||| w_ = w_) {z0 : State} (s : State) (l : Nat) (b : Bool) (e : Bool) (inj : Bool) (next : Prbs) (h_ : Within w_ z0 s) : Within w_ z0 (countBit s l b e inj next) := by
  unfold countBit
  repeat' first
    | with_reducible assumption
    | exact Eq.refl _
    | with_reducible apply Within.ite
    | with_reducible apply modLane_within (subIn (by decide) m_)
    | with_reducible apply scEvent_within (subIn (by decide) m_)
    | with_reducible apply reseed_within (subIn (by decide) m_)
    | split
    | dsimp only

theorem takeBit_within {w_ : Nat} (m_ : 2097158 ||| w_ = w_) {z0 : State} (s : State) (l : Nat) (b : Bool) (h_ : Within w_ z0 s) : Within w_ z0 (takeBit s l b) := by
  unfold takeBit
  repeat' first
    | with_reducible assumption
    | with_reducible apply Within.ite
    | with_reducible apply seedBit_within (subIn (by decide) m_)
    | with_reducible apply countBit_within (subIn (by decide) m_)
    | with_reducible apply cleanBit_within (subIn (by decide) m_)
    | with_reducible apply reseed_within (subIn (by decide) m_)
    | split
    | dsimp only

theorem checkBit_within {w_ : Nat} (m_ : 2097158 ||| w_ = w_) {z0 : State} (l : Nat) (s : State) (r : Bool) (h_ : Within w_ z0 s) : Within w_ z0 (checkBit l s r) := by
  unfold checkBit
  repeat' first
    | with_reducible assumption
    | with_reducible apply Within.ite
    | with_reducible apply takeBit_within (subIn (by decide) m_)
    | with_reducible apply genStep_within (subIn (by decide) m_)
    | split
    | dsimp only

theorem startGen_within {w_ : Nat} (m_ : 2097154 ||| w_ = w_) {z0 : State} (s : State) (l : Nat) (h_ : Within w_ z0 s) : Within w_ z0 (startGen s l) := by
  unfold startGen
  repeat' first
    | with_reducible assumption
    | exact Eq.refl _
    | with_reducible apply modLane_within (subIn (by decide) m_)
    | with_reducible apply bumpFree_within (subIn (by decide) m_)
    | dsimp only

theorem takePrbsCtl_within {w_ : Nat} (m_ : 2097158 ||| w_ = w_) {z0 : State} (s0 : State) (l : Nat) (v : Nat) (h_ : Within w_ z0 s0) : Within w_ z0 (takePrbsCtl s0 l v) := by
  unfold takePrbsCtl
  repeat' first
    | with_reducible assumption
    | exact Eq.refl _
    | with_reducible apply Within.ite
    | with_reducible apply regSet_within (subIn (by decide) m_)
    | with_reducible apply startGen_within (subIn (by decide) m_)
    | with_reducible apply reseed_within (subIn (by decide) m_)
    | with_reducible apply modLane_within (subIn (by decide) m_)
    | split
    | dsimp only

theorem loseClock_within {w_ : Nat} (m_ : 1380985711 ||| w_ = w_) {z0 : State} (s : State) (h_ : Within w_ z0 s) : Within w_ z0 (loseClock s) := by
  unfold loseClock
  repeat' first
    | with_reducible assumption
    | exact Eq.refl _
    | with_reducible apply raise_within (subIn (by decide) m_)
    | dsimp only
    | with_reducible apply Within.raw
    | exact .inl (bitIn m_ (by decide))
    | exact .inr (Eq.refl _)

theorem loseLanes_within {w_ : Nat} (m_ : 270532612 ||| w_ = w_) {z0 : State} (s0 : State) (h_ : Within w_ z0 s0) : Within w_ z0 (loseLanes s0) := by
  unfold loseLanes
  repeat' first
    | with_reducible assumption
    | with_reducible intro _
    | exact Eq.refl _
    | with_reducible apply modLane_within (subIn (by decide) m_)
    | with_reducible apply abortScan_within (subIn (by decide) m_)
    | with_reducible apply holdTaps_within (subIn (by decide) m_)
    | with_reducible apply forAll_within
    | dsimp only
    | with_reducible apply Within.raw
    | exact .inl (bitIn m_ (by decide))
    | exact .inr (Eq.refl _)

/-! The meanings: which parts of the state each can change. -/

theorem execLaneLossOfLock_within {w_ : Nat} (m_ : 309508719 ||| w_ = w_) (l : Nat) (pll : Bool) (eq : Bool) (s : State) : Touches w_ s (execLaneLossOfLock l pll eq s) := by
  unfold execLaneLossOfLock
  repeat' first
    | with_reducible assumption
    | with_reducible exact Within.refl _ _
    | with_reducible apply Touches.next
    | with_reducible apply Touches.ite
    | with_reducible apply Touches.onElement
    | with_reducible intro _
    | exact Eq.refl _
    | with_reducible apply Within.ite
    | with_reducible apply modLane_within (subIn (by decide) m_)
    | with_reducible apply abortScan_within (subIn (by decide) m_)
    | with_reducible apply holdTaps_within (subIn (by decide) m_)
    | with_reducible apply scEvent_within (subIn (by decide) m_)
    | with_reducible apply recover_within (subIn (by decide) m_)
    | with_reducible apply Within.foldl
    | with_reducible apply Within.foldl_snd
    | split
    | dsimp only
    | with_reducible apply Within.raw
    | exact .inl (bitIn m_ (by decide))
    | exact .inr (Eq.refl _)

theorem execLaneRetest_within {w_ : Nat} (m_ : 2097152 ||| w_ = w_) (l : Nat) (s : State) : Touches w_ s (execLaneRetest l s) := by
  unfold execLaneRetest
  repeat' first
    | with_reducible assumption
    | with_reducible exact Within.refl _ _
    | with_reducible apply Touches.next
    | with_reducible apply Touches.ite
    | with_reducible apply Touches.onElement
    | exact Eq.refl _
    | with_reducible apply Within.ite
    | with_reducible apply modLane_within (subIn (by decide) m_)
    | split
    | dsimp only

theorem execLaneRetestDone_within {w_ : Nat} (m_ : 274728960 ||| w_ = w_) (l : Nat) (errors : Nat) (lock : Bool) (s : State) : Touches w_ s (execLaneRetestDone l errors lock s) := by
  unfold execLaneRetestDone
  repeat' first
    | with_reducible assumption
    | with_reducible exact Within.refl _ _
    | with_reducible apply Touches.next
    | with_reducible apply Touches.ite
    | with_reducible apply Touches.onElement
    | exact Eq.refl _
    | with_reducible apply Within.ite
    | with_reducible apply modLane_within (subIn (by decide) m_)
    | with_reducible apply readmitLane_within (subIn (by decide) m_)
    | split
    | dsimp only

theorem execAutoWidenRecovery_within {w_ : Nat} (m_ : 41073263 ||| w_ = w_) (ln : Nat) (failing : List Nat) (eq : Bool) (s : State) : Touches w_ s (execAutoWidenRecovery ln failing eq s) := by
  unfold execAutoWidenRecovery
  repeat' first
    | with_reducible assumption
    | with_reducible exact Within.refl _ _
    | with_reducible apply Touches.next
    | with_reducible apply Touches.ite
    | with_reducible apply Touches.onElement
    | with_reducible apply Within.ite
    | with_reducible apply recover_within (subIn (by decide) m_)
    | split
    | dsimp only

theorem execLinkRecovery_within {w_ : Nat} (m_ : 41073263 ||| w_ = w_) (ln : Nat) (failing : List Nat) (eq : Bool) (s : State) : Touches w_ s (execLinkRecovery ln failing eq s) := by
  unfold execLinkRecovery
  repeat' first
    | with_reducible assumption
    | with_reducible exact Within.refl _ _
    | with_reducible apply Touches.next
    | with_reducible apply Touches.ite
    | with_reducible apply Touches.onElement
    | with_reducible apply Within.ite
    | with_reducible apply recover_within (subIn (by decide) m_)
    | split
    | dsimp only

theorem execEyeScanStart_within {w_ : Nat} (m_ : 371197989 ||| w_ = w_) (path : Nat) (l : Nat) (v : Word) (s : State) : Touches w_ s (execEyeScanStart path l v s) := by
  unfold execEyeScanStart
  repeat' first
    | with_reducible assumption
    | with_reducible exact Within.refl _ _
    | with_reducible apply Touches.next
    | with_reducible apply Touches.ite
    | with_reducible apply Touches.onElement
    | with_reducible intro _
    | with_reducible apply Within.ite
    | with_reducible apply writeNow_within (subIn (by decide) m_)
    | with_reducible apply takeScanCmd_within (subIn (by decide) m_)
    | split
    | dsimp only

theorem execEyeScanPoint_within {w_ : Nat} (m_ : 2097156 ||| w_ = w_) (l : Nat) (errors : Nat) (s : State) : Touches w_ s (execEyeScanPoint l errors s) := by
  unfold execEyeScanPoint
  repeat' first
    | with_reducible assumption
    | with_reducible exact Within.refl _ _
    | with_reducible apply Touches.next
    | with_reducible apply Touches.ite
    | with_reducible apply Touches.onElement
    | exact Eq.refl _
    | with_reducible apply Within.ite
    | with_reducible apply modLane_within (subIn (by decide) m_)
    | with_reducible apply scanStatus_within (subIn (by decide) m_)
    | split
    | dsimp only

theorem execPrbsLock_within {w_ : Nat} (m_ : 2097158 ||| w_ = w_) (l : Nat) (rx : List Bool) (s : State) : Touches w_ s (execPrbsLock l rx s) := by
  unfold execPrbsLock
  repeat' first
    | with_reducible assumption
    | with_reducible exact Within.refl _ _
    | with_reducible apply Touches.next
    | with_reducible apply Touches.ite
    | with_reducible apply Touches.onElement
    | with_reducible intro _
    | with_reducible apply Within.ite
    | with_reducible apply checkBit_within (subIn (by decide) m_)
    | with_reducible apply Within.foldl
    | with_reducible apply Within.foldl_snd
    | split
    | dsimp only

theorem execPrbsSyncLoss_within {w_ : Nat} (m_ : 2097158 ||| w_ = w_) (l : Nat) (rx : List Bool) (s : State) : Touches w_ s (execPrbsSyncLoss l rx s) := by
  unfold execPrbsSyncLoss
  repeat' first
    | with_reducible assumption
    | with_reducible exact Within.refl _ _
    | with_reducible apply Touches.next
    | with_reducible apply Touches.ite
    | with_reducible apply Touches.onElement
    | with_reducible intro _
    | with_reducible apply Within.ite
    | with_reducible apply checkBit_within (subIn (by decide) m_)
    | with_reducible apply Within.foldl
    | with_reducible apply Within.foldl_snd
    | split
    | dsimp only

theorem execReferenceLoss_within {w_ : Nat} (m_ : 1383082863 ||| w_ = w_) (s : State) : Touches w_ s (execReferenceLoss s) := by
  unfold execReferenceLoss
  repeat' first
    | with_reducible assumption
    | with_reducible exact Within.refl _ _
    | with_reducible apply Touches.next
    | with_reducible apply Touches.ite
    | exact Eq.refl _
    | with_reducible apply Within.ite
    | with_reducible apply loseLanes_within (subIn (by decide) m_)
    | with_reducible apply loseClock_within (subIn (by decide) m_)
    | with_reducible apply setLine_within (subIn (by decide) m_)
    | split
    | dsimp only
    | with_reducible apply Within.raw
    | exact .inl (bitIn m_ (by decide))
    | exact .inr (Eq.refl _)

theorem execCorePllLoss_within {w_ : Nat} (m_ : 1380985711 ||| w_ = w_) (s : State) : Touches w_ s (execCorePllLoss s) := by
  unfold execCorePllLoss
  repeat' first
    | with_reducible assumption
    | with_reducible exact Within.refl _ _
    | with_reducible apply Touches.next
    | with_reducible apply Touches.ite
    | with_reducible apply Within.ite
    | with_reducible apply loseClock_within (subIn (by decide) m_)
    | split
    | dsimp only

end Sys2Proof.Machine
end

