-- ==== Sys2Proof/Laws/WithinThermal.lean ====
section
/-! SUPPORT. Which parts of the state the operations of Machine/Thermal.lean can change. -/

set_option Elab.async false

namespace Sys2Proof.Machine

theorem modThm_within {w_ : Nat} (m_ : 134217728 ||| w_ = w_) {z0 : State} (s : State) (g : Thermal → Thermal) (h_ : Within w_ z0 s) : Within w_ z0 (modThm s g) := by
  unfold modThm
  repeat' first
    | with_reducible assumption
    | exact Eq.refl _
    | dsimp only
    | with_reducible apply Within.raw
    | exact .inl (bitIn m_ (by decide))
    | exact .inr (Eq.refl _)

theorem takeReading_within {w_ : Nat} (m_ : 167774209 ||| w_ = w_) {z0 : State} (old : State) (s : State) (e : Int × Nat) (h_ : Within w_ z0 s) : Within w_ z0 (takeReading old s e) := by
  unfold takeReading
  repeat' first
    | with_reducible assumption
    | exact Eq.refl _
    | with_reducible apply Within.ite
    | with_reducible apply modThm_within (subIn (by decide) m_)
    | with_reducible apply event_within (subIn (by decide) m_)
    | split
    | dsimp only

theorem takeReadings_within {w_ : Nat} (m_ : 167774209 ||| w_ = w_) {z0 : State} (s : State) (rs : List Int) (h_ : Within w_ z0 s) : Within w_ z0 (takeReadings s rs) := by
  unfold takeReadings
  repeat' first
    | with_reducible assumption
    | with_reducible intro _
    | exact Eq.refl _
    | with_reducible apply modThm_within (subIn (by decide) m_)
    | with_reducible apply takeReading_within (subIn (by decide) m_)
    | with_reducible apply Within.foldl
    | with_reducible apply Within.foldl_snd2
    | with_reducible apply Within.foldl_snd
    | with_reducible apply Within.foldl_fst
    | dsimp only

theorem runModel_within {w_ : Nat} (m_ : 134217728 ||| w_ = w_) {z0 : State} (old : State) (s : State) (h_ : Within w_ z0 s) : Within w_ z0 (runModel old s) := by
  unfold runModel
  repeat' first
    | with_reducible assumption
    | with_reducible intro _
    | exact Eq.refl _
    | with_reducible apply Within.ite
    | with_reducible apply modThm_within (subIn (by decide) m_)
    | with_reducible apply forAll_within
    | split
    | dsimp only

theorem judgeTier_within {w_ : Nat} (m_ : 167774213 ||| w_ = w_) {z0 : State} (s : State) (t : Nat) (h_ : Within w_ z0 s) : Within w_ z0 (judgeTier s t) := by
  unfold judgeTier
  repeat' first
    | with_reducible assumption
    | exact Eq.refl _
    | with_reducible apply Within.ite
    | with_reducible apply modThm_within (subIn (by decide) m_)
    | with_reducible apply event_within (subIn (by decide) m_)
    | with_reducible apply scEvent_within (subIn (by decide) m_)
    | split
    | dsimp only

theorem setBands_within {w_ : Nat} (m_ : 288 ||| w_ = w_) {z0 : State} (s : State) (h_ : Within w_ z0 s) : Within w_ z0 (setBands s) := by
  unfold setBands
  repeat' first
    | with_reducible assumption
    | with_reducible intro _
    | exact Eq.refl _
    | with_reducible apply Within.ite
    | with_reducible apply changeBand_within (subIn (by decide) m_)
    | with_reducible apply forAll_within
    | split
    | dsimp only

theorem noteStep_within {w_ : Nat} (m_ : 33556485 ||| w_ = w_) {z0 : State} (s : State) (f : Nat) (h_ : Within w_ z0 s) : Within w_ z0 (noteStep s f) := by
  unfold noteStep
  repeat' first
    | with_reducible assumption
    | with_reducible apply event_within (subIn (by decide) m_)
    | with_reducible apply scEvent_within (subIn (by decide) m_)
    | dsimp only

theorem floorFlume_within {w_ : Nat} (m_ : 33556517 ||| w_ = w_) {z0 : State} (s : State) (f : Nat) (h_ : Within w_ z0 s) : Within w_ z0 (floorFlume s f) := by
  unfold floorFlume
  repeat' first
    | with_reducible assumption
    | exact Eq.refl _
    | with_reducible apply Within.ite
    | with_reducible apply noteStep_within (subIn (by decide) m_)
    | with_reducible apply modFlume_within (subIn (by decide) m_)
    | split
    | dsimp only

theorem floorMill_within {w_ : Nat} (m_ : 34605061 ||| w_ = w_) {z0 : State} (s : State) (m : Nat) (h_ : Within w_ z0 s) : Within w_ z0 (floorMill s m) := by
  unfold floorMill
  repeat' first
    | with_reducible assumption
    | exact Eq.refl _
    | with_reducible apply Within.ite
    | with_reducible apply noteStep_within (subIn (by decide) m_)
    | with_reducible apply modMill_within (subIn (by decide) m_)
    | split
    | dsimp only

theorem checkTrip_within {w_ : Nat} (m_ : 1112550255 ||| w_ = w_) {z0 : State} (s : State) (h_ : Within w_ z0 s) : Within w_ z0 (checkTrip s) := by
  unfold checkTrip
  repeat' first
    | with_reducible assumption
    | with_reducible apply Within.ite
    | with_reducible apply setLine_within (subIn (by decide) m_)
    | with_reducible apply raise_within (subIn (by decide) m_)
    | split
    | dsimp only

theorem noteHottest_within {w_ : Nat} (m_ : 134217732 ||| w_ = w_) {z0 : State} (s : State) (h_ : Within w_ z0 s) : Within w_ z0 (noteHottest s) := by
  unfold noteHottest
  repeat' first
    | with_reducible assumption
    | exact Eq.refl _
    | with_reducible apply Within.ite
    | with_reducible apply modThm_within (subIn (by decide) m_)
    | with_reducible apply scEvent_within (subIn (by decide) m_)
    | split
    | dsimp only

theorem coolRaise_within {w_ : Nat} (m_ : 1246767983 ||| w_ = w_) {z0 : State} (s : State) (k : Nat) (h_ : Within w_ z0 s) : Within w_ z0 (coolRaise s k) := by
  unfold coolRaise
  repeat' first
    | with_reducible assumption
    | exact Eq.refl _
    | with_reducible apply Within.ite
    | with_reducible apply modThm_within (subIn (by decide) m_)
    | with_reducible apply scEvent_within (subIn (by decide) m_)
    | with_reducible apply setLine_within (subIn (by decide) m_)
    | with_reducible apply raise_within (subIn (by decide) m_)
    | split
    | dsimp only

theorem coolEnd_within {w_ : Nat} (m_ : 167772160 ||| w_ = w_) {z0 : State} (s : State) (found : List Nat) (good : Nat) (h_ : Within w_ z0 s) : Within w_ z0 (coolEnd s found good) := by
  unfold coolEnd
  repeat' first
    | with_reducible assumption
    | exact Eq.refl _
    | with_reducible apply Within.ite
    | with_reducible apply modThm_within (subIn (by decide) m_)
    | with_reducible apply setLine_within (subIn (by decide) m_)
    | split
    | dsimp only

theorem coolSuspended_within {w_ : Nat} (m_ : 167774209 ||| w_ = w_) {z0 : State} (s : State) (h_ : Within w_ z0 s) : Within w_ z0 (coolSuspended s) := by
  unfold coolSuspended
  repeat' first
    | with_reducible assumption
    | exact Eq.refl _
    | with_reducible apply Within.ite
    | with_reducible apply event_within (subIn (by decide) m_)
    | with_reducible apply modThm_within (subIn (by decide) m_)
    | split
    | dsimp only

/-! The meanings: which parts of the state each can change. -/

theorem execThrottleStepDown_within {w_ : Nat} (m_ : 1048608 ||| w_ = w_) (f : Nat) (mill : Bool) (s : State) : Touches w_ s (execThrottleStepDown f mill s) := by
  unfold execThrottleStepDown
  repeat' first
    | with_reducible assumption
    | with_reducible exact Within.refl _ _
    | with_reducible apply Touches.next
    | with_reducible apply Touches.ite
    | with_reducible apply Touches.onElement
    | exact Eq.refl _
    | with_reducible apply Within.ite
    | with_reducible apply modMill_within (subIn (by decide) m_)
    | with_reducible apply modFlume_within (subIn (by decide) m_)
    | split
    | dsimp only

theorem execThermalTrip_within {w_ : Nat} (m_ : 1112550255 ||| w_ = w_) (src : Nat) (s : State) : Touches w_ s (execThermalTrip src s) := by
  unfold execThermalTrip
  repeat' first
    | with_reducible assumption
    | with_reducible exact Within.refl _ _
    | with_reducible apply Touches.next
    | with_reducible apply Touches.ite
    | with_reducible apply Touches.onElement
    | with_reducible apply Within.ite
    | with_reducible apply raise_within (subIn (by decide) m_)
    | split
    | dsimp only

theorem execThermalEvaluation_within {w_ : Nat} (m_ : 1246767983 ||| w_ = w_) (readings : List Int) (s : State) : Touches w_ s (execThermalEvaluation readings s) := by
  unfold execThermalEvaluation
  repeat' first
    | with_reducible assumption
    | with_reducible exact Within.refl _ _
    | with_reducible apply Touches.next
    | with_reducible apply Touches.ite
    | with_reducible apply Touches.onElement
    | with_reducible intro _
    | with_reducible apply Within.ite
    | with_reducible apply takeReadings_within (subIn (by decide) m_)
    | with_reducible apply checkTrip_within (subIn (by decide) m_)
    | with_reducible apply runModel_within (subIn (by decide) m_)
    | with_reducible apply judgeTier_within (subIn (by decide) m_)
    | with_reducible apply setBands_within (subIn (by decide) m_)
    | with_reducible apply floorFlume_within (subIn (by decide) m_)
    | with_reducible apply floorMill_within (subIn (by decide) m_)
    | with_reducible apply noteHottest_within (subIn (by decide) m_)
    | with_reducible apply forAll_within
    | split
    | dsimp only

theorem execCoolantCheck_within {w_ : Nat} (m_ : 1246767983 ||| w_ = w_) (power : Nat) (tin : Int) (tout : Int) (s : State) : Touches w_ s (execCoolantCheck power tin tout s) := by
  unfold execCoolantCheck
  repeat' first
    | with_reducible assumption
    | with_reducible exact Within.refl _ _
    | with_reducible apply Touches.next
    | with_reducible apply Touches.ite
    | with_reducible intro _
    | exact Eq.refl _
    | with_reducible apply Within.ite
    | with_reducible apply modThm_within (subIn (by decide) m_)
    | with_reducible apply coolSuspended_within (subIn (by decide) m_)
    | with_reducible apply coolRaise_within (subIn (by decide) m_)
    | with_reducible apply coolEnd_within (subIn (by decide) m_)
    | with_reducible apply event_within (subIn (by decide) m_)
    | with_reducible apply Within.foldl
    | with_reducible apply Within.foldl_snd
    | split
    | dsimp only

end Sys2Proof.Machine
end

