-- ==== Sys2Proof/Laws/WithinFaults.lean ====
section
/-! SUPPORT. Which parts of the state the operations of Machine/Faults.lean can change. -/

set_option Elab.async false

namespace Sys2Proof.Machine

theorem endCondition_within {w_ : Nat} (m_ : 301989888 ||| w_ = w_) {z0 : State} (s : State) (g : Nat) (i : Nat) (h_ : Within w_ z0 s) : Within w_ z0 (endCondition s g i) := by
  unfold endCondition
  repeat' first
    | with_reducible assumption
    | exact Eq.refl _
    | with_reducible apply Within.ite
    | with_reducible apply setLine_within (subIn (by decide) m_)
    | split
    | dsimp only
    | with_reducible apply Within.raw
    | exact .inl (bitIn m_ (by decide))
    | exact .inr (Eq.refl _)

theorem raiseLine_within {w_ : Nat} (m_ : 1112714095 ||| w_ = w_) {z0 : State} (s : State) (g : Nat) (i : Nat) (sev : Nat) (unit : Nat) (detail : Nat) (h_ : Within w_ z0 s) : Within w_ z0 (raiseLine s g i sev unit detail) := by
  unfold raiseLine
  repeat' first
    | with_reducible assumption
    | with_reducible apply Within.ite
    | with_reducible apply raise_within (subIn (by decide) m_)
    | with_reducible apply leaveDispatch_within (subIn (by decide) m_)
    | split
    | dsimp only

theorem reloadSource_within {w_ : Nat} (m_ : 33554432 ||| w_ = w_) {z0 : State} (s : State) (k : Nat) (h_ : Within w_ z0 s) : Within w_ z0 (reloadSource s k) := by
  unfold reloadSource
  repeat' first
    | with_reducible assumption
    | exact Eq.refl _
    | with_reducible apply modSource_within (subIn (by decide) m_)
    | dsimp only

theorem wakeFromFurl_within {w_ : Nat} (m_ : 32 ||| w_ = w_) {z0 : State} (s : State) (f : Nat) (h_ : Within w_ z0 s) : Within w_ z0 (wakeFromFurl s f) := by
  unfold wakeFromFurl
  repeat' first
    | with_reducible assumption
    | exact Eq.refl _
    | with_reducible apply modFlume_within (subIn (by decide) m_)
    | dsimp only

theorem endHalted_within {w_ : Nat} (m_ : 1286144 ||| w_ = w_) {z0 : State} (s : State) (m : Nat) (h_ : Within w_ z0 s) : Within w_ z0 (endHalted s m) := by
  unfold endHalted
  repeat' first
    | with_reducible assumption
    | with_reducible apply endRunning_within (subIn (by decide) m_)
    | dsimp only

theorem enablePort_within {w_ : Nat} (m_ : 4194304 ||| w_ = w_) {z0 : State} (s : State) (k : Nat) (h_ : Within w_ z0 s) : Within w_ z0 (enablePort s k) := by
  unfold enablePort
  repeat' first
    | with_reducible assumption
    | exact Eq.refl _
    | with_reducible apply modPort_within (subIn (by decide) m_)
    | dsimp only

theorem safeExit_within {w_ : Nat} (m_ : 1112778785 ||| w_ = w_) {z0 : State} (s : State) (h_ : Within w_ z0 s) : Within w_ z0 (safeExit s) := by
  unfold safeExit
  repeat' first
    | with_reducible assumption
    | with_reducible intro _
    | exact Eq.refl _
    | with_reducible apply emit_within (subIn (by decide) m_)
    | with_reducible apply wakeFromFurl_within (subIn (by decide) m_)
    | with_reducible apply endHalted_within (subIn (by decide) m_)
    | with_reducible apply refillMills_within (subIn (by decide) m_)
    | with_reducible apply returnCredits_within (subIn (by decide) m_)
    | with_reducible apply enablePort_within (subIn (by decide) m_)
    | with_reducible apply forAll_within
    | dsimp only
    | with_reducible apply Within.raw
    | exact .inl (bitIn m_ (by decide))
    | exact .inr (Eq.refl _)

theorem clearLatch_within {w_ : Nat} (m_ : 1112778785 ||| w_ = w_) {z0 : State} (s : State) (k : Nat) (h_ : Within w_ z0 s) : Within w_ z0 (clearLatch s k) := by
  unfold clearLatch
  repeat' first
    | with_reducible assumption
    | exact Eq.refl _
    | with_reducible apply Within.ite
    | with_reducible apply modSource_within (subIn (by decide) m_)
    | with_reducible apply safeExit_within (subIn (by decide) m_)
    | split
    | dsimp only
    | with_reducible apply Within.raw
    | exact .inl (bitIn m_ (by decide))
    | exact .inr (Eq.refl _)

theorem clearResult_within {w_ : Nat} (m_ : 4 ||| w_ = w_) {z0 : State} (s : State) (r : Nat) (h_ : Within w_ z0 s) : Within w_ z0 (clearResult s r) := by
  unfold clearResult
  repeat' first
    | with_reducible assumption
    | with_reducible apply scEvent_within (subIn (by decide) m_)
    | dsimp only

theorem takeFltClear_within {w_ : Nat} (m_ : 1112778789 ||| w_ = w_) {z0 : State} (s : State) (v : Nat) (h_ : Within w_ z0 s) : Within w_ z0 (takeFltClear s v) := by
  unfold takeFltClear
  repeat' first
    | with_reducible assumption
    | with_reducible apply Within.ite
    | with_reducible apply clearResult_within (subIn (by decide) m_)
    | with_reducible apply clearLatch_within (subIn (by decide) m_)
    | split
    | dsimp only

/-! The meanings: which parts of the state each can change. -/

theorem execErrorLineEvent_within {w_ : Nat} (m_ : 1381149551 ||| w_ = w_) (g : Nat) (i : Nat) (sev : Nat) (unit : Nat) (detail : Nat) (line : LineChange) (tlp : Option TlpError) (s : State) : Touches w_ s (execErrorLineEvent g i sev unit detail line tlp s) := by
  unfold execErrorLineEvent
  repeat' first
    | with_reducible assumption
    | with_reducible exact Within.refl _ _
    | with_reducible apply Touches.next
    | with_reducible apply Touches.ite
    | with_reducible apply Touches.onElement
    | exact Eq.refl _
    | with_reducible apply Within.ite
    | with_reducible apply tlpFault_within (subIn (by decide) m_)
    | with_reducible apply raiseLine_within (subIn (by decide) m_)
    | with_reducible apply setLine_within (subIn (by decide) m_)
    | with_reducible apply endCondition_within (subIn (by decide) m_)
    | split
    | dsimp only

theorem execWindowClose_within {w_ : Nat} (m_ : 33554432 ||| w_ = w_) (g : Nat) (i : Nat) (s : State) : Touches w_ s (execWindowClose g i s) := by
  unfold execWindowClose
  repeat' first
    | with_reducible assumption
    | with_reducible exact Within.refl _ _
    | with_reducible apply Touches.next
    | with_reducible apply Touches.ite
    | with_reducible apply Touches.onElement
    | exact Eq.refl _
    | with_reducible apply Within.ite
    | with_reducible apply modSource_within (subIn (by decide) m_)
    | split
    | dsimp only

theorem execCollectorParitySweep_within {w_ : Nat} (m_ : 1112550255 ||| w_ = w_) (bad : List Nat) (s : State) : Touches w_ s (execCollectorParitySweep bad s) := by
  unfold execCollectorParitySweep
  repeat' first
    | with_reducible assumption
    | with_reducible exact Within.refl _ _
    | with_reducible apply Touches.next
    | with_reducible apply Touches.ite
    | with_reducible intro _
    | with_reducible apply Within.ite
    | with_reducible apply raise_within (subIn (by decide) m_)
    | with_reducible apply reloadSource_within (subIn (by decide) m_)
    | with_reducible apply forAll_within
    | split
    | dsimp only

theorem execFltClear_within {w_ : Nat} (m_ : 1112778789 ||| w_ = w_) (path : Nat) (v : Word) (s : State) : Touches w_ s (execFltClear path v s) := by
  unfold execFltClear
  repeat' first
    | with_reducible assumption
    | with_reducible exact Within.refl _ _
    | with_reducible apply Touches.next
    | with_reducible apply Touches.ite
    | with_reducible apply Touches.onElement
    | with_reducible apply Within.ite
    | with_reducible apply takeFltClear_within (subIn (by decide) m_)
    | split
    | dsimp only

end Sys2Proof.Machine
end

