-- ==== Sys2Proof/Laws/WithinRegAccess.lean ====
section
/-! SUPPORT. Which parts of the state the operations of Machine/RegAccess.lean can change. -/

set_option Elab.async false

namespace Sys2Proof.Machine

theorem takeHold_within {w_ : Nat} (m_ : 67108864 ||| w_ = w_) {z0 : State} (s : State) (path : Nat) (v : Nat) (h_ : Within w_ z0 s) : Within w_ z0 (takeHold s path v) := by
  unfold takeHold
  repeat' first
    | with_reducible assumption
    | exact Eq.refl _
    | with_reducible apply Within.ite
    | split
    | dsimp only
    | with_reducible apply Within.raw
    | exact .inl (bitIn m_ (by decide))
    | exact .inr (Eq.refl _)

theorem takeCommit_within {w_ : Nat} (m_ : 100665349 ||| w_ = w_) {z0 : State} (s : State) (path : Nat) (h_ : Within w_ z0 s) : Within w_ z0 (takeCommit s path) := by
  unfold takeCommit
  repeat' first
    | with_reducible assumption
    | exact Eq.refl _
    | with_reducible apply Within.ite
    | with_reducible apply accessFault_within (subIn (by decide) m_)
    | split
    | dsimp only
    | with_reducible apply Within.raw
    | exact .inl (bitIn m_ (by decide))
    | exact .inr (Eq.refl _)

theorem guardCompare_within {w_ : Nat} (m_ : 100665349 ||| w_ = w_) {z0 : State} (s : State) (crc : Nat) (h_ : Within w_ z0 s) : Within w_ z0 (guardCompare s crc) := by
  unfold guardCompare
  repeat' first
    | with_reducible assumption
    | exact Eq.refl _
    | with_reducible apply Within.ite
    | with_reducible apply setLine_within (subIn (by decide) m_)
    | with_reducible apply scEvent_within (subIn (by decide) m_)
    | with_reducible apply event_within (subIn (by decide) m_)
    | split
    | dsimp only
    | with_reducible apply Within.raw
    | exact .inl (bitIn m_ (by decide))
    | exact .inr (Eq.refl _)

theorem setMailbox_within {w_ : Nat} (m_ : 67108864 ||| w_ = w_) {z0 : State} (s : State) (path : Nat) (m : Mailbox) (h_ : Within w_ z0 s) : Within w_ z0 (setMailbox s path m) := by
  unfold setMailbox
  repeat' first
    | with_reducible assumption
    | exact Eq.refl _
    | dsimp only
    | with_reducible apply Within.raw
    | exact .inl (bitIn m_ (by decide))
    | exact .inr (Eq.refl _)

theorem takeSelect_within {w_ : Nat} (m_ : 67108864 ||| w_ = w_) {z0 : State} (s : State) (path : Nat) (v : Word) (h_ : Within w_ z0 s) : Within w_ z0 (takeSelect s path v) := by
  unfold takeSelect
  repeat' first
    | with_reducible assumption
    | with_reducible apply setMailbox_within (subIn (by decide) m_)
    | dsimp only

theorem classWrite_within {w_ : Nat} (m_ : 4 ||| w_ = w_) {z0 : State} (s : State) (b : Blk) (i : Nat) (off : Nat) (v : Word) (h_ : Within w_ z0 s) : Within w_ z0 (classWrite s b i off v).1 := by
  unfold classWrite
  repeat' first
    | with_reducible assumption
    | exact Eq.refl _
    | with_reducible apply Within.ite
    | with_reducible apply Within.ite_fst
    | with_reducible apply scClear_within (subIn (by decide) m_)
    | with_reducible apply regSet_within (subIn (by decide) m_)
    | split
    | dsimp only

theorem takeSrcCfg_within {w_ : Nat} (m_ : 100665349 ||| w_ = w_) {z0 : State} (s : State) (path : Nat) (v : Nat) (h_ : Within w_ z0 s) : Within w_ z0 (takeSrcCfg s path v) := by
  unfold takeSrcCfg
  repeat' first
    | with_reducible assumption
    | exact Eq.refl _
    | with_reducible apply Within.ite
    | with_reducible apply accessFault_within (subIn (by decide) m_)
    | with_reducible apply modSource_within (subIn (by decide) m_)
    | split
    | refine Within.snd (by assumption) ?_
    | dsimp only

theorem takeStaged_within {w_ : Nat} (m_ : 128 ||| w_ = w_) {z0 : State} (s : State) (f : Nat) (k : Nat) (v : Word) (h_ : Within w_ z0 s) : Within w_ z0 (takeStaged s f k v).1 := by
  unfold takeStaged
  repeat' first
    | with_reducible assumption
    | exact Eq.refl _
    | with_reducible apply Within.ite
    | with_reducible apply Within.ite_fst
    | with_reducible apply modBay_within (subIn (by decide) m_)
    | split
    | dsimp only

theorem followSequencer_within {w_ : Nat} (m_ : 268435488 ||| w_ = w_) {z0 : State} (s : State) (h_ : Within w_ z0 s) : Within w_ z0 (followSequencer s) := by
  unfold followSequencer
  repeat' first
    | with_reducible assumption
    | with_reducible intro _
    | with_reducible apply Within.ite
    | with_reducible apply wakeDevice_within (subIn (by decide) m_)
    | with_reducible apply wakeFlume_within (subIn (by decide) m_)
    | with_reducible apply forAll_within
    | split
    | dsimp only

theorem takeLanCtl_within {w_ : Nat} (m_ : 2097156 ||| w_ = w_) {z0 : State} (s : State) (l : Nat) (v : Nat) (h_ : Within w_ z0 s) : Within w_ z0 (takeLanCtl s l v) := by
  unfold takeLanCtl
  repeat' first
    | with_reducible assumption
    | exact Eq.refl _
    | with_reducible apply Within.ite
    | with_reducible apply holdTaps_within (subIn (by decide) m_)
    | with_reducible apply modLane_within (subIn (by decide) m_)
    | with_reducible apply regSet_within (subIn (by decide) m_)
    | split
    | dsimp only

theorem takeLetCtl_within {w_ : Nat} (m_ : 39856751 ||| w_ = w_) {z0 : State} (s : State) (k : Nat) (v : Nat) (h_ : Within w_ z0 s) : Within w_ z0 (takeLetCtl s k v) := by
  unfold takeLetCtl
  repeat' first
    | with_reducible assumption
    | with_reducible apply Within.ite
    | with_reducible apply regSet_within (subIn (by decide) m_)
    | with_reducible apply portDown_within (subIn (by decide) m_)
    | split
    | dsimp only

theorem takeWord_within {w_ : Nat} (m_ : 2004073199 ||| w_ = w_) {z0 : State} (s : State) (path : Nat) (off : Nat) (v : Word) (loop : LoopRes) (h_ : Within w_ z0 s) : Within w_ z0 (takeWord s path off v loop).1 := by
  unfold takeWord
  repeat' first
    | with_reducible assumption
    | with_reducible intro _
    | exact Eq.refl _
    | with_reducible apply Within.ite
    | with_reducible apply Within.ite_fst
    | with_reducible apply classWrite_within (subIn (by decide) m_)
    | with_reducible apply takeFltClear_within (subIn (by decide) m_)
    | with_reducible apply takeSrcCfg_within (subIn (by decide) m_)
    | with_reducible apply takeHold_within (subIn (by decide) m_)
    | with_reducible apply takeCommit_within (subIn (by decide) m_)
    | with_reducible apply takeSelect_within (subIn (by decide) m_)
    | with_reducible apply doorbell_within (subIn (by decide) m_)
    | with_reducible apply takeTail_within (subIn (by decide) m_)
    | with_reducible apply takeHead_within (subIn (by decide) m_)
    | with_reducible apply takeRunReq_within (subIn (by decide) m_)
    | with_reducible apply followSequencer_within (subIn (by decide) m_)
    | with_reducible apply takeFusCmd_within (subIn (by decide) m_)
    | with_reducible apply takeFlmCtl_within (subIn (by decide) m_)
    | with_reducible apply modFlume_within (subIn (by decide) m_)
    | with_reducible apply updateWeir_within (subIn (by decide) m_)
    | with_reducible apply takeMapApply_within (subIn (by decide) m_)
    | with_reducible apply takeTrnCtl_within (subIn (by decide) m_)
    | with_reducible apply takeTrnCmd_within (subIn (by decide) m_)
    | with_reducible apply takeStaged_within (subIn (by decide) m_)
    | with_reducible apply takeMilCtl_within (subIn (by decide) m_)
    | with_reducible apply takeRngCmd_within (subIn (by decide) m_)
    | with_reducible apply takeLetCtl_within (subIn (by decide) m_)
    | with_reducible apply takePage_within (subIn (by decide) m_)
    | with_reducible apply takeLanCtl_within (subIn (by decide) m_)
    | with_reducible apply takePrbsCtl_within (subIn (by decide) m_)
    | with_reducible apply takeScanCmd_within (subIn (by decide) m_)
    | split
    | dsimp only

theorem takeWords_within {w_ : Nat} (m_ : 2004073199 ||| w_ = w_) {z0 : State} (s : State) (path : Nat) (off : Nat) (ws : List Word) (loop : LoopRes) (h_ : Within w_ z0 s) : Within w_ z0 (takeWords s path off ws loop) := by
  unfold takeWords
  repeat' first
    | with_reducible assumption
    | with_reducible intro _
    | with_reducible apply Within.ite
    | with_reducible apply takeWord_within (subIn (by decide) m_)
    | with_reducible apply accessFault_within (subIn (by decide) m_)
    | with_reducible apply Within.foldl
    | with_reducible apply Within.foldl_snd2
    | with_reducible apply Within.foldl_snd
    | with_reducible apply Within.foldl_fst
    | split
    | refine Within.snd (by assumption) ?_
    | dsimp only

theorem arriveWrite_within {w_ : Nat} (m_ : 4294967295 ||| w_ = w_) {z0 : State} (s : State) (path : Nat) (off : Nat) (ws : List Word) (env : StartEnv) (h_ : Within w_ z0 s) : Within w_ z0 (arriveWrite s path off ws env) := by
  unfold arriveWrite
  repeat' first
    | with_reducible assumption
    | with_reducible intro _
    | exact Eq.refl _
    | with_reducible apply Within.ite
    | with_reducible apply takeReset_within (subIn (by decide) m_)
    | with_reducible apply takeWords_within (subIn (by decide) m_)
    | with_reducible apply accessFault_within (subIn (by decide) m_)
    | with_reducible apply wakePort_within (subIn (by decide) m_)
    | with_reducible apply Within.foldl
    | with_reducible apply Within.foldl_snd2
    | with_reducible apply Within.foldl_snd
    | with_reducible apply Within.foldl_fst
    | split
    | dsimp only
    | with_reducible apply Within.raw
    | exact .inl (bitIn m_ (by decide))
    | exact .inr (Eq.refl _)

theorem writeAccess_within {w_ : Nat} (m_ : 4294967295 ||| w_ = w_) {z0 : State} (s : State) (path : Nat) (off : Nat) (data : List Byte) (env : StartEnv) (h_ : Within w_ z0 s) : Within w_ z0 (writeAccess s path off data env) := by
  unfold writeAccess
  repeat' first
    | with_reducible assumption
    | exact Eq.refl _
    | with_reducible apply Within.ite
    | with_reducible apply accessFault_within (subIn (by decide) m_)
    | with_reducible apply arriveWrite_within (subIn (by decide) m_)
    | split
    | dsimp only

theorem readAccess_within {w_ : Nat} (m_ : 100665349 ||| w_ = w_) {z0 : State} (s : State) (path : Nat) (off : Nat) (n : Nat) (h_ : Within w_ z0 s) : Within w_ z0 (readAccess s path off n).1 := by
  unfold readAccess
  repeat' first
    | with_reducible assumption
    | with_reducible apply Within.ite
    | with_reducible apply Within.ite_fst
    | with_reducible apply accessFault_within (subIn (by decide) m_)
    | split
    | dsimp only

/-! The meanings: which parts of the state each can change. -/

theorem execGuardHold_within {w_ : Nat} (m_ : 67108864 ||| w_ = w_) (path : Nat) (v : Word) (s : State) : Touches w_ s (execGuardHold path v s) := by
  unfold execGuardHold
  repeat' first
    | with_reducible assumption
    | with_reducible exact Within.refl _ _
    | with_reducible apply Touches.next
    | with_reducible apply Touches.ite
    | with_reducible apply Touches.onElement
    | with_reducible apply Within.ite
    | with_reducible apply takeHold_within (subIn (by decide) m_)
    | split
    | dsimp only

theorem execGuardCommit_within {w_ : Nat} (m_ : 100665349 ||| w_ = w_) (path : Nat) (s : State) : Touches w_ s (execGuardCommit path s) := by
  unfold execGuardCommit
  repeat' first
    | with_reducible assumption
    | with_reducible exact Within.refl _ _
    | with_reducible apply Touches.next
    | with_reducible apply Touches.ite
    | with_reducible apply Touches.onElement
    | with_reducible apply Within.ite
    | with_reducible apply takeCommit_within (subIn (by decide) m_)
    | split
    | dsimp only

theorem execGuardCommitDone_within {w_ : Nat} (m_ : 67108864 ||| w_ = w_) (s : State) : Touches w_ s (execGuardCommitDone s) := by
  unfold execGuardCommitDone
  repeat' first
    | with_reducible assumption
    | with_reducible exact Within.refl _ _
    | with_reducible apply Touches.next
    | with_reducible apply Touches.ite
    | exact Eq.refl _
    | with_reducible apply Within.ite
    | split
    | dsimp only
    | with_reducible apply Within.raw
    | exact .inl (bitIn m_ (by decide))
    | exact .inr (Eq.refl _)

theorem execGuardSweep_within {w_ : Nat} (m_ : 100665349 ||| w_ = w_) (s : State) : Touches w_ s (execGuardSweep s) := by
  unfold execGuardSweep
  repeat' first
    | with_reducible assumption
    | with_reducible exact Within.refl _ _
    | with_reducible apply Touches.next
    | with_reducible apply Touches.ite
    | exact Eq.refl _
    | with_reducible apply Within.ite
    | with_reducible apply guardCompare_within (subIn (by decide) m_)
    | split
    | dsimp only
    | with_reducible apply Within.raw
    | exact .inl (bitIn m_ (by decide))
    | exact .inr (Eq.refl _)

theorem execGuardHoldExpiry_within {w_ : Nat} (m_ : 100665349 ||| w_ = w_) (s : State) : Touches w_ s (execGuardHoldExpiry s) := by
  unfold execGuardHoldExpiry
  repeat' first
    | with_reducible assumption
    | with_reducible exact Within.refl _ _
    | with_reducible apply Touches.next
    | with_reducible apply Touches.ite
    | exact Eq.refl _
    | with_reducible apply Within.ite
    | with_reducible apply event_within (subIn (by decide) m_)
    | with_reducible apply scEvent_within (subIn (by decide) m_)
    | split
    | dsimp only
    | with_reducible apply Within.raw
    | exact .inl (bitIn m_ (by decide))
    | exact .inr (Eq.refl _)

theorem execMailboxSelect_within {w_ : Nat} (m_ : 67108864 ||| w_ = w_) (path : Nat) (v : Word) (s : State) : Touches w_ s (execMailboxSelect path v s) := by
  unfold execMailboxSelect
  repeat' first
    | with_reducible assumption
    | with_reducible exact Within.refl _ _
    | with_reducible apply Touches.next
    | with_reducible apply Touches.ite
    | with_reducible apply Touches.onElement
    | with_reducible apply Within.ite
    | with_reducible apply takeSelect_within (subIn (by decide) m_)
    | split
    | dsimp only

theorem execMailboxCaptureDone_within {w_ : Nat} (m_ : 100665349 ||| w_ = w_) (path : Nat) (tallyOk : Bool) (s : State) : Touches w_ s (execMailboxCaptureDone path tallyOk s) := by
  unfold execMailboxCaptureDone
  repeat' first
    | with_reducible assumption
    | with_reducible exact Within.refl _ _
    | with_reducible apply Touches.next
    | with_reducible apply Touches.ite
    | with_reducible apply Touches.onElement
    | exact Eq.refl _
    | with_reducible apply Within.ite
    | with_reducible apply setMailbox_within (subIn (by decide) m_)
    | with_reducible apply checkFail_within (subIn (by decide) m_)
    | split
    | dsimp only

theorem execRegisterWrite_within {w_ : Nat} (m_ : 4294967295 ||| w_ = w_) (path : Nat) (off : Nat) (data : List Byte) (env : StartEnv) (s : State) : Touches w_ s (execRegisterWrite path off data env s) := by
  unfold execRegisterWrite
  repeat' first
    | with_reducible assumption
    | with_reducible exact Within.refl _ _
    | with_reducible apply Touches.next
    | with_reducible apply Touches.ite
    | with_reducible apply Touches.onElement
    | with_reducible apply Within.ite
    | with_reducible apply writeAccess_within (subIn (by decide) m_)
    | split
    | dsimp only

theorem execPostedWriteTaken_within {w_ : Nat} (m_ : 2004073199 ||| w_ = w_) (block : Nat) (loop : LoopRes) (s : State) : Touches w_ s (execPostedWriteTaken block loop s) := by
  unfold execPostedWriteTaken
  repeat' first
    | with_reducible assumption
    | with_reducible exact Within.refl _ _
    | with_reducible apply Touches.next
    | with_reducible apply Touches.ite
    | with_reducible apply Touches.onElement
    | exact Eq.refl _
    | with_reducible apply Within.ite
    | with_reducible apply takeWords_within (subIn (by decide) m_)
    | split
    | dsimp only
    | with_reducible apply Within.raw
    | exact .inl (bitIn m_ (by decide))
    | exact .inr (Eq.refl _)

theorem execRegisterReadTimeout_within {w_ : Nat} (m_ : 100665349 ||| w_ = w_) (path : Nat) (off : Nat) (s : State) : Touches w_ s (execRegisterReadTimeout path off s) := by
  unfold execRegisterReadTimeout
  repeat' first
    | with_reducible assumption
    | with_reducible exact Within.refl _ _
    | with_reducible apply Touches.next
    | with_reducible apply Touches.ite
    | with_reducible apply Touches.onElement
    | exact Eq.refl _
    | with_reducible apply Within.ite
    | with_reducible apply accessFault_within (subIn (by decide) m_)
    | with_reducible apply emit_within (subIn (by decide) m_)
    | split
    | dsimp only

theorem execSequenceWriteBack_within {w_ : Nat} (m_ : 369100837 ||| w_ = w_) (path : Nat) (off : Nat) (v : Word) (s : State) : Touches w_ s (execSequenceWriteBack path off v s) := by
  unfold execSequenceWriteBack
  repeat' first
    | with_reducible assumption
    | with_reducible exact Within.refl _ _
    | with_reducible apply Touches.next
    | with_reducible apply Touches.ite
    | with_reducible apply Touches.onElement
    | with_reducible intro _
    | exact Eq.refl _
    | with_reducible apply Within.ite
    | with_reducible apply scClear_within (subIn (by decide) m_)
    | with_reducible apply writeNow_within (subIn (by decide) m_)
    | split
    | dsimp only

end Sys2Proof.Machine
end

