-- ==== Sys2Proof/Laws/WithinSideband.lean ====
section
/-! SUPPORT. Which parts of the state the operations of Machine/Sideband.lean can change. -/

set_option Elab.async false

namespace Sys2Proof.Machine

theorem framingError_within {w_ : Nat} (m_ : 100665349 ||| w_ = w_) {z0 : State} (s : State) (h_ : Within w_ z0 s) : Within w_ z0 (framingError s) := by
  unfold framingError
  repeat' first
    | with_reducible assumption
    | with_reducible apply accessFault_within (subIn (by decide) m_)
    | dsimp only

theorem setUpRead_within {w_ : Nat} (m_ : 2248148997 ||| w_ = w_) {z0 : State} (s : State) (off : Nat) (words : Nat) (h_ : Within w_ z0 s) : Within w_ z0 (setUpRead s off words) := by
  unfold setUpRead
  repeat' first
    | with_reducible assumption
    | exact Eq.refl _
    | with_reducible apply readAccess_within (subIn (by decide) m_)
    | dsimp only
    | with_reducible apply Within.raw
    | exact .inl (bitIn m_ (by decide))
    | exact .inr (Eq.refl _)

theorem privateWrite_within {w_ : Nat} (m_ : 2248148997 ||| w_ = w_) {z0 : State} (s : State) (data : List Byte) (write : Nat → State) (h_ : Within w_ z0 s) (hf_ : ∀ a0, Within w_ z0 (write a0)) : Within w_ z0 (privateWrite s data write) := by
  unfold privateWrite
  repeat' first
    | with_reducible assumption
    | with_reducible intro _
    | exact Eq.refl _
    | with_reducible apply hf_
    | with_reducible apply Within.ite
    | with_reducible apply framingError_within (subIn (by decide) m_)
    | with_reducible apply setUpRead_within (subIn (by decide) m_)
    | split
    | dsimp only

/-! The meanings: which parts of the state each can change. -/

theorem execEntdaa_within {w_ : Nat} (m_ : 2147483649 ||| w_ = w_) (target : Nat) (addr : Nat) (s : State) : Touches w_ s (execEntdaa target addr s) := by
  unfold execEntdaa
  repeat' first
    | with_reducible assumption
    | with_reducible exact Within.refl _ _
    | with_reducible apply Touches.next
    | with_reducible apply Touches.ite
    | with_reducible apply Touches.onElement
    | exact Eq.refl _
    | with_reducible apply Within.ite
    | with_reducible apply emit_within (subIn (by decide) m_)
    | split
    | dsimp only
    | with_reducible apply Within.raw
    | exact .inl (bitIn m_ (by decide))
    | exact .inr (Eq.refl _)

theorem execHotJoin_within {w_ : Nat} (m_ : 1 ||| w_ = w_) (target : Nat) (s : State) : Touches w_ s (execHotJoin target s) := by
  unfold execHotJoin
  repeat' first
    | with_reducible assumption
    | with_reducible exact Within.refl _ _
    | with_reducible apply Touches.next
    | with_reducible apply Touches.ite
    | with_reducible apply Touches.onElement
    | with_reducible apply Within.ite
    | with_reducible apply emit_within (subIn (by decide) m_)
    | split
    | dsimp only

theorem execTargetResetPattern_within {w_ : Nat} (m_ : 2147483648 ||| w_ = w_) (s : State) : Touches w_ s (execTargetResetPattern s) := by
  unfold execTargetResetPattern
  repeat' first
    | with_reducible assumption
    | with_reducible exact Within.refl _ _
    | with_reducible apply Touches.next
    | with_reducible apply Touches.ite
    | exact Eq.refl _
    | with_reducible apply Within.ite
    | split
    | dsimp only
    | with_reducible apply Within.raw
    | exact .inl (bitIn m_ (by decide))
    | exact .inr (Eq.refl _)

theorem execSidebandWrite_within {w_ : Nat} (m_ : 4294967295 ||| w_ = w_) (data : List Byte) (env : StartEnv) (s : State) : Touches w_ s (execSidebandWrite data env s) := by
  unfold execSidebandWrite
  repeat' first
    | with_reducible assumption
    | with_reducible exact Within.refl _ _
    | with_reducible apply Touches.next
    | with_reducible apply Touches.ite
    | with_reducible intro _
    | with_reducible apply Within.ite
    | with_reducible apply privateWrite_within (subIn (by decide) m_)
    | with_reducible apply writeAccess_within (subIn (by decide) m_)
    | split
    | dsimp only

theorem execSidebandReadSetup_within {w_ : Nat} (m_ : 2248148997 ||| w_ = w_) (data : List Byte) (s : State) : Touches w_ s (execSidebandReadSetup data s) := by
  unfold execSidebandReadSetup
  repeat' first
    | with_reducible assumption
    | with_reducible exact Within.refl _ _
    | with_reducible apply Touches.next
    | with_reducible apply Touches.ite
    | with_reducible intro _
    | with_reducible apply Within.ite
    | with_reducible apply privateWrite_within (subIn (by decide) m_)
    | split
    | dsimp only

theorem execSidebandRead_within {w_ : Nat} (m_ : 2147483649 ||| w_ = w_) (words : Nat) (s : State) : Touches w_ s (execSidebandRead words s) := by
  unfold execSidebandRead
  repeat' first
    | with_reducible assumption
    | with_reducible exact Within.refl _ _
    | with_reducible apply Touches.next
    | with_reducible apply Touches.ite
    | exact Eq.refl _
    | with_reducible apply Within.ite
    | with_reducible apply emit_within (subIn (by decide) m_)
    | split
    | dsimp only
    | with_reducible apply Within.raw
    | exact .inl (bitIn m_ (by decide))
    | exact .inr (Eq.refl _)

theorem execLifetimeCounterUpdate_within {w_ : Nat} (m_ : 713033733 ||| w_ = w_) (ok : Bool) (s : State) : Touches w_ s (execLifetimeCounterUpdate ok s) := by
  unfold execLifetimeCounterUpdate
  repeat' first
    | with_reducible assumption
    | with_reducible exact Within.refl _ _
    | with_reducible apply Touches.next
    | with_reducible apply Touches.ite
    | with_reducible intro _
    | exact Eq.refl _
    | with_reducible apply Within.ite
    | with_reducible apply tallyFail_within (subIn (by decide) m_)
    | with_reducible apply putLife_within (subIn (by decide) m_)
    | with_reducible apply Within.foldl
    | with_reducible apply Within.foldl_snd
    | split
    | dsimp only
    | with_reducible apply Within.raw
    | exact .inl (bitIn m_ (by decide))
    | exact .inr (Eq.refl _)

end Sys2Proof.Machine
end

