-- ==== Sys2Proof/Laws/WithinResponder.lean ====
section
/-! SUPPORT. Which parts of the state the operations of Machine/Responder.lean can change. -/

set_option Elab.async false

namespace Sys2Proof.Machine

theorem answer_within {w_ : Nat} (m_ : 2049 ||| w_ = w_) {z0 : State} (s : State) (r : Nat) (code : Nat) (data : List Byte) (h_ : Within w_ z0 s) : Within w_ z0 (answer s r code data) := by
  unfold answer
  repeat' first
    | with_reducible assumption
    | exact Eq.refl _
    | with_reducible apply Within.ite
    | with_reducible apply emit_within (subIn (by decide) m_)
    | with_reducible apply modHead_within (subIn (by decide) m_)
    | split
    | dsimp only

theorem spdmError_within {w_ : Nat} (m_ : 2049 ||| w_ = w_) {z0 : State} (s : State) (r : Nat) (code : Nat) (h_ : Within w_ z0 s) : Within w_ z0 (spdmError s r code) := by
  unfold spdmError
  repeat' first
    | with_reducible assumption
    | with_reducible apply answer_within (subIn (by decide) m_)
    | dsimp only

theorem sayVersion_within {w_ : Nat} (m_ : 2049 ||| w_ = w_) {z0 : State} (s : State) (r : Nat) (h_ : Within w_ z0 s) : Within w_ z0 (sayVersion s r) := by
  unfold sayVersion
  repeat' first
    | with_reducible assumption
    | with_reducible apply answer_within (subIn (by decide) m_)
    | dsimp only

theorem sayCapabilities_within {w_ : Nat} (m_ : 2049 ||| w_ = w_) {z0 : State} (s : State) (r : Nat) (h_ : Within w_ z0 s) : Within w_ z0 (sayCapabilities s r) := by
  unfold sayCapabilities
  repeat' first
    | with_reducible assumption
    | with_reducible apply answer_within (subIn (by decide) m_)
    | dsimp only

theorem sayAlgorithms_within {w_ : Nat} (m_ : 2049 ||| w_ = w_) {z0 : State} (s : State) (r : Nat) (offers : Bool) (h_ : Within w_ z0 s) : Within w_ z0 (sayAlgorithms s r offers) := by
  unfold sayAlgorithms
  repeat' first
    | with_reducible assumption
    | with_reducible apply Within.ite
    | with_reducible apply answer_within (subIn (by decide) m_)
    | split
    | dsimp only

theorem sayDigests_within {w_ : Nat} (m_ : 2049 ||| w_ = w_) {z0 : State} (s : State) (r : Nat) (h_ : Within w_ z0 s) : Within w_ z0 (sayDigests s r) := by
  unfold sayDigests
  repeat' first
    | with_reducible assumption
    | with_reducible apply Within.ite
    | with_reducible apply answer_within (subIn (by decide) m_)
    | with_reducible apply spdmError_within (subIn (by decide) m_)
    | split
    | dsimp only

theorem sayCertificate_within {w_ : Nat} (m_ : 2049 ||| w_ = w_) {z0 : State} (s : State) (r : Nat) (slot : Nat) (off : Nat) (len : Nat) (h_ : Within w_ z0 s) : Within w_ z0 (sayCertificate s r slot off len) := by
  unfold sayCertificate
  repeat' first
    | with_reducible assumption
    | with_reducible apply Within.ite
    | with_reducible apply spdmError_within (subIn (by decide) m_)
    | with_reducible apply answer_within (subIn (by decide) m_)
    | split
    | dsimp only

theorem sayChallenge_within {w_ : Nat} (m_ : 2051 ||| w_ = w_) {z0 : State} (s : State) (r : Nat) (slot : Nat) (h_ : Within w_ z0 s) : Within w_ z0 (sayChallenge s r slot) := by
  unfold sayChallenge
  repeat' first
    | with_reducible assumption
    | with_reducible apply Within.ite
    | with_reducible apply spdmError_within (subIn (by decide) m_)
    | with_reducible apply bumpFree_within (subIn (by decide) m_)
    | with_reducible apply answer_within (subIn (by decide) m_)
    | split
    | dsimp only

theorem sayMeasurements_within {w_ : Nat} (m_ : 2051 ||| w_ = w_) {z0 : State} (s : State) (r : Nat) (op : Nat) (sign : Bool) (h_ : Within w_ z0 s) : Within w_ z0 (sayMeasurements s r op sign) := by
  unfold sayMeasurements
  repeat' first
    | with_reducible assumption
    | with_reducible apply Within.ite
    | with_reducible apply spdmError_within (subIn (by decide) m_)
    | with_reducible apply bumpFree_within (subIn (by decide) m_)
    | with_reducible apply answer_within (subIn (by decide) m_)
    | split
    | dsimp only

theorem refuseSession_within {w_ : Nat} (m_ : 2049 ||| w_ = w_) {z0 : State} (s : State) (r : Nat) (h_ : Within w_ z0 s) : Within w_ z0 (refuseSession s r) := by
  unfold refuseSession
  repeat' first
    | with_reducible assumption
    | with_reducible apply spdmError_within (subIn (by decide) m_)
    | dsimp only

theorem doeAnswer_within {w_ : Nat} (m_ : 2049 ||| w_ = w_) {z0 : State} (s : State) (h : Nat) (type : Nat) (data : List Nat) (h_ : Within w_ z0 s) : Within w_ z0 (doeAnswer s h type data) := by
  unfold doeAnswer
  repeat' first
    | with_reducible assumption
    | exact Eq.refl _
    | with_reducible apply Within.ite
    | with_reducible apply emit_within (subIn (by decide) m_)
    | with_reducible apply modHead_within (subIn (by decide) m_)
    | split
    | dsimp only

theorem mailAnswer_within {w_ : Nat} (m_ : 1 ||| w_ = w_) {z0 : State} (s : State) (h : Nat) (code : Nat) (data : List Nat) (h_ : Within w_ z0 s) : Within w_ z0 (mailAnswer s h code data) := by
  unfold mailAnswer
  repeat' first
    | with_reducible assumption
    | with_reducible apply Within.ite
    | with_reducible apply emit_within (subIn (by decide) m_)
    | split
    | dsimp only

theorem mailChange_within {w_ : Nat} (m_ : 2049 ||| w_ = w_) {z0 : State} (s : State) (h : Nat) (g : Head → Head) (h_ : Within w_ z0 s) : Within w_ z0 (mailChange s h g) := by
  unfold mailChange
  repeat' first
    | with_reducible assumption
    | with_reducible apply Within.ite
    | with_reducible apply mailAnswer_within (subIn (by decide) m_)
    | with_reducible apply modHead_within (subIn (by decide) m_)
    | split
    | dsimp only

/-! The meanings: which parts of the state each can change. -/

theorem ask_within {w_ : Nat} (s : State) (r : Nat) (say : State → State) (hf_ : ∀ t, Within w_ s t → Within w_ s (say t)) :
    Touches w_ s (ask s r say) := by
  unfold ask
  exact Touches.onElement (.next (Within.ite (hf_ s (.refl _ s)) (.refl _ s)))

theorem execGetVersion_within {w_ : Nat} (m_ : 2049 ||| w_ = w_) (rsp : Nat) (s : State) : Touches w_ s (execGetVersion rsp s) := by
  unfold execGetVersion
  repeat' first
    | with_reducible assumption
    | with_reducible exact Within.refl _ _
    | with_reducible apply Touches.next
    | with_reducible apply Touches.ite
    | with_reducible apply Touches.onElement
    | with_reducible apply ask_within
    | with_reducible intro _
    | with_reducible apply Within.ite
    | with_reducible apply sayVersion_within (subIn (by decide) m_)
    | split
    | dsimp only

theorem execGetCapabilities_within {w_ : Nat} (m_ : 2049 ||| w_ = w_) (rsp : Nat) (s : State) : Touches w_ s (execGetCapabilities rsp s) := by
  unfold execGetCapabilities
  repeat' first
    | with_reducible assumption
    | with_reducible exact Within.refl _ _
    | with_reducible apply Touches.next
    | with_reducible apply Touches.ite
    | with_reducible apply Touches.onElement
    | with_reducible apply ask_within
    | with_reducible intro _
    | with_reducible apply Within.ite
    | with_reducible apply sayCapabilities_within (subIn (by decide) m_)
    | split
    | dsimp only

theorem execNegotiateAlgorithms_within {w_ : Nat} (m_ : 2049 ||| w_ = w_) (rsp : Nat) (offers : Bool) (s : State) : Touches w_ s (execNegotiateAlgorithms rsp offers s) := by
  unfold execNegotiateAlgorithms
  repeat' first
    | with_reducible assumption
    | with_reducible exact Within.refl _ _
    | with_reducible apply Touches.next
    | with_reducible apply Touches.ite
    | with_reducible apply Touches.onElement
    | with_reducible apply ask_within
    | with_reducible intro _
    | with_reducible apply Within.ite
    | with_reducible apply sayAlgorithms_within (subIn (by decide) m_)
    | split
    | dsimp only

theorem execGetDigests_within {w_ : Nat} (m_ : 2049 ||| w_ = w_) (rsp : Nat) (s : State) : Touches w_ s (execGetDigests rsp s) := by
  unfold execGetDigests
  repeat' first
    | with_reducible assumption
    | with_reducible exact Within.refl _ _
    | with_reducible apply Touches.next
    | with_reducible apply Touches.ite
    | with_reducible apply Touches.onElement
    | with_reducible apply ask_within
    | with_reducible intro _
    | with_reducible apply Within.ite
    | with_reducible apply sayDigests_within (subIn (by decide) m_)
    | split
    | dsimp only

theorem execGetCertificate_within {w_ : Nat} (m_ : 2049 ||| w_ = w_) (rsp : Nat) (slot : Nat) (off : Nat) (len : Nat) (s : State) : Touches w_ s (execGetCertificate rsp slot off len s) := by
  unfold execGetCertificate
  repeat' first
    | with_reducible assumption
    | with_reducible exact Within.refl _ _
    | with_reducible apply Touches.next
    | with_reducible apply Touches.ite
    | with_reducible apply Touches.onElement
    | with_reducible apply ask_within
    | with_reducible intro _
    | with_reducible apply Within.ite
    | with_reducible apply sayCertificate_within (subIn (by decide) m_)
    | split
    | dsimp only

theorem execChallenge_within {w_ : Nat} (m_ : 2051 ||| w_ = w_) (rsp : Nat) (slot : Nat) (_nonce : BitVec 256) (s : State) : Touches w_ s (execChallenge rsp slot _nonce s) := by
  unfold execChallenge
  repeat' first
    | with_reducible assumption
    | with_reducible exact Within.refl _ _
    | with_reducible apply Touches.next
    | with_reducible apply Touches.ite
    | with_reducible apply Touches.onElement
    | with_reducible apply ask_within
    | with_reducible intro _
    | with_reducible apply Within.ite
    | with_reducible apply sayChallenge_within (subIn (by decide) m_)
    | split
    | dsimp only

theorem execGetMeasurements_within {w_ : Nat} (m_ : 2051 ||| w_ = w_) (rsp : Nat) (op : Nat) (signed : Bool) (_nonce : BitVec 256) (s : State) : Touches w_ s (execGetMeasurements rsp op signed _nonce s) := by
  unfold execGetMeasurements
  repeat' first
    | with_reducible assumption
    | with_reducible exact Within.refl _ _
    | with_reducible apply Touches.next
    | with_reducible apply Touches.ite
    | with_reducible apply Touches.onElement
    | with_reducible apply ask_within
    | with_reducible intro _
    | with_reducible apply Within.ite
    | with_reducible apply sayMeasurements_within (subIn (by decide) m_)
    | split
    | dsimp only

theorem execKeyExchange_within {w_ : Nat} (m_ : 2049 ||| w_ = w_) (rsp : Nat) (s : State) : Touches w_ s (execKeyExchange rsp s) := by
  unfold execKeyExchange
  repeat' first
    | with_reducible assumption
    | with_reducible exact Within.refl _ _
    | with_reducible apply Touches.next
    | with_reducible apply Touches.ite
    | with_reducible apply Touches.onElement
    | with_reducible apply ask_within
    | with_reducible intro _
    | with_reducible apply Within.ite
    | with_reducible apply refuseSession_within (subIn (by decide) m_)
    | split
    | dsimp only

theorem execMctpMessage_within {w_ : Nat} (m_ : 2051 ||| w_ = w_) (msg : SpdmReq) (s : State) : Touches w_ s (execMctpMessage msg s) := by
  unfold execMctpMessage
  repeat' first
    | with_reducible assumption
    | with_reducible exact Within.refl _ _
    | with_reducible apply Touches.next
    | with_reducible apply Touches.ite
    | with_reducible apply Touches.onElement
    | with_reducible apply ask_within
    | with_reducible intro _
    | exact Eq.refl _
    | with_reducible apply Within.ite
    | with_reducible apply sayVersion_within (subIn (by decide) m_)
    | with_reducible apply sayCapabilities_within (subIn (by decide) m_)
    | with_reducible apply sayAlgorithms_within (subIn (by decide) m_)
    | with_reducible apply sayDigests_within (subIn (by decide) m_)
    | with_reducible apply sayCertificate_within (subIn (by decide) m_)
    | with_reducible apply sayChallenge_within (subIn (by decide) m_)
    | with_reducible apply sayMeasurements_within (subIn (by decide) m_)
    | with_reducible apply refuseSession_within (subIn (by decide) m_)
    | split
    | dsimp only

theorem execDoeAbort_within {w_ : Nat} (m_ : 2048 ||| w_ = w_) (h : Nat) (s : State) : Touches w_ s (execDoeAbort h s) := by
  unfold execDoeAbort
  repeat' first
    | with_reducible assumption
    | with_reducible exact Within.refl _ _
    | with_reducible apply Touches.next
    | with_reducible apply Touches.ite
    | with_reducible apply Touches.onElement
    | exact Eq.refl _
    | with_reducible apply Within.ite
    | with_reducible apply modHead_within (subIn (by decide) m_)
    | split
    | dsimp only

theorem execDoeDiscovery_within {w_ : Nat} (m_ : 2049 ||| w_ = w_) (h : Nat) (index : Nat) (s : State) : Touches w_ s (execDoeDiscovery h index s) := by
  unfold execDoeDiscovery
  repeat' first
    | with_reducible assumption
    | with_reducible exact Within.refl _ _
    | with_reducible apply Touches.next
    | with_reducible apply Touches.ite
    | with_reducible apply Touches.onElement
    | exact Eq.refl _
    | with_reducible apply Within.ite
    | with_reducible apply doeAnswer_within (subIn (by decide) m_)
    | split
    | dsimp only

theorem execCdatRead_within {w_ : Nat} (m_ : 2049 ||| w_ = w_) (h : Nat) (entry : Nat) (s : State) : Touches w_ s (execCdatRead h entry s) := by
  unfold execCdatRead
  repeat' first
    | with_reducible assumption
    | with_reducible exact Within.refl _ _
    | with_reducible apply Touches.next
    | with_reducible apply Touches.ite
    | with_reducible apply Touches.onElement
    | with_reducible apply Within.ite
    | with_reducible apply doeAnswer_within (subIn (by decide) m_)
    | split
    | dsimp only

theorem execIdentify_within {w_ : Nat} (m_ : 1 ||| w_ = w_) (h : Nat) (s : State) : Touches w_ s (execIdentify h s) := by
  unfold execIdentify
  repeat' first
    | with_reducible assumption
    | with_reducible exact Within.refl _ _
    | with_reducible apply Touches.next
    | with_reducible apply Touches.ite
    | with_reducible apply Touches.onElement
    | with_reducible apply Within.ite
    | with_reducible apply mailAnswer_within (subIn (by decide) m_)
    | split
    | dsimp only

theorem execGetSupportedLogs_within {w_ : Nat} (m_ : 1 ||| w_ = w_) (h : Nat) (s : State) : Touches w_ s (execGetSupportedLogs h s) := by
  unfold execGetSupportedLogs
  repeat' first
    | with_reducible assumption
    | with_reducible exact Within.refl _ _
    | with_reducible apply Touches.next
    | with_reducible apply Touches.ite
    | with_reducible apply Touches.onElement
    | with_reducible apply Within.ite
    | with_reducible apply mailAnswer_within (subIn (by decide) m_)
    | split
    | dsimp only

theorem execGetLog_within {w_ : Nat} (m_ : 1 ||| w_ = w_) (h : Nat) (off : Nat) (len : Nat) (s : State) : Touches w_ s (execGetLog h off len s) := by
  unfold execGetLog
  repeat' first
    | with_reducible assumption
    | with_reducible exact Within.refl _ _
    | with_reducible apply Touches.next
    | with_reducible apply Touches.ite
    | with_reducible apply Touches.onElement
    | with_reducible apply Within.ite
    | with_reducible apply mailAnswer_within (subIn (by decide) m_)
    | split
    | dsimp only

theorem execGetEventRecords_within {w_ : Nat} (m_ : 1 ||| w_ = w_) (h : Nat) (log : Nat) (s : State) : Touches w_ s (execGetEventRecords h log s) := by
  unfold execGetEventRecords
  repeat' first
    | with_reducible assumption
    | with_reducible exact Within.refl _ _
    | with_reducible apply Touches.next
    | with_reducible apply Touches.ite
    | with_reducible apply Touches.onElement
    | with_reducible apply Within.ite
    | with_reducible apply mailAnswer_within (subIn (by decide) m_)
    | split
    | dsimp only

theorem execClearEventRecords_within {w_ : Nat} (m_ : 2049 ||| w_ = w_) (h : Nat) (log : Nat) (handles : List Nat) (s : State) : Touches w_ s (execClearEventRecords h log handles s) := by
  unfold execClearEventRecords
  repeat' first
    | with_reducible assumption
    | with_reducible exact Within.refl _ _
    | with_reducible apply Touches.next
    | with_reducible apply Touches.ite
    | with_reducible apply Touches.onElement
    | exact Eq.refl _
    | with_reducible apply Within.ite
    | with_reducible apply mailAnswer_within (subIn (by decide) m_)
    | with_reducible apply modHead_within (subIn (by decide) m_)
    | split
    | dsimp only

theorem execGetEventInterruptPolicy_within {w_ : Nat} (m_ : 1 ||| w_ = w_) (h : Nat) (s : State) : Touches w_ s (execGetEventInterruptPolicy h s) := by
  unfold execGetEventInterruptPolicy
  repeat' first
    | with_reducible assumption
    | with_reducible exact Within.refl _ _
    | with_reducible apply Touches.next
    | with_reducible apply Touches.ite
    | with_reducible apply Touches.onElement
    | with_reducible apply Within.ite
    | with_reducible apply mailAnswer_within (subIn (by decide) m_)
    | split
    | dsimp only

theorem execSetEventInterruptPolicy_within {w_ : Nat} (m_ : 2049 ||| w_ = w_) (h : Nat) (pol : Word) (s : State) : Touches w_ s (execSetEventInterruptPolicy h pol s) := by
  unfold execSetEventInterruptPolicy
  repeat' first
    | with_reducible assumption
    | with_reducible exact Within.refl _ _
    | with_reducible apply Touches.next
    | with_reducible apply Touches.ite
    | with_reducible apply Touches.onElement
    | exact Eq.refl _
    | with_reducible apply Within.ite
    | with_reducible apply mailChange_within (subIn (by decide) m_)
    | split
    | dsimp only

theorem execGetHealthInfo_within {w_ : Nat} (m_ : 1 ||| w_ = w_) (h : Nat) (s : State) : Touches w_ s (execGetHealthInfo h s) := by
  unfold execGetHealthInfo
  repeat' first
    | with_reducible assumption
    | with_reducible exact Within.refl _ _
    | with_reducible apply Touches.next
    | with_reducible apply Touches.ite
    | with_reducible apply Touches.onElement
    | with_reducible apply Within.ite
    | with_reducible apply mailAnswer_within (subIn (by decide) m_)
    | split
    | dsimp only

theorem execIdentifyMemoryDevice_within {w_ : Nat} (m_ : 1 ||| w_ = w_) (h : Nat) (s : State) : Touches w_ s (execIdentifyMemoryDevice h s) := by
  unfold execIdentifyMemoryDevice
  repeat' first
    | with_reducible assumption
    | with_reducible exact Within.refl _ _
    | with_reducible apply Touches.next
    | with_reducible apply Touches.ite
    | with_reducible apply Touches.onElement
    | with_reducible apply Within.ite
    | with_reducible apply mailAnswer_within (subIn (by decide) m_)
    | split
    | dsimp only

theorem execGetMultiHeadedInfo_within {w_ : Nat} (m_ : 1 ||| w_ = w_) (h : Nat) (s : State) : Touches w_ s (execGetMultiHeadedInfo h s) := by
  unfold execGetMultiHeadedInfo
  repeat' first
    | with_reducible assumption
    | with_reducible exact Within.refl _ _
    | with_reducible apply Touches.next
    | with_reducible apply Touches.ite
    | with_reducible apply Touches.onElement
    | with_reducible apply Within.ite
    | with_reducible apply mailAnswer_within (subIn (by decide) m_)
    | split
    | dsimp only

theorem execGetTimestamp_within {w_ : Nat} (m_ : 1 ||| w_ = w_) (h : Nat) (s : State) : Touches w_ s (execGetTimestamp h s) := by
  unfold execGetTimestamp
  repeat' first
    | with_reducible assumption
    | with_reducible exact Within.refl _ _
    | with_reducible apply Touches.next
    | with_reducible apply Touches.ite
    | with_reducible apply Touches.onElement
    | with_reducible apply Within.ite
    | with_reducible apply mailAnswer_within (subIn (by decide) m_)
    | split
    | dsimp only

theorem execSetTimestamp_within {w_ : Nat} (m_ : 2049 ||| w_ = w_) (h : Nat) (ts : BitVec 64) (s : State) : Touches w_ s (execSetTimestamp h ts s) := by
  unfold execSetTimestamp
  repeat' first
    | with_reducible assumption
    | with_reducible exact Within.refl _ _
    | with_reducible apply Touches.next
    | with_reducible apply Touches.ite
    | with_reducible apply Touches.onElement
    | exact Eq.refl _
    | with_reducible apply Within.ite
    | with_reducible apply mailChange_within (subIn (by decide) m_)
    | split
    | dsimp only

theorem execUnsupportedMailboxCommand_within {w_ : Nat} (m_ : 1 ||| w_ = w_) (h : Nat) (_opcode : Nat) (s : State) : Touches w_ s (execUnsupportedMailboxCommand h _opcode s) := by
  unfold execUnsupportedMailboxCommand
  repeat' first
    | with_reducible assumption
    | with_reducible exact Within.refl _ _
    | with_reducible apply Touches.next
    | with_reducible apply Touches.ite
    | with_reducible apply Touches.onElement
    | with_reducible apply Within.ite
    | with_reducible apply mailAnswer_within (subIn (by decide) m_)
    | split
    | dsimp only

end Sys2Proof.Machine
end

