-- ==== Sys2Proof/Laws/All.lean ====
section
/-! SUPPORT. The laws of every operation, gathered: a step keeps the canonical form, and changes only the parts its command may. -/

set_option Elab.async false

namespace Sys2Proof.Machine

/-- The canonical form, given field by field, of a state without a Brake save. -/
theorem State.wf_of {s : State} (h : (regsWf s.regs ∧ Memory.wf s.mem ∧ tabWf flumeInit s.flumes ∧ tabWf subInit s.subs ∧ tabWf bayInit s.bays ∧
    tabWf bankInit s.banks ∧ tabWf (0 : BitVec 128) s.regions ∧ tabWf headInit s.heads ∧ tabWf pairInit s.pairs ∧ tabWf none s.descs ∧
    tabWf none s.parts ∧ tabWf 31 s.grants ∧ tabWf millInit s.mills ∧ tabWf laneInit s.lanes ∧ tabWf portInit s.leat.ports ∧ tabWf sourceInit s.flt.sources) ∧
    tabWf none s.acc.posted ∧ tabWf mailboxInit s.acc.mailboxes ∧ tabWf (0 : BitVec 256) s.fuses.normal ∧
    tabWf (0 : BitVec 256) s.fuses.high ∧ tabWf (0 : BitVec 256) s.fuses.low) (hb : s.tally.brake = none) : s.wf := by
  obtain ⟨⟨h1, h2, h3, h4, h5, h6, h7, h8, h9, h10, h11, hg, h12, h13, h14, h15⟩, h16, h17, h18, h19, h20⟩ := h
  exact ⟨h1, h2, h3, h4, h5, h6, h7, h8, h9, h10, h11, hg, h12, h13, h14, h15, h16, h17, h18, h19, h20,
    fun c e => by rw [hb] at e; cases e⟩

/-- The next state of a meaning that runs. -/
theorem Runs.keeps {s t : State} {a : Answer} (h : Runs s a) (e : a = .next t) : Keeps s t := by
  obtain ⟨u, e1, k⟩ := h
  rw [e1] at e
  cases e
  exact k

end Sys2Proof.Machine
end

