-- ==== Sys2Proof/Tests/Slice0.lean ====
section
/-! SUPPORT. Tests: ill-formed commands that are refused, the spec's worked examples, published check values, small steps; and for each
statement about states or operands a state that meets its hypotheses. -/

open Sys2Proof Sys2Proof.Machine

set_option Elab.async false
set_option maxRecDepth 20000

/-! States the tests and witnesses use. -/

/-- A region entry over the first 256 MiB, on flume 0, open to every head, with stores of the mills allowed. -/
def entryWord : Nat := 2 ^ 16 + 15 * 2 ^ 80 + 2 ^ 88 + 2 ^ 89

/-- A device that has started, head 0 up in CXL mode, one decoder and one region over flume 0. -/
def hostState : State :=
  { State.reset with
    boot := { bootInit with step := 9, ready := true, linkEn := true, faultN := true }
    heads := [(0, { headInit with
      linkUp := true, cxl := true, reqCredit := 256, rwdCredit := 128,
      decoders := [(0, ⟨0, 2 ^ 28, 1, 256, 0, 0, true, false, false⟩)] })]
    regions := [(0, BitVec.ofNat 128 entryWord)] }

/-- A read of line 0 by head 0. -/
def readReq : Req := { reqInit with cls := 1, dest := .host 0 5 true, region := 0, entry := entryWord }

/-- A whole-line write of line 0 by head 0. -/
def writeReq : Req := { reqInit with cls := 1, kind := .write, mask := BitVec.allOnes 64, data := 7, dest := .host 0 3 false, region := 0, entry := entryWord }

def waitState : State := modFlume hostState 0 fun x => { x with waiting := [readReq] }
def waitWrite : State := modFlume hostState 0 fun x => { x with waiting := [writeReq] }
def queueState : State := modFlume hostState 0 fun x => { x with queue := [readReq], nextId := 1 }
def flightState : State := modFlume hostState 0 fun x => { x with inflight := [readReq], nextId := 1 }

def sliceState : State := regSet (regSet hostState (oFlm 0 0) 4) (oBst 0) 1

theorem reset_wf : State.reset.wf :=
  .mk (by decide) (by decide) (by decide) (by decide) (by decide) (by decide) (by decide) (by decide) (by decide) (by decide) (by decide) (by decide) (by decide) (by decide) (by decide) (by decide) (by decide) (by decide) (by decide) (by decide) (by decide) (by intro c h; cases h)
theorem hostState_wf : hostState.wf :=
  .mk (by decide) (by decide) (by decide) (by decide) (by decide) (by decide) (by decide) (by decide) (by decide) (by decide) (by decide) (by decide) (by decide) (by decide) (by decide) (by decide) (by decide) (by decide) (by decide) (by decide) (by decide) (by intro c h; cases h)

/-- A pair with rings of 64 entries, configured and then running. -/
def ringConf : State := regSet hostState (oRing 1 0x10) 0x606
def ringState : State :=
  modPair (modHead ringConf 0 fun x => { x with bme := true }) 1 fun x => { x with state := 1 }
def hostRing : List Host.Cell := (List.range 128).map fun i => (i, 0)
def timerState : State :=
  { modPair (regSet (regSet hostState (oRing 1 0x18) 0x4000) (oRing 1 0x1C) 0x10000) 1 (fun x => { x with pendSince := some 0, pendCount := 1 }) with now := 1000 }
def msixState : State := modHead hostState 0 fun x => { x with msix := true, bme := true, pba := [5], unmasked := [5] }
def fetchedState : State := modPair ringState 1 fun x => { x with fetched := [⟨0, List.replicate 128 0⟩] }
/-- An operator descriptor without parts, and a part of it. -/
def someDesc : Desc := ⟨1, [List.replicate 128 0], 0, [], 0, 0, 0, 0, 0, [], none, false, 0, [], [], []⟩
def somePart : Part := ⟨0, [(0, 1)], 0, 0, .none, none, 0, 0, none, none, 0, 0, false, false, false, false, false, false, false, 0⟩
def donePart : Part := { somePart with done := true }
/-- A FILL of one line, one at an address that is no whole line, a SCAN whose program lies in device memory. -/
def fillDesc : List Byte := BitVec.ofNat 8 1 :: List.replicate 31 0 ++ leBytes 8 64 ++ List.replicate 48 0 ++ leBytes 8 64 ++ List.replicate 32 0
def refusedDesc : List Byte := BitVec.ofNat 8 1 :: List.replicate 31 0 ++ leBytes 8 65 ++ List.replicate 88 0
def sieveDesc : List Byte := BitVec.ofNat 8 3 :: List.replicate 79 0 ++ leBytes 8 64 ++ List.replicate 40 0
/-- The same with mill 0 in dispatch. -/
def passState : State := modMill (regSet fetchedState (oMil 0 0) 1) 0 fun x => { x with disabled := false }
def millState : State :=
  putPart (putDesc (modMill (regSet hostState (oMil 0 0) 1) 0 fun x => { x with queue := [0], disabled := false }) 0 (some someDesc)) 0 (some somePart)
def runState : State :=
  putPart (putDesc (modMill hostState 0 fun x => { x with running := some 0 }) 0 (some someDesc)) 0 (some somePart)
def partState : State :=
  putPart (putDesc (modMill hostState 0 fun x => { x with running := some 0 }) 0 (some someDesc)) 0 (some donePart)

/-- A descriptor of one operator with every operand 0, and a mill that runs its part. -/
def opBody (k : Nat) : List Byte := BitVec.ofNat 8 k :: List.replicate 127 0
def opDesc (k : Nat) : Desc := { someDesc with members := [opBody k], parts := [0] }
def opStage (k : Nat) : Stage := ⟨0, somePart, opDesc k, opBody k, ⟨0, true, none⟩, 0, 0⟩
def opState (k : Nat) : State :=
  putPart (putDesc (modMill hostState 0 fun x => { x with running := some 0 }) 0 (some (opDesc k))) 0 (some somePart)
def noUnitsStage (k : Nat) : Stage := { opStage k with part := { somePart with ranges := [] } }
def noUnits (k : Nat) : State := putPart (opState k) 0 (some { somePart with ranges := [] })
def sleepBody : List Byte := BitVec.ofNat 8 2 :: List.replicate 15 0 ++ leBytes 8 64 ++ List.replicate 8 0 ++ leBytes 8 64 ++ List.replicate 48 0 ++ leBytes 8 64 ++ List.replicate 32 0
def mergeDesc : Desc := { opDesc 8 with curDst2 := 64 }
def mergedPart : Part := { somePart with merge := true, started := true }
def mergeStg : Stage := ⟨0, mergedPart, mergeDesc, opBody 8, ⟨0, true, none⟩, 0, 0⟩
def mergeState : State :=
  putPart (putDesc (modMill hostState 0 fun x => { x with running := some 0 }) 0 (some mergeDesc)) 0 (some mergedPart)

/-- An admin descriptor of pair 0 with its source address, head 0 with bus mastering. -/
def admBody (op src : Nat) : List Byte := BitVec.ofNat 8 op :: List.replicate 15 0 ++ leBytes 8 src ++ List.replicate 104 0
def admDesc (op src : Nat) : Desc := ⟨0, [admBody op src], 0, [], 0, 0, 0, 0, 0, [], none, false, 0, [], [], []⟩
def admState (op src : Nat) : State := putDesc (modHead hostState 0 fun x => { x with bme := true }) 0 (some (admDesc op src))
def fuseBytes : List Host.Cell := []
/-- A microcode swap that waits for mill 0. -/
def swapState : State := putDesc hostState 0 (some { admDesc 0x44 0 with work := 3, prog := [1, 0, 0] })
theorem lt_trim : tabGet 0 (getMill State.reset 0).target (getMill State.reset 0).opp < millTrim State.reset 0 (getMill State.reset 0).opp :=
  Nat.lt_of_lt_of_le (by decide : 0 < millNominal 0 - 200) (Nat.le_max_left _ _)

/-- Admin descriptors with destination, capacity and count. -/
def admBody2 (op src dst cap count : Nat) : List Byte :=
  BitVec.ofNat 8 op :: List.replicate 15 0 ++ leBytes 8 src ++ List.replicate 8 0 ++ leBytes 8 dst ++ leBytes 8 cap ++ List.replicate 40 0 ++
    leBytes 8 count ++ List.replicate 32 0
def admDesc2 (op src dst cap count : Nat) : Desc := { admDesc op 0 with members := [admBody2 op src dst cap count] }
def admState2 (op src dst cap count : Nat) : State := putDesc (admState op 0) 0 (some (admDesc2 op src dst cap count))
/-- A flume that has been idle long enough for Feather. -/
def seqState : State := { regSet hostState (oPwr 0) 3 with now := 10 ^ 15 }
/-- A start-up in which nothing fails. -/
def startEnv : StartEnv := ⟨false, ⟨[], true, none, none⟩, [], [], [], [], [], [], true, true, [], []⟩

/-- A joined pair with leat port 0 up. -/
def leatState : State :=
  modPort { hostState with leat := { hostState.leat with joined := true } } 0 fun p => { p with linkUp := true }
def beat : HeartbeatMsg := ⟨7, partNumber, 1, 1, 0, 0, 0, 0⟩
def copyWait : CopyWait := ⟨3, 0, false, 0, readReq, false, 0, 0⟩
def pondOne : PondEntry := ⟨0, 0, 5, false, 0, 0, false, 0, 0⟩
/-- The same with a mirrored region: secondary, and primary with a dirty granule and a resilver under way. -/
def secondState : State := { leatState with regions := [(0, BitVec.ofNat 128 (entryWord + 2 ^ 72 + 2 ^ 74))] }
def resilverDesc : Desc := { admDesc2 0x46 0 0 0 0 with work := 2, prog := [1, 0, 0, 0, 0] }
def resilverState : State :=
  putDesc { modLeat leatState (fun l => { l with dirty := [0] }) with regions := [(0, BitVec.ofNat 128 (entryWord + 2 ^ 72))] } 0 (some resilverDesc)
/-- Head 0 with lane 3 excluded for over a minute, a scan under way on lane 3, a mailbox that captures, an addressed register target. -/
def laneState : State :=
  { modLane (modHead (regSet hostState (oHpt 0 0) 2) 0 fun x => { x with excluded := [3] }) 3 (fun x => { x with cdr := false }) with now := 10 ^ 12 }
def scanState : State := modLane (regSet State.reset (oLan 3 0x24) 0x01010000) 3 fun x => { x with scanning := true }
def boxState : State := { hostState with acc := { hostState.acc with mailboxes := [(0, { mailboxInit with busy := true, sel := 0x01000000 })] } }
def sideState : State := { hostState with side := ⟨[(0, 9)], none⟩ }
def scanOne : State := regSet State.reset (oLan 3 0x20) 0

/-! Ill-formed commands, one for each check of `Instr.wf`: the check refuses them. -/

theorem test_wf_head : (Instr.memInv 4 0 0).wf = false := by decide
theorem test_wf_decoder : (Instr.hdmDecoderCommit 0 8 0 0 0 0 0 false true).wf = false := by decide
theorem test_wf_flume : (Instr.flumeHeld 32).wf = false := by decide
theorem test_wf_port : (Instr.requestAccept 0 9).wf = false := by decide
theorem test_wf_subchannel : (Instr.scheduleCommand 0 4 0).wf = false := by decide
theorem test_wf_tier : (Instr.rowIdleClose 0 0 17 0).wf = false := by decide
theorem test_wf_bank : (Instr.refreshDue 0 0 0 16).wf = false := by decide
theorem test_wf_row : (Instr.dramSliceStart 0 0 0 0 8224).wf = false := by decide
theorem test_wf_commands : (Instr.caparError 0 0 0 32 ⟨[], []⟩).wf = false := by decide
theorem test_wf_path : (Instr.runReqWrite 5 0).wf = false := by decide
theorem test_wf_mill : (Instr.partStart 32).wf = false := by decide
theorem test_wf_mill_fault : (Instr.millFault 0 4).wf = false := by decide
theorem test_wf_pair : (Instr.ringDrainDone 256).wf = false := by decide
theorem test_wf_vector : (Instr.msixPendingSend 0 64).wf = false := by decide
theorem test_wf_lane : (Instr.prbsLock 96 []).wf = false := by decide
theorem test_wf_link : (Instr.linkRecovery 6 [] false).wf = false := by decide
theorem test_wf_leat_port : (Instr.heartbeatSend 2).wf = false := by decide
theorem test_wf_page : (Instr.sharedPageWrite 0 4096 0).wf = false := by decide
theorem test_wf_rail : (Instr.railOutOfWindow 9).wf = false := by decide
theorem test_wf_sequence : (Instr.sequenceError 7).wf = false := by decide
theorem test_wf_returned : (Instr.railWindowReturn 7 startEnv).wf = false := by decide
theorem test_wf_target : (Instr.holdoffExpiry (some 32)).wf = false := by decide
theorem test_wf_readings : (Instr.thermalEvaluation []).wf = false := by decide
theorem test_wf_trip : (Instr.thermalTrip 184).wf = false := by decide
theorem test_wf_group : (Instr.windowClose 64 0).wf = false := by decide
theorem test_wf_source : (Instr.windowClose 0 16).wf = false := by decide
theorem test_wf_severity : (Instr.errorLineEvent 0 0 4 0 0 .pulse none).wf = false := by decide
theorem test_wf_block : (Instr.postedWriteTaken 204 ⟨[], []⟩).wf = false := by decide
theorem test_wf_sideband : (Instr.hotJoin 2).wf = false := by decide
theorem test_wf_address : (Instr.entdaa 0 128).wf = false := by decide
theorem test_wf_responder : (Instr.getVersion 5).wf = false := by decide

/-- What names no element of the device stops under that name, and is not run. -/
theorem test_no_flume : exec (.flumeHeld 32) State.reset = .fault .noSuchElement := rfl

/-! The spec's worked examples. -/

/-- The masks of "Worked translations" (02_addressing.md). -/
def exampleFlume : Flume :=
  { flumeInit with masks :=
      [(0, 0x00088001), (1, 0x00110002), (2, 0x00020080), (3, 0x00040100), (4, 0x00200200), (5, 0x00400400), (6, 0x00800800),
       (7, 0x01001000), (8, 0x02002000), (9, 0x04004000)] }
/-- Region 3 of the first example: base 256, size 48, FA base 512, flume 5. -/
def exampleLocal : Nat := 256 + 48 * 2 ^ 16 + 512 * 2 ^ 32 + 5 * 2 ^ 48 + 5 * 2 ^ 80 + 2 ^ 88 + 2 ^ 89
/-- Region 0 of the second: 64 GiB striped over 32 flumes by granules of 256 B. -/
def exampleStriped : Nat := 256 * 2 ^ 16 + 5 * 2 ^ 56 + 15 * 2 ^ 80 + 2 ^ 88

theorem test_local_fa : faOf exampleLocal 0x1234567840 = (5, 0x334567840) := by decide
theorem test_local_coordinate :
    mapLine exampleFlume (lineOf exampleLocal 0x1234567840).2 = { sc := 1, tier := 2, bank := 14, row := 0x19A2, col := 24 } := by decide
/-- The same line under the reset masks: SC1, bank group 3, bank 0, tier 11. -/
theorem test_reset_masks :
    mapLine flumeInit (lineOf exampleLocal 0x1234567840).2 = { sc := 1, tier := 11, bank := 12, row := 0x19A2, col := 24 } := by decide
/-- R26: software's tag is stored and returned; a reserved bit reads 0 (R6). -/
theorem test_entry_tag :
    regionWord (setEntry State.reset 3 (exampleLocal + 2 ^ 90 + 0x12345678 * 2 ^ 96)) 3 = exampleLocal + 0x12345678 * 2 ^ 96 := by decide
theorem test_striped_fa : faOf exampleStriped 0x123456789 = (7, 0x91A2B89) ∧ (faOf exampleStriped 0x123456800).1 = 8 := by decide
theorem test_striped_coordinate :
    mapLine exampleFlume (lineOf exampleStriped 0x123456789).2 = { sc := 2, tier := 13, bank := 13, row := 0x48, col := 11 } := by decide
theorem test_rank : rankGF2 10 ((List.range 10).map fun i => baseRow (maskOf exampleFlume i)) = 10 := by decide

/-- 19_register_conventions.md: the alias at 0x002C_4050 is FLM_WEIR of flume 12. -/
theorem test_alias : canonOff 0x002C4050 = oFlm 12 0x50 := by decide
/-- FLM_CTL at 0x0000_0004: writing 0x0004_0000 clears slice_en, writing 0x0005_0001 sets hold_req as well. -/
theorem test_masked_write : maskedValue 4 0x00040000 7 = 0 ∧ maskedValue 4 0x00050001 7 = 1 := by decide

/-- 05_data_protection.md: DQ wire 137 of SC3 of flume 14 becomes position 9 of group 2, CB wire 37 position 69 of it. -/
theorem test_erasures :
    (getSub (addErasure State.reset 14 3 137) (subKey 14 3)).erasures = [2 * 128 + 9] ∧
      (getSub (addErasure State.reset 14 3 (256 + 37)) (subKey 14 3)).erasures = [2 * 128 + 69] := by decide

/-- 13_fuses.md: the entry that redirects bay (12, SC2, 4), at row 1,189, slot 2, as entry 42. -/
theorem test_fuse_entry : entryMake 3 12 2 4 0 0 0 0 0 0 = 0x6C88000000000000 ∧ 1179 + 42 / 4 = 1189 ∧ 42 % 4 = 2 := by decide

/-- 10_lanes.md: phases -16 to +15 by 1 and voltages -28 to +28 by 4 are 480 points; with dwell 20 each compares 1,048,576 symbols. -/
def exampleScan : State := regSet (regSet State.reset (oLan 3 0x20) 0x1C640F30) (oLan 3 0x24) 0x00140401
theorem test_scan_points : scanPhases exampleScan 3 = 32 ∧ scanVolts exampleScan 3 = 15 ∧ scanSymbols exampleScan 3 = 1048576 := by decide

/-- R296: of the passing runs 20 to 25 and 40 to 49 the longer counts, its eye is 10 taps and its centre the lower middle tap, 44. -/
theorem test_eye : passRun ((List.range 128).filter fun k => k < 20 || (25 < k && k < 40) || 49 < k) (List.range 128) =
    List.range' 40 10 ∧ runCentre (List.range' 40 10) = 44 := by decide

/-- R245: an expected injection that arrives is seen; one that equals the pattern is missed and is a real error too. -/
theorem test_prbs_table :
    (fun x : Lane => (x.seen, x.missed, x.real)) (getLane (countBit State.reset 3 true false true ⟨0, 0, 0⟩) 3) = (1, 0, 0) ∧
      (fun x : Lane => (x.seen, x.missed, x.real)) (getLane (countBit State.reset 3 false false true ⟨0, 0, 0⟩) 3) = (0, 1, 1) := by decide

/-- 07_operators.md: the program RNG, CMPK, AND, END over 4-byte signed elements keeps 10 to 50 but not 25. -/
def exampleSieve : List Byte :=
  leBytes 8 0x0304 ++ leBytes 4 0x0C800010 ++ leBytes 4 0x09000011 ++ leBytes 4 0x15940000 ++ leBytes 4 0x00300000 ++
    List.replicate 240 0 ++ leBytes 16 10 ++ leBytes 16 50 ++ leBytes 16 25
theorem test_sieve_passes : sieveFault 66 exampleSieve = none := by decide
theorem test_sieve_keeps :
    (sieveBatch 66 exampleSieve [9, 10, 25, 50, 51, 0xFFFFFFFF] 0).1 = [false, true, false, true, false, false] := by decide

/-- 07_operators.md: a table with k = 20 and 8-byte keys has 16-byte slots; hash 0x9E37_52C4 gives home bucket 0x7_52C4 and tag 0xCF. -/
theorem test_hash_table : slotSize ⟨0, 20, 8, 4⟩ = 16 ∧ homeOf ⟨0, 20, 8, 4⟩ 0x9E3752C4 = 0x752C4 ∧ tagOf 0x9E3752C4 = 0xCF := by decide

/-! Codes of published standards that the spec names: the check values are the standards'. -/

/-- CRC-32C (RFC 3720) of the ASCII digits 1 to 9. -/
theorem test_crc : crc32c 0 [0x31, 0x32, 0x33, 0x34, 0x35, 0x36, 0x37, 0x38, 0x39] = 0xE3069283 := by decide
/-- RFC 3720 B.4: 32 bytes of zeros. -/
theorem test_crc_zeros : crc32c 0 (List.replicate 32 0) = 0x8A9136AA := by decide
/-- FIPS 180-4: SHA-384 of "abc", its first eight bytes. -/
theorem test_sha384 : (sha384 [0x61, 0x62, 0x63]).take 8 = [0xcb, 0x00, 0x75, 0x3f, 0x45, 0xa3, 0x5e, 0x8b] := by decide
/-- R90: a stored word with one position in error decodes to what was stored, with one correction. -/
theorem test_ecc_corrects : bchDecode (bchEncode 0x123456789 ^^^ 2 ^ 70) [] = some (bchEncode 0x123456789, 1) := by decide
/-- R90: two errors are corrected, three are detected. -/
theorem test_ecc_limit : bchDecode (bchEncode 5 ^^^ (2 ^ 3 + 2 ^ 77)) [] = some (bchEncode 5, 2) ∧
    bchDecode (bchEncode 5 ^^^ (2 ^ 3 + 2 ^ 40 + 2 ^ 77)) [] = none := by decide

/-! Values and small steps. -/

theorem test_seq_wraps : nextSeq 255 = 1 ∧ nextSeq 254 = 255 := by decide
theorem test_register_reset : regGet State.reset (oFlm 3 0x50) = 0xA000C0 ∧ regGet State.reset (oPwr 0x24) = 0x10032 := by decide
/-- R436: the write of 19_register_conventions.md to FLM_WEIR through its alias is posted at block 12 and then taken. -/
theorem test_weir_posted :
    (match exec (.registerWrite 0 0x002C4050 (leBytes 4 0x00600080) startEnv) hostState with
      | .next t => some t.acc.posted
      | _ => none) = some [(12, some ⟨0, 0x002C4050, [0x00600080]⟩)] := by decide
theorem test_weir_taken :
    (match exec (.postedWriteTaken 12 ⟨[], []⟩) { hostState with acc := { hostState.acc with posted := [(12, some ⟨0, 0x002C4050, [0x00600080]⟩)] } } with
      | .next t => some (regGet t (oFlm 12 0x50))
      | _ => none) = some 0x00600080 := by decide
theorem test_idle_tick : step State.reset = .next { State.reset with now := 1 } := rfl
theorem test_front : step { State.reset with pending := [.flumeHeld 0, .bypass] } = exec (.flumeHeld 0) { State.reset with pending := [.bypass] } := rfl
/-- No row of the table gives bits, so no word spells a command. -/
theorem test_no_words : decodeTableWord 32 0 = none ∧ State.withFetchWord State.reset 32 0 = State.reset := by decide

/-! Every hypothesis of a statement is met somewhere. -/

theorem meets_EmptyQueue_1 : ∃ (s : State), 
    s.pending = [] :=
  ⟨State.reset, by decide⟩

theorem meets_EveryCommandRuns_1 : ∃ (s : State), ∃ (c : Instr), 
    c.wf = true :=
  ⟨State.reset, .bypass, by decide⟩

theorem meets_CanonicalStep_1 : ∃ (s : State), 
    s.wf ∧ s.queueWf :=
  ⟨State.reset, reset_wf, by intro c h; cases h⟩

theorem meets_CommandTouches_1 : ∃ (s : State), ∃ (t : State), ∃ (c : Instr), ∃ (k : Field), 
    exec c s = .next t ∧ k ∉ touches c :=
  ⟨State.reset, emit State.reset (.testPort 0 0), .bypass, .fuses, rfl, by decide⟩

theorem meets_FuseBitsOnlySet_1 : ∃ (s : State), ∃ (t : State), 
    s.wf ∧ s.queueWf ∧ step s = .next t :=
  ⟨State.reset, { State.reset with now := 1 }, reset_wf, (by intro c h; cases h), rfl⟩

theorem meets_SentStaysSent_1 : ∃ (s : State), ∃ (t : State), ∃ (c : Instr), 
    c.wf = true ∧ exec c s = .next t :=
  ⟨State.reset, emit State.reset (.testPort 0 0), .bypass, by decide, rfl⟩

theorem meets_HdmCommit_1 : ∃ (s : State), ∃ (h : Nat), ∃ (i : Nat), ∃ (base : Nat), ∃ (size : Nat), ∃ (ways : Nat), ∃ (gran : Nat), ∃ (skip : Nat), ∃ (lock : Bool), 
    h < 4 ∧ i < 8 ∧ (tabGet decoderInit (getHead s h).decoders i).committed = false :=
  ⟨State.reset, 0, 0, 0, 0, 1, 256, 0, true, by decide⟩

theorem meets_HdmCommit_2 : ∃ (s : State), ∃ (h : Nat), ∃ (i : Nat), ∃ (base : Nat), ∃ (size : Nat), ∃ (ways : Nat), ∃ (gran : Nat), ∃ (skip : Nat), ∃ (lock : Bool), 
    h < 4 ∧ i < 8 ∧ (tabGet decoderInit (getHead s h).decoders i).lock = false ∧ (tabGet decoderInit (getHead s h).decoders (i + 1)).committed = false :=
  ⟨modHead State.reset 3 (fun x => { x with decoders := [(7, ⟨0, 0, 1, 256, 0, 0, true, false, false⟩)] }), 3, 7, 0, 0, 1, 256, 0, false, by decide⟩

theorem meets_HdmCommit_3 : ∃ (s : State), ∃ (h : Nat), ∃ (i : Nat), ∃ (base : Nat), ∃ (size : Nat), ∃ (ways : Nat), ∃ (gran : Nat), ∃ (skip : Nat), ∃ (lock : Bool), ∃ (commit : Bool), 
    h < 4 ∧ i < 8 ∧ (tabGet decoderInit (getHead s h).decoders i).committed = true ∧ ((tabGet decoderInit (getHead s h).decoders i).lock = true ∨ commit = true) :=
  ⟨modHead State.reset 3 (fun x => { x with decoders := [(7, ⟨0, 0, 1, 256, 0, 0, true, true, false⟩)] }), 3, 7, 0, 0, 1, 256, 0, false, false, by decide⟩

theorem meets_HostRequestsWait_1 : ∃ (s : State), ∃ (h : Nat), ∃ (tag : Nat), ∃ (hpa : Nat), ∃ (meta0 : Bool), ∃ (dpa : Nat), ∃ (i : Nat), 
    s.wf ∧ h < 4 ∧ mayRead (getHead s h) = true ∧ s.flt.safe = false ∧ dpaOfHpa (getHead s h) hpa = some dpa ∧ regionAt s dpa = some i ∧ bitOf (rgHeads (regionWord s i)) h = true :=
  ⟨hostState, 0, 5, 0, true, 0, 0, hostState_wf, by decide⟩

theorem meets_HostRequestsWait_2 : ∃ (s : State), ∃ (h : Nat), ∃ (tag : Nat), ∃ (hpa : Nat), ∃ (data : Line), ∃ (poison : Bool), ∃ (md : Option (BitVec 2)), ∃ (dpa : Nat), ∃ (i : Nat), 
    s.wf ∧ h < 4 ∧ mayWrite (getHead s h) = true ∧ s.flt.safe = false ∧ dpaOfHpa (getHead s h) hpa = some dpa ∧ regionAt s dpa = some i ∧ bitOf (rgHeads (regionWord s i)) h = true ∧ (rgMode (regionWord s i) != 0 && rgSecondary (regionWord s i)) = false :=
  ⟨hostState, 0, 5, 0, 7, true, none, 0, 0, hostState_wf, by decide⟩

theorem meets_HostRequestsWait_3 : ∃ (s : State), ∃ (h : Nat), ∃ (tag : Nat), ∃ (hpa : Nat), ∃ (data : Line), ∃ (mask : BitVec 64), ∃ (poison : Bool), ∃ (md : Option (BitVec 2)), ∃ (dpa : Nat), ∃ (i : Nat), 
    s.wf ∧ h < 4 ∧ mayWrite (getHead s h) = true ∧ s.flt.safe = false ∧ dpaOfHpa (getHead s h) hpa = some dpa ∧ regionAt s dpa = some i ∧ bitOf (rgHeads (regionWord s i)) h = true ∧ (rgMode (regionWord s i) != 0 && rgSecondary (regionWord s i)) = false :=
  ⟨hostState, 0, 5, 0, 7, 1, false, none, 0, 0, hostState_wf, by decide⟩

theorem meets_HostRequestsWait_5 : ∃ (s : State), ∃ (h : Nat), ∃ (tag : Nat), ∃ (hpa : Nat), 
    h < 4 ∧ mayRead (getHead s h) = true :=
  ⟨hostState, 0, 9, 5, by decide⟩

theorem meets_ArrivalFrame_1 : ∃ (s : State), ∃ (h : Nat), 
    s.wf :=
  ⟨hostState, 0, hostState_wf⟩

theorem meets_ArrivalFrame_2 : ∃ (s : State), ∃ (f : Nat), ∃ (r : Req), 
    s.wf :=
  ⟨hostState, 0, reqInit, hostState_wf⟩

theorem meets_RequestsAccepted_1 : ∃ (s : State), ∃ (f : Nat), ∃ (port : Nat), ∃ (r : Req), ∃ (rest : List Req), 
    f < 32 ∧ port < 9 ∧ takeFirst (acceptTurn s f port) (getFlume s f).waiting = some (r, rest) ∧ (flumeOpen s f && portFree (getFlume s f) port && destFree s r.dest) = true ∧ r.kind = .read ∧ r.secondary = false ∧ (placeOf (bumpId (taken s f port r rest) f) f r.line).isSome = true ∧ (getFlume (bumpId (taken s f port r rest) f) f).refetch.contains r.line = false :=
  ⟨waitState, 0, 0, readReq, [], by decide⟩

theorem meets_RequestsAccepted_2 : ∃ (s : State), ∃ (f : Nat), ∃ (port : Nat), ∃ (r : Req), ∃ (rest : List Req), ∃ (h : Nat), ∃ (tag : Nat), ∃ (m : Bool), 
    f < 32 ∧ port < 9 ∧ takeFirst (acceptTurn s f port) (getFlume s f).waiting = some (r, rest) ∧ (flumeOpen s f && portFree (getFlume s f) port && destFree s r.dest) = true ∧ r.kind = .write ∧ r.dest = .host h tag m ∧ r.primary = false ∧ (placeOf (answered s f port r rest h tag) f r.line).isSome = true :=
  ⟨waitWrite, 0, 0, writeReq, [], 0, 3, false, by decide⟩

theorem meets_RequestsAccepted_3 : ∃ (s : State), ∃ (f : Nat), ∃ (port : Nat), 
    f < 32 ∧ port < 9 ∧ takeFirst (acceptTurn s f port) (getFlume s f).waiting = none :=
  ⟨State.reset, 0, 0, by decide⟩

theorem meets_QueueMarks_1 : ∃ (s : State), ∃ (f : Nat), ∃ (rid : Nat), ∃ (r : Req), 
    f < 32 ∧ (getFlume s f).queue.find? (fun q => q.id == rid) = some r ∧ ageLimit s f r.cls < s.now - r.since :=
  ⟨{ queueState with now := 1000000 }, 0, 0, readReq, by decide⟩

theorem meets_QueueMarks_2 : ∃ (s : State), ∃ (f : Nat), ∃ (rid : Nat), ∃ (r : Req), 
    f < 32 ∧ (getFlume s f).queue.find? (fun q => q.id == rid) = some r :=
  ⟨queueState, 0, 0, readReq, by decide⟩

theorem meets_ScheduleOneCommand_1 : ∃ (s : State), ∃ (f : Nat), ∃ (sc : Nat), ∃ (gap : Nat), 
    f < 32 ∧ sc < 4 ∧ (subIssues (passCycles s (subKey f sc) gap) f sc = false ∨ fullPass (passCycles s (subKey f sc) gap) f sc = true) :=
  ⟨modSub State.reset 0 (fun u => { u with stopped := true }), 0, 0, 8, by decide⟩

theorem meets_ScheduleOneCommand_2 : ∃ (s : State), ∃ (f : Nat), ∃ (sc : Nat), ∃ (gap : Nat), ∃ (b : Nat), 
    f < 32 ∧ sc < 4 ∧ subIssues (passCycles s (subKey f sc) gap) f sc = true ∧ fullPass (passCycles s (subKey f sc) gap) f sc = false ∧ zeroRefresh (passCycles s (subKey f sc) gap) (subKey f sc) = some b :=
  ⟨modBank State.reset 5 (fun k => { k with refDue := 1 }), 0, 0, 8, 5, by decide⟩

theorem meets_ScheduleOneCommand_3 : ∃ (s : State), ∃ (f : Nat), ∃ (sc : Nat), ∃ (gap : Nat), 
    f < 32 ∧ sc < 4 ∧ subIssues (passCycles s (subKey f sc) gap) f sc = true ∧ fullPass (passCycles s (subKey f sc) gap) f sc = false ∧ zeroRefresh (passCycles s (subKey f sc) gap) (subKey f sc) = none ∧ (getFlume (passCycles s (subKey f sc) gap) f).held = true :=
  ⟨modFlume State.reset 0 (fun x => { x with held := true }), 0, 0, 8, by decide⟩

theorem meets_ScheduleOneCommand_4 : ∃ (s : State), ∃ (f : Nat), ∃ (sc : Nat), ∃ (gap : Nat), ∃ (b : Nat), 
    f < 32 ∧ sc < 4 ∧ subIssues (passCycles s (subKey f sc) gap) f sc = true ∧ fullPass (passCycles s (subKey f sc) gap) f sc = false ∧ zeroRefresh (passCycles s (subKey f sc) gap) (subKey f sc) = none ∧ (getFlume (passCycles s (subKey f sc) gap) f).held = false ∧ zeroElement (passCycles s (subKey f sc) gap) f (subKey f sc) = some b :=
  ⟨modFlume State.reset 0 (fun x => { x with heldRows := [⟨5, 3, true, 0, []⟩] }), 0, 0, 8, 5, by decide⟩

theorem meets_ScheduleOneCommand_5 : ∃ (s : State), ∃ (f : Nat), ∃ (sc : Nat), ∃ (gap : Nat), ∃ (p : Pass), 
    f < 32 ∧ sc < 4 ∧ subIssues (passCycles s (subKey f sc) gap) f sc = true ∧ fullPass (passCycles s (subKey f sc) gap) f sc = false ∧ zeroRefresh (passCycles s (subKey f sc) gap) (subKey f sc) = none ∧ (getFlume (passCycles s (subKey f sc) gap) f).held = false ∧ zeroElement (passCycles s (subKey f sc) gap) f (subKey f sc) = none ∧ livePass (passCycles s (subKey f sc) gap) f sc = some p ∧ trainFirst (passCycles s (subKey f sc) gap) p (bestCand (candsOf (passCycles s (subKey f sc) gap) f sc)) = true :=
  ⟨modFlume State.reset 0 (fun x => { x with passes := [(0, some ⟨3, 1, false, 0, 0⟩)] }), 0, 0, 8, ⟨3, 1, false, 0, 0⟩, by decide⟩

theorem meets_ScheduleOneCommand_6 : ∃ (s : State), ∃ (f : Nat), ∃ (sc : Nat), ∃ (gap : Nat), 
    f < 32 ∧ sc < 4 ∧ subIssues (passCycles s (subKey f sc) gap) f sc = true ∧ fullPass (passCycles s (subKey f sc) gap) f sc = false ∧ zeroRefresh (passCycles s (subKey f sc) gap) (subKey f sc) = none ∧ (getFlume (passCycles s (subKey f sc) gap) f).held = false ∧ zeroElement (passCycles s (subKey f sc) gap) f (subKey f sc) = none ∧ ((∀ p, livePass (passCycles s (subKey f sc) gap) f sc = some p → trainFirst (passCycles s (subKey f sc) gap) p (bestCand (candsOf (passCycles s (subKey f sc) gap) f sc)) = false)) :=
  ⟨queueState, 0, 0, 8, by decide, by decide, by decide, by decide, by decide, by decide, by decide, by intro p h; cases h⟩

theorem meets_ScheduleOneCommand_7 : ∃ (s : State), ∃ (f : Nat), ∃ (sc : Nat), ∃ (tier : Nat), ∃ (bank : Nat), ∃ (row : Nat), 
    f < 32 ∧ sc < 4 ∧ tier < 17 ∧ bank < 16 ∧ (getBank (passCycles s (subKey f sc) 1) (bankKey f sc tier bank)).openRow = some row ∧ regField s (oFlm f 0x54) 7 0 ≤ (getSub (passCycles s (subKey f sc) 1) (subKey f sc)).cycle - (getBank (passCycles s (subKey f sc) 1) (bankKey f sc tier bank)).usedAt ∧ (getBank (passCycles s (subKey f sc) 1) (bankKey f sc tier bank)).preAt ≤ (getSub (passCycles s (subKey f sc) 1) (subKey f sc)).cycle ∧ hitWaits s f (bankKey f sc tier bank) row = false ∧ subIssues (passCycles s (subKey f sc) 1) f sc = true ∧ fullPass (passCycles s (subKey f sc) 1) f sc = false ∧ (getFlume s f).held = false :=
  ⟨modSub (modBank State.reset 0 fun k => { k with openRow := some 7 }) 0 (fun u => { u with cycle := 300 }), 0, 0, 0, 0, 7, by decide⟩

theorem meets_ScheduleOneCommand_8 : ∃ (s : State), ∃ (f : Nat), ∃ (sc : Nat), ∃ (tier : Nat), ∃ (bank : Nat), 
    f < 32 ∧ sc < 4 ∧ tier < 17 ∧ bank < 16 ∧ (getBank (passCycles s (subKey f sc) 1) (bankKey f sc tier bank)).openRow = none :=
  ⟨State.reset, 0, 0, 0, 0, by decide⟩

theorem meets_RowCommands_1 : ∃ (s : State), ∃ (f : Nat), ∃ (sub : Nat), ∃ (b : Nat), ∃ (row : Nat), 
    s.wf :=
  ⟨State.reset, 0, 0, 0, 5, reset_wf⟩

theorem meets_RowCommands_2 : ∃ (s : State), ∃ (f : Nat), ∃ (sub : Nat), ∃ (b : Nat), 
    s.wf :=
  ⟨State.reset, 0, 0, 0, reset_wf⟩

theorem meets_RowCommands_3 : ∃ (s : State), ∃ (f : Nat), ∃ (sub : Nat), ∃ (b : Nat), 
    s.wf :=
  ⟨State.reset, 0, 0, 0, reset_wf⟩

theorem meets_WriteStoresItsLine_1 : ∃ (s : State), ∃ (f : Nat), ∃ (line : Nat), ∃ (data : Nat), ∃ (md : Option (BitVec 2)), ∃ (dirty : Bool), ∃ (poison : Bool), ∃ (inj : List Nat), ∃ (p : Place), 
    placeOf s f line = some p :=
  ⟨State.reset, 0, 0, 7, none, false, false, [], ⟨0, 0, 0⟩, by decide⟩

theorem meets_WriteStoresItsLine_2 : ∃ (s : State), ∃ (f : Nat), ∃ (line : Nat), ∃ (data : Nat), ∃ (md : Option (BitVec 2)), ∃ (dirty : Bool), ∃ (poison : Bool), ∃ (inj : List Nat), 
    placeOf s f line = none :=
  ⟨modBay State.reset 0 (fun x => { x with offline := true }), 0, 0, 7, none, false, false, [], by decide⟩

theorem meets_WriteStoresItsLine_3 : ∃ (s : State), ∃ (p : Place), ∃ (v : Nat), 
    s.wf ∧ heldAt s p = none ∧ v < 2 ^ 640 :=
  ⟨State.reset, ⟨0, 0, 1⟩, 7, reset_wf, by decide⟩

theorem meets_WriteStoresItsLine_4 : ∃ (s : State), ∃ (p : Place), ∃ (v : Nat), ∃ (h : HeldRow), 
    heldAt s p = some h :=
  ⟨modFlume State.reset 0 (fun x => { x with heldRows := [⟨0, 3, true, 0, []⟩] }), ⟨0, 3, 1⟩, 7, ⟨0, 3, true, 0, []⟩, by decide⟩

theorem meets_ReadReturns_1 : ∃ (s : State), ∃ (f : Nat), ∃ (rid : Nat), ∃ (flips1 : List Nat), ∃ (flips2 : List Nat), ∃ (r : Req), ∃ (p : Place), 
    f < 32 ∧ (getFlume s f).inflight.find? (fun q => q.id == rid) = some r ∧ destFree s r.dest = true ∧ copyOf s f rid = none ∧ readHeld (getSub s (subKey f (coordOf s f r.line).sc)) rid = false ∧ r.kind = .read ∧ placeOf (backNow s f rid r) f r.line = some p ∧ (readPlace (backNow s f rid r) p flips1).bad = false ∧ (readPlace (backNow s f rid r) p flips1).words = 0 ∧ poisonSplit (readPlace (backNow s f rid r) p flips1).md = false :=
  ⟨flightState, 0, 0, [], [], readReq, ⟨0, 0, 0⟩, by decide⟩

theorem meets_ReadReturns_2 : ∃ (s : State), ∃ (r : Req), ∃ (f : Nat), ∃ (data : Nat), ∃ (md : Nat), ∃ (h : Nat), ∃ (tag : Nat), ∃ (m : Bool), 
    r.dest = .host h tag m :=
  ⟨State.reset, readReq, 0, 0, 0, 0, 5, true, by decide⟩

theorem meets_ReadReturns_3 : ∃ (s : State), ∃ (f : Nat), ∃ (rid : Nat), ∃ (flips1 : List Nat), ∃ (flips2 : List Nat), 
    f < 32 ∧ (getFlume s f).inflight.find? (fun q => q.id == rid) = none :=
  ⟨State.reset, 0, 0, [], [], by decide⟩

theorem meets_Overload_1 : ∃ (s : State), ∃ (f : Nat), ∃ (h : Nat), ∃ (t : Nat), 
    f < 32 ∧ h < 4 ∧ tabGet none (getFlume s f).aboveSince h = some t ∧ 1000000 ≤ s.now - t ∧ (getFlume s f).overloadSaid.contains h = false :=
  ⟨{ modFlume State.reset 0 (fun x => { x with aboveSince := [(1, some 0)] }) with now := 1000000 }, 0, 1, 0, by decide⟩

theorem meets_Overload_2 : ∃ (s : State), ∃ (f : Nat), ∃ (h : Nat), 
    f < 32 ∧ h < 4 ∧ (((getFlume s f).overloadSaid.contains h = true ∨ tabGet none (getFlume s f).aboveSince h = none ∨ ∃ t, tabGet none (getFlume s f).aboveSince h = some t ∧ s.now - t < 1000000)) :=
  ⟨modFlume State.reset 0 (fun x => { x with overloadSaid := [1] }), 0, 1, ⟨by decide, by decide, .inl (by decide)⟩⟩

theorem meets_FlumeHold_1 : ∃ (s : State), ∃ (path : Nat), ∃ (f : Nat), ∃ (v : Word), 
    path < 5 ∧ f < 32 ∧ pathOpen s path = true ∧ busy s f = false ∧ portAwake s f = true :=
  ⟨hostState, 0, 0, 1, by decide⟩

theorem meets_FlumeHold_2 : ∃ (s : State), ∃ (f : Nat), 
    f < 32 ∧ (getFlume s f).holding = true ∧ (getFlume s f).queue = [] ∧ (getFlume s f).inflight = [] ∧ (getFlume s f).heldRows = [] ∧ (s.leat.copies.any fun c => c.flume == f) = false ∧ ((List.range 4).all fun sc => (getSub s (subKey f sc)).held.isEmpty) = true :=
  ⟨modFlume State.reset 3 (fun x => { x with holding := true }), 3, by decide⟩

theorem meets_FlumeHold_3 : ∃ (s : State), ∃ (f : Nat), 
    f < 32 ∧ (((getFlume s f).holding = false ∨ (getFlume s f).queue ≠ [] ∨ (getFlume s f).inflight ≠ [] ∨ (getFlume s f).heldRows ≠ [])) :=
  ⟨State.reset, 3, by decide⟩

theorem meets_PostedWrites_1 : ∃ (s : State), ∃ (path : Nat), ∃ (off : Nat), ∃ (port : Nat), ∃ (v : Nat), ∃ (take : State → State), 
    pathOpen s path = false :=
  ⟨State.reset, 0, 0, 0, 0, id, by decide⟩

theorem meets_PostedWrites_2 : ∃ (s : State), ∃ (path : Nat), ∃ (off : Nat), ∃ (port : Nat), ∃ (v : Nat), ∃ (take : State → State), 
    pathOpen s path = true ∧ busy s port = true :=
  ⟨{ hostState with acc := { hostState.acc with posted := [(0, some ⟨0, 0, [1]⟩)] } }, 0, 0, 0, 0, id, by decide⟩

theorem meets_PostedWrites_3 : ∃ (s : State), ∃ (path : Nat), ∃ (off : Nat), ∃ (port : Nat), ∃ (v : Nat), ∃ (take : State → State), 
    pathOpen s path = true ∧ busy s port = false ∧ portAwake s port = false :=
  ⟨modFlume hostState 2 (fun x => { x with pstate := 3 }), 0, 0, 2, 5, id, by decide⟩

theorem meets_CommandParity_1 : ∃ (s : State), ∃ (f : Nat), ∃ (sc : Nat), ∃ (tier : Nat), ∃ (n : Nat), ∃ (loop : LoopRes), ∃ (e : Issued), 
    f < 32 ∧ sc < 4 ∧ tier < 17 ∧ s.flt.safe = false ∧ (getSub s (subKey f sc)).offline = false ∧ (getSub s (subKey f sc)).retry.find? (fun x => x.n == n) = some e ∧ e.fails < 3 :=
  ⟨modSub State.reset 1 (fun u => { u with retry := [⟨4, 0, 2, .pre 5⟩] }), 0, 1, 16, 4, ⟨[], []⟩, ⟨4, 0, 2, .pre 5⟩, by decide⟩

theorem meets_CommandParity_2 : ∃ (s : State), ∃ (f : Nat), ∃ (sc : Nat), ∃ (tier : Nat), ∃ (n : Nat), ∃ (loop : LoopRes), ∃ (e : Issued), 
    f < 32 ∧ sc < 4 ∧ tier < 17 ∧ s.flt.safe = false ∧ (getSub s (subKey f sc)).offline = false ∧ (getSub s (subKey f sc)).retry.find? (fun x => x.n == n) = some e ∧ 3 ≤ e.fails ∧ ((loop.wires.filter fun w => 320 ≤ w ∧ w ≤ 344) = []) :=
  ⟨modSub State.reset 1 (fun u => { u with retry := [⟨4, 0, 3, .pre 5⟩] }), 0, 1, 16, 4, ⟨[], []⟩, ⟨4, 0, 3, .pre 5⟩, by decide⟩

theorem meets_CommandParity_3 : ∃ (s : State), ∃ (f : Nat), ∃ (sc : Nat), ∃ (tier : Nat), ∃ (n : Nat), ∃ (loop : LoopRes), 
    f < 32 ∧ sc < 4 ∧ tier < 17 ∧ (((getSub s (subKey f sc)).retry.find? (fun x => x.n == n) = none ∨ (getSub s (subKey f sc)).offline = true ∨ s.flt.safe = true)) :=
  ⟨State.reset, 0, 1, 16, 4, ⟨[], []⟩, by decide⟩

theorem meets_TrackerExpiry_1 : ∃ (s : State), ∃ (f : Nat), ∃ (key : Nat), 
    f < 32 :=
  ⟨State.reset, 0, 5, by decide⟩

theorem meets_TrackerExpiry_2 : ∃ (s : State), ∃ (f : Nat), ∃ (key : Nat), 
    f < 32 :=
  ⟨State.reset, 0, 5, by decide⟩

theorem meets_RefreshWork_1 : ∃ (s : State), ∃ (f : Nat), ∃ (sc : Nat), ∃ (tier : Nat), ∃ (bank : Nat), 
    f < 32 ∧ sc < 4 ∧ tier < 17 ∧ bank < 16 ∧ (getBank s (bankKey f sc tier bank)).dueAt ≤ s.now ∧ busRefresh s f sc tier = true ∧ ((((getSub s (subKey f sc)).logicSlice = true ∧ 7 ≤ (getBank s (bankKey f sc tier bank)).owed) ∨ ((getSub s (subKey f sc)).logicSlice = false ∧ (bankWanted s f (bankKey f sc tier bank) = false ∨ postponeMax s f ≤ (getBank s (bankKey f sc tier bank)).owed)))) :=
  ⟨{ State.reset with now := 1000000 }, 0, 0, 0, 0, by decide⟩

theorem meets_RefreshWork_2 : ∃ (s : State), ∃ (f : Nat), ∃ (sc : Nat), ∃ (tier : Nat), ∃ (bank : Nat), 
    f < 32 ∧ sc < 4 ∧ tier < 17 ∧ bank < 16 ∧ (getBank s (bankKey f sc tier bank)).dueAt ≤ s.now ∧ busRefresh s f sc tier = true ∧ ((((getSub s (subKey f sc)).logicSlice = true ∧ (getBank s (bankKey f sc tier bank)).owed < 7) ∨ ((getSub s (subKey f sc)).logicSlice = false ∧ bankWanted s f (bankKey f sc tier bank) = true ∧ (getBank s (bankKey f sc tier bank)).owed < postponeMax s f))) :=
  ⟨{ queueState with now := 1000000 }, 0, 0, 0, 0, by decide⟩

theorem meets_RefreshWork_3 : ∃ (s : State), ∃ (f : Nat), ∃ (sc : Nat), ∃ (tier : Nat), ∃ (bank : Nat), 
    f < 32 ∧ sc < 4 ∧ tier < 17 ∧ bank < 16 ∧ ((s.now < (getBank s (bankKey f sc tier bank)).dueAt ∨ busRefresh s f sc tier = false)) :=
  ⟨modBank State.reset 0 (fun k => { k with dueAt := 5 }), 0, 0, 0, 0, by decide⟩

theorem meets_RefreshWork_4 : ∃ (s : State), ∃ (f : Nat), ∃ (sc : Nat), ∃ (tier : Nat), ∃ (bank : Nat), 
    f < 32 ∧ sc < 4 ∧ tier < 17 ∧ bank < 16 ∧ busRefresh s f sc tier = true ∧ (getSub s (subKey f sc)).logicSlice = false ∧ (getBank s (bankKey f sc tier bank)).owedDue < (getBank s (bankKey f sc tier bank)).owed ∧ ((postponeMax s f ≤ (getBank s (bankKey f sc tier bank)).owed ∨ bankWanted s f (bankKey f sc tier bank) = false ∧ (getBank s (bankKey f sc tier bank)).owedDue = 0)) :=
  ⟨modBank State.reset 0 (fun k => { k with owed := 3 }), 0, 0, 0, 0, by decide⟩

theorem meets_RefreshWork_5 : ∃ (s : State), ∃ (f : Nat), ∃ (sc : Nat), ∃ (tier : Nat), ∃ (bank : Nat), 
    f < 32 ∧ sc < 4 ∧ tier < 17 ∧ bank < 16 ∧ (((getBank s (bankKey f sc tier bank)).owed ≤ (getBank s (bankKey f sc tier bank)).owedDue ∨ (getSub s (subKey f sc)).logicSlice = true)) :=
  ⟨State.reset, 0, 0, 0, 0, by decide⟩

theorem meets_RefreshWork_6 : ∃ (s : State), ∃ (f : Nat), ∃ (sc : Nat), ∃ (tier : Nat), ∃ (bank : Nat), 
    f < 32 ∧ sc < 4 ∧ tier < 17 ∧ bank < 16 ∧ (getBank s (bankKey f sc tier bank)).dueAt ≤ s.now ∧ bayOut s f sc tier = false ∧ ((2 ≤ (getFlume s f).pstate ∨ s.flt.safe = true)) ∧ (getFlume s f).pstate ≠ 4 :=
  ⟨{ modFlume State.reset 0 (fun x => { x with pstate := 3 }) with now := 1000000 }, 0, 0, 0, 0, by decide⟩

theorem meets_RefreshWork_7 : ∃ (s : State), ∃ (f : Nat), ∃ (sc : Nat), ∃ (tier : Nat), ∃ (bank : Nat), 
    f < 32 ∧ sc < 4 ∧ tier < 17 ∧ bank < 16 ∧ (getBank s (bankKey f sc tier bank)).dueAt ≤ s.now ∧ bayOut s f sc tier = false ∧ (getFlume s f).pstate = 4 :=
  ⟨{ modFlume State.reset 0 (fun x => { x with pstate := 4 }) with now := 1000000 }, 0, 0, 0, 0, by decide⟩

theorem meets_RefreshWork_8 : ∃ (s : State), ∃ (f : Nat), ∃ (sc : Nat), ∃ (tier : Nat), ∃ (bank : Nat), 
    f < 32 ∧ sc < 4 ∧ tier < 17 ∧ bank < 16 ∧ ((s.now < (getBank s (bankKey f sc tier bank)).dueAt ∨ bayOut s f sc tier = true ∨ (getFlume s f).pstate ≤ 1 ∧ s.flt.safe = false)) :=
  ⟨State.reset, 0, 0, 0, 0, by decide⟩

theorem meets_RefreshWork_9 : ∃ (s : State), ∃ (f : Nat), ∃ (b : Nat), 
    s.wf :=
  ⟨State.reset, 0, 0, reset_wf⟩

theorem meets_CanaryAndScrub_1 : ∃ (s : State), ∃ (f : Nat), ∃ (env : OpEnv), 
    f < 32 ∧ flumeOpen s f = true ∧ (getFlume s f).pstate = 0 ∧ max s.boot.since (getFlume s f).sweepAt + 256000000 ≤ s.now :=
  ⟨{ hostState with now := 10 ^ 10 }, 0, ⟨[], [], [], []⟩, by decide⟩

theorem meets_CanaryAndScrub_2 : ∃ (s : State), ∃ (f : Nat), ∃ (env : OpEnv), 
    f < 32 ∧ ((flumeOpen s f = false ∨ (getFlume s f).pstate ≠ 0 ∨ s.now < max s.boot.since (getFlume s f).sweepAt + 256000000)) :=
  ⟨modFlume hostState 0 (fun x => { x with held := true }), 0, ⟨[], [], [], []⟩, by decide⟩

theorem meets_CanaryAndScrub_3 : ∃ (s : State), ∃ (f : Nat), ∃ (sc : Nat), ∃ (tier : Nat), ∃ (bank : Nat), ∃ (env : OpEnv), 
    f < 32 ∧ sc < 4 ∧ tier < 17 ∧ bank < 16 ∧ (getBank s (bankKey f sc tier bank)).scrubbing = true :=
  ⟨modBank State.reset 0 (fun k => { k with scrubbing := true }), 0, 0, 0, 0, ⟨[], [], [], []⟩, by decide⟩

theorem meets_CanaryAndScrub_4 : ∃ (s : State), ∃ (f : Nat), ∃ (sc : Nat), ∃ (tier : Nat), ∃ (bank : Nat), ∃ (env : OpEnv), 
    f < 32 ∧ sc < 4 ∧ tier < 17 ∧ bank < 16 ∧ (getBank s (bankKey f sc tier bank)).scrubbing = false :=
  ⟨State.reset, 0, 0, 0, 0, ⟨[], [], [], []⟩, by decide⟩

theorem meets_RepairRecords_1 : ∃ (s : State), ∃ (f : Nat), 
    f < 32 ∧ (getFlume s f).remapDirty = true :=
  ⟨modFlume State.reset 0 (fun x => { x with remapDirty := true }), 0, by decide⟩

theorem meets_RepairRecords_2 : ∃ (s : State), ∃ (f : Nat), 
    f < 32 ∧ (((getFlume s f).repairsDue ≠ [] ∨ (softOf s f).erasures ≠ flumeErasures s f)) :=
  ⟨modFlume State.reset 0 (fun x => { x with repairsDue := [5] }), 0, ⟨by decide, .inl (by decide)⟩⟩

theorem meets_RepairRecords_3 : ∃ (s : State), ∃ (f : Nat), ∃ (ok : Bool), 
    f < 32 ∧ (getFlume s f).remapDirty = false ∧ (getFlume s f).repairsDue = [] ∧ (softOf s f).erasures = flumeErasures s f :=
  ⟨State.reset, 0, true, by decide⟩

theorem meets_ServiceSlices_1 : ∃ (s : State), ∃ (f : Nat), ∃ (sc : Nat), ∃ (tier : Nat), ∃ (bank : Nat), ∃ (row : Nat), 
    f < 32 ∧ sc < 4 ∧ tier < 17 ∧ bank < 16 ∧ row < 8224 ∧ slicesOn s f = true ∧ bayOut s f sc tier = false ∧ subIssues s f sc = true ∧ fullPass s f sc = false ∧ demandReady s f sc = false ∧ (getBank s (bankKey f sc tier bank)).scrubbing = false ∧ ((getFlume s f).heldRows.any fun h => bankSub h.bank == subKey f sc) = false :=
  ⟨sliceState, 0, 0, 0, 0, 0, by decide⟩

theorem meets_ServiceSlices_2 : ∃ (s : State), ∃ (f : Nat), ∃ (sc : Nat), ∃ (badSpares : List Nat), ∃ (h : HeldRow), 
    f < 32 ∧ sc < 4 ∧ (getFlume s f).heldRows.find? (fun h => h.slice && bankSub h.bank == subKey f sc) = some h ∧ 8 ≤ h.elems :=
  ⟨modFlume State.reset 0 (fun x => { x with heldRows := [⟨0, 3, true, 8, []⟩] }), 0, 0, [], ⟨0, 3, true, 8, []⟩, by decide⟩

theorem meets_ServiceSlices_3 : ∃ (s : State), ∃ (f : Nat), ∃ (sc : Nat), ∃ (e : Nat × Nat), ∃ (fails : List (Nat × Nat)), ∃ (badSpares : List Nat), ∃ (h : HeldRow), 
    f < 32 ∧ sc < 4 ∧ (getFlume s f).heldRows.find? (fun h => h.slice && bankSub h.bank == subKey f sc) = some h ∧ 2 ≤ h.elems :=
  ⟨modFlume State.reset 0 (fun x => { x with heldRows := [⟨0, 3, true, 2, []⟩] }), 0, 0, (1, 2), [], [], ⟨0, 3, true, 2, []⟩, by decide⟩

theorem meets_ServiceSlices_4 : ∃ (s : State), ∃ (f : Nat), ∃ (sc : Nat), ∃ (fails : List (Nat × Nat)), ∃ (badSpares : List Nat), ∃ (h : HeldRow), 
    f < 32 ∧ sc < 4 ∧ (getFlume s f).heldRows.find? (fun h => h.slice && bankSub h.bank == subKey f sc) = some h ∧ ((h.elems < 2 ∨ h.elems < 8 ∧ fails = [])) :=
  ⟨modFlume State.reset 0 (fun x => { x with heldRows := [⟨0, 3, true, 0, []⟩] }), 0, 0, [], [], ⟨0, 3, true, 0, []⟩, by decide⟩

theorem meets_ServiceSlices_5 : ∃ (s : State), ∃ (f : Nat), ∃ (sc : Nat), 
    f < 32 ∧ sc < 4 ∧ slicesOn s f = true ∧ (getSub s (subKey f sc)).logicSlice = false ∧ (getSub s (subKey f sc)).offline = false ∧ (getSub s (subKey f sc)).stopped = false ∧ (getSub s (subKey f sc)).sliceAfter ≤ s.now ∧ ((getFlume s f).queue.any fun r => (r.promoted || urgencyNow s f r == 4) && (coordOf s f r.line).sc == sc) = false :=
  ⟨sliceState, 0, 0, by decide⟩

theorem meets_ServiceSlices_6 : ∃ (s : State), ∃ (f : Nat), ∃ (sc : Nat), 
    f < 32 ∧ sc < 4 ∧ (getSub s (subKey f sc)).logicSlice = true :=
  ⟨modSub State.reset 0 (fun u => { u with logicSlice := true }), 0, 0, by decide⟩

theorem meets_ServiceSlices_7 : ∃ (s : State), 
    bitOf (regGet s (oBst 0)).toNat 0 = true ∧ ((s.bist.passAt = 0 ∨ max 1 (regField s (oBst 4) 7 0) * 3600 * 1000000000 ≤ s.now - s.bist.passAt)) :=
  ⟨sliceState, by decide⟩

theorem meets_ServiceSlices_8 : ∃ (s : State), 
    ((bitOf (regGet s (oBst 0)).toNat 0 = false ∨ s.bist.passAt ≠ 0 ∧ s.now - s.bist.passAt < max 1 (regField s (oBst 4) 7 0) * 3600 * 1000000000)) :=
  ⟨{ State.reset with bist := { State.reset.bist with passAt := 1 } }, by decide⟩

theorem meets_RowMoves_1 : ∃ (s : State), ∃ (f : Nat), ∃ (sc : Nat), ∃ (env : OpEnv), ∃ (t : Nat), ∃ (ptr : Nat), 
    f < 32 ∧ sc < 4 ∧ tabGet none (getFlume s f).migrate sc = some (t, ptr) ∧ movesOn s f = true ∧ ptr + 1 < 131072 :=
  ⟨modFlume hostState 0 (fun x => { x with migrate := [(1, some (3, 5))] }), 0, 1, ⟨[], [], [], []⟩, 3, 5, by decide⟩

theorem meets_RowMoves_2 : ∃ (s : State), ∃ (f : Nat), ∃ (sc : Nat), ∃ (env : OpEnv), ∃ (t : Nat), ∃ (ptr : Nat), 
    f < 32 ∧ sc < 4 ∧ tabGet none (getFlume s f).migrate sc = some (t, ptr) ∧ movesOn s f = true ∧ 131072 ≤ ptr + 1 :=
  ⟨modFlume hostState 0 (fun x => { x with migrate := [(1, some (3, 131071))] }), 0, 1, ⟨[], [], [], []⟩, 3, 131071, by decide⟩

theorem meets_RowMoves_3 : ∃ (s : State), ∃ (f : Nat), ∃ (sc : Nat), ∃ (tier : Nat), ∃ (bank : Nat), ∃ (env : OpEnv), ∃ (g : Nat), ∃ (i : Nat), ∃ (ptr : Nat), 
    f < 32 ∧ sc < 4 ∧ tier < 17 ∧ bank < 16 ∧ (getBank s (bankKey f sc tier bank)).colMove = some (g, i, ptr) ∧ flumeOpen s f = true :=
  ⟨modBank hostState 0 (fun k => { k with colMove := some (1, 2, 8223) }), 0, 0, 0, 0, ⟨[], [], [], []⟩, 1, 2, 8223, by decide⟩

theorem meets_RowMoves_4 : ∃ (s : State), ∃ (f : Nat), ∃ (sc : Nat), ∃ (env : OpEnv), 
    f < 32 ∧ sc < 4 ∧ ((tabGet none (getFlume s f).migrate sc = none ∨ movesOn s f = false)) :=
  ⟨State.reset, 0, 1, ⟨[], [], [], []⟩, by decide⟩

theorem meets_RowMoves_5 : ∃ (s : State), ∃ (f : Nat), ∃ (sc : Nat), ∃ (tier : Nat), ∃ (bank : Nat), ∃ (env : OpEnv), 
    f < 32 ∧ sc < 4 ∧ tier < 17 ∧ bank < 16 ∧ (((getBank s (bankKey f sc tier bank)).colMove = none ∨ flumeOpen s f = false)) :=
  ⟨State.reset, 0, 0, 0, 0, ⟨[], [], [], []⟩, by decide⟩

theorem meets_RowMoves_6 : ∃ (s : State), ∃ (path : Nat), ∃ (f : Nat), 
    path < 5 ∧ f < 32 ∧ pathOpen s path = true ∧ busy s f = false ∧ portAwake s f = true :=
  ⟨hostState, 0, 0, by decide⟩

theorem meets_RingCommands_1 : ∃ (s : State), ∃ (path : Nat), ∃ (n : Nat), 
    path < 5 ∧ n < 256 ∧ pathOpen s path = true ∧ busy s (96 + pairHead n) = false ∧ portAwake s (96 + pairHead n) = true :=
  ⟨hostState, 0, 1, by decide⟩

theorem meets_RingCommands_2 : ∃ (s : State), ∃ (n : Nat), 
    (getPair s n).state = 0 ∧ pairOk s n = true :=
  ⟨ringConf, 1, by decide⟩

theorem meets_RingCommands_3 : ∃ (s : State), ∃ (n : Nat), 
    (getPair s n).state = 0 ∧ pairOk s n = false :=
  ⟨State.reset, 1, by decide⟩

theorem meets_RingCommands_4 : ∃ (s : State), ∃ (path : Nat), ∃ (n : Nat), 
    path < 5 ∧ n < 256 ∧ pathOpen s path = true ∧ busy s (96 + pairHead n) = false ∧ portAwake s (96 + pairHead n) = true ∧ (getPair s n).state = 1 :=
  ⟨ringState, 0, 1, by decide⟩

theorem meets_RingCommands_5 : ∃ (s : State), ∃ (path : Nat), ∃ (n : Nat), 
    path < 5 ∧ n < 256 ∧ pathOpen s path = true ∧ busy s (96 + pairHead n) = false ∧ portAwake s (96 + pairHead n) = true :=
  ⟨hostState, 0, 1, by decide⟩

theorem meets_RingCommands_6 : ∃ (s : State), ∃ (n : Nat), 
    (getPair s n).state ≠ 0 :=
  ⟨ringState, 1, by decide⟩

theorem meets_RingCommands_8 : ∃ (s : State), ∃ (n : Nat), 
    n < 256 ∧ (getPair s n).state = 3 ∧ (getPair s n).draining = true ∧ descsOf s n = [] :=
  ⟨modPair State.reset 1 (fun x => { x with state := 3, draining := true }), 1, by decide⟩

theorem meets_RingCommands_9 : ∃ (s : State), ∃ (n : Nat), 
    n < 256 ∧ (((getPair s n).state ≠ 3 ∨ (getPair s n).draining = false ∨ descsOf s n ≠ [])) :=
  ⟨State.reset, 1, by decide⟩

theorem meets_Doorbells_1 : ∃ (s : State), ∃ (path : Nat), ∃ (n : Nat), ∃ (v : Word), 
    path < 5 ∧ n < 256 ∧ pathOpen s path = true ∧ (getPair s n).state = 1 ∧ path = pairHead n ∧ v.toNat % 65536 < sqSize s n :=
  ⟨ringState, 0, 1, 3, by decide⟩

theorem meets_Doorbells_2 : ∃ (s : State), ∃ (path : Nat), ∃ (n : Nat), ∃ (v : Word), ∃ (d : Nat), ∃ (c : Nat), 
    path < 5 ∧ n < 256 ∧ pathOpen s path = true ∧ (getPair s n).state = 1 ∧ path = pairHead n ∧ d = (v.toNat % 65536 + cqSize s n - (getPair s n).cqHead) % cqSize s n ∧ (c = (if d = 0 ∧ (getPair s n).posted = cqSize s n then cqSize s n else d)) ∧ v.toNat % 65536 < cqSize s n ∧ c ≤ (getPair s n).posted :=
  ⟨modPair ringState 1 (fun x => { x with posted := 2 }), 0, 1, 2, 2, 2, by decide⟩

theorem meets_Doorbells_3 : ∃ (s : State), ∃ (path : Nat), ∃ (n : Nat), ∃ (v : Word), ∃ (d : Nat), ∃ (c : Nat), 
    path < 5 ∧ n < 256 ∧ pathOpen s path = true ∧ (getPair s n).state = 1 ∧ path = pairHead n ∧ d = (v.toNat % 65536 + cqSize s n - (getPair s n).cqHead) % cqSize s n ∧ (c = (if d = 0 ∧ (getPair s n).posted = cqSize s n then cqSize s n else d)) ∧ ((cqSize s n ≤ v.toNat % 65536 ∨ (getPair s n).posted < c)) :=
  ⟨ringState, 0, 1, 2, 2, 2, by decide⟩

theorem meets_Doorbells_4 : ∃ (s : State), ∃ (path : Nat), ∃ (n : Nat), ∃ (v : Word), 
    path < 5 ∧ n < 256 ∧ pathOpen s path = true ∧ (getPair s n).state = 1 ∧ path = pairHead n ∧ sqSize s n ≤ v.toNat % 65536 :=
  ⟨ringState, 0, 1, 64, by decide⟩

theorem meets_RingTraffic_1 : ∃ (s : State), ∃ (n : Nat), ∃ (host : List Host.Cell), ∃ (bytes : List Byte), 
    n < 256 ∧ dmaOpen s (pairHead n) = true ∧ (getPair s n).state = 1 ∧ (getPair s n).sqHead ≠ (getPair s n).sqTail ∧ hostBytes host (sqBase s n + 128 * (getPair s n).sqHead) 128 = some bytes :=
  ⟨modPair ringState 1 (fun x => { x with sqTail := 1 }), 1, hostRing, List.replicate 128 0, by decide⟩

theorem meets_RingTraffic_2 : ∃ (s : State), ∃ (n : Nat), ∃ (host : List Host.Cell), 
    n < 256 ∧ dmaOpen s (pairHead n) = true ∧ (getPair s n).state = 1 ∧ (getPair s n).sqHead ≠ (getPair s n).sqTail ∧ hostBytes host (sqBase s n + 128 * (getPair s n).sqHead) 128 = none :=
  ⟨modPair ringState 1 (fun x => { x with sqTail := 1 }), 1, [], by decide⟩

theorem meets_RingTraffic_3 : ∃ (s : State), ∃ (n : Nat), ∃ (k : Nat), ∃ (host : List Host.Cell), 
    n < 256 ∧ dmaOpen s (pairHead n) = false :=
  ⟨hostState, 1, 3, [], by decide⟩

theorem meets_RingTraffic_4 : ∃ (s : State), ∃ (n : Nat), ∃ (a : Nat), 
    n < 256 ∧ (getPair s n).pendSince = some a ∧ bitOf (regGet s (oRing n 0x18)).toNat 14 = true ∧ regField s (oRing n 0x1C) 25 16 ≠ 0 ∧ a + 1000 * regField s (oRing n 0x1C) 25 16 ≤ s.now :=
  ⟨timerState, 1, 0, by decide⟩

theorem meets_RingTraffic_5 : ∃ (s : State), ∃ (n : Nat), ∃ (a : Nat), 
    n < 256 ∧ (((getPair s n).pendSince = none ∨ (getPair s n).pendSince = some a ∧ s.now < a + 1000 * regField s (oRing n 0x1C) 25 16)) :=
  ⟨State.reset, 1, 0, by decide⟩

theorem meets_RingTraffic_6 : ∃ (s : State), ∃ (h : Nat), ∃ (vec : Nat), 
    h < 4 ∧ vec < 64 ∧ (getHead s h).pba.contains vec = true ∧ (getHead s h).msix = true ∧ msixOpen (getHead s h) vec = true ∧ (getHead s h).linkUp = true :=
  ⟨msixState, 0, 5, by decide⟩

theorem meets_RingTraffic_7 : ∃ (s : State), ∃ (h : Nat), ∃ (vec : Nat), 
    h < 4 ∧ vec < 64 ∧ (((getHead s h).pba.contains vec = false ∨ (getHead s h).msix = false ∨ msixOpen (getHead s h) vec = false ∨ (getHead s h).linkUp = false)) :=
  ⟨State.reset, 0, 5, by decide⟩

theorem meets_DescriptorsStart_1 : ∃ (s : State), ∃ (n : Nat), ∃ (env : OpEnv), ∃ (ts : List Slot), 
    n < 256 ∧ servedPair s = some n ∧ nextUnit s n = some ts ∧ ((needsHost ts = false ∨ dmaOpen s (pairHead n) = true)) ∧ ((rangeFlumes s (programRanges n ts)).filter fun f => !flumeOpen s f) = [] ∧ rangeScrubbed s (programRanges n ts) = false :=
  ⟨fetchedState, 1, ⟨[], [], [], []⟩, [⟨0, List.replicate 128 0⟩], by decide⟩

theorem meets_DescriptorsStart_2 : ∃ (s : State), ∃ (n : Nat), ∃ (env : OpEnv), ∃ (ts : List Slot), ∃ (f : Nat), ∃ (fs : List Nat), 
    n < 256 ∧ servedPair s = some n ∧ nextUnit s n = some ts ∧ ((needsHost ts = false ∨ dmaOpen s (pairHead n) = true)) ∧ ((rangeFlumes s (programRanges n ts)).filter fun f => !flumeOpen s f) = f :: fs :=
  ⟨modFlume (modPair ringState 1 (fun x => { x with fetched := [⟨0, sieveDesc⟩] })) 0 (fun x => { x with pstate := 3 }), 1, ⟨[], [], [], []⟩, [⟨0, sieveDesc⟩], 0, [], by decide⟩

theorem meets_DescriptorsStart_3 : ∃ (s : State), ∃ (n : Nat), ∃ (env : OpEnv), 
    n < 256 ∧ servedPair s ≠ some n :=
  ⟨State.reset, 1, ⟨[], [], [], []⟩, by decide⟩

theorem meets_DescriptorsStart_4 : ∃ (s : State), ∃ (n : Nat), ∃ (env : OpEnv), ∃ (ts : List Slot), 
    malformedSlot n ts = none ∧ isAdmin n = true :=
  ⟨fetchedState, 64, ⟨[], [], [], []⟩, [], by decide⟩

theorem meets_DescriptorsStart_5 : ∃ (s : State), ∃ (n : Nat), ∃ (env : OpEnv), ∃ (ts : List Slot), ∃ (r : Result), ∃ (t : State), 
    malformedSlot n ts = none ∧ isAdmin n = false ∧ checkChain (unitNew s n ts) (pairHead n) env (ts.map fun t => t.body) = (.refused r, t) :=
  ⟨fetchedState, 1, ⟨[], [], [], []⟩, [⟨0, refusedDesc⟩], ⟨8, 0, 32, 0⟩, unitNew fetchedState 1 [⟨0, refusedDesc⟩], by decide⟩

theorem meets_DescriptorsStart_6 : ∃ (s : State), ∃ (n : Nat), ∃ (env : OpEnv), ∃ (ts : List Slot), ∃ (p : List Byte), ∃ (t : State), 
    malformedSlot n ts = none ∧ isAdmin n = false ∧ checkChain (unitNew s n ts) (pairHead n) env (ts.map fun t => t.body) = (.passed p, t) :=
  ⟨passState, 1, ⟨[], [], [], []⟩, [⟨0, fillDesc⟩], [], unitNew passState 1 [⟨0, fillDesc⟩], by decide⟩

theorem meets_DescriptorsStart_7 : ∃ (s : State), ∃ (n : Nat), ∃ (env : OpEnv), ∃ (ts : List Slot), ∃ (t : Slot), ∃ (o : Nat), 
    malformedSlot n ts = some (t, o) :=
  ⟨fetchedState, 1, ⟨[], [], [], []⟩, [⟨0, List.replicate 128 0⟩], ⟨0, List.replicate 128 0⟩, 0, by decide⟩

theorem meets_PartsRun_1 : ∃ (s : State), ∃ (m : Nat), ∃ (p : Nat), ∃ (rest : List Nat), 
    m < 32 ∧ (getMill s m).queue = p :: rest ∧ inDispatch s m = true ∧ (getMill s m).running = none ∧ s.flt.safe = false ∧ portAwake s (64 + m) = true :=
  ⟨millState, 0, 0, [], by decide⟩

theorem meets_PartsRun_2 : ∃ (s : State), ∃ (m : Nat), ∃ (p : Nat), ∃ (rest : List Nat), 
    m < 32 ∧ (getMill s m).queue = p :: rest ∧ inDispatch s m = true ∧ (getMill s m).running = none ∧ s.flt.safe = false ∧ portAwake s (64 + m) = false :=
  ⟨modFlume millState 0 (fun x => { x with pstate := 3 }), 0, 0, [], by decide⟩

theorem meets_PartsRun_3 : ∃ (s : State), ∃ (m : Nat), 
    m < 32 ∧ (((getMill s m).queue = [] ∨ inDispatch s m = false ∨ (getMill s m).running.isSome = true)) :=
  ⟨State.reset, 0, by decide⟩

theorem meets_PartsRun_4 : ∃ (s : State), ∃ (m : Nat), ∃ (p : Nat), ∃ (x : Part), 
    m < 32 ∧ (getMill s m).running = some p ∧ getPart s p = some x ∧ x.done = false ∧ x.status = none ∧ x.stop = false :=
  ⟨runState, 0, 0, { donePart with done := false }, by decide⟩

theorem meets_PartsRun_5 : ∃ (s : State), ∃ (did : Nat), ∃ (d : Desc), 
    getDesc s did = some d ∧ ((partsEnded s d = false ∨ writesOpen s did = true)) :=
  ⟨putPart (putDesc State.reset 0 (some { someDesc with parts := [0] })) 0 (some donePart), 0, { someDesc with parts := [0] }, by decide⟩

theorem meets_PartsRun_6 : ∃ (s : State), ∃ (m : Nat), ∃ (p : Nat), ∃ (x : Part), 
    m < 32 ∧ (getMill s m).running = some p ∧ getPart s p = some x ∧ (x.done = true ∨ x.status.isSome = true ∨ x.stop = true) ∧ s.flt.safe = false :=
  ⟨partState, 0, 0, donePart, by decide⟩

theorem meets_PartsRun_7 : ∃ (s : State), ∃ (did : Nat), ∃ (d : Desc), 
    getDesc s did = some d ∧ d.result = none ∧ isAdmin d.pair = false ∧ d.parts ≠ [] ∧ partsEnded s d = true ∧ (d.dropped = true ∨ mergeDue s d = false) ∧ writesOpen s did = false ∧ s.flt.safe = false :=
  ⟨putPart (putDesc State.reset 0 (some { someDesc with parts := [0] })) 0 (some { donePart with ended := true }), 0, { someDesc with parts := [0] }, by decide⟩

theorem meets_KeyHash_1 : ∃ (seed : Nat), ∃ (k : List Byte), ∃ (t : Table), ∃ (c : Nat), ∃ (u : Units), ∃ (ty : Nat), ∃ (a : Nat), ∃ (i : Nat), 
    isFloat ty = true :=
  ⟨0, [], ⟨0, 0, 0, 0⟩, 0, [], 0x43, 0, 0, by decide⟩

theorem meets_BitmapFunctions_1 : ∃ (a : Nat), ∃ (b : Nat), 
    a < 2 ∧ b < 2 :=
  ⟨1, 0, by decide⟩

theorem meets_BitmapFunctions_2 : ∃ (t : Nat), ∃ (a : Nat), ∃ (b : Nat), 
    isFloat t = false ∧ isSigned t = false ∧ a < 2 ^ 64 ∧ b < 2 ^ 64 :=
  ⟨0x81, 5, 6, by decide⟩

theorem meets_OperatorStages_1 : ∃ (s : State), ∃ (m : Nat), ∃ (env : OpEnv), ∃ (g : Stage), 
    m < 32 ∧ StageReady s m 1 g :=
  ⟨opState 1, 0, ⟨[], [], [], []⟩, opStage 1, by decide⟩

theorem meets_OperatorStages_2 : ∃ (s : State), ∃ (m : Nat), ∃ (env : OpEnv), ∃ (g : Stage), 
    m < 32 ∧ StageReady s m 2 g :=
  ⟨opState 2, 0, ⟨[], [], [], []⟩, opStage 2, by decide⟩

theorem meets_OperatorStages_3 : ∃ (s : State), ∃ (m : Nat), ∃ (env : OpEnv), ∃ (g : Stage), 
    m < 32 ∧ StageReady s m 3 g :=
  ⟨opState 3, 0, ⟨[], [], [], []⟩, opStage 3, by decide⟩

theorem meets_OperatorStages_4 : ∃ (s : State), ∃ (m : Nat), ∃ (env : OpEnv), ∃ (g : Stage), 
    m < 32 ∧ StageReady s m 4 g :=
  ⟨opState 4, 0, ⟨[], [], [], []⟩, opStage 4, by decide⟩

theorem meets_OperatorStages_5 : ∃ (s : State), ∃ (m : Nat), ∃ (env : OpEnv), ∃ (g : Stage), 
    m < 32 ∧ StageReady s m 5 g :=
  ⟨opState 5, 0, ⟨[], [], [], []⟩, opStage 5, by decide⟩

theorem meets_OperatorStages_6 : ∃ (s : State), ∃ (m : Nat), ∃ (env : OpEnv), ∃ (g : Stage), 
    m < 32 ∧ StageReady s m 6 g :=
  ⟨opState 6, 0, ⟨[], [], [], []⟩, opStage 6, by decide⟩

theorem meets_OperatorStages_7 : ∃ (s : State), ∃ (m : Nat), ∃ (env : OpEnv), ∃ (g : Stage), 
    m < 32 ∧ StageReady s m 7 g :=
  ⟨opState 7, 0, ⟨[], [], [], []⟩, opStage 7, by decide⟩

theorem meets_OperatorStages_8 : ∃ (s : State), ∃ (m : Nat), ∃ (env : OpEnv), ∃ (g : Stage), 
    m < 32 ∧ StageReady s m 8 g :=
  ⟨opState 8, 0, ⟨[], [], [], []⟩, opStage 8, by decide⟩

theorem meets_OperatorStages_9 : ∃ (s : State), ∃ (m : Nat), ∃ (env : OpEnv), ∃ (g : Stage), 
    m < 32 ∧ StageReady s m 9 g :=
  ⟨opState 9, 0, ⟨[], [], [], []⟩, opStage 9, by decide⟩

theorem meets_OperatorStages_10 : ∃ (s : State), ∃ (m : Nat), ∃ (env : OpEnv), ∃ (g : Stage), ∃ (r : Units × State), 
    m < 32 ∧ StageReady s m 10 g ∧ r = stageRead g env (lookups s env) (rangeUnits (bSrcA g.m) g.part.ranges) ∧ (r.1.find? fun e => e.2.poison) = none :=
  ⟨noUnits 10, 0, ⟨[], [], [], []⟩, noUnitsStage 10, stageRead (noUnitsStage 10) ⟨[], [], [], []⟩ (noUnits 10) [], by decide⟩

theorem meets_OperatorStages_11 : ∃ (s : State), ∃ (m : Nat), ∃ (env : OpEnv), ∃ (g : Stage), 
    m < 32 ∧ StageReady s m 10 g :=
  ⟨opState 10, 0, ⟨[], [], [], []⟩, opStage 10, by decide⟩

theorem meets_OperatorStages_12 : ∃ (s : State), ∃ (m : Nat), ∃ (env : OpEnv), ∃ (g : Stage), ∃ (r : Units × State), ∃ (q : Units × State), ∃ (diff : List Nat), 
    m < 32 ∧ StageReady s m 11 g ∧ r = stageRead g env (lookups s env) (rangeUnits (bSrcA g.m) g.part.ranges) ∧ q = stageRead g env r.2 (rangeUnits (bSrcB g.m) g.part.ranges) ∧ ((unitsIn g.part.ranges).findSome? fun i => lowerUnit (poisonIn r.1 (8 * (bSrcA g.m + i)) 8) (poisonIn q.1 (8 * (bSrcB g.m + i)) 8)) = none ∧ diff = ((unitsIn g.part.ranges).filter fun i => bitsFrom r.1 (8 * (bSrcA g.m + i)) 8 != bitsFrom q.1 (8 * (bSrcB g.m + i)) 8) :=
  ⟨noUnits 11, 0, ⟨[], [], [], []⟩, noUnitsStage 11, stageRead (noUnitsStage 11) ⟨[], [], [], []⟩ (noUnits 11) [], stageRead (noUnitsStage 11) ⟨[], [], [], []⟩ (stageRead (noUnitsStage 11) ⟨[], [], [], []⟩ (noUnits 11) []).2 [], [], by decide⟩

theorem meets_OperatorStages_13 : ∃ (s : State), ∃ (m : Nat), ∃ (env : OpEnv), ∃ (g : Stage), 
    m < 32 ∧ StageReady s m 11 g :=
  ⟨opState 11, 0, ⟨[], [], [], []⟩, opStage 11, by decide⟩

theorem meets_OperatorStages_14 : ∃ (s : State), ∃ (m : Nat), ∃ (op : Nat), ∃ (env : OpEnv), ∃ (g : Stage), ∃ (body : Stage → State → State), ∃ (f : Nat), ∃ (fs : List Nat), 
    m < 32 ∧ stageOf s m = some g ∧ bOp g.m = op ∧ s.flt.safe = false ∧ (stageHost g && !dmaOpen s g.head) = false ∧ ((rangeFlumes s (stageRanges g)).filter fun f => !flumeOpen s f) = f :: fs :=
  ⟨putDesc (putPart (modFlume (opState 2) 0 fun x => { x with pstate := 3 }) 0 (some { somePart with ranges := [(0, 64)] })) 0 (some { opDesc 2 with members := [sleepBody] }), 0, 2, ⟨[], [], [], []⟩, ⟨0, { somePart with ranges := [(0, 64)] }, { opDesc 2 with members := [sleepBody] }, sleepBody, ⟨0, true, none⟩, 0, 0⟩, fun _ s => s, 0, [], by decide⟩

theorem meets_OperatorStages_15 : ∃ (s : State), ∃ (m : Nat), ∃ (op : Nat), ∃ (env : OpEnv), ∃ (body : Stage → State → State), 
    m < 32 ∧ stageOf s m = none :=
  ⟨State.reset, 0, 2, ⟨[], [], [], []⟩, fun _ s => s, by decide⟩

theorem meets_OperatorStages_16 : ∃ (s : State), ∃ (did : Nat), ∃ (env : OpEnv), ∃ (g : Stage), 
    mergeStage s did = some g ∧ s.flt.safe = false ∧ (isHost (bDst g.m) && !dmaOpen s g.head) = false ∧ ((rangeFlumes s (opRanges g.c g.m).2).filter fun f => !flumeOpen s f) = [] ∧ rangeScrubbed s (opRanges g.c g.m).2 = false :=
  ⟨mergeState, 0, ⟨[], [], [], []⟩, mergeStg, by decide⟩

theorem meets_OperatorStages_17 : ∃ (s : State), ∃ (did : Nat), ∃ (env : OpEnv), 
    mergeStage s did = none :=
  ⟨State.reset, 0, ⟨[], [], [], []⟩, by decide⟩

theorem meets_FuseScripts_1 : ∃ (s : State), ∃ (did : Nat), ∃ (env : OpEnv), ∃ (fuse : FuseEnv), ∃ (d : Desc), 
    getDesc s did = some d ∧ isAdmin d.pair = true ∧ bOp (d.members.headD []) = 0x47 ∧ d.result = none ∧ s.fuses.rereadActive = false ∧ d.work = 0 ∧ isHost (bSrcA (d.members.headD [])) = true ∧ bSrcA (d.members.headD []) % 64 = 0 ∧ rangeOk (bSrcA (d.members.headD [])) (bCount (d.members.headD [])) = true ∧ dmaOpen s (pairHead d.pair) = true :=
  ⟨admState 0x47 (2 ^ 63), 0, ⟨fuseBytes, [], [], []⟩, ⟨[], true, none, none⟩, admDesc 0x47 (2 ^ 63), by decide⟩

theorem meets_FuseScripts_2 : ∃ (s : State), ∃ (did : Nat), ∃ (env : OpEnv), ∃ (fuse : FuseEnv), ∃ (d : Desc), ∃ (l : List Byte), 
    getDesc s did = some d ∧ isAdmin d.pair = true ∧ bOp (d.members.headD []) = 0x47 ∧ d.result = none ∧ s.fuses.rereadActive = false ∧ d.work = 8 ∧ s.tally.intent = some (l, true) :=
  ⟨{ putDesc (admState 0x47 (2 ^ 63)) 0 (some { admDesc 0x47 (2 ^ 63) with work := 8, prog := [0, 0] }) with tally := { State.reset.tally with intent := some ([], true) } }, 0, ⟨[], [], [], []⟩, ⟨[], true, none, none⟩, { admDesc 0x47 (2 ^ 63) with work := 8, prog := [0, 0] }, [], by decide⟩

theorem meets_FuseScripts_3 : ∃ (s : State), ∃ (did : Nat), ∃ (env : OpEnv), ∃ (fuse : FuseEnv), 
    s.fuses.rereadActive = true :=
  ⟨{ State.reset with fuses := { State.reset.fuses with rereadActive := true } }, 0, ⟨[], [], [], []⟩, ⟨[], true, none, none⟩, by decide⟩

theorem meets_FuseScripts_4 : ∃ (s : State), ∃ (did : Nat), ∃ (env : FuseEnv), ∃ (d : Desc), ∃ (l : List Byte), 
    env.upTo = none :=
  ⟨State.reset, 0, ⟨[], true, none, none⟩, admDesc 0x47 0, [], by decide⟩

theorem meets_FuseScripts_5 : ∃ (s : State), ∃ (did : Nat), ∃ (ops : Nat), ∃ (reason : Nat), ∃ (spares : Nat), ∃ (life : Bool), 
    reason ≠ 0 ∧ s.fuses.rereadWaits = false :=
  ⟨State.reset, 0, 0, 7, 0, false, by decide⟩

theorem meets_FuseScripts_6 : ∃ (s : State), ∃ (path : Nat), 
    path < 5 ∧ pathOpen s path = true ∧ busy s 200 = false ∧ portAwake s 200 = true ∧ s.fuses.rereadActive = false ∧ s.fuses.session = false :=
  ⟨hostState, 0, by decide⟩

theorem meets_FuseScripts_7 : ∃ (s : State), ∃ (drift : Nat), ∃ (marg : Nat), ∃ (regions : Nat), 
    s.fuses.rereadActive = true ∧ (rereadWords s.fuses).countP (fun w => w.2.1) = drift ∧ (rereadWords s.fuses).countP (fun w => w.2.2) = marg ∧ ([0, 1, 2, 3, 4, 5].foldl (fun a j => a + if (rereadWords s.fuses).any (fun w => regionOfRow w.1 == j && (w.2.1 || w.2.2)) then 2 ^ (2 + j) else 0) 0) = regions :=
  ⟨{ State.reset with fuses := { State.reset.fuses with rereadActive := true } }, (rereadWords State.reset.fuses).countP (fun w => w.2.1), (rereadWords State.reset.fuses).countP (fun w => w.2.2), [0, 1, 2, 3, 4, 5].foldl (fun a j => a + if (rereadWords State.reset.fuses).any (fun w => regionOfRow w.1 == j && (w.2.1 || w.2.2)) then 2 ^ (2 + j) else 0) 0, ⟨by decide, rfl, rfl, rfl⟩⟩

theorem meets_TrainingPasses_1 : ∃ (s : State), ∃ (f : Nat), ∃ (sc : Nat), ∃ (res : PassRes), ∃ (p : Pass), 
    f < 32 ∧ sc < 4 ∧ tabGet none (getFlume s f).passes sc = some p :=
  ⟨modFlume State.reset 0 (fun x => { x with passes := [(1, some ⟨3, 0, false, 0, 0⟩)] }), 0, 1, ⟨0, [], false, false, true⟩, ⟨3, 0, false, 0, 0⟩, by decide⟩

theorem meets_TrainingPasses_2 : ∃ (s : State), ∃ (f : Nat), ∃ (sc : Nat), ∃ (res : PassRes), 
    f < 32 ∧ sc < 4 ∧ tabGet none (getFlume s f).passes sc = none :=
  ⟨State.reset, 0, 1, ⟨0, [], false, false, true⟩, by decide⟩

theorem meets_TrainingPasses_3 : ∃ (s : State), ∃ (f : Nat), ∃ (sc : Nat), ∃ (t : Nat), ∃ (kind : Nat), ∃ (tuned : Bool), ∃ (minEye : Nat), ∃ (ok : Bool), ∃ (u : State), 
    s.wf ∧ u = commitPass s f sc t kind tuned minEye ok :=
  ⟨State.reset, 0, 0, 3, 0, true, 30, true, commitPass State.reset 0 0 3 0 true 30 true, ⟨reset_wf, rfl⟩⟩

theorem meets_TrainingPasses_4 : ∃ (s : State), ∃ (f : Nat), ∃ (sc : Nat), ∃ (tier : Nat), 
    f < 32 ∧ sc < 4 ∧ tier < 17 ∧ retuneOpen s f sc tier = true ∧ (getBay s (bayKey f sc tier)).commitAt + retunePeriod s f ≤ s.now :=
  ⟨{ modBay (regSet hostState (oFlm 0 0x140) 2) 0 (fun b => { b with trained := true, tuned := true }) with now := 60000000 }, 0, 0, 0, by decide⟩

theorem meets_TrainingPasses_5 : ∃ (s : State), ∃ (f : Nat), ∃ (sc : Nat), ∃ (tier : Nat), 
    f < 32 ∧ sc < 4 ∧ tier < 17 ∧ 0 < (getBay s (bayKey f sc tier)).refusals ∧ (getBay s (bayKey f sc tier)).refusedAt + 1000000 ≤ s.now ∧ passBusy s f sc tier = false ∧ bayOut s f sc tier = false :=
  ⟨{ modBay hostState 0 (fun b => { b with refusals := 1 }) with now := 60000000 }, 0, 0, 0, by decide⟩

theorem meets_TrainingPasses_6 : ∃ (s : State), ∃ (f : Nat), ∃ (sc : Nat), ∃ (tier : Nat), 
    f < 32 ∧ sc < 4 ∧ tier < 17 ∧ s.now < (getBay s (bayKey f sc tier)).commitAt + retunePeriod s f ∧ s.now < (getBay s (bayKey f sc tier)).refusedAt + 1000000 :=
  ⟨State.reset, 0, 0, 0, by decide⟩

theorem meets_TrainingPasses_7 : ∃ (s : State), ∃ (path : Nat), ∃ (f : Nat), ∃ (v : Word), 
    path < 5 ∧ f < 32 ∧ pathOpen s path = true ∧ busy s (32 + f) = false ∧ portAwake s (32 + f) = true :=
  ⟨hostState, 0, 0, 1, by decide⟩

theorem meets_TrainingPasses_8 : ∃ (s : State), ∃ (path : Nat), ∃ (f : Nat), ∃ (sc : Nat), ∃ (tier : Nat), 
    path < 5 ∧ f < 32 ∧ sc < 4 ∧ tier < 17 ∧ pathOpen s path = true ∧ busy s (32 + f) = false ∧ portAwake s (32 + f) = true :=
  ⟨hostState, 0, 0, 1, 16, by decide⟩

theorem meets_TrainingPasses_9 : ∃ (s : State), ∃ (path : Nat), ∃ (f : Nat), ∃ (sc : Nat), 
    path < 5 ∧ f < 32 ∧ sc < 4 ∧ pathOpen s path = true ∧ busy s (32 + f) = false ∧ portAwake s (32 + f) = true :=
  ⟨hostState, 0, 0, 1, by decide⟩

theorem meets_TrainingPasses_10 : ∃ (s : State), ∃ (path : Nat), ∃ (f : Nat), ∃ (sc : Nat), ∃ (tier : Nat), 
    path < 5 ∧ f < 32 ∧ sc < 4 ∧ tier < 17 ∧ pathOpen s path = true ∧ busy s (32 + f) = false ∧ portAwake s (32 + f) = true :=
  ⟨hostState, 0, 0, 1, 16, by decide⟩

theorem meets_TrainingPasses_11 : ∃ (s : State), ∃ (path : Nat), ∃ (f : Nat), ∃ (sc : Nat), ∃ (loop : LoopRes), 
    path < 5 ∧ f < 32 ∧ sc < 4 ∧ pathOpen s path = true ∧ busy s (32 + f) = false ∧ portAwake s (32 + f) = true :=
  ⟨hostState, 0, 0, 1, ⟨[], []⟩, by decide⟩

theorem meets_MillCare_1 : ∃ (s : State), ∃ (path : Nat), ∃ (m : Nat), ∃ (v : Word), 
    path < 5 ∧ m < 32 ∧ pathOpen s path = true ∧ busy s (64 + m) = false ∧ portAwake s (64 + m) = true :=
  ⟨hostState, 0, 0, 0, by decide⟩

theorem meets_MillCare_2 : ∃ (s : State), ∃ (m : Nat), 
    m < 32 ∧ bitOf (regGet s (oMil m 0)).toNat 1 = true ∧ bitOf (regGet s (oBst 0)).toNat 0 = true ∧ (getMill s m).running = none ∧ (getMill s m).queue = [] ∧ (getMill s m).slice = false ∧ (getMill s m).failed = false ∧ (getMill s m).swapPending = false ∧ (getMill s m).recovering = [] ∧ (getMill s m).testing = false ∧ (getMill s m).sliceAfter ≤ s.now ∧ portAwake s (64 + m) = true ∧ s.flt.safe = false :=
  ⟨regSet sliceState (oMil 0 0) 3, 0, by decide⟩

theorem meets_MillCare_3 : ∃ (s : State), ∃ (m : Nat), 
    m < 32 ∧ (getMill s m).slice = true ∧ heldTooLong s m = true :=
  ⟨{ modMill millState 0 (fun x => { x with slice := true }) with now := 100000000000 }, 0, by decide⟩

theorem meets_MillCare_4 : ∃ (s : State), ∃ (m : Nat), 
    m < 32 ∧ (getMill s m).slice = true :=
  ⟨modMill State.reset 0 (fun x => { x with slice := true }), 0, by decide⟩

theorem meets_MillCare_5 : ∃ (s : State), ∃ (did : Nat), ∃ (env : OpEnv), ∃ (tallyOk : Bool), ∃ (d : Desc), ∃ (l : List Byte), 
    getDesc s did = some d ∧ isAdmin d.pair = true ∧ bOp (d.members.headD []) = 0x44 ∧ d.result = none ∧ d.work = 0 ∧ swapsOf s = none ∧ isHost (bSrcA (d.members.headD [])) = true ∧ rangeOk (bSrcA (d.members.headD [])) (bCount (d.members.headD [])) = true ∧ dmaOpen s (pairHead d.pair) = true ∧ bCount (d.members.headD []) ≤ 65792 ∧ hostBytes env.host (bSrcA (d.members.headD []) - 2 ^ 63) (bCount (d.members.headD [])) = some l :=
  ⟨admState 0x44 (2 ^ 63), 0, ⟨[], [], [], []⟩, true, admDesc 0x44 (2 ^ 63), [], by decide⟩

theorem meets_MillCare_6 : ∃ (s : State), ∃ (m : Nat), ∃ (did : Nat), ∃ (rest : List Nat), 
    m < 32 ∧ swapsOf s = some (did, m :: rest) ∧ (getMill s m).swapPending = false ∧ (getMill s m).testing = false ∧ s.flt.safe = false :=
  ⟨swapState, 0, 0, [], by decide⟩

theorem meets_MillCare_7 : ∃ (s : State), ∃ (m : Nat), ∃ (did : Nat), ∃ (rest : List Nat), 
    m < 32 ∧ swapsOf s = some (did, rest) ∧ (getMill s m).swapPending = true ∧ (getMill s m).running = none ∧ (getMill s m).recovering = [] ∧ s.flt.safe = false :=
  ⟨modMill swapState 0 (fun x => { x with swapPending := true }), 0, 0, [0], by decide⟩

theorem meets_MillCare_8 : ∃ (s : State), ∃ (m : Nat), ∃ (kind : Nat), 
    m < 32 ∧ kind < 4 ∧ s.flt.safe = false :=
  ⟨State.reset, 0, 0, by decide⟩

theorem meets_MillCare_9 : ∃ (s : State), ∃ (m : Nat), ∃ (p : Nat), ∃ (x : Part), 
    m < 32 ∧ (getMill s m).running = some p ∧ getPart s p = some x ∧ x.startedAt + watchdogLimit s m < s.now ∧ s.flt.safe = false :=
  ⟨{ partState with now := 10 ^ 15 }, 0, 0, donePart, by decide⟩

theorem meets_MillCare_10 : ∃ (s : State), ∃ (m : Nat), 
    m < 32 ∧ (getMill s m).recovering ≠ [] ∧ s.flt.safe = false :=
  ⟨modMill State.reset 0 (fun x => { x with recovering := [1] }), 0, by decide⟩

theorem meets_MillCare_11 : ∃ (s : State), ∃ (m : Nat), ∃ (pass : Bool), 
    m < 32 ∧ (getMill s m).slice = false ∧ swapsOf s = none ∧ (getMill s m).recovering = [] :=
  ⟨State.reset, 0, true, by decide⟩

theorem meets_OperatingPoints_1 : ∃ (s : State), ∃ (m : Nat), 
    m < 32 ∧ (getMill s m).opp ≠ millPoint s m ∧ s.flt.safe = false :=
  ⟨modMill State.reset 0 (fun x => { x with opp := 3 }), 0, by decide⟩

theorem meets_OperatingPoints_2 : ∃ (s : State), ∃ (f : Nat), 
    f < 32 ∧ (getFlume s f).opp ≠ flumePoint s f ∧ flumeCanChange s f = true :=
  ⟨modFlume State.reset 0 (fun x => { x with opp := 3 }), 0, by decide⟩

theorem meets_OperatingPoints_3 : ∃ (s : State), ∃ (k : Nat), 
    k < 32 ∧ (getMill s k).opp = millPoint s k ∧ (getFlume s k).opp = flumePoint s k :=
  ⟨modMill (modFlume State.reset 0 fun x => { x with opp := flumePoint State.reset 0 }) 0 (fun x => { x with opp := millPoint State.reset 0 }), 0, by decide⟩

theorem meets_OperatingPoints_4 : ∃ (s : State), ∃ (m : Nat), 
    m < 32 ∧ trimDefault s = false ∧ tabGet 0 (getMill s m).target (getMill s m).opp < millTrim s m (getMill s m).opp :=
  ⟨State.reset, 0, by decide, by decide, lt_trim⟩

theorem meets_OperatingPoints_5 : ∃ (s : State), ∃ (m : Nat), 
    m < 32 ∧ ((trimDefault s = true ∨ millTrim s m (getMill s m).opp ≤ tabGet 0 (getMill s m).target (getMill s m).opp)) :=
  ⟨{ State.reset with fuses := { State.reset.fuses with failed := [3] } }, 0, ⟨by decide, .inl (by decide)⟩⟩

theorem meets_OperatingPoints_6 : ∃ (s : State), ∃ (f : Nat), 
    f < 32 ∧ portAwake s f = true :=
  ⟨hostState, 0, by decide⟩

theorem meets_OperatingPoints_7 : ∃ (s : State), ∃ (f : Nat), ∃ (ctl : Bool), 
    f < 32 ∧ portAwake s f = false :=
  ⟨modFlume hostState 0 (fun x => { x with pstate := 3 }), 0, true, by decide⟩

theorem meets_OperatingPoints_8 : ∃ (s : State), ∃ (f : Nat), 
    f < 32 :=
  ⟨State.reset, 0, by decide⟩

theorem meets_OperatingPoints_9 : ∃ (s : State), ∃ (m : Nat), 
    m < 32 ∧ 0 < (getMill s m).droop ∧ (getMill s m).droopAt + 1000000 * max 1 (regField s (oPwr 0x40) 15 8) ≤ s.now :=
  ⟨{ modMill State.reset 0 (fun x => { x with droop := 2 }) with now := 10 ^ 12 }, 0, by decide⟩

theorem meets_OperatingPoints_10 : ∃ (s : State), ∃ (m : Nat), 
    m < 32 ∧ (((getMill s m).droop = 0 ∨ s.now < (getMill s m).droopAt + 1000000 * max 1 (regField s (oPwr 0x40) 15 8))) :=
  ⟨State.reset, 0, by decide⟩

theorem meets_PowerStates_2 : ∃ (s : State), ∃ (f : Nat), ∃ (st : Nat), ∃ (tallyOk : Bool), 
    f < 32 ∧ s.flt.safe = false ∧ (getFlume s f).entering = none ∧ (getFlume s f).waking = false ∧ bitOf (regGet s (oPwr 0)).toNat 0 = true ∧ flumeChoice s f = some st ∧ (getFlume s f).pstate < st :=
  ⟨seqState, 0, 2, true, by decide⟩

theorem meets_PowerStates_3 : ∃ (s : State), ∃ (f : Nat), ∃ (tallyOk : Bool), 
    f < 32 ∧ bitOf (regGet s (oPwr 0)).toNat 0 = true ∧ ((s.flt.safe = true ∨ (getFlume s f).entering.isSome = true ∨ (getFlume s f).waking = true ∨ flumeChoice s f = none)) :=
  ⟨regSet hostState (oPwr 0) 3, 0, true, by decide⟩

theorem meets_PowerStates_4 : ∃ (s : State), ∃ (f : Nat), ∃ (t : Nat), ∃ (st : Nat), 
    f < 32 ∧ (getFlume s f).holdoff = some (st, t) ∧ t ≤ s.now :=
  ⟨modFlume State.reset 0 (fun x => { x with holdoff := some (2, 0) }), 0, 0, 2, by decide⟩

theorem meets_PowerStates_5 : ∃ (s : State), ∃ (t : Nat), ∃ (st : Nat), 
    s.pwr.holdoff = some (st, t) ∧ t ≤ s.now :=
  ⟨{ State.reset with pwr := { State.reset.pwr with holdoff := some (2, 0) } }, 0, 2, by decide⟩

theorem meets_PowerStates_6 : ∃ (s : State), ∃ (f : Nat), ∃ (t : Nat), ∃ (st : Nat), 
    f < 32 ∧ (((getFlume s f).holdoff = none ∨ (getFlume s f).holdoff = some (st, t) ∧ s.now < t)) :=
  ⟨State.reset, 0, 0, 2, by decide⟩

theorem meets_PowerStates_7 : ∃ (s : State), ∃ (f : Nat), ∃ (st : Nat), 
    f < 32 ∧ (getFlume s f).entering = some st ∧ st ≠ 4 :=
  ⟨modFlume State.reset 0 (fun x => { x with entering := some 3 }), 0, 3, by decide⟩

theorem meets_PowerStates_8 : ∃ (s : State), ∃ (st : Nat), 
    s.pwr.entering = some st ∧ st ≠ 4 :=
  ⟨{ State.reset with pwr := { State.reset.pwr with entering := some 3 } }, 3, by decide⟩

theorem meets_PowerStates_9 : ∃ (s : State), ∃ (f : Nat), ∃ (passes : List PassRes), ∃ (env : OpEnv), 
    f < 32 ∧ (getFlume s f).waking = true ∧ (getFlume s f).entering = none ∧ s.flt.safe = false ∧ (getFlume s f).pstate = 2 :=
  ⟨modFlume State.reset 0 (fun x => { x with waking := true, pstate := 2 }), 0, [], ⟨[], [], [], []⟩, by decide⟩

theorem meets_PowerStates_10 : ∃ (s : State), ∃ (f : Nat), ∃ (passes : List PassRes), ∃ (env : OpEnv), 
    f < 32 ∧ (getFlume s f).waking = true ∧ (getFlume s f).entering = none ∧ s.flt.safe = false ∧ (getFlume s f).pstate = 3 :=
  ⟨modFlume State.reset 0 (fun x => { x with waking := true, pstate := 3 }), 0, [], ⟨[], [], [], []⟩, by decide⟩

theorem meets_PowerStates_11 : ∃ (s : State), ∃ (ok : Bool), 
    s.pwr.waking = true ∧ s.pwr.entering = none ∧ s.flt.safe = false ∧ s.pwr.dstate ≠ 4 :=
  ⟨{ State.reset with pwr := { State.reset.pwr with waking := true, dstate := 2 } }, true, by decide⟩

theorem meets_PowerStates_12 : ∃ (s : State), ∃ (f : Nat), ∃ (passes : List PassRes), ∃ (env : OpEnv), ∃ (ok : Bool), 
    f < 32 ∧ (getFlume s f).waking = false ∧ s.pwr.waking = false :=
  ⟨State.reset, 0, [], ⟨[], [], [], []⟩, true, by decide⟩

theorem meets_PowerStates_13 : ∃ (s : State), ∃ (path : Nat), ∃ (v : Word), 
    path < 5 ∧ pathOpen s path = true ∧ busy s 198 = false ∧ portAwake s 198 = true :=
  ⟨hostState, 0, 5, by decide⟩

theorem meets_Rails_1 : ∃ (s : State), ∃ (r : Nat), 
    r < 7 ∧ (r ≠ 0 ∨ stretching s = false) :=
  ⟨State.reset, 3, by decide⟩

theorem meets_Rails_2 : ∃ (s : State), ∃ (r : Nat), 
    (r = 7 ∨ r = 8) :=
  ⟨State.reset, 7, by decide⟩

theorem meets_Rails_3 : ∃ (s : State), ∃ (r : Nat), ∃ (env : StartEnv), 
    r < 7 ∧ ((s.pwr.railsOut.filter (· != r) ≠ [] ∨ s.boot.early = none)) :=
  ⟨{ State.reset with pwr := { State.reset.pwr with railsOut := [3] } }, 3, startEnv, by decide⟩

theorem meets_Rails_4 : ∃ (s : State), ∃ (r : Nat), ∃ (t : Nat), ∃ (env : StartEnv), 
    r < 7 ∧ s.pwr.railsOut.filter (· != r) = [] ∧ s.boot.early = some t ∧ heldInReset (railBack s r) = false :=
  ⟨{ State.reset with pwr := { State.reset.pwr with railsOut := [3] }, boot := { State.reset.boot with early := some 0, rstN := true } }, 3, 0, startEnv, by decide⟩

theorem meets_Rails_7 : ∃ (s : State), ∃ (r : Nat), 
    r < 7 ∧ s.boot.step = 1 ∧ s.boot.seqError = false :=
  ⟨State.reset, 3, by decide⟩

theorem meets_Rails_8 : ∃ (s : State), ∃ (t : Nat), 
    s.boot.early = some t ∧ t + 1000000000 ≤ s.now ∧ s.boot.seqError = false :=
  ⟨{ State.reset with boot := { State.reset.boot with early := some 0 }, now := 2000000000 }, 0, by decide⟩

theorem meets_Rails_9 : ∃ (s : State), ∃ (t : Nat), 
    ((s.boot.early = none ∨ s.boot.early = some t ∧ s.now < t + 1000000000)) :=
  ⟨State.reset, 0, by decide⟩

theorem meets_AdminDescriptors_1 : ∃ (s : State), ∃ (did : Nat), ∃ (reply : PartnerReply), ∃ (d : Desc), ∃ (m : List Byte), 
    Machine.adminDesc s did 0x40 = some (d, m) ∧ regionWriteBefore s did = false :=
  ⟨admState 0x40 0, 0, .lost, admDesc 0x40 0, admBody 0x40 0, by decide⟩

theorem meets_AdminDescriptors_2 : ∃ (s : State), ∃ (did : Nat), ∃ (reply : PartnerReply), 
    regionWriteBefore s did = true :=
  ⟨putDesc (admState 0x40 0) 1 (some (admDesc 0x40 0)), 1, .lost, by decide⟩

theorem meets_AdminDescriptors_3 : ∃ (s : State), ∃ (did : Nat), ∃ (d : Desc), ∃ (m : List Byte), 
    Machine.adminDesc s did 0x41 = some (d, m) ∧ s.badRegions.contains (fieldLe m 0x10 1 % 64) = false :=
  ⟨admState 0x41 0, 0, admDesc 0x41 0, admBody 0x41 0, by decide⟩

theorem meets_AdminDescriptors_4 : ∃ (s : State), ∃ (did : Nat), ∃ (ecc : EccCheck), ∃ (d : Desc), ∃ (m : List Byte), 
    Machine.adminDesc s did 0x41 = some (d, m) ∧ s.badRegions.contains (fieldLe m 0x10 1 % 64) = true :=
  ⟨{ admState 0x41 0 with badRegions := [0] }, 0, .clean, admDesc 0x41 0, admBody 0x41 0, by decide⟩

theorem meets_AdminDescriptors_5 : ∃ (s : State), ∃ (did : Nat), ∃ (d : Desc), ∃ (m : List Byte), 
    Machine.adminDesc s did 0x48 = some (d, m) :=
  ⟨admState 0x48 0, 0, admDesc 0x48 0, admBody 0x48 0, by decide⟩

theorem meets_AdminDescriptors_6 : ∃ (s : State), ∃ (h : Nat), ∃ (t : Nat), ∃ (m : Nat), 
    h < 4 ∧ (getHead s h).hint = some (t, m) :=
  ⟨modHead State.reset 0 (fun x => { x with hint := some (5, 1) }), 0, 5, 1, by decide⟩

theorem meets_AdminDescriptors_7 : ∃ (s : State), ∃ (did : Nat), ∃ (env : OpEnv), ∃ (d : Desc), ∃ (m : List Byte), 
    Machine.adminDesc s did 0x42 = some (d, m) ∧ d.work = 0 ∧ scrubParam m = none ∧ ((rangePoints (bSrcA m) (bCount m)).find? fun p => (regionAt s p).isNone) = none ∧ ((rangeFlumes s [(0x10, bSrcA m, bCount m)]).filter fun f => !flumeOpen s f) = [] ∧ rangeScrubbed s [(0x10, bSrcA m, bCount m)] = false :=
  ⟨admState2 0x42 64 (2 ^ 63) 0 64, 0, ⟨[], [], [], []⟩, admDesc2 0x42 64 (2 ^ 63) 0 64, admBody2 0x42 64 (2 ^ 63) 0 64, by decide⟩

theorem meets_AdminDescriptors_8 : ∃ (s : State), ∃ (did : Nat), ∃ (o : Nat), ∃ (env : OpEnv), ∃ (d : Desc), ∃ (m : List Byte), 
    Machine.adminDesc s did 0x42 = some (d, m) ∧ d.work = 0 ∧ scrubParam m = some o :=
  ⟨admState 0x42 0, 0, 0x20, ⟨[], [], [], []⟩, admDesc 0x42 0, admBody 0x42 0, by decide⟩

theorem meets_AdminDescriptors_9 : ∃ (s : State), ∃ (did : Nat), ∃ (d : Desc), ∃ (m : List Byte), 
    Machine.adminDesc s did 0x42 = some (d, m) ∧ d.work = 1 ∧ dmaOpen s (pairHead d.pair) = true :=
  ⟨putDesc (admState 0x42 0) 0 (some { admDesc 0x42 0 with work := 1 }), 0, { admDesc 0x42 0 with work := 1 }, admBody 0x42 0, by decide⟩

theorem meets_AdminDescriptors_10 : ∃ (s : State), ∃ (did : Nat), ∃ (d : Desc), ∃ (m : List Byte), 
    Machine.adminDesc s did 0x45 = some (d, m) ∧ d.work = 0 ∧ promoteReason s (bImm0 m) (bitOf (bOpt m) 0) = 0 :=
  ⟨admState 0x45 0, 0, admDesc 0x45 0, admBody 0x45 0, by decide⟩

theorem meets_AdminDescriptors_11 : ∃ (s : State), ∃ (did : Nat), ∃ (d : Desc), ∃ (m : List Byte), 
    Machine.adminDesc s did 0x46 = some (d, m) ∧ d.work = 0 ∧ resilverReason s (bImm0 m) = 0 ∧ bitOf (bOpt m) 0 = false :=
  ⟨(fun (s : State) => { s with leat := { s.leat with joined := true } }) (admState 0x46 0), 0, admDesc 0x46 0, admBody 0x46 0, by decide⟩

theorem meets_AdminDescriptors_12 : ∃ (s : State), ∃ (did : Nat), ∃ (d : Desc), ∃ (m : List Byte), 
    Machine.adminDesc s did 0x46 = some (d, m) ∧ d.work = 0 ∧ resilverReason s (bImm0 m) ≠ 0 :=
  ⟨admState 0x46 0, 0, admDesc 0x46 0, admBody 0x46 0, by decide⟩

theorem meets_AdminDescriptors_13 : ∃ (s : State), ∃ (did : Nat), ∃ (d : Desc), ∃ (m : List Byte), 
    Machine.adminDesc s did 0x46 = some (d, m) ∧ d.work = 2 ∧ (s.leat.pushes.any fun w => w.did == did) = false ∧ resilverGranules s (natAt d.prog 0) = [] ∧ failedGranules d = [] :=
  ⟨putDesc (admState 0x46 0) 0 (some { admDesc 0x46 0 with work := 2 }), 0, { admDesc 0x46 0 with work := 2 }, admBody 0x46 0, by decide⟩

theorem meets_CompletionsPosted_1 : ∃ (s : State), ∃ (n : Nat), ∃ (k : Nat), ∃ (d : Desc), ∃ (r : Result), 
    n < 256 ∧ readyDesc s n = some (k, d, r) ∧ dmaOpen s (pairHead n) = true ∧ (getPair s n).posted < cqSize s n :=
  ⟨putDesc (modPair ringState 1 fun x => { x with reserved := 1 }) 0 (some { someDesc with result := some ⟨0, 0, 0, 0⟩ }), 1, 0, { someDesc with result := some ⟨0, 0, 0, 0⟩ }, ⟨0, 0, 0, 0⟩, by decide⟩

theorem meets_CompletionsPosted_2 : ∃ (s : State), ∃ (n : Nat), 
    n < 256 ∧ ((dmaOpen s (pairHead n) = false ∨ cqSize s n ≤ (getPair s n).posted)) :=
  ⟨State.reset, 1, by decide⟩

theorem meets_CompletionsPosted_3 : ∃ (s : State), ∃ (n : Nat), 
    n < 256 ∧ (getPair s n).state = 3 ∧ (getPair s n).draining = false ∧ pairEnded s n = true :=
  ⟨modPair State.reset 1 (fun x => { x with state := 3 }), 1, by decide⟩

theorem meets_CompletionsPosted_4 : ∃ (s : State), ∃ (n : Nat), 
    n < 256 ∧ (((getPair s n).state ≠ 3 ∨ (getPair s n).draining = true ∨ pairEnded s n = false)) :=
  ⟨State.reset, 1, by decide⟩

theorem meets_BistDescriptors_1 : ∃ (s : State), ∃ (did : Nat), ∃ (d : Desc), ∃ (m : List Byte), 
    Machine.adminDesc s did 0x43 = some (d, m) ∧ d.work = 0 ∧ selKind (fieldLe m 0x10 8) = 0 ∧ bistCheck s did s.bist.startup.length m = none ∧ dmaOpen s (pairHead d.pair) = true :=
  ⟨admState2 0x43 0 (2 ^ 63) 64 0, 0, admDesc2 0x43 0 (2 ^ 63) 64 0, admBody2 0x43 0 (2 ^ 63) 64 0, by decide⟩

theorem meets_BistDescriptors_2 : ∃ (s : State), ∃ (did : Nat), ∃ (fails : List CellFail), ∃ (short : Option Nat), ∃ (d : Desc), ∃ (m : List Byte), 
    Machine.adminDesc s did 0x43 = some (d, m) ∧ d.work = 0 ∧ selKind (fieldLe m 0x10 8) = 1 ∧ targetOut s (fieldLe m 0x10 8) = false ∧ bistCheck s did 1 m = none ∧ dmaOpen s (pairHead d.pair) = true ∧ flumeOpen s (selFlume (fieldLe m 0x10 8)) = true :=
  ⟨admState2 0x43 1 (2 ^ 63) 64 0, 0, [], none, admDesc2 0x43 1 (2 ^ 63) 64 0, admBody2 0x43 1 (2 ^ 63) 64 0, by decide⟩

theorem meets_BistDescriptors_3 : ∃ (s : State), ∃ (did : Nat), ∃ (d : Desc), ∃ (m : List Byte), 
    Machine.adminDesc s did 0x43 = some (d, m) ∧ d.work = 0 ∧ selKind (fieldLe m 0x10 8) = 2 ∧ bistCheck s did 1 m = none ∧ dmaOpen s (pairHead d.pair) = true :=
  ⟨modMill (admState2 0x43 2 (2 ^ 63) 64 0) 0 (fun x => { x with disabled := false }), 0, admDesc2 0x43 2 (2 ^ 63) 64 0, admBody2 0x43 2 (2 ^ 63) 64 0, by decide⟩

theorem meets_BistDescriptors_4 : ∃ (s : State), ∃ (did : Nat), ∃ (pass : Bool), ∃ (short : Option Nat), ∃ (d : Desc), ∃ (m : List Byte), 
    Machine.adminDesc s did 0x43 = some (d, m) ∧ d.work = 0 ∧ selKind (fieldLe m 0x10 8) = 3 ∧ bistCheck s did 1 m = none ∧ dmaOpen s (pairHead d.pair) = true ∧ flumeOpen s (selFlume (fieldLe m 0x10 8)) = true :=
  ⟨admState2 0x43 3 (2 ^ 63) 64 0, 0, true, none, admDesc2 0x43 3 (2 ^ 63) 64 0, admBody2 0x43 3 (2 ^ 63) 64 0, by decide⟩

theorem meets_BistDescriptors_5 : ∃ (s : State), ∃ (did : Nat), ∃ (loop : LoopRes), ∃ (short : Option Nat), ∃ (d : Desc), ∃ (m : List Byte), 
    Machine.adminDesc s did 0x43 = some (d, m) ∧ d.work = 0 ∧ selKind (fieldLe m 0x10 8) = 4 ∧ bistCheck s did 1 m = none ∧ dmaOpen s (pairHead d.pair) = true :=
  ⟨modFlume (admState2 0x43 4 (2 ^ 63) 64 0) 0 (fun x => { x with held := true }), 0, ⟨[], []⟩, none, admDesc2 0x43 4 (2 ^ 63) 64 0, admBody2 0x43 4 (2 ^ 63) 64 0, by decide⟩

theorem meets_BistDescriptors_6 : ∃ (s : State), ∃ (did : Nat), ∃ (res : PassRes), ∃ (d : Desc), ∃ (m : List Byte), 
    Machine.adminDesc s did 0x43 = some (d, m) ∧ d.work = 0 ∧ selRestore (fieldLe m 0x10 8) = true ∧ targetOut s (fieldLe m 0x10 8) = true ∧ bistCheck s did 1 m = none ∧ dmaOpen s (pairHead d.pair) = true :=
  ⟨modBay (modFlume (admState2 0x43 0x20001 (2 ^ 63) 64 0) 0 (fun x => { x with held := true })) 0 (fun b => { b with offline := true }), 0, ⟨0, [], false, false, true⟩, admDesc2 0x43 0x20001 (2 ^ 63) 64 0, admBody2 0x43 0x20001 (2 ^ 63) 64 0, by decide⟩

theorem meets_BistDescriptors_7 : ∃ (s : State), ∃ (did : Nat), ∃ (pass : Bool), ∃ (short : Option Nat), ∃ (d : Desc), ∃ (m : List Byte), 
    Machine.adminDesc s did 0x43 = some (d, m) ∧ d.work = 4 ∧ dmaOpen s (pairHead d.pair) = true ∧ selKind (natAt d.prog 0) = 2 ∧ (getMill s (selFlume (natAt d.prog 0))).running = none :=
  ⟨putDesc (admState 0x43 0) 0 (some { admDesc 0x43 0 with work := 4, prog := [2] }), 0, true, none, { admDesc 0x43 0 with work := 4, prog := [2] }, admBody 0x43 0, by decide⟩

theorem meets_BistDescriptors_8 : ∃ (s : State), ∃ (did : Nat), ∃ (pass : Bool), ∃ (fails : List CellFail), ∃ (short : Option Nat), ∃ (d : Desc), ∃ (m : List Byte), 
    Machine.adminDesc s did 0x43 = some (d, m) ∧ d.work = 4 ∧ dmaOpen s (pairHead d.pair) = true ∧ selKind (natAt d.prog 0) ≠ 2 :=
  ⟨putDesc (admState 0x43 0) 0 (some { admDesc 0x43 0 with work := 4, prog := [1] }), 0, true, [], none, { admDesc 0x43 0 with work := 4, prog := [1] }, admBody 0x43 0, by decide⟩

theorem meets_BistDescriptors_9 : ∃ (s : State), ∃ (did : Nat), ∃ (n : Nat), ∃ (ok : Nat → Bool), ∃ (run : Desc → List Byte → Nat → State), ∃ (d : Desc), ∃ (m : List Byte), ∃ (r : Result), 
    Machine.adminDesc s did 0x43 = some (d, m) ∧ d.work = 0 ∧ ok (fieldLe m 0x10 8) = true ∧ bistCheck s did n m = some r :=
  ⟨admState 0x43 0, 0, 0, fun _ => true, fun _ _ _ => State.reset, admDesc 0x43 0, admBody 0x43 0, ⟨8, 0, 0x20, 0⟩, by decide⟩

theorem meets_BistDescriptors_11 : ∃ (s : State), ∃ (did : Nat), ∃ (fails : List CellFail), ∃ (short : Option Nat), ∃ (d : Desc), ∃ (m : List Byte), 
    Machine.adminDesc s did 0x43 = some (d, m) ∧ d.work = 0 ∧ selKind (fieldLe m 0x10 8) = 1 ∧ targetOut s (fieldLe m 0x10 8) = false ∧ bistCheck s did 1 m = none ∧ dmaOpen s (pairHead d.pair) = true ∧ flumeOpen s (selFlume (fieldLe m 0x10 8)) = false :=
  ⟨modFlume (admState2 0x43 1 (2 ^ 63) 64 0) 0 (fun x => { x with pstate := 3 }), 0, [], none, admDesc2 0x43 1 (2 ^ 63) 64 0, admBody2 0x43 1 (2 ^ 63) 64 0, by decide⟩

theorem meets_DeviceResets_2 : ∃ (s : State), ∃ (env : StartEnv), 
    s.boot.seqError = false ∧ s.pwr.auxReset = false :=
  ⟨State.reset, startEnv, by decide⟩

theorem meets_DeviceResets_3 : ∃ (s : State), ∃ (path : Nat), ∃ (v : Word), ∃ (env : StartEnv), 
    path < 5 ∧ pathOpen s path = true :=
  ⟨hostState, 0, 0xC0DE0001, startEnv, by decide⟩

theorem meets_DeviceResets_4 : ∃ (s : State), ∃ (path : Nat), ∃ (v : Word), ∃ (env : StartEnv), 
    path < 5 ∧ pathOpen s path = false ∧ heldInReset s = true ∧ s.boot.lcReset = false ∧ s.boot.scanOpen = false ∧ s.boot.debugOpen = false :=
  ⟨{ State.reset with boot := { State.reset.boot with seqError := true } }, 0, 0, startEnv, by decide⟩

theorem meets_DeviceResets_5 : ∃ (s : State), ∃ (env : StartEnv), 
    s.boot.lcReset = true :=
  ⟨{ State.reset with boot := { State.reset.boot with lcReset := true } }, startEnv, by decide⟩

theorem meets_DeviceResets_6 : ∃ (s : State), ∃ (env : StartEnv), 
    (s.boot.scanOpen = true ∨ s.boot.debugOpen = true) :=
  ⟨{ State.reset with boot := { State.reset.boot with scanOpen := true } }, startEnv, by decide⟩

theorem meets_DeviceResets_7 : ∃ (s : State), ∃ (cause : Nat), ∃ (env : StartEnv), 
    s.pwr.railsOut = [] :=
  ⟨State.reset, 2, startEnv, by decide⟩

theorem meets_DeviceResets_8 : ∃ (s : State), ∃ (cause : Nat), ∃ (env : StartEnv), 
    s.pwr.railsOut ≠ [] :=
  ⟨{ State.reset with pwr := { State.reset.pwr with railsOut := [3] } }, 2, startEnv, by decide⟩

theorem meets_TestPort_3 : ∃ (s : State), 
    (s.fuses.lc = 0 ∨ s.fuses.lc = 1 ∨ s.fuses.lc = 4) :=
  ⟨State.reset, by decide⟩

theorem meets_TestPort_4 : ∃ (s : State), 
    s.fuses.lc ≠ 0 ∧ s.fuses.lc ≠ 1 ∧ s.fuses.lc ≠ 4 :=
  ⟨{ State.reset with fuses := { State.reset.fuses with lc := 3 } }, by decide⟩

theorem meets_TestPort_5 : ∃ (s : State), ∃ (f : Nat), ∃ (m : Nat), ∃ (k : Nat), ∃ (u : State), 
    s.wf ∧ f < 32 ∧ m < 32 ∧ k < 128 ∧ u = clearSecrets s :=
  ⟨State.reset, 0, 0, 0, clearSecrets State.reset, ⟨reset_wf, by decide, by decide, by decide, rfl⟩⟩

theorem meets_HeadLinks_1 : ∃ (s : State), ∃ (h : Nat), ∃ (cxl : Bool), ∃ (rate : Nat), ∃ (w : Nat), ∃ (rev : Bool), ∃ (bad : List Nat), ∃ (ndr : Option Nat), ∃ (drs : Option Nat), 
    h < 4 ∧ s.boot.linkEn = true ∧ (getHead s h).linkUp = false ∧ (getHead s h).retryAt = none ∧ rate ≠ 0 ∧ rate ≤ 3 ∧ headSet (bad ++ exclReq s h) = some (w, rev) :=
  ⟨hostState, 1, true, 3, 3, false, [], none, none, by decide⟩

theorem meets_HeadLinks_2 : ∃ (s : State), ∃ (h : Nat), ∃ (cxl : Bool), ∃ (rate : Nat), ∃ (bad : List Nat), ∃ (ndr : Option Nat), ∃ (drs : Option Nat), 
    h < 4 ∧ s.boot.linkEn = true ∧ (getHead s h).linkUp = false ∧ (getHead s h).retryAt = none ∧ ((rate = 0 ∨ 3 < rate ∨ headSet (bad ++ exclReq s h) = none)) :=
  ⟨hostState, 1, true, 0, [], none, none, by decide⟩

theorem meets_HeadLinks_3 : ∃ (s : State), ∃ (h : Nat), ∃ (t : Nat), 
    h < 4 ∧ (getHead s h).retryAt = some t ∧ t ≤ s.now :=
  ⟨modHead State.reset 0 (fun x => { x with retryAt := some 0 }), 0, 0, by decide⟩

theorem meets_HeadLinks_4 : ∃ (s : State), ∃ (h : Nat), ∃ (t : Nat), 
    h < 4 ∧ (((getHead s h).retryAt = none ∨ (getHead s h).retryAt = some t ∧ s.now < t)) :=
  ⟨State.reset, 0, 0, by decide⟩

theorem meets_HeadLinks_5 : ∃ (s : State), ∃ (h : Nat), 
    h < 4 ∧ (getHead s h).linkUp = true :=
  ⟨hostState, 0, by decide⟩

theorem meets_HeadLinks_6 : ∃ (s : State), ∃ (h : Nat), 
    h < 4 ∧ (getHead s h).linkUp = false :=
  ⟨State.reset, 0, by decide⟩

theorem meets_HeadLinks_7 : ∃ (s : State), ∃ (h : Nat), 
    h < 4 :=
  ⟨hostState, 0, by decide⟩

theorem meets_HeadStates_1 : ∃ (s : State), ∃ (h : Nat), 
    h < 4 ∧ (getHead s h).linkUp = true ∧ (getHead s h).d3hot = false :=
  ⟨hostState, 0, by decide⟩

theorem meets_HeadStates_2 : ∃ (s : State), ∃ (h : Nat), 
    h < 4 ∧ (getHead s h).linkUp = true ∧ (getHead s h).d3hot = true :=
  ⟨modHead hostState 0 (fun x => { x with d3hot := true }), 0, by decide⟩

theorem meets_HeadStates_3 : ∃ (s : State), ∃ (h : Nat), 
    h < 4 ∧ (getHead s h).linkUp = true ∧ (getHead s h).l1 = false ∧ headHolds s h = false :=
  ⟨hostState, 0, by decide⟩

theorem meets_HeadStates_4 : ∃ (s : State), ∃ (h : Nat), 
    h < 4 ∧ (((getHead s h).linkUp = false ∨ headHolds s h = true)) :=
  ⟨State.reset, 0, by decide⟩

theorem meets_HeadStates_5 : ∃ (s : State), ∃ (h : Nat), 
    h < 4 ∧ (getHead s h).l1 = true :=
  ⟨modHead hostState 0 (fun x => { x with l1 := true }), 0, by decide⟩

theorem meets_HeadStates_6 : ∃ (s : State), ∃ (h : Nat), ∃ (t : Nat), 
    h < 4 ∧ (getHead s h).fullSince = some t ∧ 384 ≤ (getHead s h).responses.length ∧ (getHead s h).starveSaid = false ∧ t + 1000000 ≤ s.now :=
  ⟨{ modHead State.reset 0 (fun x => { x with fullSince := some 0, responses := List.replicate 384 (.ndr 0 false) }) with now := 1000000 }, 0, 0, by decide⟩

theorem meets_HeadStates_7 : ∃ (s : State), ∃ (h : Nat), 
    h < 4 ∧ (((getHead s h).starveSaid = true ∨ (getHead s h).responses.length < 384)) :=
  ⟨State.reset, 0, by decide⟩

theorem meets_HeadStates_8 : ∃ (s : State), ∃ (h : Nat), ∃ (ndr : Nat), ∃ (drs : Nat), 
    h < 4 ∧ (getHead s h).linkUp = true :=
  ⟨hostState, 0, 1, 1, by decide⟩

theorem meets_HeadStates_9 : ∃ (s : State), ∃ (h : Nat), ∃ (cfg : ConfigWrite), 
    h < 4 ∧ (getHead s h).linkUp = true :=
  ⟨hostState, 0, .busMaster true, by decide⟩

theorem meets_LeatPorts_1 : ∃ (s : State), ∃ (k : Nat), ∃ (rate : Nat), ∃ (w : Nat), ∃ (rev : Bool), ∃ (bad : List Nat), 
    k < 2 ∧ portMayTrain s k = true ∧ bitOf (regGet s (oLet k 0)).toNat 1 = false ∧ (rate = 2 ∨ rate = 3) ∧ portSet (bad ++ exclReq s (4 + k)) = some (w, rev) :=
  ⟨regSet hostState (oLet 0 0) 1, 0, 3, 3, false, [], by decide⟩

theorem meets_LeatPorts_2 : ∃ (s : State), ∃ (k : Nat), ∃ (bad : List Nat), 
    k < 2 ∧ portMayTrain s k = true ∧ portSet (bad ++ exclReq s (4 + k)) = none :=
  ⟨regSet hostState (oLet 0 0) 1, 0, [0, 4, 8, 12], by decide⟩

theorem meets_LeatPorts_3 : ∃ (s : State), ∃ (k : Nat), ∃ (rate : Nat), ∃ (w : Nat), ∃ (rev : Bool), ∃ (bad : List Nat), 
    k < 2 ∧ portMayTrain s k = true ∧ bitOf (regGet s (oLet k 0)).toNat 1 = true ∧ ((rate = 2 ∨ rate = 3)) ∧ portSet (bad ++ exclReq s (4 + k)) = some (w, rev) :=
  ⟨regSet hostState (oLet 0 0) 3, 0, 3, 3, false, [], by decide⟩

theorem meets_LeatPorts_4 : ∃ (s : State), ∃ (k : Nat), 
    k < 2 ∧ portAlive (getPort s k) = true :=
  ⟨leatState, 0, by decide⟩

theorem meets_LeatPorts_5 : ∃ (s : State), ∃ (k : Nat), 
    k < 2 ∧ (getPort s k).linkUp = true :=
  ⟨leatState, 0, by decide⟩

theorem meets_LeatPorts_6 : ∃ (s : State), ∃ (k : Nat), ∃ (seq : Nat), ∃ (crcOk : Bool), 
    k < 2 ∧ (getPort s k).linkUp = true :=
  ⟨leatState, 0, 0, true, by decide⟩

theorem meets_LeatPorts_7 : ∃ (s : State), ∃ (k : Nat), 
    k < 2 ∧ (getPort s k).linkUp = true ∧ (getPort s k).unacked.isEmpty = false ∧ (getPort s k).linkAt + 10000 ≤ s.now :=
  ⟨{ modPort leatState 0 (fun p => { p with unacked := [⟨0, 0, []⟩] }) with now := 10000 }, 0, by decide⟩

theorem meets_LeatPorts_8 : ∃ (s : State), ∃ (k : Nat), 
    k < 2 :=
  ⟨leatState, 0, by decide⟩

theorem meets_LeatPorts_9 : ∃ (s : State), ∃ (k : Nat), ∃ (lastGood : Nat), ∃ (reqSlots : Nat), ∃ (rspSlots : Nat), 
    k < 2 ∧ (getPort s k).linkUp = true :=
  ⟨leatState, 0, 3, 0, 0, by decide⟩

theorem meets_LeatPorts_10 : ∃ (s : State), ∃ (k : Nat), ∃ (lastGood : Nat), ∃ (reqSlots : Nat), ∃ (rspSlots : Nat), 
    k < 2 ∧ (getPort s k).linkUp = true :=
  ⟨leatState, 0, 3, 0, 0, by decide⟩

theorem meets_LeatPorts_11 : ∃ (s : State), ∃ (k : Nat), 
    k < 2 ∧ (getPort s k).linkUp = true ∧ ((getPort s k).beatAt = 0 ∨ (getPort s k).beatAt + 100000 ≤ s.now) :=
  ⟨leatState, 0, by decide⟩

theorem meets_LeatPorts_12 : ∃ (s : State), ∃ (k : Nat), ∃ (hb : HeartbeatMsg), 
    k < 2 ∧ (getPort s k).linkUp = true ∧ hb.nonce = s.leat.nonce.toNat ∧ hb.sendPort = 1 - k :=
  ⟨leatState, 0, { beat with nonce := 0, sendPort := 1 }, by decide⟩

theorem meets_LeatPorts_13 : ∃ (s : State), ∃ (k : Nat), ∃ (hb : HeartbeatMsg), 
    k < 2 ∧ (getPort s k).linkUp = true ∧ ((hb.nonce ≠ s.leat.nonce.toNat ∨ hb.sendPort ≠ 1 - k)) :=
  ⟨leatState, 0, beat, by decide⟩

theorem meets_LeatPorts_14 : ∃ (s : State), ∃ (k : Nat), ∃ (seq : Nat), ∃ (lastGood : Nat), ∃ (rq : Nat), ∃ (rs : Nat), ∃ (ok : Bool), ∃ (nak : Bool), ∃ (hb : HeartbeatMsg), 
    k < 2 ∧ (getPort s k).linkUp = false ∧ (getPort s k).recovering = false :=
  ⟨State.reset, 0, 0, 0, 0, 0, true, false, beat, by decide⟩

theorem meets_MirrorTraffic_1 : ∃ (s : State), ∃ (k : Nat), ∃ (line : Nat), ∃ (cls : Nat), ∃ (tag : Nat), ∃ (data : Line), ∃ (md : BitVec 2), 
    k < 2 ∧ leatOpen s k = true :=
  ⟨leatState, 0, 5, 0, 1, 7, 0, by decide⟩

theorem meets_MirrorTraffic_2 : ∃ (s : State), ∃ (k : Nat), ∃ (line : Nat), ∃ (data : Line), ∃ (md : BitVec 2), ∃ (poison : Bool), ∃ (tag : Nat), ∃ (i : Nat), 
    s.leat.joined = true ∧ (regionAt s (line * 64)).filter (fun i => regionMatched s i && rgSecondary (regionWord s i)) = some i :=
  ⟨secondState, 0, 7, 0, 0, false, 1, 0, by decide⟩

theorem meets_MirrorTraffic_3 : ∃ (s : State), ∃ (k : Nat), ∃ (first : Nat), ∃ (count : Nat), ∃ (stored : Bool), 
    k < 2 ∧ leatOpen s k = true :=
  ⟨leatState, 0, 0, 1, true, by decide⟩

theorem meets_MirrorTraffic_4 : ∃ (s : State), ∃ (k : Nat), ∃ (line : Nat), ∃ (lines : Nat), ∃ (tag : Nat), ∃ (refetch : Bool), ∃ (env : OpEnv), 
    k < 2 ∧ leatOpen s k = true ∧ s.leat.joined = true ∧ ((rangeFlumes (wakeDevice s) [(0, line * 64, max 1 (min 16 lines) * 64)]).filter fun f => !flumeOpen (wakeDevice s) f) = [] ∧ rangeScrubbed (wakeDevice s) [(0, line * 64, max 1 (min 16 lines) * 64)] = false :=
  ⟨leatState, 0, 0, 1, 3, false, ⟨[], [], [], []⟩, by decide⟩

theorem meets_MirrorTraffic_5 : ∃ (s : State), ∃ (k : Nat), ∃ (line : Nat), ∃ (tag : Nat), ∃ (d : CopyLine), ∃ (rest : List CopyLine), ∃ (c : CopyWait), 
    k < 2 ∧ leatOpen s k = true ∧ s.leat.joined = true ∧ s.leat.copies.find? (fun c => c.tag == tag) = some c :=
  ⟨modLeat leatState (fun l => { l with copies := [copyWait] }), 0, 0, 3, ⟨0, false, 0⟩, [], copyWait, by decide⟩

theorem meets_MirrorTraffic_6 : ∃ (s : State), ∃ (k : Nat), ∃ (line : Nat), ∃ (lines : Nat), ∃ (cls : Nat), ∃ (tag : Nat), ∃ (first : Nat), ∃ (count : Nat), ∃ (data : Line), ∃ (md : BitVec 2), ∃ (stored : Bool), ∃ (rf : Bool), ∃ (push : Bool), ∃ (env : OpEnv), ∃ (ds : List CopyLine), 
    k < 2 ∧ leatOpen s k = false :=
  ⟨State.reset, 0, 0, 1, 0, 0, 0, 0, 0, 0, false, false, false, ⟨[], [], [], []⟩, [], by decide⟩

theorem meets_MirrorTraffic_7 : ∃ (s : State), ∃ (e : PondEntry), 
    s.leat.pond.find? (fun e => !e.sent) = some e ∧ s.leat.joined = true ∧ pondReady s e = true :=
  ⟨modLeat leatState (fun l => { l with pond := [pondOne] }), pondOne, by decide⟩

theorem meets_MirrorTraffic_8 : ∃ (s : State), ∃ (path : Nat), ∃ (off : Nat), ∃ (v : Word), 
    path < 5 ∧ off < 0x800 ∧ off % 4 = 0 ∧ pathOpen s path = true ∧ busy s 100 = false ∧ portAwake s 100 = true ∧ s.leat.joined = false :=
  ⟨hostState, 0, 8, 5, by decide⟩

theorem meets_MirrorTraffic_9 : ∃ (s : State), ∃ (did : Nat), ∃ (g : Nat), ∃ (a : Nat), ∃ (env : OpEnv), ∃ (d : Desc), ∃ (m : List Byte), 
    Machine.adminDesc s did 0x46 = some (d, m) ∧ d.work = 2 ∧ ((resilverGranules s (natAt d.prog 0)).filter fun g => !(failedGranules d).contains g).find? (fun g => natAt d.prog 4 < (g + 1) * 1024) = some g ∧ a = max (natAt d.prog 4) (g * 1024) ∧ ((rangeFlumes s [(0, a * 64, 1024)]).filter fun f => !flumeOpen s f) = [] ∧ rangeScrubbed s [(0, a * 64, 1024)] = false :=
  ⟨resilverState, 0, 0, 0, ⟨[], [], [], []⟩, resilverDesc, admBody2 0x46 0 0 0 0, by decide, by decide, by decide, by decide, by decide, by decide⟩

theorem meets_MirrorTraffic_10 : ∃ (s : State), 
    s.leat.joined = true ∧ (getPort s 0).rxAt + 3000000 ≤ s.now ∧ (getPort s 1).rxAt + 3000000 ≤ s.now :=
  ⟨{ leatState with now := 3000000 }, by decide⟩

theorem meets_MirrorTraffic_11 : ∃ (s : State), 
    ((s.leat.joined = false ∨ s.now < (getPort s 0).rxAt + 3000000 ∨ s.now < (getPort s 1).rxAt + 3000000)) :=
  ⟨State.reset, by decide⟩

theorem meets_MirrorTraffic_12 : ∃ (s : State), 
    s.leat.joined = true ∧ ((s.leat.sync.any fun w => decide (w.since + ackLimit s < s.now)) || s.leat.pond.any fun e => e.sent && decide (e.since + ackLimit s < s.now)) = true :=
  ⟨{ modLeat leatState (fun l => { l with pond := [{ pondOne with sent := true }] }) with now := 10 ^ 12 }, by decide⟩

theorem meets_PairState_1 : ∃ (s : State), ∃ (k : Nat), ∃ (entries : List RegionIn), ∃ (dirty : List DirtyIn), 
    k < 2 ∧ mayJoin s = true :=
  ⟨modLeat (modPort leatState 0 fun p => { p with heard := true }) (fun l => { l with joined := false }), 0, [], [], by decide⟩

theorem meets_PairState_2 : ∃ (s : State), ∃ (k : Nat), ∃ (entries : List RegionIn), ∃ (dirty : List DirtyIn), 
    k < 2 ∧ mayJoin s = false :=
  ⟨State.reset, 0, [], [], by decide⟩

theorem meets_PairState_3 : ∃ (s : State), ∃ (k : Nat), ∃ (idx : Nat), ∃ (tag : Nat), ∃ (entry : BitVec 128), 
    k < 2 ∧ leatOpen s k = true ∧ idx < 64 :=
  ⟨leatState, 0, 0, 0, 5, by decide⟩

theorem meets_PairState_4 : ∃ (s : State), ∃ (i : Nat), ∃ (e : Nat), 
    regionLive s i = false ∧ ((rgSecondary e = true ∨ entryReason s i (partnerForm e) ≠ 0 ∨ entryUsed s i = true)) :=
  ⟨State.reset, 0, 2 ^ 74, by decide⟩

theorem meets_PairState_5 : ∃ (s : State), ∃ (k : Nat), ∃ (idx : Nat), ∃ (tag : Nat), 
    k < 2 ∧ leatOpen s k = true ∧ idx < 64 :=
  ⟨leatState, 0, 0, 0, by decide⟩

theorem meets_PairState_6 : ∃ (s : State), ∃ (k : Nat), ∃ (mask : Nat), ∃ (tag : Nat), 
    k < 2 ∧ leatOpen s k = true :=
  ⟨leatState, 0, 1, 0, by decide⟩

theorem meets_PairState_7 : ∃ (s : State), ∃ (k : Nat), ∃ (words : List (Nat × Word)), ∃ (tag : Nat), 
    k < 2 ∧ leatOpen s k = true :=
  ⟨leatState, 0, [(3, 7)], 0, by decide⟩

theorem meets_PairState_8 : ∃ (s : State), ∃ (k : Nat), ∃ (granules : List Nat), ∃ (tag : Nat), 
    k < 2 ∧ leatOpen s k = true :=
  ⟨leatState, 0, [3], 0, by decide⟩

theorem meets_PairState_9 : ∃ (s : State), ∃ (k : Nat), ∃ (mask : Nat), ∃ (tag : Nat), 
    k < 2 ∧ leatOpen s k = true :=
  ⟨leatState, 0, 0, 0, by decide⟩

theorem meets_PairState_10 : ∃ (s : State), 
    s.leat.quiesce ≠ [] ∧ (s.leat.sync.any fun w => s.leat.quiesce.contains w.region) = false ∧ (s.leat.pond.any fun e => s.leat.quiesce.contains e.region) = false :=
  ⟨modLeat leatState (fun l => { l with quiesce := [3] }), by decide⟩

theorem meets_PairState_11 : ∃ (s : State), ∃ (k : Nat), ∃ (mask : Nat), ∃ (tag : Nat), 
    k < 2 ∧ leatOpen s k = true :=
  ⟨leatState, 0, 0, 0, by decide⟩

theorem meets_PairState_12 : ∃ (s : State), ∃ (k : Nat), ∃ (idx : Nat), ∃ (mask : Nat), ∃ (tag : Nat), ∃ (entry : BitVec 128), ∃ (words : List (Nat × Word)), ∃ (gs : List Nat), 
    k < 2 ∧ leatOpen s k = false :=
  ⟨State.reset, 0, 0, 0, 0, 0, [], [], by decide⟩

theorem meets_Lanes_1 : ∃ (s : State), ∃ (l : Nat), ∃ (pll : Bool), ∃ (eq : Bool), 
    l < 96 ∧ linkRuns s (l / 16) = true :=
  ⟨hostState, 3, false, false, by decide⟩

theorem meets_Lanes_2 : ∃ (s : State), ∃ (l : Nat), ∃ (pll : Bool), ∃ (eq : Bool), 
    l < 96 ∧ linkRuns s (l / 16) = false :=
  ⟨State.reset, 3, true, false, by decide⟩

theorem meets_Lanes_3 : ∃ (s : State), ∃ (l : Nat), 
    l < 96 ∧ retestDue s l = true :=
  ⟨laneState, 3, by decide⟩

theorem meets_Lanes_4 : ∃ (s : State), ∃ (l : Nat), 
    l < 96 ∧ retestDue s l = false :=
  ⟨State.reset, 3, by decide⟩

theorem meets_Lanes_5 : ∃ (s : State), ∃ (l : Nat), ∃ (errors : Nat), ∃ (lock : Bool), 
    l < 96 ∧ (getLane s l).retest = true ∧ (getLane s l).retestAt + 1000000 ≤ s.now :=
  ⟨{ modLane State.reset 3 (fun x => { x with retest := true }) with now := 1000000 }, 3, 0, true, by decide⟩

theorem meets_Lanes_6 : ∃ (s : State), ∃ (l : Nat), ∃ (errors : Nat), ∃ (lock : Bool), 
    l < 96 ∧ (((getLane s l).retest = false ∨ s.now < (getLane s l).retestAt + 1000000)) :=
  ⟨State.reset, 3, 0, true, ⟨by decide, .inl (by decide)⟩⟩

theorem meets_Lanes_7 : ∃ (s : State), ∃ (n : Nat), ∃ (failing : List Nat), ∃ (eq : Bool), 
    n < 6 :=
  ⟨State.reset, 0, [], false, by decide⟩

theorem meets_Lanes_8 : ∃ (s : State), ∃ (n : Nat), ∃ (failing : List Nat), ∃ (eq : Bool), 
    n < 6 :=
  ⟨hostState, 0, [], true, by decide⟩

theorem meets_Lanes_9 : ∃ (s : State), ∃ (path : Nat), ∃ (l : Nat), ∃ (v : Word), 
    path < 5 ∧ l < 96 ∧ pathOpen s path = true ∧ busy s (102 + l) = false ∧ portAwake s (102 + l) = true ∧ bitOf v.toNat 31 = true ∧ (getLane s l).scanning = false :=
  ⟨hostState, 0, 3, 0x80000000, by decide⟩

theorem meets_Lanes_10 : ∃ (s : State), ∃ (path : Nat), ∃ (l : Nat), ∃ (v : Word), 
    path < 5 ∧ l < 96 ∧ pathOpen s path = true ∧ busy s (102 + l) = false ∧ portAwake s (102 + l) = true ∧ ((bitOf v.toNat 31 = false ∨ (getLane s l).scanning = true)) :=
  ⟨hostState, 0, 3, 0, ⟨by decide, by decide, by decide, by decide, by decide, .inl (by decide)⟩⟩

theorem meets_Lanes_11 : ∃ (s : State), ∃ (l : Nat), ∃ (errors : Nat), 
    l < 96 ∧ (getLane s l).scanning = true ∧ (getLane s l).scanAt + scanTime s l ≤ s.now ∧ (getLane s l).points.length + 1 < scanTotal s l :=
  ⟨{ scanState with now := 10 ^ 15 }, 3, 5, by decide⟩

theorem meets_Lanes_12 : ∃ (s : State), ∃ (l : Nat), ∃ (errors : Nat), 
    l < 96 ∧ (getLane s l).scanning = true ∧ (getLane s l).scanAt + scanTime s l ≤ s.now ∧ scanTotal s l ≤ (getLane s l).points.length + 1 :=
  ⟨{ modLane scanOne 3 (fun x => { x with scanning := true }) with now := 10 ^ 15 }, 3, 5, by decide⟩

theorem meets_Lanes_13 : ∃ (s : State), ∃ (l : Nat), ∃ (errors : Nat), 
    l < 96 ∧ (((getLane s l).scanning = false ∨ s.now < (getLane s l).scanAt + scanTime s l)) :=
  ⟨State.reset, 3, 5, ⟨by decide, .inl (by decide)⟩⟩

theorem meets_Lanes_14 : ∃ (s : State), ∃ (l : Nat), ∃ (rx : List Bool), 
    l < 96 :=
  ⟨regSet State.reset (oLan 3 0x10) 2, 3, [true], by decide⟩

theorem meets_Lanes_15 : ∃ (s : State), ∃ (l : Nat), ∃ (rx : List Bool), 
    l < 96 :=
  ⟨State.reset, 3, [true], by decide⟩

theorem meets_ThermalAndFaults_1 : ∃ (s : State), ∃ (readings : List Int), 
    readings.length = 186 ∧ s.pwr.dstate ≠ 4 :=
  ⟨State.reset, List.replicate 186 100, by decide⟩

theorem meets_ThermalAndFaults_2 : ∃ (s : State), ∃ (readings : List Int), 
    readings.length = 186 ∧ s.pwr.dstate = 4 :=
  ⟨{ State.reset with pwr := { State.reset.pwr with dstate := 4 } }, List.replicate 186 100, by decide⟩

theorem meets_ThermalAndFaults_3 : ∃ (s : State), ∃ (m : Nat), ∃ (t : Nat), 
    m < 32 ∧ 0 < (getMill s m).floor ∧ (getMill s m).coolSince = some t ∧ t + 10000000 ≤ s.now :=
  ⟨{ modMill State.reset 0 (fun x => { x with floor := 2, coolSince := some 0 }) with now := 10000000 }, 0, 0, by decide⟩

theorem meets_ThermalAndFaults_4 : ∃ (s : State), ∃ (f : Nat), ∃ (t : Nat), 
    f < 32 ∧ 0 < (getFlume s f).floor ∧ (getFlume s f).coolSince = some t ∧ t + 10000000 ≤ s.now :=
  ⟨{ modFlume State.reset 0 (fun x => { x with floor := 2, coolSince := some 0 }) with now := 10000000 }, 0, 0, by decide⟩

theorem meets_ThermalAndFaults_5 : ∃ (s : State), ∃ (m : Nat), 
    m < 32 ∧ (((getMill s m).floor = 0 ∨ ∀ t, (getMill s m).coolSince = some t → s.now < t + 10000000)) :=
  ⟨State.reset, 3, ⟨by decide, .inl (by decide)⟩⟩

theorem meets_ThermalAndFaults_6 : ∃ (s : State), ∃ (f : Nat), 
    f < 32 ∧ (((getFlume s f).floor = 0 ∨ ∀ t, (getFlume s f).coolSince = some t → s.now < t + 10000000)) :=
  ⟨State.reset, 3, ⟨by decide, .inl (by decide)⟩⟩

theorem meets_ThermalAndFaults_7 : ∃ (s : State), ∃ (src : Nat), 
    src < 184 :=
  ⟨State.reset, 3, by decide⟩

theorem meets_ThermalAndFaults_8 : ∃ (s : State), ∃ (power : Nat), ∃ (tin : Int), ∃ (tout : Int), 
    bitOf (regGet s (oThm 0)).toNat 0 = true ∧ trimDefault s = false :=
  ⟨regSet State.reset (oThm 0) 1, 0, 100, 120, by decide⟩

theorem meets_ThermalAndFaults_9 : ∃ (s : State), ∃ (power : Nat), ∃ (tin : Int), ∃ (tout : Int), 
    bitOf (regGet s (oThm 0)).toNat 0 = false :=
  ⟨regSet State.reset (oThm 0) 0, 0, 100, 120, by decide⟩

theorem meets_ThermalAndFaults_10 : ∃ (s : State), ∃ (power : Nat), ∃ (tin : Int), ∃ (tout : Int), 
    bitOf (regGet s (oThm 0)).toNat 0 = true ∧ trimDefault s = true :=
  ⟨regSet { State.reset with fuses := { State.reset.fuses with failed := [3] } } (oThm 0) 1, 0, 100, 120, by decide⟩

theorem meets_ThermalAndFaults_11 : ∃ (s : State), ∃ (g : Nat), ∃ (i : Nat), ∃ (sev : Nat), ∃ (unit : Nat), ∃ (detail : Nat), 
    g < 64 ∧ i < 16 ∧ sev < 4 :=
  ⟨State.reset, 5, 1, 1, 0, 0, by decide⟩

theorem meets_ThermalAndFaults_12 : ∃ (s : State), ∃ (g : Nat), ∃ (sev : Nat), ∃ (unit : Nat), ∃ (detail : Nat), ∃ (line : LineChange), ∃ (e : TlpError), 
    16 ≤ g ∧ g < 20 ∧ sev < 4 :=
  ⟨State.reset, 17, 1, 0, 0, .pulse, .malformed, by decide⟩

theorem meets_ThermalAndFaults_14 : ∃ (s : State), ∃ (g : Nat), ∃ (i : Nat), ∃ (e : Nat), 
    g < 64 ∧ i < 16 ∧ (getSource s (srcKey g i)).windowEnd = some e ∧ e ≤ ticks s :=
  ⟨modSource State.reset (srcKey 5 1) (fun x => { x with windowEnd := some 0 }), 5, 1, 0, by decide⟩

theorem meets_ThermalAndFaults_15 : ∃ (s : State), ∃ (g : Nat), ∃ (i : Nat), 
    g < 64 ∧ i < 16 ∧ ((∀ e, (getSource s (srcKey g i)).windowEnd = some e → ticks s < e)) :=
  ⟨State.reset, 5, 1, ⟨by decide, by decide, fun _ h => absurd h (by rw [show (getSource State.reset (srcKey 5 1)).windowEnd = none from rfl]; exact fun h => nomatch h)⟩⟩

theorem meets_ThermalAndFaults_16 : ∃ (s : State), ∃ (bad : List Nat), 
    (bad.filter fun k => k != 0 && decide (k < 1024)) ≠ [] :=
  ⟨State.reset, [5], by decide⟩

theorem meets_ThermalAndFaults_17 : ∃ (s : State), ∃ (bad : List Nat), 
    (bad.filter fun k => k != 0 && decide (k < 1024)) = [] :=
  ⟨State.reset, [], by decide⟩

theorem meets_ThermalAndFaults_18 : ∃ (s : State), ∃ (path : Nat), ∃ (v : Word), 
    path < 5 ∧ pathOpen s path = true :=
  ⟨hostState, 0, 5, by decide⟩

theorem meets_ThermalAndFaults_19 : ∃ (s : State), ∃ (path : Nat), ∃ (v : Word), 
    path < 5 ∧ pathOpen s path = false :=
  ⟨State.reset, 0, 5, by decide⟩

theorem meets_PoisonMajority_3 : ∃ (s : State), ∃ (f : Nat), ∃ (line : Nat), ∃ (dpaLine : Nat), ∃ (region : Nat), ∃ (d : Decoded), 
    d.bad = false ∧ ((bitOf d.md 0 ≠ bitOf d.md 3 ∨ bitOf d.md 0 ≠ bitOf d.md 6)) :=
  ⟨State.reset, 0, 0, 0, 0, ⟨0, 1, 0, 0, false⟩, ⟨by decide, .inl (by decide)⟩⟩

theorem meets_DoorbellDropped_1 : ∃ (s : State), ∃ (path : Nat), ∃ (n : Nat), ∃ (v : Word), 
    path < 5 ∧ n < 256 ∧ pathOpen s path = true ∧ (((getPair s n).state ≠ 1 ∨ path ≠ pairHead n)) :=
  ⟨hostState, 0, 1, 3, ⟨by decide, by decide, by decide, .inl (by decide)⟩⟩

theorem meets_DoorbellDropped_2 : ∃ (s : State), ∃ (path : Nat), ∃ (n : Nat), ∃ (v : Word), 
    path < 5 ∧ n < 256 ∧ pathOpen s path = true ∧ (getPair s n).state = 1 ∧ path = pairHead n :=
  ⟨ringState, 0, 1, 3, by decide⟩

theorem meets_RegisterAccesses_1 : ∃ (s : State), ∃ (path : Nat), ∃ (off : Nat), ∃ (kind : Nat), ∃ (data : List Byte), ∃ (env : StartEnv), 
    path < 5 ∧ pathOpen s path = true ∧ data.isEmpty = false ∧ writeShape off data.length = some kind :=
  ⟨hostState, 0, 2, 1, [0], startEnv, by decide⟩

theorem meets_RegisterAccesses_2 : ∃ (s : State), ∃ (path : Nat), ∃ (off : Nat), ∃ (port : Nat), ∃ (i : Nat), ∃ (b : Blk), ∃ (data : List Byte), ∃ (env : StartEnv), 
    path < 5 ∧ pathOpen s path = true ∧ data.isEmpty = false ∧ writeShape off data.length = none ∧ blkAt off = some (b, i) ∧ busyOf b i = some port ∧ busy s port = false ∧ portAwake s port = true ∧ b ≠ .glb :=
  ⟨hostState, 0, 0x400000, 64, 0, .mil 0, [1, 0, 0, 0], startEnv, by decide⟩

theorem meets_RegisterAccesses_3 : ∃ (s : State), ∃ (path : Nat), ∃ (off : Nat), ∃ (port : Nat), ∃ (i : Nat), ∃ (b : Blk), ∃ (data : List Byte), ∃ (env : StartEnv), 
    path < 5 ∧ pathOpen s path = true ∧ data.isEmpty = false ∧ writeShape off data.length = none ∧ blkAt off = some (b, i) ∧ busyOf b i = some port ∧ busy s port = true ∧ b ≠ .glb :=
  ⟨{ hostState with acc := { hostState.acc with posted := [(64, some ⟨0, 0x400000, [1]⟩)] } }, 0, 0x400000, 64, 0, .mil 0, [1, 0, 0, 0], startEnv, by decide⟩

theorem meets_RegisterAccesses_4 : ∃ (s : State), ∃ (path : Nat), ∃ (off : Nat), ∃ (port : Nat), ∃ (i : Nat), ∃ (b : Blk), ∃ (data : List Byte), ∃ (env : StartEnv), 
    path < 5 ∧ pathOpen s path = true ∧ data.isEmpty = false ∧ writeShape off data.length = none ∧ blkAt off = some (b, i) ∧ busyOf b i = some port ∧ busy s port = false ∧ portAwake s port = false ∧ b ≠ .glb :=
  ⟨modFlume hostState 0 (fun x => { x with pstate := 2 }), 0, 0x200000, 0, 0, .flm 0, [1, 0, 0, 0], startEnv, by decide⟩

theorem meets_RegisterAccesses_5 : ∃ (s : State), ∃ (path : Nat), ∃ (off : Nat), ∃ (i : Nat), ∃ (b : Blk), ∃ (data : List Byte), ∃ (env : StartEnv), 
    path < 5 ∧ pathOpen s path = true ∧ data.isEmpty = false ∧ writeShape off data.length = none ∧ blkAt off = some (b, i) ∧ busyOf b i = none ∧ b ≠ .glb :=
  ⟨hostState, 0, 0x80000, 0, .grd, [1, 0, 0, 0], startEnv, by decide⟩

theorem meets_RegisterAccesses_6 : ∃ (s : State), ∃ (block : Nat), ∃ (loop : LoopRes), ∃ (p : Posted), 
    block < 204 ∧ tabGet none s.acc.posted block = some p ∧ portAwake s block = true :=
  ⟨{ hostState with acc := { hostState.acc with posted := [(64, some ⟨0, 0x400000, [1]⟩)] } }, 64, ⟨[], []⟩, ⟨0, 0x400000, [1]⟩, by decide⟩

theorem meets_RegisterAccesses_7 : ∃ (s : State), ∃ (block : Nat), ∃ (loop : LoopRes), 
    block < 204 ∧ ((tabGet none s.acc.posted block = none ∨ portAwake s block = false)) :=
  ⟨State.reset, 64, ⟨[], []⟩, ⟨by decide, .inl (by decide)⟩⟩

theorem meets_RegisterAccesses_8 : ∃ (s : State), ∃ (path : Nat), ∃ (off : Nat), ∃ (i : Nat), ∃ (v : Word), ∃ (b : Blk), ∃ (r : RegRow), 
    path < 5 ∧ blkAt off = some (b, i) ∧ rowAt b i = some r ∧ r.acc = .sc ∧ busyOf b i = none ∧ pathOpen s path = true :=
  ⟨hostState, 0, 0x80018, 0x18, 0, .grd, (rowAt .grd 0x18).get (by decide), by decide⟩

theorem meets_RegisterAccesses_9 : ∃ (s : State), ∃ (off : Nat), ∃ (clr : Nat), ∃ (v : Word), 
    s.wf ∧ v.toNat / 2 ^ 24 = (regGet s off).toNat / 2 ^ 24 :=
  ⟨State.reset, 0x80018, 3, 0, reset_wf, by decide⟩

theorem meets_RegisterAccesses_10 : ∃ (s : State), ∃ (off : Nat), ∃ (clr : Nat), ∃ (v : Word), 
    v.toNat / 2 ^ 24 ≠ (regGet s off).toNat / 2 ^ 24 :=
  ⟨State.reset, 0x80018, 3, 0x1000000, by decide⟩

theorem meets_RegisterAccesses_11 : ∃ (s : State), ∃ (off : Nat), ∃ (f : Nat → Nat), 
    s.wf :=
  ⟨State.reset, 0x80018, id, reset_wf⟩

theorem meets_RegisterAccesses_12 : ∃ (s : State), ∃ (path : Nat), ∃ (off : Nat), ∃ (i : Nat), ∃ (port : Nat), ∃ (b : Blk), 
    path < 5 ∧ blkAt off = some (b, i) ∧ busyOf b i = some port ∧ readOpen s path off = true :=
  ⟨hostState, 0, 0x400000, 0, 64, .mil 0, by decide⟩

theorem meets_RegisterAccesses_13 : ∃ (s : State), ∃ (path : Nat), ∃ (v : Word), 
    path < 5 ∧ pathOpen s path = true :=
  ⟨hostState, 0, 0x40000002, by decide⟩

theorem meets_RegisterAccesses_14 : ∃ (s : State), ∃ (path : Nat), ∃ (n : Nat), ∃ (tallyOk : Bool), 
    path < 5 ∧ (mailboxOf s path).busy = true ∧ captureOf s (mailboxOf s path).sel tallyOk = .value n :=
  ⟨boxState, 0, 0, true, by decide⟩

theorem meets_RegisterAccesses_15 : ∃ (s : State), ∃ (path : Nat), ∃ (tallyOk : Bool), 
    path < 5 ∧ (mailboxOf s path).busy = true ∧ captureOf s (mailboxOf s path).sel tallyOk = .badSelector :=
  ⟨{ hostState with acc := { hostState.acc with mailboxes := [(0, { mailboxInit with busy := true, sel := 0x01010000 })] } }, 0, true, by decide⟩

theorem meets_RegisterAccesses_16 : ∃ (s : State), ∃ (path : Nat), ∃ (tallyOk : Bool), 
    path < 5 ∧ (mailboxOf s path).busy = true ∧ captureOf s (mailboxOf s path).sel tallyOk = .badCopy :=
  ⟨{ hostState with acc := { hostState.acc with mailboxes := [(0, { mailboxInit with busy := true, sel := 0x41000000 })] } }, 0, false, by decide⟩

theorem meets_RegisterAccesses_17 : ∃ (s : State), ∃ (path : Nat), ∃ (tallyOk : Bool), 
    path < 5 ∧ (mailboxOf s path).busy = false :=
  ⟨State.reset, 0, true, by decide⟩

theorem meets_ConfigGuard_1 : ∃ (s : State), ∃ (path : Nat), ∃ (v : Word), 
    path < 5 ∧ pathOpen s path = true :=
  ⟨hostState, 0, 1, by decide⟩

theorem meets_ConfigGuard_2 : ∃ (s : State), ∃ (path : Nat), 
    path < 5 ∧ pathOpen s path = true ∧ s.acc.hold.contains path = true ∧ s.acc.committing = false :=
  ⟨{ hostState with acc := { hostState.acc with hold := [0] } }, 0, by decide⟩

theorem meets_ConfigGuard_3 : ∃ (s : State), ∃ (path : Nat), 
    path < 5 ∧ pathOpen s path = true ∧ s.acc.hold.contains path = false :=
  ⟨hostState, 0, by decide⟩

theorem meets_ConfigGuard_4 : ∃ (s : State), ∃ (path : Nat), 
    path < 5 ∧ pathOpen s path = true ∧ s.acc.hold.contains path = true ∧ s.acc.committing = true :=
  ⟨{ hostState with acc := { hostState.acc with hold := [0], committing := true } }, 0, by decide⟩

theorem meets_ConfigGuard_5 : ∃ (s : State), ∃ (path : Nat), ∃ (v : Word), 
    path < 5 ∧ pathOpen s path = false :=
  ⟨State.reset, 0, 1, by decide⟩

theorem meets_ConfigGuard_6 : ∃ (s : State), 
    s.acc.committing = true :=
  ⟨{ State.reset with acc := { State.reset.acc with committing := true } }, by decide⟩

theorem meets_ConfigGuard_7 : ∃ (s : State), 
    s.acc.committing = false :=
  ⟨State.reset, by decide⟩

theorem meets_ConfigGuard_8 : ∃ (s : State), 
    guardRuns s = true :=
  ⟨hostState, by decide⟩

theorem meets_ConfigGuard_10 : ∃ (s : State), 
    guardRuns s = false :=
  ⟨State.reset, by decide⟩

theorem meets_ConfigGuard_11 : ∃ (s : State), 
    s.acc.hold.isEmpty = false ∧ max 1 (regField s (oGrd 0x14) 15 0) * 1000000 < s.now - s.acc.heldSince :=
  ⟨{ State.reset with acc := { State.reset.acc with hold := [0] }, now := 10 ^ 12 }, by decide⟩

theorem meets_ConfigGuard_12 : ∃ (s : State), 
    ((s.acc.hold.isEmpty = true ∨ s.now - s.acc.heldSince ≤ max 1 (regField s (oGrd 0x14) 15 0) * 1000000)) :=
  ⟨State.reset, .inl (by decide)⟩

theorem meets_Sideband_1 : ∃ (s : State), ∃ (target : Nat), ∃ (addr : Nat), 
    target < 2 ∧ addr < 128 ∧ sidebandUp s = true ∧ addressed s target = false :=
  ⟨hostState, 0, 8, by decide⟩

theorem meets_Sideband_2 : ∃ (s : State), ∃ (target : Nat), 
    target < 2 ∧ sidebandUp s = true ∧ addressed s target = false :=
  ⟨hostState, 0, by decide⟩

theorem meets_Sideband_3 : ∃ (s : State), ∃ (target : Nat), ∃ (addr : Nat), 
    target < 2 ∧ addr < 128 ∧ ((sidebandUp s = false ∨ addressed s target = true)) :=
  ⟨State.reset, 0, 8, ⟨by decide, by decide, .inl (by decide)⟩⟩

theorem meets_Sideband_5 : ∃ (s : State), ∃ (off : Nat), ∃ (words : Nat), ∃ (data : List Byte), ∃ (env : StartEnv), 
    sidebandUp s = true ∧ addressed s 0 = true ∧ frameOf data = some (off, words) ∧ fieldLe data 0 1 = 1 :=
  ⟨sideState, 0x80000, 1, [1, 0, 0, 8, 0, 1, 1, 0, 0, 0], startEnv, by decide⟩

theorem meets_Sideband_6 : ∃ (s : State), ∃ (off : Nat), ∃ (words : Nat), ∃ (data : List Byte), 
    sidebandUp s = true ∧ addressed s 0 = true ∧ frameOf data = some (off, words) ∧ fieldLe data 0 1 ≠ 1 :=
  ⟨sideState, 0x80000, 1, [2, 0, 0, 8, 0, 1], by decide⟩

theorem meets_Sideband_7 : ∃ (s : State), ∃ (words : Nat), ∃ (st : Nat), ∃ (data : List Byte), 
    sidebandUp s = true ∧ addressed s 0 = true ∧ s.side.setup = some (st, data) :=
  ⟨{ sideState with side := { sideState.side with setup := some (0, [1, 2, 3, 4]) } }, 1, 0, [1, 2, 3, 4], by decide⟩

theorem meets_Sideband_8 : ∃ (s : State), ∃ (data : List Byte), ∃ (env : StartEnv), 
    sidebandUp s = true ∧ addressed s 0 = true ∧ frameOf data = none :=
  ⟨sideState, [3], startEnv, by decide⟩

theorem meets_Sideband_9 : ∃ (s : State), ∃ (off : Nat), ∃ (words : Nat), ∃ (data : List Byte), ∃ (env : StartEnv), 
    sidebandUp s = true ∧ addressed s 0 = true ∧ frameOf data = some (off, words) ∧ fieldLe data 0 1 ≠ 1 :=
  ⟨sideState, 0x80000, 1, [2, 0, 0, 8, 0, 1], startEnv, by decide⟩

theorem meets_Sideband_10 : ∃ (s : State), ∃ (words : Nat), 
    sidebandUp s = true ∧ addressed s 0 = true ∧ s.side.setup = none :=
  ⟨sideState, 1, by decide⟩

theorem meets_Sideband_11 : ∃ (s : State), ∃ (words : Nat), ∃ (data : List Byte), ∃ (env : StartEnv), 
    ((sidebandUp s = false ∨ addressed s 0 = false)) :=
  ⟨State.reset, 1, [], startEnv, .inl (by decide)⟩

theorem meets_Responders_1 : ∃ (s : State), ∃ (r : Nat), ∃ (slot : Nat), ∃ (off : Nat), ∃ (len : Nat), ∃ (op : Nat), ∃ (offers : Bool), ∃ (signed : Bool), ∃ (nonce : BitVec 256), 
    r < 5 ∧ canAsk s r = true :=
  ⟨hostState, 0, 0, 0, 16, 1, true, false, 0, by decide⟩

theorem meets_Responders_2 : ∃ (s : State), ∃ (slot : Nat), ∃ (off : Nat), ∃ (len : Nat), ∃ (op : Nat), ∃ (offers : Bool), ∃ (signed : Bool), ∃ (nonce : BitVec 256), 
    addressed s 1 = true ∧ 4 ≤ s.boot.step :=
  ⟨{ hostState with side := ⟨[(1, 9)], none⟩ }, 0, 0, 16, 1, true, false, 0, by decide⟩

theorem meets_Responders_3 : ∃ (s : State), ∃ (r : Nat), ∃ (slot : Nat), ∃ (off : Nat), ∃ (len : Nat), ∃ (op : Nat), ∃ (offers : Bool), ∃ (signed : Bool), ∃ (nonce : BitVec 256), 
    r < 5 ∧ canAsk s r = false :=
  ⟨State.reset, 0, 0, 0, 16, 1, true, false, 0, by decide⟩

theorem meets_Responders_4 : ∃ (s : State), ∃ (msg : SpdmReq), 
    canAsk s 4 = false :=
  ⟨State.reset, .version, by decide⟩

theorem meets_Responders_5 : ∃ (s : State), ∃ (h : Nat), ∃ (entry : Nat), 
    h < 4 ∧ (getHead s h).linkUp = true :=
  ⟨hostState, 0, 0, by decide⟩

theorem meets_Responders_6 : ∃ (s : State), ∃ (h : Nat), ∃ (opcode : Nat), 
    h < 4 ∧ (getHead s h).linkUp = true ∧ (getHead s h).cxl = true ∧ (getHead s h).d3hot = false :=
  ⟨hostState, 0, 0x100, by decide⟩

theorem meets_Responders_7 : ∃ (s : State), ∃ (h : Nat), ∃ (off : Nat), ∃ (len : Nat), ∃ (log : Nat), 
    h < 4 ∧ (getHead s h).linkUp = true ∧ (getHead s h).cxl = true ∧ (getHead s h).d3hot = false ∧ off + len ≤ celBytes.length ∧ log < 4 :=
  ⟨hostState, 0, 0, 1, 0, by decide⟩

theorem meets_Responders_8 : ∃ (s : State), ∃ (h : Nat), ∃ (log : Nat), ∃ (handles : List Nat), 
    h < 4 ∧ (getHead s h).linkUp = true ∧ (getHead s h).cxl = true ∧ (getHead s h).d3hot = false ∧ log < 4 ∧ (handles.all (((getHead s h).events.filter fun e => logOf e == log).map EventRec.handle).contains) = true :=
  ⟨hostState, 0, 0, [], by decide⟩

theorem meets_Responders_9 : ∃ (s : State), ∃ (h : Nat), ∃ (off : Nat), ∃ (len : Nat), ∃ (log : Nat), ∃ (handles : List Nat), 
    h < 4 ∧ (getHead s h).linkUp = true ∧ (getHead s h).cxl = true ∧ (getHead s h).d3hot = false ∧ celBytes.length < off + len ∧ 4 ≤ log :=
  ⟨hostState, 0, 0, 100000, 4, [], by decide⟩

theorem meets_Responders_10 : ∃ (s : State), ∃ (h : Nat), ∃ (log : Nat), ∃ (handles : List Nat), 
    h < 4 ∧ (getHead s h).linkUp = true ∧ (getHead s h).cxl = true ∧ (getHead s h).d3hot = false ∧ log < 4 ∧ (handles.all (((getHead s h).events.filter fun e => logOf e == log).map EventRec.handle).contains) = false :=
  ⟨hostState, 0, 0, [7], by decide⟩

theorem meets_Responders_11 : ∃ (s : State), ∃ (h : Nat), ∃ (pol : Word), ∃ (ts : BitVec 64), 
    h < 4 ∧ (getHead s h).linkUp = true ∧ (getHead s h).cxl = true ∧ (getHead s h).d3hot = false :=
  ⟨hostState, 0, 3, 7, by decide⟩

theorem meets_Responders_12 : ∃ (s : State), ∃ (h : Nat), ∃ (opcode : Nat), ∃ (off : Nat), ∃ (len : Nat), ∃ (log : Nat), ∃ (handles : List Nat), ∃ (pol : Word), ∃ (ts : BitVec 64), 
    h < 4 ∧ ((getHead s h).linkUp && (getHead s h).cxl && !(getHead s h).d3hot) = false :=
  ⟨State.reset, 0, 0x100, 0, 1, 0, [], 3, 7, by decide⟩

theorem meets_Responders_13 : ∃ (s : State), ∃ (h : Nat), ∃ (index : Nat), ∃ (entry : Nat), 
    h < 4 ∧ (getHead s h).linkUp = false :=
  ⟨State.reset, 0, 0, 0, by decide⟩
end

section
/-! SUPPORT. What running a command on elements that exist answers. -/

namespace Sys2Proof.Machine

theorem onElement_of_ok {ok : Bool} (k : Answer) (e : ok = true) : onElement ok k = k := if_pos e

theorem okHead_of_lt {h : Nat} (hh : h < 4) : okHead h = true := decide_eq_true hh

theorem okF_of_lt {f : Nat} (hf : f < 32) : okF f = true := decide_eq_true hf

theorem okPath_of_lt {path : Nat} (hp : path < 5) : okPath path = true := decide_eq_true hp

theorem okSub_of_lt {f sc : Nat} (hf : f < 32) (hs : sc < 4) : okSub f sc = true := by simp [okSub, hf, hs]

theorem okBank_of_lt {f sc tier bank : Nat} (hf : f < 32) (hs : sc < 4) (ht : tier < 17) (hb : bank < 16) :
    okBank f sc tier bank = true := by
  simp [okBank, okBay, okSub_of_lt hf hs, ht, hb]

/-- On an open path, a block that is neither busy nor below Run takes a write in its own step (R389, R436). -/
theorem writeNow_takes {s : State} {path off port v : Nat} {take : State → State} (hp : pathOpen s path = true)
    (hb : busy s port = false) (ha : portAwake s port = true) : writeNow s path off port v take = take s := by
  simp [writeNow, hp, hb, ha]

/-- Ranges whose flumes are open and of which no line waits for a scrub are acted on at once. -/
theorem whenOpen_acts {s : State} {rs : List Range} {act : State → State}
    (hopen : ((rangeFlumes s rs).filter fun f => !flumeOpen s f) = []) (hscrub : rangeScrubbed s rs = false) :
    whenOpen s rs act = .next (act s) := by
  simp [whenOpen, hopen, hscrub]

end Sys2Proof.Machine
end

section
/-! The outcomes of an HDM decoder commit (R24, R216): one lemma per branch of the command. -/

namespace Sys2Proof.Machine

variable {s : State} {h i base size ways gran skip : Nat} {lock : Bool}

/-- The command on a head and a decoder that exist: a committed decoder that is locked, asked to commit again or below a committed one
stays; else it is released or committed. -/
theorem exec_hdmDecoderCommit {commit : Bool} (hh : h < 4) (hi : i < 8) :
    exec (.hdmDecoderCommit h i base size ways gran skip lock commit) s =
      if (tabGet decoderInit (getHead s h).decoders i).committed && ((tabGet decoderInit (getHead s h).decoders i).lock || commit ||
          (tabGet decoderInit (getHead s h).decoders (i + 1)).committed) then .next s
      else .next (modHead s h fun x => { x with
        decoders := tabSet decoderInit x.decoders i
          (if !commit then { tabGet decoderInit (getHead s h).decoders i with committed := false, failed := false }
           else if commitOk (getHead s h) i base size ways gran skip
             then ⟨base, size, ways, gran, skip, decoderEnd (getHead s h) i + skip, true, lock, false⟩
             else ⟨base, size, ways, gran, skip, 0, false, lock, true⟩) }) := by
  refine (onElement_of_ok _ (by simp [okHead_of_lt hh, hi])).trans ?_
  cases commit <;> rfl

/-- Settles O9: each clause is one branch of the command. -/
theorem hdmCommit : Obligations.HdmCommit := by
  refine ⟨fun s h i base size ways gran skip lock hh hi hold => ⟨?_, ?_⟩,
    fun s h i base size ways gran skip lock hh hi hlock hnext => ?_,
    fun s h i base size ways gran skip lock commit hh hi hold hstay => ?_⟩ <;> rw [exec_hdmDecoderCommit hh hi]
  · rw [hold]; rfl
  · rw [hold]; rfl
  · simp [hlock, hnext]
  · rcases hstay with hlock | hcommit
    · simp [hold, hlock]
    · simp [hold, hcommit]

end Sys2Proof.Machine
end

section
/-! Host requests that resolve (R23 to R25, R218, R221, R222): what their arrival leaves as it was, where they are routed, and where they
wait. A read arrives as a write without poison does: `notePoison s h false` is `s`. -/

namespace Sys2Proof.Machine

variable {s t : State} {h hpa dpa i : Nat} {poison : Bool}

/-! What resolving an address looks at. -/

theorem dpaOfHpa_congr {x y : Head} (e : y.decoders = x.decoders) : dpaOfHpa y hpa = dpaOfHpa x hpa := by
  rw [dpaOfHpa, e]; rfl

theorem regionWord_congr (e : t.regions = s.regions) : regionWord t i = regionWord s i := by
  rw [regionWord, e]; rfl

theorem regionAt_congr (e : t.regions = s.regions) (eb : t.badRegions = s.badRegions) : regionAt t dpa = regionAt s dpa := by
  unfold regionAt regionLive
  simp only [regionWord_congr e, eb]

theorem regionLive_of_regionAt (hr : regionAt s dpa = some i) : regionLive s i = true := by
  have hfound := List.find?_some hr
  exact (Bool.and_eq_true_iff.1 hfound).1

/-- An address that a committed decoder and a live entry open to the head resolve goes to that entry (R25, R34, R267). -/
theorem route_of_resolved {write : Bool} (hd : dpaOfHpa (getHead s h) hpa = some dpa) (hr : regionAt s dpa = some i)
    (hh : bitOf (rgHeads (regionWord s i)) h = true)
    (hw : write = true → (rgMode (regionWord s i) != 0 && rgSecondary (regionWord s i)) = false) :
    route s h hpa write .clean = (.to i dpa, s) := by
  have hsec : (write && rgMode (regionWord s i) != 0 && rgSecondary (regionWord s i)) = false := by
    cases write with
    | false => rfl
    | true => simpa using hw rfl
  simp [route, hd, hr, regionCheck, regionLive_of_regionAt hr, hh, hsec]

/-! The arrival of a request. -/

theorem arrival_within (s : State) (h : Nat) (poison : Bool) : Within (2 ^ 11 + 2 ^ 28) s (notePoison (memArrives s h) h poison) :=
  notePoison_within (by decide) _ _ _ (memArrives_within (by decide) _ _ (.refl _ _))

theorem arrival_regions : (notePoison (memArrives s h) h poison).regions = s.regions := (arrival_within s h poison).regions (by decide)

theorem arrival_badRegions : (notePoison (memArrives s h) h poison).badRegions = s.badRegions :=
  (arrival_within s h poison).badRegions (by decide)

theorem arrival_safe : (notePoison (memArrives s h) h poison).flt.safe = s.flt.safe := by
  rw [(arrival_within s h poison).flt (by decide)]

theorem getHead_wakeDevice (s : State) (h : Nat) : getHead (wakeDevice s) h = getHead s h := by
  unfold wakeDevice
  split <;> rfl

theorem memArrives_decoders (w : s.wf) : (getHead (memArrives s h) h).decoders = (getHead s h).decoders := by
  rw [memArrives, getHead_wakeDevice, lapseHint, getHead_modHead_self s h _ w.heads]

theorem arrival_decoders (w : s.wf) : (getHead (notePoison (memArrives s h) h poison) h).decoders = (getHead s h).decoders := by
  have warr : (memArrives s h).wf := ((memArrives_keeps s h (.refl s)).wf w).1
  cases poison with
  | false => exact memArrives_decoders w
  | true =>
    have hp : notePoison (memArrives s h) h true = modHead (memArrives s h) h fun x => { x with rasCor := x.rasCor ||| 0x20 } := rfl
    rw [hp, getHead_modHead_self _ _ _ warr.heads]
    exact memArrives_decoders w

/-- Arrival changes nothing that resolving an address looks at. -/
theorem route_arrival {write : Bool} (w : s.wf) (hd : dpaOfHpa (getHead s h) hpa = some dpa) (hr : regionAt s dpa = some i)
    (hh : bitOf (rgHeads (regionWord s i)) h = true)
    (hw : write = true → (rgMode (regionWord s i) != 0 && rgSecondary (regionWord s i)) = false) :
    route (notePoison (memArrives s h) h poison) h hpa write .clean = (.to i dpa, notePoison (memArrives s h) h poison) := by
  have hword : regionWord (notePoison (memArrives s h) h poison) i = regionWord s i := regionWord_congr arrival_regions
  apply route_of_resolved
  · exact (dpaOfHpa_congr (arrival_decoders w)).trans hd
  · exact (regionAt_congr arrival_regions arrival_badRegions).trans hr
  · rw [hword]; exact hh
  · rw [hword]; exact hw

/-! Where it waits. -/

/-- A read that resolves takes a request credit and waits as class 1 on its head's port at the flume and line of its entry. -/
theorem hostRead_waits {tag : Nat} {meta0 : Bool} (w : s.wf) (hm : mayRead (getHead s h) = true) (hsafe : s.flt.safe = false)
    (hd : dpaOfHpa (getHead s h) hpa = some dpa) (hr : regionAt s dpa = some i) (hh : bitOf (rgHeads (regionWord s i)) h = true) :
    hostRead s h tag hpa meta0 .clean = ingress (takeCredit (memArrives s h) h false) (lineOf (regionWord s i) dpa).1
      { reqInit with port := h, cls := 1, line := (lineOf (regionWord s i) dpa).2, dest := .host h tag meta0, dpaLine := dpa / 64,
                     region := i, entry := regionWord s i } := by
  have hroute : route (memArrives s h) h hpa false .clean = (.to i dpa, memArrives s h) :=
    route_arrival (poison := false) w hd hr hh nofun
  have hsafe' : (memArrives s h).flt.safe = false := (arrival_safe (poison := false)).trans hsafe
  have hword : regionWord (memArrives s h) i = regionWord s i := regionWord_congr (arrival_regions (poison := false))
  simp [hostRead, hm, hsafe', hroute, hword]

/-- A write that resolves takes a credit with data and waits as class 1 on its head's port at the flume and line of its entry; one with
every byte enabled waits as a full line write (R98). -/
theorem hostWrite_waits {tag : Nat} {data : Line} {mask : BitVec 64} {md : Option (BitVec 2)} (w : s.wf)
    (hm : mayWrite (getHead s h) = true) (hsafe : s.flt.safe = false) (hd : dpaOfHpa (getHead s h) hpa = some dpa)
    (hr : regionAt s dpa = some i) (hh : bitOf (rgHeads (regionWord s i)) h = true)
    (hsec : (rgMode (regionWord s i) != 0 && rgSecondary (regionWord s i)) = false) :
    hostWrite s h tag hpa data mask poison md .clean =
      ingress (takeCredit (notePoison (memArrives s h) h poison) h true) (lineOf (regionWord s i) dpa).1
        { reqInit with port := h, cls := 1, line := (lineOf (regionWord s i) dpa).2, dest := .host h tag false, dpaLine := dpa / 64,
                       region := i, kind := if mask = BitVec.allOnes 64 then .write else .partialWrite, data := data, mask := mask,
                       poison := poison, md := md, entry := regionWord s i } := by
  have hroute := route_arrival (poison := poison) (write := true) w hd hr hh fun _ => hsec
  have hsafe' := (arrival_safe (h := h) (poison := poison)).trans hsafe
  have hword : regionWord (notePoison (memArrives s h) h poison) i = regionWord s i := regionWord_congr arrival_regions
  simp [hostWrite, hm, hsafe', hroute, hword]

/-- No byte of the DRAM array changes as a request arrives and joins a flume. -/
theorem arrival_ingress_mem (s : State) (h f : Nat) (poison write : Bool) (r : Req) :
    (ingress (takeCredit (notePoison (memArrives s h) h poison) h write) f r).mem = s.mem := by
  have hw : Within (2 ^ 5 + 2 ^ 11 + 2 ^ 28) s (ingress (takeCredit (notePoison (memArrives s h) h poison) h write) f r) :=
    ingress_within (by decide) _ _ _ (takeCredit_within (by decide) _ _ _ (notePoison_within (by decide) _ _ _
      (memArrives_within (by decide) _ _ (.refl _ _))))
  exact hw.mem (by decide)

/-! Requests that touch no line. -/

theorem exec_memSpecRd (hh : h < 4) (hm : mayRead (getHead s h) = true) :
    exec (.memSpecRd h hpa) s = .next (passThrough (memArrives s h) h false) := by
  refine (onElement_of_ok _ (okHead_of_lt hh)).trans ?_
  rw [if_pos hm]

theorem exec_memInv {tag : Nat} (hh : h < 4) (hm : mayRead (getHead s h) = true) :
    exec (.memInv h tag hpa) s = .next (respond (passThrough (memArrives s h) h false) h (.ndr tag false)) := by
  refine (onElement_of_ok _ (okHead_of_lt hh)).trans ?_
  rw [if_pos hm, answerWrite]

/-- Settles O10: the forms forwarded to the device run the same body as the plain ones. -/
theorem hostRequestsWait : Obligations.HostRequestsWait := by
  refine ⟨fun s h tag hpa meta0 dpa i w hh hm hsafe hd hr ho => ⟨?_, rfl⟩,
    fun s h tag hpa data poison md dpa i w hh hm hsafe hd hr ho hsec => ⟨?_, rfl⟩,
    fun s h tag hpa data mask poison md dpa i w hh hm hsafe hd hr ho hsec => ?_,
    fun s h f poison write r => ⟨rfl, arrival_ingress_mem s h f poison write r⟩,
    fun s h tag hpa hh hm => ⟨exec_memSpecRd hh hm, exec_memInv hh hm⟩⟩
  · rw [← hostRead_waits w hm hsafe hd hr ho]
    exact onElement_of_ok _ (okHead_of_lt hh)
  · have hfull := hostWrite_waits (tag := tag) (data := data) (mask := BitVec.allOnes 64) (poison := poison) (md := md) w hm hsafe hd hr ho hsec
    rw [if_pos rfl] at hfull
    rw [← hfull]
    exact onElement_of_ok _ (okHead_of_lt hh)
  · rw [← hostWrite_waits w hm hsafe hd hr ho hsec]
    exact onElement_of_ok _ (okHead_of_lt hh)

end Sys2Proof.Machine
end

section
/-! Storing a line (R41, R65, R67, R97): the bytes it changes, and what every place then reads as. -/

namespace Sys2Proof.Machine

variable {s t : State} {p q : Place}

/-! What a place reads as, by the parts of the state it looks at. -/

theorem heldAt_congr (e : t.flumes = s.flumes) : heldAt t p = heldAt s p := by
  unfold heldAt getFlume
  rw [e]

theorem cellsAt_congr {k : Nat} (em : t.mem = s.mem) (el : t.lost = s.lost) : cellsAt t k = cellsAt s k := by
  unfold cellsAt lineBase
  rw [em, el]

theorem storedAt_of_not_held (hp : heldAt s p = none) :
    storedAt s p = ((openWrite s (bankSub p.bank) (lineKey p)).map BitVec.toNat).getD (cellsAt s (lineKey p)) := by
  simp only [storedAt, hp]
  cases openWrite s (bankSub p.bank) (lineKey p) <;> rfl

theorem setStored_of_not_held {v : Nat} (hp : heldAt s p = none) :
    setStored s p v = setCells (overtake s (bankSub p.bank) (lineKey p)) (lineKey p) v := by
  rw [setStored, hp]

/-! Writes on their way that a later store of their line overtakes. -/

theorem overtake_within_subs (s : State) (sub k : Nat) : Within (2 ^ 6) s (overtake s sub k) :=
  overtake_within (by decide) _ _ _ (.refl _ _)

/-- An overtaken command stores nothing if its line is `k`, and else what it stored. -/
theorem store_overtaken (k : Nat) (e : Issued) : (e.overtaken k).store = e.store.filter fun x => x.1 != k := by
  obtain ⟨n, cycle, fails, cmd⟩ := e
  cases cmd with
  | wr b x =>
    cases x with
    | none => rfl
    | some x =>
      by_cases hk : x.1 = k <;> simp [Issued.overtaken, Issued.store, Option.filter, hk]
  | _ => rfl

theorem filterMap_store_overtaken (k : Nat) (l : List Issued) :
    (l.map (·.overtaken k)).filterMap Issued.store = (l.filterMap Issued.store).filter fun x => x.1 != k := by
  induction l with
  | nil => rfl
  | cons e l ih =>
    simp only [List.map_cons, List.filterMap_cons, store_overtaken]
    cases he : e.store with
    | none => simpa using ih
    | some x => by_cases hk : x.1 = k <;> simp [Option.filter, hk, ih]

/-- The commands of a sub-channel whose windows are open, once the writes of line `k` are overtaken. -/
theorem openWrite_modSub_overtaken (w : s.wf) (sub k j : Nat) :
    openWrite (modSub s sub fun u => { u with held := u.held.map (·.overtaken k), retry := u.retry.map (·.overtaken k) }) sub j =
      (((((getSub s sub).held ++ (getSub s sub).retry).reverse.filterMap Issued.store).filter fun x => x.1 != k).find?
        fun x => x.1 == j).map (·.2) := by
  rw [openWrite, getSub_modSub_self s sub _ w.subs, ← List.map_append, ← List.map_reverse, filterMap_store_overtaken]

/-- No write of an overtaken line is on its way. -/
theorem openWrite_overtake_self (w : s.wf) (sub k : Nat) : openWrite (overtake s sub k) sub k = none := by
  unfold overtake
  split
  · next hnone => exact Option.isNone_iff_eq_none.1 hnone
  · rw [openWrite_modSub_overtaken w, List.find?_eq_none.2 fun x hx => ?_, Option.map_none]
    simpa using (List.mem_filter.1 hx).2

/-- The writes of the other lines stay on their way. -/
theorem openWrite_overtake_ne (w : s.wf) (sub u : Nat) {j k : Nat} (hj : j ≠ k) :
    openWrite (overtake s sub k) u j = openWrite s u j := by
  unfold overtake
  split
  · rfl
  · by_cases hu : u = sub
    · subst hu
      have hother : (fun x : Nat × Stored => decide ((x.1 != k) = true ∧ (x.1 == j) = true)) = fun x => x.1 == j := by
        funext x
        by_cases hx : x.1 = j <;> simp [hx, hj]
      rw [openWrite_modSub_overtaken w, List.find?_filter, hother, openWrite]
    · rw [openWrite, getSub_modSub_ne s _ hu, openWrite]

/-! Storing at a place. -/

/-- A place without a holding buffer reads back what was stored at it. -/
theorem storedAt_setStored_self {v : Nat} (w : s.wf) (hp : heldAt s p = none) (hv : v < 2 ^ 640) : storedAt (setStored s p v) p = v := by
  have hwithin := overtake_within_subs s (bankSub p.bank) (lineKey p)
  have hmem : Memory.wf (overtake s (bankSub p.bank) (lineKey p)).mem := by
    rw [hwithin.mem (by decide)]
    exact w.mem
  have hheld : heldAt (setCells (overtake s (bankSub p.bank) (lineKey p)) (lineKey p) v) p = none :=
    (heldAt_congr (hwithin.flumes (by decide))).trans hp
  have hopen : openWrite (setCells (overtake s (bankSub p.bank) (lineKey p)) (lineKey p) v) (bankSub p.bank) (lineKey p) = none :=
    openWrite_overtake_self w _ _
  rw [setStored_of_not_held hp, storedAt_of_not_held hheld, hopen]
  exact cellsAt_setCells_self _ _ _ hmem hv

/-- Another place without a holding buffer reads as before. -/
theorem storedAt_setStored_ne {v : Nat} (w : s.wf) (hp : heldAt s p = none) (hq : heldAt s q = none) (hne : lineKey q ≠ lineKey p) :
    storedAt (setStored s p v) q = storedAt s q := by
  have hwithin := overtake_within_subs s (bankSub p.bank) (lineKey p)
  have hheld : heldAt (setCells (overtake s (bankSub p.bank) (lineKey p)) (lineKey p) v) q = none :=
    (heldAt_congr (hwithin.flumes (by decide))).trans hq
  have hopen : openWrite (setCells (overtake s (bankSub p.bank) (lineKey p)) (lineKey p) v) (bankSub q.bank) (lineKey q) =
      openWrite s (bankSub q.bank) (lineKey q) := openWrite_overtake_ne w _ _ hne
  have hcells : cellsAt (setCells (overtake s (bankSub p.bank) (lineKey p)) (lineKey p) v) (lineKey q) = cellsAt s (lineKey q) :=
    (cellsAt_setCells_ne _ _ hne).trans (cellsAt_congr (hwithin.mem (by decide)) (hwithin.lost (by decide)))
  rw [setStored_of_not_held hp, storedAt_of_not_held hheld, hopen, hcells, storedAt_of_not_held hq]

/-- While the row is in a holding buffer the DRAM array stays as it is. -/
theorem setStored_mem_of_held {v : Nat} {r : HeldRow} (hp : heldAt s p = some r) : (setStored s p v).mem = s.mem := by
  rw [setStored, hp]
  rfl

/-- Storing at a place changes no byte outside its 80. -/
theorem tabGet_setStored_out {v a : Nat} (ha : a < lineKey p * 80 ∨ lineKey p * 80 + 80 ≤ a) :
    tabGet (0 : Byte) (setStored s p v).mem a = tabGet 0 s.mem a := by
  cases hp : heldAt s p with
  | some r => rw [setStored_mem_of_held hp]
  | none =>
    rw [setStored_of_not_held hp, setCells_mem, tabGet_memWrite_out 80 _ _ _ _ ha,
      (overtake_within_subs s (bankSub p.bank) (lineKey p)).mem (by decide)]

/-! Storing a line. -/

theorem noRefetch_mem (s : State) (f line : Nat) : (noRefetch s f line).mem = s.mem :=
  (noRefetch_within (w_ := 2 ^ 5) (by decide) s f line (.refl _ _)).mem (by decide)

theorem tabGet_storeLine_out {f line data a : Nat} {md : Option (BitVec 2)} {dirty poison : Bool} {inj : List Nat}
    (hp : placeOf s f line = some p) (ha : a < lineKey p * 80 ∨ lineKey p * 80 + 80 ≤ a) :
    tabGet (0 : Byte) (storeLine s f line data md dirty poison inj).mem a = tabGet 0 s.mem a := by
  simp only [storeLine, hp]
  rw [tabGet_setStored_out ha, noRefetch_mem]

/-- Settles O16: the store overtakes the writes of its line that are on their way, so what it wrote to the cells is what reads back. -/
theorem writeStoresItsLine : Obligations.WriteStoresItsLine := by
  refine ⟨fun s f line data md dirty poison inj p hp a ha => tabGet_storeLine_out hp ha,
    fun s f line data md dirty poison inj hp => ?_,
    fun s p v w hp hv => ⟨storedAt_setStored_self w hp hv, fun q hq hne => storedAt_setStored_ne w hp hq hne⟩,
    fun s p v r hp => setStored_mem_of_held hp⟩
  simp only [storeLine, hp]

end Sys2Proof.Machine
end

section
/-! Row moves (R20, R70, R71, R347) and map applies (R38): one lemma per command, with its branches. -/

namespace Sys2Proof.Machine

variable {s : State} {f sc : Nat} {env : OpEnv}

/-- The 32 lines of row `ptr` of a migrating tier at their places in tier 16 (R70). -/
def rowMigrated (s : State) (f sc t ptr : Nat) (env : OpEnv) : State :=
  forAll (lookups s env) (upFrom 0 32) fun s col =>
    moveLine s f (placeAt s f ⟨sc, t, ptr / 8192, ptr % 8192, col⟩) (placeAt s f ⟨sc, 16, ptr / 8192, ptr % 8192, col⟩)
      (lineServed s f ⟨sc, t, ptr / 8192, ptr % 8192, col⟩) true env

/-- MIGRATION_ROW while moves run: the row moves and the pointer advances; after the last row the migration ends and the tier's remap
entries are released. -/
theorem exec_migrationRow {t ptr : Nat} (hf : f < 32) (hs : sc < 4) (hm : tabGet none (getFlume s f).migrate sc = some (t, ptr))
    (hon : movesOn s f = true) :
    exec (.migrationRow f sc env) s = .next
      (if ptr + 1 < 131072 then
        modFlume (rowMigrated s f sc t ptr env) f fun x => { x with migrate := tabSet none x.migrate sc (some (t, ptr + 1)) }
       else releaseRemap (modFlume (rowMigrated s f sc t ptr env) f fun x => { x with migrate := tabSet none x.migrate sc none }) f
         fun e => bits e 2 1 == sc && bits e 7 3 == t) := by
  refine (onElement_of_ok _ (okSub_of_lt hf hs)).trans ?_
  simp only [hm, hon]
  exact (apply_ite Host.Outcome.next (ptr + 1 < 131072) _ _).symm

/-- MIGRATION_ROW changes nothing with no migration under way, or where moves may not run. -/
theorem exec_migrationRow_idle (hf : f < 32) (hs : sc < 4)
    (hidle : tabGet none (getFlume s f).migrate sc = none ∨ movesOn s f = false) : exec (.migrationRow f sc env) s = .next s := by
  refine (onElement_of_ok _ (okSub_of_lt hf hs)).trans ?_
  rcases hidle with hnone | hoff
  · simp only [hnone]
  · cases hm : tabGet none (getFlume s f).migrate sc with
    | none => rfl
    | some m => simp only [hoff]; rfl

/-- COLUMN_GROUP_MOVE_ROW of an open flume rewrites the 32 lines of one row and ends after row 8,223. -/
theorem exec_columnGroupMoveRow {tier bank g i ptr : Nat} (hf : f < 32) (hs : sc < 4) (ht : tier < 17) (hb : bank < 16)
    (hm : (getBank s (bankKey f sc tier bank)).colMove = some (g, i, ptr)) (hopen : flumeOpen s f = true) :
    exec (.columnGroupMoveRow f sc tier bank env) s = .next (modBank (forAll (lookups s env) (upFrom 0 32) fun s col =>
        moveLine s f ⟨bankKey f sc tier bank, ptr, col⟩ ⟨bankKey f sc tier bank, ptr, col⟩
          ((coordHeld s ⟨bankKey f sc tier bank, ptr, col⟩).bind (lineServed s f)) false env)
      (bankKey f sc tier bank) fun k => { k with colMove := if ptr + 1 < 8224 then some (g, i, ptr + 1) else none }) := by
  refine (onElement_of_ok _ (okBank_of_lt hf hs ht hb)).trans ?_
  simp only [hm, hopen]
  rfl

/-- COLUMN_GROUP_MOVE_ROW changes nothing with no move under way, or on a flume that is not open. -/
theorem exec_columnGroupMoveRow_idle {tier bank : Nat} (hf : f < 32) (hs : sc < 4) (ht : tier < 17) (hb : bank < 16)
    (hidle : (getBank s (bankKey f sc tier bank)).colMove = none ∨ flumeOpen s f = false) :
    exec (.columnGroupMoveRow f sc tier bank env) s = .next s := by
  refine (onElement_of_ok _ (okBank_of_lt hf hs ht hb)).trans ?_
  rcases hidle with hnone | hshut
  · simp only [hnone]
  · cases hm : (getBank s (bankKey f sc tier bank)).colMove with
    | none => rfl
    | some m => simp only [hshut]; rfl

/-- A map apply that is taken at once: the new map where the flume is held, else access fault kind 5 (R38, R442). -/
theorem exec_flmMapApply {path : Nat} (hp : path < 5) (hf : f < 32) (hopen : pathOpen s path = true) (hbusy : busy s f = false)
    (hawake : portAwake s f = true) :
    exec (.flmMapApply path f) s = .next (if (getFlume s f).held then mapApply s f else accessFault s path 5 (oFlm f 0x130)) := by
  have hok : (okPath path && okF f) = true := by rw [okPath_of_lt hp, okF_of_lt hf]; rfl
  refine (onElement_of_ok _ hok).trans ?_
  rw [writeNow_takes hopen hbusy hawake]
  cases hheld : (getFlume s f).held <;> simp [takeMapApply, hheld, bitOf]

/-- Settles O27: the boundary of the migration is the `if` of `exec_migrationRow`. -/
theorem rowMoves : Obligations.RowMoves := by
  refine ⟨fun s f sc env t ptr hf hs hm hon hptr => ?_, fun s f sc env t ptr hf hs hm hon hptr => ?_,
    fun s f sc tier bank env g i ptr hf hs ht hb hm hopen => exec_columnGroupMoveRow hf hs ht hb hm hopen,
    fun s f sc env hf hs hidle => exec_migrationRow_idle hf hs hidle,
    fun s f sc tier bank env hf hs ht hb hidle => exec_columnGroupMoveRow_idle hf hs ht hb hidle,
    fun s path f hp hf hopen hbusy hawake => exec_flmMapApply hp hf hopen hbusy hawake⟩
  · rw [exec_migrationRow hf hs hm hon, if_pos hptr]; rfl
  · rw [exec_migrationRow hf hs hm hon, if_neg (Nat.not_lt.2 hptr)]; rfl

end Sys2Proof.Machine
end

section
/-! Admin descriptors (R27 to R31, R111, R112, R212, R213, R264, R265, R282 to R288): each command on a descriptor of its opcode. The lemmas
take `adminDesc`'s answer, which the safe state withholds. -/

namespace Sys2Proof.Machine

variable {s : State} {did : Nat} {d : Desc} {m : List Byte}

/-! The region table and hints. -/

/-- A region write behind no unfinished one ends with its outcome: success keeps its index and entry until the completion is posted. -/
theorem exec_regionWrite {reply : PartnerReply} (hd : adminDesc s did 0x40 = some (d, m)) (hfirst : regionWriteBefore s did = false) :
    exec (.regionWrite did reply) s = .next
      (let i := fieldLe m 0x10 1 % 64
       let e := fieldLe m 0x20 16
       let r := regionOutcome s i e reply
       if r.1 = 0 then finishKeep r.2 did ⟨0, 0, 0, 0⟩ 6 [i, e] else finishDesc r.2 did ⟨0x0A, r.1, 0, 0⟩) := by
  change execRegionWrite did reply s = _
  simp only [execRegionWrite, hd, hfirst]
  rfl

/-- A region write behind an unfinished one waits. -/
theorem exec_regionWrite_waits {reply : PartnerReply} (hbefore : regionWriteBefore s did = true) :
    exec (.regionWrite did reply) s = .next s := by
  change execRegionWrite did reply s = _
  unfold execRegionWrite
  split
  · rfl
  · rw [if_pos hbefore]

/-- A region read of an entry in which nothing is found returns it as stored. -/
theorem exec_regionRead_clean (hd : adminDesc s did 0x41 = some (d, m)) (hgood : s.badRegions.contains (fieldLe m 0x10 1 % 64) = false) :
    exec (.regionRead did .clean) s = .next (finishDesc s did
      ⟨0, 0, regionWord s (fieldLe m 0x10 1 % 64) % 2 ^ 64, regionWord s (fieldLe m 0x10 1 % 64) / 2 ^ 64⟩) := by
  change execRegionRead did .clean s = _
  simp only [execRegionRead, hd, regionCheck, ite_self, hgood, Bool.false_eq_true, if_false]

/-- An uncorrectable entry reads as zeros (R31). -/
theorem exec_regionRead_bad {ecc : EccCheck} (hd : adminDesc s did 0x41 = some (d, m))
    (hbad : s.badRegions.contains (fieldLe m 0x10 1 % 64) = true) :
    exec (.regionRead did ecc) s = .next (finishDesc s did ⟨0, 0, 0, 0⟩) := by
  change execRegionRead did ecc s = _
  simp only [execRegionRead, hd, hbad, if_true, Nat.zero_mod, Nat.zero_div]

theorem exec_powerHint (hd : adminDesc s did 0x48 = some (d, m)) :
    exec (.powerHint did) s = .next (finishKeep s did ⟨0, 0, 0, 0⟩ 7 [bImm0 m % 2 ^ 32, bImm1 m % 2 ^ 32]) := by
  change execPowerHint did s = _
  simp only [execPowerHint, hd]

theorem exec_hintExpiry {h t a : Nat} (hh : h < 4) (hhint : (getHead s h).hint = some (t, a)) :
    exec (.hintExpiry h) s = .next (if t ≤ s.now then modHead s h fun x => { x with hint := none } else s) := by
  refine (onElement_of_ok _ (okHead_of_lt hh)).trans ?_
  simp only [hhint, lapseHint]

/-! Scrub. -/

/-- A scrub whose fields and regions stand, and whose flumes are open, passes over its range. -/
theorem exec_scrub {env : OpEnv} (hd : adminDesc s did 0x42 = some (d, m)) (hwork : d.work = 0) (hparam : scrubParam m = none)
    (hregions : ((rangePoints (bSrcA m) (bCount m)).find? fun p => (regionAt s p).isNone) = none)
    (hopen : ((rangeFlumes s [(0x10, bSrcA m, bCount m)]).filter fun f => !flumeOpen s f) = [])
    (hscrub : rangeScrubbed s [(0x10, bSrcA m, bCount m)] = false) :
    exec (.scrub did env) s = .next (scrubPass s did d m env) := by
  change execScrub did env s = _
  simp only [execScrub, hd, hwork, hparam, hregions, whenOpen_acts hopen hscrub]
  rfl

/-- A bad field ends a scrub with status 8 and the field's offset (R147, R212). -/
theorem exec_scrub_param {o : Nat} {env : OpEnv} (hd : adminDesc s did 0x42 = some (d, m)) (hwork : d.work = 0)
    (hparam : scrubParam m = some o) : exec (.scrub did env) s = .next (finishDesc s did ⟨8, 0, o, 0⟩) := by
  change execScrub did env s = _
  simp only [execScrub, hd, hwork, hparam]
  rfl

theorem exec_scrubComplete (hd : adminDesc s did 0x42 = some (d, m)) (hwork : d.work = 1) (hdma : dmaOpen s (pairHead d.pair) = true) :
    exec (.scrubComplete did) s = .next (finishDesc
      (emit s (.dmaWrite (pairHead d.pair) (bDst m - 2 ^ 63) (scrubRecord (scrubCounts s d m)) false)) did
      ⟨0, 0, natAt d.prog 0, natAt d.prog 2⟩) := by
  change execScrubComplete did s = _
  simp only [execScrubComplete, hd]
  rw [if_pos ⟨hwork, hdma⟩]

/-! Promotion and resilver. -/

/-- A promotion that may run asks the partner where there is one, and else sets the roles at once (R283, R284). -/
theorem exec_mirrorPromote (hd : adminDesc s did 0x45 = some (d, m)) (hwork : d.work = 0)
    (hmay : promoteReason s (bImm0 m) (bitOf (bOpt m) 0) = 0) :
    exec (.mirrorPromote did) s = .next (if s.leat.joined then
        modDesc (sendState s 7 0 (leBytes 16 (bImm0 m)) 0) did fun x => { x with work := 5, prog := [bImm0 m] }
      else finishDesc (setRole s (bImm0 m) (bitOf (bOpt m) 0)) did ⟨0, 0, bImm0 m, s.leat.applied⟩) := by
  change execMirrorPromote did s = _
  simp only [execMirrorPromote, hd, hwork, hmay]
  cases s.leat.joined <;> rfl

/-- A resilver that may run starts for the regions of its mask. -/
theorem exec_resilver (hd : adminDesc s did 0x46 = some (d, m)) (hwork : d.work = 0) (hmay : resilverReason s (bImm0 m) = 0)
    (hdelta : bitOf (bOpt m) 0 = false) :
    exec (.resilver did) s = .next (modDesc s did fun x =>
      { x with work := 2, prog := [bImm0 m, 0, 0, 0, 0], uses := namedRegions (bImm0 m) }) := by
  change execResilver did s = _
  simp only [execResilver, hd, hwork, hmay, hdelta]
  rfl

/-- A resilver that may not run is refused with its reason (R285). -/
theorem exec_resilver_refused (hd : adminDesc s did 0x46 = some (d, m)) (hwork : d.work = 0) (hreason : resilverReason s (bImm0 m) ≠ 0) :
    exec (.resilver did) s = .next (refuseDesc s did (resilverReason s (bImm0 m))) := by
  change execResilver did s = _
  simp only [execResilver, hd, hwork]
  rw [if_neg fun hne => hne rfl, if_pos hreason]

/-- A resilver with no push out and no granule left ends (R288). -/
theorem exec_resilverComplete (hd : adminDesc s did 0x46 = some (d, m)) (hwork : d.work = 2)
    (hpush : (s.leat.pushes.any fun w => w.did == did) = false) (hleft : resilverGranules s (natAt d.prog 0) = [])
    (hfailed : failedGranules d = []) :
    exec (.resilverComplete did) s = .next (finishDesc s did ⟨0, 0, natAt d.prog 1, natAt d.prog 2⟩) := by
  change execResilverComplete did s = _
  simp only [execResilverComplete, hd, hwork, hpush, hleft, hfailed]
  rfl

/-- Settles O43: every clause is one of the lemmas above. -/
theorem adminDescriptors : Obligations.AdminDescriptors :=
  ⟨fun _ _ _ _ _ hd hfirst => exec_regionWrite hd hfirst,
   fun _ _ _ hbefore => exec_regionWrite_waits hbefore,
   fun _ _ _ _ hd hgood => exec_regionRead_clean hd hgood,
   fun _ _ _ _ _ hd hbad => exec_regionRead_bad hd hbad,
   fun _ _ _ _ hd => exec_powerHint hd,
   fun _ _ _ _ hh hhint => exec_hintExpiry hh hhint,
   fun _ _ _ _ _ hd hwork hparam hregions hopen hscrub => exec_scrub hd hwork hparam hregions hopen hscrub,
   fun _ _ _ _ _ _ hd hwork hparam => exec_scrub_param hd hwork hparam,
   fun _ _ _ _ hd hwork hdma => exec_scrubComplete hd hwork hdma,
   fun _ _ _ _ hd hwork hmay => exec_mirrorPromote hd hwork hmay,
   fun _ _ _ _ hd hwork hmay hdelta => exec_resilver hd hwork hmay hdelta,
   fun _ _ _ _ hd hwork hreason => exec_resilver_refused hd hwork hreason,
   fun _ _ _ _ hd hwork hpush hleft hfailed => exec_resilverComplete hd hwork hpush hleft hfailed⟩

end Sys2Proof.Machine
end

section
/-! Row commands (R50, R52, R61, R72, R78): the bank they change and their entry of the retry buffer. Every one of them enters the buffer
by `noteCmd`. -/

namespace Sys2Proof.Machine

variable {s : State} {f sub b row k tenths : Nat}

/-! The retry buffer. -/

@[simp] theorem getBank_noteCmd (c : DramCmd) : getBank (noteCmd s sub c) k = getBank s k := rfl

@[simp] theorem getBank_modSub {i : Nat} (g : SubChan → SubChan) : getBank (modSub s i g) k = getBank s k := rfl

@[simp] theorem getBank_noteThermal (b kind : Nat) : getBank (noteThermal s b kind) k = getBank s k := rfl

@[simp] theorem getSub_modBank {i : Nat} (g : Bank → Bank) : getSub (modBank s i g) k = getSub s k := rfl

@[simp] theorem getSub_noteThermal (b kind : Nat) : getSub (noteThermal s b kind) k = getSub s k := rfl

/-- A command enters the buffer as the last one, with the running count and the cycle (R61). -/
theorem retry_noteCmd (w : s.wf) (c : DramCmd) :
    (getSub (noteCmd s sub c) sub).retry = (getSub s sub).retry ++ [⟨(getSub s sub).count, (getSub s sub).cycle, 0, c⟩] := by
  rw [noteCmd, getSub_modSub_self s sub _ w.subs]

/-! Times. -/

theorem getBank_timeAct_self (w : s.wf) : getBank (timeAct s f sub b row) b =
    { getBank s b with openRow := some row, hits := 0, colAt := (getSub s sub).cycle + cycles s f 140,
                       preAt := (getSub s sub).cycle + cycles s f 280,
                       actAt := (getSub s sub).cycle + cycles s f 280 + cycles s f 140, usedAt := (getSub s sub).cycle } :=
  (getBank_modSub _).trans <| getBank_modBank_self _ b _ w.banks

theorem getBank_timeAct_ne (hk : k ≠ b) : getBank (timeAct s f sub b row) k = getBank s k :=
  (getBank_modSub _).trans <| getBank_modBank_ne _ _ hk

theorem getSub_timeAct (w : s.wf) :
    getSub (timeAct s f sub b row) sub = { getSub s sub with acts := (((getSub s sub).cycle, b) :: (getSub s sub).acts).take 64 } :=
  getSub_modSub_self _ sub _ w.subs

theorem getBank_timePre_self (w : s.wf) : getBank (timePre s f sub b) b =
    { getBank s b with openRow := none, hits := 0, actAt := max (getBank s b).actAt ((getSub s sub).cycle + cycles s f 140) } :=
  getBank_modBank_self _ b _ w.banks

theorem getBank_timePre_ne (hk : k ≠ b) : getBank (timePre s f sub b) k = getBank s k := getBank_modBank_ne _ _ hk

theorem getBank_timeBusy_self (w : s.wf) : getBank (timeBusy s f sub b tenths) b =
    { getBank s b with actAt := max (getBank s b).actAt ((getSub s sub).cycle + cycles s f tenths) } :=
  getBank_modBank_self _ b _ w.banks

theorem timeBusy_wf (w : s.wf) : (timeBusy s f sub b tenths).wf := ((timeBusy_keeps s f sub b tenths (.refl s)).wf w).1

theorem getBank_timeBusy_ne (hk : k ≠ b) : getBank (timeBusy s f sub b tenths) k = getBank s k := getBank_modBank_ne _ _ hk

theorem getBank_refreshed_self {owed : Bool} (w : s.wf) : getBank (refreshed s b owed) b =
    { getBank s b with rowCtr := ((getBank s b).rowCtr + 1) % 1028, refDue := (getBank s b).refDue - 1,
                       owed := (getBank s b).owed - b2n owed, owedDue := (getBank s b).owedDue - b2n owed } :=
  getBank_modBank_self _ b _ w.banks

theorem getBank_refreshed_ne {owed : Bool} (hk : k ≠ b) : getBank (refreshed s b owed) k = getBank s k := getBank_modBank_ne _ _ hk

/-! The commands. -/

theorem retry_issueAct (w : s.wf) : (getSub (issueAct s f sub b row) sub).retry =
    (getSub s sub).retry ++ [⟨(getSub s sub).count, (getSub s sub).cycle, 0, .act b row⟩] := by
  have hwf : (timeAct s f sub b row).wf := ((timeAct_keeps s f sub b row (.refl s)).wf w).1
  rw [issueAct, getSub_noteThermal, retry_noteCmd hwf, getSub_timeAct w]

theorem retry_issuePre (w : s.wf) : (getSub (issuePre s f sub b) sub).retry =
    (getSub s sub).retry ++ [⟨(getSub s sub).count, (getSub s sub).cycle, 0, .pre b⟩] := by
  have hwf : (timePre s f sub b).wf := ((timePre_keeps s f sub b (.refl s)).wf w).1
  rw [issuePre, retry_noteCmd hwf, timePre, getSub_modBank]

theorem retry_issueRef (w : s.wf) : (getSub (issueRef s f sub b) sub).retry = (getSub s sub).retry ++
    [⟨(getSub s sub).count, (getSub s sub).cycle, 0, .ref b (decide (0 < (getBank s b).owedDue))⟩] := by
  have hwf {owed : Bool} : (refreshed (timeBusy s f sub b 1600) b owed).wf := ((refreshed_keeps _ b _ (.refl _)).wf (timeBusy_wf w)).1
  rw [issueRef, getSub_noteThermal, retry_noteCmd hwf, refreshed, getSub_modBank, timeBusy, getSub_modBank]

@[simp] theorem getBank_issueAct : getBank (issueAct s f sub b row) k = getBank (timeAct s f sub b row) k := rfl

@[simp] theorem getBank_issuePre : getBank (issuePre s f sub b) k = getBank (timePre s f sub b) k := rfl

@[simp] theorem getBank_issueRef : getBank (issueRef s f sub b) k =
    getBank (refreshed (timeBusy s f sub b 1600) b (decide (0 < (getBank s b).owedDue))) k := rfl

/-- Settles O15: each command sets the times of its bank, enters the retry buffer, and touches neither a line nor a request. -/
theorem rowCommands : Obligations.RowCommands := by
  refine ⟨fun s f sub b row w => ?_, fun s f sub b w => ?_, fun s f sub b w => ?_⟩
  · have hframe := issueAct_within (w_ := 2 ^ 6 + 2 ^ 8 + 2 ^ 27) (by decide) s f sub b row (.refl _ s)
    refine ⟨?_, ?_, fun k hk => getBank_timeAct_ne hk, hframe.mem (by decide), hframe.flumes (by decide), retry_issueAct w⟩
    · rw [getBank_issueAct, getBank_timeAct_self w]
    · rw [getBank_issueAct, getBank_timeAct_self w]
  · have hframe := issuePre_within (w_ := 2 ^ 6 + 2 ^ 8) (by decide) s f sub b (.refl _ s)
    refine ⟨?_, ?_, fun k hk => getBank_timePre_ne hk, hframe.mem (by decide), hframe.flumes (by decide), retry_issuePre w⟩
    · rw [getBank_issuePre, getBank_timePre_self w]
    · rw [getBank_issuePre, getBank_timePre_self w]
  · have hframe := issueRef_within (w_ := 2 ^ 6 + 2 ^ 8 + 2 ^ 27) (by decide) s f sub b (.refl _ s)
    refine ⟨?_, ?_, fun k hk => ?_, hframe.mem (by decide), hframe.flumes (by decide), retry_issueRef w⟩
    · rw [getBank_issueRef, getBank_refreshed_self (timeBusy_wf w), getBank_timeBusy_self w]
    · rw [getBank_issueRef, getBank_refreshed_self (timeBusy_wf w), getBank_timeBusy_self w]
    · rw [getBank_issueRef, getBank_refreshed_ne hk, getBank_timeBusy_ne hk]

end Sys2Proof.Machine
end

section
/-! Admission (R45, R119, R218, R221, R222): what REQUEST_ACCEPT does with the request whose turn it is, and where a read and a host's
write then stand. -/

namespace Sys2Proof.Machine

variable {s : State} {f port : Nat} {r : Req} {rest : List Req}

theorem exec_requestAccept (hf : f < 32) (hport : port < 9) (hturn : takeFirst (acceptTurn s f port) (getFlume s f).waiting = some (r, rest))
    (hroom : (flumeOpen s f && portFree (getFlume s f) port && destFree s r.dest) = true) :
    exec (.requestAccept f port) s =
      .next (if r.kind = .read then admitRead (taken s f port r rest) f r else admitWrite (taken s f port r rest) f r) := by
  refine (onElement_of_ok _ (by simp [okF_of_lt hf, hport])).trans ?_
  simp only [hturn, hroom]
  cases r.kind <;> rfl

theorem exec_requestAccept_none (hf : f < 32) (hport : port < 9)
    (hturn : takeFirst (acceptTurn s f port) (getFlume s f).waiting = none) : exec (.requestAccept f port) s = .next s := by
  refine (onElement_of_ok _ (by simp [okF_of_lt hf, hport])).trans ?_
  simp only [hturn]

/-- A read of a line in service that waits for no partner's copy joins the queue. -/
theorem admitRead_joins (hsec : r.secondary = false) (hplace : (placeOf (bumpId s f) f r.line).isSome = true)
    (hcopy : (getFlume (bumpId s f) f).refetch.contains r.line = false) :
    admitRead s f r = putQueue (bumpId s f) f (stamped s f r) := by
  have hsec' : (stamped s f r).secondary = false := hsec
  have hline : (stamped s f r).line = r.line := rfl
  simp only [admitRead, hsec', hline, Option.isNone_eq_false_iff.2 hplace, hcopy]
  rfl

/-- A request of a host is no write-back. -/
theorem isWriteBack_host {h tag : Nat} {m : Bool} (hdest : r.dest = .host h tag m) : isWriteBack r = false := by
  simp [isWriteBack, hdest]

/-- A host's write outside the mirror modes, to a line in service: its write-backs are void, it is answered and joins the queue. -/
theorem admitWrite_joins {h tag : Nat} {m : Bool} (hdest : r.dest = .host h tag m) (hprim : r.primary = false)
    (hplace : (placeOf (bumpId (answerWrite (voidWriteBacks s f r.line) h tag) f) f r.line).isSome = true) :
    admitWrite s f r = mirrorStep (putQueue (bumpId (answerWrite (voidWriteBacks s f r.line) h tag) f) f
      { r with mirror := false, inject := injectOn (voidWriteBacks s f r.line) f r,
               id := (getFlume (voidWriteBacks s f r.line) f).nextId, since := (voidWriteBacks s f r.line).now }) f := by
  simp [admitWrite, hdest, isWriteBack_host hdest, hprim, stamped, finishWrite, hplace, ackApply]

/-- Letting a request in takes no time. -/
theorem taken_now (s : State) (f port : Nat) (r : Req) (rest : List Req) : (taken s f port r rest).now = s.now := by
  have hgrant : Within (2 ^ 5 + 2 ^ 11 + 2 ^ 19) s (taken s f port r rest) :=
    grantTo_within (by decide) _ _ _ (leaveIngress_within (by decide) _ _ (modFlume_within (by decide) (.refl _ s)))
  exact hgrant.now

/-- Settles O12: a read and a write take the two branches of `exec_requestAccept`. -/
theorem requestsAccepted : Obligations.RequestsAccepted := by
  refine ⟨fun s f port r rest hf hport hturn hroom hkind hsec hplace hcopy => ⟨?_, rfl, taken_now s f port r rest⟩,
    fun s f port r rest h tag m hf hport hturn hroom hkind hdest hprim hplace => ?_,
    fun s f port hf hport hturn => exec_requestAccept_none hf hport hturn⟩
  · rw [exec_requestAccept hf hport hturn hroom, if_pos hkind, admitRead_joins hsec hplace hcopy]
  · rw [exec_requestAccept hf hport hturn hroom, if_neg (by simp [hkind]), admitWrite_joins hdest hprim hplace]
    rfl

end Sys2Proof.Machine
end

section
/-! Command parity (R61, R62, R63, R65). -/

namespace Sys2Proof.Machine

variable {s : State} {f sc tier n : Nat} {loop : LoopRes}

/-- A parity error of a command that is still in the retry buffer is replayed, and escalated after three failing replays. -/
theorem exec_caparError {e : Issued} (hf : f < 32) (hs : sc < 4) (ht : tier < 17) (hsafe : s.flt.safe = false)
    (hin : (getSub s (subKey f sc)).offline = false) (he : (getSub s (subKey f sc)).retry.find? (fun x => x.n == n) = some e) :
    exec (.caparError f sc tier n loop) s = .next
      (if 3 ≤ e.fails then escalate (atError s f sc n) f sc tier n (fromError s f sc n) loop
       else event (scEvent (reissue ((fromError s f sc n).foldl undoCmd (atError s f sc n)) f (subKey f sc)
           ((getSub s (subKey f sc)).cycle + cycles s f 1200) (countFail (e.fails + 1) (fromError s f sc n))) (oFlm f 0x5C)
         fun v => putBits (putBits (bumpBits v 23 16) 13 12 sc) 8 4 tier) (32 + f) 6 0 (sc + 4 * tier) n) := by
  refine (onElement_of_ok _ (by simp [okSub_of_lt hf hs, ht])).trans ?_
  simp only [he, hin, hsafe]
  exact (apply_ite Host.Outcome.next (3 ≤ e.fails) _ _).symm

/-- A command that has left the buffer, an offline sub-channel and the safe state leave nothing to replay. -/
theorem exec_caparError_idle (hf : f < 32) (hs : sc < 4) (ht : tier < 17)
    (hidle : (getSub s (subKey f sc)).retry.find? (fun x => x.n == n) = none ∨ (getSub s (subKey f sc)).offline = true ∨ s.flt.safe = true) :
    exec (.caparError f sc tier n loop) s = .next s := by
  refine (onElement_of_ok _ (by simp [okSub_of_lt hf hs, ht])).trans ?_
  cases he : (getSub s (subKey f sc)).retry.find? (fun x => x.n == n) with
  | none => rfl
  | some e =>
    have hout : ((getSub s (subKey f sc)).offline || s.flt.safe) = true := by simpa [he] using hidle
    simp only [hout]
    rfl

/-- The sub-channel stops with what was discarded, and the fault is raised (R65). -/
def stoppedAt (s : State) (f sc tier n : Nat) (es : List Issued) : State :=
  event (modSub (scEvent (es.foldl undoCmd s) (oFlm f 0x5C) fun v => putBits (putBits (putBits v 13 12 sc) 8 4 tier) 0 0 1) (subKey f sc)
    fun u => { u with stopped := true, retry := [], held := countFail 0 es }) (32 + f) 6 2 (sc + 4 * tier) n

/-- With no command-address wire failing the loop test the sub-channel is trained anew (R65). -/
theorem escalate_retrains {es : List Issued} (hw : (loop.wires.filter fun w => 320 ≤ w ∧ w ≤ 344) = []) :
    escalate s f sc tier n es loop =
      startPass (queuePasses (stoppedAt s f sc tier n es) f sc 0 (getFlume (stoppedAt s f sc tier n es) f).tunedMode (upFrom 0 17)) f sc := by
  simp only [escalate, hw]
  rfl

/-- Settles O21: the third failing replay is the bound of `exec_caparError`. -/
theorem commandParity : Obligations.CommandParity := by
  refine ⟨fun s f sc tier n loop e hf hs ht hsafe hin he hfails => ?_,
    fun s f sc tier n loop e hf hs ht hsafe hin he hfails hw => ⟨stoppedAt (atError s f sc n) f sc tier n (fromError s f sc n), rfl, ?_⟩,
    fun s f sc tier n loop hf hs ht hidle => exec_caparError_idle hf hs ht hidle⟩
  · rw [exec_caparError hf hs ht hsafe hin he, if_neg (Nat.not_le.2 hfails)]
  · rw [exec_caparError hf hs ht hsafe hin he, if_pos hfails, escalate_retrains hw]

end Sys2Proof.Machine
end

section
/-! In-service self-test slices and passes (R66 to R69, R339, R340, R345, R349). -/

namespace Sys2Proof.Machine

variable {s : State} {f sc : Nat} {badSpares : List Nat} {h : HeldRow}

theorem exec_dramSliceStart {tier bank row : Nat} (hf : f < 32) (hs : sc < 4) (ht : tier < 17) (hb : bank < 16) (hr : row < 8224)
    (hon : slicesOn s f = true) (hbay : bayOut s f sc tier = false) (hissues : subIssues s f sc = true) (hpass : fullPass s f sc = false)
    (hdemand : demandReady s f sc = false) (hscrub : (getBank s (bankKey f sc tier bank)).scrubbing = false)
    (hheld : ((getFlume s f).heldRows.any fun h => bankSub h.bank == subKey f sc) = false) :
    exec (.dramSliceStart f sc tier bank row) s = .next (modBank (modFlume s f fun x => { x with heldRows := x.heldRows ++
        [⟨bankKey f sc tier bank, row, true, 0,
          (List.range 32).map fun c => BitVec.ofNat 640 (storedAt s ⟨bankKey f sc tier bank, row, c⟩)⟩] })
      (bankKey f sc tier bank) fun k => { k with openRow := none, hits := 0 }) := by
  refine (onElement_of_ok _ (by simp [okBank_of_lt hf hs ht hb, hr])).trans ?_
  simp only [hon, hbay, hissues, hpass, hdemand, hscrub, hheld]
  rfl

/-- The slice's row has its copy back and is released (R66, R67). -/
def rowReleased (s : State) (f : Nat) (h : HeldRow) : State :=
  putRow (modFlume s f fun x => { x with heldRows := x.heldRows.filter fun y => y != h }) h.bank h.row h.copy

/-- A slice ends after eight elements, or after two where cells failed (R66, R340). -/
theorem exec_dramSliceEnd {fails : List (Nat × Nat)} (hf : f < 32) (hs : sc < 4)
    (hrow : (getFlume s f).heldRows.find? (fun h => h.slice && bankSub h.bank == subKey f sc) = some h) :
    exec (.dramSliceEnd f sc fails badSpares) s = .next
      (if h.elems < (if fails.isEmpty then 8 else 2) then s
       else if fails.isEmpty then sliceRan (rowReleased s f h)
       else sliceRan (repairFailure (noteFail (rowReleased s f h)) h.bank h.row (distinct (fails.map Prod.fst))
         (distinct (fails.map fun e => e.2 % 32)) badSpares)) := by
  refine (onElement_of_ok _ (okSub_of_lt hf hs)).trans ?_
  simp only [hrow, apply_ite Host.Outcome.next]
  rfl

theorem exec_logicSliceStart (hf : f < 32) (hs : sc < 4) (hon : slicesOn s f = true) (hnone : (getSub s (subKey f sc)).logicSlice = false)
    (hin : (getSub s (subKey f sc)).offline = false) (hgoing : (getSub s (subKey f sc)).stopped = false)
    (hafter : (getSub s (subKey f sc)).sliceAfter ≤ s.now)
    (hpressed : ((getFlume s f).queue.any fun r => (r.promoted || urgencyNow s f r == 4) && (coordOf s f r.line).sc == sc) = false) :
    exec (.logicSliceStart f sc) s = .next (modSub s (subKey f sc) fun u => { u with logicSlice := true }) := by
  refine (onElement_of_ok _ (okSub_of_lt hf hs)).trans ?_
  simp only [hon, hnone, hin, hgoing, hpressed, decide_eq_true hafter]
  rfl

/-- A logic slice that runs is counted; an engine that failed takes its sub-channel out of service (R68, R349). -/
theorem exec_logicSliceEnd {pass : Bool} (hf : f < 32) (hs : sc < 4) (hrun : (getSub s (subKey f sc)).logicSlice = true) :
    exec (.logicSliceEnd f sc pass) s = .next
      (if pass then sliceRan (modSub s (subKey f sc) fun u => { u with logicSlice := false })
       else withdrawSub (noteFail (sliceRan (modSub s (subKey f sc) fun u => { u with logicSlice := false }))) f sc) := by
  refine (onElement_of_ok _ (okSub_of_lt hf hs)).trans ?_
  simp only [hrun]
  rfl

/-- In-service passes are enabled, and the configured hours have gone by or no pass has begun (R339). -/
def passDue (s : State) : Prop :=
  bitOf (regGet s (oBst 0)).toNat 0 = true ∧
    (s.bist.passAt = 0 ∨ max 1 (regField s (oBst 4) 7 0) * 3600 * oneSecond ≤ s.now - s.bist.passAt)

/-- A pass that is unfinished as the next one begins is counted (R339). -/
def unfinishedCounted (s : State) : State := if s.bist.passActive then scEvent s (oBst 0xC) fun v => bumpBits v 4 0 else s

theorem exec_inServicePass (hdue : passDue s) : exec .inServicePass s = .next { unfinishedCounted s with
    bist := { (unfinishedCounted s).bist with passActive := true, done := 0, passAt := s.now } } := by
  change execInServicePass s = _
  obtain ⟨hon, htime⟩ := hdue
  simp only [execInServicePass, hon, Bool.true_and, Bool.or_eq_true, beq_iff_eq, decide_eq_true_eq, if_pos htime]
  rfl

theorem exec_inServicePass_not_due (hnot : ¬ passDue s) : exec .inServicePass s = .next s := by
  change execInServicePass s = _
  rw [passDue] at hnot
  simp only [execInServicePass, Bool.and_eq_true, Bool.or_eq_true, beq_iff_eq, decide_eq_true_eq, if_neg hnot]

/-- Settles O26: the bounds of a DRAM slice are those of `exec_dramSliceEnd`, and a pass begins where it is due. -/
theorem serviceSlices : Obligations.ServiceSlices := by
  refine ⟨fun s f sc tier bank row hf hs ht hb hr hon hbay hissues hpass hdemand hscrub hheld =>
      exec_dramSliceStart hf hs ht hb hr hon hbay hissues hpass hdemand hscrub hheld,
    fun s f sc badSpares h hf hs hrow helems => ?_, fun s f sc e fails badSpares h hf hs hrow helems => ?_,
    fun s f sc fails badSpares h hf hs hrow helems => ?_,
    fun s f sc hf hs hon hnone hin hgoing hafter hpressed => exec_logicSliceStart hf hs hon hnone hin hgoing hafter hpressed,
    fun s f sc hf hs hrun => ⟨exec_logicSliceEnd hf hs hrun, exec_logicSliceEnd hf hs hrun⟩,
    fun s hon htime => ⟨unfinishedCounted s, rfl, exec_inServicePass ⟨hon, htime⟩⟩,
    fun s hnot => exec_inServicePass_not_due fun hdue => ?_⟩
  · rw [exec_dramSliceEnd hf hs hrow, List.isEmpty_nil, if_pos rfl, if_neg (Nat.not_lt.2 helems), if_pos rfl]
    rfl
  · rw [exec_dramSliceEnd hf hs hrow, List.isEmpty_cons, if_neg Bool.false_ne_true, if_neg (Nat.not_lt.2 helems),
      if_neg Bool.false_ne_true]
    rfl
  · have hfew : h.elems < if fails.isEmpty then 8 else 2 := by
      cases fails with
      | nil => simp only [List.isEmpty_nil, if_true]; omega
      | cons e fails => simpa using helems
    rw [exec_dramSliceEnd hf hs hrow, if_pos hfew]
  · obtain ⟨hon, htime⟩ := hdue
    rcases hnot with hoff | ⟨hbegun, hsoon⟩
    · exact Bool.false_ne_true (hoff.symm.trans hon)
    · exact htime.elim hbegun (Nat.not_le.2 hsoon)

end Sys2Proof.Machine
end

section
/-! Ageing and urgency (R47 to R49, R51, R68). -/

namespace Sys2Proof.Machine

variable {s : State} {f rid : Nat} {r : Req}

theorem exec_agePromotion (hf : f < 32) (hr : (getFlume s f).queue.find? (fun q => q.id == rid) = some r)
    (hold : ageLimit s f r.cls < s.now - r.since) :
    exec (.agePromotion f rid) s = .next (abandonSlice (modFlume s f fun x =>
        { x with queue := mapWhere (promotes x r) (fun q => { q with promoted := true }) x.queue,
                 inflight := mapWhere (promotes x r) (fun q => { q with promoted := true }) x.inflight })
      (subKey f (coordOf s f r.line).sc)) := by
  refine (onElement_of_ok _ (okF_of_lt hf)).trans ?_
  simp only [hr, if_neg (Nat.not_le.2 hold)]

/-- The request with the urgency of its age (R49, R51). -/
def urgencyRisen (s : State) (f rid : Nat) (r : Req) : State :=
  let up (q : Req) : Req := { q with urgency := urgencyAt (s.now - r.since) (portTarget s f r.port) }
  modFlume s f fun x => { x with queue := mapWhere (fun q => q.id == rid) up x.queue }

theorem exec_urgencyRise (hf : f < 32) (hr : (getFlume s f).queue.find? (fun q => q.id == rid) = some r) :
    exec (.urgencyRise f rid) s = .next
      (if urgencyAt (s.now - r.since) (portTarget s f r.port) = 4 then
        abandonSlice (urgencyRisen s f rid r) (subKey f (coordOf s f r.line).sc)
       else urgencyRisen s f rid r) := by
  refine (onElement_of_ok _ (okF_of_lt hf)).trans ?_
  simp only [hr]
  rfl

/-- Settles O13: `mapWhere` changes requests at their places. -/
theorem queueMarks : Obligations.QueueMarks :=
  ⟨fun _ _ _ _ hf hr hold => exec_agePromotion hf hr hold, fun _ _ _ _ hf hr => exec_urgencyRise hf hr⟩

end Sys2Proof.Machine
end

section
/-! The command slot and the idle close (R44, R46, R50, R59, R297): one lemma per rank of `issueNext`. -/

namespace Sys2Proof.Machine

variable {s : State} {f sc gap : Nat}

theorem exec_scheduleCommand (hf : f < 32) (hs : sc < 4) :
    exec (.scheduleCommand f sc gap) s = .next
      (if !subIssues (passCycles s (subKey f sc) gap) f sc || fullPass (passCycles s (subKey f sc) gap) f sc then
        passCycles s (subKey f sc) gap
       else issueNext (passCycles s (subKey f sc) gap) f sc) :=
  onElement_of_ok _ (okSub_of_lt hf hs)

/-- A sub-channel that may not issue lets its cycles pass. -/
theorem exec_scheduleCommand_stopped (hf : f < 32) (hs : sc < 4)
    (hstop : subIssues (passCycles s (subKey f sc) gap) f sc = false ∨ fullPass (passCycles s (subKey f sc) gap) f sc = true) :
    exec (.scheduleCommand f sc gap) s = .next (passCycles s (subKey f sc) gap) := by
  rw [exec_scheduleCommand hf hs, if_pos]
  rcases hstop with hnot | hpass
  · rw [hnot]; rfl
  · rw [hpass, Bool.or_true]

/-- A sub-channel that may issue takes the first of its commands. -/
theorem exec_scheduleCommand_issues (hf : f < 32) (hs : sc < 4) (hissues : subIssues (passCycles s (subKey f sc) gap) f sc = true)
    (hpass : fullPass (passCycles s (subKey f sc) gap) f sc = false) :
    exec (.scheduleCommand f sc gap) s = .next (issueNext (passCycles s (subKey f sc) gap) f sc) := by
  rw [exec_scheduleCommand hf hs, hissues, hpass]
  rfl

/-- Refresh comes first. -/
theorem issueNext_refresh {b : Nat} (href : zeroRefresh s (subKey f sc) = some b) :
    issueNext s f sc = if (getBank s b).openRow.isSome then issuePre s f (subKey f sc) b else issueRef s f (subKey f sc) b := by
  simp only [issueNext, href]

/-- A held flume issues refresh alone. -/
theorem issueNext_held (href : zeroRefresh s (subKey f sc) = none) (hheld : (getFlume s f).held = true) : issueNext s f sc = s := by
  simp only [issueNext, href, if_pos hheld]

/-- Elements of slices come second. -/
theorem issueNext_element {b : Nat} (href : zeroRefresh s (subKey f sc) = none) (hheld : (getFlume s f).held = false)
    (helem : zeroElement s f (subKey f sc) = some b) :
    issueNext s f sc = if (getBank s b).openRow.isSome then issuePre s f (subKey f sc) b else issueElement s f (subKey f sc) b := by
  simp only [issueNext, href, hheld, helem]
  rfl

/-- Then training and requests. -/
theorem issueNext_best (href : zeroRefresh s (subKey f sc) = none) (hheld : (getFlume s f).held = false)
    (helem : zeroElement s f (subKey f sc) = none) : issueNext s f sc = issueBest s f sc := by
  simp only [issueNext, href, hheld, helem]
  rfl

theorem issueBest_train {p : Pass} (hp : livePass s f sc = some p) (hfirst : trainFirst s p (bestCand (candsOf s f sc)) = true) :
    issueBest s f sc = issueTrain s f sc p := by
  simp only [issueBest, hp, if_pos hfirst]

theorem issueBest_request (hp : ∀ p, livePass s f sc = some p → trainFirst s p (bestCand (candsOf s f sc)) = false) :
    issueBest s f sc = issueAny s f sc (bestCand (candsOf s f sc)) := by
  cases hlive : livePass s f sc with
  | none => simp only [issueBest, hlive]
  | some p => simp only [issueBest, hlive, hp p hlive]; rfl

/-- An idle row with no hit waiting is precharged. -/
theorem exec_rowIdleClose {tier bank row : Nat} (hf : f < 32) (hs : sc < 4) (ht : tier < 17) (hb : bank < 16)
    (hopen : (getBank (passCycles s (subKey f sc) 1) (bankKey f sc tier bank)).openRow = some row)
    (hidle : regField s (oFlm f 0x54) 7 0 ≤
      (getSub (passCycles s (subKey f sc) 1) (subKey f sc)).cycle - (getBank (passCycles s (subKey f sc) 1) (bankKey f sc tier bank)).usedAt)
    (hpre : (getBank (passCycles s (subKey f sc) 1) (bankKey f sc tier bank)).preAt ≤
      (getSub (passCycles s (subKey f sc) 1) (subKey f sc)).cycle)
    (hhit : hitWaits s f (bankKey f sc tier bank) row = false) (hissues : subIssues (passCycles s (subKey f sc) 1) f sc = true)
    (hpass : fullPass (passCycles s (subKey f sc) 1) f sc = false) (hheld : (getFlume s f).held = false) :
    exec (.rowIdleClose f sc tier bank) s =
      .next (issuePre (passCycles s (subKey f sc) 1) f (subKey f sc) (bankKey f sc tier bank)) := by
  refine (onElement_of_ok _ (okBank_of_lt hf hs ht hb)).trans ?_
  simp only [hopen]
  rw [if_pos ⟨hidle, hpre, by simp [hhit], hissues, by simp [hpass], by simp [hheld]⟩]

theorem exec_rowIdleClose_closed {tier bank : Nat} (hf : f < 32) (hs : sc < 4) (ht : tier < 17) (hb : bank < 16)
    (hclosed : (getBank (passCycles s (subKey f sc) 1) (bankKey f sc tier bank)).openRow = none) :
    exec (.rowIdleClose f sc tier bank) s = .next s := by
  refine (onElement_of_ok _ (okBank_of_lt hf hs ht hb)).trans ?_
  simp only [hclosed]

/-- Settles O14: the clauses are the ranks of `issueNext` and `issueBest`. -/
theorem scheduleOneCommand : Obligations.ScheduleOneCommand := by
  refine ⟨fun s f sc gap hf hs hstop => exec_scheduleCommand_stopped hf hs hstop, fun s f sc gap b hf hs hissues hpass href => ?_,
    fun s f sc gap hf hs hissues hpass href hheld => ?_, fun s f sc gap b hf hs hissues hpass href hheld helem => ?_,
    fun s f sc gap p hf hs hissues hpass href hheld helem hlive hfirst => ?_,
    fun s f sc gap hf hs hissues hpass href hheld helem hlive => ?_,
    fun s f sc tier bank row hf hs ht hb hopen hidle hpre hhit hissues hpass hheld =>
      exec_rowIdleClose hf hs ht hb hopen hidle hpre hhit hissues hpass hheld,
    fun s f sc tier bank hf hs ht hb hclosed => exec_rowIdleClose_closed hf hs ht hb hclosed⟩ <;>
    rw [exec_scheduleCommand_issues hf hs hissues hpass]
  · rw [issueNext_refresh href]
  · rw [issueNext_held href hheld]
  · rw [issueNext_element href hheld helem]
  · rw [issueNext_best href hheld helem, issueBest_train hlive hfirst]
  · rw [issueNext_best href hheld helem, issueBest_request hlive]
    rfl

end Sys2Proof.Machine
end

section
/-! Read data (R64, R94 to R96, R218, R223). -/

namespace Sys2Proof.Machine

variable {s : State} {f rid : Nat} {flips1 flips2 : List Nat} {r : Req} {d : Decoded}

/-- A read of a clean line counts nothing. -/
theorem countRead_clean {line dpaLine region : Nat} (hgood : d.bad = false) (hwords : d.words = 0) :
    countRead s f line d false dpaLine region = s := by
  simp [countRead, countAt, hgood, hwords]

/-- Poison copies that agree need no settling. -/
theorem settlePoison_agree {line dpaLine region : Nat} (hcopies : poisonSplit d.md = false) : settlePoison s f line d dpaLine region = s := by
  simp [settlePoison, hcopies]

/-- A read whose line decodes clean ends, and its requester gets the line. -/
theorem exec_readDataReturn_clean {p : Place} (hf : f < 32) (hr : (getFlume s f).inflight.find? (fun q => q.id == rid) = some r)
    (hroom : destFree s r.dest = true) (hcopy : copyOf s f rid = none)
    (hheld : readHeld (getSub s (subKey f (coordOf s f r.line).sc)) rid = false) (hkind : r.kind = .read)
    (hp : placeOf (backNow s f rid r) f r.line = some p) (hd : readPlace (backNow s f rid r) p flips1 = d) (hgood : d.bad = false)
    (hwords : d.words = 0) (hcopies : poisonSplit d.md = false) :
    exec (.readDataReturn f rid flips1 flips2) s =
      .next (completeRead (dropReq (backNow s f rid r) f r.id) r f d.data d.md (mdPoison d.md)) := by
  rw [backNow] at hp hd
  refine (onElement_of_ok _ (okF_of_lt hf)).trans ?_
  simp [hr, hroom, hcopy, hheld, hp, hd, hgood, countRead_clean hgood hwords, settlePoison_agree hcopies, readDone, hkind, backNow]

theorem exec_readDataReturn_none (hf : f < 32) (hr : (getFlume s f).inflight.find? (fun q => q.id == rid) = none) :
    exec (.readDataReturn f rid flips1 flips2) s = .next s := by
  refine (onElement_of_ok _ (okF_of_lt hf)).trans ?_
  simp only [hr]

/-- A host gets a line without poison in one DRS message, with the metadata where it asked for them. -/
theorem completeRead_host {data md h tag : Nat} {m : Bool} (hdest : r.dest = .host h tag m) :
    completeRead s r f data md false =
      respond s h (.drs tag (BitVec.ofNat 512 data) false (if m then some (BitVec.ofNat 2 (mdCxl md)) else none) false) := by
  simp only [completeRead, hdest, answerRead]
  cases m <;> rfl

/-- Settles O17. -/
theorem readReturns : Obligations.ReadReturns :=
  ⟨fun _ _ _ _ _ _ _ hf hr hroom hcopy hheld hkind hp hgood hwords hcopies =>
      exec_readDataReturn_clean hf hr hroom hcopy hheld hkind hp rfl hgood hwords hcopies,
    fun _ _ _ _ _ _ _ _ hdest => completeRead_host hdest, fun _ _ _ _ _ hf hr => exec_readDataReturn_none hf hr⟩

end Sys2Proof.Machine
end

section
/-! Sustained overload (R56, R57). -/

namespace Sys2Proof.Machine

variable {s : State} {f h : Nat}

theorem exec_sustainedOverload {t : Nat} (hf : f < 32) (hh : h < 4) (habove : tabGet none (getFlume s f).aboveSince h = some t)
    (hlong : 1000000 ≤ s.now - t) (hsaid : (getFlume s f).overloadSaid.contains h = false) :
    exec (.sustainedOverload f h) s = .next (event (scEvent
      (modFlume s f fun x => { x with overloadSaid := insertNat h x.overloadSaid }) (oFlm f 0x58) fun v => v ||| 2 ^ h) (32 + f) 7 1 0 0) := by
  refine (onElement_of_ok _ (by simp [okF_of_lt hf, okHead_of_lt hh])).trans ?_
  simp only [habove]
  rw [if_pos ⟨hlong, by rw [hsaid]; exact Bool.false_ne_true⟩]

/-- A head that was told, or is not above its weir for 1 ms, is not told. -/
theorem exec_sustainedOverload_quiet (hf : f < 32) (hh : h < 4)
    (hquiet : ∀ t, tabGet none (getFlume s f).aboveSince h = some t →
      1000000 ≤ s.now - t → (getFlume s f).overloadSaid.contains h = true) :
    exec (.sustainedOverload f h) s = .next s := by
  refine (onElement_of_ok _ (by simp [okF_of_lt hf, okHead_of_lt hh])).trans ?_
  cases habove : tabGet none (getFlume s f).aboveSince h with
  | none => rfl
  | some t =>
    exact if_neg fun hdue => hdue.2 (hquiet t habove hdue.1)

/-- Settles O18: each of the three quiet cases leaves nothing to tell. -/
theorem overload : Obligations.Overload := by
  refine ⟨fun s f h t hf hh habove hlong hsaid => exec_sustainedOverload hf hh habove hlong hsaid,
    fun s f h hf hh hquiet => exec_sustainedOverload_quiet hf hh fun t habove hlong => ?_⟩
  rcases hquiet with hsaid | hnone | ⟨u, hu, hshort⟩
  · exact hsaid
  · rw [hnone] at habove; cases habove
  · obtain rfl := Option.some.inj (hu.symm.trans habove)
    exact absurd hlong (Nat.not_le.2 hshort)

end Sys2Proof.Machine
end

section
/-! Holding a flume (R59, R60, R436, R439). -/

namespace Sys2Proof.Machine

variable {s : State} {f : Nat}

/-- A hold or release that is taken at once: both are the same write of FLM_CTL. -/
theorem exec_holdFlume {path : Nat} {v : Word} (hp : path < 5) (hf : f < 32) (hopen : pathOpen s path = true) (hbusy : busy s f = false)
    (hawake : portAwake s f = true) : exec (.holdFlume path f v) s = .next (takeFlmCtl s f v.toNat) := by
  refine (onElement_of_ok _ (by simp [okPath_of_lt hp, okF_of_lt hf])).trans ?_
  rw [writeNow_takes hopen hbusy hawake]

theorem exec_flumeHeld (hf : f < 32) :
    exec (.flumeHeld f) s = .next (if (getFlume s f).holding && flumeDone s f then
      modFlume (forAll s [0, 1, 2, 3] fun s sc => drainWindows s (subKey f sc)) f fun x => { x with holding := false, held := true }
     else s) :=
  (onElement_of_ok _ (okF_of_lt hf)).trans (apply_ite Host.Outcome.next _ _ _).symm

/-- A flume is done where nothing it accepted, holds or asked for is left (R59). -/
theorem flumeDone_iff : flumeDone s f = true ↔
    (getFlume s f).queue = [] ∧ (getFlume s f).inflight = [] ∧ (getFlume s f).heldRows = [] ∧
      (s.leat.copies.any fun c => c.flume == f) = false ∧
      ((List.range 4).all fun sc => (getSub s (subKey f sc)).held.isEmpty) = true := by
  simp only [flumeDone, Bool.and_eq_true, List.isEmpty_iff, Bool.not_eq_true', and_assoc]

/-- Settles O19: `flumeDone_iff` tells where work is left. -/
theorem flumeHold : Obligations.FlumeHold := by
  refine ⟨fun s path f v hp hf hopen hbusy hawake => ⟨exec_holdFlume hp hf hopen hbusy hawake, rfl⟩,
    fun s f hf hholding hqueue hflight hrows hcopies hheld => ?_, fun s f hf hleft => ?_⟩ <;> rw [exec_flumeHeld hf]
  · rw [hholding, flumeDone_iff.2 ⟨hqueue, hflight, hrows, hcopies, hheld⟩]
    rfl
  · refine congrArg Host.Outcome.next (if_neg fun hgo => ?_)
    obtain ⟨hholding, hdone⟩ := Bool.and_eq_true_iff.1 hgo
    obtain ⟨hqueue, hflight, hrows, -⟩ := flumeDone_iff.1 hdone
    rcases hleft with hnot | hq | hi | hr
    · exact Bool.false_ne_true (hnot.symm.trans hholding)
    · exact hq hqueue
    · exact hi hflight
    · exact hr hrows

end Sys2Proof.Machine
end

section
/-! Refresh (R68, R74 to R80): REFRESH_DUE and OWED_REFRESH on a bus that carries refreshes, SELF_REFRESH_DUE below Trim or in the safe
state. -/

namespace Sys2Proof.Machine

variable {s : State} {f sc tier bank b : Nat}

/-! REFRESH_DUE. -/

/-- The bank's next due time is one interval of its tier's band on (R75, R77). -/
def dueMoved (s : State) (f tier b : Nat) : State :=
  modBank s b fun k => { k with dueAt := k.dueAt + refInterval (bandOf s f tier) }

/-- What postpones a refresh: a logic slice below 7 owed, or without one a waiting request below the limit (R68, R77). -/
def refreshPostponed (s : State) (f sub b : Nat) : Prop :=
  ((getSub s sub).logicSlice = true ∧ (getBank s b).owed < 7) ∨
    ((getSub s sub).logicSlice = false ∧ bankWanted s f b = true ∧ (getBank s b).owed < postponeMax s f)

theorem not_refreshPostponed_of_slice (hslice : (getSub s sc).logicSlice = true) (howed : 7 ≤ (getBank s b).owed) :
    ¬ refreshPostponed s f sc b := by
  rintro (⟨-, hlow⟩ | ⟨hnone, -⟩)
  · exact Nat.not_lt.2 howed hlow
  · exact Bool.false_ne_true (hnone.symm.trans hslice)

theorem not_refreshPostponed_of_no_slice (hslice : (getSub s sc).logicSlice = false)
    (hissue : bankWanted s f b = false ∨ postponeMax s f ≤ (getBank s b).owed) : ¬ refreshPostponed s f sc b := by
  rintro (⟨hrun, -⟩ | ⟨-, hwanted, hlow⟩)
  · exact Bool.false_ne_true (hslice.symm.trans hrun)
  · rcases hissue with hfree | hlimit
    · exact Bool.false_ne_true (hfree.symm.trans hwanted)
    · exact Nat.not_lt.2 hlimit hlow

theorem refresh_not_barred (hdue : (getBank s b).dueAt ≤ s.now) (hbus : busRefresh s f sc tier = true) :
    ¬ (s.now < (getBank s b).dueAt ∨ ¬ busRefresh s f sc tier = true) := by
  simp [hbus, Nat.not_lt.2 hdue]

theorem exec_refreshDue_postponed (hf : f < 32) (hs : sc < 4) (ht : tier < 17) (hb : bank < 16)
    (hdue : (getBank s (bankKey f sc tier bank)).dueAt ≤ s.now) (hbus : busRefresh s f sc tier = true)
    (hpost : refreshPostponed s f (subKey f sc) (bankKey f sc tier bank)) :
    exec (.refreshDue f sc tier bank) s =
      .next (postpone (dueMoved s f tier (bankKey f sc tier bank)) f (bankKey f sc tier bank)) := by
  refine (onElement_of_ok _ (okBank_of_lt hf hs ht hb)).trans ?_
  refine (if_neg (refresh_not_barred hdue hbus)).trans ?_
  rcases hpost with hslice | ⟨hslice, hwanted, hlow⟩
  · exact if_pos hslice
  · simp only [hslice, hwanted, hlow]
    rfl

theorem exec_refreshDue_issued (hf : f < 32) (hs : sc < 4) (ht : tier < 17) (hb : bank < 16)
    (hdue : (getBank s (bankKey f sc tier bank)).dueAt ≤ s.now) (hbus : busRefresh s f sc tier = true)
    (hpost : ¬ refreshPostponed s f (subKey f sc) (bankKey f sc tier bank)) :
    exec (.refreshDue f sc tier bank) s = .next (abandonSlice
      (modBank (dueMoved s f tier (bankKey f sc tier bank)) (bankKey f sc tier bank) fun k => { k with refDue := k.refDue + 1 })
      (subKey f sc)) := by
  refine (onElement_of_ok _ (okBank_of_lt hf hs ht hb)).trans ?_
  obtain ⟨hbehind, hwait⟩ := not_or.1 hpost
  exact (if_neg (refresh_not_barred hdue hbus)).trans <| (if_neg hbehind).trans <|
    if_neg fun ⟨hnone, hwanted⟩ => hwait ⟨eq_false_of_ne_true hnone, hwanted⟩

theorem exec_refreshDue_not_due (hf : f < 32) (hs : sc < 4) (ht : tier < 17) (hb : bank < 16)
    (hnot : s.now < (getBank s (bankKey f sc tier bank)).dueAt ∨ busRefresh s f sc tier = false) :
    exec (.refreshDue f sc tier bank) s = .next s :=
  (onElement_of_ok _ (okBank_of_lt hf hs ht hb)).trans <| if_pos <| hnot.imp_right fun hoff => by simp [hoff]

theorem getBank_scEvent (off : Nat) (g : Nat → Nat) : getBank (scEvent s off g) b = getBank s b := by
  rw [getBank, scEvent, regSet_banks, getBank]

/-- A postponed refresh counts as owed (R77). -/
theorem owed_postpone (w : s.wf) : (getBank (postpone s f b) b).owed = (getBank s b).owed + 1 := by
  have hset := getBank_modBank_self s b (fun k => { k with owed := (getBank s b).owed + 1 }) w.banks
  simp only [postpone]
  split
  · rw [getBank_scEvent, hset]
  · rw [hset]

/-! OWED_REFRESH. -/

/-- The owed refreshes that become due: at the limit all that are not yet, below it one (R78). -/
def owedMade (s : State) (f b : Nat) : State :=
  modBank s b fun k =>
    let n := if postponeMax s f ≤ (getBank s b).owed then (getBank s b).owed - (getBank s b).owedDue else 1
    { k with refDue := k.refDue + n, owedDue := k.owedDue + n }

theorem exec_owedRefresh (hf : f < 32) (hs : sc < 4) (ht : tier < 17) (hb : bank < 16) (hbus : busRefresh s f sc tier = true)
    (hslice : (getSub s (subKey f sc)).logicSlice = false)
    (hmore : (getBank s (bankKey f sc tier bank)).owedDue < (getBank s (bankKey f sc tier bank)).owed)
    (hmake : postponeMax s f ≤ (getBank s (bankKey f sc tier bank)).owed ∨
      bankWanted s f (bankKey f sc tier bank) = false ∧ (getBank s (bankKey f sc tier bank)).owedDue = 0) :
    exec (.owedRefresh f sc tier bank) s = .next (owedMade s f (bankKey f sc tier bank)) := by
  refine (onElement_of_ok _ (okBank_of_lt hf hs ht hb)).trans ?_
  refine (if_neg (by simp [hbus, hslice, Nat.not_le.2 hmore])).trans ?_
  rw [owedMade]
  by_cases hlimit : postponeMax s f ≤ (getBank s (bankKey f sc tier bank)).owed
  · simp only [if_pos hlimit]
  · obtain ⟨hfree, hnone⟩ := hmake.resolve_left hlimit
    simp only [if_neg hlimit, hfree, hnone]
    rfl

theorem exec_owedRefresh_none (hf : f < 32) (hs : sc < 4) (ht : tier < 17) (hb : bank < 16)
    (hnone : (getBank s (bankKey f sc tier bank)).owed ≤ (getBank s (bankKey f sc tier bank)).owedDue ∨
      (getSub s (subKey f sc)).logicSlice = true) :
    exec (.owedRefresh f sc tier bank) s = .next s :=
  (onElement_of_ok _ (okBank_of_lt hf hs ht hb)).trans <| if_pos <| hnone.imp_right .inr

/-! SELF_REFRESH_DUE. -/

/-- The tier refreshes the bank's next rows, and its next due time is an interval of a band on (R72, R80). -/
def selfRefreshed (s : State) (b band : Nat) : State :=
  modBank s b fun k => { k with rowCtr := (k.rowCtr + 1) % 1028, dueAt := k.dueAt + refInterval band }

/-- A tier outside Run and Trim, or in the safe state, refreshes a due bank; in Brake its band follows its own sensors first. -/
theorem exec_selfRefreshDue (hf : f < 32) (hs : sc < 4) (ht : tier < 17) (hb : bank < 16)
    (hdue : (getBank s (bankKey f sc tier bank)).dueAt ≤ s.now) (hbay : bayOut s f sc tier = false)
    (hself : 2 ≤ (getFlume s f).pstate ∨ s.flt.safe = true) :
    exec (.selfRefreshDue f sc tier bank) s = .next
      (let t := if (getFlume s f).pstate = 4 then brakeStep s f tier else s
       selfRefreshed t (bankKey f sc tier bank) (selfBand t f tier)) := by
  refine (onElement_of_ok _ (okBank_of_lt hf hs ht hb)).trans <| if_neg ?_
  rintro (hearly | hout | ⟨hbus, hsafe⟩)
  · exact Nat.not_lt.2 hdue hearly
  · exact Bool.false_ne_true (hbay.symm.trans hout)
  · exact hself.elim (fun hlow => absurd hbus (Nat.not_le.2 hlow)) hsafe

theorem exec_selfRefreshDue_none (hf : f < 32) (hs : sc < 4) (ht : tier < 17) (hb : bank < 16)
    (hnone : s.now < (getBank s (bankKey f sc tier bank)).dueAt ∨ bayOut s f sc tier = true ∨
      (getFlume s f).pstate ≤ 1 ∧ s.flt.safe = false) :
    exec (.selfRefreshDue f sc tier bank) s = .next s :=
  (onElement_of_ok _ (okBank_of_lt hf hs ht hb)).trans <| if_pos <|
    hnone.imp_right fun h => h.imp_right fun ⟨hrun, hsafe⟩ => ⟨hrun, by simp [hsafe]⟩

/-- Settles O23: `refreshPostponed` splits a due refresh, the limit an owed one, Brake a self-refresh. -/
theorem refreshWork : Obligations.RefreshWork := by
  refine ⟨fun s f sc tier bank hf hs ht hb hdue hbus hissue => ?_,
    fun s f sc tier bank hf hs ht hb hdue hbus hpost => exec_refreshDue_postponed hf hs ht hb hdue hbus hpost,
    fun s f sc tier bank hf hs ht hb hnot => exec_refreshDue_not_due hf hs ht hb hnot,
    fun s f sc tier bank hf hs ht hb hbus hslice hmore hmake => exec_owedRefresh hf hs ht hb hbus hslice hmore hmake,
    fun s f sc tier bank hf hs ht hb hnone => exec_owedRefresh_none hf hs ht hb hnone,
    fun s f sc tier bank hf hs ht hb hdue hbay hself hbrake => ?_, fun s f sc tier bank hf hs ht hb hdue hbay hbrake => ?_,
    fun s f sc tier bank hf hs ht hb hnone => exec_selfRefreshDue_none hf hs ht hb hnone,
    fun s f b w => ⟨owed_postpone w, rfl, rfl, rfl⟩⟩
  · refine exec_refreshDue_issued hf hs ht hb hdue hbus ?_
    rcases hissue with ⟨hslice, howed⟩ | ⟨hslice, hissue⟩
    · exact not_refreshPostponed_of_slice hslice howed
    · exact not_refreshPostponed_of_no_slice hslice hissue
  · rw [exec_selfRefreshDue hf hs ht hb hdue hbay hself, if_neg hbrake]
    simp only [selfRefreshed, selfBand, if_neg hbrake]
  · rw [exec_selfRefreshDue hf hs ht hb hdue hbay (.inl (by omega)), if_pos hbrake]
    rfl

end Sys2Proof.Machine
end

section
/-! Canary sweeps and retention scrubs (R83 to R85, R87, R88). -/

namespace Sys2Proof.Machine

variable {s : State} {f sc tier bank : Nat} {env : OpEnv}

/-- A sweep is due: 256 ms after start-up and after the sweep before, in an open flume in Run (R85). -/
def sweepDue (s : State) (f : Nat) : Prop :=
  flumeOpen s f = true ∧ (getFlume s f).pstate = 0 ∧ max s.boot.since (getFlume s f).sweepAt + sweepGap ≤ s.now

theorem sweepDue_iff : (flumeOpen s f && decide ((getFlume s f).pstate = 0) &&
    decide (max s.boot.since (getFlume s f).sweepAt + sweepGap ≤ s.now)) = true ↔ sweepDue s f := by
  simp only [sweepDue, Bool.and_eq_true, decide_eq_true_eq, and_assoc]

/-- The sweep of one tier: its grades, then each of its failing banks (R84, R85). -/
def tierSwept (s : State) (f : Nat) (env : OpEnv) (t : Nat) : State :=
  let r := canaryTier s f t env false
  r.2.1.foldl (fun s k => failInRun s f t env k) (gradeTier r.2.2 f t r.1 r.2.1 true)

theorem exec_canarySweep (hf : f < 32) (hdue : sweepDue s f) :
    exec (.canarySweep f env) s = .next
      (forAll (modFlume (lookups s env) f fun x => { x with sweepAt := s.now }) (upFrom 0 17) fun s t => tierSwept s f env t) :=
  (onElement_of_ok _ (okF_of_lt hf)).trans <| if_pos (sweepDue_iff.2 hdue)

theorem exec_canarySweep_not_due (hf : f < 32) (hnot : ¬ sweepDue s f) : exec (.canarySweep f env) s = .next s :=
  (onElement_of_ok _ (okF_of_lt hf)).trans <| if_neg (mt sweepDue_iff.1 hnot)

/-- The bank's rows in service and its spare rows are scrubbed, and it enters service (R87). -/
def bankScrubbed (s : State) (f sc tier bank : Nat) (env : OpEnv) : State :=
  modBank (forAll (scrubRows (lookups s env) f sc tier bank (upFrom 0 8192) env true) (upFrom 8192 32)
    fun s row => scrubSpare s (bankKey f sc tier bank) row env.flips) (bankKey f sc tier bank) fun k => { k with scrubbing := false }

/-- The mirrored lines of a scrubbed bank are asked for again, with notice where the partner cannot give one back (R88). -/
def bankRefetched (s : State) (f sc tier bank : Nat) : State :=
  if (bankLines s f sc tier bank).any fun l => refetchFails s f l then
    mirrorNotice ((bankLines s f sc tier bank).foldl (fun s l => refetchLine s f l) s)
  else (bankLines s f sc tier bank).foldl (fun s l => refetchLine s f l) s

theorem exec_retentionScrubDone (hf : f < 32) (hs : sc < 4) (ht : tier < 17) (hb : bank < 16)
    (hscrub : (getBank s (bankKey f sc tier bank)).scrubbing = true) :
    exec (.retentionScrubDone f sc tier bank env) s = .next (bankRefetched (bankScrubbed s f sc tier bank env) f sc tier bank) :=
  (onElement_of_ok _ (okBank_of_lt hf hs ht hb)).trans <| if_neg (by simp [hscrub])

theorem exec_retentionScrubDone_none (hf : f < 32) (hs : sc < 4) (ht : tier < 17) (hb : bank < 16)
    (hscrub : (getBank s (bankKey f sc tier bank)).scrubbing = false) :
    exec (.retentionScrubDone f sc tier bank env) s = .next s :=
  (onElement_of_ok _ (okBank_of_lt hf hs ht hb)).trans <| if_pos (by simp [hscrub])

/-- Settles O24: `sweepDue` is the condition of a sweep, the bank's `scrubbing` that of a scrub's end. -/
theorem canaryAndScrub : Obligations.CanaryAndScrub := by
  refine ⟨fun s f env hf hopen hrun htime => exec_canarySweep hf ⟨hopen, hrun, htime⟩,
    fun s f env hf hnot => exec_canarySweep_not_due hf ?_,
    fun s f sc tier bank env hf hs ht hb hscrub => ⟨_, rfl, exec_retentionScrubDone hf hs ht hb hscrub⟩,
    fun s f sc tier bank env hf hs ht hb hscrub => exec_retentionScrubDone_none hf hs ht hb hscrub⟩
  rintro ⟨hopen, hrun, htime⟩
  rcases hnot with hshut | hlow | hsoon
  · exact Bool.false_ne_true (hshut.symm.trans hopen)
  · exact hlow hrun
  · exact Nat.not_le.2 hsoon htime

end Sys2Proof.Machine
end

section
/-! Power states (R80, R86, R390, R395 to R398): evaluation, hold-off, entry and wake of a flume and of the device. -/

namespace Sys2Proof.Machine

variable {s : State} {f st t path : Nat} {v : Word} {tallyOk ok : Bool} {passes : List PassRes} {env : OpEnv}

/-! SEQUENCER_EVALUATION of a flume. -/

theorem exec_sequencerEvaluation_flume (hf : f < 32) : exec (.sequencerEvaluation (some f) tallyOk) s = .next (evalFlume s f) :=
  onElement_of_ok _ (okF_of_lt hf)

/-- A flume that may enter a state deeper than its own begins the entry where every domain agrees (R396, R397). -/
def flumeAsks (s : State) (f st : Nat) : State :=
  match flumeRefuses s f st with
  | some r => noteRefusal (modFlume s f fun x => { x with holdoff := some (st, holdoffEnd s) }) st r
  | none => modFlume s f fun x => { x with entering := some st }

theorem evalFlume_asks (hsafe : s.flt.safe = false) (hentry : (getFlume s f).entering = none) (hwake : (getFlume s f).waking = false)
    (hon : bitOf (regGet s (oPwr 0)).toNat 0 = true) (hchoice : flumeChoice s f = some st) (hdeeper : (getFlume s f).pstate < st) :
    evalFlume s f = flumeAsks s f st := by
  simp only [evalFlume, hsafe, hentry, hwake, hon, hchoice, if_neg (Nat.not_le.2 hdeeper)]
  rfl

/-- A flume in the safe state, on its way to a state or back, or without a choice stays as it is. -/
theorem evalFlume_stays (hon : bitOf (regGet s (oPwr 0)).toNat 0 = true)
    (hstay : s.flt.safe = true ∨ (getFlume s f).entering.isSome = true ∨ (getFlume s f).waking = true ∨ flumeChoice s f = none) :
    evalFlume s f = s := by
  simp only [evalFlume, hon, Bool.not_true, Bool.false_eq_true, if_false]
  rcases hstay with hsafe | hentry | hwake | hnone
  · simp only [hsafe, Bool.true_or, if_true]
  · simp only [hentry, Bool.or_true, Bool.true_or, if_true]
  · simp only [hwake, Bool.or_true, if_true]
  · simp only [hnone, ite_self]

/-! HOLDOFF_EXPIRY. -/

theorem exec_holdoffExpiry_flume (hf : f < 32) (hhold : (getFlume s f).holdoff = some (st, t)) :
    exec (.holdoffExpiry (some f)) s = .next (if t ≤ s.now then modFlume s f fun x => { x with holdoff := none } else s) := by
  refine (onElement_of_ok _ (okF_of_lt hf)).trans ?_
  simp only [hhold, decide_eq_true_eq]

theorem exec_holdoffExpiry_flume_none (hf : f < 32) (hhold : (getFlume s f).holdoff = none) :
    exec (.holdoffExpiry (some f)) s = .next s := by
  refine (onElement_of_ok _ (okF_of_lt hf)).trans ?_
  simp only [hhold, Bool.false_eq_true, if_false]

theorem exec_holdoffExpiry_device (hhold : s.pwr.holdoff = some (st, t)) (hpast : t ≤ s.now) :
    exec (.holdoffExpiry none) s = .next { s with pwr := { s.pwr with holdoff := none } } := by
  change execHoldoffExpiry none s = _
  simp only [execHoldoffExpiry, hhold, decide_eq_true hpast, if_true]

/-! POWER_ENTRY_COMPLETE. -/

theorem exec_powerEntryComplete_flume (hf : f < 32) (hentry : (getFlume s f).entering = some st) :
    exec (.powerEntryComplete (some f)) s = .next (enterFlume s f st) := by
  refine (onElement_of_ok _ (okF_of_lt hf)).trans ?_
  simp only [hentry]

/-- A state above Brake takes nothing of the flume but what it owes (R80, R397). -/
theorem enterFlume_of_ne_brake (hne : st ≠ 4) :
    enterFlume s f st = modFlume (payAll s fun b => bankFlume b == f) f fun x => { x with pstate := st, entering := none } :=
  if_neg hne

theorem exec_powerEntryComplete_device (hentry : s.pwr.entering = some st) :
    exec (.powerEntryComplete none) s = .next (enterDevice s st) := by
  change execPowerEntryComplete none s = _
  simp only [execPowerEntryComplete, hentry]

theorem enterDevice_of_ne_brake (hne : st ≠ 4) :
    enterDevice s st = { s with pwr := { s.pwr with dstate := st, entering := none } } := if_neg hne

/-! FLUME_WAKE and DEVICE_WAKE. -/

/-- A latched wake runs where no entry is under way (R398). -/
theorem exec_flumeWake (hf : f < 32) (hwake : (getFlume s f).waking = true) (hentry : (getFlume s f).entering = none)
    (hsafe : s.flt.safe = false) : exec (.flumeWake f passes env) s = .next (wakeFlumeNow s f passes env) :=
  (onElement_of_ok _ (okF_of_lt hf)).trans <| if_pos (by simp [hwake, hentry, hsafe])

theorem exec_flumeWake_none (hf : f < 32) (hwake : (getFlume s f).waking = false) :
    exec (.flumeWake f passes env) s = .next s :=
  (onElement_of_ok _ (okF_of_lt hf)).trans <| if_neg (by simp [hwake])

/-- Leaving self-refresh takes no time in the model. -/
theorem leaveSelfRefresh_now (s : State) (f : Nat) : (leaveSelfRefresh s f).now = s.now :=
  (leaveSelfRefresh_within (w_ := 2 ^ 8) (by decide) s f (.refl _ s)).now

theorem wakeFlumeNow_feather (hst : (getFlume s f).pstate = 2) :
    wakeFlumeNow s f passes env = flumeRuns (leaveSelfRefresh s f) f := by
  rw [wakeFlumeNow, hst]
  rfl

/-- From Furl the banks are checked before the flume runs (R86). -/
theorem wakeFlumeNow_furl (hst : (getFlume s f).pstate = 3) :
    wakeFlumeNow s f passes env = flumeRuns (wakeCheck (leaveSelfRefresh s f) f env) f := by
  rw [wakeFlumeNow, hst]
  rfl

/-- The device wakes from a state above Brake to Run. -/
theorem exec_deviceWake (hwake : s.pwr.waking = true) (hentry : s.pwr.entering = none) (hsafe : s.flt.safe = false)
    (hst : s.pwr.dstate ≠ 4) : exec (.deviceWake ok) s = .next (deviceRuns s) := by
  change execDeviceWake ok s = _
  simp only [execDeviceWake, hwake, hentry, hsafe, if_neg hst]
  rfl

theorem exec_deviceWake_none (hwake : s.pwr.waking = false) : exec (.deviceWake ok) s = .next s := by
  change execDeviceWake ok s = _
  simp only [execDeviceWake, hwake]
  rfl

/-! RUN_REQ_WRITE. -/

/-- A write that is taken stores the word and wakes the flumes it names (R398). -/
theorem exec_runReqWrite (hp : path < 5) (hopen : pathOpen s path = true) (hbusy : busy s 198 = false) (hawake : portAwake s 198 = true) :
    exec (.runReqWrite path v) s = .next (forAll (regSet s (oPwr 0x20) v) ((List.range 32).filter fun f => bitOf v.toNat f) wakeFlume) := by
  refine (onElement_of_ok _ (okPath_of_lt hp)).trans ?_
  rw [writeNow_takes hopen hbusy hawake, takeRunReq, BitVec.ofNat_toNat, BitVec.setWidth_eq]

/-- Settles O41: an evaluation is `evalFlume`, an entry `enterFlume` or `enterDevice`, a wake `wakeFlumeNow` or `deviceRuns`. -/
theorem powerStates : Obligations.PowerStates := by
  refine ⟨fun s tallyOk => rfl, fun s f st tallyOk hf hsafe hentry hwake hon hchoice hdeeper => ?_,
    fun s f tallyOk hf hon hstay => ?_, fun s f t st hf hhold hpast => ?_,
    fun s t st hhold hpast => exec_holdoffExpiry_device hhold hpast, fun s f t st hf hnot => ?_,
    fun s f st hf hentry hne => ?_, fun s st hentry hne => ?_, fun s f passes env hf hwake hentry hsafe hst => ?_,
    fun s f passes env hf hwake hentry hsafe hst => ?_,
    fun s ok hwake hentry hsafe hst => exec_deviceWake hwake hentry hsafe hst,
    fun s f passes env ok hf hflume hdevice => ⟨exec_flumeWake_none hf hflume, exec_deviceWake_none hdevice⟩,
    fun s path v hp hopen hbusy hawake => exec_runReqWrite hp hopen hbusy hawake⟩
  · rw [exec_sequencerEvaluation_flume hf, evalFlume_asks hsafe hentry hwake hon hchoice hdeeper]
    rfl
  · rw [exec_sequencerEvaluation_flume hf, evalFlume_stays hon hstay]
  · rw [exec_holdoffExpiry_flume hf hhold, if_pos hpast]
  · rcases hnot with hnone | ⟨hhold, hearly⟩
    · exact exec_holdoffExpiry_flume_none hf hnone
    · rw [exec_holdoffExpiry_flume hf hhold, if_neg (Nat.not_le.2 hearly)]
  · rw [exec_powerEntryComplete_flume hf hentry, enterFlume_of_ne_brake hne]
  · rw [exec_powerEntryComplete_device hentry, enterDevice_of_ne_brake hne]
  · rw [exec_flumeWake hf hwake hentry hsafe, wakeFlumeNow_feather hst, flumeRuns, leaveSelfRefresh_now]
  · rw [exec_flumeWake hf hwake hentry hsafe, wakeFlumeNow_furl hst]

end Sys2Proof.Machine
end

section
/-! Rails (R81, R361, R384, R385, R469): out of their window and back, brown-out and undervoltage of VDD_AUX, and sequence errors. -/

namespace Sys2Proof.Machine

variable {s : State} {r t : Nat} {env : StartEnv}

/-! RAIL_OUT_OF_WINDOW. -/

/-- Rail `rail` is latched as out of its window: the condition line and the fatal fault (2, 0) (R384). -/
def railLatched (s : State) (rail : Nat) : State :=
  raise (setLine (scEvent { s with pwr := { s.pwr with railsOut := insertNat rail s.pwr.railsOut } } (oPwr 0x4C) fun v =>
    putBits v rail rail 1) 2 0 true) 2 0 3 0 rail

theorem exec_railOutOfWindow (hr : r < 7) (hlatch : r ≠ 0 ∨ stretching s = false) :
    exec (.railOutOfWindow r) s = .next (railLatched s r) := by
  refine (onElement_of_ok _ (decide_eq_true (by omega))).trans ?_
  have hnot : ¬ (r = 0 ∧ stretching s = true) := fun ⟨hzero, hyoung⟩ =>
    hlatch.elim (fun hne => hne hzero) fun hold => Bool.false_ne_true (hold.symm.trans hyoung)
  refine (if_neg hnot).trans ?_
  simp only [if_pos hr, railLatched]

/-- A tier rail that leaves its retention window loses the array as well (R81). -/
theorem exec_railOutOfWindow_retention (hr : r = 7 ∨ r = 8) :
    exec (.railOutOfWindow r) s = .next (railLatched (loseArray s) (r - 3)) := by
  refine (onElement_of_ok _ (decide_eq_true (by omega))).trans ?_
  have hnot : ¬ (r = 0 ∧ stretching s = true) := fun h => by omega
  have hlong : ¬ r < 7 := by omega
  refine (if_neg hnot).trans ?_
  simp only [if_neg hlong, railLatched]

/-! RAIL_WINDOW_RETURN. -/

/-- A rail that returns changes the power part and the line of (2, 0) alone (R384, R419). -/
theorem railBack_frame (s : State) (r : Nat) : Within (2 ^ 25 + 2 ^ 28) s (railBack s r) := railBack_within (by decide) s r (.refl _ s)

theorem railBack_boot (s : State) (r : Nat) : (railBack s r).boot = s.boot := (railBack_frame s r).boot (by decide)

theorem railBack_railsOut (s : State) (r : Nat) : (railBack s r).pwr.railsOut = s.pwr.railsOut.filter (· != r) := by
  simp only [railBack]
  split
  · rw [(setLine_within (w_ := 2 ^ 25) (by decide) _ 2 0 false (.refl _ _)).pwr (by decide)]
  · rfl

/-- The line goes quiet when the last rail is back. -/
theorem railBack_last (hlast : s.pwr.railsOut.filter (· != r) = []) :
    railBack s r = setLine { s with pwr := { s.pwr with railsOut := [] } } 2 0 false := by
  simp only [railBack, hlast, List.isEmpty_nil, if_true]

/-- Start-up that waited for the last rail goes on as it returns; else nothing more happens (R469). -/
theorem exec_railWindowReturn (hr : r < 7) :
    exec (.railWindowReturn r env) s = .next
      (if (s.pwr.railsOut.filter (· != r)).isEmpty && s.boot.early.isSome && !heldInReset (railBack s r) then
        startSteps { railBack s r with boot := { (railBack s r).boot with early := none, since := s.now } } env
       else railBack s r) := by
  refine (onElement_of_ok _ (decide_eq_true hr)).trans ?_
  simp only [railBack_railsOut, railBack_boot, (railBack_frame s r).now]

/-! A device held in reset. -/

/-- What a reset keeps and clears (R361). -/
theorem resetKeep_parts (s : State) : (resetKeep s).mem = s.mem ∧ (resetKeep s).tally = s.tally ∧
    (resetKeep s).fuses.normal = s.fuses.normal ∧ (resetKeep s).regs = [] ∧ (resetKeep s).regions = [] ∧ (resetKeep s).flumes = [] :=
  ⟨rfl, rfl, rfl, rfl, rfl, rfl⟩

theorem exec_sequenceError (hr : r < 7) (hstep : s.boot.step = 1) (hfirst : s.boot.seqError = false) :
    exec (.sequenceError r) s = .next (haltSequence s) := by
  refine (onElement_of_ok _ (decide_eq_true hr)).trans ?_
  rw [if_pos ⟨hstep, hfirst⟩]

theorem exec_earlyReleaseTimeout (hwait : s.boot.early = some t) :
    exec .earlyReleaseTimeout s = .next (if t + oneSecond ≤ s.now ∧ s.boot.seqError = false then haltSequence s else s) := by
  change execEarlyReleaseTimeout s = _
  simp only [execEarlyReleaseTimeout, hwait]

theorem exec_earlyReleaseTimeout_none (hwait : s.boot.early = none) : exec .earlyReleaseTimeout s = .next s := by
  change execEarlyReleaseTimeout s = _
  simp only [execEarlyReleaseTimeout, hwait]

/-- Settles O42: a rail is latched by `railLatched` and returns by `railBack`; start-up halts by `haltSequence`. -/
theorem rails : Obligations.Rails := by
  refine ⟨fun s r hr hlatch => exec_railOutOfWindow hr hlatch,
    fun s r hr => ⟨exec_railOutOfWindow_retention hr, rfl, Nat.succ_pos _⟩,
    fun s r env hr hwait => ⟨?_, railBack_railsOut s r, railBack_last⟩,
    fun s r t env hr hlast hwait hfree => ?_, fun s => rfl, fun s => ⟨rfl, resetKeep_parts s⟩,
    fun s r hr hstep hfirst => exec_sequenceError hr hstep hfirst, fun s t hwait hlate hfirst => ?_, fun s t hnot => ?_⟩
  · rw [exec_railWindowReturn hr, if_neg]
    rcases hwait with hleft | hnone
    · simp [List.isEmpty_eq_false_iff.2 hleft]
    · simp [hnone]
  · rw [exec_railWindowReturn hr, if_pos]
    simp only [hlast, hwait, hfree]
    rfl
  · rw [exec_earlyReleaseTimeout hwait, if_pos ⟨hlate, hfirst⟩]
    rfl
  · rcases hnot with hnone | ⟨hwait, hearly⟩
    · exact exec_earlyReleaseTimeout_none hnone
    · rw [exec_earlyReleaseTimeout hwait, if_neg fun hdue => Nat.not_le.2 hearly hdue.1]

end Sys2Proof.Machine
end

section
/-! The error tracker's timers (R103, R104). -/

namespace Sys2Proof.Machine

/-- Settles O22: each timer is one filter, and the model's `oneSecond` is the statement's 1,000,000,000 ns. -/
theorem trackerExpiry : Obligations.TrackerExpiry :=
  ⟨fun _ _ _ hf => onElement_of_ok _ (okF_of_lt hf), fun _ _ _ hf => onElement_of_ok _ (okF_of_lt hf)⟩

end Sys2Proof.Machine
end

section
/-! The tally records of remaps and repairs (R105, R305, R306, R346, R350, R457): the copies of a record, then its two writers. -/

namespace Sys2Proof.Machine

variable {s : State} {f : Nat} {ok : Bool} {α : Type} {c : Copies α}

/-! What a record gives is the copy with the higher generation, and a write makes that copy. -/

theorem bestCopy_of_a_newest (hgood : c.a.good = true) (hgen : c.b.gen ≤ c.a.gen) : bestCopy c = some c.a.val := by
  simp [bestCopy, bestOf, hgood, hgen]

theorem bestCopy_of_b_newest (hgood : c.b.good = true) (hgen : c.a.gen < c.b.gen) : bestCopy c = some c.b.val := by
  simp [bestCopy, bestOf, hgood, Nat.not_le.2 hgen]

/-- A write replaces the copy that fails, else the older one, by a good one of the higher generation plus 1 (R305). -/
theorem putCopy_some (c : Copies α) (v : α) :
    putCopy (some c) v = if c.a.good = false ∨ c.b.good = true ∧ c.a.gen < c.b.gen
      then { c with a := ⟨max c.a.gen c.b.gen + 1, true, v⟩ } else { c with b := ⟨max c.a.gen c.b.gen + 1, true, v⟩ } := by
  cases ha : c.a.good <;> cases hb : c.b.good <;> simp [putCopy, ha, hb]

/-- Reading a record back gives what was written last (R306). -/
theorem bestCopy_putCopy (old : Option (Copies α)) (v : α) : bestCopy (putCopy old v) = some v := by
  cases old with
  | none => exact bestCopy_of_a_newest rfl (Nat.zero_le 1)
  | some c =>
    rw [putCopy_some]
    split
    · exact bestCopy_of_a_newest rfl (Nat.le_succ_of_le (Nat.le_max_right _ _))
    · exact bestCopy_of_b_newest rfl (Nat.lt_succ_of_le (Nat.le_max_left _ _))

/-! REMAP_TALLY_WRITE and REPAIR_TALLY_WRITE on a flume that exists. -/

/-- An unchanged remap table is not written; a changed one goes to its record, or the failure is counted (R105, R457). -/
theorem exec_remapTallyWrite (hf : f < 32) :
    exec (.remapTallyWrite f ok) s = .next (if (getFlume s f).remapDirty = false then s
      else if ok = true then { (modFlume s f fun x => { x with remapDirty := false }) with
          tally := { s.tally with remap := tabMod none s.tally.remap f fun o => some (putCopy o (getFlume s f).remap) } }
      else tallyFail (modFlume s f fun x => { x with remapDirty := false }) 4) := by
  refine (onElement_of_ok _ (okF_of_lt hf)).trans ?_
  cases hdirty : (getFlume s f).remapDirty
  · rfl
  · cases ok
    · simp only [Bool.not_true, Bool.false_eq_true, Bool.true_eq_false, reduceIte]
    · rfl

/-- The repairs of a flume's record with those that are to go there. -/
def allRepairs (s : State) (f : Nat) : List (BitVec 64) := (softOf s f).entries ++ (getFlume s f).repairsDue

/-- The state with no repair of a flume left to record. -/
def repairsTaken (s : State) (f : Nat) : State := modFlume s f fun x => { x with repairsDue := [] }

/-- The state with a flume's soft-repair record written. -/
def repairsWritten (s : State) (f : Nat) : State :=
  { repairsTaken s f with tally := putSoft s.tally f ⟨(allRepairs s f).take 1024, flumeErasures s f⟩ }

/-- A record that is up to date is not written; another is, up to 1,024 repairs, or the failure is counted (R346, R350, R457). -/
theorem exec_repairTallyWrite (hf : f < 32) :
    exec (.repairTallyWrite f ok) s =
      .next (if (getFlume s f).repairsDue = [] ∧ (softOf s f).erasures = flumeErasures s f then s
        else if ok = true then
          if 1024 < (allRepairs s f).length then event (repairsWritten s f) 10 1 1 0 3 else repairsWritten s f
        else tallyFail (repairsTaken s f) 3) := by
  refine (onElement_of_ok _ (okF_of_lt hf)).trans ?_
  by_cases hdone : (getFlume s f).repairsDue = [] ∧ (softOf s f).erasures = flumeErasures s f
  · simp only [if_pos hdone]
  · simp only [if_neg hdone]
    cases ok <;> rfl

/-- Settles O25: the clauses are the branches of the two commands, and `bestCopy_putCopy` reads the record back. -/
theorem repairRecords : Obligations.RepairRecords := by
  refine ⟨fun s f hf hdirty => ⟨?_, ?_⟩, fun s f hf hwork => ⟨repairsWritten s f, rfl,
      fun (hfits : (allRepairs s f).length ≤ 1024) => ?_, fun (hmany : 1024 < (allRepairs s f).length) => ?_, ?_⟩,
    fun s f ok hf hclean hnone hsame => ⟨?_, ?_⟩, bestCopy_putCopy⟩
  · simp [exec_remapTallyWrite hf, hdirty]
  · simp [exec_remapTallyWrite hf, hdirty]
  · rw [exec_repairTallyWrite hf, if_neg (not_and_of_not_or_not hwork), if_pos rfl, if_neg (Nat.not_lt.2 hfits)]
  · rw [exec_repairTallyWrite hf, if_neg (not_and_of_not_or_not hwork), if_pos rfl, if_pos hmany]
  · rw [exec_repairTallyWrite hf, if_neg (not_and_of_not_or_not hwork), if_neg Bool.false_ne_true]
    rfl
  · rw [exec_remapTallyWrite hf, if_pos hclean]
  · rw [exec_repairTallyWrite hf, if_pos ⟨hnone, hsame⟩]

end Sys2Proof.Machine
end

section
/-! The three copies of the poison mark (R92, R94). -/

namespace Sys2Proof.Machine

variable {s : State} {d : Decoded}

/-- The metadata byte depends on the CXL metadata through two bits only, so its 16 values show where the poison copies stand. -/
theorem bitOf_mdMake (cxl : Nat) (dirty poison : Bool) :
    bitOf (mdMake cxl dirty poison) 0 = poison ∧ bitOf (mdMake cxl dirty poison) 3 = poison ∧
      bitOf (mdMake cxl dirty poison) 6 = poison := by
  have hbytes : ∀ k < 4, ∀ dirty poison : Bool, bitOf (mdMake k dirty poison) 0 = poison ∧
      bitOf (mdMake k dirty poison) 3 = poison ∧ bitOf (mdMake k dirty poison) 6 = poison := by decide
  have hmod : mdMake (cxl % 4) dirty poison = mdMake cxl dirty poison := by simp only [mdMake, Nat.mod_mod]
  exact hmod ▸ hbytes (cxl % 4) (Nat.mod_lt _ (by decide)) dirty poison

/-- The copies are split where one of the last two differs from the first. -/
theorem poisonSplit_iff {md : Nat} : poisonSplit md = true ↔ bitOf md 0 ≠ bitOf md 3 ∨ bitOf md 0 ≠ bitOf md 6 := by
  unfold poisonSplit poisonCopies
  cases bitOf md 0 <;> cases bitOf md 3 <;> cases bitOf md 6 <;> decide

/-- Split copies count as one corrected word and the line is to be rewritten with the majority (R94); `settlePoison_agree` is the other case. -/
theorem settlePoison_split {f line dpaLine region : Nat} (hgood : d.bad = false) (hsplit : poisonSplit d.md = true) :
    settlePoison s f line d dpaLine region = queueWriteBack (bumpTotal s f 0) f line d.data (settledMd d) dpaLine region := by
  simp [settlePoison, settledMd, hgood, hsplit]

/-- Settles O55: `mdPoison` counts the copies, `bitOf_mdMake` is what is written, `settlePoison_split` mends copies that disagree. -/
theorem poisonMajority : Obligations.PoisonMajority :=
  ⟨fun _ => rfl, bitOf_mdMake, fun _ _ _ _ _ _ hgood hsplit => settlePoison_split hgood (poisonSplit_iff.2 hsplit)⟩

end Sys2Proof.Machine
end

section
/-! DESCRIPTOR_START (R125, R153, R198, R199, R201, R206, R225): the pair served next, then what its unit comes to. That a shut flume of
the sieve program lets the whole command wait is the model's choice (log 92). -/

namespace Sys2Proof.Machine

variable {s t : State} {n o : Nat} {env : OpEnv} {ts : List Slot} {x : Slot} {r : Result} {p : List Byte}

theorem okPair_of_lt (hn : n < 256) : okPair n = true := decide_eq_true hn

/-- Ranges with shut flumes are waited for; the flumes are woken (R398). -/
theorem whenOpen_wakes {rs : List Range} {act : State → State} {f : Nat} {fs : List Nat}
    (hshut : ((rangeFlumes s rs).filter fun f => !flumeOpen s f) = f :: fs) :
    whenOpen s rs act = .next ((f :: fs).foldl wakeFlume s) := by
  simp only [whenOpen, hshut, List.isEmpty_cons, Bool.not_false, if_true, forAll]

/-- The pair served next starts its unit once the flumes of the unit's program are open. -/
theorem exec_descriptorStart (hn : n < 256) (hserved : servedPair s = some n) (hunit : nextUnit s n = some ts)
    (hdma : needsHost ts = false ∨ dmaOpen s (pairHead n) = true) :
    exec (.descriptorStart n env) s = whenOpen s (programRanges n ts) fun s => startUnit (lookups s env) n env ts := by
  refine (onElement_of_ok _ (okPair_of_lt hn)).trans ?_
  simp only [hserved, hunit]
  exact if_pos ⟨trivial, hdma⟩

theorem exec_descriptorStart_not_served (hn : n < 256) (hserved : servedPair s ≠ some n) :
    exec (.descriptorStart n env) s = .next s := by
  refine (onElement_of_ok _ (okPair_of_lt hn)).trans ?_
  cases hk : servedPair s with
  | none => rfl
  | some k =>
    cases nextUnit s n with
    | none => rfl
    | some ts => exact if_neg fun h => hserved (hk.trans (congrArg some h.1))

/-! What starting a unit comes to. -/

/-- Counting a visit numbers no descriptor. -/
theorem noteVisit_nextDesc (s : State) (n : Nat) : (noteVisit s n).nextDesc = s.nextDesc :=
  (noteVisit_within (w_ := 266240) (by decide) s n (.refl _ s)).nextDesc (by decide)

theorem newDesc_fst (s : State) (n : Nat) (ms : List (List Byte)) : (newDesc s n ms).1 = s.nextDesc := rfl

/-- A malformed member completes with its field, and the pair stops (R206). -/
theorem startUnit_malformed (hbad : malformedSlot n ts = some (x, o)) :
    startUnit s n env ts = stopPair (finishDesc
      (newDesc (noteVisit (modPair s n fun x => { x with fetched := x.fetched.drop ts.length }) n) n [x.body]).2 s.nextDesc ⟨0x0B, 0, o, 0⟩)
      n 2 x.idx := by
  rw [malformedSlot] at hbad
  simp only [startUnit, hbad, newDesc_fst, noteVisit_nextDesc, modPair_nextDesc]

/-- The descriptor notes the entries it uses and its program (R29, R153). -/
def unitNoted (s : State) (did : Nat) (ms : List (List Byte)) (p : List Byte) : State :=
  modDesc s did fun d => { d with uses := rangeUses s ((chainRanges ms).1 ++ (chainRanges ms).2), program := p }

/-- A chain of an operator pair goes through its checks: it completes with the result of one, or its parts are created (R125, R153). -/
def chainStarted (s : State) (did n : Nat) (env : OpEnv) (ms : List (List Byte)) : State :=
  let v := checkChain s (pairHead n) env ms
  match v.1 with
  | .refused r => finishDesc v.2 did r
  | .passed p => (splitParts (unitNoted v.2 did ms p) ms).foldl (createPart did false) (unitNoted v.2 did ms p)

/-- A well-formed unit is created; on an admin pair its command carries it out later, on an operator pair it starts at once. -/
theorem startUnit_wellFormed (hgood : malformedSlot n ts = none) :
    startUnit s n env ts =
      if isAdmin n then unitNew s n ts else chainStarted (unitNew s n ts) s.nextDesc n env (ts.map fun t => t.body) := by
  rw [malformedSlot] at hgood
  simp only [startUnit, hgood, newDesc_fst, noteVisit_nextDesc, modPair_nextDesc, chainStarted, unitNew]
  rfl

theorem startUnit_admin (hgood : malformedSlot n ts = none) (hadmin : isAdmin n = true) : startUnit s n env ts = unitNew s n ts := by
  rw [startUnit_wellFormed hgood, if_pos hadmin]

theorem startUnit_refused (hgood : malformedSlot n ts = none) (hadmin : isAdmin n = false)
    (hcheck : checkChain (unitNew s n ts) (pairHead n) env (ts.map fun t => t.body) = (.refused r, t)) :
    startUnit s n env ts = finishDesc t s.nextDesc r := by
  rw [startUnit_wellFormed hgood, if_neg (by simp [hadmin]), chainStarted, hcheck]

theorem startUnit_passed (hgood : malformedSlot n ts = none) (hadmin : isAdmin n = false)
    (hcheck : checkChain (unitNew s n ts) (pairHead n) env (ts.map fun t => t.body) = (.passed p, t)) :
    startUnit s n env ts = (splitParts (unitNoted t s.nextDesc (ts.map fun t => t.body) p) (ts.map fun t => t.body)).foldl
      (createPart s.nextDesc false) (unitNoted t s.nextDesc (ts.map fun t => t.body) p) := by
  rw [startUnit_wellFormed hgood, if_neg (by simp [hadmin]), chainStarted, hcheck]

/-- Settles O31: `exec_descriptorStart` leads to `startUnit`, whose outcomes are the lemmas above. -/
theorem descriptorsStart : Obligations.DescriptorsStart := by
  refine ⟨fun s n env ts hn hserved hunit hdma hopen hscrub => ?_, fun s n env ts f fs hn hserved hunit hdma hshut => ?_,
    fun s n env hn hserved => exec_descriptorStart_not_served hn hserved,
    fun s n env ts hgood hadmin => startUnit_admin hgood hadmin,
    fun s n env ts r t hgood hadmin hcheck => startUnit_refused hgood hadmin hcheck,
    fun s n env ts p t hgood hadmin hcheck => ⟨_, rfl, startUnit_passed hgood hadmin hcheck⟩,
    fun s n env ts t o hbad => startUnit_malformed hbad⟩ <;> rw [exec_descriptorStart hn hserved hunit hdma]
  · exact whenOpen_acts hopen hscrub
  · exact whenOpen_wakes hshut

end Sys2Proof.Machine
end

section
/-! Parts (R117, R122, R126, R128, R130, R398). Where the descriptors lie in the control segment is the model's choice (log 41). -/

namespace Sys2Proof.Machine

variable {s : State} {m p did : Nat} {rest : List Nat} {x : Part} {d : Desc}

/-! PART_START. -/

/-- Part `p` runs on mill `m`: the hopper is cleared and takes the part's descriptors, and the queues are filled again (R117, R122). -/
def partStarted (s : State) (m p : Nat) (rest : List Nat) : State :=
  refillMills (modPart (hopperBytes (clearHopper (modMill s m fun x => { x with queue := rest, running := some p }) m) m hopControl 1024
    ((((getPart s p).bind fun y => getDesc s y.did).map fun d => d.members.flatten ++ d.program).getD [])) p
    fun y => { y with started := true, startedAt := s.now })

/-- An idle mill in dispatch takes the first part of its queue, or wakes its flume (R117, R398). -/
theorem startNextPart_of_idle (hqueue : (getMill s m).queue = p :: rest) (hin : inDispatch s m = true)
    (hidle : (getMill s m).running = none) (hsafe : s.flt.safe = false) :
    startNextPart s m = if portAwake s (64 + m) then partStarted s m p rest else wakeFlume s m := by
  simp only [startNextPart, hqueue, hin, hidle, hsafe]
  rfl

/-- A mill with nothing queued, out of dispatch or at work takes no part. -/
theorem startNextPart_stays (hstay : (getMill s m).queue = [] ∨ inDispatch s m = false ∨ (getMill s m).running.isSome = true) :
    startNextPart s m = s := by
  cases hqueue : (getMill s m).queue with
  | nil => simp only [startNextPart, hqueue]
  | cons p rest =>
    simp only [startNextPart, hqueue]
    refine if_neg fun hgo => ?_
    simp only [Bool.and_eq_true, Option.isNone_iff_eq_none] at hgo
    obtain ⟨⟨hin, hidle⟩, -⟩ := hgo
    rcases hstay with hnone | hout | hbusy
    · exact List.cons_ne_nil _ _ (hqueue.symm.trans hnone)
    · exact Bool.false_ne_true (hout.symm.trans hin)
    · rw [hidle] at hbusy
      exact Bool.false_ne_true hbusy

theorem exec_partStart (hm : m < 32) : exec (.partStart m) s = .next (startNextPart s m) := onElement_of_ok _ (okF_of_lt hm)

/-! PART_END. -/

/-- A running part that is done, has a status or is stopped ends outside the safe state; another goes on (R128). -/
theorem exec_partEnd (hm : m < 32) (hrun : (getMill s m).running = some p) (hpart : getPart s p = some x) :
    exec (.partEnd m) s = .next (if (x.done || x.status.isSome || x.stop) && !s.flt.safe then endPart s m p else s) := by
  refine (onElement_of_ok _ (okF_of_lt hm)).trans ?_
  simp only [hrun, hpart]
  exact (apply_ite Host.Outcome.next _ _ _).symm

/-! DESCRIPTOR_COMPLETE. -/

/-- A descriptor of an operator pair gets its result once its parts have ended, its merge has run and its writes are accepted (R130). -/
theorem exec_descriptorComplete (hd : getDesc s did = some d) (hresult : d.result = none) (hadmin : isAdmin d.pair = false)
    (hparts : d.parts ≠ []) (hended : partsEnded s d = true) (hmerge : d.dropped = true ∨ mergeDue s d = false)
    (hwrites : writesOpen s did = false) (hsafe : s.flt.safe = false) :
    exec (.descriptorComplete did) s = .next (finishDesc s did (opResult s d)) := by
  change execDescriptorComplete did s = _
  simp only [execDescriptorComplete, hd]
  exact if_pos (by simp [hresult, hadmin, hparts, hended, hmerge, hwrites, hsafe])

/-- A part under way, or a write not yet accepted, keeps the descriptor open. -/
theorem exec_descriptorComplete_waits (hd : getDesc s did = some d) (hopen : partsEnded s d = false ∨ writesOpen s did = true) :
    exec (.descriptorComplete did) s = .next s := by
  change execDescriptorComplete did s = _
  simp only [execDescriptorComplete, hd]
  refine if_neg fun hgo => ?_
  simp only [Bool.and_eq_true, Bool.not_eq_true'] at hgo
  obtain ⟨⟨⟨⟨-, hended⟩, -⟩, hwrites⟩, -⟩ := hgo
  rcases hopen with hpart | hwrite
  · exact Bool.false_ne_true (hpart.symm.trans hended)
  · exact Bool.false_ne_true (hwrites.symm.trans hwrite)

/-- Settles O32: a start is `startNextPart`, an end one branch of `exec_partEnd`. -/
theorem partsRun : Obligations.PartsRun := by
  refine ⟨fun s m p rest hm hqueue hin hidle hsafe hawake => ?_, fun s m p rest hm hqueue hin hidle hsafe hasleep => ?_,
    fun s m hm hstay => ?_, fun s m p x hm hrun hpart hdone hstatus hstop => ?_,
    fun s did d hd hopen => exec_descriptorComplete_waits hd hopen, fun s m p x hm hrun hpart hend hsafe => ?_,
    fun s did d hd hresult hadmin hparts hended hmerge hwrites hsafe =>
      exec_descriptorComplete hd hresult hadmin hparts hended hmerge hwrites hsafe⟩
  · rw [exec_partStart hm, startNextPart_of_idle hqueue hin hidle hsafe, if_pos hawake, partStarted]
  · rw [exec_partStart hm, startNextPart_of_idle hqueue hin hidle hsafe, if_neg (by simp [hasleep])]
  · rw [exec_partStart hm, startNextPart_stays hstay]
  · rw [exec_partEnd hm hrun hpart, if_neg (by simp [hdone, hstatus, hstop])]
  · rw [exec_partEnd hm hrun hpart, if_pos (by simpa [hsafe, or_assoc] using hend)]

end Sys2Proof.Machine
end

section
/-! Mills out of dispatch and back (R123, R133 to R138, R141 to R143, R349). Fault kind 0, a corrected hopper word, is log 46. -/

namespace Sys2Proof.Machine

variable {s : State} {m p did kind : Nat} {rest : List Nat} {pass : Bool} {x : Part} {d : Desc}

/-! Dispatch. -/

/-- Without its enable bit the mill leaves dispatch (R134, R144). -/
theorem exec_milDispatchDisable {path : Nat} {v : Word} (hp : path < 5) (hm : m < 32) (hopen : pathOpen s path = true)
    (hbusy : busy s (64 + m) = false) (hawake : portAwake s (64 + m) = true) :
    exec (.milDispatchDisable path m v) s = .next (takeMilCtl s m v.toNat) := by
  refine (onElement_of_ok _ (by simp [okPath_of_lt hp, okF_of_lt hm])).trans ?_
  rw [writeNow_takes hopen hbusy hawake]

/-! Logic slices. -/

/-- Nothing runs or waits on the mill and nothing keeps it from a slice (R133). -/
theorem exec_millLogicSliceStart (hm : m < 32) (henable : bitOf (regGet s (oMil m 0)).toNat 1 = true)
    (hservice : bitOf (regGet s (oBst 0)).toNat 0 = true) (hidle : (getMill s m).running = none) (hqueue : (getMill s m).queue = [])
    (hnone : (getMill s m).slice = false) (hgood : (getMill s m).failed = false) (hswap : (getMill s m).swapPending = false)
    (hsound : (getMill s m).recovering = []) (htest : (getMill s m).testing = false) (hafter : (getMill s m).sliceAfter ≤ s.now)
    (hawake : portAwake s (64 + m) = true) (hsafe : s.flt.safe = false) :
    exec (.millLogicSliceStart m) s = .next (modMill s m fun x => { x with slice := true }) := by
  refine (onElement_of_ok _ (okF_of_lt hm)).trans ?_
  simp only [henable, hservice, hidle, hqueue, hnone, hgood, hswap, hsound, htest, hawake, hsafe, decide_eq_true hafter]
  rfl

/-- A slice gives way to a part that waits too long; the next one runs 1 ms later or after (R133). -/
theorem exec_millSliceWaitExpiry (hm : m < 32) :
    exec (.millSliceWaitExpiry m) s = .next (if (getMill s m).slice && heldTooLong s m then
      startNextPart (modMill s m fun x => { x with slice := false, sliceAfter := s.now + 1000000 }) m else s) :=
  (onElement_of_ok _ (okF_of_lt hm)).trans (apply_ite Host.Outcome.next _ _ _).symm

/-- A slice that runs is counted; a mill that failed it is disabled (R133, R349). -/
theorem exec_millLogicSliceEnd (hm : m < 32) (hrun : (getMill s m).slice = true) :
    exec (.millLogicSliceEnd m pass) s = .next
      (if pass then refillMills (sliceRan (modMill s m fun x => { x with slice := false }))
       else failMill (noteFail (sliceRan (modMill s m fun x => { x with slice := false }))) m) := by
  refine (onElement_of_ok _ (okF_of_lt hm)).trans ?_
  simp only [hrun]
  rfl

theorem exec_millLogicSliceEnd_none (hm : m < 32) (hnone : (getMill s m).slice = false) :
    exec (.millLogicSliceEnd m pass) s = .next s := by
  refine (onElement_of_ok _ (okF_of_lt hm)).trans ?_
  simp only [hnone]
  rfl

/-! Microcode. -/

/-- An accepted image stands in the standby bank of the mills it names, and the swaps begin (R136 to R138). -/
def ucodeAccepted (s : State) (did : Nat) (member l : List Byte) (tallyOk : Bool) : State :=
  swapsEnd (modDesc ((maskMills (bImm0 member % 2 ^ 32)).foldl (fun s k => modMill s k fun x => { x with standby := some (ucodeOf l) })
    (if bitOf (bOpt member) 0 then persistUcode s l tallyOk else s)) did
      fun d => { d with work := 3, prog := [bImm0 member % 2 ^ 32, 0, fieldLe l 0x10 4] }) did

/-- A load whose image arrives is refused for the first check it fails, or accepted (R136). -/
theorem exec_ucodeLoad {env : OpEnv} {tallyOk : Bool} {l : List Byte} (hd : getDesc s did = some d) (hadmin : isAdmin d.pair = true)
    (hop : bOp (d.members.headD []) = 0x44) (hresult : d.result = none) (hwork : d.work = 0) (hswaps : swapsOf s = none)
    (hhost : isHost (bSrcA (d.members.headD [])) = true)
    (hrange : rangeOk (bSrcA (d.members.headD [])) (bCount (d.members.headD [])) = true) (hdma : dmaOpen s (pairHead d.pair) = true)
    (hsize : bCount (d.members.headD []) ≤ 65792)
    (hread : hostBytes env.host (bSrcA (d.members.headD []) - 2 ^ 63) (bCount (d.members.headD [])) = some l) :
    exec (.ucodeLoad did env tallyOk) s = .next
      (if imageReason s l ≠ 0 then refuseUcode s did (bImm0 (d.members.headD []) % 2 ^ 32) (imageReason s l)
       else ucodeAccepted s did (d.members.headD []) l tallyOk) := by
  change execUcodeLoad did env tallyOk s = _
  simp only [execUcodeLoad, hd, hadmin, hop, hresult, hwork, hswaps, hhost, hrange, hdma, hread, if_neg (Nat.not_lt.2 hsize)]
  exact (apply_ite Host.Outcome.next _ _ _).symm

/-- The first target mill that has not swapped leaves dispatch (R137). -/
theorem exec_microcodeSwap (hm : m < 32) (hswaps : swapsOf s = some (did, m :: rest)) (hfirst : (getMill s m).swapPending = false)
    (htest : (getMill s m).testing = false) (hsafe : s.flt.safe = false) :
    exec (.microcodeSwap m) s = .next (leaveDispatch (modMill s m fun x => { x with swapPending := true }) m) := by
  refine (onElement_of_ok _ (okF_of_lt hm)).trans ?_
  simp only [hswaps]
  exact if_pos ⟨trivial, hfirst, htest, hsafe⟩

theorem exec_microcodeSwap_none (hm : m < 32) (hswaps : swapsOf s = none) : exec (.microcodeSwap m) s = .next s := by
  refine (onElement_of_ok _ (okF_of_lt hm)).trans ?_
  simp only [hswaps]

/-- The banks of mill `m` are exchanged, and the load notes it among the mills that have swapped (R137). -/
def millSwapped (s : State) (m did : Nat) : State :=
  modDesc (modMill s m swapBanks) did fun d => { d with prog := [natAt d.prog 0, natAt d.prog 1 ||| 2 ^ m, natAt d.prog 2] }

/-- A mill that waits for its swap and is idle swaps and is back in dispatch (R137). -/
theorem exec_swapBankExchange (hm : m < 32) (hswaps : swapsOf s = some (did, rest)) (hpending : (getMill s m).swapPending = true)
    (hidle : (getMill s m).running = none) (hsound : (getMill s m).recovering = []) (hsafe : s.flt.safe = false) :
    exec (.swapBankExchange m) s = .next (refillMills (swapsEnd (millSwapped s m did) did)) := by
  refine (onElement_of_ok _ (okF_of_lt hm)).trans ?_
  simp only [hswaps, hpending, hidle, hsound, hsafe]
  rfl

theorem exec_swapBankExchange_none (hm : m < 32) (hswaps : swapsOf s = none) : exec (.swapBankExchange m) s = .next s := by
  refine (onElement_of_ok _ (okF_of_lt hm)).trans ?_
  simp only [hswaps]

/-! Faults and recovery. -/

/-- A corrected hopper word only counts; another fault ends the part (R123, R141). -/
theorem exec_millFault (hm : m < 32) (hkind : kind < 4) (hsafe : s.flt.safe = false) :
    exec (.millFault m kind) s = .next
      (if kind = 0 then raise (scEvent s (oMil m 0x1C) fun v => bumpBits v 7 0) (32 + m) 12 0 0 0 else faultMill s m 4 kind) := by
  refine (onElement_of_ok _ (by simp [okF_of_lt hm, hkind])).trans ?_
  simp only [hsafe]
  exact (apply_ite Host.Outcome.next _ _ _).symm

/-- A part that runs past the watchdog's limit ends with status 3 (R141). -/
theorem exec_millWatchdog (hm : m < 32) (hrun : (getMill s m).running = some p) (hpart : getPart s p = some x)
    (hlate : x.startedAt + watchdogLimit s m < s.now) (hsafe : s.flt.safe = false) :
    exec (.millWatchdog m) s = .next (faultMill s m 3 4) := by
  refine (onElement_of_ok _ (okF_of_lt hm)).trans ?_
  simp only [hrun, Option.bind_some, hpart]
  exact if_pos ⟨hlate, hsafe⟩

/-- What a mill comes back with: its banks as they were, or reloaded after an instruction store fault, or disabled where no image is
left (R141, R142). -/
def millBack (s : State) (m : Nat) : State :=
  if (getMill s m).recovering.contains 2 = false then modMill s m recovered
  else match reloadImage s m with
    | some u => modMill (modMill s m recovered) m fun x => { x with active := some u, standby := some u }
    | none => raise (modMill (modMill s m recovered) m fun x => { x with disabled := true }) (32 + m) 14 1 0 0

theorem exec_millRecoveryDone (hm : m < 32) (hsick : (getMill s m).recovering ≠ []) (hsafe : s.flt.safe = false) :
    exec (.millRecoveryDone m) s = .next (refillMills (millBack s m)) := by
  refine (onElement_of_ok _ (okF_of_lt hm)).trans ?_
  refine (if_neg (by simp [hsick, hsafe])).trans ?_
  rw [millBack]
  cases hstore : (getMill s m).recovering.contains 2 with
  | false => rfl
  | true => cases reloadImage s m <;> rfl

theorem exec_millRecoveryDone_none (hm : m < 32) (hsound : (getMill s m).recovering = []) :
    exec (.millRecoveryDone m) s = .next s :=
  (onElement_of_ok _ (okF_of_lt hm)).trans <| if_pos (by simp [hsound])

/-- Settles O39: one lemma per command, and one where nothing is under way. -/
theorem millCare : Obligations.MillCare := by
  refine ⟨fun s path m v hp hm hopen hbusy hawake => exec_milDispatchDisable hp hm hopen hbusy hawake,
    fun s m hm henable hservice hidle hqueue hnone hgood hswap hsound htest hafter hawake hsafe =>
      exec_millLogicSliceStart hm henable hservice hidle hqueue hnone hgood hswap hsound htest hafter hawake hsafe,
    fun s m hm hrun hlong => ?_, fun s m hm hrun => ⟨exec_millLogicSliceEnd hm hrun, exec_millLogicSliceEnd hm hrun⟩,
    fun s did env tallyOk d l hd hadmin hop hresult hwork hswaps hhost hrange hdma hsize hread =>
      exec_ucodeLoad hd hadmin hop hresult hwork hswaps hhost hrange hdma hsize hread,
    fun s m did rest hm hswaps hfirst htest hsafe => exec_microcodeSwap hm hswaps hfirst htest hsafe,
    fun s m did rest hm hswaps hpending hidle hsound hsafe => exec_swapBankExchange hm hswaps hpending hidle hsound hsafe,
    fun s m kind hm hkind hsafe => exec_millFault hm hkind hsafe,
    fun s m p x hm hrun hpart hlate hsafe => exec_millWatchdog hm hrun hpart hlate hsafe,
    fun s m hm hsick hsafe => exec_millRecoveryDone hm hsick hsafe,
    fun s m pass hm hslice hswaps hsound => ⟨exec_millLogicSliceEnd_none hm hslice, ?_, exec_microcodeSwap_none hm hswaps,
      exec_swapBankExchange_none hm hswaps, exec_millRecoveryDone_none hm hsound⟩⟩ <;> rw [exec_millSliceWaitExpiry hm]
  · rw [hrun, hlong]
    rfl
  · rw [hslice]
    rfl

end Sys2Proof.Machine
end

section
/-! Operating points (R140, R376, R377, R379 to R381) and droop (R382, R383). -/

namespace Sys2Proof.Machine

variable {s : State} {m f : Nat} {ctl : Bool}

/-- A mill moves to the point its floors ask for, outside the safe state; the rail's code follows (R377, R380). -/
theorem exec_millOppChange (hm : m < 32) :
    exec (.millOppChange m) s = .next (if (getMill s m).opp ≠ millPoint s m ∧ s.flt.safe = false then
      setVlogic (modMill s m fun x => { x with opp := millPoint s m }) else s) :=
  (onElement_of_ok _ (okF_of_lt hm)).trans (apply_ite Host.Outcome.next _ _ _).symm

/-- A flume that may change moves with its trained codes rescaled (R308, R381). -/
theorem exec_flumeOppChange (hf : f < 32) :
    exec (.flumeOppChange f) s = .next (if (getFlume s f).opp ≠ flumePoint s f ∧ flumeCanChange s f = true then
      setVlogic (rescaleFlume (modFlume s f fun x => { x with opp := flumePoint s f }) f (getFlume s f).opp (flumePoint s f)) else s) :=
  (onElement_of_ok _ (okF_of_lt hf)).trans (apply_ite Host.Outcome.next _ _ _).symm

/-! Monitor warnings. -/

/-- A change of a mill is known by what it makes of that mill. -/
theorem modMill_congr {g k : Mill → Mill} (hmill : g (getMill s m) = k (getMill s m)) : modMill s m g = modMill s m k := by
  rw [getMill] at hmill
  rw [modMill, modMill, tabMod, tabMod, hmill]

/-- The target at the point in force rises by 25 quarter millivolts, to the trim at most, and the raise is counted (R376). -/
def targetRaised (s : State) (m : Nat) : State :=
  let o := (getMill s m).opp
  modMill s m fun x => { x with
    target := tabSet 0 x.target o (min (millTrim s m o) (tabGet 0 (getMill s m).target o + 25)), raises := tabMod 0 x.raises o (· + 1) }

/-- The point in force and its target are the mill's own. -/
theorem targetRaised_eq : targetRaised s m = modMill s m fun x => { x with
    target := tabSet 0 x.target x.opp (min (millTrim s m x.opp) (tabGet 0 x.target x.opp + 25)), raises := tabMod 0 x.raises x.opp (· + 1) } :=
  modMill_congr rfl

/-- A target below the trim that was read is raised, with event 15. -/
theorem exec_monitorWarning (hm : m < 32) :
    exec (.monitorWarning m) s = .next
      (if trimDefault s = false ∧ tabGet 0 (getMill s m).target (getMill s m).opp < millTrim s m (getMill s m).opp then
        setVlogic (raise (targetRaised s m) (32 + m) 15 1 0 (getMill s m).opp)
       else s) :=
  (onElement_of_ok _ (okF_of_lt hm)).trans (apply_ite Host.Outcome.next _ _ _).symm

/-! Droop. -/

/-- The droop register counts a trip of a flume's controller or its mill, and event 11 is raised (R382). -/
def droopNoted (s : State) (f : Nat) (ctl : Bool) : State :=
  raise (scEvent s (oPwr 0x44) fun v => putBits (putBits (bumpBits v 23 16) 13 13 (b2n ctl)) 12 8 f) (32 + f) 11 0 0 (b2n ctl)

/-- A trip stretches the clock of its domain; a mill also moves one point deeper (R382, R383). -/
theorem exec_droopTrip (hf : f < 32) (hawake : portAwake s f = true) :
    exec (.droopTrip f ctl) s = .next
      (if ctl then modFlume (droopNoted s f ctl) f fun x => { x with stretched := some (x.stretched.getD s.now) }
       else modMill (droopNoted s f ctl) f fun x =>
         { x with stretched := some (x.stretched.getD s.now), droop := min 3 (x.droop + 1), droopAt := s.now }) := by
  refine (onElement_of_ok _ (okF_of_lt hf)).trans ?_
  simp only [hawake]
  rfl

/-- Below Run no clock droops. -/
theorem exec_droopTrip_asleep (hf : f < 32) (hasleep : portAwake s f = false) : exec (.droopTrip f ctl) s = .next s := by
  refine (onElement_of_ok _ (okF_of_lt hf)).trans ?_
  simp only [hasleep]
  rfl

theorem exec_droopRecover (hf : f < 32) :
    exec (.droopRecover f ctl) s = .next (if ctl then modFlume s f fun x => { x with stretched := none }
      else modMill s f fun x => { x with stretched := none }) :=
  onElement_of_ok _ (okF_of_lt hf)

/-- The hold time since a mill's last change of its droop points is over (R383). -/
def droopHeld (s : State) (m : Nat) : Prop := (getMill s m).droopAt + 1000000 * max 1 (regField s (oPwr 0x40) 15 8) ≤ s.now

/-- One point is given back after the hold time (R383). -/
theorem exec_droopHoldExpiry (hm : m < 32) (hpoints : 0 < (getMill s m).droop) (hheld : droopHeld s m) :
    exec (.droopHoldExpiry m) s = .next (modMill s m fun x => { x with droop := x.droop - 1, droopAt := s.now }) :=
  (onElement_of_ok _ (okF_of_lt hm)).trans <| if_pos ⟨hpoints, hheld⟩

theorem exec_droopHoldExpiry_none (hm : m < 32) (hnot : ¬ (0 < (getMill s m).droop ∧ droopHeld s m)) :
    exec (.droopHoldExpiry m) s = .next s :=
  (onElement_of_ok _ (okF_of_lt hm)).trans <| if_neg hnot

/-- Settles O40: each pair of clauses is one condition of a command and its opposite. -/
theorem operatingPoints : Obligations.OperatingPoints := by
  refine ⟨fun s m hm hpoint hsafe => ?_, fun s f hf hpoint hmay => ?_, fun s k hk hmill hflume => ⟨?_, ?_⟩,
    fun s m hm htrim hbelow => ?_, fun s m hm hnot => ?_,
    fun s f hf hawake => ⟨exec_droopTrip hf hawake, exec_droopTrip hf hawake⟩,
    fun s f ctl hf hasleep => exec_droopTrip_asleep hf hasleep, fun s f hf => ⟨exec_droopRecover hf, exec_droopRecover hf⟩,
    fun s m hm hpoints hheld => exec_droopHoldExpiry hm hpoints hheld,
    fun s m hm hnot => exec_droopHoldExpiry_none hm fun ⟨hpoints, hheld⟩ => ?_⟩
  · rw [exec_millOppChange hm, if_pos ⟨hpoint, hsafe⟩]
  · rw [exec_flumeOppChange hf, if_pos ⟨hpoint, hmay⟩]
  · rw [exec_millOppChange hk, if_neg fun hgo => hgo.1 hmill]
  · rw [exec_flumeOppChange hk, if_neg fun hgo => hgo.1 hflume]
  · rw [exec_monitorWarning hm, if_pos ⟨htrim, hbelow⟩, targetRaised_eq]
  · rw [exec_monitorWarning hm]
    refine congrArg Host.Outcome.next (if_neg fun ⟨htrim, hbelow⟩ => ?_)
    rcases hnot with hdefault | htop
    · exact Bool.false_ne_true (htrim.symm.trans hdefault)
    · exact Nat.not_lt.2 htop hbelow
  · rcases hnot with hnone | hearly
    · exact Nat.ne_of_gt hpoints hnone
    · exact Nat.not_le.2 hearly hheld

end Sys2Proof.Machine
end

section
/-! CRC-32C (R164): a step of the division is linear over exclusive-or, so the CRC of a range is known from the CRCs of its pieces. -/

namespace Sys2Proof.Machine

/-- Exclusive-or with the same number twice cancels. -/
theorem xor_xor_self (x y : Nat) : x ^^^ y ^^^ y = x := by
  rw [Nat.xor_assoc, Nat.xor_self, Nat.xor_zero]

/-- One bit of the division: the polynomial comes in where the register is odd. -/
theorem crcBit_eq (x : Nat) : crcBit x = x / 2 ^^^ if x % 2 = 1 then 0x82F63B78 else 0 := by
  by_cases hx : x % 2 = 1
  · rw [crcBit, if_pos hx, if_pos hx]
  · rw [crcBit, if_neg hx, if_neg hx, Nat.xor_zero]

/-- The polynomial comes in where exactly one of two registers is odd, and cancels where both are. -/
theorem crcBit_xor (x y : Nat) : crcBit (x ^^^ y) = crcBit x ^^^ crcBit y := by
  have hpoly (n : Nat) : (if (x ^^^ y) % 2 = 1 then n else 0) = (if x % 2 = 1 then n else 0) ^^^ if y % 2 = 1 then n else 0 := by
    by_cases hx : x % 2 = 1 <;> by_cases hy : y % 2 = 1 <;>
      simp only [Nat.xor_mod_two_eq_one, hx, hy, iff_self, iff_true, iff_false, not_true, not_false_eq_true, if_true, if_false,
        Nat.xor_self, Nat.xor_zero, Nat.zero_xor]
  simp only [crcBit_eq, Nat.xor_div_two, hpoly]
  ac_rfl

/-- Of a register split in two, one part takes the byte and the other a zero byte. -/
theorem crcByte_xor (x y : Nat) (b : Byte) : crcByte (x ^^^ y) b = crcByte x 0 ^^^ crcByte y b := by
  have hsplit : x ^^^ y ^^^ b.toNat = (x ^^^ (0 : Byte).toNat) ^^^ (y ^^^ b.toNat) := by
    rw [show (0 : Byte).toNat = 0 from rfl, Nat.xor_zero, Nat.xor_assoc]
  simp only [crcByte, hsplit, crcBit_xor]

/-- One part of the register goes through the bytes, the other through as many zeros. -/
theorem foldl_crcByte_xor (l : List Byte) (x y : Nat) :
    l.foldl crcByte (x ^^^ y) = (List.replicate l.length 0).foldl crcByte x ^^^ l.foldl crcByte y := by
  induction l generalizing x y with
  | nil => rfl
  | cons b l ih => rw [List.foldl_cons, crcByte_xor, ih, List.length_cons, List.replicate_succ, List.foldl_cons, List.foldl_cons]

/-- The final exclusive-or of the first piece and the initial one of the second cancel. -/
theorem crc32c_append (c : Nat) (a b : List Byte) : crc32c c (a ++ b) = crc32c (crc32c c a) b := by
  simp only [crc32c, List.foldl_append, xor_xor_self]

theorem crc32c_nil (c : Nat) : crc32c c [] = c := xor_xor_self c _

/-- What came before the bytes enters their CRC as zeros of the same length make of it. -/
theorem crc32c_eq_xor (c : Nat) (l : List Byte) : crc32c c l = (List.replicate l.length 0).foldl crcByte c ^^^ crc32c 0 l := by
  simp only [crc32c, foldl_crcByte_xor l c, Nat.zero_xor, Nat.xor_assoc]

/-- Joining a piece's own CRC to what came before gives the CRC continued over that piece. -/
theorem crcJoin_crc32c (c : Nat) (l : List Byte) : crcJoin c (crc32c 0 l) l.length = crc32c c l := by
  rw [crcJoin, crc32c_eq_xor c l, crc32c_eq_xor c (List.replicate _ 0), List.length_replicate, xor_xor_self]

/-- Settles O33: the second piece continues the first (`crc32c_append`), and joining does the same (`crcJoin_crc32c`). -/
theorem checksumJoins : Obligations.ChecksumJoins := by
  refine fun c a b => ⟨crc32c_append c a b, ?_, crc32c_nil 0⟩
  rw [crcJoin_crc32c, crc32c_append]

end Sys2Proof.Machine
end

section
/-! Keys (R168), the functions of BITMAP on bits (R163) and of AGGREGATE on unsigned integers (R173). -/

namespace Sys2Proof.Machine

variable {t a b : Nat}

/-- No float is packed, so none is widened. -/
theorem laneOf_of_isFloat (u : Units) (i : Nat) (hfloat : isFloat t = true) : laneOf u t a i = elemRaw u t a i := by
  have hkind : tyKind t = 3 := eq_of_beq hfloat
  have hloose : isPacked t = false := by rw [isPacked, hkind]; rfl
  exact if_neg fun hpacked => Bool.false_ne_true (hloose.symm.trans hpacked.1)

/-- Settles O34: a float key is hashed by its bit pattern (`laneOf_of_isFloat`), and a shift by 25 is the division by 2^25. -/
theorem keyHash_homeOf_tagOf : Obligations.KeyHash := by
  refine fun seed k t c u ty a i hfloat => ⟨rfl, rfl, ?_, ?_⟩
  · rw [tagOf, Nat.shiftRight_eq_div_pow]
  · rw [keyBytes, laneOf_of_isFloat u i hfloat]

/-! Bits and unsigned integers. -/

theorem bit_beq_zero (hb : b < 2) : (b == 0) = (b != 1) :=
  match b, hb with
  | 0, _ | 1, _ => rfl

theorem bit_bne (ha : a < 2) (hb : b < 2) : (a != b) = (a == 1 ^^ b == 1) :=
  match a, b, ha, hb with
  | 0, 0, _, _ | 0, 1, _, _ | 1, 0, _, _ | 1, 1, _, _ => rfl

theorem b2n_eq_one {p : Bool} : b2n p = 1 ↔ p = true := by
  cases p <;> decide

/-- The sum of unsigned integers and its wrap. -/
theorem aggSum_unsigned (hfloat : isFloat t = false) (hsigned : isSigned t = false) :
    aggSum t a b = ((a + b) % 2 ^ 64, b2n (decide (2 ^ 64 ≤ a + b))) := by
  rw [aggSum, hfloat, hsigned]
  rfl

theorem aggMin_unsigned (hfloat : isFloat t = false) (hsigned : isSigned t = false) : aggMin t a b = min a b := by
  rw [aggMin, hfloat, hsigned]
  rfl

theorem aggMax_unsigned (hfloat : isFloat t = false) (hsigned : isSigned t = false) : aggMax t a b = max a b := by
  rw [aggMax, hfloat, hsigned]
  rfl

/-- Settles O35: ANDNOT and XOR are read on bits that are 0 or 1, the sum and its wrap from `aggSum_unsigned`. -/
theorem bitmapFunctions : Obligations.BitmapFunctions := by
  refine ⟨fun a b ha hb => ⟨rfl, rfl, congrArg (a == 1 && ·) (bit_beq_zero hb), bit_bne ha hb⟩,
    fun t a b hfloat hsigned ha hb => ⟨?_, ?_, aggMin_unsigned hfloat hsigned, aggMax_unsigned hfloat hsigned⟩⟩
  · rw [aggSum_unsigned hfloat hsigned]
  · rw [aggSum_unsigned hfloat hsigned, b2n_eq_one, decide_eq_true_iff]

end Sys2Proof.Machine
end

section
/-! The stage a mill runs (R119, R225, R398), by operator (R154 to R165), and the merge part (R175). That a shut flume lets the whole
stage wait is the model's choice (log 92). -/

namespace Sys2Proof.Machine

variable {s : State} {m op did : Nat} {env : OpEnv} {g : Stage} {body : Stage → State → State}

theorem runStage_none (hm : m < 32) (hstage : stageOf s m = none) : runStage m op env s body = .next s := by
  rw [runStage, onElement_of_ok _ (okF_of_lt hm), hstage]

/-- Outside the safe state and with its host DMA open, a stage runs once its lines can be reached. -/
theorem runStage_of_stage (hm : m < 32) (hstage : stageOf s m = some g) (hop : bOp g.m = op) (hsafe : s.flt.safe = false)
    (hdma : (stageHost g && !dmaOpen s g.head) = false) :
    runStage m op env s body = whenOpen s (stageRanges g) fun s => body g (lookups s env) := by
  rw [runStage, onElement_of_ok _ (okF_of_lt hm), hstage]
  refine (if_neg ?_).trans (if_neg ?_)
  · simp only [hop, hsafe, ne_eq, not_true, Bool.false_eq_true, or_self, not_false_eq_true]
  · simp only [hdma, Bool.false_eq_true, not_false_eq_true]

/-- A ready stage runs its operator's body after the lookups of its ranges. -/
theorem runStage_of_ready (hm : m < 32) (hready : StageReady s m op g) : runStage m op env s body = .next (body g (lookups s env)) := by
  obtain ⟨hstage, hop, hsafe, hdma, hopen, hscrub⟩ := hready
  rw [runStage_of_stage hm hstage hop hsafe hdma, whenOpen_acts hopen hscrub]

/-! CHECKSUM and COMPARE without a poisoned unit. -/

/-- The CRC pieces of what was read join those of the descriptor (R164). -/
theorem checksumBody_of_clean {r : Units × State} (hread : r = stageRead g env s (rangeUnits (bSrcA g.m) g.part.ranges))
    (hclean : (r.1.find? fun e => e.2.poison) = none) :
    checksumBody env g s =
      stageDone (modDesc r.2 g.part.did fun d => { d with accum := d.accum ++ crcPieces (bSrcA g.m) r.1 g.part.ranges }) g .none 0 0 := by
  rw [checksumBody, ← hread, hclean]

/-- The offsets whose bytes differ give the first of them and their number (R165). -/
theorem compareBody_of_clean {r q : Units × State} (hreadA : r = stageRead g env s (rangeUnits (bSrcA g.m) g.part.ranges))
    (hreadB : q = stageRead g env r.2 (rangeUnits (bSrcB g.m) g.part.ranges))
    (hclean : ((unitsIn g.part.ranges).findSome? fun i =>
      lowerUnit (poisonIn r.1 (8 * (bSrcA g.m + i)) 8) (poisonIn q.1 (8 * (bSrcB g.m + i)) 8)) = none)
    {diff : List Nat} (hdiff : diff = (unitsIn g.part.ranges).filter fun i =>
      bitsFrom r.1 (8 * (bSrcA g.m + i)) 8 != bitsFrom q.1 (8 * (bSrcB g.m + i)) 8) :
    compareBody env g s = stageDone q.2 g .none (diff.headD (2 ^ 64 - 1)) diff.length := by
  rw [compareBody, ← hreadA, ← hreadB, hclean, hdiff]
  rfl

/-! MERGE_PART. -/

theorem exec_mergePart_none (hstage : mergeStage s did = none) : exec (.mergePart did env) s = .next s := by
  change execMergePart did env s = _
  rw [execMergePart, hstage]

/-- A merge part runs as a stage does, over what its merge reads and writes. -/
theorem exec_mergePart (hstage : mergeStage s did = some g) (hsafe : s.flt.safe = false)
    (hdma : (isHost (bDst g.m) && !dmaOpen s g.head) = false) :
    exec (.mergePart did env) s = whenOpen s (opRanges g.c g.m).2 fun s => mergeBody env g (lookups s env) := by
  change execMergePart did env s = _
  rw [execMergePart, hstage]
  exact if_neg (by simp only [hsafe, hdma, Bool.or_self, Bool.false_eq_true, not_false_eq_true])

/-- Settles O36: each command is `runStage` with its operator's opcode and body, and a ready stage runs that body. -/
theorem operatorStages : Obligations.OperatorStages := by
  refine ⟨fun s m env g hm hready => runStage_of_ready (body := fillBody env) hm hready,
    fun s m env g hm hready => runStage_of_ready (body := copyBody env) hm hready,
    fun s m env g hm hready => runStage_of_ready (body := scanBody env) hm hready,
    fun s m env g hm hready => runStage_of_ready (body := compactBody env) hm hready,
    fun s m env g hm hready => runStage_of_ready (body := gatherBody env) hm hready,
    fun s m env g hm hready => runStage_of_ready (body := buildBody env) hm hready,
    fun s m env g hm hready => runStage_of_ready (body := probeBody env) hm hready,
    fun s m env g hm hready => runStage_of_ready (body := aggBody env) hm hready,
    fun s m env g hm hready => runStage_of_ready (body := bitmapBody env) hm hready,
    fun s m env g r hm hready hread hclean => ?_,
    fun s m env g hm hready => runStage_of_ready (body := checksumBody env) hm hready,
    fun s m env g r q diff hm hready hreadA hreadB hclean hdiff => ?_,
    fun s m env g hm hready => runStage_of_ready (body := compareBody env) hm hready,
    fun s m op env g body f fs hm hstage hop hsafe hdma hshut => ?_,
    fun s m op env body hm hstage => runStage_none hm hstage,
    fun s did env g hstage hsafe hdma hopen hscrub => ?_, fun s did env hstage => exec_mergePart_none hstage⟩
  · rw [← checksumBody_of_clean hread hclean]
    exact runStage_of_ready (body := checksumBody env) hm hready
  · rw [← compareBody_of_clean hreadA hreadB hclean hdiff]
    exact runStage_of_ready (body := compareBody env) hm hready
  · rw [runStage_of_stage hm hstage hop hsafe hdma]
    exact whenOpen_wakes hshut
  · rw [exec_mergePart hstage hsafe hdma]
    exact whenOpen_acts hopen hscrub

end Sys2Proof.Machine
end

section
/-! The arrival of a host request (R213, R222, R397, R398): what it and the joining of a flume change. -/

namespace Sys2Proof.Machine

variable {s : State} {h f g : Nat} {r : Req}

/-- The state with the latch of the device's wake at `b`. -/
def latchWake (s : State) (b : Bool) : State := { s with pwr := { s.pwr with waking := b } }

/-- A wake event sets the latch below Run and while a state is entered, and leaves it elsewhere (R397, R398). -/
theorem wakeDevice_eq_latchWake (s : State) :
    wakeDevice s = latchWake s (s.pwr.waking || decide (2 ≤ s.pwr.dstate) || s.pwr.entering.isSome) := by
  unfold wakeDevice
  split
  · next hlow =>
    have hset : (s.pwr.waking || decide (2 ≤ s.pwr.dstate) || s.pwr.entering.isSome) = true := by
      rcases hlow with hlow | hentry
      · simp [hlow]
      · simp [hentry]
    rw [hset, latchWake]
  · next hrun =>
    obtain ⟨hup, hstill⟩ := not_or.1 hrun
    have hkept : (s.pwr.waking || decide (2 ≤ s.pwr.dstate) || s.pwr.entering.isSome) = s.pwr.waking := by simp [hup, hstill]
    rw [hkept]
    rfl

/-- The arrival of a request is its head's hint ended and the device's wake latched where it has to be. -/
theorem memArrives_eq (s : State) (h : Nat) : memArrives s h =
    latchWake (lapseHint s h) (s.pwr.waking || decide (2 ≤ s.pwr.dstate) || s.pwr.entering.isSome) :=
  wakeDevice_eq_latchWake (lapseHint s h)

theorem memArrives_hint (w : s.wf) : (getHead (memArrives s h) h).hint = none := by
  rw [memArrives, getHead_wakeDevice, lapseHint, getHead_modHead_self s h _ w.heads]

theorem getHead_memArrives_ne (hg : g ≠ h) : getHead (memArrives s h) g = getHead s g := by
  rw [memArrives, getHead_wakeDevice, lapseHint, getHead_modHead_ne s _ hg]

/-- A wake event of a flume changes that flume, not what waits there, and of the rest at most the latch of the device's wake. -/
theorem wakeFlume_eq_modFlume (s : State) (f : Nat) :
    ∃ b change, wakeFlume s f = modFlume (latchWake s b) f change ∧ ∀ x, (change x).waiting = x.waiting := by
  unfold wakeFlume
  split
  · rw [wakeDevice_eq_latchWake]
    exact ⟨_, _, rfl, fun _ => rfl⟩
  · exact ⟨s.pwr.waking, _, rfl, fun _ => rfl⟩

theorem waiting_wakeFlume (w : tabWf flumeInit s.flumes) : (getFlume (wakeFlume s f) f).waiting = (getFlume s f).waiting := by
  obtain ⟨b, change, hwake, hkeeps⟩ := wakeFlume_eq_modFlume s f
  rw [hwake, getFlume_modFlume_self (latchWake s b) f change w, hkeeps]
  rfl

theorem getFlume_wakeFlume_ne (hg : g ≠ f) : getFlume (wakeFlume s f) g = getFlume s g := by
  obtain ⟨b, change, hwake, -⟩ := wakeFlume_eq_modFlume s f
  rw [hwake, getFlume_modFlume_ne _ change hg]
  rfl

theorem wakeFlume_frame (s : State) (f : Nat) : wakeFlume s f =
    { s with flumes := (wakeFlume s f).flumes, pwr := { s.pwr with waking := (wakeFlume s f).pwr.waking } } := by
  obtain ⟨b, change, hwake, -⟩ := wakeFlume_eq_modFlume s f
  rw [hwake]
  rfl

theorem modFlume_flumes_wf (change : Flume → Flume) (w : s.wf) : tabWf flumeInit (modFlume s f change).flumes :=
  tabWf_tabMod flumeInit s.flumes f change w.flumes

/-- A request joins its flume as the last of those that wait there. -/
theorem waiting_ingress (w : s.wf) : (getFlume (ingress s f r) f).waiting = (getFlume s f).waiting ++ [r] := by
  rw [ingress, waiting_wakeFlume (modFlume_flumes_wf _ w), getFlume_modFlume_self s f _ w.flumes]

theorem getFlume_ingress_ne (hg : g ≠ f) : getFlume (ingress s f r) g = getFlume s g := by
  rw [ingress, getFlume_wakeFlume_ne hg, getFlume_modFlume_ne s _ hg]

/-- Settles O11: an arrival is `memArrives_eq`, and a joining changes what `wakeFlume_frame` names. -/
theorem arrivalFrame : Obligations.ArrivalFrame := by
  refine ⟨fun s h w => ⟨memArrives_hint w, fun g hg => getHead_memArrives_ne hg, ?_, ?_⟩,
    fun s f r w => ⟨waiting_ingress w, fun g hg => getFlume_ingress_ne hg, wakeFlume_frame _ f⟩⟩ <;> rw [memArrives_eq] <;> rfl

end Sys2Proof.Machine
end

section
/-! Doorbells (R193, R194, R213, R398): which are taken, and what a new tail and a new head do. -/

namespace Sys2Proof.Machine

variable {s : State} {path n off tail head : Nat} {v : Word} {act : State → State}

/-! What the arrival of a doorbell leaves as it was. -/

theorem doorbellArrives_within_wake (s : State) (path : Nat) : Within (2 ^ 11 + 2 ^ 28) s (doorbellArrives s path) :=
  doorbellArrives_within (by decide) s path (.refl _ s)

@[simp] theorem getPair_doorbellArrives : getPair (doorbellArrives s path) n = getPair s n :=
  congrArg (tabGet pairInit · n) ((doorbellArrives_within_wake s path).pairs (by decide))

@[simp] theorem regGet_doorbellArrives : regGet (doorbellArrives s path) off = regGet s off :=
  congrArg (tabGet (regReset off) · off) ((doorbellArrives_within_wake s path).regs (by decide))

@[simp] theorem sqSize_doorbellArrives : sqSize (doorbellArrives s path) n = sqSize s n := by
  rw [sqSize, regField, regGet_doorbellArrives, sqSize, regField]

@[simp] theorem cqSize_doorbellArrives : cqSize (doorbellArrives s path) n = cqSize s n := by
  rw [cqSize, regField, regGet_doorbellArrives, cqSize, regField]

/-! Which are taken. -/

theorem okPathPair_of_lt (hp : path < 5) (hn : n < 256) : (okPath path && okPair n) = true := by
  rw [okPath_of_lt hp, okPair_of_lt hn]; rfl

theorem doorbell_taken (hopen : pathOpen s path = true) (hrun : (getPair s n).state = 1) (hown : path = pairHead n) :
    doorbell s path n act = act (doorbellArrives s path) := by
  simp only [doorbell, hopen, getPair_doorbellArrives, Bool.not_true, Bool.false_eq_true, if_false]
  exact if_pos ⟨hrun, hown⟩

theorem doorbell_dropped (hopen : pathOpen s path = true) (hnot : (getPair s n).state ≠ 1 ∨ path ≠ pairHead n) :
    doorbell s path n act = scEvent (doorbellArrives s path) (oRing n 0x28) fun v => bumpBits v 23 16 := by
  simp only [doorbell, hopen, getPair_doorbellArrives, Bool.not_true, Bool.false_eq_true, if_false]
  exact if_neg fun ⟨hrun, hown⟩ => hnot.elim (· hrun) (· hown)

theorem exec_sqTail (hp : path < 5) (hn : n < 256) :
    exec (.sqTail path n v) s = .next (doorbell s path n fun s => takeTail s n (v.toNat % 65536)) :=
  onElement_of_ok _ (okPathPair_of_lt hp hn)

theorem exec_cqHead (hp : path < 5) (hn : n < 256) :
    exec (.cqHead path n v) s = .next (doorbell s path n fun s => takeHead s n (v.toNat % 65536)) :=
  onElement_of_ok _ (okPathPair_of_lt hp hn)

theorem exec_sqTail_taken (hp : path < 5) (hn : n < 256) (hopen : pathOpen s path = true) (hrun : (getPair s n).state = 1)
    (hown : path = pairHead n) : exec (.sqTail path n v) s = .next (takeTail (doorbellArrives s path) n (v.toNat % 65536)) := by
  rw [exec_sqTail hp hn, doorbell_taken hopen hrun hown]

theorem exec_cqHead_taken (hp : path < 5) (hn : n < 256) (hopen : pathOpen s path = true) (hrun : (getPair s n).state = 1)
    (hown : path = pairHead n) : exec (.cqHead path n v) s = .next (takeHead (doorbellArrives s path) n (v.toNat % 65536)) := by
  rw [exec_cqHead hp hn, doorbell_taken hopen hrun hown]

/-! What they do. -/

/-- The entries a completion head at `head` frees: all of a full ring where it is the head there was (R194). -/
def entriesFreed (s : State) (n head : Nat) : Nat :=
  let d := (head + cqSize s n - (getPair s n).cqHead) % cqSize s n
  if d = 0 ∧ (getPair s n).posted = cqSize s n then cqSize s n else d

theorem entriesFreed_of_eq {d c : Nat} (hd : d = (head + cqSize s n - (getPair s n).cqHead) % cqSize s n)
    (hc : c = if d = 0 ∧ (getPair s n).posted = cqSize s n then cqSize s n else d) : c = entriesFreed s n head := by
  rw [hc, hd, entriesFreed]

@[simp] theorem entriesFreed_doorbellArrives : entriesFreed (doorbellArrives s path) n head = entriesFreed s n head := by
  rw [entriesFreed, getPair_doorbellArrives, cqSize_doorbellArrives, entriesFreed]

theorem takeHead_eq : takeHead s n head =
    if cqSize s n ≤ head ∨ (getPair s n).posted < entriesFreed s n head then stopPair s n 3 (getPair s n).sqHead
    else modPair s n fun x => { x with cqHead := head, posted := x.posted - entriesFreed s n head } := rfl

/-- A tail within the ring is stored; any other stops the pair (R194, R208). -/
theorem takeTail_doorbellArrives : takeTail (doorbellArrives s path) n tail =
    if sqSize s n ≤ tail then stopPair (doorbellArrives s path) n 3 (getPair s n).sqHead
    else modPair (doorbellArrives s path) n fun x => { x with sqTail := tail } := by
  rw [takeTail, sqSize_doorbellArrives, getPair_doorbellArrives]

/-- A head within the ring that frees no more than is posted is stored; any other stops the pair (R194, R208). -/
theorem takeHead_doorbellArrives : takeHead (doorbellArrives s path) n head =
    if cqSize s n ≤ head ∨ (getPair s n).posted < entriesFreed s n head then
      stopPair (doorbellArrives s path) n 3 (getPair s n).sqHead
    else modPair (doorbellArrives s path) n fun x => { x with cqHead := head, posted := x.posted - entriesFreed s n head } := by
  rw [takeHead_eq, cqSize_doorbellArrives, getPair_doorbellArrives, entriesFreed_doorbellArrives]

/-- Settles O29: the boundary of a tail and of a head is the `if` of the two lemmas above. -/
theorem doorbells : Obligations.Doorbells := by
  refine ⟨fun s path n v hp hn hopen hrun hown htail => ?_,
    fun s path n v d c hp hn hopen hrun hown hd hc hhead hposted => ?_,
    fun s path n v d c hp hn hopen hrun hown hd hc hbad => ?_, fun s path n v hp hn hopen hrun hown htail => ?_⟩
  · rw [exec_sqTail_taken hp hn hopen hrun hown, takeTail_doorbellArrives, if_neg (Nat.not_le.2 htail)]
  · obtain rfl := entriesFreed_of_eq hd hc
    rw [exec_cqHead_taken hp hn hopen hrun hown, takeHead_doorbellArrives,
      if_neg (not_or.2 ⟨Nat.not_le.2 hhead, Nat.not_lt.2 hposted⟩)]
  · obtain rfl := entriesFreed_of_eq hd hc
    rw [exec_cqHead_taken hp hn hopen hrun hown, takeHead_doorbellArrives, if_pos hbad]
  · rw [exec_sqTail_taken hp hn hopen hrun hown, takeTail_doorbellArrives, if_pos htail]

theorem getPair_scEvent (off : Nat) (g : Nat → Nat) : getPair (scEvent s off g) n = getPair s n := by
  rw [getPair, scEvent, regSet_pairs, getPair]

/-- Settles O56: both doorbells are dropped alike, and the count is a register's, not the pair's. -/
theorem doorbellDropped : Obligations.DoorbellDropped := by
  refine ⟨fun s path n v hp hn hopen hnot => ⟨?_, ?_, ?_⟩,
    fun s path n v hp hn hopen hrun hown => ⟨exec_sqTail_taken hp hn hopen hrun hown, exec_cqHead_taken hp hn hopen hrun hown⟩⟩
  · rw [exec_sqTail hp hn, doorbell_dropped hopen hnot]
  · rw [exec_cqHead hp hn, doorbell_dropped hopen hnot]
  · rw [getPair_scEvent, getPair_doorbellArrives]

end Sys2Proof.Machine
end

section
/-! RNG_CMD and the end of a drain (R187, R189, R190, R208 to R211, R436). That enabling and the end of a drain keep the completions not
yet signalled is the model's choice (log 38). -/

namespace Sys2Proof.Machine

variable {s : State} {path n : Nat}

/-! A write of RNG_CMD that is taken. -/

theorem exec_ringEnable (hp : path < 5) (hn : n < 256) (hopen : pathOpen s path = true) (hbusy : busy s (96 + pairHead n) = false)
    (hawake : portAwake s (96 + pairHead n) = true) :
    exec (.ringEnable path n) s = .next (enablePair (regPut s (oRing n 0x14) 0 0 1) n) := by
  refine (onElement_of_ok _ (okPathPair_of_lt hp hn)).trans ?_
  rw [writeNow_takes hopen hbusy hawake]
  rfl

theorem exec_ringDrain (hp : path < 5) (hn : n < 256) (hopen : pathOpen s path = true) (hbusy : busy s (96 + pairHead n) = false)
    (hawake : portAwake s (96 + pairHead n) = true) :
    exec (.ringDrain path n) s = .next (drainPair (regPut s (oRing n 0x14) 0 0 0) n) := by
  refine (onElement_of_ok _ (okPathPair_of_lt hp hn)).trans ?_
  rw [writeNow_takes hopen hbusy hawake]
  rfl

theorem exec_ringReset (hp : path < 5) (hn : n < 256) (hopen : pathOpen s path = true) (hbusy : busy s (96 + pairHead n) = false)
    (hawake : portAwake s (96 + pairHead n) = true) :
    exec (.ringReset path n) s = .next (resetPair (regPut (regPut s (oRing n 0x14) 0 0 0) (oRing n 0x14) 1 1 1) n false) := by
  refine (onElement_of_ok _ (okPathPair_of_lt hp hn)).trans ?_
  rw [writeNow_takes hopen hbusy hawake]
  rfl

/-! What it does to the pair. -/

/-- A disabled pair starts where its configuration stands, and else records error 4 with a notice (R190). -/
theorem enablePair_of_disabled (hoff : (getPair s n).state = 0) :
    enablePair s n = if pairOk s n then modPair s n fun x =>
        { pairInit with state := 1, phase := true, pendCount := x.pendCount, pendSince := x.pendSince }
      else ringNotice (modPair s n fun x => { x with err := 4 }) n :=
  if_neg fun hne => hne hoff

theorem enablePair_of_ne (hne : (getPair s n).state ≠ 0) : enablePair s n = s := if_pos hne

theorem drainPair_of_running (hrun : (getPair s n).state = 1) :
    drainPair s n = modPair s n fun x => { x with state := 3, draining := true, fetched := [] } := if_pos hrun

/-! RING_DRAIN_DONE. -/

theorem exec_ringDrainDone (hn : n < 256) (hstate : (getPair s n).state = 3) (hdrain : (getPair s n).draining = true)
    (hdone : descsOf s n = []) : exec (.ringDrainDone n) s = .next (drainedPair s n) :=
  (onElement_of_ok _ (okPair_of_lt hn)).trans <| if_pos ⟨hstate, hdrain, hdone⟩

theorem exec_ringDrainDone_none (hn : n < 256)
    (hnot : (getPair s n).state ≠ 3 ∨ (getPair s n).draining = false ∨ descsOf s n ≠ []) : exec (.ringDrainDone n) s = .next s := by
  refine (onElement_of_ok _ (okPair_of_lt hn)).trans <| if_neg ?_
  rintro ⟨hstate, hdrain, hdone⟩
  rcases hnot with hother | hreset | hleft
  · exact hother hstate
  · exact Bool.false_ne_true (hreset.symm.trans hdrain)
  · exact hleft hdone

/-- Settles O28: a taken write is one of the three commands, and the pair's state tells what it does. -/
theorem ringCommands : Obligations.RingCommands := by
  refine ⟨fun s path n hp hn hopen hbusy hawake => exec_ringEnable hp hn hopen hbusy hawake, fun s n hoff hok => ?_,
    fun s n hoff hbad => ?_, fun s path n hp hn hopen hbusy hawake hrun => ?_,
    fun s path n hp hn hopen hbusy hawake => exec_ringReset hp hn hopen hbusy hawake, fun s n hne => enablePair_of_ne hne,
    fun s n clear => rfl, fun s n hn hstate hdrain hdone => exec_ringDrainDone hn hstate hdrain hdone,
    fun s n hn hnot => exec_ringDrainDone_none hn hnot⟩
  · rw [enablePair_of_disabled hoff, if_pos hok]
  · rw [enablePair_of_disabled hoff, if_neg (ne_true_of_eq_false hbad)]
  · rw [exec_ringDrain hp hn hopen hbusy hawake, drainPair_of_running (s := regPut s (oRing n 0x14) 0 0 0) hrun]

end Sys2Proof.Machine
end

section
/-! Fetching and interrupts (R195, R205, R207, R225, R479). -/

namespace Sys2Proof.Machine

variable {s : State} {n k h vec a : Nat} {host : List Host.Cell} {bytes : List Byte}

/-! DESCRIPTOR_FETCH. -/

theorem exec_descriptorFetch (hn : n < 256) (hdma : dmaOpen s (pairHead n) = true) :
    exec (.descriptorFetch n k host) s = .next (wakeDevice (fetchSlots n host k s)) :=
  (onElement_of_ok _ (okPair_of_lt hn)).trans <| congrArg Host.Outcome.next <| if_pos hdma

theorem exec_descriptorFetch_no_dma (hn : n < 256) (hdma : dmaOpen s (pairHead n) = false) :
    exec (.descriptorFetch n k host) s = .next s :=
  (onElement_of_ok _ (okPair_of_lt hn)).trans <| congrArg Host.Outcome.next <| if_neg (by simp [hdma])

/-- The next slot of a running pair is held with its index where its read arrived whole; else the pair stops (R195, R207). -/
theorem fetchSlots_succ (hrun : (getPair s n).state = 1) (hmore : (getPair s n).sqHead ≠ (getPair s n).sqTail) :
    fetchSlots n host (k + 1) s =
      match hostBytes host (sqBase s n + 128 * (getPair s n).sqHead) 128 with
      | none => fetchFailure s n (getPair s n).sqHead
      | some b => fetchSlots n host k (modPair s n fun x =>
          { x with fetched := x.fetched ++ [⟨x.sqHead, b⟩], sqHead := (x.sqHead + 1) % sqSize s n }) :=
  if_neg (not_or.2 ⟨fun hne => hne hrun, hmore⟩)

/-! COALESCE_TIMER. -/

theorem exec_coalesceTimer_due (hn : n < 256) (hpend : (getPair s n).pendSince = some a)
    (hon : bitOf (regGet s (oRing n 0x18)).toNat 14 = true) (hset : regField s (oRing n 0x1C) 25 16 ≠ 0)
    (hdue : a + 1000 * regField s (oRing n 0x1C) 25 16 ≤ s.now) : exec (.coalesceTimer n) s = .next (signalPair s n) := by
  refine (onElement_of_ok _ (okPair_of_lt hn)).trans ?_
  simp only [hpend]
  exact if_pos (by simp [hon, hset, hdue])

theorem exec_coalesceTimer_early (hn : n < 256) (hpend : (getPair s n).pendSince = some a)
    (hearly : s.now < a + 1000 * regField s (oRing n 0x1C) 25 16) : exec (.coalesceTimer n) s = .next s := by
  refine (onElement_of_ok _ (okPair_of_lt hn)).trans ?_
  simp only [hpend]
  exact if_neg (by simp [hearly])

theorem exec_coalesceTimer_none (hn : n < 256) (hpend : (getPair s n).pendSince = none) : exec (.coalesceTimer n) s = .next s := by
  refine (onElement_of_ok _ (okPair_of_lt hn)).trans ?_
  simp only [hpend]

/-! MSIX_PENDING_SEND. -/

/-- A pending message may go out (R479). -/
def mayGoOut (x : Head) (vec : Nat) : Bool := x.pba.contains vec && x.msix && msixOpen x vec && x.linkUp

theorem mayGoOut_iff {x : Head} : mayGoOut x vec = true ↔
    x.pba.contains vec = true ∧ x.msix = true ∧ msixOpen x vec = true ∧ x.linkUp = true := by
  simp only [mayGoOut, Bool.and_eq_true, and_assoc]

theorem exec_msixPendingSend (hh : h < 4) (hvec : vec < 64) :
    exec (.msixPendingSend h vec) s = if mayGoOut (getHead s h) vec then
      .next (sendMsix (modHead s h fun y => { y with pba := y.pba.filter (· != vec) }) h vec) else .next s :=
  onElement_of_ok _ (by simp [okHead_of_lt hh, hvec])

/-- Settles O30: one slot is `fetchSlots_succ`, the timer runs out at its bound, and `mayGoOut` lets a message go. -/
theorem ringTraffic : Obligations.RingTraffic := by
  refine ⟨fun s n host bytes hn hdma hrun hmore hread => ?_, fun s n host hn hdma hrun hmore hread => ?_,
    fun s n k host hn hdma => exec_descriptorFetch_no_dma hn hdma,
    fun s n a hn hpend hon hset hdue => exec_coalesceTimer_due hn hpend hon hset hdue, fun s n a hn hnot => ?_,
    fun s h vec hh hvec hpba hmsix hopen hlink => ?_, fun s h vec hh hvec hnot => ?_⟩
  · rw [exec_descriptorFetch hn hdma, fetchSlots_succ hrun hmore, hread]
    rfl
  · rw [exec_descriptorFetch hn hdma, fetchSlots_succ hrun hmore, hread]
    rfl
  · rcases hnot with hnone | ⟨hpend, hearly⟩
    · exact exec_coalesceTimer_none hn hnone
    · exact exec_coalesceTimer_early hn hpend hearly
  · rw [exec_msixPendingSend hh hvec, if_pos (mayGoOut_iff.2 ⟨hpba, hmsix, hopen, hlink⟩)]
  · have hstays : ¬ mayGoOut (getHead s h) vec = true := by
      rw [mayGoOut_iff]
      rintro ⟨hpba, hmsix, hopen, hlink⟩
      simp only [hpba, hmsix, hopen, hlink, Bool.true_eq_false, or_self] at hnot
    rw [exec_msixPendingSend hh hvec, if_neg hstays]

end Sys2Proof.Machine
end

section
/-! Completions (R202, R203, R205, R225) and the end of a reset (R209, R211). That the oldest ready record posts first, and that a reset
discards the ones not yet posted, is the model's choice (log 38). -/

namespace Sys2Proof.Machine

variable {s : State} {n k : Nat} {d : Desc} {r : Result}

/-- The ready record is posted where DMA is open and the completion ring has a free slot. -/
theorem exec_completionPost (hn : n < 256) (hready : readyDesc s n = some (k, d, r)) (hdma : dmaOpen s (pairHead n) = true)
    (hfree : (getPair s n).posted < cqSize s n) : exec (.completionPost n) s = .next (postDesc s n k d r) := by
  refine (onElement_of_ok _ (okPair_of_lt hn)).trans ?_
  simp only [hready]
  exact congrArg Host.Outcome.next (if_pos (by simp [hdma, hfree]))

theorem exec_completionPost_waits (hn : n < 256) (hnot : dmaOpen s (pairHead n) = false ∨ cqSize s n ≤ (getPair s n).posted) :
    exec (.completionPost n) s = .next s := by
  have hshut : ¬ (dmaOpen s (pairHead n) && decide ((getPair s n).posted < cqSize s n)) = true := by
    rcases hnot with hoff | hfull
    · simp [hoff]
    · simp [Nat.not_lt.2 hfull]
  refine (onElement_of_ok _ (okPair_of_lt hn)).trans ?_
  cases hready : readyDesc s n with
  | none => rfl
  | some x => exact congrArg Host.Outcome.next (if_neg hshut)

/-- One write at the tail, which advances and wraps to 0 with the phase bit toggled (R203). -/
theorem postDesc_eq : postDesc s n k d r = notePosted (modPair (dropDesc
      (emit (applyPosted s d) (.dmaWrite (pairHead n) (cqBase s n + 32 * (getPair s n).cqTail) (completionBytes s n d r) false)) k) n
    fun x => { x with cqTail := if (getPair s n).cqTail + 1 = cqSize s n then 0 else x.cqTail + 1,
                      phase := if (getPair s n).cqTail + 1 = cqSize s n then !x.phase else x.phase,
                      posted := x.posted + 1 }) n d r := by
  simp only [postDesc, beq_iff_eq]

theorem exec_ringResetDone (hn : n < 256) (hstate : (getPair s n).state = 3) (hreset : (getPair s n).draining = false)
    (hended : pairEnded s n = true) :
    exec (.ringResetDone n) s = .next (returnRings (zeroPair (forAll s (descsOf s n) discardDesc) n) (pairHead n)) :=
  (onElement_of_ok _ (okPair_of_lt hn)).trans <| if_pos ⟨hstate, hreset, hended⟩

theorem exec_ringResetDone_waits (hn : n < 256)
    (hnot : (getPair s n).state ≠ 3 ∨ (getPair s n).draining = true ∨ pairEnded s n = false) : exec (.ringResetDone n) s = .next s := by
  refine (onElement_of_ok _ (okPair_of_lt hn)).trans <| if_neg ?_
  rintro ⟨hstate, hreset, hended⟩
  rcases hnot with hother | hdrain | hleft
  · exact hother hstate
  · exact Bool.false_ne_true (hreset.symm.trans hdrain)
  · exact Bool.false_ne_true (hleft.symm.trans hended)

/-- Settles O44: a record is posted by `postDesc`, and a reset ends once `pairEnded` holds. -/
theorem completionsPosted : Obligations.CompletionsPosted := by
  refine ⟨fun s n k d r hn hready hdma hfree => ?_, fun s n hn hnot => exec_completionPost_waits hn hnot,
    fun s n hn hstate hreset hended => exec_ringResetDone hn hstate hreset hended,
    fun s n hn hnot => exec_ringResetDone_waits hn hnot⟩
  rw [exec_completionPost hn hready hdma hfree, postDesc_eq]

end Sys2Proof.Machine
end

section
/-! The links of the heads: training (R216, R217, R233) and the resets of one head (R230). That a hot reset takes the link down, and that a
Function Level Reset keeps Bus Master Enable, is the model's choice (log 37). -/

namespace Sys2Proof.Machine

variable {s : State} {h t rate w : Nat} {cxl rev : Bool} {bad : List Nat} {ndr drs : Option Nat}

/-! HEAD_LINK_UP. -/

theorem exec_headLinkUp (hh : h < 4) :
    exec (.headLinkUp h cxl rate bad ndr drs) s = .next (headUp s h cxl rate bad ndr drs) :=
  onElement_of_ok _ (okHead_of_lt hh)

/-- At a rate and on a set of lanes that do not serve, the link is directed to Disabled (R217, R233). -/
theorem headUp_fails (hen : s.boot.linkEn = true) (hdown : (getHead s h).linkUp = false) (hfree : (getHead s h).retryAt = none)
    (hbad : rate = 0 ∨ 3 < rate ∨ headSet (bad ++ exclReq s h) = none) :
    headUp s h cxl rate bad ndr drs =
      trainFailed { s with boot := { s.boot with perstN := insertNat h s.boot.perstN } } h := by
  have hnone : (if rate = 0 ∨ 3 < rate then none else headSet (bad ++ exclReq s h)) = none := by
    rcases hbad with hslow | hfast | hset
    · exact if_pos (.inl hslow)
    · exact if_pos (.inr hfast)
    · rw [hset, ite_self]
  simp [headUp, hen, hdown, hfree, hnone]

/-- The set of lanes the link forms with, at one of the three rates a head runs at. -/
theorem set_of_rate (hne : rate ≠ 0) (hle : rate ≤ 3) (hset : headSet (bad ++ exclReq s h) = some (w, rev)) :
    (if rate = 0 ∨ 3 < rate then none else headSet (bad ++ exclReq s h)) = some (w, rev) := by
  rw [if_neg (not_or.2 ⟨hne, Nat.not_lt.2 hle⟩), hset]

/-! HEAD_TRAIN_RETRY. -/

theorem exec_headTrainRetry_due (hh : h < 4) (hoff : (getHead s h).retryAt = some t) (hdue : t ≤ s.now) :
    exec (.headTrainRetry h) s = .next (modHead s h fun x => { x with retryAt := none }) := by
  refine (onElement_of_ok _ (okHead_of_lt hh)).trans ?_
  simp only [hoff, if_pos hdue]

theorem exec_headTrainRetry_waits (hh : h < 4)
    (hnot : (getHead s h).retryAt = none ∨ (getHead s h).retryAt = some t ∧ s.now < t) : exec (.headTrainRetry h) s = .next s := by
  refine (onElement_of_ok _ (okHead_of_lt hh)).trans ?_
  rcases hnot with hnone | ⟨hoff, hearly⟩
  · simp only [hnone]
  · simp only [hoff, if_neg (Nat.not_le.2 hearly)]

/-! Resets: a link that is down has nothing to reset. -/

theorem exec_headConventionalReset (hh : h < 4) : exec (.headConventionalReset h) s =
    .next (resetHead { s with boot := { s.boot with perstN := s.boot.perstN.filter (· != h) } } h) :=
  onElement_of_ok _ (okHead_of_lt hh)

theorem exec_headHotReset (hh : h < 4) :
    exec (.headHotReset h) s = .next (if (getHead s h).linkUp then resetHead s h else s) :=
  onElement_of_ok _ (okHead_of_lt hh)

theorem exec_headLinkDown (hh : h < 4) :
    exec (.headLinkDown h) s = .next (if (getHead s h).linkUp then headDown s h else s) :=
  onElement_of_ok _ (okHead_of_lt hh)

theorem exec_functionLevelReset (hh : h < 4) :
    exec (.functionLevelReset h) s = .next (if (getHead s h).linkUp then resetHeadPairs (modHead s h clearMsix) h else s) :=
  onElement_of_ok _ (okHead_of_lt hh)

/-- Settles O48: training forms with `set_of_rate` or fails by `headUp_fails`, and each reset asks whether the link is up. -/
theorem headLinks : Obligations.HeadLinks := by
  refine ⟨fun s h cxl rate w rev bad ndr drs hh hen hdown hfree hne hle hset => ?_,
    fun s h cxl rate bad ndr drs hh hen hdown hfree hbad => ?_,
    fun s h t hh hoff hdue => exec_headTrainRetry_due hh hoff hdue, fun s h t hh hnot => exec_headTrainRetry_waits hh hnot,
    fun s h hh hup => ⟨?_, ?_, ?_⟩, fun s h hh hdown => ⟨?_, ?_, ?_⟩, fun s h hh => exec_headConventionalReset hh⟩
  · rw [exec_headLinkUp hh]
    simp [headUp, hen, hdown, hfree, set_of_rate hne hle hset]
  · rw [exec_headLinkUp hh, headUp_fails hen hdown hfree hbad]
  · rw [exec_headHotReset hh, if_pos hup]
  · rw [exec_headLinkDown hh, if_pos hup, headDown]
  · rw [exec_functionLevelReset hh, if_pos hup]
    rfl
  · simp [exec_headHotReset hh, hdown]
  · simp [exec_headLinkDown hh, hdown]
  · simp [exec_functionLevelReset hh, hdown]

end Sys2Proof.Machine
end

section
/-! Power states of a head (R231, R239, R398), its S2M credits (R223) and its configuration (R225, R479). -/

namespace Sys2Proof.Machine

variable {s : State} {h t ndr drs : Nat} {cfg : ConfigWrite}

/-! D3hot and L1. -/

theorem exec_d3hotEntry (hh : h < 4) (hup : (getHead s h).linkUp = true) (hon : (getHead s h).d3hot = false) :
    exec (.d3hotEntry h) s = .next (resetHeadPairs (modHead s h fun x => { x with d3hot := true }) h) :=
  (onElement_of_ok _ (okHead_of_lt hh)).trans <| congrArg Host.Outcome.next <| if_pos (by simp [hup, hon])

theorem exec_d0Entry (hh : h < 4) (hup : (getHead s h).linkUp = true) (hoff : (getHead s h).d3hot = true) :
    exec (.d0Entry h) s = .next (wakeDevice
      (modHead (if (getHead s h).l1 then resumeLink s h else s) h fun x => { x with d3hot := false, l1 := false })) :=
  (onElement_of_ok _ (okHead_of_lt hh)).trans <| congrArg Host.Outcome.next <| if_pos (by simp [hup, hoff])

/-- A head whose link is up enters L1 from L0 once its buffers hold nothing (R231). -/
theorem exec_l1Entry (hh : h < 4) : exec (.l1Entry h) s =
    .next (if (getHead s h).linkUp && !(getHead s h).l1 && !headHolds s h then
      modHead (abortScans (holdLink s h) h) h fun x => { x with l1 := true } else s) :=
  onElement_of_ok _ (okHead_of_lt hh)

theorem exec_l1Exit (hh : h < 4) (hin : (getHead s h).l1 = true) :
    exec (.l1Exit h) s = .next (wakeDevice (modHead (resumeLink s h) h fun x => { x with l1 := false })) :=
  (onElement_of_ok _ (okHead_of_lt hh)).trans <| congrArg Host.Outcome.next <| if_pos hin

/-! S2M credits. -/

theorem responsesFull_iff : responsesFull s h = true ↔ 384 ≤ (getHead s h).responses.length := decide_eq_true_iff

theorem exec_s2mStarvation_due (hh : h < 4) (hsince : (getHead s h).fullSince = some t) (hfull : 384 ≤ (getHead s h).responses.length)
    (hunsaid : (getHead s h).starveSaid = false) (hdue : t + 1000000 ≤ s.now) :
    exec (.s2mStarvation h) s =
      .next (linkEvent (scEvent (modHead s h fun x => { x with starveSaid := true }) (oHpt h 8) fun v => putBits v 3 3 1) h 1 0) := by
  refine (onElement_of_ok _ (okHead_of_lt hh)).trans ?_
  simp only [hsince]
  exact if_pos (by simp [responsesFull_iff.2 hfull, hunsaid, hdue])

theorem exec_s2mStarvation_none (hh : h < 4) (hnot : (getHead s h).starveSaid = true ∨ (getHead s h).responses.length < 384) :
    exec (.s2mStarvation h) s = .next s := by
  have hquiet : (responsesFull s h && !(getHead s h).starveSaid) = false := by
    rcases hnot with hsaid | hfew
    · rw [hsaid, Bool.not_true, Bool.and_false]
    · rw [responsesFull, decide_eq_false (Nat.not_le.2 hfew), Bool.false_and]
  refine (onElement_of_ok _ (okHead_of_lt hh)).trans ?_
  cases hsince : (getHead s h).fullSince with
  | none => rfl
  | some t => exact if_neg (by simp [hquiet])

theorem exec_s2mCreditReturn (hh : h < 4) (hup : (getHead s h).linkUp = true) :
    ∃ t, t = drainResponses ((getHead s h).responses ++ (getHead s h).stopped)
          (modHead s h fun x => { x with ndr := x.ndr.map (· + ndr), drs := x.drs.map (· + drs), responses := [], stopped := [] }) h ∧
      exec (.s2mCreditReturn h ndr drs) s = .next (modHead t h fun y => { y with
        fullSince := if responsesFull t h then (getHead s h).fullSince else none,
        starveSaid := responsesFull t h && (getHead s h).starveSaid }) :=
  ⟨_, rfl, (onElement_of_ok _ (okHead_of_lt hh)).trans <| if_neg (by simp [hup])⟩

/-! Configuration. -/

theorem exec_pcieConfigWrite (hh : h < 4) (hup : (getHead s h).linkUp = true) :
    exec (.pcieConfigWrite h cfg) s = .next (modHead s h fun x => configure x cfg) :=
  (onElement_of_ok _ (okHead_of_lt hh)).trans <| congrArg Host.Outcome.next <| if_pos hup

/-- Settles O49: one lemma per command; a field of the configuration is one branch of `configure`. -/
theorem headStates : Obligations.HeadStates := by
  refine ⟨fun s h hh hup hon => exec_d3hotEntry hh hup hon, fun s h hh hup hoff => exec_d0Entry hh hup hoff,
    fun s h hh hup hl0 hempty => ?_, fun s h hh hnot => ?_, fun s h hh hin => exec_l1Exit hh hin,
    fun s h t hh hsince hfull hunsaid hdue => exec_s2mStarvation_due hh hsince hfull hunsaid hdue,
    fun s h hh hnot => exec_s2mStarvation_none hh hnot, fun s h ndr drs hh hup => exec_s2mCreditReturn hh hup,
    fun s h cfg hh hup => exec_pcieConfigWrite hh hup,
    fun x on v => ⟨rfl, rfl, rfl, rfl, rfl, rfl, rfl, rfl, rfl, rfl⟩⟩
  · rw [exec_l1Entry hh, if_pos (by simp [hup, hl0, hempty])]
  · rw [exec_l1Entry hh, if_neg]
    rcases hnot with hdown | hholds
    · simp [hdown]
    · simp [hholds]

end Sys2Proof.Machine
end

section
/-! Lanes: loss of lock (R233, R247), re-admission (R234, R249, R250), eye scans (R240, R241), PRBS (R242 to R246) and the clocks (R237,
R373). That `last_lane` is the highest of the four lanes of a PLL is the model's choice (log 63), and so is that a lost reference takes
the lock of every lane while the links of the heads stay up (logs 64 and 98). -/

namespace Sys2Proof.Machine

variable {s : State} {l n errors path : Nat} {pll eq lock : Bool} {rx : List Bool} {failing : List Nat} {v : Word}

theorem okLane_of_lt (hl : l < 96) : okLane l = true := decide_eq_true hl

/-! LANE_LOSS_OF_LOCK. -/

/-- What a loss of lock leaves of the lanes it takes: taps held, scans ended, clock recovery and the lane PLL unlocked (R237, R247). -/
def loseLock (s : State) (l : Nat) (pll : Bool) : State :=
  (lostLanes l pll).foldl (fun s k => modLane (abortScan (holdTaps s k) k) k fun x => { x with cdr := false })
    (if pll then { s with pwr := { s.pwr with laneLock := s.pwr.laneLock.filter (· != l / 4) } } else s)

/-- A head's link records the highest lane lost, counted within the head. -/
def noteLastLane (s : State) (l : Nat) (pll : Bool) : State :=
  if l / 16 < 4 then scEvent s (oHpt (l / 16) 8) fun v => putBits v 15 12 ((lostLanes l pll).foldl max 0 % 16) else s

/-- A link that runs on the lanes goes into Recovery without them. -/
theorem exec_laneLossOfLock_running (hl : l < 96) (hruns : linkRuns s (l / 16) = true) :
    exec (.laneLossOfLock l pll eq) s =
      .next (recover (noteLastLane (loseLock s l pll) l pll) (l / 16) ((lostLanes l pll).map (· % 16)) eq) :=
  (onElement_of_ok _ (okLane_of_lt hl)).trans <| if_neg (by simp [hruns])

theorem exec_laneLossOfLock_free (hl : l < 96) (hfree : linkRuns s (l / 16) = false) :
    exec (.laneLossOfLock l pll eq) s = .next (loseLock s l pll) :=
  (onElement_of_ok _ (okLane_of_lt hl)).trans <| if_pos (by simp [hfree])

/-! Re-admission and Recovery. -/

theorem exec_laneRetest (hl : l < 96) : exec (.laneRetest l) s =
    .next (if retestDue s l then modLane s l fun x => { x with retest := true, retestAt := s.now } else s) :=
  onElement_of_ok _ (okLane_of_lt hl)

theorem exec_laneRetestDone_due (hl : l < 96) (htests : (getLane s l).retest = true) (hdue : (getLane s l).retestAt + 1000000 ≤ s.now) :
    exec (.laneRetestDone l errors lock) s =
      .next (if lock = true ∧ errors = 0 then readmitLane (modLane s l fun x => { x with retest := false }) l
        else modLane s l fun x => { x with retest := false }) := by
  refine (onElement_of_ok _ (okLane_of_lt hl)).trans <| (if_pos (by simp [htests, hdue])).trans ?_
  simp only [Bool.and_eq_true, beq_iff_eq]

theorem exec_laneRetestDone_waits (hl : l < 96)
    (hnot : (getLane s l).retest = false ∨ s.now < (getLane s l).retestAt + 1000000) :
    exec (.laneRetestDone l errors lock) s = .next s := by
  refine (onElement_of_ok _ (okLane_of_lt hl)).trans <| if_neg ?_
  rcases hnot with hidle | hearly
  · simp [hidle]
  · simp [Nat.not_le.2 hearly]

theorem exec_autoWidenRecovery (hn : n < 6) :
    exec (.autoWidenRecovery n failing eq) s = .next (if mayWiden s n then recover s n failing eq else s) :=
  onElement_of_ok _ (decide_eq_true hn)

theorem exec_linkRecovery (hn : n < 6) :
    exec (.linkRecovery n failing eq) s = .next (if linkRuns s n then recover s n failing eq else s) :=
  onElement_of_ok _ (decide_eq_true hn)

/-! Eye scans. -/

theorem exec_eyeScanStart (hp : path < 5) (hl : l < 96) (hopen : pathOpen s path = true) (hbusy : busy s (102 + l) = false)
    (hawake : portAwake s (102 + l) = true) : exec (.eyeScanStart path l v) s = .next (takeScanCmd s l v.toNat) := by
  refine (onElement_of_ok _ (by simp [okPath_of_lt hp, okLane_of_lt hl])).trans ?_
  rw [writeNow_takes hopen hbusy hawake]

theorem takeScanCmd_starts {v : Nat} (hstart : bitOf v 31 = true) (hidle : (getLane s l).scanning = false) :
    takeScanCmd s l v = startScan (regSet s (oLan l 0x24) (BitVec.ofNat 32 (v &&& 0x031F0F0F))) l :=
  if_pos (by simp [hstart, hidle])

theorem takeScanCmd_only_writes {v : Nat} (hnot : bitOf v 31 = false ∨ (getLane s l).scanning = true) :
    takeScanCmd s l v = regSet s (oLan l 0x24) (BitVec.ofNat 32 (v &&& 0x031F0F0F)) := by
  refine if_neg ?_
  rcases hnot with hno | hscan
  · simp [hno]
  · simp [hscan]

/-- A point that is due is added; `last` tells whether the scan ends with it (R241). -/
theorem exec_eyeScanPoint_due {last : Bool} (hl : l < 96) (hscan : (getLane s l).scanning = true)
    (hdue : (getLane s l).scanAt + scanTime s l ≤ s.now) (hlast : decide (scanTotal s l ≤ (getLane s l).points.length + 1) = last) :
    exec (.eyeScanPoint l errors) s = .next (scanStatus (modLane s l fun x =>
        { x with points := x.points ++ [scanWord s l (getLane s l).points.length errors], scanning := !last, scanAt := s.now })
      l (if last then 2 else 1) (min 512 ((getLane s l).points.length + 1))) := by
  subst hlast
  exact (onElement_of_ok _ (okLane_of_lt hl)).trans <| if_neg (by simp [hscan, hdue])

theorem exec_eyeScanPoint_waits (hl : l < 96) (hnot : (getLane s l).scanning = false ∨ s.now < (getLane s l).scanAt + scanTime s l) :
    exec (.eyeScanPoint l errors) s = .next s := by
  refine (onElement_of_ok _ (okLane_of_lt hl)).trans <| if_pos ?_
  rcases hnot with hidle | hearly
  · simp [hidle]
  · simp [hearly]

/-! PRBS: the bits go to a checker that is not locked, or to one that is. -/

theorem exec_prbsLock (hl : l < 96) : exec (.prbsLock l rx) s =
    .next (if checking s l = true ∧ (getLane s l).locked = false then rx.foldl (checkBit l) s else s) := by
  refine (onElement_of_ok _ (okLane_of_lt hl)).trans ?_
  simp only [Bool.and_eq_true, Bool.not_eq_true']

theorem exec_prbsSyncLoss (hl : l < 96) : exec (.prbsSyncLoss l rx) s =
    .next (if checking s l = true ∧ (getLane s l).locked = true then rx.foldl (checkBit l) s else s) := by
  refine (onElement_of_ok _ (okLane_of_lt hl)).trans ?_
  simp only [Bool.and_eq_true]

/-! Clocks. -/

theorem exec_corePllLoss : exec .corePllLoss s = .next (if s.pwr.coreLock then loseClock s else s) := rfl

theorem exec_referenceLoss : exec .referenceLoss s = .next (if s.pwr.refLost then s else
    loseLanes (loseClock (setLine { s with pwr := { s.pwr with refLost := true } } 1 0 true))) := rfl

/-- Settles O53: a running link recovers from `loseLock`, and a scan ends with the point that makes its number `scanTotal`. -/
theorem lanes : Obligations.Lanes := by
  refine ⟨fun s l pll eq hl hruns => exec_laneLossOfLock_running hl hruns, fun s l pll eq hl hfree => exec_laneLossOfLock_free hl hfree,
    fun s l hl hdue => ?_, fun s l hl hnot => ?_,
    fun s l errors lock hl htests hdue => exec_laneRetestDone_due hl htests hdue,
    fun s l errors lock hl hnot => exec_laneRetestDone_waits hl hnot,
    fun s n failing eq hn => exec_autoWidenRecovery hn, fun s n failing eq hn => exec_linkRecovery hn,
    fun s path l v hp hl hopen hbusy hawake hstart hidle => ?_, fun s path l v hp hl hopen hbusy hawake hnot => ?_,
    fun s l errors hl hscan hdue hmore => ?_, fun s l errors hl hscan hdue hlast => ?_,
    fun s l errors hl hnot => exec_eyeScanPoint_waits hl hnot,
    fun s l rx hl => exec_prbsLock hl, fun s l rx hl => exec_prbsSyncLoss hl,
    fun s l next => rfl, fun s l bit e inj next => rfl, fun s => exec_corePllLoss, fun s => exec_referenceLoss⟩
  · rw [exec_laneRetest hl, if_pos hdue]
  · rw [exec_laneRetest hl, if_neg (ne_true_of_eq_false hnot)]
  · rw [exec_eyeScanStart hp hl hopen hbusy hawake, takeScanCmd_starts hstart hidle]
  · rw [exec_eyeScanStart hp hl hopen hbusy hawake, takeScanCmd_only_writes hnot]
  · simpa using exec_eyeScanPoint_due hl hscan hdue (decide_eq_false (Nat.not_le.2 hmore))
  · simpa using exec_eyeScanPoint_due hl hscan hdue (decide_eq_true hlast)

end Sys2Proof.Machine
end

section
/-! Responders: SPDM over DOE and MCTP (R227, R366 to R369), DOE (R227, R228) and the primary mailbox (R229). Codes and layouts are the
model's reading of the public standards (log 62). -/

namespace Sys2Proof.Machine

variable {s t : State} {r h log off len code type : Nat} {data handles : List Nat} {g : Head → Head} {msg : SpdmReq}

/-! SPDM. -/

theorem onResponder_of_can (hr : r < 5) (hcan : canAsk s r = true) :
    onElement (decide (r < 5)) (.next (if canAsk s r then t else s)) = .next t :=
  (onElement_of_ok _ (decide_eq_true hr)).trans <| congrArg Host.Outcome.next <| if_pos hcan

theorem onResponder_of_cannot (hr : r < 5) (hcannot : canAsk s r = false) :
    onElement (decide (r < 5)) (.next (if canAsk s r then t else s)) = .next s :=
  (onElement_of_ok _ (decide_eq_true hr)).trans <| congrArg Host.Outcome.next <| if_neg (ne_true_of_eq_false hcannot)

/-- The MCTP target can be asked from the end of start-up step 3 (R359, R459). -/
theorem canAsk_mctp (haddr : addressed s 1 = true) (hstep : 4 ≤ s.boot.step) : canAsk s 4 = true := by
  simp [canAsk, haddr, hstep]

theorem exec_mctpMessage_of_cannot (hcannot : canAsk s 4 = false) : exec (.mctpMessage msg) s = .next s :=
  onResponder_of_cannot (by decide) hcannot

/-! DOE: an object is answered, and aborted, on a head whose link is up. -/

theorem onHead_doeAnswer_of_up (hh : h < 4) (hup : (getHead s h).linkUp = true) : onElement (okHead h) (.next (doeAnswer s h type data)) =
    .next (emit (modHead s h fun x => { x with doeBusy := true }) (.doe h type data)) :=
  (onElement_of_ok _ (okHead_of_lt hh)).trans <| congrArg Host.Outcome.next <| if_pos hup

theorem onHead_doeAnswer_of_down (hh : h < 4) (hdown : (getHead s h).linkUp = false) :
    onElement (okHead h) (.next (doeAnswer s h type data)) = .next s :=
  (onElement_of_ok _ (okHead_of_lt hh)).trans <| congrArg Host.Outcome.next <| if_neg (ne_true_of_eq_false hdown)

theorem exec_doeAbort (hh : h < 4) : exec (.doeAbort h) s =
    .next (if (getHead s h).linkUp then modHead s h fun x => { x with doeBusy := false } else s) :=
  onElement_of_ok _ (okHead_of_lt hh)

/-! The primary mailbox. -/

/-- The mailbox of a head answers: its link is up in CXL mode, its function in D0 (R216, R224). -/
def mailOpen (x : Head) : Bool := x.linkUp && x.cxl && !x.d3hot

theorem mailOpen_of (hup : (getHead s h).linkUp = true) (hcxl : (getHead s h).cxl = true) (hd0 : (getHead s h).d3hot = false) :
    mailOpen (getHead s h) = true := by
  simp [mailOpen, hup, hcxl, hd0]

theorem mailAnswer_of_open (ho : mailOpen (getHead s h) = true) : mailAnswer s h code data = emit s (.mailbox h code data) := if_pos ho

theorem mailAnswer_of_shut (hs : mailOpen (getHead s h) = false) : mailAnswer s h code data = s := if_neg (ne_true_of_eq_false hs)

theorem mailChange_of_open (ho : mailOpen (getHead s h) = true) : mailChange s h g = mailAnswer (modHead s h g) h 0 [] :=
  congrArg (mailAnswer · h 0 []) (if_pos ho)

theorem mailChange_of_shut (hs : mailOpen (getHead s h) = false) : mailChange s h g = s :=
  (congrArg (mailAnswer · h 0 []) (if_neg (ne_true_of_eq_false hs))).trans (mailAnswer_of_shut hs)

theorem onHead_mailAnswer_of_open (hh : h < 4) (ho : mailOpen (getHead s h) = true) :
    onElement (okHead h) (.next (mailAnswer s h code data)) = .next (emit s (.mailbox h code data)) := by
  rw [onElement_of_ok _ (okHead_of_lt hh), mailAnswer_of_open ho]

theorem onHead_mailAnswer_of_shut (hh : h < 4) (hs : mailOpen (getHead s h) = false) :
    onElement (okHead h) (.next (mailAnswer s h code data)) = .next s := by
  rw [onElement_of_ok _ (okHead_of_lt hh), mailAnswer_of_shut hs]

/-! The two logs: the bytes of the CEL, and the event records. -/

theorem exec_getLog (hh : h < 4) : exec (.getLog h off len) s =
    .next (if celBytes.length < off + len then mailAnswer s h 2 [] else mailAnswer s h 0 ((celBytes.drop off).take len)) :=
  onElement_of_ok _ (okHead_of_lt hh)

/-- The records of one log of a head, oldest first. -/
def logRecords (x : Head) (log : Nat) : List EventRec := x.events.filter fun e => logOf e == log

theorem exec_getEventRecords (hh : h < 4) : exec (.getEventRecords h log) s =
    .next (if 4 ≤ log then mailAnswer s h 2 []
      else mailAnswer s h 0 (((logRecords (getHead s h) log).map fun e => [e.handle, e.group, e.src, e.severity]).flatten)) :=
  onElement_of_ok _ (okHead_of_lt hh)

theorem exec_clearEventRecords_of_shut (hh : h < 4) (hs : mailOpen (getHead s h) = false) :
    exec (.clearEventRecords h log handles) s = .next s :=
  (onElement_of_ok _ (okHead_of_lt hh)).trans <| if_pos (congrArg (!·) hs)

/-- A mailbox that answers clears the named records, unless the log or a handle is none (R229). -/
theorem exec_clearEventRecords_of_open (hh : h < 4) (ho : mailOpen (getHead s h) = true) : exec (.clearEventRecords h log handles) s =
    if 4 ≤ log then .next (mailAnswer s h 2 [])
    else if handles.all ((logRecords (getHead s h) log).map EventRec.handle).contains then
      .next (mailAnswer (modHead s h fun x => { x with events := x.events.filter fun e => !(logOf e == log && handles.contains e.handle) }) h 0 [])
    else .next (mailAnswer s h 14 []) :=
  (onElement_of_ok _ (okHead_of_lt hh)).trans <| if_neg (ne_true_of_eq_false (congrArg (!·) ho))

theorem exec_setEventInterruptPolicy {pol : Word} (hh : h < 4) :
    exec (.setEventInterruptPolicy h pol) s = .next (mailChange s h fun x => { x with policy := pol }) :=
  onElement_of_ok _ (okHead_of_lt hh)

theorem exec_setTimestamp {ts : BitVec 64} (hh : h < 4) :
    exec (.setTimestamp h ts) s = .next (mailChange s h fun x => { x with stamp := ts, stampAt := s.now }) :=
  onElement_of_ok _ (okHead_of_lt hh)

/-! What a mailbox that does not answer does: nothing. -/

theorem exec_getLog_of_shut (hh : h < 4) (hs : mailOpen (getHead s h) = false) : exec (.getLog h off len) s = .next s := by
  rw [exec_getLog hh, mailAnswer_of_shut hs, mailAnswer_of_shut hs, ite_self]

theorem exec_getEventRecords_of_shut (hh : h < 4) (hs : mailOpen (getHead s h) = false) : exec (.getEventRecords h log) s = .next s := by
  rw [exec_getEventRecords hh, mailAnswer_of_shut hs, mailAnswer_of_shut hs, ite_self]

/-- Settles O60: a responder that can be asked answers, and so do a head's DOE while its link is up and its mailbox while it is open. -/
theorem responders : Obligations.Responders := by
  refine ⟨fun s r slot off len op offers signed nonce hr hcan => ?_, fun s slot off len op offers signed nonce haddr hstep => ?_,
    fun s r slot off len op offers signed nonce hr hcannot => ?_, fun s msg hcannot => exec_mctpMessage_of_cannot hcannot,
    fun s h entry hh hup => ⟨?_, ?_⟩, fun s h opcode hh hup hcxl hd0 => ?_,
    fun s h off len log hh hup hcxl hd0 hin hlog => ?_, fun s h log handles hh hup hcxl hd0 hlog hknown => ?_,
    fun s h off len log handles hh hup hcxl hd0 hout hlog => ?_, fun s h log handles hh hup hcxl hd0 hlog hunknown => ?_,
    fun s h pol ts hh hup hcxl hd0 => ?_, fun s h opcode off len log handles pol ts hh hs => ?_,
    fun s h index entry hh hdown => ⟨?_, ?_⟩⟩
  · and_intros <;> exact onResponder_of_can hr hcan
  · have hcan : canAsk s 4 = true := canAsk_mctp haddr hstep
    have hr : 4 < 5 := by decide
    refine ⟨rfl, ?_⟩
    and_intros <;> exact onResponder_of_can hr hcan
  · and_intros <;> exact onResponder_of_cannot hr hcannot
  · rw [exec_doeAbort hh, if_pos hup]
  · and_intros <;> exact onHead_doeAnswer_of_up hh hup
  · have ho : mailOpen (getHead s h) = true := mailOpen_of hup hcxl hd0
    and_intros <;> exact onHead_mailAnswer_of_open hh ho
  · have ho : mailOpen (getHead s h) = true := mailOpen_of hup hcxl hd0
    rw [exec_getLog hh, if_neg (Nat.not_lt.2 hin), exec_getEventRecords hh, if_neg (Nat.not_le.2 hlog)]
    exact ⟨congrArg _ (mailAnswer_of_open ho), congrArg _ (mailAnswer_of_open ho)⟩
  · rw [exec_clearEventRecords_of_open hh (mailOpen_of hup hcxl hd0), if_neg (Nat.not_le.2 hlog)]
    exact if_pos hknown
  · have ho : mailOpen (getHead s h) = true := mailOpen_of hup hcxl hd0
    rw [exec_getLog hh, if_pos hout, exec_getEventRecords hh, if_pos hlog, exec_clearEventRecords_of_open hh ho, if_pos hlog,
      mailAnswer_of_open ho]
    exact ⟨rfl, rfl, rfl⟩
  · rw [exec_clearEventRecords_of_open hh (mailOpen_of hup hcxl hd0), if_neg (Nat.not_le.2 hlog),
      ← mailAnswer_of_open (mailOpen_of hup hcxl hd0)]
    exact if_neg (ne_true_of_eq_false hunknown)
  · have ho : mailOpen (getHead s h) = true := mailOpen_of hup hcxl hd0
    rw [exec_setEventInterruptPolicy hh, exec_setTimestamp hh, mailChange_of_open ho, mailChange_of_open ho]
    exact ⟨rfl, rfl⟩
  · refine ⟨?_, ?_, ?_, ?_, ?_, ?_, ?_, ?_, exec_getLog_of_shut hh hs, exec_getEventRecords_of_shut hh hs,
      exec_clearEventRecords_of_shut hh hs, ?_, ?_⟩
    iterate 8 exact onHead_mailAnswer_of_shut hh hs
    · rw [exec_setEventInterruptPolicy hh, mailChange_of_shut hs]
    · rw [exec_setTimestamp hh, mailChange_of_shut hs]
  · rw [exec_doeAbort hh, if_neg (ne_true_of_eq_false hdown)]
  · and_intros <;> exact onHead_doeAnswer_of_down hh hdown

end Sys2Proof.Machine
end

section
/-! Commands of a leat port: what they answer by the guard they test. -/

namespace Sys2Proof.Machine

variable {s t : State} {k : Nat} {b : Bool} {a : Answer}

theorem onPort (hk : k < 2) : onElement (okPort k) a = a := onElement_of_ok _ (decide_eq_true hk)

theorem onPort_runs (hk : k < 2) (hb : b = true) : onElement (okPort k) (if !b then .next s else a) = a :=
  (onPort hk).trans <| if_neg (by simp [hb])

theorem onPort_stays (hk : k < 2) (hb : b = false) : onElement (okPort k) (if !b then .next s else a) = .next s :=
  (onPort hk).trans <| if_pos (by simp [hb])

theorem onPort_takes (hk : k < 2) (hb : b = true) : onElement (okPort k) (.next (if b then t else s)) = .next t :=
  (onPort hk).trans <| congrArg _ (if_pos hb)

theorem onPort_ignores (hk : k < 2) (hb : b = false) : onElement (okPort k) (.next (if b then t else s)) = .next s :=
  (onPort hk).trans <| congrArg _ (if_neg (ne_true_of_eq_false hb))

end Sys2Proof.Machine
end

section
/-! Leat ports (R252 to R260, R277): training, flits and their replay, heartbeats. The model's choices among them: a replay sends every
flit left and counts once (log 30); a self loop marks both ports, and every heartbeat of another part number is told (log 31). -/

namespace Sys2Proof.Machine

variable {s : State} {k rate w seq lastGood reqSlots rspSlots : Nat} {rev : Bool} {bad : List Nat} {hb : HeartbeatMsg}

/-! Training. -/

/-- The rate a port comes up at where it could reach `rate`: LET_CTL.rate_cap keeps it at 32 GT/s (R253). -/
def cappedRate (s : State) (k rate : Nat) : Nat := if rate = 3 ∧ bitOf (regGet s (oLet k 0)).toNat 1 then 2 else rate

theorem cappedRate_of_free (hfree : bitOf (regGet s (oLet k 0)).toNat 1 = false) : cappedRate s k rate = rate :=
  if_neg (by simp [hfree])

theorem cappedRate_of_capped (hcap : bitOf (regGet s (oLet k 0)).toNat 1 = true) (hrate : rate = 2 ∨ rate = 3) :
    cappedRate s k rate = 2 := by
  rcases hrate with rfl | rfl
  · exact if_neg (by simp)
  · exact if_pos ⟨rfl, hcap⟩

theorem exec_leatPortTrain (hk : k < 2) (hmay : portMayTrain s k = true) (hrate : cappedRate s k rate = 2 ∨ cappedRate s k rate = 3)
    (hset : portSet (bad ++ exclReq s (4 + k)) = some (w, rev)) :
    exec (.leatPortTrain k rate bad) s = .next (portUp s k (cappedRate s k rate) w bad) := by
  refine (onPort_runs hk hmay).trans ?_
  change (match (if cappedRate s k rate = 2 ∨ cappedRate s k rate = 3 then portSet (bad ++ exclReq s (4 + k)) else none) with
    | none => Host.Outcome.next (portTrainFailed s k)
    | some (w, _) => .next (portUp s k (cappedRate s k rate) w bad)) = _
  rw [if_pos hrate, hset]

theorem exec_leatPortTrain_fails (hk : k < 2) (hmay : portMayTrain s k = true) (hset : portSet (bad ++ exclReq s (4 + k)) = none) :
    exec (.leatPortTrain k rate bad) s = .next (portTrainFailed s k) := by
  refine (onPort_runs hk hmay).trans ?_
  simp only [hset, ite_self]

/-! Flits and their replay. -/

/-- A flit is acknowledged where it is in sequence with a good check, and else the last good one is named in a NAK (R258). -/
theorem exec_flitReceive {crcOk : Bool} (hk : k < 2) (hup : (getPort s k).linkUp = true) : exec (.flitReceive k seq crcOk) s = .next
    (if crcOk && seq % 1024 == ((getPort s k).rxLast + 1) % 1024 then
       sendLink (modPort s k fun p => { p with rxAt := s.now, rxLast := seq % 1024 }) k false 0 0
     else sendLink (modPort s k fun p => { p with rxAt := s.now, rxLast := p.rxLast }) k true 0 0) := by
  refine (onPort_runs hk hup).trans ?_
  dsimp only
  generalize (crcOk && seq % 1024 == ((getPort s k).rxLast + 1) % 1024) = good
  cases good <;> rfl

theorem exec_leatReplayTimeout (hk : k < 2) (hup : (getPort s k).linkUp = true) (hleft : (getPort s k).unacked.isEmpty = false)
    (hdue : (getPort s k).linkAt + 10000 ≤ s.now) : exec (.leatReplayTimeout k) s = .next (replay s k) :=
  onPort_takes hk (by simp [hup, hleft, hdue])

theorem exec_leatReplayTimeout_of_down (hk : k < 2) (hdown : (getPort s k).linkUp = false) :
    exec (.leatReplayTimeout k) s = .next s :=
  onPort_ignores hk (by simp [hdown])

/-! Heartbeats. -/

theorem exec_heartbeatSend (hk : k < 2) (hup : (getPort s k).linkUp = true)
    (hdue : (getPort s k).beatAt = 0 ∨ (getPort s k).beatAt + 100000 ≤ s.now) :
    exec (.heartbeatSend k) s = .next (leatOwn (modPort s k fun p => { p with beatAt := s.now }) k 6 2 0 0 (heartbeatBytes s k)) :=
  (onPort hk).trans <| if_pos (by simp [hup, hdue])

theorem exec_heartbeatSend_of_down (hk : k < 2) (hdown : (getPort s k).linkUp = false) : exec (.heartbeatSend k) s = .next s :=
  (onPort hk).trans <| if_neg (by simp [hdown])

/-- The device's own nonce, from its own other port, is a self loop (R255). -/
theorem exec_heartbeat_own (hk : k < 2) (hup : (getPort s k).linkUp = true) (hnonce : hb.nonce = s.leat.nonce.toNat)
    (hport : hb.sendPort = 1 - k) :
    exec (.heartbeat k hb) s = .next (forAll s [0, 1] fun s j => modPort s j fun p => { p with selfLoop := true }) :=
  (onPort_runs hk hup).trans <| if_pos ⟨hnonce, hport⟩

/-- What a heartbeat of another device tells of it (R254, R256). -/
def notePartner (s : State) (hb : HeartbeatMsg) : State := modLeat s fun l =>
  { l with partnerId := hb.deviceId, partnerEpoch := hb.epoch, partnerPart := hb.part, partnerApplied := hb.applied % 2 ^ 24 }

theorem exec_heartbeat_partner (hk : k < 2) (hup : (getPort s k).linkUp = true)
    (hother : hb.nonce ≠ s.leat.nonce.toNat ∨ hb.sendPort ≠ 1 - k) (hpart : hb.part = partNumber) :
    exec (.heartbeat k hb) s = .next (settlePort (modPort (notePartner s hb) k fun p => { p with heard := true, foreign := false }) (1 - k)
      (if k = 0 then hb.last1 else hb.last0)) :=
  (onPort_runs hk hup).trans <| (if_neg fun hown => hother.elim (· hown.1) (· hown.2)).trans <| if_neg fun hne => hne hpart

theorem exec_heartbeat_foreign (hk : k < 2) (hup : (getPort s k).linkUp = true)
    (hother : hb.nonce ≠ s.leat.nonce.toNat ∨ hb.sendPort ≠ 1 - k) (hpart : hb.part ≠ partNumber) :
    exec (.heartbeat k hb) s =
      .next (portEvent (modPort (notePartner s hb) k fun p => { p with heard := false, foreign := true }) k 1) :=
  (onPort_runs hk hup).trans <| (if_neg fun hown => hother.elim (· hown.1) (· hown.2)).trans <| if_pos hpart

/-- Settles O50: a port that is up acts on what comes, and one that is neither up nor in Recovery keeps the state as it is. -/
theorem leatPorts : Obligations.LeatPorts := by
  refine ⟨fun s k rate w rev bad hk hmay hfree hrate hset => ?_,
    fun s k bad hk hmay hnone => exec_leatPortTrain_fails hk hmay hnone,
    fun s k rate w rev bad hk hmay hcap hrate hset => ?_,
    fun s k hk halive => onPort_takes hk halive,
    fun s k hk hup => onPort_runs hk hup,
    fun s k seq crcOk hk hup => exec_flitReceive hk hup,
    fun s k hk hup hleft hdue => exec_leatReplayTimeout hk hup hleft hdue,
    fun s k hk => onPort hk,
    fun s k lastGood reqSlots rspSlots hk hup => onPort_runs hk hup,
    fun s k lastGood reqSlots rspSlots hk hup => onPort_runs hk hup,
    fun s k hk hup hdue => exec_heartbeatSend hk hup hdue,
    fun s k hb hk hup hnonce hport => exec_heartbeat_own hk hup hnonce hport,
    fun s k hb hk hup hother => ⟨notePartner s hb, rfl, exec_heartbeat_partner hk hup hother, exec_heartbeat_foreign hk hup hother⟩,
    fun s k seq lastGood rq rs ok nak hb hk hdown hrec => ?_⟩
  · have hr : cappedRate s k rate = rate := cappedRate_of_free hfree
    rw [exec_leatPortTrain hk hmay (by rwa [hr]) hset, hr]
  · have hr : cappedRate s k rate = 2 := cappedRate_of_capped hcap hrate
    rw [exec_leatPortTrain hk hmay (Or.inl hr) hset, hr]
  · exact ⟨onPort_stays hk hdown, onPort_stays hk hdown, exec_leatReplayTimeout_of_down hk hdown, exec_heartbeatSend_of_down hk hdown,
      onPort_stays hk hdown, onPort_stays hk hdown, onPort_ignores hk (by simp [portAlive, hdown, hrec])⟩

end Sys2Proof.Machine
end

section
/-! Mirror traffic (R263, R269, R272, R273, R275, R277, R280, R281, R285 to R287): messages of the partner, the pond, the shared page, the
resilver and the loss of the partner. The model's choices among them: copies and batches wait until the flumes of their lines are open
(log 92), and a run-out acknowledgement limit loses the partner (log 35). -/

namespace Sys2Proof.Machine

variable {s : State} {k line lines tag i did path off : Nat} {a : Answer} {env : OpEnv}

/-! Messages that need an open port of a joined pair: copies. -/

theorem onPort_of_joined (hk : k < 2) (ho : leatOpen s k = true) (hj : s.leat.joined = true) :
    onElement (okPort k) (if !leatOpen s k || !s.leat.joined then .next s else a) = a :=
  (onPort hk).trans <| if_neg (by simp [ho, hj])

theorem onPort_of_shut (hk : k < 2) (hs : leatOpen s k = false) :
    onElement (okPort k) (if !leatOpen s k || !s.leat.joined then .next s else a) = .next s :=
  (onPort hk).trans <| if_pos (by simp [hs])

/-- Copies are answered once their flumes are open in the woken device and no line of them waits for a scrub. -/
theorem exec_copyRequest {refetch : Bool} (hk : k < 2) (ho : leatOpen s k = true) (hj : s.leat.joined = true)
    (hopen : ((rangeFlumes (wakeDevice s) [(0, line * 64, max 1 (min 16 lines) * 64)]).filter fun f => !flumeOpen (wakeDevice s) f) = [])
    (hscrub : rangeScrubbed (wakeDevice s) [(0, line * 64, max 1 (min 16 lines) * 64)] = false) :
    exec (.copyRequest k line lines refetch tag env) s = .next (answerCopy k line (max 1 (min 16 lines)) tag env (wakeDevice s)) :=
  (onPort_of_joined hk ho hj).trans <| whenOpen_acts hopen hscrub

/-- A reply ends the copy of its tag, with its first line or without one (R281). -/
theorem exec_copyData {ls : List CopyLine} {c : CopyWait} (hk : k < 2) (ho : leatOpen s k = true) (hj : s.leat.joined = true)
    (hc : s.leat.copies.find? (fun c => c.tag == tag) = some c) :
    exec (.copyData k line false ls tag) s = .next (match ls with
      | [] => copyFailed (sendLink (dropCopy s c) k false 0 (1 + 4 * ls.length)) c
      | d :: _ => copyArrived (sendLink (dropCopy s c) k false 0 (1 + 4 * ls.length)) c d) := by
  refine (onPort_of_joined hk ho hj).trans ?_
  simp only [hc]
  rfl

/-! Mirror writes. -/

/-- A sync line of a matched secondary region waits for its flume on port 4 in class 2 (R263, R269). -/
theorem applyLine_ingress {data : Line} {md : BitVec 2} {poison : Bool} (hj : s.leat.joined = true)
    (hi : (regionAt s (line * 64)).filter (fun i => regionMatched s i && rgSecondary (regionWord s i)) = some i) :
    applyLine s k line data md poison 0 tag = ingress (wakeDevice s) (flumeOf s i line)
      { reqInit with port := 4, cls := 2, kind := .write, data := data, poison := poison, md := some md, dest := .apply 0 tag k,
                     dpaLine := line, line := (lineOf (regionWord s i) (line * 64)).2, region := i, entry := regionWord s i } := by
  simp only [applyLine, hj, hi]
  rfl

/-! The pond and the shared page. -/

/-- Entry `e` of the pond, marked as sent now, and its message on the leat (R272). -/
def pondSent (s : State) (e : PondEntry) : State :=
  sendMirror (modLeat s fun l => { l with pond := mapWhere (fun p => p.seq == e.seq) (fun p => { p with sent := true, since := s.now }) l.pond })
    (flumeOf s e.region e.line) 1 e.seq e.line e.data.toNat e.md.toNat e.poison

theorem exec_pondSend {e : PondEntry} (he : s.leat.pond.find? (fun e => !e.sent) = some e) (hj : s.leat.joined = true)
    (hready : pondReady s e = true) : exec .pondSend s = .next (releasePages (pondSent s e).leat.pageWait (pondSent s e)) := by
  change execPondSend s = _
  simp only [execPondSend, he, hj, hready]
  rfl

/-- While the pair is not joined, a word of the own half is stored and nothing is sent (R275). -/
theorem takePage_of_alone {w : Nat} {v : Word} (hown : w < 512) (hj : s.leat.joined = false) :
    takePage s path w v = modLeat s fun l => { l with page := tabSet 0 l.page w v, pageMade := s.leat.pageMade + 1 } :=
  (if_neg (Nat.not_le.2 hown)).trans <| if_neg (ne_true_of_eq_false hj)

theorem exec_sharedPageWrite {v : Word} (hp : path < 5) (hoff : off < 0x1000) (halign : off % 4 = 0) (hopen : pathOpen s path = true)
    (hbusy : busy s 100 = false) (hawake : portAwake s 100 = true) :
    exec (.sharedPageWrite path off v) s = .next (takePage s path (off / 4) v) := by
  refine (onElement_of_ok _ (by simp [okPath_of_lt hp, hoff])).trans <| (if_neg fun hne => hne halign).trans ?_
  rw [writeNow_takes hopen hbusy hawake]

/-! The resilver. -/

/-- A resilver sends the next batch of its lowest granule not yet passed, once the flumes are open (R286). -/
theorem exec_resilverSend {g : Nat} {d : Desc} {m : List Byte} (hd : adminDesc s did 0x46 = some (d, m)) (hwork : d.work = 2)
    (hg : ((resilverGranules s (natAt d.prog 0)).filter fun g => !(failedGranules d).contains g).find?
      (fun g => natAt d.prog 4 < (g + 1) * 1024) = some g)
    (hopen : ((rangeFlumes s [(0, max (natAt d.prog 4) (g * 1024) * 64, 1024)]).filter fun f => !flumeOpen s f) = [])
    (hscrub : rangeScrubbed s [(0, max (natAt d.prog 4) (g * 1024) * 64, 1024)] = false) :
    exec (.resilverSend did env) s = .next (resilverBatch did ((regionAt s (max (natAt d.prog 4) (g * 1024) * 64)).getD 0)
      (max (natAt d.prog 4) (g * 1024)) d env s) := by
  change execResilverSend did env s = _
  simp only [execResilverSend, hd, hg, hwork, whenOpen_acts hopen hscrub]
  rfl

/-! Loss of the partner. -/

theorem exec_flitTimeout_silent (hj : s.leat.joined = true) (h0 : (getPort s 0).rxAt + 3000000 ≤ s.now)
    (h1 : (getPort s 1).rxAt + 3000000 ≤ s.now) : exec .flitTimeout s = .next (partnerLost s) :=
  congrArg Host.Outcome.next <| if_pos (by simp [hj, h0, h1])

theorem exec_flitTimeout_waits
    (hnot : s.leat.joined = false ∨ s.now < (getPort s 0).rxAt + 3000000 ∨ s.now < (getPort s 1).rxAt + 3000000) :
    exec .flitTimeout s = .next s := by
  refine congrArg Host.Outcome.next <| if_neg ?_
  rcases hnot with halone | hearly | hearly
  · simp only [halone, Bool.false_and, Bool.false_eq_true, not_false_eq_true]
  · simp [Nat.not_le.2 hearly]
  · simp [Nat.not_le.2 hearly]

theorem exec_ackLimitExpiry (hj : s.leat.joined = true)
    (hlate : ((s.leat.sync.any fun w => decide (w.since + ackLimit s < s.now)) ||
      s.leat.pond.any fun e => e.sent && decide (e.since + ackLimit s < s.now)) = true) :
    exec .ackLimitExpiry s =
      .next (forAll (partnerLost (forAll s [0, 1] fun s k => if portAlive (getPort s k) then portDown s k else s)) [0, 1]
        fun s k => modPort s k fun p => { p with disabled := true, retryAt := some (s.now + 1000000) }) :=
  if_pos (Bool.and_eq_true_iff.2 ⟨hj, hlate⟩)

/-- Settles O51: an open port acts on each message of the partner, and one that is shut on none. -/
theorem mirrorTraffic : Obligations.MirrorTraffic := by
  refine ⟨fun s k line cls tag data md hk ho => ⟨onPort_takes hk ho, onPort_takes hk ho⟩,
    fun s k line data md poison tag i hj hi => applyLine_ingress hj hi,
    fun s k first count stored hk ho => ?_,
    fun s k line lines tag refetch env hk ho hj hopen hscrub => exec_copyRequest hk ho hj hopen hscrub,
    fun s k line tag d rest c hk ho hj hc => ⟨exec_copyData hk ho hj hc, exec_copyData hk ho hj hc⟩,
    fun s k line lines cls tag first count data md stored rf push env ds hk hs => ?_,
    fun s e he hj hready => exec_pondSend he hj hready,
    fun s path off v hp hoff halign hopen hbusy hawake hj => ?_,
    fun s did g a env d m hd hwork hg ha hopen hscrub => ?_,
    fun s hj h0 h1 => exec_flitTimeout_silent hj h0 h1,
    fun s hnot => exec_flitTimeout_waits hnot,
    fun s hj hlate => exec_ackLimitExpiry hj hlate⟩
  · and_intros <;> exact onPort_runs hk ho
  · exact ⟨onPort_ignores hk hs, onPort_ignores hk hs, onPort_stays hk hs, onPort_of_shut hk hs, onPort_of_shut hk hs⟩
  · rw [exec_sharedPageWrite hp (by omega) halign hopen hbusy hawake, takePage_of_alone (by omega) hj]
  · subst ha
    exact exec_resilverSend hd hwork hg hopen hscrub

end Sys2Proof.Machine
end

section
/-! The state of the pair (R262, R264 to R266, R268, R275, R276, R283, R284, R288): the join, the partner's updates and the switchover.
The model's choices among them: the pond resumes at the partner's applied number plus 1 (log 31); an entry is installed as secondary,
ROLE_CHANGE_UPDATE toggles roles, and an update's acknowledgement waits for the pond entries before it (log 32). -/

namespace Sys2Proof.Machine

variable {s : State} {k idx mask tag : Nat}

/-! Updates of a region entry. -/

theorem exec_regionEntryUpdate {entry : BitVec 128} (hk : k < 2) (ho : leatOpen s k = true) (hidx : idx < 64) :
    exec (.regionEntryUpdate k idx entry tag) s =
      .next (ackUpdate (installEntry s idx entry.toNat).2 k tag 2 (installEntry s idx entry.toNat).1) := by
  refine (onPort_runs hk ho).trans ?_
  simp only [if_pos hidx]

/-- An entry that is secondary itself, does not pass here, or is in use here is not installed (R264). -/
theorem installEntry_refused {i e : Nat} (hinvalid : regionLive s i = false)
    (hbad : rgSecondary e = true ∨ entryReason s i (partnerForm e) ≠ 0 ∨ entryUsed s i = true) : installEntry s i e = (false, s) := by
  refine (if_neg (ne_true_of_eq_false hinvalid)).trans <| if_pos ?_
  rcases hbad with hsec | hreason | hused
  · simp [hsec]
  · simp [hreason]
  · simp [hused]

/-- The partner's clearing of an entry takes only where the entry is not in use (R265). -/
theorem exec_regionClearUpdate (hk : k < 2) (ho : leatOpen s k = true) (hidx : idx < 64) :
    exec (.regionClearUpdate k idx tag) s = .next (if entryUsed s idx then ackUpdate s k tag 2 false
      else ackUpdate (setEntry s idx (putBits (regionWord s idx) 88 88 0)) k tag 2 true) := by
  refine (onPort_runs hk ho).trans ?_
  cases hused : entryUsed s idx
  · exact if_pos ⟨hidx, rfl⟩
  · exact if_neg (by simp)

/-! The shared page. -/

/-- The partner's half of the page with its new words. -/
def pageTaken (s : State) (words : List (Nat × Word)) : State :=
  modLeat s fun l => { l with page := words.foldl (fun t e => if e.1 < 512 then tabSet 0 t (512 + e.1) e.2 else t) l.page }

/-- The words are stored at once; their acknowledgement waits for the pond entries that came before (R275). -/
theorem exec_sharedPageUpdate {words : List (Nat × Word)} (hk : k < 2) (ho : leatOpen s k = true) :
    exec (.sharedPageUpdate k words tag) s = .next (if applyWaits s then
        returnSlots (modLeat (pageTaken s words) fun l => { l with ackHold := l.ackHold ++ [tag % 2 ^ 24] }) k (1 + (words.length + 3) / 4)
      else ackUpdate (pageTaken s words) k tag (1 + (words.length + 3) / 4) true) := by
  refine (onPort_runs hk ho).trans ?_
  cases applyWaits s <;> rfl

/-! Switchover. -/

/-- A switchover may be done for regions that are mirrored and primary here, while the pair is joined (R284). -/
def maySwitch (s : State) (mask : Nat) : Bool :=
  s.leat.joined && (namedRegions mask).all fun i => regionMirrored s i && !rgSecondary (regionWord s i)

theorem exec_switchoverRequest (hk : k < 2) (ho : leatOpen s k = true) :
    exec (.switchoverRequest k mask tag) s = .next (if maySwitch s mask then
        ackUpdate (modLeat s fun l => { l with quiesce := (namedRegions mask).foldl (fun l i => insertNat i l) l.quiesce }) k tag 2 true
      else ackUpdate s k tag 2 false) := by
  refine (onPort_runs hk ho).trans ?_
  change Host.Outcome.next (ackUpdate (if maySwitch s mask then _ else s) k tag 2 (maySwitch s mask)) = _
  cases maySwitch s mask <;> rfl

/-- With no write of the quiesced regions outstanding, they turn to secondary and the partner is told (R284). -/
theorem exec_switchoverQuiesced (hsome : s.leat.quiesce ≠ []) (hsync : (s.leat.sync.any fun w => s.leat.quiesce.contains w.region) = false)
    (hpond : (s.leat.pond.any fun e => s.leat.quiesce.contains e.region) = false) :
    exec .switchoverQuiesced s = .next (sendState (forAll
        (setRole (modLeat s fun l => { l with quiesce := [] }) (maskOfRegions s.leat.quiesce) true) (upFrom 0 32) (refuseIn s.leat.quiesce)) 8 0
      (leBytes 8 (maskOfRegions s.leat.quiesce)) 0) := by
  refine if_neg ?_
  rw [hsync, hpond, List.isEmpty_eq_false_iff.2 hsome]
  decide

/-- Settles O52: a pair that may join does, an open port takes and acknowledges each update of the partner, and one that is shut takes none. -/
theorem pairState : Obligations.PairState := by
  refine ⟨fun s k entries dirty hk hmay => onPort_runs hk hmay,
    fun s k entries dirty hk hnot => onPort_stays hk hnot,
    fun s k idx tag entry hk ho hidx => exec_regionEntryUpdate hk ho hidx,
    fun s i e hinvalid hbad => installEntry_refused hinvalid hbad,
    fun s k idx tag hk ho hidx => exec_regionClearUpdate hk ho hidx,
    fun s k mask tag hk ho => onPort_runs hk ho,
    fun s k words tag hk ho => ⟨pageTaken s words, rfl, exec_sharedPageUpdate hk ho⟩,
    fun s k granules tag hk ho => ⟨onPort_takes hk ho, onPort_takes hk ho⟩,
    fun s k mask tag hk ho => exec_switchoverRequest hk ho,
    fun s hsome hsync hpond => exec_switchoverQuiesced hsome hsync hpond,
    fun s k mask tag hk ho => onPort_runs hk ho,
    fun s k idx mask tag entry words gs hk hs => ?_⟩
  exact ⟨onPort_stays hk hs, onPort_stays hk hs, onPort_stays hk hs, onPort_stays hk hs, onPort_ignores hk hs, onPort_ignores hk hs,
    onPort_stays hk hs, onPort_stays hk hs⟩

end Sys2Proof.Machine
end

section
/-! Training (R292, R294, R299 to R302, R305, R311): the end of a pass, its commit, the retunes, and the training command register. -/

namespace Sys2Proof.Machine

variable {s : State} {path f sc t kind k cmd minEye : Nat} {ok tuned : Bool} {loop : LoopRes}

theorem okBay_of_lt (hf : f < 32) (hs : sc < 4) (ht : t < 17) : okBay f sc t = true := by simp [okBay, okSub_of_lt hf hs, ht]

/-! The end of a pass. -/

theorem exec_trainingPassEnd {res : PassRes} {p : Pass} (hf : f < 32) (hs : sc < 4)
    (hp : tabGet none (getFlume s f).passes sc = some p) :
    exec (.trainingPassEnd f sc res) s = .next (unstop (startPass
      (writeRecords (endPass (modFlume s f fun x => { x with passes := tabSet none x.passes sc none }) f sc p.tier p.kind p.tuned true res) f)
      f sc) f sc) := by
  refine (onElement_of_ok _ (okSub_of_lt hf hs)).trans ?_
  rw [hp]

theorem exec_trainingPassEnd_idle {res : PassRes} (hf : f < 32) (hs : sc < 4) (hp : tabGet none (getFlume s f).passes sc = none) :
    exec (.trainingPassEnd f sc res) s = .next s := by
  refine (onElement_of_ok _ (okSub_of_lt hf hs)).trans ?_
  rw [hp]

/-! The commit of a pass. -/

theorem getBay_modSub {i : Nat} (g : SubChan → SubChan) : getBay (modSub s k g) i = getBay s i := rfl

/-- A commit sets what R300 and R305 name; the fallback mark and the record due depend on the mode and on the last write. -/
theorem getBay_commitPass_self (hw : tabWf bayInit s.bays) : ∃ fallback record,
    getBay (commitPass s f sc t kind tuned minEye ok) (bayKey f sc t) =
      { getBay s (bayKey f sc t) with
        inForce := (getBay s (bayKey f sc t)).staged, trained := true, tuned := tuned, fallback := fallback, refusals := 0,
        commitAt := s.now, commitTemp := tierTemp s t, minEye := minEye, record := record } := by
  simp only [commitPass, getBay_modSub, getBay_modBay_self s _ _ hw]
  exact ⟨_, _, rfl⟩

theorem getBay_commitPass_ne (hk : k ≠ bayKey f sc t) : getBay (commitPass s f sc t kind tuned minEye ok) k = getBay s k := by
  simp only [commitPass, getBay_modSub, getBay_modBay_ne s _ hk]

/-! Retunes. -/

theorem exec_retunePeriodExpiry (hf : f < 32) (hs : sc < 4) (ht : t < 17) (hopen : retuneOpen s f sc t = true)
    (hdue : (getBay s (bayKey f sc t)).commitAt + retunePeriod s f ≤ s.now) :
    exec (.retunePeriodExpiry f sc t) s = .next (retuneBay s f sc t) :=
  (onElement_of_ok _ (okBay_of_lt hf hs ht)).trans <| if_pos (by simp [hopen, hdue])

theorem exec_retunePeriodExpiry_early (hf : f < 32) (hs : sc < 4) (ht : t < 17)
    (hearly : s.now < (getBay s (bayKey f sc t)).commitAt + retunePeriod s f) : exec (.retunePeriodExpiry f sc t) s = .next s :=
  (onElement_of_ok _ (okBay_of_lt hf hs ht)).trans <| if_neg (by simp [hearly])

theorem exec_retuneRetry (hf : f < 32) (hs : sc < 4) (ht : t < 17) (hrefused : 0 < (getBay s (bayKey f sc t)).refusals)
    (hdue : (getBay s (bayKey f sc t)).refusedAt + 1000000 ≤ s.now) (hfree : passBusy s f sc t = false) (hin : bayOut s f sc t = false) :
    exec (.retuneRetry f sc t) s =
      .next (duePass s f sc t (getBay s (bayKey f sc t)).refusedKind (getBay s (bayKey f sc t)).tuned) :=
  (onElement_of_ok _ (okBay_of_lt hf hs ht)).trans <| if_pos (by simp [hrefused, hdue, hfree, hin])

theorem exec_retuneRetry_early (hf : f < 32) (hs : sc < 4) (ht : t < 17)
    (hearly : s.now < (getBay s (bayKey f sc t)).refusedAt + 1000000) : exec (.retuneRetry f sc t) s = .next s :=
  (onElement_of_ok _ (okBay_of_lt hf hs ht)).trans <| if_neg (by simp [hearly])

/-! The mode register and the command register. -/

theorem exec_modeChange {v : Word} (hp : path < 5) (hf : f < 32) (hopen : pathOpen s path = true) (hbusy : busy s (32 + f) = false)
    (hawake : portAwake s (32 + f) = true) : exec (.modeChange path f v) s = .next (takeTrnCtl s path f v.toNat) := by
  refine (onElement_of_ok _ (by simp [okPath_of_lt hp, okF_of_lt hf])).trans ?_
  rw [writeNow_takes hopen hbusy hawake]

theorem bits_trnCmdWord_cmd (hc : cmd < 8) : bits (trnCmdWord cmd sc t) 2 0 = cmd := by
  simp only [bits, trnCmdWord]; omega

theorem bits_trnCmdWord_sub (hc : cmd < 8) (hs : sc < 4) : bits (trnCmdWord cmd sc t) 10 9 = sc := by
  simp only [bits, trnCmdWord]; omega

theorem bits_trnCmdWord_tier (hc : cmd < 8) (hs : sc < 4) (ht : t < 17) : bits (trnCmdWord cmd sc t) 15 11 = t := by
  simp only [bits, trnCmdWord]; omega

/-- What command `cmd` of FLM_TRN_CMD does to bay `t` of sub-channel `sc` (R311). -/
def trnAct (s : State) (f cmd sc t : Nat) (loop : LoopRes) : State :=
  match cmd with
  | 1 => fullBay s f sc t
  | 2 => fullSub s f sc
  | 3 => retuneCmd s f sc t
  | 4 => applyCmd s f sc t
  | 5 => loopCmd s f sc loop
  | _ => s

/-- The command register reads back the command, the sub-channel and the tier that its word was made of. -/
theorem takeTrnCmd_trnCmdWord (hc : cmd < 8) (hs : sc < 4) (ht : t < 17) :
    takeTrnCmd s f (trnCmdWord cmd sc t) loop = trnAct s f cmd sc t loop := by
  simp only [takeTrnCmd, bits_trnCmdWord_cmd hc, bits_trnCmdWord_sub hc hs, bits_trnCmdWord_tier hc hs ht]
  rfl

/-- A training command on elements that exist, which the flume's training block takes at once. -/
theorem trnCommand_acts (he : ok = true) (hc : cmd < 8) (hs : sc < 4) (ht : t < 17) (hopen : pathOpen s path = true)
    (hbusy : busy s (32 + f) = false) (hawake : portAwake s (32 + f) = true) :
    onElement ok (.next (trnCommand path f (trnCmdWord cmd sc t) loop s)) = .next (trnAct s f cmd sc t loop) := by
  refine (onElement_of_ok _ he).trans (congrArg _ ?_)
  exact (writeNow_takes hopen hbusy hawake).trans (takeTrnCmd_trnCmdWord hc hs ht)

theorem trnCommand_acts_bay (hp : path < 5) (hf : f < 32) (hc : cmd < 8) (hs : sc < 4) (ht : t < 17) (hopen : pathOpen s path = true)
    (hbusy : busy s (32 + f) = false) (hawake : portAwake s (32 + f) = true) :
    onElement (okPath path && okBay f sc t) (.next (trnCommand path f (trnCmdWord cmd sc t) loop s)) = .next (trnAct s f cmd sc t loop) :=
  trnCommand_acts (by simp [okPath_of_lt hp, okBay_of_lt hf hs ht]) hc hs ht hopen hbusy hawake

theorem trnCommand_acts_sub (hp : path < 5) (hf : f < 32) (hc : cmd < 8) (hs : sc < 4) (hopen : pathOpen s path = true)
    (hbusy : busy s (32 + f) = false) (hawake : portAwake s (32 + f) = true) :
    onElement (okPath path && okSub f sc) (.next (trnCommand path f (trnCmdWord cmd sc 0) loop s)) = .next (trnAct s f cmd sc 0 loop) :=
  trnCommand_acts (by simp [okPath_of_lt hp, okSub_of_lt hf hs]) hc hs (by decide) hopen hbusy hawake

/-- Settles O38: a commit is `getBay_commitPass_self`, a retune waits for its time, and a command is carried out by `trnAct`. -/
theorem trainingPasses : Obligations.TrainingPasses := by
  refine ⟨fun s f sc res p hf hs hp => exec_trainingPassEnd hf hs hp,
    fun s f sc res hf hs hp => exec_trainingPassEnd_idle hf hs hp,
    fun s f sc t kind tuned minEye ok u hw hu => ?_,
    fun s f sc tier hf hs ht hopen hdue => exec_retunePeriodExpiry hf hs ht hopen hdue,
    fun s f sc tier hf hs ht hrefused hdue hfree hin => exec_retuneRetry hf hs ht hrefused hdue hfree hin,
    fun s f sc tier hf hs ht hperiod hretry => ⟨exec_retunePeriodExpiry_early hf hs ht hperiod, exec_retuneRetry_early hf hs ht hretry⟩,
    fun s path f v hp hf hopen hbusy hawake => exec_modeChange hp hf hopen hbusy hawake,
    fun s path f sc tier hp hf hs ht hopen hbusy hawake =>
      ⟨trnCommand_acts_bay hp hf (by decide) hs ht hopen hbusy hawake, trnCommand_acts_bay hp hf (by decide) hs ht hopen hbusy hawake⟩,
    fun s path f sc hp hf hs hopen hbusy hawake => trnCommand_acts_sub hp hf (by decide) hs hopen hbusy hawake,
    fun s path f sc tier hp hf hs ht hopen hbusy hawake => trnCommand_acts_bay hp hf (by decide) hs ht hopen hbusy hawake,
    fun s path f sc loop hp hf hs hopen hbusy hawake => trnCommand_acts_sub hp hf (by decide) hs hopen hbusy hawake⟩
  subst hu
  obtain ⟨fallback, record, hself⟩ := getBay_commitPass_self (f := f) (sc := sc) (t := t) (kind := kind) (tuned := tuned)
    (minEye := minEye) (ok := ok) hw.bays
  rw [hself]
  exact ⟨rfl, rfl, rfl, rfl, rfl, rfl, fun k hk => getBay_commitPass_ne hk⟩

end Sys2Proof.Machine
end

section
/-! What a command of the table keeps (13_fuses.md: a fuse bit can be set but never cleared): the laws under Laws/ give it for each meaning,
and a step carries out one of them. -/

namespace Sys2Proof.Machine

/-- A command whose elements exist answers a next state that keeps the queue, the clock, what has been sent, the canonical form and the
fuse bits that are set. -/
theorem exec_runs {c : Instr} (s : State) (hwf : c.wf = true) : Runs s (exec c s) := by
  cases c with
  | memRd => exact execMemRd_runs _ _ _ _ _ _ hwf
  | memRdFwd => exact execMemRdFwd_runs _ _ _ _ _ _ hwf
  | memSpecRd => exact execMemSpecRd_runs _ _ _ hwf
  | memInv => exact execMemInv_runs _ _ _ _ hwf
  | memWr => exact execMemWr_runs _ _ _ _ _ _ _ _ hwf
  | memWrFwd => exact execMemWrFwd_runs _ _ _ _ _ _ _ _ hwf
  | memWrPtl => exact execMemWrPtl_runs _ _ _ _ _ _ _ _ _ hwf
  | hdmDecoderCommit => exact execHdmDecoderCommit_runs _ _ _ _ _ _ _ _ _ _ hwf
  | requestAccept => exact execRequestAccept_runs _ _ _ hwf
  | scheduleCommand => exact execScheduleCommand_runs _ _ _ _ hwf
  | agePromotion => exact execAgePromotion_runs _ _ _ hwf
  | urgencyRise => exact execUrgencyRise_runs _ _ _ hwf
  | rowIdleClose => exact execRowIdleClose_runs _ _ _ _ _ hwf
  | sustainedOverload => exact execSustainedOverload_runs _ _ _ hwf
  | holdFlume => exact execHoldFlume_runs _ _ _ _ hwf
  | flumeHeld => exact execFlumeHeld_runs _ _ hwf
  | releaseFlume => exact execReleaseFlume_runs _ _ _ _ hwf
  | caparError => exact execCaparError_runs _ _ _ _ _ _ hwf
  | readDataReturn => exact execReadDataReturn_runs _ _ _ _ _ hwf
  | trackerEntryExpiry => exact execTrackerEntryExpiry_runs _ _ _ hwf
  | trackerWaitExpiry => exact execTrackerWaitExpiry_runs _ _ _ hwf
  | remapTallyWrite => exact execRemapTallyWrite_runs _ _ _ hwf
  | refreshDue => exact execRefreshDue_runs _ _ _ _ _ hwf
  | owedRefresh => exact execOwedRefresh_runs _ _ _ _ _ hwf
  | canarySweep => exact execCanarySweep_runs _ _ _ hwf
  | retentionScrubDone => exact execRetentionScrubDone_runs _ _ _ _ _ _ hwf
  | dramSliceStart => exact execDramSliceStart_runs _ _ _ _ _ _ hwf
  | dramSliceEnd => exact execDramSliceEnd_runs _ _ _ _ _ hwf
  | logicSliceStart => exact execLogicSliceStart_runs _ _ _ hwf
  | logicSliceEnd => exact execLogicSliceEnd_runs _ _ _ _ hwf
  | migrationRow => exact execMigrationRow_runs _ _ _ _ hwf
  | flmMapApply => exact execFlmMapApply_runs _ _ _ hwf
  | milDispatchDisable => exact execMilDispatchDisable_runs _ _ _ _ hwf
  | fill => exact execFill_runs _ _ _ hwf
  | copy => exact execCopy_runs _ _ _ hwf
  | scan => exact execScan_runs _ _ _ hwf
  | compact => exact execCompact_runs _ _ _ hwf
  | gather => exact execGather_runs _ _ _ hwf
  | hashBuild => exact execHashBuild_runs _ _ _ hwf
  | hashProbe => exact execHashProbe_runs _ _ _ hwf
  | aggregate => exact execAggregate_runs _ _ _ hwf
  | bitmap => exact execBitmap_runs _ _ _ hwf
  | checksum => exact execChecksum_runs _ _ _ hwf
  | compare => exact execCompare_runs _ _ _ hwf
  | descriptorStart => exact execDescriptorStart_runs _ _ _ hwf
  | partStart => exact execPartStart_runs _ _ hwf
  | partEnd => exact execPartEnd_runs _ _ hwf
  | mergePart => exact execMergePart_runs _ _ _
  | descriptorComplete => exact execDescriptorComplete_runs _ _
  | millLogicSliceStart => exact execMillLogicSliceStart_runs _ _ hwf
  | millSliceWaitExpiry => exact execMillSliceWaitExpiry_runs _ _ hwf
  | millLogicSliceEnd => exact execMillLogicSliceEnd_runs _ _ _ hwf
  | ucodeLoad => exact execUcodeLoad_runs _ _ _ _
  | microcodeSwap => exact execMicrocodeSwap_runs _ _ hwf
  | swapBankExchange => exact execSwapBankExchange_runs _ _ hwf
  | millFault => exact execMillFault_runs _ _ _ hwf
  | millWatchdog => exact execMillWatchdog_runs _ _ hwf
  | millRecoveryDone => exact execMillRecoveryDone_runs _ _ hwf
  | millOppChange => exact execMillOppChange_runs _ _ hwf
  | ringEnable => exact execRingEnable_runs _ _ _ hwf
  | ringDrain => exact execRingDrain_runs _ _ _ hwf
  | ringDrainDone => exact execRingDrainDone_runs _ _ hwf
  | ringReset => exact execRingReset_runs _ _ _ hwf
  | ringResetDone => exact execRingResetDone_runs _ _ hwf
  | sqTail => exact execSqTail_runs _ _ _ _ hwf
  | cqHead => exact execCqHead_runs _ _ _ _ hwf
  | descriptorFetch => exact execDescriptorFetch_runs _ _ _ _ hwf
  | completionPost => exact execCompletionPost_runs _ _ hwf
  | coalesceTimer => exact execCoalesceTimer_runs _ _ hwf
  | msixPendingSend => exact execMsixPendingSend_runs _ _ _ hwf
  | regionWrite => exact execRegionWrite_runs _ _ _
  | regionRead => exact execRegionRead_runs _ _ _
  | scrub => exact execScrub_runs _ _ _
  | scrubComplete => exact execScrubComplete_runs _ _
  | powerHint => exact execPowerHint_runs _ _
  | hintExpiry => exact execHintExpiry_runs _ _ hwf
  | mirrorPromote => exact execMirrorPromote_runs _ _
  | resilver => exact execResilver_runs _ _
  | resilverComplete => exact execResilverComplete_runs _ _
  | fuseSession => exact execFuseSession_runs _ _ _ _
  | fuseReread => exact execFuseReread_runs _ _ hwf
  | fuseRereadDone => exact execFuseRereadDone_runs _
  | bistCopyRecords => exact execBistCopyRecords_runs _ _
  | bistDramBay => exact execBistDramBay_runs _ _ _ _
  | bistMill => exact execBistMill_runs _ _
  | bistEngine => exact execBistEngine_runs _ _ _ _
  | bistLoopTest => exact execBistLoopTest_runs _ _ _ _
  | bistRestore => exact execBistRestore_runs _ _ _
  | inServicePass => exact execInServicePass_runs _
  | repairTallyWrite => exact execRepairTallyWrite_runs _ _ _ hwf
  | scanEntry => exact execScanEntry_runs _
  | debugEntry => exact execDebugEntry_runs _
  | bypass => exact execBypass_runs _
  | idcode => exact execIdcode_runs _
  | samplePreload => exact execSamplePreload_runs _
  | extest => exact execExtest_runs _
  | powerOnReset => exact execPowerOnReset_runs _ _
  | pinReset => exact execPinReset_runs _ _
  | softwareReset => exact execSoftwareReset_runs _ _ _ _ hwf
  | lifeCycleReset => exact execLifeCycleReset_runs _ _
  | scanDebugExitReset => exact execScanDebugExitReset_runs _ _
  | headLinkUp => exact execHeadLinkUp_runs _ _ _ _ _ _ _ hwf
  | headTrainRetry => exact execHeadTrainRetry_runs _ _ hwf
  | headConventionalReset => exact execHeadConventionalReset_runs _ _ hwf
  | headHotReset => exact execHeadHotReset_runs _ _ hwf
  | headLinkDown => exact execHeadLinkDown_runs _ _ hwf
  | functionLevelReset => exact execFunctionLevelReset_runs _ _ hwf
  | d3hotEntry => exact execD3hotEntry_runs _ _ hwf
  | d0Entry => exact execD0Entry_runs _ _ hwf
  | l1Entry => exact execL1Entry_runs _ _ hwf
  | l1Exit => exact execL1Exit_runs _ _ hwf
  | s2mStarvation => exact execS2mStarvation_runs _ _ hwf
  | laneLossOfLock => exact execLaneLossOfLock_runs _ _ _ _ hwf
  | laneRetest => exact execLaneRetest_runs _ _ hwf
  | laneRetestDone => exact execLaneRetestDone_runs _ _ _ _ hwf
  | autoWidenRecovery => exact execAutoWidenRecovery_runs _ _ _ _ hwf
  | eyeScanStart => exact execEyeScanStart_runs _ _ _ _ hwf
  | eyeScanPoint => exact execEyeScanPoint_runs _ _ _ hwf
  | prbsLock => exact execPrbsLock_runs _ _ _ hwf
  | prbsSyncLoss => exact execPrbsSyncLoss_runs _ _ _ hwf
  | referenceLoss => exact execReferenceLoss_runs _
  | corePllLoss => exact execCorePllLoss_runs _
  | leatPortTrain => exact execLeatPortTrain_runs _ _ _ _ hwf
  | heartbeatSend => exact execHeartbeatSend_runs _ _ hwf
  | heartbeat => exact execHeartbeat_runs _ _ _ hwf
  | pairJoin => exact execPairJoin_runs _ _ _ _ hwf
  | flitReceive => exact execFlitReceive_runs _ _ _ _ hwf
  | leatReplayTimeout => exact execLeatReplayTimeout_runs _ _ hwf
  | idle => exact execIdle_runs _ _ hwf
  | link => exact execLink_runs _ _ _ _ _ _ hwf
  | mirrorWrite => exact execMirrorWrite_runs _ _ _ _ _ _ _ hwf
  | poisonNotice => exact execPoisonNotice_runs _ _ _ _ _ hwf
  | ack => exact execAck_runs _ _ _ _ _ _ hwf
  | regionEntryUpdate => exact execRegionEntryUpdate_runs _ _ _ _ _ hwf
  | regionClearUpdate => exact execRegionClearUpdate_runs _ _ _ _ hwf
  | roleChangeUpdate => exact execRoleChangeUpdate_runs _ _ _ _ hwf
  | sharedPageUpdate => exact execSharedPageUpdate_runs _ _ _ _ hwf
  | dirtyBitmapChunk => exact execDirtyBitmapChunk_runs _ _ _ _ hwf
  | granulesClean => exact execGranulesClean_runs _ _ _ _ hwf
  | switchoverRequest => exact execSwitchoverRequest_runs _ _ _ _ hwf
  | switchoverQuiesced => exact execSwitchoverQuiesced_runs _
  | switchoverDone => exact execSwitchoverDone_runs _ _ _ _ hwf
  | copyRequest => exact execCopyRequest_runs _ _ _ _ _ _ _ hwf
  | copyData => exact execCopyData_runs _ _ _ _ _ _ hwf
  | pondSend => exact execPondSend_runs _
  | resilverSend => exact execResilverSend_runs _ _ _
  | leatPortDown => exact execLeatPortDown_runs _ _ hwf
  | leatPortReturn => exact execLeatPortReturn_runs _ _ hwf
  | flitTimeout => exact execFlitTimeout_runs _
  | ackLimitExpiry => exact execAckLimitExpiry_runs _
  | sharedPageWrite => exact execSharedPageWrite_runs _ _ _ _ hwf
  | modeChange => exact execModeChange_runs _ _ _ _ hwf
  | retunePeriodExpiry => exact execRetunePeriodExpiry_runs _ _ _ _ hwf
  | retuneRetry => exact execRetuneRetry_runs _ _ _ _ hwf
  | trainingPassEnd => exact execTrainingPassEnd_runs _ _ _ _ hwf
  | fullPassBay => exact execFullPassBay_runs _ _ _ _ _ hwf
  | fullPassSubchannel => exact execFullPassSubchannel_runs _ _ _ _ hwf
  | retunePassBay => exact execRetunePassBay_runs _ _ _ _ _ hwf
  | applyStaged => exact execApplyStaged_runs _ _ _ _ _ hwf
  | loopTest => exact execLoopTest_runs _ _ _ _ _ hwf
  | flumeOppChange => exact execFlumeOppChange_runs _ _ hwf
  | droopTrip => exact execDroopTrip_runs _ _ _ hwf
  | droopRecover => exact execDroopRecover_runs _ _ _ hwf
  | droopHoldExpiry => exact execDroopHoldExpiry_runs _ _ hwf
  | monitorWarning => exact execMonitorWarning_runs _ _ hwf
  | railOutOfWindow => exact execRailOutOfWindow_runs _ _ hwf
  | auxBrownout => exact execAuxBrownout_runs _
  | auxUndervoltage => exact execAuxUndervoltage_runs _
  | sequenceError => exact execSequenceError_runs _ _ hwf
  | earlyReleaseTimeout => exact execEarlyReleaseTimeout_runs _
  | sequencerEvaluation => exact execSequencerEvaluation_runs _ _ _ hwf
  | holdoffExpiry => exact execHoldoffExpiry_runs _ _ hwf
  | powerEntryComplete => exact execPowerEntryComplete_runs _ _ hwf
  | flumeWake => exact execFlumeWake_runs _ _ _ _ hwf
  | deviceWake => exact execDeviceWake_runs _ _
  | runReqWrite => exact execRunReqWrite_runs _ _ _ hwf
  | thermalEvaluation => exact execThermalEvaluation_runs _ _ hwf
  | throttleStepDown => exact execThrottleStepDown_runs _ _ _ hwf
  | thermalTrip => exact execThermalTrip_runs _ _ hwf
  | coolantCheck => exact execCoolantCheck_runs _ _ _ _
  | errorLineEvent => exact execErrorLineEvent_runs _ _ _ _ _ _ _ _ hwf
  | windowClose => exact execWindowClose_runs _ _ _ hwf
  | collectorParitySweep => exact execCollectorParitySweep_runs _ _
  | fltClear => exact execFltClear_runs _ _ _ hwf
  | registerWrite => exact execRegisterWrite_runs _ _ _ _ _ hwf
  | postedWriteTaken => exact execPostedWriteTaken_runs _ _ _ hwf
  | registerReadTimeout => exact execRegisterReadTimeout_runs _ _ _ hwf
  | sequenceWriteBack => exact execSequenceWriteBack_runs _ _ _ _ hwf
  | mailboxSelect => exact execMailboxSelect_runs _ _ _ hwf
  | mailboxCaptureDone => exact execMailboxCaptureDone_runs _ _ _ hwf
  | guardHold => exact execGuardHold_runs _ _ _ hwf
  | guardCommit => exact execGuardCommit_runs _ _ hwf
  | guardCommitDone => exact execGuardCommitDone_runs _
  | guardSweep => exact execGuardSweep_runs _
  | guardHoldExpiry => exact execGuardHoldExpiry_runs _
  | entdaa => exact execEntdaa_runs _ _ _ hwf
  | hotJoin => exact execHotJoin_runs _ _ hwf
  | targetResetPattern => exact execTargetResetPattern_runs _
  | sidebandWrite => exact execSidebandWrite_runs _ _ _
  | sidebandReadSetup => exact execSidebandReadSetup_runs _ _
  | sidebandRead => exact execSidebandRead_runs _ _
  | mctpMessage => exact execMctpMessage_runs _ _
  | getVersion => exact execGetVersion_runs _ _ hwf
  | getCapabilities => exact execGetCapabilities_runs _ _ hwf
  | negotiateAlgorithms => exact execNegotiateAlgorithms_runs _ _ _ hwf
  | getDigests => exact execGetDigests_runs _ _ hwf
  | getCertificate => exact execGetCertificate_runs _ _ _ _ _ hwf
  | challenge => exact execChallenge_runs _ _ _ _ hwf
  | getMeasurements => exact execGetMeasurements_runs _ _ _ _ _ hwf
  | keyExchange => exact execKeyExchange_runs _ _ hwf
  | doeAbort => exact execDoeAbort_runs _ _ hwf
  | doeDiscovery => exact execDoeDiscovery_runs _ _ _ hwf
  | cdatRead => exact execCdatRead_runs _ _ _ hwf
  | identify => exact execIdentify_runs _ _ hwf
  | getSupportedLogs => exact execGetSupportedLogs_runs _ _ hwf
  | getLog => exact execGetLog_runs _ _ _ _ hwf
  | getEventRecords => exact execGetEventRecords_runs _ _ _ hwf
  | clearEventRecords => exact execClearEventRecords_runs _ _ _ _ hwf
  | getEventInterruptPolicy => exact execGetEventInterruptPolicy_runs _ _ hwf
  | setEventInterruptPolicy => exact execSetEventInterruptPolicy_runs _ _ _ hwf
  | getHealthInfo => exact execGetHealthInfo_runs _ _ hwf
  | identifyMemoryDevice => exact execIdentifyMemoryDevice_runs _ _ hwf
  | getMultiHeadedInfo => exact execGetMultiHeadedInfo_runs _ _ hwf
  | getTimestamp => exact execGetTimestamp_runs _ _ hwf
  | setTimestamp => exact execSetTimestamp_runs _ _ _ hwf
  | unsupportedMailboxCommand => exact execUnsupportedMailboxCommand_runs _ _ _ hwf
  | lifetimeCounterUpdate => exact execLifetimeCounterUpdate_runs _ _
  | columnGroupMoveRow => exact execColumnGroupMoveRow_runs _ _ _ _ _ _ hwf
  | selfRefreshDue => exact execSelfRefreshDue_runs _ _ _ _ _ hwf
  | linkRecovery => exact execLinkRecovery_runs _ _ _ _ hwf
  | s2mCreditReturn => exact execS2mCreditReturn_runs _ _ _ _ hwf
  | pcieConfigWrite => exact execPcieConfigWrite_runs _ _ _ hwf
  | railWindowReturn => exact execRailWindowReturn_runs _ _ _ hwf
  | adminBistTestEnd => exact execAdminBistTestEnd_runs _ _ _ _ _

/-- The queue is no part of the canonical form. -/
theorem wf_withPending {s : State} (hwf : s.wf) (queue : List Instr) : { s with pending := queue }.wf :=
  { hwf with }

/-- A step over a queue of well-formed commands keeps the canonical form and the fuse bits that are set. -/
theorem step_keeps_fuses {s t : State} (hqueue : s.queueWf) (hwf : s.wf) (hstep : step s = .next t) : t.wf ∧ FuseGrow s.fuses t.fuses := by
  unfold step at hstep
  split at hstep
  · next c rest hpending =>
    have hc : c.wf = true := hqueue c (by simp [hpending])
    exact ((exec_runs _ hc).keeps hstep).wf (wf_withPending hwf rest)
  · cases hstep
    exact ⟨{ hwf with }, .refl _⟩

/-- Settles O7: no command's meaning clears a bit (`exec_runs`), and an idle step leaves the fuses alone. That a bit keeps reading 1 at
the margin it was set at is the model's choice (log 50: no drift). -/
theorem fuseBitsOnlySet : Obligations.FuseBitsOnlySet := fun _ _ hqueue hwf hstep => (step_keeps_fuses hqueue hwf hstep).2

end Sys2Proof.Machine
end

section
/-! Fuse sessions (R323 to R332) and rereads (R322): one lemma per form of each command. -/

namespace Sys2Proof.Machine

variable {s : State} {did : Nat} {env : OpEnv} {fuse : FuseEnv} {d : Desc}

@[simp] theorem fuses_fuseStatus {ops reason result : Nat} : (fuseStatus s ops reason result).fuses = s.fuses := by
  obtain ⟨regs, hregs⟩ := scEvent_frame s (oFus 8) fun _ => ops % 256 * 2 ^ 16 + reason * 2 ^ 8 + result * 2 ^ 4
  rw [fuseStatus, hregs]

@[simp] theorem fuses_finishDesc {r : Result} : (finishDesc s did r).fuses = s.fuses := rfl

/-- A script that is read anew is checked, then recorded as the intent, then run (R323, R325). -/
theorem exec_fuseSession_begins (hd : getDesc s did = some d) (hadmin : isAdmin d.pair = true) (hop : bOp (d.members.headD []) = 0x47)
    (hresult : d.result = none) (hreread : s.fuses.rereadActive = false) (hwork : d.work = 0)
    (hhost : isHost (bSrcA (d.members.headD [])) = true) (halign : bSrcA (d.members.headD []) % 64 = 0)
    (hrange : rangeOk (bSrcA (d.members.headD [])) (bCount (d.members.headD [])) = true) (hdma : dmaOpen s (pairHead d.pair) = true) :
    exec (.fuseSession did env fuse) s = .next
      (let script := fuseScript env (d.members.headD [])
       let reason := scriptReason s.fuses (bCount (d.members.headD [])) script
       if reason ≠ 0 then finishDesc (fuseStatus s 0 reason 2) did ⟨0x0A, reason, 0, 0⟩
       else if fuse.tallyOk = false then finishDesc (fuseStatus (tallyFail s 6) 0 11 2) did ⟨0x0A, 11, 0, 0⟩
       else runSession (modDesc { s with
           tally := { s.tally with intent := some (script.getD [], true) }, fuses := { s.fuses with session := true } } did
           fun d => { d with work := 8, prog := [0, 0] }) did fuse { d with prog := [0, 0] } (script.getD [])) := by
  change execFuseSession did env fuse s = _
  simp only [execFuseSession, hd, hadmin, hop, hresult, hreread, hwork, hhost, halign, hrange, hdma]
  generalize d.members.headD [] = m
  by_cases hreason : scriptReason s.fuses (bCount m) (fuseScript env m) = 0
  · cases htally : fuse.tallyOk <;> simp [hreason]
  · simp [hreason]

/-- A session under way goes on from the stored intent. -/
theorem exec_fuseSession_continues {l : List Byte} (hd : getDesc s did = some d) (hadmin : isAdmin d.pair = true)
    (hop : bOp (d.members.headD []) = 0x47) (hresult : d.result = none) (hreread : s.fuses.rereadActive = false) (hwork : d.work = 8)
    (hintent : s.tally.intent = some (l, true)) : exec (.fuseSession did env fuse) s = .next (runSession s did fuse d l) := by
  change execFuseSession did env fuse s = _
  simp only [execFuseSession, hd, hadmin, hop, hresult, hreread, hwork, hintent]
  rfl

/-- A session waits while a reread runs (R322). -/
theorem exec_fuseSession_waits (hreread : s.fuses.rereadActive = true) : exec (.fuseSession did env fuse) s = .next s := by
  change execFuseSession did env fuse s = _
  unfold execFuseSession
  split
  · rfl
  · simp [hreread]

/-- A session that no reset cuts short carries out the operations left and ends. -/
theorem runSession_ends {l : List Byte} (hupTo : fuse.upTo = none) :
    runSession s did fuse d l =
      (let r := runFuseOps fuse ((fuseOps l).drop (natAt d.prog 0)) ⟨s.fuses, s.freeCtr, natAt d.prog 1, none⟩ (natAt d.prog 0)
       endSession { s with fuses := r.1.u, freeCtr := r.1.ctr } did r.2.1 r.2.2 r.1.spares ((fuseOps l).getLast?.any fun o => o.kind == 4)) := by
  simp [runSession, hupTo]

/-- The end of a session that failed, with no reread waiting for it (R325). -/
theorem endSession_failed {ops reason spares : Nat} {lifeCycle : Bool} (hreason : reason ≠ 0) (hwaits : s.fuses.rereadWaits = false) :
    endSession s did ops reason spares lifeCycle = finishDesc (fuseStatus
      { s with fuses := { s.fuses with session := false }, tally := { s.tally with intent := none } } ops reason 2) did
      ⟨0x0A, reason, 0, 0⟩ := by
  simp [endSession, hreason, hwaits]

/-- A reread starts at once where no session programs (R322). -/
theorem exec_fuseReread {path : Nat} (hp : path < 5) (hopen : pathOpen s path = true) (hbusy : busy s 200 = false)
    (hawake : portAwake s 200 = true) (hreread : s.fuses.rereadActive = false) (hsession : s.fuses.session = false) :
    exec (.fuseReread path) s =
      .next (scEvent { s with fuses := { s.fuses with rereadActive := true, rereadWaits := false } } (oFus 0x10) fun _ => 1) := by
  refine (onElement_of_ok _ (okPath_of_lt hp)).trans (congrArg _ ((writeNow_takes hopen hbusy hawake).trans ?_))
  simp [takeFusCmd, startReread, bitOf, hreread, hsession]

/-- The words that drifted and the words that are marginal are counted by the reread's end, with the regions they lie in (R322). -/
theorem exec_fuseRereadDone (hreread : s.fuses.rereadActive = true) :
    exec .fuseRereadDone s = .next
      (let words := rereadWords s.fuses
       let drift := words.countP fun w => w.2.1
       let marg := words.countP fun w => w.2.2
       let regions := [0, 1, 2, 3, 4, 5].foldl
         (fun a j => a + if words.any (fun w => regionOfRow w.1 == j && (w.2.1 || w.2.2)) then 2 ^ (2 + j) else 0) 0
       let t := scEvent { s with fuses := { s.fuses with rereadActive := false } } (oFus 0x10) fun _ =>
         min 255 drift * 2 ^ 16 + min 255 marg * 2 ^ 8 + regions + 2
       if drift + marg = 0 then t else raise t 9 1 1 0 0) :=
  if_pos hreread

/-- Settles O37: a session takes one of the three branches `exec_fuseSession_begins`, `_continues` and `_waits`, and runs to its end by
`runSession_ends`. Reason 4 before 6, and no refusal of a region that only lacks what it is to be programmed with, are the model's reading
(logs 48, 49). -/
theorem fuseScripts : Obligations.FuseScripts := by
  refine ⟨fun s did env fuse d hd hadmin hop hresult hreread hwork hhost halign hrange hdma =>
      ⟨_, rfl, exec_fuseSession_begins hd hadmin hop hresult hreread hwork hhost halign hrange hdma⟩,
    fun s did env fuse d l hd hadmin hop hresult hreread hwork hintent =>
      exec_fuseSession_continues hd hadmin hop hresult hreread hwork hintent,
    fun s did env fuse hreread => exec_fuseSession_waits hreread,
    fun s did env d l hupTo => ⟨_, rfl, runSession_ends hupTo⟩,
    fun s did ops reason spares life hreason hwaits => endSession_failed hreason hwaits,
    fun s path hp hopen hbusy hawake hreread hsession => exec_fuseReread hp hopen hbusy hawake hreread hsession,
    fun s drift marg regions hreread hdrift hmarg hregions => ?_⟩
  subst hdrift hmarg hregions
  exact ⟨_, rfl, exec_fuseRereadDone hreread⟩

end Sys2Proof.Machine
end

section
/-! What a step does (chapter 95): it carries out the command at the front of the queue, or lets the idle clock run on, and it answers a
next state that is canonical again. -/

namespace Sys2Proof.Machine

variable {s : State} {c : Instr} {rest : List Instr}

theorem step_command (hqueue : s.pending = c :: rest) : step s = exec c { s with pending := rest } := by
  rw [step, hqueue]

theorem step_idle (hidle : s.pending = []) : step s = .next { s with now := s.now + 1 } := by
  rw [step, hidle]

/-- Settles O1. -/
theorem commandAtFront : Obligations.CommandAtFront := fun _ _ => step_command rfl

/-- Settles O2: that the clock then advances by 1 ns is the model's choice (log 1). -/
theorem emptyQueue : Obligations.EmptyQueue := fun _ hidle => step_idle hidle

/-- Settles O3. -/
theorem everyCommandRuns : Obligations.EveryCommandRuns := fun s _ hwf => (exec_runs s hwf).imp fun _ => And.left

/-- Settles O8: a message that is sent is added behind the earlier ones (log 5), and no command's meaning changes the clock or the queue. -/
theorem sentStaysSent : Obligations.SentStaysSent := fun s _ _ hwf hnext =>
  have hkeeps := (exec_runs s hwf).keeps hnext
  ⟨hkeeps.out, hkeeps.now, hkeeps.pending⟩

/-- Settles O4: an idle step leaves every array alone, and a command's meaning keeps the canonical form of the model (log 4) and the queue's
rest (`exec_runs`). -/
theorem canonicalStep : Obligations.CanonicalStep := by
  intro s hqueue hwf
  cases hpending : s.pending with
  | nil => exact ⟨_, step_idle hpending, hqueue, { hwf with }⟩
  | cons c rest =>
    have hc : c.wf = true := hqueue c (by simp [hpending])
    obtain ⟨t, hnext, hkeeps⟩ := exec_runs { s with pending := rest } hc
    refine ⟨t, (step_command hpending).trans hnext, fun x hx => ?_, (hkeeps.wf (wf_withPending hwf rest)).1⟩
    rw [hkeeps.pending] at hx
    exact hqueue x (by simp [hpending, hx])

end Sys2Proof.Machine
end

section
/-! The state at power-on: what the model's choices of the canonical form (log 4), of an unwritten DRAM array (log 3) and of the reset
values (log 6) come to. -/

namespace Sys2Proof.Machine

/-- No array of the reset state lists an element, so each is canonical. -/
theorem State.wf_reset : State.reset.wf where
  regs := ⟨.nil, nofun⟩
  mem := tabWf_nil _
  flumes := tabWf_nil _
  subs := tabWf_nil _
  bays := tabWf_nil _
  banks := tabWf_nil _
  regions := tabWf_nil _
  heads := tabWf_nil _
  pairs := tabWf_nil _
  descs := tabWf_nil _
  parts := tabWf_nil _
  grants := tabWf_nil _
  mills := tabWf_nil _
  lanes := tabWf_nil _
  ports := tabWf_nil _
  sources := tabWf_nil _
  posted := tabWf_nil _
  mailboxes := tabWf_nil _
  normal := tabWf_nil _
  high := tabWf_nil _
  low := tabWf_nil _
  brake := nofun

/-- Every flume has its registers at its own 64 KiB of BAR0 (R454). -/
theorem blkAt_oFlm {f o : Nat} (hf : f < 32) (ho : o < 0x4000) : blkAt (oFlm f o) = some (.flm f, o) := by
  have hlow : 0x200000 ≤ oFlm f o := by unfold oFlm; omega
  have hhigh : oFlm f o < 0x400000 := by unfold oFlm; omega
  have hblock : (oFlm f o - 0x200000) / 0x10000 = f := by unfold oFlm; omega
  have hin : oFlm f o % 0x4000 = o := by unfold oFlm; omega
  rw [blkAt, if_neg (by omega), if_neg (by omega), if_neg (by omega), if_pos hhigh, hblock, hin]

theorem regReset_ageLimit {f : Nat} (hf : f < 32) : regReset (oFlm f 0x10) = 200 := by
  rw [regReset, blkAt_oFlm hf (by decide)]
  rfl

/-- Settles O5: with every array empty, an element or a register reads as its reset value. The canonical form, the DRAM with no listed byte
and the reset values where the spec gives none are the model's choices (logs 4, 3, 6). -/
theorem resetCanonical : Obligations.ResetCanonical :=
  ⟨State.wf_reset, fun _ hc => absurd hc List.not_mem_nil, rfl, rfl, rfl, fun _ => rfl, fun _ hf => regReset_ageLimit hf, rfl, rfl, rfl, rfl, rfl,
    fun _ => ⟨rfl, rfl, rfl⟩, fun _ => rfl, fun _ => rfl, fun _ => rfl, rfl, rfl, rfl, rfl⟩

end Sys2Proof.Machine
end

section
/-! The frame of every command: the laws under Laws/ bound what each meaning can change by a set of parts, and that set is the one that
`touches` lists. -/

namespace Sys2Proof.Machine

/-- The set that bounds a meaning's changes, as the list that spells it. -/
theorem Touches.listed {w : Nat} {s : State} {a : Answer} {parts : List Field} (hlaw : Touches w s a) (hparts : fieldBits parts = w) :
    Touches (fieldBits parts) s a := hparts ▸ hlaw

/-- A command changes only the parts that are listed for it, whether its elements exist or not. -/
theorem exec_touches (c : Instr) (s : State) : Touches (fieldBits (touches c)) s (exec c s) := by
  cases c with
  | memRd => exact (execMemRd_within (Nat.or_self _) _ _ _ _ _ _).listed rfl
  | memRdFwd => exact (execMemRdFwd_within (Nat.or_self _) _ _ _ _ _ _).listed rfl
  | memSpecRd h hpa => exact (execMemSpecRd_within (Nat.or_self _) h hpa _).listed rfl
  | memInv h tag hpa => exact (execMemInv_within (Nat.or_self _) h tag hpa _).listed rfl
  | memWr => exact (execMemWr_within (Nat.or_self _) _ _ _ _ _ _ _ _).listed rfl
  | memWrFwd => exact (execMemWrFwd_within (Nat.or_self _) _ _ _ _ _ _ _ _).listed rfl
  | memWrPtl => exact (execMemWrPtl_within (Nat.or_self _) _ _ _ _ _ _ _ _ _).listed rfl
  | hdmDecoderCommit => exact (execHdmDecoderCommit_within (Nat.or_self _) _ _ _ _ _ _ _ _ _ _).listed rfl
  | requestAccept => exact (execRequestAccept_within (Nat.or_self _) _ _ _).listed rfl
  | scheduleCommand => exact (execScheduleCommand_within (Nat.or_self _) _ _ _ _).listed rfl
  | agePromotion => exact (execAgePromotion_within (Nat.or_self _) _ _ _).listed rfl
  | urgencyRise => exact (execUrgencyRise_within (Nat.or_self _) _ _ _).listed rfl
  | rowIdleClose => exact (execRowIdleClose_within (Nat.or_self _) _ _ _ _ _).listed rfl
  | sustainedOverload => exact (execSustainedOverload_within (Nat.or_self _) _ _ _).listed rfl
  | holdFlume => exact (execHoldFlume_within (Nat.or_self _) _ _ _ _).listed rfl
  | flumeHeld => exact (execFlumeHeld_within (Nat.or_self _) _ _).listed rfl
  | releaseFlume => exact (execReleaseFlume_within (Nat.or_self _) _ _ _ _).listed rfl
  | caparError => exact (execCaparError_within (Nat.or_self _) _ _ _ _ _ _).listed rfl
  | readDataReturn => exact (execReadDataReturn_within (Nat.or_self _) _ _ _ _ _).listed rfl
  | trackerEntryExpiry => exact (execTrackerEntryExpiry_within (Nat.or_self _) _ _ _).listed rfl
  | trackerWaitExpiry => exact (execTrackerWaitExpiry_within (Nat.or_self _) _ _ _).listed rfl
  | remapTallyWrite => exact (execRemapTallyWrite_within (Nat.or_self _) _ _ _).listed rfl
  | refreshDue => exact (execRefreshDue_within (Nat.or_self _) _ _ _ _ _).listed rfl
  | owedRefresh => exact (execOwedRefresh_within (Nat.or_self _) _ _ _ _ _).listed rfl
  | canarySweep => exact (execCanarySweep_within (Nat.or_self _) _ _ _).listed rfl
  | retentionScrubDone => exact (execRetentionScrubDone_within (Nat.or_self _) _ _ _ _ _ _).listed rfl
  | dramSliceStart => exact (execDramSliceStart_within (Nat.or_self _) _ _ _ _ _ _).listed rfl
  | dramSliceEnd => exact (execDramSliceEnd_within (Nat.or_self _) _ _ _ _ _).listed rfl
  | logicSliceStart => exact (execLogicSliceStart_within (Nat.or_self _) _ _ _).listed rfl
  | logicSliceEnd => exact (execLogicSliceEnd_within (Nat.or_self _) _ _ _ _).listed rfl
  | migrationRow => exact (execMigrationRow_within (Nat.or_self _) _ _ _ _).listed rfl
  | flmMapApply => exact (execFlmMapApply_within (Nat.or_self _) _ _ _).listed rfl
  | milDispatchDisable => exact (execMilDispatchDisable_within (Nat.or_self _) _ _ _ _).listed rfl
  | fill => exact (execFill_within (Nat.or_self _) _ _ _).listed rfl
  | copy => exact (execCopy_within (Nat.or_self _) _ _ _).listed rfl
  | scan => exact (execScan_within (Nat.or_self _) _ _ _).listed rfl
  | compact => exact (execCompact_within (Nat.or_self _) _ _ _).listed rfl
  | gather => exact (execGather_within (Nat.or_self _) _ _ _).listed rfl
  | hashBuild => exact (execHashBuild_within (Nat.or_self _) _ _ _).listed rfl
  | hashProbe => exact (execHashProbe_within (Nat.or_self _) _ _ _).listed rfl
  | aggregate => exact (execAggregate_within (Nat.or_self _) _ _ _).listed rfl
  | bitmap => exact (execBitmap_within (Nat.or_self _) _ _ _).listed rfl
  | checksum => exact (execChecksum_within (Nat.or_self _) _ _ _).listed rfl
  | compare => exact (execCompare_within (Nat.or_self _) _ _ _).listed rfl
  | descriptorStart => exact (execDescriptorStart_within (Nat.or_self _) _ _ _).listed rfl
  | partStart => exact (execPartStart_within (Nat.or_self _) _ _).listed rfl
  | partEnd => exact (execPartEnd_within (Nat.or_self _) _ _).listed rfl
  | mergePart => exact (execMergePart_within (Nat.or_self _) _ _ _).listed rfl
  | descriptorComplete => exact (execDescriptorComplete_within (Nat.or_self _) _ _).listed rfl
  | millLogicSliceStart => exact (execMillLogicSliceStart_within (Nat.or_self _) _ _).listed rfl
  | millSliceWaitExpiry => exact (execMillSliceWaitExpiry_within (Nat.or_self _) _ _).listed rfl
  | millLogicSliceEnd => exact (execMillLogicSliceEnd_within (Nat.or_self _) _ _ _).listed rfl
  | ucodeLoad => exact (execUcodeLoad_within (Nat.or_self _) _ _ _ _).listed rfl
  | microcodeSwap => exact (execMicrocodeSwap_within (Nat.or_self _) _ _).listed rfl
  | swapBankExchange => exact (execSwapBankExchange_within (Nat.or_self _) _ _).listed rfl
  | millFault => exact (execMillFault_within (Nat.or_self _) _ _ _).listed rfl
  | millWatchdog => exact (execMillWatchdog_within (Nat.or_self _) _ _).listed rfl
  | millRecoveryDone => exact (execMillRecoveryDone_within (Nat.or_self _) _ _).listed rfl
  | millOppChange => exact (execMillOppChange_within (Nat.or_self _) _ _).listed rfl
  | ringEnable => exact (execRingEnable_within (Nat.or_self _) _ _ _).listed rfl
  | ringDrain => exact (execRingDrain_within (Nat.or_self _) _ _ _).listed rfl
  | ringDrainDone => exact (execRingDrainDone_within (Nat.or_self _) _ _).listed rfl
  | ringReset => exact (execRingReset_within (Nat.or_self _) _ _ _).listed rfl
  | ringResetDone => exact (execRingResetDone_within (Nat.or_self _) _ _).listed rfl
  | sqTail => exact (execSqTail_within (Nat.or_self _) _ _ _ _).listed rfl
  | cqHead => exact (execCqHead_within (Nat.or_self _) _ _ _ _).listed rfl
  | descriptorFetch => exact (execDescriptorFetch_within (Nat.or_self _) _ _ _ _).listed rfl
  | completionPost => exact (execCompletionPost_within (Nat.or_self _) _ _).listed rfl
  | coalesceTimer => exact (execCoalesceTimer_within (Nat.or_self _) _ _).listed rfl
  | msixPendingSend => exact (execMsixPendingSend_within (Nat.or_self _) _ _ _).listed rfl
  | regionWrite => exact (execRegionWrite_within (Nat.or_self _) _ _ _).listed rfl
  | regionRead => exact (execRegionRead_within (Nat.or_self _) _ _ _).listed rfl
  | scrub => exact (execScrub_within (Nat.or_self _) _ _ _).listed rfl
  | scrubComplete => exact (execScrubComplete_within (Nat.or_self _) _ _).listed rfl
  | powerHint => exact (execPowerHint_within (Nat.or_self _) _ _).listed rfl
  | hintExpiry => exact (execHintExpiry_within (Nat.or_self _) _ _).listed rfl
  | mirrorPromote => exact (execMirrorPromote_within (Nat.or_self _) _ _).listed rfl
  | resilver => exact (execResilver_within (Nat.or_self _) _ _).listed rfl
  | resilverComplete => exact (execResilverComplete_within (Nat.or_self _) _ _).listed rfl
  | fuseSession => exact (execFuseSession_within (Nat.or_self _) _ _ _ _).listed rfl
  | fuseReread => exact (execFuseReread_within (Nat.or_self _) _ _).listed rfl
  | fuseRereadDone => exact (execFuseRereadDone_within (Nat.or_self _) _).listed rfl
  | bistCopyRecords => exact (execBistCopyRecords_within (Nat.or_self _) _ _).listed rfl
  | bistDramBay => exact (execBistDramBay_within (Nat.or_self _) _ _ _ _).listed rfl
  | bistMill => exact (execBistMill_within (Nat.or_self _) _ _).listed rfl
  | bistEngine => exact (execBistEngine_within (Nat.or_self _) _ _ _ _).listed rfl
  | bistLoopTest => exact (execBistLoopTest_within (Nat.or_self _) _ _ _ _).listed rfl
  | bistRestore => exact (execBistRestore_within (Nat.or_self _) _ _ _).listed rfl
  | inServicePass => exact (execInServicePass_within (Nat.or_self _) _).listed rfl
  | repairTallyWrite => exact (execRepairTallyWrite_within (Nat.or_self _) _ _ _).listed rfl
  | scanEntry => exact (execScanEntry_within (Nat.or_self _) _).listed rfl
  | debugEntry => exact (execDebugEntry_within (Nat.or_self _) _).listed rfl
  | bypass => exact (execBypass_within (Nat.or_self _) _).listed rfl
  | idcode => exact (execIdcode_within (Nat.or_self _) _).listed rfl
  | samplePreload => exact (execSamplePreload_within (Nat.or_self _) _).listed rfl
  | extest => exact (execExtest_within (Nat.or_self _) _).listed rfl
  | powerOnReset => exact (execPowerOnReset_within (Nat.or_self _) _ _).listed rfl
  | pinReset => exact (execPinReset_within (Nat.or_self _) _ _).listed rfl
  | softwareReset => exact (execSoftwareReset_within (Nat.or_self _) _ _ _ _).listed rfl
  | lifeCycleReset => exact (execLifeCycleReset_within (Nat.or_self _) _ _).listed rfl
  | scanDebugExitReset => exact (execScanDebugExitReset_within (Nat.or_self _) _ _).listed rfl
  | headLinkUp => exact (execHeadLinkUp_within (Nat.or_self _) _ _ _ _ _ _ _).listed rfl
  | headTrainRetry => exact (execHeadTrainRetry_within (Nat.or_self _) _ _).listed rfl
  | headConventionalReset => exact (execHeadConventionalReset_within (Nat.or_self _) _ _).listed rfl
  | headHotReset => exact (execHeadHotReset_within (Nat.or_self _) _ _).listed rfl
  | headLinkDown => exact (execHeadLinkDown_within (Nat.or_self _) _ _).listed rfl
  | functionLevelReset => exact (execFunctionLevelReset_within (Nat.or_self _) _ _).listed rfl
  | d3hotEntry => exact (execD3hotEntry_within (Nat.or_self _) _ _).listed rfl
  | d0Entry => exact (execD0Entry_within (Nat.or_self _) _ _).listed rfl
  | l1Entry => exact (execL1Entry_within (Nat.or_self _) _ _).listed rfl
  | l1Exit => exact (execL1Exit_within (Nat.or_self _) _ _).listed rfl
  | s2mStarvation => exact (execS2mStarvation_within (Nat.or_self _) _ _).listed rfl
  | laneLossOfLock => exact (execLaneLossOfLock_within (Nat.or_self _) _ _ _ _).listed rfl
  | laneRetest => exact (execLaneRetest_within (Nat.or_self _) _ _).listed rfl
  | laneRetestDone => exact (execLaneRetestDone_within (Nat.or_self _) _ _ _ _).listed rfl
  | autoWidenRecovery => exact (execAutoWidenRecovery_within (Nat.or_self _) _ _ _ _).listed rfl
  | eyeScanStart => exact (execEyeScanStart_within (Nat.or_self _) _ _ _ _).listed rfl
  | eyeScanPoint => exact (execEyeScanPoint_within (Nat.or_self _) _ _ _).listed rfl
  | prbsLock => exact (execPrbsLock_within (Nat.or_self _) _ _ _).listed rfl
  | prbsSyncLoss => exact (execPrbsSyncLoss_within (Nat.or_self _) _ _ _).listed rfl
  | referenceLoss => exact execReferenceLoss_within (by decide) _
  | corePllLoss => exact (execCorePllLoss_within (Nat.or_self _) _).listed rfl
  | leatPortTrain => exact (execLeatPortTrain_within (Nat.or_self _) _ _ _ _).listed rfl
  | heartbeatSend => exact (execHeartbeatSend_within (Nat.or_self _) _ _).listed rfl
  | heartbeat => exact (execHeartbeat_within (Nat.or_self _) _ _ _).listed rfl
  | pairJoin => exact (execPairJoin_within (Nat.or_self _) _ _ _ _).listed rfl
  | flitReceive => exact (execFlitReceive_within (Nat.or_self _) _ _ _ _).listed rfl
  | leatReplayTimeout => exact (execLeatReplayTimeout_within (Nat.or_self _) _ _).listed rfl
  | idle => exact (execIdle_within (Nat.or_self _) _ _).listed rfl
  | link => exact (execLink_within (Nat.or_self _) _ _ _ _ _ _).listed rfl
  | mirrorWrite => exact (execMirrorWrite_within (Nat.or_self _) _ _ _ _ _ _ _).listed rfl
  | poisonNotice => exact (execPoisonNotice_within (Nat.or_self _) _ _ _ _ _).listed rfl
  | ack => exact (execAck_within (Nat.or_self _) _ _ _ _ _ _).listed rfl
  | regionEntryUpdate => exact (execRegionEntryUpdate_within (Nat.or_self _) _ _ _ _ _).listed rfl
  | regionClearUpdate => exact (execRegionClearUpdate_within (Nat.or_self _) _ _ _ _).listed rfl
  | roleChangeUpdate => exact (execRoleChangeUpdate_within (Nat.or_self _) _ _ _ _).listed rfl
  | sharedPageUpdate => exact (execSharedPageUpdate_within (Nat.or_self _) _ _ _ _).listed rfl
  | dirtyBitmapChunk => exact (execDirtyBitmapChunk_within (Nat.or_self _) _ _ _ _).listed rfl
  | granulesClean => exact (execGranulesClean_within (Nat.or_self _) _ _ _ _).listed rfl
  | switchoverRequest => exact (execSwitchoverRequest_within (Nat.or_self _) _ _ _ _).listed rfl
  | switchoverQuiesced => exact (execSwitchoverQuiesced_within (Nat.or_self _) _).listed rfl
  | switchoverDone => exact (execSwitchoverDone_within (Nat.or_self _) _ _ _ _).listed rfl
  | copyRequest k line lines refetch tag env => exact (execCopyRequest_within (Nat.or_self _) k line lines refetch tag env _).listed rfl
  | copyData => exact (execCopyData_within (Nat.or_self _) _ _ _ _ _ _).listed rfl
  | pondSend => exact (execPondSend_within (Nat.or_self _) _).listed rfl
  | resilverSend => exact (execResilverSend_within (Nat.or_self _) _ _ _).listed rfl
  | leatPortDown => exact (execLeatPortDown_within (Nat.or_self _) _ _).listed rfl
  | leatPortReturn => exact (execLeatPortReturn_within (Nat.or_self _) _ _).listed rfl
  | flitTimeout => exact (execFlitTimeout_within (Nat.or_self _) _).listed rfl
  | ackLimitExpiry => exact (execAckLimitExpiry_within (Nat.or_self _) _).listed rfl
  | sharedPageWrite => exact (execSharedPageWrite_within (Nat.or_self _) _ _ _ _).listed rfl
  | modeChange => exact (execModeChange_within (Nat.or_self _) _ _ _ _).listed rfl
  | retunePeriodExpiry => exact (execRetunePeriodExpiry_within (Nat.or_self _) _ _ _ _).listed rfl
  | retuneRetry => exact (execRetuneRetry_within (Nat.or_self _) _ _ _ _).listed rfl
  | trainingPassEnd => exact (execTrainingPassEnd_within (Nat.or_self _) _ _ _ _).listed rfl
  | fullPassBay => exact (execFullPassBay_within (Nat.or_self _) _ _ _ _ _).listed rfl
  | fullPassSubchannel => exact (execFullPassSubchannel_within (Nat.or_self _) _ _ _ _).listed rfl
  | retunePassBay => exact (execRetunePassBay_within (Nat.or_self _) _ _ _ _ _).listed rfl
  | applyStaged => exact (execApplyStaged_within (Nat.or_self _) _ _ _ _ _).listed rfl
  | loopTest => exact (execLoopTest_within (Nat.or_self _) _ _ _ _ _).listed rfl
  | flumeOppChange => exact (execFlumeOppChange_within (Nat.or_self _) _ _).listed rfl
  | droopTrip => exact (execDroopTrip_within (Nat.or_self _) _ _ _).listed rfl
  | droopRecover => exact (execDroopRecover_within (Nat.or_self _) _ _ _).listed rfl
  | droopHoldExpiry => exact (execDroopHoldExpiry_within (Nat.or_self _) _ _).listed rfl
  | monitorWarning => exact (execMonitorWarning_within (Nat.or_self _) _ _).listed rfl
  | railOutOfWindow => exact (execRailOutOfWindow_within (Nat.or_self _) _ _).listed rfl
  | auxBrownout => exact (execAuxBrownout_within (Nat.or_self _) _).listed rfl
  | auxUndervoltage => exact (execAuxUndervoltage_within (Nat.or_self _) _).listed rfl
  | sequenceError => exact (execSequenceError_within (Nat.or_self _) _ _).listed rfl
  | earlyReleaseTimeout => exact (execEarlyReleaseTimeout_within (Nat.or_self _) _).listed rfl
  | sequencerEvaluation => exact (execSequencerEvaluation_within (Nat.or_self _) _ _ _).listed rfl
  | holdoffExpiry => exact (execHoldoffExpiry_within (Nat.or_self _) _ _).listed rfl
  | powerEntryComplete => exact (execPowerEntryComplete_within (Nat.or_self _) _ _).listed rfl
  | flumeWake => exact (execFlumeWake_within (Nat.or_self _) _ _ _ _).listed rfl
  | deviceWake => exact (execDeviceWake_within (Nat.or_self _) _ _).listed rfl
  | runReqWrite => exact (execRunReqWrite_within (Nat.or_self _) _ _ _).listed rfl
  | thermalEvaluation => exact (execThermalEvaluation_within (Nat.or_self _) _ _).listed rfl
  | throttleStepDown => exact (execThrottleStepDown_within (Nat.or_self _) _ _ _).listed rfl
  | thermalTrip => exact (execThermalTrip_within (Nat.or_self _) _ _).listed rfl
  | coolantCheck => exact (execCoolantCheck_within (Nat.or_self _) _ _ _ _).listed rfl
  | errorLineEvent => exact (execErrorLineEvent_within (Nat.or_self _) _ _ _ _ _ _ _ _).listed rfl
  | windowClose => exact (execWindowClose_within (Nat.or_self _) _ _ _).listed rfl
  | collectorParitySweep => exact (execCollectorParitySweep_within (Nat.or_self _) _ _).listed rfl
  | fltClear => exact (execFltClear_within (Nat.or_self _) _ _ _).listed rfl
  | registerWrite => exact (execRegisterWrite_within (Nat.or_self _) _ _ _ _ _).listed rfl
  | postedWriteTaken => exact (execPostedWriteTaken_within (Nat.or_self _) _ _ _).listed rfl
  | registerReadTimeout => exact (execRegisterReadTimeout_within (Nat.or_self _) _ _ _).listed rfl
  | sequenceWriteBack => exact (execSequenceWriteBack_within (Nat.or_self _) _ _ _ _).listed rfl
  | mailboxSelect => exact (execMailboxSelect_within (Nat.or_self _) _ _ _).listed rfl
  | mailboxCaptureDone => exact (execMailboxCaptureDone_within (Nat.or_self _) _ _ _).listed rfl
  | guardHold => exact (execGuardHold_within (Nat.or_self _) _ _ _).listed rfl
  | guardCommit => exact (execGuardCommit_within (Nat.or_self _) _ _).listed rfl
  | guardCommitDone => exact (execGuardCommitDone_within (Nat.or_self _) _).listed rfl
  | guardSweep => exact (execGuardSweep_within (Nat.or_self _) _).listed rfl
  | guardHoldExpiry => exact (execGuardHoldExpiry_within (Nat.or_self _) _).listed rfl
  | entdaa => exact (execEntdaa_within (Nat.or_self _) _ _ _).listed rfl
  | hotJoin => exact (execHotJoin_within (Nat.or_self _) _ _).listed rfl
  | targetResetPattern => exact (execTargetResetPattern_within (Nat.or_self _) _).listed rfl
  | sidebandWrite => exact (execSidebandWrite_within (Nat.or_self _) _ _ _).listed rfl
  | sidebandReadSetup => exact (execSidebandReadSetup_within (Nat.or_self _) _ _).listed rfl
  | sidebandRead => exact (execSidebandRead_within (Nat.or_self _) _ _).listed rfl
  | mctpMessage => exact (execMctpMessage_within (Nat.or_self _) _ _).listed rfl
  | getVersion => exact (execGetVersion_within (Nat.or_self _) _ _).listed rfl
  | getCapabilities => exact (execGetCapabilities_within (Nat.or_self _) _ _).listed rfl
  | negotiateAlgorithms => exact (execNegotiateAlgorithms_within (Nat.or_self _) _ _ _).listed rfl
  | getDigests => exact (execGetDigests_within (Nat.or_self _) _ _).listed rfl
  | getCertificate => exact (execGetCertificate_within (Nat.or_self _) _ _ _ _ _).listed rfl
  | challenge rsp slot nonce => exact (execChallenge_within (Nat.or_self _) rsp slot nonce _).listed rfl
  | getMeasurements rsp op signed nonce => exact (execGetMeasurements_within (Nat.or_self _) rsp op signed nonce _).listed rfl
  | keyExchange => exact (execKeyExchange_within (Nat.or_self _) _ _).listed rfl
  | doeAbort => exact (execDoeAbort_within (Nat.or_self _) _ _).listed rfl
  | doeDiscovery => exact (execDoeDiscovery_within (Nat.or_self _) _ _ _).listed rfl
  | cdatRead => exact (execCdatRead_within (Nat.or_self _) _ _ _).listed rfl
  | identify => exact (execIdentify_within (Nat.or_self _) _ _).listed rfl
  | getSupportedLogs => exact (execGetSupportedLogs_within (Nat.or_self _) _ _).listed rfl
  | getLog => exact (execGetLog_within (Nat.or_self _) _ _ _ _).listed rfl
  | getEventRecords => exact (execGetEventRecords_within (Nat.or_self _) _ _ _).listed rfl
  | clearEventRecords => exact (execClearEventRecords_within (Nat.or_self _) _ _ _ _).listed rfl
  | getEventInterruptPolicy => exact (execGetEventInterruptPolicy_within (Nat.or_self _) _ _).listed rfl
  | setEventInterruptPolicy => exact (execSetEventInterruptPolicy_within (Nat.or_self _) _ _ _).listed rfl
  | getHealthInfo => exact (execGetHealthInfo_within (Nat.or_self _) _ _).listed rfl
  | identifyMemoryDevice => exact (execIdentifyMemoryDevice_within (Nat.or_self _) _ _).listed rfl
  | getMultiHeadedInfo => exact (execGetMultiHeadedInfo_within (Nat.or_self _) _ _).listed rfl
  | getTimestamp => exact (execGetTimestamp_within (Nat.or_self _) _ _).listed rfl
  | setTimestamp => exact (execSetTimestamp_within (Nat.or_self _) _ _ _).listed rfl
  | unsupportedMailboxCommand h opcode => exact (execUnsupportedMailboxCommand_within (Nat.or_self _) h opcode _).listed rfl
  | lifetimeCounterUpdate => exact (execLifetimeCounterUpdate_within (Nat.or_self _) _ _).listed rfl
  | columnGroupMoveRow => exact (execColumnGroupMoveRow_within (Nat.or_self _) _ _ _ _ _ _).listed rfl
  | selfRefreshDue => exact (execSelfRefreshDue_within (Nat.or_self _) _ _ _ _ _).listed rfl
  | linkRecovery => exact (execLinkRecovery_within (Nat.or_self _) _ _ _ _).listed rfl
  | s2mCreditReturn => exact (execS2mCreditReturn_within (Nat.or_self _) _ _ _ _).listed rfl
  | pcieConfigWrite => exact (execPcieConfigWrite_within (Nat.or_self _) _ _ _).listed rfl
  | railWindowReturn => exact (execRailWindowReturn_within (Nat.or_self _) _ _ _).listed rfl
  | adminBistTestEnd => exact (execAdminBistTestEnd_within (Nat.or_self _) _ _ _ _ _).listed rfl

/-- Settles O6: a part that is not listed is outside the set that bounds the command's changes (`exec_touches`). -/
theorem commandTouches : Obligations.CommandTouches := fun s t c k hnext hk =>
  (exec_touches c s t hnext).same k (testBit_fieldBits hk)

end Sys2Proof.Machine
end

section
/-! Register accesses (R389, R398, R432 to R437, R440, R445, R446): a command register's write, other writes, the write-back of a sequence
number, a read that stalls, and the mailboxes. That a wrong shape is logged before busy is looked at is the model's reading of R432 and
R436 (log 70). -/

namespace Sys2Proof.Machine

variable {s : State} {path off port i v : Nat} {b : Blk} {data : List Byte} {env : StartEnv} {take : State → State}

/-! A write that its block takes as it arrives. -/

/-- The write stands as its block's posted write. -/
def postWrite (s : State) (port : Nat) (p : Posted) : State :=
  { s with acc := { s.acc with posted := tabSet none s.acc.posted port (some p) } }

theorem writeNow_closed (hclosed : pathOpen s path = false) : writeNow s path off port v take = s := by
  simp [writeNow, hclosed]

theorem writeNow_busy (hopen : pathOpen s path = true) (hbusy : busy s port = true) :
    writeNow s path off port v take = accessFault s path 4 off := by
  simp [writeNow, hopen, hbusy]

theorem writeNow_posts (hopen : pathOpen s path = true) (hfree : busy s port = false) (hasleep : portAwake s port = false) :
    writeNow s path off port v take = wakePort (postWrite s port ⟨path, off, [BitVec.ofNat 32 v]⟩) port := by
  simp [writeNow, postWrite, hopen, hfree, hasleep]

/-- Settles O20: the three tests of `writeNow` in their order. That these commands are taken in one step and the other writes posted is the
model's choice (log 11), and so is what a closed path leaves unlogged (log 70) and which paths a head in D3hot keeps open (log 37). -/
theorem postedWrites : Obligations.PostedWrites :=
  ⟨fun _ _ _ _ _ _ hclosed => writeNow_closed hclosed,
   fun _ _ _ _ _ _ hopen hbusy => writeNow_busy hopen hbusy,
   fun _ _ _ _ _ _ hopen hfree hasleep => writeNow_posts hopen hfree hasleep⟩

/-! The arrival of a write at a block other than GLB. -/

/-- A block without a busy bit carries the write out at once. -/
theorem arriveWrite_at_once {ws : List Word} (hblk : blkAt off = some (b, i)) (hne : b ≠ .glb) (hport : busyOf b i = none) :
    arriveWrite s path off ws env = takeWords s path off ws ⟨[], []⟩ := by
  cases b with
  | glb => exact absurd rfl hne
  | _ => simp [arriveWrite, hblk, hport]

/-- A block with a busy bit posts the write unless one is posted already, and wakes where it sleeps. -/
theorem arriveWrite_posts {ws : List Word} (hblk : blkAt off = some (b, i)) (hne : b ≠ .glb) (hport : busyOf b i = some port) :
    arriveWrite s path off ws env = if busy s port then accessFault s path 4 off
      else if portAwake s port then postWrite s port ⟨path, off, ws⟩ else wakePort (postWrite s port ⟨path, off, ws⟩) port := by
  cases b with
  | glb => exact absurd rfl hne
  | _ => simp [arriveWrite, postWrite, hblk, hport]

theorem exec_registerWrite_misshaped {kind : Nat} (hp : path < 5) (hopen : pathOpen s path = true) (hdata : data.isEmpty = false)
    (hshape : writeShape off data.length = some kind) :
    exec (.registerWrite path off data env) s = .next (accessFault s path kind off) := by
  refine (onElement_of_ok _ (okPath_of_lt hp)).trans ?_
  simp [writeAccess, hopen, hdata, hshape]

theorem exec_registerWrite_arrives (hp : path < 5) (hopen : pathOpen s path = true) (hdata : data.isEmpty = false)
    (hshape : writeShape off data.length = none) :
    exec (.registerWrite path off data env) s = .next (arriveWrite s path off (wordsOf data) env) := by
  refine (onElement_of_ok _ (okPath_of_lt hp)).trans ?_
  simp [writeAccess, hopen, hdata, hshape]

/-! The posted write is taken. -/

theorem exec_postedWriteTaken {block : Nat} {loop : LoopRes} {p : Posted} (hb : block < 204)
    (hposted : tabGet none s.acc.posted block = some p) (hawake : portAwake s block = true) :
    exec (.postedWriteTaken block loop) s = .next (takeWords { s with acc := { s.acc with
      posted := tabSet none s.acc.posted block none } } p.path p.off p.words loop) := by
  refine (onElement_of_ok _ (decide_eq_true hb)).trans ?_
  simp [hposted, hawake]

theorem exec_postedWriteTaken_waits {block : Nat} {loop : LoopRes} (hb : block < 204)
    (hnot : tabGet none s.acc.posted block = none ∨ portAwake s block = false) :
    exec (.postedWriteTaken block loop) s = .next s := by
  refine (onElement_of_ok _ (decide_eq_true hb)).trans ?_
  split
  · rfl
  · next p hposted =>
    rcases hnot with hnone | hasleep
    · simp [hnone] at hposted
    · simp [hasleep]

/-! Sequence numbers (R440). -/

theorem exec_sequenceWriteBack {r : RegRow} {w : Word} (hp : path < 5) (hblk : blkAt off = some (b, i)) (hrow : rowAt b i = some r)
    (hsc : r.acc = .sc) (hport : busyOf b i = none) (hopen : pathOpen s path = true) :
    exec (.sequenceWriteBack path off w) s = .next (scClear s (canonOff off) r.clr w) := by
  refine (onElement_of_ok _ (okPath_of_lt hp)).trans ?_
  simp [hblk, hrow, hsc, hport, hopen]

theorem regGet_scClear_current {clr : Nat} {w : Word} (hwf : s.wf) (hseq : w.toNat / 2 ^ 24 = (regGet s off).toNat / 2 ^ 24) :
    regGet (scClear s off clr w) off = regGet s off &&& ~~~(BitVec.ofNat 32 clr) := by
  rw [scClear, if_pos hseq, regGet_regSet_self _ _ _ hwf.regs, BitVec.ofNat_toNat, BitVec.setWidth_eq]

theorem scClear_stale {clr : Nat} {w : Word} (hseq : w.toNat / 2 ^ 24 ≠ (regGet s off).toNat / 2 ^ 24) : scClear s off clr w = s :=
  if_neg hseq

theorem nextSeq_bounds {n : Nat} (hn : n < 256) : 1 ≤ nextSeq n ∧ nextSeq n ≤ 255 := by
  unfold nextSeq
  split <;> omega

theorem sequence_lt (w : Word) : w.toNat / 2 ^ 24 < 256 := by
  have := w.isLt
  omega

/-- The number of a status register's word after an event is the next one. -/
theorem sequence_scEvent {f : Nat → Nat} (hwf : s.wf) :
    (regGet (scEvent s off f) off).toNat / 2 ^ 24 = nextSeq ((regGet s off).toNat / 2 ^ 24) := by
  have hnext : nextSeq ((regGet s off).toNat / 2 ^ 24) ≤ 255 := (nextSeq_bounds (sequence_lt _)).2
  have hlow : f ((regGet s off).toNat % 2 ^ 24) % 2 ^ 24 < 2 ^ 24 := Nat.mod_lt _ (by decide)
  rw [scEvent, regGet_regSet_self _ _ _ hwf.regs, BitVec.toNat_ofNat]
  omega

theorem regGet_scEvent_ne {o : Nat} {f : Nat → Nat} (hne : o ≠ off) : regGet (scEvent s off f) o = regGet s o := by
  rw [scEvent, regGet_regSet_ne _ hne]

/-! A read that stalls, and the mailboxes. -/

theorem exec_registerReadTimeout (hp : path < 5) (hblk : blkAt off = some (b, i)) (hport : busyOf b i = some port)
    (hopen : readOpen s path off = true) :
    exec (.registerReadTimeout path off) s = .next (accessFault (emit s (.ucr path 0xFFFFFFFF)) path 7 off) := by
  refine (onElement_of_ok _ (okPath_of_lt hp)).trans ?_
  simp [hblk, hport, hopen]

theorem exec_mailboxSelect {w : Word} (hp : path < 5) (hopen : pathOpen s path = true) :
    exec (.mailboxSelect path w) s = .next (takeSelect s path w) :=
  (onElement_of_ok _ (okPath_of_lt hp)).trans <| congrArg Host.Outcome.next (if_pos hopen)

/-- What the end of a capture does to the mailbox that ran it (R445 to R447). -/
def captureEnds (s : State) (path : Nat) : Capture → State
  | .value n => setMailbox s path { mailboxOf s path with
      valid := true, busy := false, data := (List.range 4).map fun k => BitVec.ofNat 32 (bits n (32 * k + 31) (32 * k)) }
  | .badSelector => setMailbox s path { mailboxOf s path with busy := false, err := 1 }
  | .badCopy => checkFail (setMailbox s path { mailboxOf s path with busy := false, err := 2 }) (captureArea (mailboxOf s path).sel)

theorem exec_mailboxCaptureDone {tallyOk : Bool} {c : Capture} (hp : path < 5) (hbusy : (mailboxOf s path).busy = true)
    (hcapture : captureOf s (mailboxOf s path).sel tallyOk = c) :
    exec (.mailboxCaptureDone path tallyOk) s = .next (captureEnds s path c) := by
  refine (onElement_of_ok _ (okPath_of_lt hp)).trans ?_
  simp only [hbusy, hcapture]
  cases c <;> rfl

theorem exec_mailboxCaptureDone_idle {tallyOk : Bool} (hp : path < 5) (hidle : (mailboxOf s path).busy = false) :
    exec (.mailboxCaptureDone path tallyOk) s = .next s := by
  refine (onElement_of_ok _ (okPath_of_lt hp)).trans ?_
  simp only [hidle]
  rfl

/-- Settles O57: a write's shape is judged first (log 70), then its block takes or posts it; the other clauses are one lemma each. -/
theorem registerAccesses : Obligations.RegisterAccesses := by
  refine ⟨fun s path off kind data env hp hopen hdata hshape => exec_registerWrite_misshaped hp hopen hdata hshape,
    fun s path off port i b data env hp hopen hdata hshape hblk hport hfree hawake hne => ?_,
    fun s path off port i b data env hp hopen hdata hshape hblk hport hbusy hne => ?_,
    fun s path off port i b data env hp hopen hdata hshape hblk hport hfree hasleep hne => ?_,
    fun s path off i b data env hp hopen hdata hshape hblk hport hne => ?_,
    fun s block loop p hb hposted hawake => exec_postedWriteTaken hb hposted hawake,
    fun s block loop hb hnot => exec_postedWriteTaken_waits hb hnot,
    fun s path off i v b r hp hblk hrow hsc hport hopen => exec_sequenceWriteBack hp hblk hrow hsc hport hopen,
    fun s off clr v hwf hseq => regGet_scClear_current hwf hseq,
    fun s off clr v hseq => scClear_stale hseq,
    fun s off f hwf => ⟨sequence_scEvent hwf, (nextSeq_bounds (sequence_lt _)).1, (nextSeq_bounds (sequence_lt _)).2,
      fun o hne => regGet_scEvent_ne hne⟩,
    fun s path off i port b hp hblk hport hopen => exec_registerReadTimeout hp hblk hport hopen,
    fun s path v hp hopen => exec_mailboxSelect hp hopen,
    fun s path n tallyOk hp hbusy hcapture => ?_,
    fun s path tallyOk hp hbusy hcapture => ?_,
    fun s path tallyOk hp hbusy hcapture => ?_,
    fun s path tallyOk hp hidle => exec_mailboxCaptureDone_idle hp hidle⟩
  · rw [exec_registerWrite_arrives hp hopen hdata hshape, arriveWrite_posts hblk hne hport, if_neg (ne_true_of_eq_false hfree), if_pos hawake]
    rfl
  · rw [exec_registerWrite_arrives hp hopen hdata hshape, arriveWrite_posts hblk hne hport, if_pos hbusy]
  · rw [exec_registerWrite_arrives hp hopen hdata hshape, arriveWrite_posts hblk hne hport, if_neg (ne_true_of_eq_false hfree),
      if_neg (ne_true_of_eq_false hasleep)]
    rfl
  · rw [exec_registerWrite_arrives hp hopen hdata hshape, arriveWrite_at_once hblk hne hport]
  · rw [exec_mailboxCaptureDone hp hbusy hcapture, captureEnds]
  · rw [exec_mailboxCaptureDone hp hbusy hcapture, captureEnds]
  · rw [exec_mailboxCaptureDone hp hbusy hcapture, captureEnds, checkFail]

end Sys2Proof.Machine
end

section
/-! The config guard (R448 to R452). That a commit without the hold is refused before one that runs is, that the event is raised as the
mismatch line rises, and that an expired hold is severe are the model's reading (log 59). -/

namespace Sys2Proof.Machine

variable {s : State} {path : Nat} {v : Word}

theorem exec_guardHold (hp : path < 5) :
    exec (.guardHold path v) s = .next (if pathOpen s path then takeHold s path v.toNat else s) :=
  onElement_of_ok _ (okPath_of_lt hp)

theorem exec_guardCommit (hp : path < 5) : exec (.guardCommit path) s = .next (if pathOpen s path then takeCommit s path else s) :=
  onElement_of_ok _ (okPath_of_lt hp)

/-- A write of GRD_HOLD changes the hold bit of its own path; the hold's time starts where no path held the guard (R449, R450). -/
theorem takeHold_eq {n : Nat} : takeHold s path n = { s with acc := { s.acc with
    hold := if bitOf n 0 then insertNat path s.acc.hold else s.acc.hold.filter (· != path),
    heldSince := if bitOf n 0 && s.acc.hold.isEmpty then s.now else s.acc.heldSince } } := by
  unfold takeHold
  cases bitOf n 0 <;> rfl

theorem takeCommit_starts (hholds : s.acc.hold.contains path = true) (hfree : s.acc.committing = false) :
    takeCommit s path = { s with acc := { s.acc with committing := true } } := by
  rw [takeCommit, hholds, hfree]
  exact (if_neg Bool.false_ne_true).trans (if_neg Bool.false_ne_true)

theorem takeCommit_without_hold (hnot : s.acc.hold.contains path = false) : takeCommit s path = accessFault s path 8 (oGrd 4) := by
  rw [takeCommit, hnot]
  exact if_pos rfl

theorem takeCommit_running (hholds : s.acc.hold.contains path = true) (hruns : s.acc.committing = true) :
    takeCommit s path = accessFault s path 4 (oGrd 4) := by
  rw [takeCommit, hholds, hruns]
  exact (if_neg Bool.false_ne_true).trans (if_pos rfl)

theorem exec_guardCommitDone : exec .guardCommitDone s = .next (if s.acc.committing then
    { s with acc := { s.acc with committing := false, ref := guardCrc s, last := guardCrc s } } else s) := rfl

theorem exec_guardSweep : exec .guardSweep s = .next (if guardRuns s then
    (if s.acc.hold.isEmpty then guardCompare { s with acc := { s.acc with last := guardCrc s } } (guardCrc s)
     else { s with acc := { s.acc with last := guardCrc s } }) else s) := rfl

/-- The mismatch is counted, and its line raised with an event where it did not stand (R449). -/
theorem guardCompare_eq {crc : Nat} : guardCompare s crc = if crc = s.acc.ref then setLine { s with acc := { s.acc with mismatch := false } } 7 0 false
    else if (getSource s (srcKey 7 0)).line = true then
      setLine (scEvent { s with acc := { s.acc with mismatch := true } } (oGrd 0x18) fun v => bumpBits v 23 16) 7 0 true
    else event (setLine (scEvent { s with acc := { s.acc with mismatch := true } } (oGrd 0x18) fun v => bumpBits v 23 16) 7 0 true) 7 0 2 0 0 := by
  unfold guardCompare
  dsimp only

/-- A path has held the guard for longer than GRD_HOLD_MAX (R450). -/
def holdOver (s : State) : Bool := decide (max 1 (regField s (oGrd 0x14) 15 0) * 1000000 < s.now - s.acc.heldSince)

theorem exec_guardHoldExpiry : exec .guardHoldExpiry s = .next (if !s.acc.hold.isEmpty && holdOver s then
    event (scEvent { s with acc := { s.acc with hold := [] } } (oGrd 0x18) fun v => putBits v 0 0 1) 7 0 2 0 0 else s) := rfl

theorem holdExpires_of (hheld : s.acc.hold.isEmpty = false) (hover : holdOver s = true) : (!s.acc.hold.isEmpty && holdOver s) = true := by
  simp [hheld, hover]

theorem not_holdExpires_of (hnot : s.acc.hold.isEmpty = true ∨ holdOver s = false) : ¬ (!s.acc.hold.isEmpty && holdOver s) = true := by
  rcases hnot with hfree | hearly
  · simp [hfree]
  · simp [hearly]

/-- Settles O58: each command's condition and its opposite; the order of the refusals of a commit, the event on the line's rise and the
severity of an expired hold are log 59. -/
theorem configGuard : Obligations.ConfigGuard := by
  refine ⟨fun s path v hp hopen => ?_, fun s path hp hopen hholds hfree => ?_, fun s path hp hopen hnot => ?_,
    fun s path hp hopen hholds hruns => ?_,
    fun s path v hp hclosed => ⟨?_, ?_⟩, fun s hruns => ?_, fun s hidle => ?_, fun s hruns => ?_, fun s crc => guardCompare_eq, fun s hidle => ?_,
    fun s hheld hover => ?_, fun s hnot => ?_⟩
  · rw [exec_guardHold hp, if_pos hopen, takeHold_eq]
  · rw [exec_guardCommit hp, if_pos hopen, takeCommit_starts hholds hfree]
  · rw [exec_guardCommit hp, if_pos hopen, takeCommit_without_hold hnot]
  · rw [exec_guardCommit hp, if_pos hopen, takeCommit_running hholds hruns]
  · rw [exec_guardHold hp, if_neg (ne_true_of_eq_false hclosed)]
  · rw [exec_guardCommit hp, if_neg (ne_true_of_eq_false hclosed)]
  · rw [exec_guardCommitDone, if_pos hruns]
  · rw [exec_guardCommitDone, if_neg (ne_true_of_eq_false hidle)]
  · rw [exec_guardSweep, if_pos hruns]
  · rw [exec_guardSweep, if_neg (ne_true_of_eq_false hidle)]
  · rw [exec_guardHoldExpiry, if_pos (holdExpires_of hheld (decide_eq_true hover))]
  · rw [exec_guardHoldExpiry, if_neg (not_holdExpires_of (hnot.imp_right fun hearly => decide_eq_false (Nat.not_lt.2 hearly)))]

end Sys2Proof.Machine
end

section
/-! The I3C targets (R459 to R461) and the hourly lifetime counters (R354). -/

namespace Sys2Proof.Machine

variable {s : State} {target addr off words : Nat} {data : List Byte} {env : StartEnv}

/-! Addresses. -/

theorem onTarget_of_lt {a : Answer} (ht : target < 2) (ha : addr < 128) : onElement (decide (target < 2) && decide (addr < 128)) a = a :=
  onElement_of_ok _ (by simp [ht, ha])

theorem exec_entdaa (ht : target < 2) (ha : addr < 128) : exec (.entdaa target addr) s =
    if sidebandUp s && !addressed s target then
      .next (emit { s with side := { s.side with addr := tabSet 0 s.side.addr target (addr + 1) } }
        (.sideband (0x100 + target) (leBytes 6 (provisionedId s target))))
    else .next s := onTarget_of_lt ht ha

theorem exec_hotJoin (ht : target < 2) :
    exec (.hotJoin target) s = .next (if sidebandUp s && !addressed s target then emit s (.hotJoin target) else s) :=
  onElement_of_ok _ (decide_eq_true ht)

/-- A target asks for an address, and takes one, from start-up step 2 on while it has none. -/
theorem asks_of (hup : sidebandUp s = true) (hnone : addressed s target = false) : (sidebandUp s && !addressed s target) = true := by
  simp [hup, hnone]

theorem not_asks_of (hnot : sidebandUp s = false ∨ addressed s target = true) : ¬ (sidebandUp s && !addressed s target) = true := by
  rcases hnot with hdown | haddr
  · simp [hdown]
  · simp [haddr]

/-! Writes and reads of the register target. -/

/-- The register target answers neither before step 2 nor without an address. -/
theorem targetShut_iff : (!sidebandUp s || !addressed s 0) = true ↔ sidebandUp s = false ∨ addressed s 0 = false := by
  simp

theorem targetOpen_of (hup : sidebandUp s = true) (haddr : addressed s 0 = true) : ¬ (!sidebandUp s || !addressed s 0) = true := by
  simp [hup, haddr]

theorem privateWrite_shut {write : Nat → State} (hshut : sidebandUp s = false ∨ addressed s 0 = false) : privateWrite s data write = s :=
  if_pos (targetShut_iff.2 hshut)

theorem privateWrite_misframed {write : Nat → State} (hup : sidebandUp s = true) (haddr : addressed s 0 = true) (hframe : frameOf data = none) :
    privateWrite s data write = accessFault s 4 2 0 := by
  rw [privateWrite, if_neg (targetOpen_of hup haddr), hframe]
  rfl

/-- A write to the register target that is framed right is the register write of its data or the set-up of a read (R460). -/
theorem privateWrite_framed {write : Nat → State} (hup : sidebandUp s = true) (haddr : addressed s 0 = true)
    (hframe : frameOf data = some (off, words)) :
    privateWrite s data write = if fieldLe data 0 1 = 1 then write off else setUpRead s off words := by
  rw [privateWrite, if_neg (targetOpen_of hup haddr), hframe]

theorem exec_sidebandWrite : exec (.sidebandWrite data env) s = .next (privateWrite s data fun off => writeAccess s 4 off (data.drop 6) env) := rfl

theorem exec_sidebandReadSetup : exec (.sidebandReadSetup data) s = .next (privateWrite s data fun _ => s) := rfl

theorem exec_sidebandRead_shut (hshut : sidebandUp s = false ∨ addressed s 0 = false) : exec (.sidebandRead words) s = .next s :=
  congrArg _ <| if_pos (targetShut_iff.2 hshut)

/-- A read of the register target puts out what was set up, once (R461). -/
theorem exec_sidebandRead_setUp {st : Nat} (hup : sidebandUp s = true) (haddr : addressed s 0 = true) (hsetup : s.side.setup = some (st, data)) :
    exec (.sidebandRead words) s =
      .next (emit { s with side := { s.side with setup := none } } (.sideband st (data.take (4 * words)))) := by
  refine congrArg Host.Outcome.next ((if_neg (targetOpen_of hup haddr)).trans ?_)
  rw [hsetup]

theorem exec_sidebandRead_none (hup : sidebandUp s = true) (haddr : addressed s 0 = true) (hsetup : s.side.setup = none) :
    exec (.sidebandRead words) s = .next (emit s (.sideband 2 [])) := by
  refine congrArg Host.Outcome.next ((if_neg (targetOpen_of hup haddr)).trans ?_)
  rw [hsetup]

/-- Settles O59: each clause is one branch of its command. That a lifetime write which fails keeps the counters and restarts the hour's
sums is the model's reading (log 61). -/
theorem sideband : Obligations.Sideband := by
  refine ⟨fun s target addr ht ha hup hnone => ?_, fun s target ht hup hnone => ?_, fun s target addr ht ha hnot => ⟨?_, ?_⟩, fun s => rfl,
    fun s off words data env hup haddr hframe hop => ?_, fun s off words data hup haddr hframe hop => ?_,
    fun s words st data hup haddr hsetup => exec_sidebandRead_setUp hup haddr hsetup,
    fun s data env hup haddr hframe => ⟨?_, ?_⟩, fun s off words data env hup haddr hframe hop => ?_,
    fun s words hup haddr hsetup => exec_sidebandRead_none hup haddr hsetup,
    fun s words data env hshut => ⟨?_, ?_, exec_sidebandRead_shut hshut⟩, fun s => rfl, fun s => rfl⟩
  · rw [exec_entdaa ht ha, if_pos (asks_of hup hnone)]
  · rw [exec_hotJoin ht, if_pos (asks_of hup hnone)]
  · rw [exec_entdaa ht ha, if_neg (not_asks_of hnot)]
  · rw [exec_hotJoin ht, if_neg (not_asks_of hnot)]
  · rw [exec_sidebandWrite, privateWrite_framed hup haddr hframe, if_pos hop]
  · rw [exec_sidebandReadSetup, privateWrite_framed hup haddr hframe, if_neg hop]
  · rw [exec_sidebandWrite, privateWrite_misframed hup haddr hframe]
  · rw [exec_sidebandReadSetup, privateWrite_misframed hup haddr hframe]
  · rw [exec_sidebandWrite, privateWrite_framed hup haddr hframe, if_neg hop]
  · rw [exec_sidebandWrite, privateWrite_shut hshut]
  · rw [exec_sidebandReadSetup, privateWrite_shut hshut]

end Sys2Proof.Machine
end

section
/-! Readings and floors (R408 to R413). -/

namespace Sys2Proof.Machine

variable {s : State} {m f t src : Nat} {readings : List Int}

theorem exec_thermalEvaluation (hlen : readings.length = 186) (hrun : s.pwr.dstate ≠ 4) :
    exec (.thermalEvaluation readings) s = .next
      (let s1 := takeReadings s readings
       let s2 := forAll (runModel s s1) (upFrom 0 17) judgeTier
       noteHottest (checkTrip (forAll (forAll (setBands s2) (upFrom 0 32) floorFlume) (upFrom 0 32) floorMill))) :=
  (onElement_of_ok _ (beq_iff_eq.2 hlen)).trans <| if_neg hrun

/-- In device Brake no model runs (R408, R411). -/
theorem exec_thermalEvaluation_brake (hlen : readings.length = 186) (hbrake : s.pwr.dstate = 4) :
    exec (.thermalEvaluation readings) s = .next (checkTrip (takeReadings s readings)) :=
  (onElement_of_ok _ (beq_iff_eq.2 hlen)).trans <| if_pos hbrake

/-- What raised a floor has been cool for 10 ms (R412). -/
def coolDue (s : State) (c : Option Nat) : Bool :=
  match c with
  | some t => decide (t + 10000000 ≤ s.now)
  | none => false

theorem coolDue_iff {c : Option Nat} : coolDue s c = true ↔ ∃ t, c = some t ∧ t + 10000000 ≤ s.now := by
  cases c <;> simp [coolDue]

theorem not_coolDue_of {c : Option Nat} {floor : Nat} (hnot : floor = 0 ∨ ∀ t, c = some t → s.now < t + 10000000) :
    ¬ (0 < floor ∧ coolDue s c = true) := by
  rintro ⟨hfloor, hdue⟩
  obtain ⟨t, hcool, hpast⟩ := coolDue_iff.1 hdue
  rcases hnot with hnone | hearly
  · exact Nat.ne_of_gt hfloor hnone
  · exact Nat.not_le.2 (hearly t hcool) hpast

theorem exec_throttleStepDown_mill (hm : m < 32) : exec (.throttleStepDown m true) s = .next
    (if 0 < (getMill s m).floor ∧ coolDue s (getMill s m).coolSince = true then
      modMill s m fun x => { x with floor := x.floor - 1, coolSince := some s.now, raisedBy := if x.floor = 1 then [] else x.raisedBy }
     else s) :=
  onElement_of_ok _ (okF_of_lt hm)

theorem exec_throttleStepDown_flume (hf : f < 32) : exec (.throttleStepDown f false) s = .next
    (if 0 < (getFlume s f).floor ∧ coolDue s (getFlume s f).coolSince = true then
      modFlume s f fun x => { x with floor := x.floor - 1, coolSince := some s.now, raisedBy := if x.floor = 1 then [] else x.raisedBy }
     else s) :=
  onElement_of_ok _ (okF_of_lt hf)

theorem exec_thermalTrip (hsrc : src < 184) : exec (.thermalTrip src) s = .next (raise s 3 0 3 (src % 256 * 2 ^ 15) 0) :=
  onElement_of_ok _ (decide_eq_true hsrc)

end Sys2Proof.Machine
end

section
/-! The coolant check (R406, R415, R416). That a suspended check raises its notice once is the model's reading (log 66). -/

namespace Sys2Proof.Machine

variable {s : State} {power : Nat} {tin tout : Int}

/-- The coolant temperatures are recorded, whatever the check does. -/
def coolNoted (s : State) (tin tout : Int) : State := modThm s fun m => { m with tin := tin, tout := tout }

theorem exec_coolantCheck_off (hoff : bitOf (regGet s (oThm 0)).toNat 0 = false) :
    exec (.coolantCheck power tin tout) s = .next (coolNoted s tin tout) :=
  if_pos (congrArg (!·) hoff)

theorem exec_coolantCheck_suspended (hon : bitOf (regGet s (oThm 0)).toNat 0 = true) (htrim : trimDefault s = true) :
    exec (.coolantCheck power tin tout) s = .next (coolSuspended (coolNoted s tin tout)) :=
  (if_neg (ne_true_of_eq_false (congrArg (!·) hon))).trans <| if_pos htrim

theorem exec_coolantCheck_runs_check (hon : bitOf (regGet s (oThm 0)).toNat 0 = true) (htrim : trimDefault s = false) :
    exec (.coolantCheck power tin tout) s = .next
      (let found := coolKinds s power tin tout
       let fine := !found.contains 4 && !rateBelow power (coolShare s) (tout - tin) (coolMin s + 5) &&
         !rateAbove power (coolShare s) (tout - tin) 400
       let s2 := found.foldl coolRaise (coolEnd (coolNoted s tin tout) found (if fine then s.thm.goodChecks + 1 else 0))
       if !found.contains 4 && ((decide (160 ≤ tin) && decide (tin ≤ 180)) || decide (tin < 80)) then event s2 5 2 1 0 0 else s2) :=
  (if_neg (ne_true_of_eq_false (congrArg (!·) hon))).trans <| if_neg (ne_true_of_eq_false htrim)

end Sys2Proof.Machine
end

section
/-! The collector's commands (R226, R419, R422, R423, R425, R429). -/

namespace Sys2Proof.Machine

variable {s : State} {g i sev unit detail : Nat} {line : LineChange} {bad : List Nat} {path : Nat} {v : Word}

/-! Error lines. -/

theorem okEvent_of_lt (hg : g < 64) (hi : i < 16) (hsev : sev < 4) : (okSource g i && decide (sev < 4)) = true := by
  simp [okSource, hg, hi, hsev]

/-- What a pulse, a rise and a fall of a source's error line do. -/
def lineChanged (s : State) (g i sev unit detail : Nat) : LineChange → State
  | .pulse => raiseLine s g i sev unit detail
  | .rise => raiseLine (setLine s g i true) g i sev unit detail
  | .fall => endCondition s g i

theorem exec_errorLineEvent (hg : g < 64) (hi : i < 16) (hsev : sev < 4) :
    exec (.errorLineEvent g i sev unit detail line none) s = .next (lineChanged s g i sev unit detail line) := by
  refine (onElement_of_ok _ (okEvent_of_lt hg hi hsev)).trans ?_
  rw [ite_self]
  cases line <;> rfl

/-- A TLP fault comes with source 0 of a head's group, and takes its own action (R226). -/
theorem exec_errorLineEvent_tlp {e : TlpError} (hlow : 16 ≤ g) (hhigh : g < 20) (hsev : sev < 4) :
    exec (.errorLineEvent g 0 sev unit detail line (some e)) s = .next (tlpFault s (g - 16) e) := by
  refine (onElement_of_ok _ (okEvent_of_lt (by omega) (by decide) hsev)).trans ?_
  rw [if_pos ⟨hlow, hhigh, rfl⟩]

/-! Windows and parity. -/

theorem okSource_of_lt (hg : g < 64) (hi : i < 16) : okSource g i = true := by simp [okSource, hg, hi]

theorem exec_windowClose {e : Nat} (hg : g < 64) (hi : i < 16) (hend : (getSource s (srcKey g i)).windowEnd = some e) :
    exec (.windowClose g i) s = .next
      (if e ≤ ticks s then modSource s (srcKey g i) fun x => { x with windowEnd := none, count := 0 } else s) := by
  refine (onElement_of_ok _ (okSource_of_lt hg hi)).trans ?_
  rw [hend]

theorem exec_windowClose_none (hg : g < 64) (hi : i < 16) (hend : (getSource s (srcKey g i)).windowEnd = none) :
    exec (.windowClose g i) s = .next s := by
  refine (onElement_of_ok _ (okSource_of_lt hg hi)).trans ?_
  rw [hend]

/-- The damaged sources that a sweep finds: source (0, 0) is not subject to its own check (R425). -/
def damaged (bad : List Nat) : List Nat := bad.filter fun k => k != 0 && decide (k < 1024)

theorem exec_collectorParitySweep_damage (hbad : damaged bad ≠ []) :
    exec (.collectorParitySweep bad) s = .next (raise (forAll s (damaged bad) reloadSource) 0 0 3 0 0) :=
  congrArg Host.Outcome.next <| if_neg fun hempty => hbad (List.isEmpty_iff.1 hempty)

theorem exec_collectorParitySweep_sound (hsound : damaged bad = []) : exec (.collectorParitySweep bad) s = .next s :=
  congrArg Host.Outcome.next <| if_pos (List.isEmpty_iff.2 hsound)

/-! Clearing. -/

theorem exec_fltClear (hp : path < 5) :
    exec (.fltClear path v) s = .next (if pathOpen s path then takeFltClear s v.toNat else s) :=
  onElement_of_ok _ (okPath_of_lt hp)

/-- Settles O54: one lemma for each form of each command; the single notice of a suspended check is log 66. -/
theorem thermalAndFaults : Obligations.ThermalAndFaults := by
  refine ⟨fun s readings hlen hrun => exec_thermalEvaluation hlen hrun,
    fun s readings hlen hbrake => exec_thermalEvaluation_brake hlen hbrake,
    fun s m t hm hfloor hcool hpast => ?_, fun s f t hf hfloor hcool hpast => ?_,
    fun s m hm hnot => ?_, fun s f hf hnot => ?_, fun s src hsrc => exec_thermalTrip hsrc,
    fun s power tin tout hon htrim => exec_coolantCheck_runs_check hon htrim,
    fun s power tin tout hoff => exec_coolantCheck_off hoff,
    fun s power tin tout hon htrim => exec_coolantCheck_suspended hon htrim,
    fun s g i sev unit detail hg hi hsev => ⟨exec_errorLineEvent hg hi hsev, exec_errorLineEvent hg hi hsev, exec_errorLineEvent hg hi hsev⟩,
    fun s g sev unit detail line e hlow hhigh hsev => exec_errorLineEvent_tlp hlow hhigh hsev,
    fun s g i sev unit detail => rfl,
    fun s g i e hg hi hend hpast => ?_, fun s g i hg hi hopen => ?_,
    fun s bad hbad => exec_collectorParitySweep_damage hbad, fun s bad hsound => exec_collectorParitySweep_sound hsound,
    fun s path v hp hopen => ?_, fun s path v hp hclosed => ?_⟩
  · rw [exec_throttleStepDown_mill hm, if_pos ⟨hfloor, coolDue_iff.2 ⟨t, hcool, hpast⟩⟩]
  · rw [exec_throttleStepDown_flume hf, if_pos ⟨hfloor, coolDue_iff.2 ⟨t, hcool, hpast⟩⟩]
  · rw [exec_throttleStepDown_mill hm, if_neg (not_coolDue_of hnot)]
  · rw [exec_throttleStepDown_flume hf, if_neg (not_coolDue_of hnot)]
  · rw [exec_windowClose hg hi hend, if_pos hpast]
  · cases hend : (getSource s (srcKey g i)).windowEnd with
    | none => exact exec_windowClose_none hg hi hend
    | some e => rw [exec_windowClose hg hi hend, if_neg (Nat.not_le.2 (hopen e hend))]
  · rw [exec_fltClear hp, if_pos hopen, takeFltClear]
  · rw [exec_fltClear hp, if_neg (ne_true_of_eq_false hclosed)]

end Sys2Proof.Machine
end

section
/-! Device resets (R344, R356 to R358, R361, R362, R365, R469). That a reset clears and starts up in one step is the model's choice (logs 12
and 72). -/

namespace Sys2Proof.Machine

variable {s : State} {cause path : Nat} {v : Word} {env : StartEnv}

/-- A reset of a cause at its release: what R361 keeps, with start-up at step 1 still to run. -/
def resetReleased (s : State) (cause : Nat) (env : StartEnv) : State :=
  emit { resetKeep s with boot :=
    { (resetKeep s).boot with cause := cause, since := s.now, rstN := true, bistMode := env.bistMode } } (.pins true false)

/-- Start-up runs at once, or waits for the last rail from the time of the release (R358, R469). -/
theorem deviceReset_eq : deviceReset s cause env = if s.pwr.railsOut.isEmpty then startSteps (resetReleased s cause env) env
    else { resetReleased s cause env with boot := { (resetReleased s cause env).boot with early := some s.now } } := rfl

theorem deviceReset_starts (hrails : s.pwr.railsOut = []) : deviceReset s cause env = startSteps (resetReleased s cause env) env := by
  rw [deviceReset_eq, if_pos (List.isEmpty_iff.2 hrails)]

theorem deviceReset_waits (hrails : s.pwr.railsOut ≠ []) : deviceReset s cause env =
    { resetReleased s cause env with boot := { (resetReleased s cause env).boot with early := some s.now } } := by
  rw [deviceReset_eq, if_neg fun hempty => hrails (List.isEmpty_iff.1 hempty)]

theorem exec_pinReset : exec (.pinReset env) s = .next (if heldInReset s then s else deviceReset s 1 env) := rfl

theorem exec_softwareReset (hp : path < 5) :
    exec (.softwareReset path v env) s = .next (if pathOpen s path then takeReset s path v.toNat env else s) :=
  onElement_of_ok _ (okPath_of_lt hp)

theorem exec_lifeCycleReset : exec (.lifeCycleReset env) s = .next (if s.boot.lcReset then deviceReset s 3 env else s) := rfl

theorem exec_scanDebugExitReset :
    exec (.scanDebugExitReset env) s = .next (if s.boot.scanOpen || s.boot.debugOpen then deviceReset s 4 env else s) := rfl

theorem not_heldInReset (hseq : s.boot.seqError = false) (haux : s.pwr.auxReset = false) : heldInReset s = false := by
  simp [heldInReset, hseq, haux]

/-- Settles O46: each reset command is one test around `deviceReset`, which either starts up or waits for a rail. -/
theorem deviceResets : Obligations.DeviceResets := by
  refine ⟨fun s env => rfl, fun s env hseq haux => ?_, fun s path v env hp hopen => ?_,
    fun s path v env hp hclosed hheld hlife hscan hdebug => ⟨?_, ?_, ?_, ?_⟩, fun s env hlife => ?_, fun s env hport => ?_,
    fun s cause env hrails => deviceReset_starts hrails, fun s cause env hrails => ?_⟩
  · rw [exec_pinReset, if_neg (ne_true_of_eq_false (not_heldInReset hseq haux))]
  · rw [exec_softwareReset hp, if_pos hopen, takeReset]
  · rw [exec_softwareReset hp, if_neg (ne_true_of_eq_false hclosed)]
  · rw [exec_pinReset, if_pos hheld]
  · rw [exec_lifeCycleReset, if_neg (ne_true_of_eq_false hlife)]
  · rw [exec_scanDebugExitReset, hscan, hdebug, if_neg (by decide)]
  · rw [exec_lifeCycleReset, if_pos hlife]
  · rw [exec_scanDebugExitReset, if_pos (Bool.or_eq_true_iff.2 hport)]
  · rw [deviceReset_waits hrails]
    exact ⟨rfl, rfl, rfl, rfl, rfl, rfl, rfl, rfl⟩

end Sys2Proof.Machine
end

section
/-! The test port (R344, R364, R365). The word that stands for the shifted-out chain is the model's reading (log 58). -/

namespace Sys2Proof.Machine

/-! An element that a sweep over a table has reached. -/

section
variable {α : Type} [DecidableEq α] {d : α} {f : Nat → α → α} {P : α → Prop} {k : Nat}

theorem tabGet_tabModAll_keeps (hP : ∀ j x, P (f j x)) (ks : List Nat) :
    ∀ {t : Tab α}, tabWf d t → P (tabGet d t k) → P (tabGet d (tabModAll d t ks f) k) := by
  induction ks with
  | nil => exact fun _ hk => hk
  | cons j ks ih =>
    intro t hwf hk
    refine ih (tabWf_tabMod d t j _ hwf) ?_
    by_cases hj : k = j
    · rw [hj, tabGet_tabMod_self d t j _ hwf]
      exact hP j _
    · rwa [tabGet_tabMod_ne d t _ hj]

/-- What a change makes true of every element holds of those that a sweep has changed. -/
theorem tabGet_tabModAll_of_mem (hP : ∀ j x, P (f j x)) {ks : List Nat} :
    ∀ {t : Tab α}, tabWf d t → k ∈ ks → P (tabGet d (tabModAll d t ks f) k) := by
  induction ks with
  | nil => exact fun _ hk => absurd hk List.not_mem_nil
  | cons j ks ih =>
    intro t hwf hk
    rcases List.mem_cons.1 hk with rfl | hk
    · refine tabGet_tabModAll_keeps hP ks (tabWf_tabMod d t k _ hwf) ?_
      rw [tabGet_tabMod_self d t k _ hwf]
      exact hP k _
    · exact ih (tabWf_tabMod d t j _ hwf) hk

end

/-! Clearing the secrets: the device's own first, then each mill's, each sub-channel's and each flume's. -/

variable {s t : State} {f m k : Nat}

/-- The region table, the leat's store and the identity are zeroed, and DRAM is blocked. -/
def clearDevice (s : State) : State :=
  modLeat { s with boot := { s.boot with blocked := true, identity := false }, regions := [], badRegions := [] } fun l =>
    { l with pond := [], dirty := [], whole := [], page := [], copies := [] }

/-- A mill without what its hopper and registers held. -/
def clearMill (x : Mill) : Mill := { x with hopper := [], hopperPoison := [], scalars := [], vectors := [] }

/-- Every mill is cleared. -/
def clearMills (t : State) : State := forAll t (upFrom 0 32) fun s m => modMill s m clearMill

/-- A sub-channel without its commands. -/
def clearSub (u : SubChan) : SubChan := { u with retry := [], held := [] }

/-- Every sub-channel is cleared. -/
def clearSubs (t : State) : State := forAll t (upFrom 0 128) fun s k => modSub s k clearSub

/-- A flume without its requests, held rows and lines to refetch. -/
def clearFlume (x : Flume) : Flume := { x with waiting := [], queue := [], inflight := [], heldRows := [], refetch := [] }

/-- Every flume is cleared. -/
def clearFlumes (t : State) : State := forAll t (upFrom 0 32) fun s f => modFlume s f clearFlume

theorem clearSecrets_eq (s : State) : clearSecrets s = clearFlumes (clearSubs (clearMills (clearDevice s))) := rfl

theorem clearMills_within (t : State) : Within (2 ^ 20) t (clearMills t) :=
  forAll_within (.refl _ t) fun _ _ h => modMill_within (by decide) h

theorem clearSubs_within (t : State) : Within (2 ^ 6) t (clearSubs t) :=
  forAll_within (.refl _ t) fun _ _ h => modSub_within (by decide) h

theorem clearFlumes_within (t : State) : Within (2 ^ 5) t (clearFlumes t) :=
  forAll_within (.refl _ t) fun _ _ h => modFlume_within (by decide) h

/-- The three sweeps leave the other parts as the device's own clearing left them. -/
theorem sweeps_within (t : State) : Within (2 ^ 5 + 2 ^ 6 + 2 ^ 20) t (clearFlumes (clearSubs (clearMills t))) :=
  forAll_within
    (forAll_within (forAll_within (.refl _ t) fun _ _ h => modMill_within (by decide) h) fun _ _ h => modSub_within (by decide) h)
    fun _ _ h => modFlume_within (by decide) h

theorem clearMills_mills (t : State) : (clearMills t).mills = tabModAll millInit t.mills (upFrom 0 32) fun _ => clearMill :=
  (List.foldl_hom State.mills fun _ _ => rfl).symm

theorem clearSubs_subs (t : State) : (clearSubs t).subs = tabModAll subInit t.subs (upFrom 0 128) fun _ => clearSub :=
  (List.foldl_hom State.subs fun _ _ => rfl).symm

theorem clearFlumes_flumes (t : State) : (clearFlumes t).flumes = tabModAll flumeInit t.flumes (upFrom 0 32) fun _ => clearFlume :=
  (List.foldl_hom State.flumes fun _ _ => rfl).symm

theorem mem_upFrom_zero {n : Nat} (hk : k < n) : k ∈ upFrom 0 n := List.mem_range'_1.2 ⟨Nat.zero_le k, by omega⟩

theorem clearSecrets_mill (hwf : s.wf) (hm : m < 32) : (getMill (clearSecrets s) m).hopper = [] ∧
    (getMill (clearSecrets s) m).scalars = [] ∧ (getMill (clearSecrets s) m).vectors = [] := by
  have hmills : (clearSecrets s).mills = (clearMills (clearDevice s)).mills := by
    rw [clearSecrets_eq, (clearFlumes_within _).mills (by decide), (clearSubs_within _).mills (by decide)]
  rw [getMill, hmills, clearMills_mills]
  exact tabGet_tabModAll_of_mem (P := fun x : Mill => x.hopper = [] ∧ x.scalars = [] ∧ x.vectors = []) (fun _ _ => ⟨rfl, rfl, rfl⟩)
    hwf.mills (mem_upFrom_zero hm)

theorem clearSecrets_sub (hwf : s.wf) (hk : k < 128) : (getSub (clearSecrets s) k).retry = [] ∧ (getSub (clearSecrets s) k).held = [] := by
  have hsubs : (clearSecrets s).subs = (clearSubs (clearMills (clearDevice s))).subs := by
    rw [clearSecrets_eq, (clearFlumes_within _).subs (by decide)]
  have hbefore : (clearMills (clearDevice s)).subs = s.subs := (clearMills_within _).subs (by decide)
  rw [getSub, hsubs, clearSubs_subs, hbefore]
  exact tabGet_tabModAll_of_mem (P := fun x : SubChan => x.retry = [] ∧ x.held = []) (fun _ _ => ⟨rfl, rfl⟩) hwf.subs (mem_upFrom_zero hk)

theorem clearSecrets_flume (hwf : s.wf) (hf : f < 32) : (getFlume (clearSecrets s) f).queue = [] ∧
    (getFlume (clearSecrets s) f).waiting = [] ∧ (getFlume (clearSecrets s) f).inflight = [] ∧
    (getFlume (clearSecrets s) f).heldRows = [] ∧ (getFlume (clearSecrets s) f).refetch = [] := by
  have hbefore : (clearSubs (clearMills (clearDevice s))).flumes = s.flumes := by
    rw [(clearSubs_within _).flumes (by decide), (clearMills_within _).flumes (by decide)]
    rfl
  rw [getFlume, clearSecrets_eq, clearFlumes_flumes, hbefore]
  exact tabGet_tabModAll_of_mem
    (P := fun x : Flume => x.queue = [] ∧ x.waiting = [] ∧ x.inflight = [] ∧ x.heldRows = [] ∧ x.refetch = [])
    (fun _ _ => ⟨rfl, rfl, rfl, rfl, rfl⟩) hwf.flumes (mem_upFrom_zero hf)

/-- What clearing the secrets leaves of the region table, the leat's store and the identity. -/
theorem clearSecrets_device : (clearSecrets s).regions = [] ∧ (clearSecrets s).leat.pond = [] ∧ (clearSecrets s).leat.dirty = [] ∧
    (clearSecrets s).leat.copies = [] ∧ (clearSecrets s).boot.identity = false ∧ (clearSecrets s).boot.blocked = true := by
  have hframe := sweeps_within (clearDevice s)
  rw [clearSecrets_eq, hframe.regions (by decide), hframe.leat (by decide), hframe.boot (by decide)]
  exact ⟨rfl, rfl, rfl, rfl, rfl, rfl⟩

/-! The instructions. -/

/-- Scan and debug are open to the states BLANK, TEST and RMA (R364). -/
theorem portPermits_iff : portPermits s = true ↔ s.fuses.lc = 0 ∨ s.fuses.lc = 1 ∨ s.fuses.lc = 4 := by
  simp [portPermits]

theorem exec_scanEntry : exec .scanEntry s = .next (if portPermits s then
    { clearSecrets s with boot := { (clearSecrets s).boot with scanOpen := true } } else bypassPort s) := rfl

theorem exec_debugEntry : exec .debugEntry s = .next (if portPermits s then
    { clearSecrets s with boot := { (clearSecrets s).boot with debugOpen := true } } else bypassPort s) := rfl

/-- Settles O47: the entries by `portPermits_iff`, and each part that is cleared by what its sweep makes of every element. -/
theorem testPort : Obligations.TestPort := by
  refine ⟨fun s => ⟨rfl, rfl, rfl⟩, fun s => rfl, fun s hstate => ?_, fun s h0 h1 h4 => ?_, fun s f m k u hwf hf hm hk hu => ?_⟩
  · rw [exec_scanEntry, exec_debugEntry, if_pos (portPermits_iff.2 hstate), if_pos (portPermits_iff.2 hstate)]
    exact ⟨rfl, rfl⟩
  · have hshut : ¬ portPermits s = true := fun hopen => by
      rcases portPermits_iff.1 hopen with h | h | h
      · exact h0 h
      · exact h1 h
      · exact h4 h
    rw [exec_scanEntry, exec_debugEntry, if_neg hshut, if_neg hshut]
    exact ⟨rfl, rfl⟩
  · subst hu
    obtain ⟨hregions, hpond, hdirty, hcopies, hidentity, hblocked⟩ := clearSecrets_device (s := s)
    obtain ⟨hqueue, hwaiting, hinflight, hrows, hrefetch⟩ := clearSecrets_flume hwf hf
    obtain ⟨hretry, hheld⟩ := clearSecrets_sub hwf hk
    obtain ⟨hhopper, hscalars, hvectors⟩ := clearSecrets_mill hwf hm
    exact ⟨hregions, hpond, hdirty, hcopies, hidentity, hblocked, hqueue, hwaiting, hinflight, hrows, hrefetch, hretry, hheld,
      hhopper, hscalars, hvectors⟩

end Sys2Proof.Machine
end

section
/-! BIST admin descriptors (R336 to R338, R341 to R343, R349): the checks, then one lemma per command. That a bay's or an engine's test on a
shut flume only wakes it is the model's choice (log 92), and that an incomplete test neither repairs nor withdraws anything its reading of
R337 (log 51). -/

namespace Sys2Proof.Machine

variable {s : State} {did n : Nat} {d : Desc} {m : List Byte} {ok : Nat → Bool} {run : Desc → List Byte → Nat → State}
  {pass : Bool} {short : Option Nat} {fails : List CellFail}

/-- The selector that a descriptor names its target by. -/
def selectorOf (m : List Byte) : Nat := fieldLe m 0x10 8

/-! The checks (R341, R342). -/

theorem bistRun_checked (hd : adminDesc s did 0x43 = some (d, m)) (hwork : d.work = 0) (hok : ok (selectorOf m) = true)
    (hcheck : bistCheck s did n m = none) (hdma : dmaOpen s (pairHead d.pair) = true) :
    bistRun s did ok n run = run d m (selectorOf m) := by
  rw [selectorOf] at hok ⊢
  simp [bistRun, hd, hwork, hok, hcheck, hdma]

theorem bistRun_fails_check {r : Result} (hd : adminDesc s did 0x43 = some (d, m)) (hwork : d.work = 0) (hok : ok (selectorOf m) = true)
    (hcheck : bistCheck s did n m = some r) : bistRun s did ok n run = finishDesc s did r := by
  rw [selectorOf] at hok
  simp [bistRun, hd, hwork, hok, hcheck]

/-! Records cut short (R337). -/

theorem shortRecord_outcome (r : TestRec) : (shortRecord s r (some n)).outcome =
    if testToken r.testId (n % 2 ^ 64) = testToken r.testId r.expected then r.outcome else 2 := by
  rw [shortRecord]
  split <;> rfl

theorem shortRecord_applied (r : TestRec) : (shortRecord s r (some n)).applied = n % 2 ^ 64 := by
  rw [shortRecord]
  split <;> rfl

/-! The tests that start a descriptor. -/

section
variable (hd : adminDesc s did 0x43 = some (d, m)) (hwork : d.work = 0) (hdma : dmaOpen s (pairHead d.pair) = true)
include hd hwork hdma

theorem exec_bistCopyRecords (hkind : selKind (selectorOf m) = 0) (hcheck : bistCheck s did s.bist.startup.length m = none) :
    exec (.bistCopyRecords did) s = .next (bistEnd s did d m s.bist.startup s.bist.startupFull 0) :=
  congrArg Host.Outcome.next <| bistRun_checked hd hwork (by simp [hkind]) hcheck hdma

/-- The failing cells of a bay that its test names. -/
def bayFails (fails : List CellFail) (v : Nat) : List CellFail :=
  fails.filter fun c => c.bank / 16 == bayKey (selFlume v) (selSub v) (selTier v) && decide (c.row < 8224)

/-- The record of a bay's test. -/
def sliceRecord (s : State) (cs : List CellFail) (v : Nat) (short : Option Nat) : TestRec :=
  shortRecord s (ranRecord v cs.isEmpty (cellCount cs) (cellFail cs)) short

theorem exec_bistDramBay (hkind : selKind (selectorOf m) = 1) (hin : targetOut s (selectorOf m) = false)
    (hcheck : bistCheck s did 1 m = none) :
    exec (.bistDramBay did fails short) s = .next
      (let cs := bayFails fails (selectorOf m)
       let r := sliceRecord s cs (selectorOf m) short
       if flumeOpen s (selFlume (selectorOf m)) then oneRecord (if r.outcome = 1 then repairCells s cs else s) did d m r
       else wakeFlume s (selFlume (selectorOf m))) :=
  congrArg Host.Outcome.next <| bistRun_checked hd hwork (by simp [hkind, hin]) hcheck hdma

/-- A mill leaves dispatch for its test, which ADMIN_BIST_TEST_END ends (R341). -/
theorem exec_bistMill (hkind : selKind (selectorOf m) = 2) (hcheck : bistCheck s did 1 m = none) :
    exec (.bistMill did) s = .next (leaveDispatch (modMill (modDesc s did fun x => { x with work := 4, prog := [selectorOf m] })
      (selFlume (selectorOf m)) fun x => { x with testing := true }) (selFlume (selectorOf m))) :=
  congrArg Host.Outcome.next <| bistRun_checked hd hwork (by simp [hkind]) hcheck hdma

/-- The record of a logic test. -/
def logicRecord (s : State) (v : Nat) (pass : Bool) (short : Option Nat) : TestRec :=
  shortRecord s (ranRecord v pass (logicResult s v pass) 0) short

theorem exec_bistEngine (hkind : selKind (selectorOf m) = 3) (hcheck : bistCheck s did 1 m = none)
    (hopen : flumeOpen s (selFlume (selectorOf m)) = true) :
    exec (.bistEngine did pass short) s = .next
      (let v := selectorOf m
       let r := logicRecord s v pass short
       oneRecord (if r.outcome = 0 then s else if r.outcome = 1 then withdrawSub (bumpFree s) (selFlume v) (selSub v) else bumpFree s)
         did d m r) :=
  congrArg Host.Outcome.next <| (bistRun_checked hd hwork (by simp [hkind]) hcheck hdma).trans <|
    (if_pos hopen).trans (apply_ite (fun x => oneRecord x did d m _) _ _ _).symm

theorem exec_bistLoopTest {loop : LoopRes} (hkind : selKind (selectorOf m) = 4) (hcheck : bistCheck s did 1 m = none) :
    exec (.bistLoopTest did loop short) s = .next
      (let v := selectorOf m
       let r := shortRecord s (ranRecord v loop.wires.isEmpty loop.wires.length (minOf (loop.wires.headD 0) loop.wires)) short
       oneRecord (if r.outcome = 2 then s else loopTest s (selFlume v) (selSub v) loop) did d m r) :=
  congrArg Host.Outcome.next <| bistRun_checked hd hwork (by simp [hkind]) hcheck hdma

/-- A bay that trains waits for its march, and one that does not stays offline (R343). -/
theorem exec_bistRestore {res : PassRes} (hrestore : selRestore (selectorOf m) = true) (hout : targetOut s (selectorOf m) = true)
    (hcheck : bistCheck s did 1 m = none) :
    exec (.bistRestore did res) s = .next
      (let v := selectorOf m
       let s1 := restoreTrain s (selFlume v) (selSub v) (selTier v) res
       if (getBay s1 (bayKey (selFlume v) (selSub v) (selTier v))).trained then modDesc s1 did fun x => { x with work := 4, prog := [v] }
       else oneRecord s1 did d m (notRun v)) :=
  congrArg Host.Outcome.next <| bistRun_checked hd hwork (by simp [hrestore, hout]) hcheck hdma

end

/-! The end of a mill's test and of a restore's march. -/

section
variable (hd : adminDesc s did 0x43 = some (d, m)) (hwork : d.work = 4) (hdma : dmaOpen s (pairHead d.pair) = true)
include hd hwork hdma

/-- A mill's test ends once it runs no part. -/
theorem exec_adminBistTestEnd_mill (hkind : selKind (natAt d.prog 0) = 2) (hidle : (getMill s (selFlume (natAt d.prog 0))).running = none) :
    exec (.adminBistTestEnd did pass fails short) s = .next
      (let v := natAt d.prog 0
       let s1 := modMill s (selFlume v) fun x => { x with testing := false, hopper := [], hopperPoison := [], scalars := [], vectors := [] }
       let r := logicRecord s v pass short
       oneRecord (if r.outcome = 0 then refillMills s1 else if r.outcome = 1 then failMill (bumpFree s1) (selFlume v)
         else refillMills (bumpFree s1)) did d m r) := by
  change execAdminBistTestEnd did pass fails short s = _
  have hgo : ¬ (d.work ≠ 4 ∨ dmaOpen s (pairHead d.pair) = false) := by simp [hwork, hdma]
  have hfree : ¬ (getMill s (selFlume (natAt d.prog 0))).running.isSome = true := by simp [hidle]
  simp only [execAdminBistTestEnd, hd]
  rw [if_neg hgo, if_pos hkind, if_neg hfree]
  rfl

/-- The march of a restore gives the bay back, or takes it offline again (R343). -/
theorem exec_adminBistTestEnd_march (hkind : selKind (natAt d.prog 0) ≠ 2) :
    exec (.adminBistTestEnd did pass fails short) s = .next
      (let v := natAt d.prog 0
       let r := shortRecord s (ranRecord v (pass && fails.isEmpty) (cellCount fails) (cellFail fails)) short
       oneRecord (if r.outcome = 0 then restoreBay s (selFlume v) (selSub v) (selTier v) else bayOffline s (selFlume v) (selSub v) (selTier v))
         did d m r) := by
  change execAdminBistTestEnd did pass fails short s = _
  have hgo : ¬ (d.work ≠ 4 ∨ dmaOpen s (pairHead d.pair) = false) := by simp [hwork, hdma]
  simp only [execAdminBistTestEnd, hd]
  rw [if_neg hgo, if_neg hkind]

end

/-- Settles O45: a descriptor that passes `bistCheck` runs its test and writes its record, and each command has its own kind. The wait on a
shut flume is log 92; what an incomplete test leaves alone is log 51. -/
theorem bistDescriptors : Obligations.BistDescriptors := by
  refine ⟨fun s did d m hd hwork hkind hcheck hdma => exec_bistCopyRecords hd hwork hdma hkind hcheck,
    fun s did fails short d m hd hwork hkind hin hcheck hdma hopen => ?_,
    fun s did d m hd hwork hkind hcheck hdma => exec_bistMill hd hwork hdma hkind hcheck,
    fun s did pass short d m hd hwork hkind hcheck hdma hopen => exec_bistEngine hd hwork hdma hkind hcheck hopen,
    fun s did loop short d m hd hwork hkind hcheck hdma => exec_bistLoopTest hd hwork hdma hkind hcheck,
    fun s did res d m hd hwork hrestore hout hcheck hdma => exec_bistRestore hd hwork hdma hrestore hout hcheck,
    fun s did pass short d m hd hwork hdma hkind hidle => exec_adminBistTestEnd_mill hd hwork hdma hkind hidle,
    fun s did pass fails short d m hd hwork hdma hkind => exec_adminBistTestEnd_march hd hwork hdma hkind,
    fun s did n ok run d m r hd hwork hok hcheck => bistRun_fails_check hd hwork hok hcheck,
    fun s r n => ⟨shortRecord_outcome r, shortRecord_applied r⟩,
    fun s did fails short d m hd hwork hkind hin hcheck hdma hshut => ?_⟩
  · exact (exec_bistDramBay hd hwork hdma hkind hin hcheck).trans <| congrArg Host.Outcome.next (if_pos hopen)
  · exact (exec_bistDramBay hd hwork hdma hkind hin hcheck).trans <| congrArg Host.Outcome.next (if_neg (ne_true_of_eq_false hshut))

end Sys2Proof.Machine
end
